-- ==== Sys2Proof/Word.lean ====
section
/-! DEFINITION. The words of the machine: bytes, registers, and the plainest numbers built on them. -/

namespace Sys2Proof

/-- A byte, the unit of memory (spec/00_scope.md R3). -/
abbrev Byte := BitVec 8

/-- A doubleword: an x register, a CSR, a record field (R3, R7). -/
abbrev Word := BitVec 64

/-- A 32-bit instruction word (spec/03_encoding.md R69). -/
abbrev IWord := BitVec 32

/-- A register number field of five bits (R70). -/
abbrev Reg := BitVec 5

/-- A v register: VLEN = 512 (R67). -/
abbrev VReg := BitVec 512

/-- An accumulator: 4,096 bytes (spec/09_tile.md R255). -/
abbrev AccBits := BitVec 32768

/-- The doubleword that holds a number modulo 2^64. -/
abbrev w64 (n : Nat) : Word := BitVec.ofNat 64 n

end Sys2Proof
end

