-- ==== Sys2Proof/Operand.lean ====
section
/-! DEFINITION. The data that the constructors of Instr carry: hart numbers, the operand forms of the standard
scalar instructions (spec/03_encoding.md R65), and the places and parties that an event of the device names. -/

namespace Sys2Proof

/-- A hart, by its hart number: (global core rank << 3) + slot (spec/00_scope.md R15, R16; spec/03_encoding.md R66). -/
abbrev Hart := Nat

/-- Slot of a hart (R15). -/
def Hart.slot (h : Hart) : Nat := h % 8
/-- Global core rank of a hart (R16). -/
def Hart.gcore (h : Hart) : Nat := h / 8
/-- Core rank of a hart within its cluster (R15). -/
def Hart.core (h : Hart) : Nat := h / 8 % 64
/-- Cluster rank of a hart (R15). -/
def Hart.cl (h : Hart) : Nat := h / 512

/-- Loads of RV64I, F, D and Zfh (R65). -/
inductive LoadKind where
  | lb | lh | lw | ld | lbu | lhu | lwu | flh | flw | fld
deriving DecidableEq, Repr

/-- Stores of RV64I, F, D and Zfh (R65). -/
inductive StoreKind where
  | sb | sh | sw | sd | fsh | fsw | fsd
deriving DecidableEq, Repr

/-- LR, SC and the AMOs (R65, R67). -/
inductive AmoOp where
  | lr | sc | swap | add | xor | and | or | min | max | minu | maxu
deriving DecidableEq, Repr

/-- Access width of an atomic: word or doubleword. -/
inductive AmoWidth where
  | w | d
deriving DecidableEq, Repr

/-- Width of amocas (R67). -/
inductive CasWidth where
  | w | d | q
deriving DecidableEq, Repr

/-- Register-register integer instructions of I, M, Zba, Zbb, Zbs and Zicond. -/
inductive AluOp where
  | add | sub | sll | slt | sltu | xor | srl | sra | or | and
  | mul | mulh | mulhsu | mulhu | div | divu | rem | remu
  | sh1add | sh2add | sh3add | andn | orn | xnor | max | maxu | min | minu | rol | ror
  | bset | bclr | binv | bext | czeroEqz | czeroNez
  | addw | subw | sllw | srlw | sraw | mulw | divw | divuw | remw | remuw
  | addUw | sh1addUw | sh2addUw | sh3addUw | rolw | rorw
deriving DecidableEq, Repr

/-- Immediate instructions with a 12-bit immediate. -/
inductive ImmOp where
  | addi | slti | sltiu | xori | ori | andi | addiw
deriving DecidableEq, Repr

/-- Immediate shifts and single-bit instructions with a 6-bit amount. -/
inductive ShOp where
  | slli | srli | srai | rori | bseti | bclri | binvi | bexti | slliUw
  | slliw | srliw | sraiw | roriw
deriving DecidableEq, Repr

/-- One-operand integer instructions of Zbb. -/
inductive UnOp where
  | clz | ctz | cpop | sextb | sexth | orcb | rev8 | zexth | clzw | ctzw | cpopw
deriving DecidableEq, Repr

/-- Conditional branches. -/
inductive BrOp where
  | beq | bne | blt | bge | bltu | bgeu
deriving DecidableEq, Repr

/-- Scalar floating-point formats (R65: F, D, Zfh). -/
inductive FpFmt where
  | s | d | h
deriving DecidableEq, Repr

/-- Two-operand floating-point instructions with a rounding mode. -/
inductive FpOp2 where
  | add | sub | mul | div
deriving DecidableEq, Repr

/-- Floating-point instructions without a rounding mode. -/
inductive FpOp2n where
  | sgnj | sgnjn | sgnjx | min | max
deriving DecidableEq, Repr

/-- Floating-point comparisons into an x register. -/
inductive FpCmp where
  | le | lt | eq
deriving DecidableEq, Repr

/-- Fused multiply-adds. -/
inductive FmaOp where
  | madd | msub | nmsub | nmadd
deriving DecidableEq, Repr

/-- Integer formats of a conversion: w, wu, l, lu. -/
inductive IntFmt where
  | w | wu | l | lu
deriving DecidableEq, Repr

/-- CSR instructions: the operation; the source is a register or a 5-bit immediate. -/
inductive CsrOp where
  | rw | rs | rc
deriving DecidableEq, Repr

/-- The standard scalar instructions that have no row of their own (row STANDARD_SCALAR_INSTRUCTION). -/
inductive ScalarOp where
  | lui (rd : Reg) (imm : BitVec 20)
  | auipc (rd : Reg) (imm : BitVec 20)
  | jal (rd : Reg) (imm : BitVec 20)
  | jalr (rd rs1 : Reg) (imm : BitVec 12)
  | branch (k : BrOp) (rs1 rs2 : Reg) (imm : BitVec 12)
  | imm (k : ImmOp) (rd rs1 : Reg) (imm : BitVec 12)
  | sh (k : ShOp) (rd rs1 : Reg) (amt : BitVec 6)
  | alu (k : AluOp) (rd rs1 rs2 : Reg)
  | un (k : UnOp) (rd rs1 : Reg)
  | ecall | ebreak | wfi
  | csrRead (op : CsrOp) (immForm : Bool) (rd : Reg) (csr : BitVec 12)
  | fp2 (k : FpOp2) (fmt : FpFmt) (rm : BitVec 3) (rd rs1 rs2 : Reg)
  | fp2n (k : FpOp2n) (fmt : FpFmt) (rd rs1 rs2 : Reg)
  | fcmp (k : FpCmp) (fmt : FpFmt) (rd rs1 rs2 : Reg)
  | fsqrt (fmt : FpFmt) (rm : BitVec 3) (rd rs1 : Reg)
  | fma (k : FmaOp) (fmt : FpFmt) (rm : BitVec 3) (rd rs1 rs2 rs3 : Reg)
  | fclass (fmt : FpFmt) (rd rs1 : Reg)
  | fmvXF (fmt : FpFmt) (rd rs1 : Reg)
  | fmvFX (fmt : FpFmt) (rd rs1 : Reg)
  | fcvtIF (t : IntFmt) (fmt : FpFmt) (rm : BitVec 3) (rd rs1 : Reg)
  | fcvtFI (fmt : FpFmt) (t : IntFmt) (rm : BitVec 3) (rd rs1 : Reg)
  | fcvtFF (dst src : FpFmt) (rm : BitVec 3) (rd rs1 : Reg)
  | vsetvli (rd rs1 : Reg) (imm : BitVec 11)
  | vsetivli (rd uimm : Reg) (imm : BitVec 10)
  | vsetvl (rd rs1 rs2 : Reg)
deriving DecidableEq, Repr

/-- A party that reads or writes device registers (spec/17_queue.md R447, spec/18_link.md R480, R482). -/
inductive Party where
  | host (n : Nat)       -- host number of the host table
  | control (n : Nat)    -- control core n, 0 to 7
  | firmware (cl : Nat)  -- cluster firmware of a cluster (spec/01_device.md R39)
deriving DecidableEq, Repr

/-- What row REGISTER_WRITE writes: a CSR, by a CSR instruction, or a device register. -/
inductive RegWrite where
  | csr (op : CsrOp) (immForm : Bool) (rd src : Reg) (csr : BitVec 12)
  | dev (who : Party) (addr : Nat) (value : Word)
deriving DecidableEq, Repr

/-- Which xRET. -/
inductive XretKind where
  | sret | mret
deriving DecidableEq, Repr

/-- What an uncorrectable error strikes (spec/06_page.md R165, R167; spec/95_what_each_step_holds.md). -/
inductive ErrSite where
  | block (addr : Nat)                     -- a 32-byte block of memory
  | l2Line (cl addr : Nat)                 -- a line of the L2 of a cluster, at this address
  | l1dLine (cl core addr : Nat)           -- a line of the L1D of a core, at this address
  | l1iLine (cl core addr : Nat)           -- a line of the L1I of a core, at this address
  | kennel (cl core ent : Nat)             -- an occupied Kennel entry (R199)
  | accumulator (cl core phys : Nat)       -- a claimed accumulator (R257)
  | barrier (cl bar : Nat)                 -- a barrier entry (R334)
  | windowEntry (cl ent : Nat) (sigLost weightLost : Bool)  -- a Herder window entry (R357)
  | depCounter (cl ent : Nat)              -- a live dependence counter (R358)
  | launchEntry (slot : Nat)               -- a launch-table entry (R379)
  | tracker (cl ent : Nat)                 -- tracker state (R403)
  | terrier (cl q : Nat)                   -- Terrier state (R438)
  | retriever (cl core idx : Nat)          -- a Retriever's buffer (R295)
deriving DecidableEq, Repr

/-- What row TRAP_OR_INTERRUPT takes: an encoding that the decoder rejects (R76), a failed fetch, or the
highest-priority interrupt that is pending and enabled (spec/07_context.md R191). -/
inductive TrapEvent where
  | illegal (bits : IWord)
  | fetchTrap (cause : Nat) (tval : Word)
  | interrupt (h : Hart)
  | raise (h : Hart) (bit : Nat)           -- an interrupt line sets bit `bit` of mip from outside
deriving DecidableEq, Repr

/-- A light record (spec/07_context.md R172). -/
structure LightRec where
  pc     : Nat
  lslot  : Nat
  rx     : Bool
  fp     : Bool
  bh     : Bool
  bad    : Bool          -- bit 63 of doubleword 0
  weight : Nat
  a      : List Word     -- a0 to a5
deriving DecidableEq, Repr, Inhabited

/-- Who sent a light record to an arrival unit, and so who gets the answer (spec/11_group.md R314, R526). -/
inductive RecSource where
  | thread (h : Hart)
  | engine (cl unit : Nat)   -- an engine of a cluster, which holds a refused record (R317): 1 the frontier tracker, 2 to 5 the
                             -- Terriers, 6 the barrier file, 16 + e the spawn unit for window entry e
  | dispatch             -- the dispatch core
  | intake               -- the intake core
deriving DecidableEq, Repr

/-- A host's PCIe access (spec/18_link.md R478 to R481). `dev` names the bridging device of the host. -/
inductive HostReq where
  | readReg (dev addr : Nat)
  | writeReg (dev addr : Nat) (value : Word)
  | readMem (dev addr : Nat)
  | writeMem (dev addr : Nat) (value : Word)   -- a doubleword of device memory
  | ownMem (host addr : Nat) (value : Word)    -- the host stores into its own memory
  | peerMem (home addr : Nat) (value : Word)   -- a peer device stores into its own memory
  | phys (who : Party) (addr : Nat) (value : Option Word)   -- a control core, or the firmware of a cluster, reads or writes
                                                            -- a doubleword of on-package SRAM (spec/01_device.md R39)
deriving DecidableEq, Repr

/-- A graphics agent (spec/17_queue.md R459): 2 rasteriser slice, 3 blend unit, 4 mesh distributor, and its place. -/
structure Agent where
  server : Nat
  place  : Nat
deriving DecidableEq, Repr, Inhabited

end Sys2Proof
end

