-- ==== Sys2Proof/Machine/Bits.lean ====
section
/-! DEFINITION. Bit fields, sign extension and byte order (spec/00_scope.md R2, R3, R7). -/

namespace Sys2Proof.Machine

/-- Bits hi down to lo of a natural number (R2). -/
def fld (n hi lo : Nat) : Nat := (n >>> lo) % 2 ^ (hi + 1 - lo)

/-- Bit i of a natural number. -/
def nbit (n i : Nat) : Bool := n.testBit i

/-- n with bits hi down to lo replaced by v (v is cut to the width of the field). -/
def nput (n hi lo v : Nat) : Nat :=
  n - (fld n hi lo) <<< lo + (v % 2 ^ (hi + 1 - lo)) <<< lo

/-- Bits hi down to lo of a doubleword. -/
def wfld (w : Word) (hi lo : Nat) : Nat := fld w.toNat hi lo

/-- Bit i of a doubleword. -/
def wbit (w : Word) (i : Nat) : Bool := w.getLsbD i

/-- A doubleword with bits hi down to lo replaced. -/
def wput (w : Word) (hi lo v : Nat) : Word := w64 (nput w.toNat hi lo v)

/-- A doubleword with bit i replaced. -/
def wputb (w : Word) (i : Nat) (b : Bool) : Word := wput w i i (if b then 1 else 0)

/-- One bit as a number. -/
def b2n (b : Bool) : Nat := if b then 1 else 0

/-- A truth value as a doubleword. -/
def b2w (b : Bool) : Word := if b then 1#64 else 0#64

/-- The n-bit value v (0 < n ≤ 64) sign-extended to a doubleword (R7). -/
def sextW (v n : Nat) : Word :=
  let x := v % 2 ^ n
  if x.testBit (n - 1) then w64 (2 ^ 64 + x - 2 ^ n) else w64 x

/-- The n-bit value v read as a signed integer. -/
def sint (v n : Nat) : Int :=
  let x := v % 2 ^ n
  if x.testBit (n - 1) then (x : Int) - (2 ^ n : Nat) else x

/-- A signed integer as an n-bit value, modulo 2^n. -/
def uint (i : Int) (n : Nat) : Nat := (i % ((2 ^ n : Nat) : Int)).toNat

/-- The bytes of a number, little-endian, n of them (R3). -/
def leBytes : Nat → Nat → List Byte
  | 0, _ => []
  | n + 1, v => BitVec.ofNat 8 v :: leBytes n (v / 256)

/-- The number that little-endian bytes hold (R3). -/
def leNat : List Byte → Nat
  | [] => 0
  | b :: bs => b.toNat + 256 * leNat bs

/-- a aligned down to a multiple of n. -/
def down (a n : Nat) : Nat := a - a % n

/-- Ceiling of a / n. -/
def ceilDiv (a n : Nat) : Nat := (a + n - 1) / n

/-- Element number k of the list, or the default. -/
def nth {α : Type} (l : List α) (k : Nat) (d : α) : α := l.getD k d

/-- The list with element k replaced. -/
def setNth {α : Type} : List α → Nat → α → List α
  | [], _, _ => []
  | _ :: xs, 0, v => v :: xs
  | x :: xs, k + 1, v => x :: setNth xs k v

/-- The least number below n that satisfies p. -/
def leastBelow (n : Nat) (p : Nat → Bool) : Option Nat := (List.range n).find? p

/-- Number of set bits among the low n bits. -/
def popCount (n v : Nat) : Nat := (List.range n).foldl (fun c i => c + b2n (v.testBit i)) 0

/-- Position of the highest set bit plus one, 0 for 0. -/
def bitLen (v : Nat) : Nat := if v = 0 then 0 else v.log2 + 1

end Sys2Proof.Machine
end

