-- ==== Sys2Proof/Machine/VecForm.lean ====
section
/-! DEFINITION. Which 32-bit words are standard vector instructions of V 1.0 (spec/03_encoding.md R65, R67), read from
the fields of the word alone. What depends on vtype is checked when the instruction runs. The encodings are those of the
standard extension, PRESUMED (log entry 13): spec/ keeps every standard encoding unchanged and does not reprint them. -/

namespace Sys2Proof.Machine

/-- Opcode field of an instruction word (R69). -/
def fOp (w : IWord) : BitVec 7 := w.extractLsb' 0 7
/-- Bits 11:7: rd, vd. -/
def fRd (w : IWord) : Reg := w.extractLsb' 7 5
/-- Bits 14:12: funct3. -/
def fF3 (w : IWord) : BitVec 3 := w.extractLsb' 12 3
/-- Bits 19:15: rs1, vs1. -/
def fRs1 (w : IWord) : Reg := w.extractLsb' 15 5
/-- Bits 24:20: rs2, vs2. -/
def fRs2 (w : IWord) : Reg := w.extractLsb' 20 5
/-- Bits 31:25: funct7. -/
def fF7 (w : IWord) : BitVec 7 := w.extractLsb' 25 7
/-- Bits 31:26: funct6. -/
def fF6 (w : IWord) : Nat := (w.extractLsb' 26 6).toNat
/-- Bit 25: vm. -/
def fVm (w : IWord) : Bool := w.getLsbD 25

/-- funct6 values of OPIVV. -/
def opivv : List Nat :=
  [0x00, 0x02, 0x04, 0x05, 0x06, 0x07, 0x09, 0x0a, 0x0b, 0x0c, 0x0e, 0x10, 0x11, 0x12, 0x13, 0x17,
   0x18, 0x19, 0x1a, 0x1b, 0x1c, 0x1d, 0x20, 0x21, 0x22, 0x23, 0x25, 0x27, 0x28, 0x29, 0x2a, 0x2b,
   0x2c, 0x2d, 0x2e, 0x2f, 0x30, 0x31]
/-- funct6 values of OPIVX. -/
def opivx : List Nat :=
  [0x00, 0x02, 0x03, 0x04, 0x05, 0x06, 0x07, 0x09, 0x0a, 0x0b, 0x0c, 0x0e, 0x0f, 0x10, 0x11, 0x12, 0x13, 0x17,
   0x18, 0x19, 0x1a, 0x1b, 0x1c, 0x1d, 0x1e, 0x1f, 0x20, 0x21, 0x22, 0x23, 0x25, 0x27, 0x28, 0x29, 0x2a, 0x2b,
   0x2c, 0x2d, 0x2e, 0x2f]
/-- funct6 values of OPIVI. -/
def opivi : List Nat :=
  [0x00, 0x03, 0x09, 0x0a, 0x0b, 0x0c, 0x0e, 0x0f, 0x10, 0x11, 0x17, 0x18, 0x19, 0x1c, 0x1d, 0x1e, 0x1f,
   0x20, 0x21, 0x25, 0x27, 0x28, 0x29, 0x2a, 0x2b, 0x2c, 0x2d, 0x2e, 0x2f]
/-- funct6 values of OPMVV. -/
def opmvv : List Nat :=
  [0x00, 0x01, 0x02, 0x03, 0x04, 0x05, 0x06, 0x07, 0x08, 0x09, 0x0a, 0x0b, 0x10, 0x12, 0x14, 0x17,
   0x18, 0x19, 0x1a, 0x1b, 0x1c, 0x1d, 0x1e, 0x1f, 0x20, 0x21, 0x22, 0x23, 0x24, 0x25, 0x26, 0x27,
   0x29, 0x2b, 0x2d, 0x2f, 0x30, 0x31, 0x32, 0x33, 0x34, 0x35, 0x36, 0x37, 0x38, 0x3a, 0x3b, 0x3c, 0x3d, 0x3f]
/-- funct6 values of OPMVX. -/
def opmvx : List Nat :=
  [0x08, 0x09, 0x0a, 0x0b, 0x0e, 0x0f, 0x10, 0x20, 0x21, 0x22, 0x23, 0x24, 0x25, 0x26, 0x27,
   0x29, 0x2b, 0x2d, 0x2f, 0x30, 0x31, 0x32, 0x33, 0x34, 0x35, 0x36, 0x37, 0x38, 0x3a, 0x3b, 0x3c, 0x3d, 0x3e, 0x3f]
/-- funct6 values of OPFVV. -/
def opfvv : List Nat :=
  [0x00, 0x01, 0x02, 0x03, 0x04, 0x05, 0x06, 0x07, 0x08, 0x09, 0x0a, 0x10, 0x12, 0x13, 0x18, 0x19, 0x1b, 0x1c,
   0x20, 0x24, 0x28, 0x29, 0x2a, 0x2b, 0x2c, 0x2d, 0x2e, 0x2f, 0x30, 0x31, 0x32, 0x33, 0x34, 0x36, 0x38,
   0x3c, 0x3d, 0x3e, 0x3f]
/-- funct6 values of OPFVF. -/
def opfvf : List Nat :=
  [0x00, 0x02, 0x04, 0x06, 0x08, 0x09, 0x0a, 0x0e, 0x0f, 0x10, 0x17, 0x18, 0x19, 0x1b, 0x1c, 0x1d, 0x1f,
   0x20, 0x21, 0x24, 0x27, 0x28, 0x29, 0x2a, 0x2b, 0x2c, 0x2d, 0x2e, 0x2f, 0x30, 0x32, 0x34, 0x36, 0x38,
   0x3c, 0x3d, 0x3e, 0x3f]

/-- A legal arithmetic word of opcode OP-V other than the vsetvl family: category, funct6, vm and the unary selector. -/
def vecArith (w : IWord) : Bool :=
  let f6 := fF6 w
  let vm := fVm w
  let s1 := (fRs1 w).toNat
  let s2 := (fRs2 w).toNat
  -- vadc, vsbc and vmerge are masked; vmv and vfmv.v.f are not, and name no vs2
  let carry := if f6 = 0x10 ∨ f6 = 0x12 then !vm else true
  let merge := if f6 = 0x17 then (!vm || s2 == 0) else true
  match (fF3 w).toNat with
  | 0 => opivv.contains f6 && carry && merge
  | 4 => opivx.contains f6 && carry && merge
  | 3 => opivi.contains f6 && carry && merge && (f6 != 0x27 || (vm && [0, 1, 3, 7].contains s1))
  | 2 =>
    opmvv.contains f6 &&
      (if f6 = 0x10 then (s1 == 0 && vm) || s1 == 0x10 || s1 == 0x11
       else if f6 = 0x12 then [2, 3, 4, 5, 6, 7].contains s1
       else if f6 = 0x14 then [1, 2, 3, 0x10].contains s1 || (s1 == 0x11 && s2 == 0)
       else if 0x17 ≤ f6 ∧ f6 ≤ 0x1f then vm
       else true)
  | 6 => opmvx.contains f6 && (f6 != 0x10 || (vm && s2 == 0))
  | 1 =>
    opfvv.contains f6 &&
      (if f6 = 0x10 then s1 == 0 && vm
       else if f6 = 0x12 then
         [0, 1, 2, 3, 6, 7, 8, 9, 0x0a, 0x0b, 0x0c, 0x0e, 0x0f, 0x10, 0x11, 0x12, 0x13, 0x14, 0x15, 0x16, 0x17].contains s1
       else if f6 = 0x13 then [0, 4, 5, 0x10].contains s1
       else true)
  | 5 => opfvf.contains f6 && (f6 != 0x10 || (vm && s2 == 0)) && merge
  | _ => false

/-- A legal vector load (store = false) or store word: width, mew, mop, the unit-stride selector, nf. -/
def vecMem (store : Bool) (w : IWord) : Bool :=
  let f3 := (fF3 w).toNat
  let nf := (w.extractLsb' 29 3).toNat
  let mop := (w.extractLsb' 26 2).toNat
  let sel := (fRs2 w).toNat
  [0, 5, 6, 7].contains f3 && !w.getLsbD 28 &&
    (mop != 0 || sel == 0
      || (sel == 8 && fVm w && [0, 1, 3, 7].contains nf && (!store || f3 == 0))
      || (sel == 0x0b && fVm w && nf == 0 && f3 == 0)
      || (sel == 0x10 && !store))

/-- The word is a standard vector instruction that enters the sequencer (R190). -/
def vecKnown (w : IWord) : Bool :=
  if fOp w = 0x57#7 then vecArith w
  else if fOp w = 0x07#7 then vecMem false w
  else if fOp w = 0x27#7 then vecMem true w
  else false

/-- The word lies in hint space (spec/03_encoding.md R77). -/
def isHintSpace (w : IWord) : Bool := fOp w == 0x0b#7 && fF3 w == 6#3

/-- The word is one of the assigned hints of hint space (R77). -/
def isAssignedHint (w : IWord) : Bool :=
  isHintSpace w && fRd w == 0#5 &&
    (fF7 w == 0#7 || (fF7 w == 1#7 && fRs2 w == 0#5) || (fF7 w == 2#7 && fRs2 w == 0#5 && fRs1 w == 0#5))

/-- The word is a hint that nothing assigns (R77). -/
def isUnassignedHint (w : IWord) : Bool := isHintSpace w && !isAssignedHint w

end Sys2Proof.Machine
end

