-- ==== Sys2Proof/Syntax.lean ====
section
/-! DEFINITION. The instructions and events of the part: one constructor for every row of spec/opcode_table.json,
the constructors without operands last. An instruction carries the fields of its encoding under the table's letters: a is bits 19:15,
b bits 24:20, d bits 11:7, m bit 25 (vm); an accumulator or channel field is three bits wide, since a larger
value is no encoding of the instruction (R70). An event carries the numbers that say where in the device it happens. -/

namespace Sys2Proof

/-- One step of the part: an instruction of a hart or an event of the device. -/
inductive Instr where
  /-- A cluster supply sags past THRESH and, with EN = 1, STRETCH rises by one within 2 ns. (R489) -/
  | supplyThresholdCrossing (cl : Nat)
  /-- Each further 2 ns below the threshold raises STRETCH by one, up to 8. (R489) -/
  | stretchRiseTick (cl : Nat)
  /-- After 64 cycles above the threshold, STRETCH falls by one for each further 64 cycles. (R489) -/
  | stretchFallTick (cl : Nat)
  /-- ECC corrects a single-bit error without effect on software, and the error core counts it. (R164) -/
  | singleBitCorrection (addr : Nat)
  /-- An uncorrectable error poisons its 32-byte block, or fails the structure it strikes, and is charged by R167. (R165) -/
  | uncorrectableError (site : ErrSite)
  /-- A write to a register or CSR that has no row of its own updates its writable fields by its access codes. (R4) -/
  | registerWrite (r : RegWrite)
  /-- A scalar load is translated, checked, and binds a value from cache, scratchpad, vault or memory. (R125) -/
  | scalarLoad (k : LoadKind) (rd rs1 : Reg) (imm : BitVec 12)
  /-- A scalar store is translated, checked and performed at its point of performance. (R125) -/
  | scalarStore (k : StoreKind) (rs1 rs2 : Reg) (imm : BitVec 12)
  /-- An AMO, LR or SC is performed indivisibly at the owning port, bank group, L2 slice or home. (R130) -/
  | atomicAmo (op : AmoOp) (w : AmoWidth) (aq rl : BitVec 1) (rd rs1 rs2 : Reg)
  /-- amocas.w, amocas.d or amocas.q compares and swaps indivisibly at the point of R130. (R130) -/
  | amocas (w : CasWidth) (aq rl : BitVec 1) (rd rs1 rs2 : Reg)
  /-- fence acts as mf.fence.device with the same sets. (R135) -/
  | fence (fm pred succ : BitVec 4) (rs1 rd : Reg)
  /-- fence.tso acts as mf.fence.device rw, rw, except that store-to-load order is not required. (R135) -/
  | fenceTso (rs1 rd : Reg)
  /-- fence.i orders the slot's earlier stores before its own later fetches. (R67) -/
  | fenceI (imm : BitVec 12) (rs1 rd : Reg)
  /-- sfence.vma invalidates matching entries in the core's L1 TLBs and the cluster's L2 TLB, and releases covered fault-pending entries. (R158) -/
  | sfenceVma (rs1 rs2 : Reg)
  /-- sret or mret returns and restarts a frozen sequencer when the target mode is the recorded mode or a lower one. (R194) -/
  | xret (k : XretKind)
  /-- wrs.sto ends after 1,024 core cycles, or wrs.nto below M-mode with TW = 1 raises illegal instruction after 4,096 cycles. (R67) -/
  | wrsTimeout (h : Hart)
  /-- A vector instruction enters the slot's sequencer in program order with its vl, vtype and captured scalar operands. (R190) -/
  | vectorIssue (w : IWord)
  /-- The head sequencer entry checks vstart and runs on the vector unit, leaving vstart = 0 on completion. (R524) -/
  | sequencerHeadExecute (h : Hart)
  /-- The sequencer runs one pass of a captured loop body, advances unit-stride bases and increments vlpidx. (R243) -/
  | loopIteration (h : Hart)
  /-- A trap or interrupt is taken and freezes the sequencer with its entries in place. (R191) -/
  | trapOrInterrupt (k : TrapEvent)
  /-- The count of passed issue turns set by ctx.yield or ctx.spin runs out, and the slot issues again. (R209) -/
  | issuePassExpiry (h : Hart)
  /-- An empty slot is filled from a ready Kennel entry or from the arrival queue, alternating strictly between the two. (R178) -/
  | slotFill (cl core : Nat)
  /-- An arrival unit accepts a light record into its queue or spill ring, or refuses it. (R315) -/
  | lightRecordArrival (cl core : Nat) (src : RecSource) (rec : LightRec)
  /-- An engine offers a held, refused record again, in the same order. (R317) -/
  | recordReoffer (cl : Nat)
  /-- A heavy ctx.sleep ends when another party stores to its cell, consuming a pending wake. (R210) -/
  | sleeperWake (h : Hart)
  /-- A remote load, store or atomic arrives at a scratchpad port and is served in arrival order. (R92) -/
  | remoteScratchpadRequest (cl core : Nat)
  /-- Held accesses wait 65,536 core cycles without a match, so imposition ends with DIVERGED set. (R220) -/
  | scentDivergenceTimeout (cl core : Nat)
  /-- A write of sscent.EN from 0 to 1 resets the sequence number to 0 and clears FULL. (R137) -/
  | scentEnable (value : Word)
  /-- A read miss held for 16 core cycles issues as one sector read or as one 256-byte burst. (R104) -/
  | missHoldExpiry (cl idx : Nat)
  /-- A fill returns to its slice, validates sectors, may create a zero line and answers the waiting misses in order. (R104) -/
  | l2FillReturn (cl idx : Nat)
  /-- A write to a broadcast fill mask is acknowledged after all 64 slices have applied it. (R113) -/
  | broadcastFillMaskWrite (who : Party) (cl cls : Nat) (mask : Word)
  /-- A page walk ends in success, fault or poison, and installs the entry, creates a fault-pending entry or traps. (R159) -/
  | walkComplete (cl idx : Nat)
  /-- A write to a segment register that changes ASID, V or GRP starts zeroing the segment before taking effect. (R311) -/
  | segmentRegisterWrite (who : Party) (cl core seg : Nat) (value : Word)
  /-- The segment's 16 KiB have been zeroed, and the write is acknowledged with its new value. (R311) -/
  | segmentZeroingDone (cl core seg : Nat)
  /-- STATE written 1 moves a Free group to Forming, and its ASID, LAUNCH, CORES and barrier range take effect. (R308) -/
  | groupForm (who : Party) (cl g : Nat) (cores dw1 : Word)
  /-- STATE written 2 moves a Forming group to Live. (R308) -/
  | groupGoLive (who : Party) (cl g : Nat)
  /-- STATE written 3 moves a Live group to Draining. (R308) -/
  | groupDrain (who : Party) (cl g : Nat)
  /-- STATE written 0 frees a Draining group unless segments or barriers still hold it. (R308) -/
  | groupFree (who : Party) (cl g : Nat)
  /-- The dispatch core tells cluster firmware that a group's launch has left Running, so firmware tears the group down. (R308) -/
  | launchEndNotice (cl g : Nat)
  /-- A write of skennel.STATE 1 moves a ready entry to parked, and the write clears sip bit 31. (R179) -/
  | skennelPark (ent : Nat)
  /-- A write of skennel.STATE 2 moves a parked entry to ready. (R179) -/
  | skennelReady (ent : Nat)
  /-- A write of skennel.STATE 0 empties a Failed entry. (R199) -/
  | skennelEmptyFailed (ent : Nat)
  /-- An S-mode or M-mode write of uweight or ulaunch takes effect, and the supervisor must keep the weight whole. (R378) -/
  | uweightWrite (launch : Bool) (value : Word)
  /-- The last header store of a save is performed, the entry empties and its accumulators are freed. (R201) -/
  | kennelSaveComplete (cl core ent : Nat)
  /-- A save store faults, the entry becomes save-stalled and the issuing slot takes interrupt 31. (R197) -/
  | kennelSaveFault (cl core ent : Nat)
  /-- An image read completes and the entry becomes parked or ready by skennel.RDY. (R201) -/
  | kennelLoadComplete (cl core ent : Nat)
  /-- A fault or poisoned block on an image read empties the entry, with interrupt 31 or an error record. (R201) -/
  | kennelLoadFault (cl core ent : Nat)
  /-- Every transfer aimed at a halted core's scratchpad has landed, and the halt becomes quiescent. (R206) -/
  | haltQuiescent (cl core : Nat)
  /-- After quiescence the core's state is copied, the rank table is updated, held messages are delivered and the core resumes. (R219) -/
  | rankMoveComplete (cl : Nat)
  /-- The matrix unit starts the oldest accepted operation of the core's tile queue. (R266) -/
  | tileOpStart (cl core : Nat)
  /-- A tile operation finishes its accumulator writes and memory writes, and PND clears. (R266) -/
  | tileOpComplete (cl core : Nat)
  /-- A multicast piece request opens or joins a combining entry, which closes when it reaches CNT requests. (R270) -/
  | multicastRequest (cl core src tag piece cnt : Nat)
  /-- A combining entry closes 64 core cycles after its first request and sends one read to all joined cores. (R270) -/
  | multicastEntryTimeout (cl core idx : Nat)
  /-- The channel unit cuts the next piece of a request and sends it to its Retriever, at most one per core cycle. (R282) -/
  | channelPieceSend (cl core cid ch : Nat)
  /-- A Retriever takes a piece message and reads and writes its bytes for the owning context. (R284) -/
  | retrieverPiece (cl core idx : Nat)
  /-- A piece completes, the watermark advances and completed requests decrement the signal. (R288) -/
  | pieceLands (cl core idx : Nat)
  /-- A piece fails translation, permission, PMP, range or home, and the channel becomes Faulted. (R293) -/
  | pieceFails (cl core idx : Nat)
  /-- After sent pieces have landed or dropped, a Faulted channel ORs bit 63 into its signal. (R290) -/
  | channelFaultSignal (cl core cid ch : Nat)
  /-- Every sent piece of a cancelling channel has landed or dropped, so the channel closes and xf.cancel retires. (R297) -/
  | channelCancelDrained (cl core cid ch : Nat)
  /-- An element group of a register strip lands in its vector register. (R298) -/
  | stripElementLand (cl core cid strip group : Nat)
  /-- A strip element fails its checks, and the strip becomes Faulted at that element. (R300) -/
  | stripElementFail (cl core cid strip : Nat)
  /-- The Herder dispatches the pooled record of highest effective priority to a free engine of its kind, at most one per cycle. (R351) -/
  | herderDispatch (cl : Nat)
  /-- A pooled record's effective priority rises by one for each full 1,024 core cycles, capped at 3. (R351) -/
  | priorityAging (cl ent : Nat)
  /-- A task's engine finishes and its writes are performed, so the record becomes Done and its signal is decremented. (R352) -/
  | taskEngineFinish (cl ent : Nat)
  /-- An engine reports failure, so the record becomes Failed, its dependants are cancelled and the stream's FAIL is set. (R356) -/
  | taskEngineFailure (cl ent : Nat)
  /-- A finished record's signal is performed and its weight returned, so it retires, frees its window entry and may ready its dependants. (R354) -/
  | taskRetire (cl ent : Nat)
  /-- The spawn unit creates and sends the next child record of a spawn task, at most one per cycle. (R344) -/
  | spawnChildSend (cl ent : Nat)
  /-- A coordinating vault Retriever cuts the next piece of a transfer task and sends it to its moving Retriever. (R343) -/
  | transferTaskPieceCut (cl ent : Nat)
  /-- A band's tracker fires its lowest ready point as a light record while fewer than INFL points are in flight. (R394) -/
  | frontierFire (cl ent : Nat)
  /-- A tracker receives a boundary-line count and raises its ghost copy. (R398) -/
  | frontierMessage (cl ent : Nat)
  /-- Once a boundary line's new count is written to the array and performed, the tracker sends it to the next band. (R398) -/
  | boundaryCountSend (cl ent : Nat)
  /-- No point of any band is running or parked, so a Stopping frontier launch becomes Stopped. (R403) -/
  | frontierStopped (cl ent : Nat)
  /-- A tracker's array access fails or reads poison, so the frontier launch fails. (R403) -/
  | frontierArrayFault (cl ent : Nat)
  /-- A Terrier classifies a node's children for an item and continues, stacks, splits or ends the item. (R424) -/
  | terrierItemStep (cl q : Nat)
  /-- A Terrier access faults, and the query becomes Faulted with the access held. (R438) -/
  | terrierAccessFault (cl q : Nat)
  /-- A Starting launch reads and checks its kernel header, then starts its units or sweeps. (R371) -/
  | launchHeaderCheck (slot : Nat)
  /-- The dispatch core offers a group to a cluster of CMASK, and that cluster's firmware places it or declines. (R373) -/
  | groupOffer (slot : Nat)
  /-- A waiting group is offered again when a resource is freed in a cluster of CMASK. (R373) -/
  | groupReoffer (slot : Nat)
  /-- The dispatch core sends a light unit's record to its owner or to the least-loaded core. (R374) -/
  | lightUnitSend (slot : Nat)
  /-- A sweep stops the launch's units and removes every holder of its weight. (R380) -/
  | sweep (slot : Nat)
  /-- Every party acknowledges the sweep, so the launch becomes Held, writes its failure signal and fails its parent. (R379) -/
  | sweepAcknowledged (slot : Nat)
  /-- A NOP command is handed off and completes when taken. (R453) -/
  | cmdNop (idx : Nat)
  /-- A LAUNCH command reads its descriptor and offers it as krn.launch does under the queue's address space. (R453) -/
  | cmdLaunch (idx : Nat)
  /-- A SIGNAL command atomically adds ARG1 to the doubleword at ARG0 as a release. (R453) -/
  | cmdSignal (idx : Nat)
  /-- A WAIT command reads its doubleword until COND holds against ARG1. (R453) -/
  | cmdWait (idx : Nat)
  /-- A waiting WAIT rereads its doubleword on each notify and at least once every 1,024 intake-core cycles. (R453) -/
  | cmdWaitPoll (idx : Nat)
  /-- A command completes or fails, its signal is written, and an MSI or wake delivery follows when INT = 1. (R454) -/
  | commandCompletion (idx : Nat)
  /-- A write to a queue's notify register sets WR when accepted, or sets ERR 1. (R449) -/
  | queueNotifyWrite (who : Party) (q : Nat) (value : Word)
  /-- CTL.EN written 1 makes a Disabled queue Active or rejects its configuration, and resumes a Stopped queue. (R456) -/
  | queueEnable (who : Party) (q : Nat) (ctl : Word)
  /-- CTL.EN written 0 moves an Active queue to Stopped. (R456) -/
  | queueDisable (who : Party) (q : Nat)
  /-- CTL.RESET written 1 moves the queue to Resetting. (R456) -/
  | queueResetWrite (who : Party) (q : Nat)
  /-- All work of the queue has ended or dropped, so the queue becomes Disabled with RD = WR = 0. (R458) -/
  | queueResetComplete (q : Nat)
  /-- A graphics agent takes the next record of its chosen queue in index order. (R459) -/
  | agentTakeRecord (ag : Agent)
  /-- A rasteriser slice decides coverage of a triangle and emits fragment-block records. (R461) -/
  | triangleRecord (idx : Nat)
  /-- A fragment block is pushed into queue OUT once it has room, and the triangle's signal follows its last block. (R462) -/
  | fragmentBlockPush (idx : Nat)
  /-- A mesh distributor sends each triangle of a draw to the slices whose tiles it touches. (R463) -/
  | drawRecord (idx : Nat)
  /-- Every slice has pushed every block of a draw, and SIG receives -1. (R463) -/
  | drawComplete (idx : Nat)
  /-- A blend unit updates each masked pixel by one 4-byte atomic blend, then writes its signal. (R464) -/
  | pixelUpdateRecord (idx : Nat)
  /-- Link EN written 1 moves a Down link to Training. (R475) -/
  | linkEnable (who : Party) (l : Nat)
  /-- Link EN written 0 moves the link to Down and fails requests whose flits are unacknowledged. (R475) -/
  | linkDisable (who : Party) (l : Nat)
  /-- Training or retraining ends with 8 lanes Up, 4 lanes Degraded, or Failed. (R475) -/
  | linkTrainingComplete (l : Nat) (low high : Bool) (peer : Nat)
  /-- A flit is received and checked by CRC, then delivered in order or replayed. (R473) -/
  | flitReceive (l : Nat) (crcOk : Bool)
  /-- A route-table entry write waits for acknowledgement of messages sent under the old value. (R476) -/
  | routeTableWrite (who : Party) (d : Nat) (value : Byte)
  /-- Once old messages are acknowledged, the new route entry takes effect and waiting messages proceed. (R476) -/
  | routeEntryEffect (d : Nat)
  /-- A host PCIe access takes a host-table entry on first use, and non-owner writes are ignored or dropped. (R479) -/
  | hostRequest (r : HostReq)
  /-- A CLAIM write makes the writer owner when no owner exists and the EPOCH matches. (R480) -/
  | ownershipClaim (host : Nat) (value : Word)
  /-- An owner's HANDOFF write sets OWNER to a successor or to 15 and increments EPOCH. (R480) -/
  | ownershipHandoff (host : Nat) (value : Word)
  /-- A doorbell write queues a 64-byte request in a control core's mailbox, or is dropped and counted. (R483) -/
  | mailboxDoorbell (who : Party) (n : Nat) (value : Word)
  /-- The incoming image reads the hand-over state and takes the mailbox, HSEQ increments and the fuse may rise. (R486) -/
  | handoverCommitPoint (f : Nat)
  /-- The incoming image reports failure, the outgoing image resumes and the staged image is discarded. (R486) -/
  | handoverFailure (f : Nat)
  /-- Writing supply monitor EN = 0 sets STRETCH to 0 at once. (R489) -/
  | supplyMonitorDisable (who : Party) (cl : Nat)
  /-- Hint that prefetches the L2 line, and for lvl 1 the L1D line, holding an address. (R77) -/
  | pgPref (l : BitVec 5) (a : BitVec 5)
  /-- Hint that prefetches 128 bytes into the cluster's L2. (R77) -/
  | bmPref (a : BitVec 5)
  /-- Any other custom-0 funct3 110 encoding executes as a no-op. (R77) -/
  | unassignedHint (w : IWord)
  /-- Scoped fence that waits until predecessor accesses are performed at its scope. (R133) -/
  | mfFence (q : BitVec 4) (p : BitVec 4) (s : BitVec 2)
  /-- Zeroes a 256-byte line, making a zero line where enabled, and clears its poison. (R169) -/
  | pgZero (a : BitVec 5)
  /-- Writes back a line's dirty sectors and leaves it valid and clean. (R169) -/
  | pgClean (a : BitVec 5)
  /-- Discards a line from every L2 of the device and every L1D of the cluster. (R169) -/
  | pgInval (a : BitVec 5)
  /-- Writes back a line's dirty sectors and then discards it. (R169) -/
  | pgFlush (a : BitVec 5)
  /-- Consumes a pending wake, or parks a light thread's record in the cell, or waits as a heavy thread. (R210) -/
  | ctxSleep (a : BitVec 5)
  /-- Delivers a parked record from a wake cell, or marks a wake pending. (R210) -/
  | ctxWake (a : BitVec 5) (d : BitVec 5)
  /-- Writes the thread's slot, core, cluster, device and light flag to rd. (R211) -/
  | ctxSelf (d : BitVec 5)
  /-- Drains the context and writes a checkpoint image, returning the new checkpoint id. (R212) -/
  | ctxCkpt (a : BitVec 5) (d : BitVec 5)
  /-- Returns the old priority and sets a new one, capped at 3. (R213) -/
  | ctxPrio (a : BitVec 5) (d : BitVec 5)
  /-- Creates a light thread on this core with half the spawner's weight. (R322) -/
  | grpSpawn (b : BitVec 5) (a : BitVec 5)
  /-- Creates a light thread at the owner of an address with half the spawner's weight. (R322) -/
  | grpSpawnat (b : BitVec 5) (a : BitVec 5)
  /-- Migrates a light thread to the owner of an address. (R323) -/
  | grpGo (a : BitVec 5)
  /-- Reports the global core rank that owns an address. (R325) -/
  | grpOwner (a : BitVec 5) (d : BitVec 5)
  /-- Reports whether grp.go at an address would continue in place. (R325) -/
  | grpHere (a : BitVec 5) (d : BitVec 5)
  /-- Arms a Free barrier with an owner and a count, or reports 1. (R338) -/
  | barInit (b : BitVec 5) (a : BitVec 5) (d : BitVec 5)
  /-- Arrives at a barrier and returns the phase token. (R338) -/
  | barArrive (a : BitVec 5) (d : BitVec 5)
  /-- Waits or parks until a token passes or the barrier is broken or drained. (R338) -/
  | barWait (b : BitVec 5) (a : BitVec 5) (d : BitVec 5)
  /-- A light thread waiting for a full park store parks as soon as an entry frees. (R336) -/
  | parkStoreEntryFree (h : Hart)
  /-- Arrives once and then waits as bar.wait does. (R338) -/
  | barSync (a : BitVec 5) (d : BitVec 5)
  /-- Lowers the barrier's count, possibly completing the phase or draining the barrier. (R334) -/
  | barDrop (a : BitVec 5)
  /-- Reports a barrier's phase, broken flag and whether a token has passed, without waiting. (R338) -/
  | barTest (b : BitVec 5) (a : BitVec 5) (d : BitVec 5)
  /-- Frees a barrier that has no waiters, or reports 1. (R334) -/
  | barFree (a : BitVec 5) (d : BitVec 5)
  /-- Offers a work descriptor to the dispatch core and returns a handle or a refusal. (R384) -/
  | krnLaunch (a : BitVec 5) (d : BitVec 5)
  /-- Cancels a launch or level and waits until it has ended. (R385) -/
  | krnCancel (a : BitVec 5) (d : BitVec 5)
  /-- Reports the state word of a handle without waiting. (R386) -/
  | krnCount (a : BitVec 5) (d : BitVec 5)
  /-- Adds 2^32 to the collector's issued count and then to uweight. (R387) -/
  | krnBorrow (d : BitVec 5)
  /-- Waits while the target is active, then reports its state word. (R386) -/
  | krnWait (a : BitVec 5) (d : BitVec 5)
  /-- Appends a record to a PUSH queue's ring. (R468) -/
  | qPush (b : BitVec 5) (a : BitVec 5) (d : BitVec 5)
  /-- Copies the head record of a program-served queue and consumes it. (R469) -/
  | qPop (b : BitVec 5) (a : BitVec 5) (d : BitVec 5)
  /-- Copies the head record of a program-served queue without consuming it. (R469) -/
  | qPeek (b : BitVec 5) (a : BitVec 5) (d : BitVec 5)
  /-- Releases, then offers a value as a notify write. (R470) -/
  | qNotify (b : BitVec 5) (a : BitVec 5) (d : BitVec 5)
  /-- Starts a queue reset and waits until the queue is Disabled. (R471) -/
  | qReset (a : BitVec 5) (d : BitVec 5)
  /-- Reports a queue's fill, error, held slots and state. (R472) -/
  | qState (a : BitVec 5) (d : BitVec 5)
  /-- Starts or resumes saving a Kennel or slot context to memory. (R217) -/
  | sysKsave (d : BitVec 5)
  /-- Checks an image header and starts loading it into a Kennel entry. (R218) -/
  | sysKload (a : BitVec 5) (d : BitVec 5)
  /-- Starts moving a core rank to a spare physical core. (R219) -/
  | sysRankset (b : BitVec 5) (a : BitVec 5) (d : BitVec 5)
  /-- Imposes a scent log on the core's port, or reports its status. (R220) -/
  | sysScent (b : BitVec 5) (a : BitVec 5) (d : BitVec 5)
  /-- Halts a core of the cluster for debug, or reports its halt status. (R221) -/
  | sysHalt (a : BitVec 5) (d : BitVec 5)
  /-- Restarts every halted slot of a core and clears STALE. (R221) -/
  | sysResume (a : BitVec 5)
  /-- Fences, then invalidates matching TLB entries across the device. (R222) -/
  | sysTlbinv (b : BitVec 5) (a : BitVec 5)
  /-- Injects a poisoned block or a correctable error into a 32-byte block. (R223) -/
  | sysPoison (b : BitVec 5) (a : BitVec 5)
  /-- Saturating left shift by unmasked per-element amounts. (R230) -/
  | vxSshl (m : BitVec 1) (b : BitVec 5) (a : BitVec 5) (d : BitVec 5)
  /-- Logical right shift by unmasked per-element amounts. (R230) -/
  | vxSrl (m : BitVec 1) (b : BitVec 5) (a : BitVec 5) (d : BitVec 5)
  /-- Arithmetic right shift by unmasked per-element amounts. (R230) -/
  | vxSra (m : BitVec 1) (b : BitVec 5) (a : BitVec 5) (d : BitVec 5)
  /-- Rounding arithmetic right shift by vxrm. (R230) -/
  | vxRsra (m : BitVec 1) (b : BitVec 5) (a : BitVec 5) (d : BitVec 5)
  /-- Absolute difference of signed elements, written unsigned. (R230) -/
  | vxAbsd (m : BitVec 1) (b : BitVec 5) (a : BitVec 5) (d : BitVec 5)
  /-- Rounded average of signed elements. (R230) -/
  | vxAvgr (m : BitVec 1) (b : BitVec 5) (a : BitVec 5) (d : BitVec 5)
  /-- Floating-point tree-sum reduction into element 0. (R234) -/
  | vxFredtsum (m : BitVec 1) (b : BitVec 5) (a : BitVec 5) (d : BitVec 5)
  /-- Tree dot product of exact products accumulated into element 0. (R235) -/
  | vxFdott (m : BitVec 1) (b : BitVec 5) (a : BitVec 5) (d : BitVec 5)
  /-- Pushes v0 onto the mask stack and ANDs v0 with a condition. (R239) -/
  | vxMif (b : BitVec 5)
  /-- Inclusive integer add scan. (R233) -/
  | vxScanadd (m : BitVec 1) (b : BitVec 5) (a : BitVec 5) (d : BitVec 5)
  /-- Signed running minimum. (R233) -/
  | vxScanmin (m : BitVec 1) (b : BitVec 5) (a : BitVec 5) (d : BitVec 5)
  /-- Signed running maximum. (R233) -/
  | vxScanmax (m : BitVec 1) (b : BitVec 5) (a : BitVec 5) (d : BitVec 5)
  /-- Unsigned running minimum. (R233) -/
  | vxScanminn (m : BitVec 1) (b : BitVec 5) (a : BitVec 5) (d : BitVec 5)
  /-- Unsigned running maximum. (R233) -/
  | vxScanmaxn (m : BitVec 1) (b : BitVec 5) (a : BitVec 5) (d : BitVec 5)
  /-- Floating-point inclusive add scan rounded by frm. (R233) -/
  | vxFscanadd (m : BitVec 1) (b : BitVec 5) (a : BitVec 5) (d : BitVec 5)
  /-- Exclusive integer add scan. (R233) -/
  | vxEscanadd (m : BitVec 1) (b : BitVec 5) (a : BitVec 5) (d : BitVec 5)
  /-- Samples a texture per element into packed RGBA8. (R253) -/
  | vxTex (m : BitVec 1) (b : BitVec 5) (a : BitVec 5) (d : BitVec 5)
  /-- Gathers one channel of four texels per element. (R253) -/
  | vxTexg (m : BitVec 1) (b : BitVec 5) (a : BitVec 5) (d : BitVec 5)
  /-- Saturating left shift by a scalar amount. (R230) -/
  | vxSshlx (m : BitVec 1) (b : BitVec 5) (a : BitVec 5) (d : BitVec 5)
  /-- Logical right shift by a scalar amount. (R230) -/
  | vxSrlx (m : BitVec 1) (b : BitVec 5) (a : BitVec 5) (d : BitVec 5)
  /-- Arithmetic right shift by a scalar amount. (R230) -/
  | vxSrax (m : BitVec 1) (b : BitVec 5) (a : BitVec 5) (d : BitVec 5)
  /-- Waits until the captured loop reaches an index or ends, then returns vlpidx. (R246) -/
  | vxLwait (a : BitVec 5) (d : BitVec 5)
  /-- Captures the next n vector instructions and replays them a counted number of times. (R243) -/
  | vxLoop (n : BitVec 4) (a : BitVec 5)
  /-- Wrapping add of 8-bit lanes. (R231) -/
  | pkAdd8 (b : BitVec 5) (a : BitVec 5) (d : BitVec 5)
  /-- Wrapping add of 16-bit lanes. (R231) -/
  | pkAdd16 (b : BitVec 5) (a : BitVec 5) (d : BitVec 5)
  /-- Wrapping subtract of 8-bit lanes. (R231) -/
  | pkSub8 (b : BitVec 5) (a : BitVec 5) (d : BitVec 5)
  /-- Wrapping subtract of 16-bit lanes. (R231) -/
  | pkSub16 (b : BitVec 5) (a : BitVec 5) (d : BitVec 5)
  /-- Unsigned saturating add of 8-bit lanes. (R231) -/
  | pkAdds8n (b : BitVec 5) (a : BitVec 5) (d : BitVec 5)
  /-- Unsigned saturating subtract of 8-bit lanes. (R231) -/
  | pkSubs8n (b : BitVec 5) (a : BitVec 5) (d : BitVec 5)
  /-- Logical left shift of 8-bit lanes by unmasked amounts. (R232) -/
  | pkSll8 (b : BitVec 5) (a : BitVec 5) (d : BitVec 5)
  /-- Logical left shift of 16-bit lanes by unmasked amounts. (R232) -/
  | pkSll16 (b : BitVec 5) (a : BitVec 5) (d : BitVec 5)
  /-- Logical right shift of 8-bit lanes. (R232) -/
  | pkSrl8 (b : BitVec 5) (a : BitVec 5) (d : BitVec 5)
  /-- Logical right shift of 16-bit lanes. (R232) -/
  | pkSrl16 (b : BitVec 5) (a : BitVec 5) (d : BitVec 5)
  /-- Arithmetic right shift of 8-bit lanes. (R232) -/
  | pkSra8 (b : BitVec 5) (a : BitVec 5) (d : BitVec 5)
  /-- Arithmetic right shift of 16-bit lanes. (R232) -/
  | pkSra16 (b : BitVec 5) (a : BitVec 5) (d : BitVec 5)
  /-- High byte of the signed 16-bit product of 8-bit lanes. (R232) -/
  | pkMul8h (b : BitVec 5) (a : BitVec 5) (d : BitVec 5)
  /-- Unsigned rounded average of 8-bit lanes. (R231) -/
  | pkAvg8 (b : BitVec 5) (a : BitVec 5) (d : BitVec 5)
  /-- Unsigned maximum of 8-bit lanes. (R231) -/
  | pkMax8n (b : BitVec 5) (a : BitVec 5) (d : BitVec 5)
  /-- Unsigned minimum of 8-bit lanes. (R231) -/
  | pkMin8n (b : BitVec 5) (a : BitVec 5) (d : BitVec 5)
  /-- Encodes binary32 elements to M8D with a saturation bit. (R247) -/
  | vxCvtm8 (m : BitVec 1) (b : BitVec 5) (s : BitVec 1) (d : BitVec 5)
  /-- Decodes M8D elements to binary32. (R247) -/
  | vxCvtfm8 (m : BitVec 1) (b : BitVec 5) (d : BitVec 5)
  /-- Decodes M8D elements with S8 block scales into binary32. (R248) -/
  | vxBsdec (m : BitVec 1) (b : BitVec 5) (a : BitVec 5) (d : BitVec 5)
  /-- Encodes binary32 elements to M8D under S8 block scales. (R248) -/
  | vxBsenc (m : BitVec 1) (b : BitVec 5) (a : BitVec 5) (d : BitVec 5)
  /-- Finds one S8 scale code per block. (R249) -/
  | vxBsfind (m : BitVec 1) (b : BitVec 5) (d : BitVec 5)
  /-- Zeroes an accumulator and clears its ERR. (R276) -/
  | tlZero (d : BitVec 3)
  /-- Matrix multiply-accumulate into an accumulator. (R275) -/
  | tlMma (b : BitVec 5) (a : BitVec 5) (d : BitVec 3)
  /-- Block-scaled matrix multiply-accumulate. (R275) -/
  | tlMmas (b : BitVec 5) (a : BitVec 5) (d : BitVec 3)
  /-- Loads an accumulator's C from scratchpad. (R276) -/
  | tlLd (a : BitVec 5) (d : BitVec 3)
  /-- Stores an accumulator's C in its own format. (R277) -/
  | tlSt (a : BitVec 5) (d : BitVec 3)
  /-- Stores an accumulator's C narrowed to OFMT. (R277) -/
  | tlStc (a : BitVec 5) (d : BitVec 3)
  /-- Adds one accumulator into another. (R276) -/
  | tlAdd (a : BitVec 3) (d : BitVec 3)
  /-- Binds accumulator names to free physical accumulators, all or none. (R278) -/
  | tlClaim (a : BitVec 5) (d : BitVec 5)
  /-- Releases accumulator names once their pending operations complete. (R278) -/
  | tlFree (a : BitVec 5)
  /-- Waits for tile operations on covered accumulators, then acquires. (R279) -/
  | tlWait (a : BitVec 5)
  /-- Reports tile queue, free, error, pending and claimed state. (R279) -/
  | tlState (d : BitVec 5)
  /-- Copies an accumulator row into a vector register group. (R280) -/
  | tlRowv (b : BitVec 3) (a : BitVec 5) (d : BitVec 5)
  /-- Copies a vector register group into an accumulator row. (R280) -/
  | tlVrow (b : BitVec 5) (a : BitVec 5) (d : BitVec 3)
  /-- Opens a transfer channel over a descriptor. (R303) -/
  | xfOpen (a : BitVec 5) (d : BitVec 3)
  /-- Waits for a channel's requests to land, then closes it. (R305) -/
  | xfClose (d : BitVec 3)
  /-- Waits until a channel's watermark reaches a level. (R305) -/
  | xfWm (a : BitVec 5) (d : BitVec 3)
  /-- Waits until a channel's watermark reaches its issue pointer. (R305) -/
  | xfWait (d : BitVec 3)
  /-- Stops a channel's pieces and waits for in-flight pieces to drain. (R305) -/
  | xfCancel (d : BitVec 3)
  /-- Appends a get request that copies a layout into the channel range. (R304) -/
  | xfGet (b : BitVec 5) (a : BitVec 5) (d : BitVec 3)
  /-- Appends a put request that copies the channel range to a layout. (R304) -/
  | xfPut (b : BitVec 5) (a : BitVec 5) (d : BitVec 3)
  /-- Starts a register strip that loads strided elements into a vector group. (R306) -/
  | xfVget (b : BitVec 5) (a : BitVec 5) (d : BitVec 5)
  /-- Waits until no pending strip writes a vector register. (R306) -/
  | xfVwait (d : BitVec 5)
  /-- Offers a task record to the Herder, deriving its edges. (R361) -/
  | tskPut (a : BitVec 5) (d : BitVec 5)
  /-- Waits while a task record is active, then reports its status. (R362) -/
  | tskWait (a : BitVec 5) (d : BitVec 5)
  /-- Reports a task record's status without waiting. (R362) -/
  | tskPoll (a : BitVec 5) (d : BitVec 5)
  /-- Cancels a task record and waits for it to retire. (R363) -/
  | tskCancel (a : BitVec 5) (d : BitVec 5)
  /-- Waits until selected records in the window have retired, then acquires. (R364) -/
  | tskFence (a : BitVec 5) (d : BitVec 5)
  /-- Reads a stream's state, or clears FAIL, or sets or clears STOPPED. (R365) -/
  | tskStream (b : BitVec 5) (a : BitVec 5) (d : BitVec 5)
  /-- Offers a beam query block to a Terrier. (R442) -/
  | bmQuery (a : BitVec 5) (d : BitVec 5)
  /-- Restarts a Faulted query and waits while it runs. (R443) -/
  | bmWait (a : BitVec 5) (d : BitVec 5)
  /-- Reports a query's status without waiting. (R443) -/
  | bmPoll (a : BitVec 5) (d : BitVec 5)
  /-- Splits a split record in place and hands the other children to the Terrier. (R444) -/
  | bmSplit (a : BitVec 5) (d : BitVec 5)
  /-- Hands a record back as an item, releases a split slot, or both. (R445) -/
  | bmResume (b : BitVec 5) (a : BitVec 5) (d : BitVec 5)
  /-- Cancels a query and waits for its items and weight to be dropped. (R446) -/
  | bmCancel (a : BitVec 5) (d : BitVec 5)
  /-- Starts a frontier launch from a descriptor. (R409) -/
  | fntLaunch (a : BitVec 5) (d : BitVec 5)
  /-- Reports a fired point complete to its band's tracker. (R410) -/
  | fntDone (b : BitVec 5) (a : BitVec 5)
  /-- Stops a frontier launch and writes its frontier record. (R411) -/
  | fntSave (b : BitVec 5) (a : BitVec 5) (d : BitVec 5)
  /-- Starts a frontier launch from a descriptor and a saved frontier record. (R409) -/
  | fntLoad (b : BitVec 5) (a : BitVec 5) (d : BitVec 5)
  /-- Reports a frontier launch's state word without waiting. (R412) -/
  | fntQuery (a : BitVec 5) (d : BitVec 5)
  /-- Cancels a frontier launch and waits for its weight to return. (R413) -/
  | fntCancel (a : BitVec 5) (d : BitVec 5)
  /-- Waits while a frontier launch is Running or Stopping, then reports its state. (R412) -/
  | fntWait (a : BitVec 5) (d : BitVec 5)
  /-- A standard RV64 instruction that is no load, store, AMO, fence or vector instruction executes: integer and floating-point arithmetic, branches, jumps, CSR reads, ecall, ebreak, wfi, and the vsetvl family, which writes vl and vtype (vbs included) and resets vstart. (R65) -/
  | standardScalarInstruction (op : ScalarOp)
  /-- A cluster's supply rises back above THRESH, which ends the rise of STRETCH and starts the 64-cycle count after which STRETCH falls. (R489) -/
  | supplyAboveThreshold (cl : Nat)
  /-- Memory acknowledges a written-back sector or an uncached access, and the write that waited for it, such as pg.clean, pg.flush or an eviction, becomes performed at device scope. (R171) -/
  | memoryAcknowledgement (idx : Nat)
  /-- Power is applied and every field that package reset leaves unchanged holds 0. (R6) -/
  | powerOn
  /-- Package reset returns every register, table, queue, context and engine to its reset state and loads each rank table from fuses. (R6) -/
  | packageReset
  /-- wrs.nto waits on its reservation and passes its issue turns to the slot's siblings. (R67) -/
  | wrsNto
  /-- wrs.sto waits on its reservation for at most 1,024 core cycles. (R67) -/
  | wrsSto
  /-- A weight message reaches a launch's collector and is added atomically to issued or returned. (R376) -/
  | collectorWeightMessage
  /-- In each intake-core cycle with a free slot, the next command of the chosen ready queue is taken and RD increments. (R455) -/
  | intakeTake
  /-- The security core writes a signed attestation report fixed at its answer. (R488) -/
  | reqAttest
  /-- The security core checks and stages a firmware image for a function. (R486) -/
  | reqStage
  /-- A staged function begins hand-over and its mailbox holds new requests. (R486) -/
  | reqCommit
  /-- A function's staged image is discarded. (R486) -/
  | reqAbort
  /-- A wrapped key is unwrapped under the transport key into an empty key slot. (R484) -/
  | reqKeyload
  /-- L2 lines under a key index are written back and invalidated, and the key slot is emptied. (R484) -/
  | reqKeyclear
  /-- The transport key is set once per package reset. (R483) -/
  | reqTkset
  /-- A control core replies with its function number and running version. (R485) -/
  | reqPing
  /-- The dispatch core replies with the krn.count word of a handle for an ASID. (R485) -/
  | reqKstate
  /-- The dispatch core cancels a launch or level as krn.cancel does and replies once it has ended. (R485) -/
  | reqKcancel
  /-- The memory core reads and rewrites an HBM range, counting and logging errors. (R485) -/
  | reqScrub
  /-- The error core replies with its error counts. (R485) -/
  | reqEcount
  /-- The power core replies with a cluster's supply monitor register. (R485) -/
  | reqMonread
  /-- The link core sends an Up or Degraded link to Retraining. (R485) -/
  | reqRetrain
  /-- The debug core halts a core as sys.halt does and replies with its status. (R485) -/
  | reqHalt
  /-- The debug core resumes a core as sys.resume does. (R485) -/
  | reqResume
  /-- The debug core copies a halted core's context image, scratchpad or status to memory. (R485) -/
  | reqHread
  /-- A request whose OP its target core does not list is answered with status 2. (R483) -/
  | reqUnknownOp
  /-- The error core appends an arriving error record to the log, or drops and counts it, then sends the owner an MSI-X. (R490) -/
  | errorRecord
  /-- Hint that passes the slot's issue turns for 32 core cycles. (R77) -/
  | ctxSpin
  /-- Passes issue turns for eight cycles, raising a software interrupt when YIE = 1. (R209) -/
  | ctxYield
  /-- Ends a heavy thread, freeing accumulators, closing channels and returning its weight. (R214) -/
  | ctxExit
  /-- Ends a light thread and returns its weight to the collector. (R324) -/
  | grpExit
  /-- Exchanges a slot's context with a Kennel entry's context. (R216) -/
  | sysKswap
  /-- Sets v0 to the top mask level AND NOT v0. (R239) -/
  | vxMelse
  /-- Pops the mask stack into v0. (R239) -/
  | vxMpop
deriving DecidableEq, Repr

end Sys2Proof
end

