-- ==== Sys2Proof/WellFormed.lean ====
section
/-! DEFINITION. Which terms of Instr stand for an encodable instruction or a possible event: the limits of operands
that the field widths do not already impose. -/

namespace Sys2Proof

/-- Numbers of a core: cluster rank below 40, core rank below 64 (spec/00_scope.md R15). -/
def coreOk (cl core : Nat) : Bool := decide (cl < 40) && decide (core < 64)

/-- A hart of the device (R15). -/
def hartOk (h : Hart) : Bool := decide (h < 20480)

/-- A rounding-mode field that R67 accepts: 0b000 to 0b100 and 0b111. -/
def rmOk (rm : BitVec 3) : Bool := rm != 5#3 && rm != 6#3

/-- The 32-bit immediate shifts take five bits of amount. -/
def shOk (k : ShOp) (amt : BitVec 6) : Bool :=
  match k with
  | .slliw | .srliw | .sraiw | .roriw => !amt.getLsbD 5
  | _ => true

/-- Limits of the standard scalar instructions. -/
def ScalarOp.wf : ScalarOp → Bool
  | .sh k _ _ amt => shOk k amt
  | .fp2 _ _ rm _ _ _ => rmOk rm
  | .fsqrt _ rm _ _ => rmOk rm
  | .fma _ _ rm _ _ _ _ => rmOk rm
  | .fcvtIF _ _ rm _ _ => rmOk rm
  | .fcvtFI _ _ rm _ _ => rmOk rm
  | .fcvtFF dst src rm _ _ => rmOk rm && dst != src
  | .csrRead op _ _ _ => op != .rw      -- csrrw always writes
  | _ => true

/-- A party of the device. -/
def Party.wf : Party → Bool
  | .host _ => true
  | .control n => decide (n < 8)
  | .firmware cl => decide (cl < 40)

/-- The term is well formed. -/
def Instr.wf : Instr → Bool
  | .registerWrite (.csr op _ _ src _) => op == .rw || src != 0#5
  | .registerWrite (.dev who _ _) => who.wf
  | .atomicAmo op _ _ _ _ _ rs2 => op != .lr || rs2 == 0#5
  | .amocas w _ _ rd _ rs2 => w != .q || (!rd.getLsbD 0 && !rs2.getLsbD 0)
  | .fence fm pred succ _ _ => !(fm == 8#4 && pred == 3#4 && succ == 3#4)
  | .vectorIssue w => Machine.vecKnown w
  | .unassignedHint w => Machine.isUnassignedHint w
  | .standardScalarInstruction op => op.wf
  | .wrsTimeout h | .sequencerHeadExecute h | .loopIteration h | .issuePassExpiry h | .sleeperWake h
  | .parkStoreEntryFree h => hartOk h
  | .supplyThresholdCrossing cl | .stretchRiseTick cl | .stretchFallTick cl | .supplyAboveThreshold cl
  | .recordReoffer cl | .rankMoveComplete cl | .herderDispatch cl => decide (cl < 40)
  | .slotFill cl core | .lightRecordArrival cl core _ _ | .remoteScratchpadRequest cl core
  | .scentDivergenceTimeout cl core | .haltQuiescent cl core | .tileOpStart cl core
  | .tileOpComplete cl core => coreOk cl core
  | .queueNotifyWrite who q _ | .queueEnable who q _ | .queueDisable who q | .queueResetWrite who q =>
    who.wf && decide (q < 16384)
  | .queueResetComplete q => decide (q < 16384)
  | .linkEnable who l | .linkDisable who l => who.wf && decide (l < 24)
  | .linkTrainingComplete l _ _ _ => decide (l < 24)
  | .flitReceive l _ => decide (l < 24)
  | .skennelPark e | .skennelReady e | .skennelEmptyFailed e => decide (e < 32)
  | _ => true

end Sys2Proof
end

