-- ==== Sys2Proof/Decode.lean ====
section
/-! DEFINITION. From bytes to instructions and back (spec/03_encoding.md R65 to R79). decode is total and rejects by
name; every rejection is an illegal instruction (R76). The encodings of the standard base are those of the standard
extensions, PRESUMED (log entry 13); the Ramzil encodings follow R69 to R74. -/

namespace Sys2Proof

open Sys2Proof.Machine

/-- Why a word is no instruction (R76). -/
inductive Reject where
  | tooShort          -- fewer bytes than the length the low bits mark
  | longEncoding      -- 48 bits or more
  | unknownOpcode     -- no major opcode of the part
  | reservedGroup     -- a reserved funct3 group of the custom opcodes
  | unassignedFunct   -- a function value beyond the last one assigned
  | unusedField       -- a nonzero unused field, or a macc or channel field above 7
  | maskForm          -- vm = 0 where the entry gives no masked form
  | reservedForm      -- a reserved encoding of a standard instruction
deriving DecidableEq, Repr

/-- A word in one of the formats of R69, from its fields. -/
def rzWord (f7 : BitVec 7) (rs2 rs1 : Reg) (f3 : BitVec 3) (rd : Reg) (op : BitVec 7) : IWord :=
  f7 ++ rs2 ++ rs1 ++ f3 ++ rd ++ op

/-! ### Standard scalar encodings -/

/-- opcode, funct7 and funct3 of a register-register instruction. -/
def AluOp.code : AluOp → BitVec 7 × BitVec 7 × BitVec 3
  | .add => (0x33#7, 0x00#7, 0#3) | .sub => (0x33#7, 0x20#7, 0#3) | .sll => (0x33#7, 0x00#7, 1#3)
  | .slt => (0x33#7, 0x00#7, 2#3) | .sltu => (0x33#7, 0x00#7, 3#3) | .xor => (0x33#7, 0x00#7, 4#3)
  | .srl => (0x33#7, 0x00#7, 5#3) | .sra => (0x33#7, 0x20#7, 5#3) | .or => (0x33#7, 0x00#7, 6#3)
  | .and => (0x33#7, 0x00#7, 7#3)
  | .mul => (0x33#7, 0x01#7, 0#3) | .mulh => (0x33#7, 0x01#7, 1#3) | .mulhsu => (0x33#7, 0x01#7, 2#3)
  | .mulhu => (0x33#7, 0x01#7, 3#3) | .div => (0x33#7, 0x01#7, 4#3) | .divu => (0x33#7, 0x01#7, 5#3)
  | .rem => (0x33#7, 0x01#7, 6#3) | .remu => (0x33#7, 0x01#7, 7#3)
  | .sh1add => (0x33#7, 0x10#7, 2#3) | .sh2add => (0x33#7, 0x10#7, 4#3) | .sh3add => (0x33#7, 0x10#7, 6#3)
  | .andn => (0x33#7, 0x20#7, 7#3) | .orn => (0x33#7, 0x20#7, 6#3) | .xnor => (0x33#7, 0x20#7, 4#3)
  | .max => (0x33#7, 0x05#7, 6#3) | .maxu => (0x33#7, 0x05#7, 7#3) | .min => (0x33#7, 0x05#7, 4#3)
  | .minu => (0x33#7, 0x05#7, 5#3) | .rol => (0x33#7, 0x30#7, 1#3) | .ror => (0x33#7, 0x30#7, 5#3)
  | .bset => (0x33#7, 0x14#7, 1#3) | .bclr => (0x33#7, 0x24#7, 1#3) | .binv => (0x33#7, 0x34#7, 1#3)
  | .bext => (0x33#7, 0x24#7, 5#3) | .czeroEqz => (0x33#7, 0x07#7, 5#3) | .czeroNez => (0x33#7, 0x07#7, 7#3)
  | .addw => (0x3b#7, 0x00#7, 0#3) | .subw => (0x3b#7, 0x20#7, 0#3) | .sllw => (0x3b#7, 0x00#7, 1#3)
  | .srlw => (0x3b#7, 0x00#7, 5#3) | .sraw => (0x3b#7, 0x20#7, 5#3) | .mulw => (0x3b#7, 0x01#7, 0#3)
  | .divw => (0x3b#7, 0x01#7, 4#3) | .divuw => (0x3b#7, 0x01#7, 5#3) | .remw => (0x3b#7, 0x01#7, 6#3)
  | .remuw => (0x3b#7, 0x01#7, 7#3) | .addUw => (0x3b#7, 0x04#7, 0#3) | .sh1addUw => (0x3b#7, 0x10#7, 2#3)
  | .sh2addUw => (0x3b#7, 0x10#7, 4#3) | .sh3addUw => (0x3b#7, 0x10#7, 6#3) | .rolw => (0x3b#7, 0x30#7, 1#3)
  | .rorw => (0x3b#7, 0x30#7, 5#3)

/-- Every register-register instruction. -/
def AluOp.all : List AluOp :=
  [.add, .sub, .sll, .slt, .sltu, .xor, .srl, .sra, .or, .and, .mul, .mulh, .mulhsu, .mulhu, .div, .divu, .rem, .remu,
   .sh1add, .sh2add, .sh3add, .andn, .orn, .xnor, .max, .maxu, .min, .minu, .rol, .ror, .bset, .bclr, .binv, .bext,
   .czeroEqz, .czeroNez] ++
  [.addw, .subw, .sllw, .srlw, .sraw, .mulw, .divw, .divuw, .remw, .remuw, .addUw, .sh1addUw, .sh2addUw, .sh3addUw,
   .rolw, .rorw]

/-- opcode and funct3 of an immediate instruction. -/
def ImmOp.code : ImmOp → BitVec 7 × BitVec 3
  | .addi => (0x13#7, 0#3) | .slti => (0x13#7, 2#3) | .sltiu => (0x13#7, 3#3) | .xori => (0x13#7, 4#3)
  | .ori => (0x13#7, 6#3) | .andi => (0x13#7, 7#3) | .addiw => (0x1b#7, 0#3)

/-- Every immediate instruction. -/
def ImmOp.all : List ImmOp := [.addi, .slti, .sltiu, .xori, .ori, .andi, .addiw]

/-- opcode, funct6 and funct3 of an immediate shift. -/
def ShOp.code : ShOp → BitVec 7 × BitVec 6 × BitVec 3
  | .slli => (0x13#7, 0x00#6, 1#3) | .srli => (0x13#7, 0x00#6, 5#3) | .srai => (0x13#7, 0x10#6, 5#3)
  | .rori => (0x13#7, 0x18#6, 5#3) | .bseti => (0x13#7, 0x0a#6, 1#3) | .bclri => (0x13#7, 0x12#6, 1#3)
  | .binvi => (0x13#7, 0x1a#6, 1#3) | .bexti => (0x13#7, 0x12#6, 5#3) | .slliUw => (0x1b#7, 0x02#6, 1#3)
  | .slliw => (0x1b#7, 0x00#6, 1#3) | .srliw => (0x1b#7, 0x00#6, 5#3) | .sraiw => (0x1b#7, 0x10#6, 5#3)
  | .roriw => (0x1b#7, 0x18#6, 5#3)

/-- Every immediate shift. -/
def ShOp.all : List ShOp :=
  [.slli, .srli, .srai, .rori, .bseti, .bclri, .binvi, .bexti, .slliUw, .slliw, .srliw, .sraiw, .roriw]

/-- opcode, immediate field and funct3 of a one-operand instruction of Zbb. -/
def UnOp.code : UnOp → BitVec 7 × BitVec 12 × BitVec 3
  | .clz => (0x13#7, 0x600#12, 1#3) | .ctz => (0x13#7, 0x601#12, 1#3) | .cpop => (0x13#7, 0x602#12, 1#3)
  | .sextb => (0x13#7, 0x604#12, 1#3) | .sexth => (0x13#7, 0x605#12, 1#3) | .orcb => (0x13#7, 0x287#12, 5#3)
  | .rev8 => (0x13#7, 0x6b8#12, 5#3) | .zexth => (0x3b#7, 0x080#12, 4#3) | .clzw => (0x1b#7, 0x600#12, 1#3)
  | .ctzw => (0x1b#7, 0x601#12, 1#3) | .cpopw => (0x1b#7, 0x602#12, 1#3)

/-- Every one-operand instruction. -/
def UnOp.all : List UnOp := [.clz, .ctz, .cpop, .sextb, .sexth, .orcb, .rev8, .zexth, .clzw, .ctzw, .cpopw]

/-- funct3 of a load, and whether it is a floating-point load. -/
def LoadKind.code : LoadKind → BitVec 7 × BitVec 3
  | .lb => (0x03#7, 0#3) | .lh => (0x03#7, 1#3) | .lw => (0x03#7, 2#3) | .ld => (0x03#7, 3#3)
  | .lbu => (0x03#7, 4#3) | .lhu => (0x03#7, 5#3) | .lwu => (0x03#7, 6#3)
  | .flh => (0x07#7, 1#3) | .flw => (0x07#7, 2#3) | .fld => (0x07#7, 3#3)

/-- Every scalar load. -/
def LoadKind.all : List LoadKind := [.lb, .lh, .lw, .ld, .lbu, .lhu, .lwu, .flh, .flw, .fld]

/-- opcode and funct3 of a store. -/
def StoreKind.code : StoreKind → BitVec 7 × BitVec 3
  | .sb => (0x23#7, 0#3) | .sh => (0x23#7, 1#3) | .sw => (0x23#7, 2#3) | .sd => (0x23#7, 3#3)
  | .fsh => (0x27#7, 1#3) | .fsw => (0x27#7, 2#3) | .fsd => (0x27#7, 3#3)

/-- Every scalar store. -/
def StoreKind.all : List StoreKind := [.sb, .sh, .sw, .sd, .fsh, .fsw, .fsd]

/-- funct5 of LR, SC and the AMOs. -/
def AmoOp.code : AmoOp → BitVec 5
  | .lr => 0x02#5 | .sc => 0x03#5 | .swap => 0x01#5 | .add => 0x00#5 | .xor => 0x04#5 | .and => 0x0c#5
  | .or => 0x08#5 | .min => 0x10#5 | .max => 0x14#5 | .minu => 0x18#5 | .maxu => 0x1c#5

/-- Every AMO. -/
def AmoOp.all : List AmoOp := [.lr, .sc, .swap, .add, .xor, .and, .or, .min, .max, .minu, .maxu]

/-- funct3 of an atomic. -/
def AmoWidth.code : AmoWidth → BitVec 3
  | .w => 2#3 | .d => 3#3
/-- funct3 of amocas. -/
def CasWidth.code : CasWidth → BitVec 3
  | .w => 2#3 | .d => 3#3 | .q => 4#3

/-- funct3 of a branch. -/
def BrOp.code : BrOp → BitVec 3
  | .beq => 0#3 | .bne => 1#3 | .blt => 4#3 | .bge => 5#3 | .bltu => 6#3 | .bgeu => 7#3
/-- Every branch. -/
def BrOp.all : List BrOp := [.beq, .bne, .blt, .bge, .bltu, .bgeu]

/-- fmt field of a floating-point instruction: 00 single, 01 double, 10 half. -/
def FpFmt.code : FpFmt → BitVec 2
  | .s => 0#2 | .d => 1#2 | .h => 2#2
/-- Every scalar format. -/
def FpFmt.all : List FpFmt := [.s, .d, .h]
/-- The format of an fmt field. -/
def FpFmt.ofCode (c : BitVec 2) : Option FpFmt := FpFmt.all.find? (fun k => k.code == c)

/-- funct5 of add, sub, mul, div. -/
def FpOp2.code : FpOp2 → BitVec 5
  | .add => 0#5 | .sub => 1#5 | .mul => 2#5 | .div => 3#5
/-- Every rounded two-operand operation. -/
def FpOp2.all : List FpOp2 := [.add, .sub, .mul, .div]
/-- funct5 and rm field of the unrounded two-operand operations. -/
def FpOp2n.code : FpOp2n → BitVec 5 × BitVec 3
  | .sgnj => (4#5, 0#3) | .sgnjn => (4#5, 1#3) | .sgnjx => (4#5, 2#3) | .min => (5#5, 0#3) | .max => (5#5, 1#3)
/-- Every unrounded two-operand operation. -/
def FpOp2n.all : List FpOp2n := [.sgnj, .sgnjn, .sgnjx, .min, .max]
/-- rm field of a comparison. -/
def FpCmp.code : FpCmp → BitVec 3
  | .le => 0#3 | .lt => 1#3 | .eq => 2#3
/-- Every comparison. -/
def FpCmp.all : List FpCmp := [.le, .lt, .eq]
/-- Major opcode of a fused multiply-add. -/
def FmaOp.code : FmaOp → BitVec 7
  | .madd => 0x43#7 | .msub => 0x47#7 | .nmsub => 0x4b#7 | .nmadd => 0x4f#7
/-- Every fused multiply-add. -/
def FmaOp.all : List FmaOp := [.madd, .msub, .nmsub, .nmadd]
/-- rs2 field of an integer format in a conversion. -/
def IntFmt.code : IntFmt → BitVec 5
  | .w => 0#5 | .wu => 1#5 | .l => 2#5 | .lu => 3#5
/-- Every integer format. -/
def IntFmt.all : List IntFmt := [.w, .wu, .l, .lu]
/-- funct3 of a CSR instruction: immediate form has bit 2 set. -/
def CsrOp.code : CsrOp → BitVec 2
  | .rw => 1#2 | .rs => 2#2 | .rc => 3#2
/-- Every CSR operation. -/
def CsrOp.all : List CsrOp := [.rw, .rs, .rc]

/-- The instruction that a table search answers, or a reserved form. -/
def orReserved {α : Type} (o : Option α) (k : α → Instr) : Except Reject Instr :=
  match o with
  | some a => .ok (k a)
  | none => .error .reservedForm

/-- Register-register, of OP and OP-32, with zext.h. -/
def decAlu (op f7 : BitVec 7) (rs2 rs1 : Reg) (f3 : BitVec 3) (rd : Reg) : Except Reject Instr :=
  match AluOp.all.find? (fun k => k.code == (op, f7, f3)) with
  | some k => .ok (.standardScalarInstruction (.alu k rd rs1 rs2))
  | none =>
    orReserved (UnOp.all.find? (fun k => k.code == (op, f7 ++ rs2, f3)))
      (fun k => .standardScalarInstruction (.un k rd rs1))

/-- OP-IMM and OP-IMM-32. -/
def decImm (op f7 : BitVec 7) (rs2 rs1 : Reg) (f3 : BitVec 3) (rd : Reg) : Except Reject Instr :=
  let imm : BitVec 12 := f7 ++ rs2
  match ImmOp.all.find? (fun k => k.code == (op, f3)) with
  | some k => .ok (.standardScalarInstruction (.imm k rd rs1 imm))
  | none =>
    match UnOp.all.find? (fun k => k.code == (op, imm, f3)) with
    | some k => .ok (.standardScalarInstruction (.un k rd rs1))
    | none =>
      match ShOp.all.find? (fun k => k.code == (op, imm.extractLsb' 6 6, f3)) with
      | some k =>
        if shOk k (imm.setWidth 6) then .ok (.standardScalarInstruction (.sh k rd rs1 (imm.setWidth 6)))
        else .error .reservedForm
      | none => .error .reservedForm

/-- Scalar loads. -/
def decLoad (op f7 : BitVec 7) (rs2 rs1 : Reg) (f3 : BitVec 3) (rd : Reg) : Except Reject Instr :=
  orReserved (LoadKind.all.find? (fun k => k.code == (op, f3))) (fun k => .scalarLoad k rd rs1 (f7 ++ rs2))

/-- Scalar stores. -/
def decStore (op f7 : BitVec 7) (rs2 rs1 : Reg) (f3 : BitVec 3) (rd : Reg) : Except Reject Instr :=
  orReserved (StoreKind.all.find? (fun k => k.code == (op, f3))) (fun k => .scalarStore k rs1 rs2 (f7 ++ rd))

/-- LR, SC, the AMOs and amocas. -/
def decAmo (f7 : BitVec 7) (rs2 rs1 : Reg) (f3 : BitVec 3) (rd : Reg) : Except Reject Instr :=
  let f5 := f7.extractLsb' 2 5
  let aq := f7.extractLsb' 1 1
  let rl := f7.extractLsb' 0 1
  if f5 = 0x05#5 then
    if f3 = 2#3 then .ok (.amocas .w aq rl rd rs1 rs2)
    else if f3 = 3#3 then .ok (.amocas .d aq rl rd rs1 rs2)
    else if f3 = 4#3 ∧ rd.getLsbD 0 = false ∧ rs2.getLsbD 0 = false then .ok (.amocas .q aq rl rd rs1 rs2)
    else .error .reservedForm
  else
    match AmoOp.all.find? (fun k => k.code == f5) with
    | none => .error .reservedForm
    | some k =>
      if k = .lr ∧ rs2 ≠ 0#5 then .error .reservedForm
      else if f3 = 2#3 then .ok (.atomicAmo k .w aq rl rd rs1 rs2)
      else if f3 = 3#3 then .ok (.atomicAmo k .d aq rl rd rs1 rs2)
      else .error .reservedForm

/-- MISC-MEM. -/
def decMisc (f7 : BitVec 7) (rs2 rs1 : Reg) (f3 : BitVec 3) (rd : Reg) : Except Reject Instr :=
  let imm : BitVec 12 := f7 ++ rs2
  if f3 = 0#3 then
    let fm := imm.extractLsb' 8 4
    let pred := imm.extractLsb' 4 4
    let succ := imm.extractLsb' 0 4
    if fm = 8#4 ∧ pred = 3#4 ∧ succ = 3#4 then .ok (.fenceTso rs1 rd)
    else .ok (.fence fm pred succ rs1 rd)
  else if f3 = 1#3 then .ok (.fenceI imm rs1 rd)
  else .error .reservedForm

/-- SYSTEM. -/
def decSystem (f7 : BitVec 7) (rs2 rs1 : Reg) (f3 : BitVec 3) (rd : Reg) : Except Reject Instr :=
  let imm : BitVec 12 := f7 ++ rs2
  if f3 = 0#3 then
    if f7 = 0x09#7 ∧ rd = 0#5 then .ok (.sfenceVma rs1 rs2)
    else if rs1 ≠ 0#5 ∨ rd ≠ 0#5 then .error .reservedForm
    else if imm = 0x000#12 then .ok (.standardScalarInstruction .ecall)
    else if imm = 0x001#12 then .ok (.standardScalarInstruction .ebreak)
    else if imm = 0x102#12 then .ok (.xret .sret)
    else if imm = 0x302#12 then .ok (.xret .mret)
    else if imm = 0x105#12 then .ok (.standardScalarInstruction .wfi)
    else if imm = 0x00d#12 then .ok .wrsNto
    else if imm = 0x01d#12 then .ok .wrsSto
    else .error .reservedForm
  else
    match CsrOp.all.find? (fun k => k.code == f3.setWidth 2) with
    | none => .error .reservedForm
    | some k =>
      if k ≠ .rw ∧ rs1 = 0#5 then .ok (.standardScalarInstruction (.csrRead k (f3.getLsbD 2) rd imm))
      else .ok (.registerWrite (.csr k (f3.getLsbD 2) rd rs1 imm))

/-- OP-FP. -/
def decFp (f7 : BitVec 7) (rs2 rs1 : Reg) (rm : BitVec 3) (rd : Reg) : Except Reject Instr :=
  let f5 := f7.extractLsb' 2 5
  match FpFmt.ofCode (f7.setWidth 2) with
  | none => .error .reservedForm
  | some fmt =>
    let rounded (i : ScalarOp) : Except Reject Instr :=
      if rmOk rm then .ok (.standardScalarInstruction i) else .error .reservedForm
    match FpOp2.all.find? (fun k => k.code == f5) with
    | some k => rounded (.fp2 k fmt rm rd rs1 rs2)
    | none =>
    match FpOp2n.all.find? (fun k => k.code == (f5, rm)) with
    | some k => .ok (.standardScalarInstruction (.fp2n k fmt rd rs1 rs2))
    | none =>
      if f5 = 0x0b#5 then
        if rs2 = 0#5 then rounded (.fsqrt fmt rm rd rs1) else .error .reservedForm
      else if f5 = 0x14#5 then
        orReserved (FpCmp.all.find? (fun k => k.code == rm))
          (fun k => .standardScalarInstruction (.fcmp k fmt rd rs1 rs2))
      else if f5 = 0x18#5 then
        match IntFmt.all.find? (fun k => k.code == rs2) with
        | some t => rounded (.fcvtIF t fmt rm rd rs1)
        | none => .error .reservedForm
      else if f5 = 0x1a#5 then
        match IntFmt.all.find? (fun k => k.code == rs2) with
        | some t => rounded (.fcvtFI fmt t rm rd rs1)
        | none => .error .reservedForm
      else if f5 = 0x08#5 then
        match FpFmt.all.find? (fun k => k.code.setWidth 5 == rs2) with
        | some src => if src = fmt then .error .reservedForm else rounded (.fcvtFF fmt src rm rd rs1)
        | none => .error .reservedForm
      else if f5 = 0x1c#5 ∧ rs2 = 0#5 ∧ rm = 0#3 then .ok (.standardScalarInstruction (.fmvXF fmt rd rs1))
      else if f5 = 0x1c#5 ∧ rs2 = 0#5 ∧ rm = 1#3 then .ok (.standardScalarInstruction (.fclass fmt rd rs1))
      else if f5 = 0x1e#5 ∧ rs2 = 0#5 ∧ rm = 0#3 then .ok (.standardScalarInstruction (.fmvFX fmt rd rs1))
      else .error .reservedForm

/-- Fused multiply-adds. -/
def decFma (k : FmaOp) (f7 : BitVec 7) (rs2 rs1 : Reg) (rm : BitVec 3) (rd : Reg) : Except Reject Instr :=
  match FpFmt.ofCode (f7.setWidth 2) with
  | none => .error .reservedForm
  | some fmt =>
    if rmOk rm then .ok (.standardScalarInstruction (.fma k fmt rm rd rs1 rs2 (f7.extractLsb' 2 5)))
    else .error .reservedForm

/-- The 20-bit offset field of jal, in units of two bytes, from bits 31:12. -/
def jalImm (u : BitVec 20) : BitVec 20 :=
  u.extractLsb' 19 1 ++ u.extractLsb' 0 8 ++ u.extractLsb' 8 1 ++ u.extractLsb' 9 10
/-- Bits 31:12 of jal from the offset. -/
def jalField (imm : BitVec 20) : BitVec 20 :=
  imm.extractLsb' 19 1 ++ imm.extractLsb' 0 10 ++ imm.extractLsb' 10 1 ++ imm.extractLsb' 11 8
/-- The 12-bit offset field of a branch, in units of two bytes, from funct7 and rd. -/
def brImm (f7 : BitVec 7) (rd : Reg) : BitVec 12 :=
  f7.extractLsb' 6 1 ++ rd.extractLsb' 0 1 ++ f7.extractLsb' 0 6 ++ rd.extractLsb' 1 4
/-- funct7 of a branch from its offset. -/
def brHi (imm : BitVec 12) : BitVec 7 := imm.extractLsb' 11 1 ++ imm.extractLsb' 4 6
/-- rd field of a branch from its offset. -/
def brLo (imm : BitVec 12) : Reg := imm.extractLsb' 0 4 ++ imm.extractLsb' 10 1

/-- The vsetvl family (OP-V, funct3 111). -/
def decVset (f7 : BitVec 7) (rs2 rs1 rd : Reg) : Except Reject Instr :=
  let imm : BitVec 12 := f7 ++ rs2
  if imm.getLsbD 11 = false then .ok (.standardScalarInstruction (.vsetvli rd rs1 (imm.setWidth 11)))
  else if imm.getLsbD 10 = true then .ok (.standardScalarInstruction (.vsetivli rd rs1 (imm.setWidth 10)))
  else if f7 = 0x40#7 then .ok (.standardScalarInstruction (.vsetvl rd rs1 rs2))
  else .error .reservedForm

/-! ### Ramzil groups (R74) -/

/-- The assigned hints (R77), by funct7. -/
def decHint (f7 : BitVec 7) (rs2 rs1 rd : Reg) : Except Reject Instr :=
  match f7.toNat with
  | 0 => if rd = 0#5 then .ok (.pgPref rs2 rs1) else .error .unusedField
  | 1 => if rd = 0#5 ∧ rs2 = 0#5 then .ok (.bmPref rs1) else .error .unusedField
  | 2 => if rd = 0#5 ∧ rs1 = 0#5 ∧ rs2 = 0#5 then .ok (.ctxSpin) else .error .unusedField
  | _ => .error .unassignedFunct

/-- The pg and fence group (spec/06_page.md R168; R79), by funct7. -/
def decPg (f7 : BitVec 7) (rs2 rs1 rd : Reg) : Except Reject Instr :=
  match f7.toNat with
  | 4 => if rd.extractLsb' 2 3 = 0#3 ∧ rs1.extractLsb' 4 1 = 0#1 ∧ rs2.extractLsb' 4 1 = 0#1 then .ok (.mfFence (rs2.setWidth 4) (rs1.setWidth 4) (rd.setWidth 2)) else .error .unusedField
  | 0 => if rd = 0#5 ∧ rs2 = 0#5 then .ok (.pgZero rs1) else .error .unusedField
  | 1 => if rd = 0#5 ∧ rs2 = 0#5 then .ok (.pgClean rs1) else .error .unusedField
  | 2 => if rd = 0#5 ∧ rs2 = 0#5 then .ok (.pgInval rs1) else .error .unusedField
  | 3 => if rd = 0#5 ∧ rs2 = 0#5 then .ok (.pgFlush rs1) else .error .unusedField
  | _ => .error .unassignedFunct

/-- The ctx group (R208), by funct7. -/
def decCtx (f7 : BitVec 7) (rs2 rs1 rd : Reg) : Except Reject Instr :=
  match f7.toNat with
  | 0 => if rd = 0#5 ∧ rs1 = 0#5 ∧ rs2 = 0#5 then .ok (.ctxYield) else .error .unusedField
  | 1 => if rd = 0#5 ∧ rs2 = 0#5 then .ok (.ctxSleep rs1) else .error .unusedField
  | 2 => if rs2 = 0#5 then .ok (.ctxWake rs1 rd) else .error .unusedField
  | 3 => if rs1 = 0#5 ∧ rs2 = 0#5 then .ok (.ctxSelf rd) else .error .unusedField
  | 4 => if rs2 = 0#5 then .ok (.ctxCkpt rs1 rd) else .error .unusedField
  | 5 => if rs2 = 0#5 then .ok (.ctxPrio rs1 rd) else .error .unusedField
  | 6 => if rd = 0#5 ∧ rs1 = 0#5 ∧ rs2 = 0#5 then .ok (.ctxExit) else .error .unusedField
  | _ => .error .unassignedFunct

/-- The grp group (spec/11_group.md R321), by funct7. -/
def decGrp (f7 : BitVec 7) (rs2 rs1 rd : Reg) : Except Reject Instr :=
  match f7.toNat with
  | 0 => if rd = 0#5 then .ok (.grpSpawn rs2 rs1) else .error .unusedField
  | 1 => if rd = 0#5 then .ok (.grpSpawnat rs2 rs1) else .error .unusedField
  | 2 => if rd = 0#5 ∧ rs2 = 0#5 then .ok (.grpGo rs1) else .error .unusedField
  | 3 => if rd = 0#5 ∧ rs1 = 0#5 ∧ rs2 = 0#5 then .ok (.grpExit) else .error .unusedField
  | 4 => if rs2 = 0#5 then .ok (.grpOwner rs1 rd) else .error .unusedField
  | 5 => if rs2 = 0#5 then .ok (.grpHere rs1 rd) else .error .unusedField
  | _ => .error .unassignedFunct

/-- The bar group (spec/12_barrier.md R337), by funct7. -/
def decBar (f7 : BitVec 7) (rs2 rs1 rd : Reg) : Except Reject Instr :=
  match f7.toNat with
  | 0 => .ok (.barInit rs2 rs1 rd)
  | 1 => if rs2 = 0#5 then .ok (.barArrive rs1 rd) else .error .unusedField
  | 2 => .ok (.barWait rs2 rs1 rd)
  | 3 => if rs2 = 0#5 then .ok (.barSync rs1 rd) else .error .unusedField
  | 4 => if rd = 0#5 ∧ rs2 = 0#5 then .ok (.barDrop rs1) else .error .unusedField
  | 5 => .ok (.barTest rs2 rs1 rd)
  | 6 => if rs2 = 0#5 then .ok (.barFree rs1 rd) else .error .unusedField
  | _ => .error .unassignedFunct

/-- The krn group (spec/14_kernel.md R383), by funct7. -/
def decKrn (f7 : BitVec 7) (rs2 rs1 rd : Reg) : Except Reject Instr :=
  match f7.toNat with
  | 0 => if rs2 = 0#5 then .ok (.krnLaunch rs1 rd) else .error .unusedField
  | 1 => if rs2 = 0#5 then .ok (.krnCancel rs1 rd) else .error .unusedField
  | 2 => if rs2 = 0#5 then .ok (.krnCount rs1 rd) else .error .unusedField
  | 3 => if rs1 = 0#5 ∧ rs2 = 0#5 then .ok (.krnBorrow rd) else .error .unusedField
  | 4 => if rs2 = 0#5 then .ok (.krnWait rs1 rd) else .error .unusedField
  | _ => .error .unassignedFunct

/-- The q group (spec/17_queue.md R466), by funct7. -/
def decQ (f7 : BitVec 7) (rs2 rs1 rd : Reg) : Except Reject Instr :=
  match f7.toNat with
  | 0 => .ok (.qPush rs2 rs1 rd)
  | 1 => .ok (.qPop rs2 rs1 rd)
  | 2 => .ok (.qPeek rs2 rs1 rd)
  | 3 => .ok (.qNotify rs2 rs1 rd)
  | 4 => if rs2 = 0#5 then .ok (.qReset rs1 rd) else .error .unusedField
  | 5 => if rs2 = 0#5 then .ok (.qState rs1 rd) else .error .unusedField
  | _ => .error .unassignedFunct

/-- The sys group (spec/07_context.md R215), by funct7. -/
def decSys (f7 : BitVec 7) (rs2 rs1 rd : Reg) : Except Reject Instr :=
  match f7.toNat with
  | 0 => if rd = 0#5 ∧ rs1 = 0#5 ∧ rs2 = 0#5 then .ok (.sysKswap) else .error .unusedField
  | 1 => if rs1 = 0#5 ∧ rs2 = 0#5 then .ok (.sysKsave rd) else .error .unusedField
  | 2 => if rs2 = 0#5 then .ok (.sysKload rs1 rd) else .error .unusedField
  | 3 => .ok (.sysRankset rs2 rs1 rd)
  | 4 => .ok (.sysScent rs2 rs1 rd)
  | 5 => if rs2 = 0#5 then .ok (.sysHalt rs1 rd) else .error .unusedField
  | 6 => if rd = 0#5 ∧ rs2 = 0#5 then .ok (.sysResume rs1) else .error .unusedField
  | 7 => if rd = 0#5 then .ok (.sysTlbinv rs2 rs1) else .error .unusedField
  | 8 => if rd = 0#5 then .ok (.sysPoison rs2 rs1) else .error .unusedField
  | _ => .error .unassignedFunct

/-- The vector VV group, by funct7. -/
def decVecVV (f7 : BitVec 7) (rs2 rs1 rd : Reg) : Except Reject Instr :=
  match f7.toNat with
  | 0 => .ok (.vxSshl 0#1 rs2 rs1 rd)
  | 1 => .ok (.vxSshl 1#1 rs2 rs1 rd)
  | 2 => .ok (.vxSrl 0#1 rs2 rs1 rd)
  | 3 => .ok (.vxSrl 1#1 rs2 rs1 rd)
  | 4 => .ok (.vxSra 0#1 rs2 rs1 rd)
  | 5 => .ok (.vxSra 1#1 rs2 rs1 rd)
  | 6 => .ok (.vxRsra 0#1 rs2 rs1 rd)
  | 7 => .ok (.vxRsra 1#1 rs2 rs1 rd)
  | 8 => .ok (.vxAbsd 0#1 rs2 rs1 rd)
  | 9 => .ok (.vxAbsd 1#1 rs2 rs1 rd)
  | 10 => .ok (.vxAvgr 0#1 rs2 rs1 rd)
  | 11 => .ok (.vxAvgr 1#1 rs2 rs1 rd)
  | _ => .error .unassignedFunct

/-- The vector FP group, by funct7. -/
def decVecFP (f7 : BitVec 7) (rs2 rs1 rd : Reg) : Except Reject Instr :=
  match f7.toNat with
  | 0 => .ok (.vxFredtsum 0#1 rs2 rs1 rd)
  | 1 => .ok (.vxFredtsum 1#1 rs2 rs1 rd)
  | 2 => .ok (.vxFdott 0#1 rs2 rs1 rd)
  | 3 => .ok (.vxFdott 1#1 rs2 rs1 rd)
  | _ => .error .unassignedFunct

/-- The mask and scan group, by funct7. -/
def decMask (f7 : BitVec 7) (rs2 rs1 rd : Reg) : Except Reject Instr :=
  match f7.toNat with
  | 1 => if rd = 0#5 ∧ rs1 = 0#5 then .ok (.vxMif rs2) else .error .unusedField
  | 3 => if rd = 0#5 ∧ rs1 = 0#5 ∧ rs2 = 0#5 then .ok (.vxMelse) else .error .unusedField
  | 5 => if rd = 0#5 ∧ rs1 = 0#5 ∧ rs2 = 0#5 then .ok (.vxMpop) else .error .unusedField
  | 6 => .ok (.vxScanadd 0#1 rs2 rs1 rd)
  | 7 => .ok (.vxScanadd 1#1 rs2 rs1 rd)
  | 8 => .ok (.vxScanmin 0#1 rs2 rs1 rd)
  | 9 => .ok (.vxScanmin 1#1 rs2 rs1 rd)
  | 10 => .ok (.vxScanmax 0#1 rs2 rs1 rd)
  | 11 => .ok (.vxScanmax 1#1 rs2 rs1 rd)
  | 12 => .ok (.vxScanminn 0#1 rs2 rs1 rd)
  | 13 => .ok (.vxScanminn 1#1 rs2 rs1 rd)
  | 14 => .ok (.vxScanmaxn 0#1 rs2 rs1 rd)
  | 15 => .ok (.vxScanmaxn 1#1 rs2 rs1 rd)
  | 16 => .ok (.vxFscanadd 0#1 rs2 rs1 rd)
  | 17 => .ok (.vxFscanadd 1#1 rs2 rs1 rd)
  | 18 => .ok (.vxEscanadd 0#1 rs2 rs1 rd)
  | 19 => .ok (.vxEscanadd 1#1 rs2 rs1 rd)
  | 0 => .error .maskForm
  | 2 => .error .maskForm
  | 4 => .error .maskForm
  | _ => .error .unassignedFunct

/-- The vector with scalar group, by funct7. -/
def decVecScalar (f7 : BitVec 7) (rs2 rs1 rd : Reg) : Except Reject Instr :=
  match f7.toNat with
  | 0 => .ok (.vxTex 0#1 rs2 rs1 rd)
  | 1 => .ok (.vxTex 1#1 rs2 rs1 rd)
  | 2 => .ok (.vxTexg 0#1 rs2 rs1 rd)
  | 3 => .ok (.vxTexg 1#1 rs2 rs1 rd)
  | 4 => .ok (.vxSshlx 0#1 rs2 rs1 rd)
  | 5 => .ok (.vxSshlx 1#1 rs2 rs1 rd)
  | 6 => .ok (.vxSrlx 0#1 rs2 rs1 rd)
  | 7 => .ok (.vxSrlx 1#1 rs2 rs1 rd)
  | 8 => .ok (.vxSrax 0#1 rs2 rs1 rd)
  | 9 => .ok (.vxSrax 1#1 rs2 rs1 rd)
  | 11 => if rs2 = 0#5 then .ok (.vxLwait rs1 rd) else .error .unusedField
  | 10 => .error .maskForm
  | _ => .error .unassignedFunct

/-- The loop group: imm12 bits 11:4 are reserved (spec/08_vector.md R241), by funct7. -/
def decLoop (f7 : BitVec 7) (rs2 rs1 rd : Reg) : Except Reject Instr :=
  match f7.toNat with
  | 0 => if rd = 0#5 ∧ rs2.extractLsb' 4 1 = 0#1 then .ok (.vxLoop (rs2.setWidth 4) rs1) else .error .unusedField
  | _ => .error .unassignedFunct

/-- The packed scalar group, by funct7. -/
def decPacked (f7 : BitVec 7) (rs2 rs1 rd : Reg) : Except Reject Instr :=
  match f7.toNat with
  | 0 => .ok (.pkAdd8 rs2 rs1 rd)
  | 1 => .ok (.pkAdd16 rs2 rs1 rd)
  | 2 => .ok (.pkSub8 rs2 rs1 rd)
  | 3 => .ok (.pkSub16 rs2 rs1 rd)
  | 4 => .ok (.pkAdds8n rs2 rs1 rd)
  | 5 => .ok (.pkSubs8n rs2 rs1 rd)
  | 6 => .ok (.pkSll8 rs2 rs1 rd)
  | 7 => .ok (.pkSll16 rs2 rs1 rd)
  | 8 => .ok (.pkSrl8 rs2 rs1 rd)
  | 9 => .ok (.pkSrl16 rs2 rs1 rd)
  | 10 => .ok (.pkSra8 rs2 rs1 rd)
  | 11 => .ok (.pkSra16 rs2 rs1 rd)
  | 12 => .ok (.pkMul8h rs2 rs1 rd)
  | 13 => .ok (.pkAvg8 rs2 rs1 rd)
  | 14 => .ok (.pkMax8n rs2 rs1 rd)
  | 15 => .ok (.pkMin8n rs2 rs1 rd)
  | _ => .error .unassignedFunct

/-- The conversion group, by funct7. -/
def decConv (f7 : BitVec 7) (rs2 rs1 rd : Reg) : Except Reject Instr :=
  match f7.toNat with
  | 0 => if rs1.extractLsb' 1 4 = 0#4 then .ok (.vxCvtm8 0#1 rs2 (rs1.setWidth 1) rd) else .error .unusedField
  | 1 => if rs1.extractLsb' 1 4 = 0#4 then .ok (.vxCvtm8 1#1 rs2 (rs1.setWidth 1) rd) else .error .unusedField
  | 2 => if rs1 = 0#5 then .ok (.vxCvtfm8 0#1 rs2 rd) else .error .unusedField
  | 3 => if rs1 = 0#5 then .ok (.vxCvtfm8 1#1 rs2 rd) else .error .unusedField
  | 4 => .ok (.vxBsdec 0#1 rs2 rs1 rd)
  | 5 => .ok (.vxBsdec 1#1 rs2 rs1 rd)
  | 6 => .ok (.vxBsenc 0#1 rs2 rs1 rd)
  | 7 => .ok (.vxBsenc 1#1 rs2 rs1 rd)
  | 8 => if rs1 = 0#5 then .ok (.vxBsfind 0#1 rs2 rd) else .error .unusedField
  | 9 => if rs1 = 0#5 then .ok (.vxBsfind 1#1 rs2 rd) else .error .unusedField
  | _ => .error .unassignedFunct

/-- The tile group (spec/09_tile.md R274), by funct7. -/
def decTile (f7 : BitVec 7) (rs2 rs1 rd : Reg) : Except Reject Instr :=
  match f7.toNat with
  | 0 => if rd.extractLsb' 3 2 = 0#2 ∧ rs1 = 0#5 ∧ rs2 = 0#5 then .ok (.tlZero (rd.setWidth 3)) else .error .unusedField
  | 1 => if rd.extractLsb' 3 2 = 0#2 then .ok (.tlMma rs2 rs1 (rd.setWidth 3)) else .error .unusedField
  | 2 => if rd.extractLsb' 3 2 = 0#2 then .ok (.tlMmas rs2 rs1 (rd.setWidth 3)) else .error .unusedField
  | 3 => if rd.extractLsb' 3 2 = 0#2 ∧ rs2 = 0#5 then .ok (.tlLd rs1 (rd.setWidth 3)) else .error .unusedField
  | 4 => if rd.extractLsb' 3 2 = 0#2 ∧ rs2 = 0#5 then .ok (.tlSt rs1 (rd.setWidth 3)) else .error .unusedField
  | 5 => if rd.extractLsb' 3 2 = 0#2 ∧ rs2 = 0#5 then .ok (.tlStc rs1 (rd.setWidth 3)) else .error .unusedField
  | 6 => if rd.extractLsb' 3 2 = 0#2 ∧ rs1.extractLsb' 3 2 = 0#2 ∧ rs2 = 0#5 then .ok (.tlAdd (rs1.setWidth 3) (rd.setWidth 3)) else .error .unusedField
  | 7 => if rs2 = 0#5 then .ok (.tlClaim rs1 rd) else .error .unusedField
  | 8 => if rd = 0#5 ∧ rs2 = 0#5 then .ok (.tlFree rs1) else .error .unusedField
  | 9 => if rd = 0#5 ∧ rs2 = 0#5 then .ok (.tlWait rs1) else .error .unusedField
  | 10 => if rs1 = 0#5 ∧ rs2 = 0#5 then .ok (.tlState rd) else .error .unusedField
  | _ => .error .unassignedFunct

/-- The tile rows group, by funct7. -/
def decTileRow (f7 : BitVec 7) (rs2 rs1 rd : Reg) : Except Reject Instr :=
  match f7.toNat with
  | 0 => if rs2.extractLsb' 3 2 = 0#2 then .ok (.tlRowv (rs2.setWidth 3) rs1 rd) else .error .unusedField
  | 1 => if rd.extractLsb' 3 2 = 0#2 then .ok (.tlVrow rs2 rs1 (rd.setWidth 3)) else .error .unusedField
  | _ => .error .unassignedFunct

/-- The transfer group (spec/10_transfer.md R302), by funct7. -/
def decXf (f7 : BitVec 7) (rs2 rs1 rd : Reg) : Except Reject Instr :=
  match f7.toNat with
  | 0 => if rd.extractLsb' 3 2 = 0#2 ∧ rs2 = 0#5 then .ok (.xfOpen rs1 (rd.setWidth 3)) else .error .unusedField
  | 1 => if rd.extractLsb' 3 2 = 0#2 ∧ rs1 = 0#5 ∧ rs2 = 0#5 then .ok (.xfClose (rd.setWidth 3)) else .error .unusedField
  | 2 => if rd.extractLsb' 3 2 = 0#2 ∧ rs2 = 0#5 then .ok (.xfWm rs1 (rd.setWidth 3)) else .error .unusedField
  | 3 => if rd.extractLsb' 3 2 = 0#2 ∧ rs1 = 0#5 ∧ rs2 = 0#5 then .ok (.xfWait (rd.setWidth 3)) else .error .unusedField
  | 4 => if rd.extractLsb' 3 2 = 0#2 ∧ rs1 = 0#5 ∧ rs2 = 0#5 then .ok (.xfCancel (rd.setWidth 3)) else .error .unusedField
  | _ => .error .unassignedFunct

/-- The transfer, vector group, by funct7. -/
def decXfVec (f7 : BitVec 7) (rs2 rs1 rd : Reg) : Except Reject Instr :=
  match f7.toNat with
  | 1 => if rd.extractLsb' 3 2 = 0#2 then .ok (.xfGet rs2 rs1 (rd.setWidth 3)) else .error .unusedField
  | 3 => if rd.extractLsb' 3 2 = 0#2 then .ok (.xfPut rs2 rs1 (rd.setWidth 3)) else .error .unusedField
  | 5 => .ok (.xfVget rs2 rs1 rd)
  | 7 => if rs1 = 0#5 ∧ rs2 = 0#5 then .ok (.xfVwait rd) else .error .unusedField
  | 0 => .error .maskForm
  | 2 => .error .maskForm
  | 4 => .error .maskForm
  | 6 => .error .maskForm
  | _ => .error .unassignedFunct

/-- The task group (spec/13_task.md R359), by funct7. -/
def decTask (f7 : BitVec 7) (rs2 rs1 rd : Reg) : Except Reject Instr :=
  match f7.toNat with
  | 0 => if rs2 = 0#5 then .ok (.tskPut rs1 rd) else .error .unusedField
  | 1 => if rs2 = 0#5 then .ok (.tskWait rs1 rd) else .error .unusedField
  | 2 => if rs2 = 0#5 then .ok (.tskPoll rs1 rd) else .error .unusedField
  | 3 => if rs2 = 0#5 then .ok (.tskCancel rs1 rd) else .error .unusedField
  | 4 => if rs2 = 0#5 then .ok (.tskFence rs1 rd) else .error .unusedField
  | 5 => .ok (.tskStream rs2 rs1 rd)
  | _ => .error .unassignedFunct

/-- The beam group (spec/16_beam.md R441), by funct7. -/
def decBeam (f7 : BitVec 7) (rs2 rs1 rd : Reg) : Except Reject Instr :=
  match f7.toNat with
  | 0 => if rs2 = 0#5 then .ok (.bmQuery rs1 rd) else .error .unusedField
  | 1 => if rs2 = 0#5 then .ok (.bmWait rs1 rd) else .error .unusedField
  | 2 => if rs2 = 0#5 then .ok (.bmPoll rs1 rd) else .error .unusedField
  | 3 => if rs2 = 0#5 then .ok (.bmSplit rs1 rd) else .error .unusedField
  | 4 => .ok (.bmResume rs2 rs1 rd)
  | 5 => if rs2 = 0#5 then .ok (.bmCancel rs1 rd) else .error .unusedField
  | _ => .error .unassignedFunct

/-- The frontier group (spec/15_frontier.md R408), by funct7. -/
def decFrontier (f7 : BitVec 7) (rs2 rs1 rd : Reg) : Except Reject Instr :=
  match f7.toNat with
  | 0 => if rs2 = 0#5 then .ok (.fntLaunch rs1 rd) else .error .unusedField
  | 1 => if rd = 0#5 then .ok (.fntDone rs2 rs1) else .error .unusedField
  | 2 => .ok (.fntSave rs2 rs1 rd)
  | 3 => .ok (.fntLoad rs2 rs1 rd)
  | 4 => if rs2 = 0#5 then .ok (.fntQuery rs1 rd) else .error .unusedField
  | 5 => if rs2 = 0#5 then .ok (.fntCancel rs1 rd) else .error .unusedField
  | 6 => if rs2 = 0#5 then .ok (.fntWait rs1 rd) else .error .unusedField
  | _ => .error .unassignedFunct

/-- A vector word, or a reserved form. -/
def decVector (w : IWord) : Except Reject Instr :=
  if vecKnown w then .ok (.vectorIssue w) else .error .reservedForm

/-- The hint space: an assigned hint, or a no-op (R77). -/
def decHintSpace (w : IWord) (f7 : BitVec 7) (rs2 rs1 rd : Reg) : Except Reject Instr :=
  if isUnassignedHint w then .ok (.unassignedHint w) else decHint f7 rs2 rs1 rd

/-- The group of a custom opcode by funct3 (R74). -/
def decCustom (w : IWord) (op f7 : BitVec 7) (rs2 rs1 : Reg) (f3 : BitVec 3) (rd : Reg) : Except Reject Instr :=
  match op.toNat, f3.toNat with
  | 0x0b, 0 => decCtx f7 rs2 rs1 rd
  | 0x0b, 1 => decGrp f7 rs2 rs1 rd
  | 0x0b, 2 => decBar f7 rs2 rs1 rd
  | 0x0b, 3 => decKrn f7 rs2 rs1 rd
  | 0x0b, 4 => decQ f7 rs2 rs1 rd
  | 0x0b, 5 => decPg f7 rs2 rs1 rd
  | 0x0b, 6 => decHintSpace w f7 rs2 rs1 rd
  | 0x0b, 7 => decSys f7 rs2 rs1 rd
  | 0x2b, 0 => decVecVV f7 rs2 rs1 rd
  | 0x2b, 1 => decVecFP f7 rs2 rs1 rd
  | 0x2b, 2 => decMask f7 rs2 rs1 rd
  | 0x2b, 3 => decVecScalar f7 rs2 rs1 rd
  | 0x2b, 4 => decLoop f7 rs2 rs1 rd
  | 0x2b, 5 => decPacked f7 rs2 rs1 rd
  | 0x2b, 6 => decConv f7 rs2 rs1 rd
  | 0x5b, 0 => decTile f7 rs2 rs1 rd
  | 0x5b, 1 => decTileRow f7 rs2 rs1 rd
  | 0x5b, 2 => decXf f7 rs2 rs1 rd
  | 0x5b, 3 => decXfVec f7 rs2 rs1 rd
  | 0x5b, 4 => decTask f7 rs2 rs1 rd
  | 0x7b, 0 => decBeam f7 rs2 rs1 rd
  | 0x7b, 1 => decFrontier f7 rs2 rs1 rd
  | _, _ => .error .reservedGroup

/-- The instruction of a word's fields, by major opcode. -/
def decodeFields (w : IWord) (f7 : BitVec 7) (rs2 rs1 : Reg) (f3 : BitVec 3) (rd : Reg) (op : BitVec 7) :
    Except Reject Instr :=
  match op.toNat with
  | 0x37 => .ok (.standardScalarInstruction (.lui rd (f7 ++ rs2 ++ rs1 ++ f3)))
  | 0x17 => .ok (.standardScalarInstruction (.auipc rd (f7 ++ rs2 ++ rs1 ++ f3)))
  | 0x6f => .ok (.standardScalarInstruction (.jal rd (jalImm (f7 ++ rs2 ++ rs1 ++ f3))))
  | 0x67 =>
    if f3 = 0#3 then .ok (.standardScalarInstruction (.jalr rd rs1 (f7 ++ rs2))) else .error .reservedForm
  | 0x63 =>
    orReserved (BrOp.all.find? (fun k => k.code == f3))
      (fun k => .standardScalarInstruction (.branch k rs1 rs2 (brImm f7 rd)))
  | 0x03 => decLoad op f7 rs2 rs1 f3 rd
  | 0x23 => decStore op f7 rs2 rs1 f3 rd
  | 0x13 => decImm op f7 rs2 rs1 f3 rd
  | 0x1b => decImm op f7 rs2 rs1 f3 rd
  | 0x33 => decAlu op f7 rs2 rs1 f3 rd
  | 0x3b => decAlu op f7 rs2 rs1 f3 rd
  | 0x0f => decMisc f7 rs2 rs1 f3 rd
  | 0x2f => decAmo f7 rs2 rs1 f3 rd
  | 0x73 => decSystem f7 rs2 rs1 f3 rd
  | 0x53 => decFp f7 rs2 rs1 f3 rd
  | 0x43 => decFma .madd f7 rs2 rs1 f3 rd
  | 0x47 => decFma .msub f7 rs2 rs1 f3 rd
  | 0x4b => decFma .nmsub f7 rs2 rs1 f3 rd
  | 0x4f => decFma .nmadd f7 rs2 rs1 f3 rd
  | 0x07 => if f3 = 1#3 ∨ f3 = 2#3 ∨ f3 = 3#3 then decLoad op f7 rs2 rs1 f3 rd else decVector w
  | 0x27 => if f3 = 1#3 ∨ f3 = 2#3 ∨ f3 = 3#3 then decStore op f7 rs2 rs1 f3 rd else decVector w
  | 0x57 => if f3 = 7#3 then decVset f7 rs2 rs1 rd else decVector w
  | 0x0b => decCustom w op f7 rs2 rs1 f3 rd
  | 0x2b => decCustom w op f7 rs2 rs1 f3 rd
  | 0x5b => decCustom w op f7 rs2 rs1 f3 rd
  | 0x7b => decCustom w op f7 rs2 rs1 f3 rd
  | _ => .error .unknownOpcode

/-- The instruction that a 32-bit word encodes. -/
def decode32 (w : IWord) : Except Reject Instr :=
  decodeFields w (fF7 w) (fRs2 w) (fRs1 w) (fF3 w) (fRd w) (fOp w)

/-! ### Compressed instructions -/

/-- I-type word. -/
def iWord (imm : BitVec 12) (rs1 : Reg) (f3 : BitVec 3) (rd : Reg) (op : BitVec 7) : IWord :=
  imm ++ rs1 ++ f3 ++ rd ++ op
/-- S-type word. -/
def sWord (imm : BitVec 12) (rs2 rs1 : Reg) (f3 : BitVec 3) (op : BitVec 7) : IWord :=
  imm.extractLsb' 5 7 ++ rs2 ++ rs1 ++ f3 ++ imm.extractLsb' 0 5 ++ op
/-- Branch word from its offset in units of two bytes. -/
def bWord (imm : BitVec 12) (rs2 rs1 : Reg) (f3 : BitVec 3) : IWord :=
  rzWord (brHi imm) rs2 rs1 f3 (brLo imm) 0x63#7
/-- jal word from its offset in units of two bytes. -/
def jWord (imm : BitVec 20) (rd : Reg) : IWord := jalField imm ++ rd ++ 0x6f#7
/-- U-type word. -/
def uWord (imm : BitVec 20) (rd : Reg) (op : BitVec 7) : IWord := imm ++ rd ++ op

/-- The 32-bit word that a compressed instruction stands for (C with RV64 and D, R65), or none where reserved. -/
def expand (c : BitVec 16) : Option IWord :=
  let b (i : Nat) : BitVec 1 := c.extractLsb' i 1
  let rdF : Reg := c.extractLsb' 7 5
  let rs2F : Reg := c.extractLsb' 2 5
  let rdP : Reg := 1#2 ++ c.extractLsb' 2 3
  let rs1P : Reg := 1#2 ++ c.extractLsb' 7 3
  let sp : Reg := 2#5
  let imm6 : BitVec 6 := b 12 ++ c.extractLsb' 2 5
  let imm12 : BitVec 12 := imm6.signExtend 12
  let uW : BitVec 12 := 0#5 ++ b 5 ++ c.extractLsb' 10 3 ++ b 6 ++ 0#2
  let uD : BitVec 12 := 0#4 ++ c.extractLsb' 5 2 ++ c.extractLsb' 10 3 ++ 0#3
  let lwsp : BitVec 12 := 0#4 ++ c.extractLsb' 2 2 ++ b 12 ++ c.extractLsb' 4 3 ++ 0#2
  let ldsp : BitVec 12 := 0#3 ++ c.extractLsb' 2 3 ++ b 12 ++ c.extractLsb' 5 2 ++ 0#3
  let swsp : BitVec 12 := 0#4 ++ c.extractLsb' 7 2 ++ c.extractLsb' 9 4 ++ 0#2
  let sdsp : BitVec 12 := 0#3 ++ c.extractLsb' 7 3 ++ c.extractLsb' 10 3 ++ 0#3
  -- offset of c.j in units of two bytes: 11 bits, and of c.beqz: 8 bits
  let jOff : BitVec 11 := b 12 ++ b 8 ++ c.extractLsb' 9 2 ++ b 6 ++ b 7 ++ b 2 ++ b 11 ++ c.extractLsb' 3 3
  let bOff : BitVec 8 := b 12 ++ c.extractLsb' 5 2 ++ b 2 ++ c.extractLsb' 10 2 ++ c.extractLsb' 3 2
  match (c.extractLsb' 0 2).toNat, (c.extractLsb' 13 3).toNat with
  | 0, 0 =>
    let imm : BitVec 12 := 0#2 ++ c.extractLsb' 7 4 ++ c.extractLsb' 11 2 ++ b 5 ++ b 6 ++ 0#2
    if imm = 0#12 then none else some (iWord imm sp 0#3 rdP 0x13#7)
  | 0, 1 => some (iWord uD rs1P 3#3 rdP 0x07#7)
  | 0, 2 => some (iWord uW rs1P 2#3 rdP 0x03#7)
  | 0, 3 => some (iWord uD rs1P 3#3 rdP 0x03#7)
  | 0, 5 => some (sWord uD rdP rs1P 3#3 0x27#7)
  | 0, 6 => some (sWord uW rdP rs1P 2#3 0x23#7)
  | 0, 7 => some (sWord uD rdP rs1P 3#3 0x23#7)
  | 1, 0 => some (iWord imm12 rdF 0#3 rdF 0x13#7)
  | 1, 1 => if rdF = 0#5 then none else some (iWord imm12 rdF 0#3 rdF 0x1b#7)
  | 1, 2 => some (iWord imm12 0#5 0#3 rdF 0x13#7)
  | 1, 3 =>
    if imm6 = 0#6 then none
    else if rdF = 2#5 then
      let imm : BitVec 10 := b 12 ++ c.extractLsb' 3 2 ++ b 5 ++ b 2 ++ b 6 ++ 0#4
      some (iWord (imm.signExtend 12) sp 0#3 sp 0x13#7)
    else some (uWord (imm6.signExtend 20) rdF 0x37#7)
  | 1, 4 =>
    match (c.extractLsb' 10 2).toNat with
    | 0 => some (iWord (0x00#6 ++ imm6) rs1P 5#3 rs1P 0x13#7)
    | 1 => some (iWord (0x10#6 ++ imm6) rs1P 5#3 rs1P 0x13#7)
    | 2 => some (iWord imm12 rs1P 7#3 rs1P 0x13#7)
    | _ =>
      match (b 12 ++ c.extractLsb' 5 2).toNat with
      | 0 => some (rzWord 0x20#7 rdP rs1P 0#3 rs1P 0x33#7)
      | 1 => some (rzWord 0x00#7 rdP rs1P 4#3 rs1P 0x33#7)
      | 2 => some (rzWord 0x00#7 rdP rs1P 6#3 rs1P 0x33#7)
      | 3 => some (rzWord 0x00#7 rdP rs1P 7#3 rs1P 0x33#7)
      | 4 => some (rzWord 0x20#7 rdP rs1P 0#3 rs1P 0x3b#7)
      | 5 => some (rzWord 0x00#7 rdP rs1P 0#3 rs1P 0x3b#7)
      | _ => none
  | 1, 5 => some (jWord (jOff.signExtend 20) 0#5)
  | 1, 6 => some (bWord (bOff.signExtend 12) 0#5 rs1P 0#3)
  | 1, 7 => some (bWord (bOff.signExtend 12) 0#5 rs1P 1#3)
  | 2, 0 => some (iWord (0#6 ++ imm6) rdF 1#3 rdF 0x13#7)
  | 2, 1 => some (iWord ldsp sp 3#3 rdF 0x07#7)
  | 2, 2 => if rdF = 0#5 then none else some (iWord lwsp sp 2#3 rdF 0x03#7)
  | 2, 3 => if rdF = 0#5 then none else some (iWord ldsp sp 3#3 rdF 0x03#7)
  | 2, 4 =>
    if b 12 = 0#1 then
      if rs2F = 0#5 then
        if rdF = 0#5 then none else some (iWord 0#12 rdF 0#3 0#5 0x67#7)
      else some (rzWord 0#7 rs2F 0#5 0#3 rdF 0x33#7)
    else if rs2F = 0#5 then
      if rdF = 0#5 then some 0x00100073#32 else some (iWord 0#12 rdF 0#3 1#5 0x67#7)
    else some (rzWord 0#7 rs2F rdF 0#3 rdF 0x33#7)
  | 2, 5 => some (sWord sdsp rs2F sp 3#3 0x27#7)
  | 2, 6 => some (sWord swsp rs2F sp 2#3 0x23#7)
  | 2, 7 => some (sWord sdsp rs2F sp 3#3 0x23#7)
  | _, _ => none

/-- The instruction that a compressed half encodes. -/
def decode16 (c : BitVec 16) : Except Reject Instr :=
  match expand c with
  | some w => decode32 w
  | none => .error .reservedForm

/-- Length in bytes that the first byte of an instruction marks: 2, 4, or 0 for 48 bits and more (R67, R76). -/
def lengthOf (b : Byte) : Nat :=
  if b.extractLsb' 0 2 ≠ 3#2 then 2
  else if b.extractLsb' 2 3 ≠ 7#3 then 4
  else 0

/-- The instruction at the head of a list of bytes, and the bytes after it. -/
def decode (bs : List Byte) : Except Reject (Instr × List Byte) :=
  match bs with
  | b0 :: b1 :: rest =>
    match lengthOf b0 with
    | 2 => (decode16 (b1 ++ b0)).map (fun i => (i, rest))
    | 4 =>
      match rest with
      | b2 :: b3 :: rest' => (decode32 (b3 ++ b2 ++ b1 ++ b0)).map (fun i => (i, rest'))
      | _ => .error .tooShort
    | _ => .error .longEncoding
  | _ => .error .tooShort

/-- The instruction read from a word whose bits the opcode table numbers: bit 0 is the least significant bit of the
first byte in memory. -/
def decodeTableWord (nbits w : Nat) : Option Instr :=
  match decode (leBytes (if nbits ≤ 32 then 4 else 0) w) with
  | .ok (i, _) => some i
  | .error _ => none

/-! ### The encoder -/

/-- The word of a standard scalar instruction. -/
def encodeScalar : ScalarOp → IWord
  | .lui rd imm => imm ++ rd ++ 0x37#7
  | .auipc rd imm => imm ++ rd ++ 0x17#7
  | .jal rd imm => jalField imm ++ rd ++ 0x6f#7
  | .jalr rd rs1 imm => iWord imm rs1 0#3 rd 0x67#7
  | .branch k rs1 rs2 imm => rzWord (brHi imm) rs2 rs1 k.code (brLo imm) 0x63#7
  | .imm k rd rs1 imm => iWord imm rs1 k.code.2 rd k.code.1
  | .sh k rd rs1 amt => iWord (k.code.2.1 ++ amt) rs1 k.code.2.2 rd k.code.1
  | .alu k rd rs1 rs2 => rzWord k.code.2.1 rs2 rs1 k.code.2.2 rd k.code.1
  | .un k rd rs1 => iWord k.code.2.1 rs1 k.code.2.2 rd k.code.1
  | .ecall => 0x00000073#32
  | .ebreak => 0x00100073#32
  | .wfi => 0x10500073#32
  | .csrRead op im rd csr => iWord csr 0#5 (BitVec.ofBool im ++ op.code) rd 0x73#7
  | .fp2 k fmt rm rd rs1 rs2 => rzWord (k.code ++ fmt.code) rs2 rs1 rm rd 0x53#7
  | .fp2n k fmt rd rs1 rs2 => rzWord (k.code.1 ++ fmt.code) rs2 rs1 k.code.2 rd 0x53#7
  | .fcmp k fmt rd rs1 rs2 => rzWord (0x14#5 ++ fmt.code) rs2 rs1 k.code rd 0x53#7
  | .fsqrt fmt rm rd rs1 => rzWord (0x0b#5 ++ fmt.code) 0#5 rs1 rm rd 0x53#7
  | .fma k fmt rm rd rs1 rs2 rs3 => rzWord (rs3 ++ fmt.code) rs2 rs1 rm rd k.code
  | .fclass fmt rd rs1 => rzWord (0x1c#5 ++ fmt.code) 0#5 rs1 1#3 rd 0x53#7
  | .fmvXF fmt rd rs1 => rzWord (0x1c#5 ++ fmt.code) 0#5 rs1 0#3 rd 0x53#7
  | .fmvFX fmt rd rs1 => rzWord (0x1e#5 ++ fmt.code) 0#5 rs1 0#3 rd 0x53#7
  | .fcvtIF t fmt rm rd rs1 => rzWord (0x18#5 ++ fmt.code) t.code rs1 rm rd 0x53#7
  | .fcvtFI fmt t rm rd rs1 => rzWord (0x1a#5 ++ fmt.code) t.code rs1 rm rd 0x53#7
  | .fcvtFF dst src rm rd rs1 => rzWord (0x08#5 ++ dst.code) (src.code.setWidth 5) rs1 rm rd 0x53#7
  | .vsetvli rd rs1 imm => iWord (0#1 ++ imm) rs1 7#3 rd 0x57#7
  | .vsetivli rd uimm imm => iWord (3#2 ++ imm) uimm 7#3 rd 0x57#7
  | .vsetvl rd rs1 rs2 => rzWord 0x40#7 rs2 rs1 7#3 rd 0x57#7

/-- The word of an instruction; none for an event. -/
def encode : Instr → Option IWord
  | .scalarLoad k rd rs1 imm => some (iWord imm rs1 k.code.2 rd k.code.1)
  | .scalarStore k rs1 rs2 imm => some (sWord imm rs2 rs1 k.code.2 k.code.1)
  | .atomicAmo op w aq rl rd rs1 rs2 => some (rzWord (op.code ++ aq ++ rl) rs2 rs1 w.code rd 0x2f#7)
  | .amocas w aq rl rd rs1 rs2 => some (rzWord (0x05#5 ++ aq ++ rl) rs2 rs1 w.code rd 0x2f#7)
  | .fence fm pred succ rs1 rd => some (iWord (fm ++ pred ++ succ) rs1 0#3 rd 0x0f#7)
  | .fenceTso rs1 rd => some (iWord 0x833#12 rs1 0#3 rd 0x0f#7)
  | .fenceI imm rs1 rd => some (iWord imm rs1 1#3 rd 0x0f#7)
  | .sfenceVma rs1 rs2 => some (rzWord 0x09#7 rs2 rs1 0#3 0#5 0x73#7)
  | .xret .sret => some 0x10200073#32
  | .xret .mret => some 0x30200073#32
  | .wrsNto => some 0x00d00073#32
  | .wrsSto => some 0x01d00073#32
  | .registerWrite (.csr op im rd src csr) => some (iWord csr src (BitVec.ofBool im ++ op.code) rd 0x73#7)
  | .vectorIssue w => some w
  | .unassignedHint w => some w
  | .standardScalarInstruction op => some (encodeScalar op)
  | .pgPref l a => some (rzWord 0x0#7 l a 6#3 0#5 0x0b#7)
  | .bmPref a => some (rzWord 0x1#7 0#5 a 6#3 0#5 0x0b#7)
  | .ctxSpin => some (rzWord 0x2#7 0#5 0#5 6#3 0#5 0x0b#7)
  | .mfFence q p s => some (rzWord 0x4#7 (q.setWidth 5) (p.setWidth 5) 5#3 (s.setWidth 5) 0x0b#7)
  | .pgZero a => some (rzWord 0x0#7 0#5 a 5#3 0#5 0x0b#7)
  | .pgClean a => some (rzWord 0x1#7 0#5 a 5#3 0#5 0x0b#7)
  | .pgInval a => some (rzWord 0x2#7 0#5 a 5#3 0#5 0x0b#7)
  | .pgFlush a => some (rzWord 0x3#7 0#5 a 5#3 0#5 0x0b#7)
  | .ctxYield => some (rzWord 0x0#7 0#5 0#5 0#3 0#5 0x0b#7)
  | .ctxSleep a => some (rzWord 0x1#7 0#5 a 0#3 0#5 0x0b#7)
  | .ctxWake a d => some (rzWord 0x2#7 0#5 a 0#3 d 0x0b#7)
  | .ctxSelf d => some (rzWord 0x3#7 0#5 0#5 0#3 d 0x0b#7)
  | .ctxCkpt a d => some (rzWord 0x4#7 0#5 a 0#3 d 0x0b#7)
  | .ctxPrio a d => some (rzWord 0x5#7 0#5 a 0#3 d 0x0b#7)
  | .ctxExit => some (rzWord 0x6#7 0#5 0#5 0#3 0#5 0x0b#7)
  | .grpSpawn b a => some (rzWord 0x0#7 b a 1#3 0#5 0x0b#7)
  | .grpSpawnat b a => some (rzWord 0x1#7 b a 1#3 0#5 0x0b#7)
  | .grpGo a => some (rzWord 0x2#7 0#5 a 1#3 0#5 0x0b#7)
  | .grpExit => some (rzWord 0x3#7 0#5 0#5 1#3 0#5 0x0b#7)
  | .grpOwner a d => some (rzWord 0x4#7 0#5 a 1#3 d 0x0b#7)
  | .grpHere a d => some (rzWord 0x5#7 0#5 a 1#3 d 0x0b#7)
  | .barInit b a d => some (rzWord 0x0#7 b a 2#3 d 0x0b#7)
  | .barArrive a d => some (rzWord 0x1#7 0#5 a 2#3 d 0x0b#7)
  | .barWait b a d => some (rzWord 0x2#7 b a 2#3 d 0x0b#7)
  | .barSync a d => some (rzWord 0x3#7 0#5 a 2#3 d 0x0b#7)
  | .barDrop a => some (rzWord 0x4#7 0#5 a 2#3 0#5 0x0b#7)
  | .barTest b a d => some (rzWord 0x5#7 b a 2#3 d 0x0b#7)
  | .barFree a d => some (rzWord 0x6#7 0#5 a 2#3 d 0x0b#7)
  | .krnLaunch a d => some (rzWord 0x0#7 0#5 a 3#3 d 0x0b#7)
  | .krnCancel a d => some (rzWord 0x1#7 0#5 a 3#3 d 0x0b#7)
  | .krnCount a d => some (rzWord 0x2#7 0#5 a 3#3 d 0x0b#7)
  | .krnBorrow d => some (rzWord 0x3#7 0#5 0#5 3#3 d 0x0b#7)
  | .krnWait a d => some (rzWord 0x4#7 0#5 a 3#3 d 0x0b#7)
  | .qPush b a d => some (rzWord 0x0#7 b a 4#3 d 0x0b#7)
  | .qPop b a d => some (rzWord 0x1#7 b a 4#3 d 0x0b#7)
  | .qPeek b a d => some (rzWord 0x2#7 b a 4#3 d 0x0b#7)
  | .qNotify b a d => some (rzWord 0x3#7 b a 4#3 d 0x0b#7)
  | .qReset a d => some (rzWord 0x4#7 0#5 a 4#3 d 0x0b#7)
  | .qState a d => some (rzWord 0x5#7 0#5 a 4#3 d 0x0b#7)
  | .sysKswap => some (rzWord 0x0#7 0#5 0#5 7#3 0#5 0x0b#7)
  | .sysKsave d => some (rzWord 0x1#7 0#5 0#5 7#3 d 0x0b#7)
  | .sysKload a d => some (rzWord 0x2#7 0#5 a 7#3 d 0x0b#7)
  | .sysRankset b a d => some (rzWord 0x3#7 b a 7#3 d 0x0b#7)
  | .sysScent b a d => some (rzWord 0x4#7 b a 7#3 d 0x0b#7)
  | .sysHalt a d => some (rzWord 0x5#7 0#5 a 7#3 d 0x0b#7)
  | .sysResume a => some (rzWord 0x6#7 0#5 a 7#3 0#5 0x0b#7)
  | .sysTlbinv b a => some (rzWord 0x7#7 b a 7#3 0#5 0x0b#7)
  | .sysPoison b a => some (rzWord 0x8#7 b a 7#3 0#5 0x0b#7)
  | .vxSshl m b a d => some (rzWord (0x0#6 ++ m) b a 0#3 d 0x2b#7)
  | .vxSrl m b a d => some (rzWord (0x1#6 ++ m) b a 0#3 d 0x2b#7)
  | .vxSra m b a d => some (rzWord (0x2#6 ++ m) b a 0#3 d 0x2b#7)
  | .vxRsra m b a d => some (rzWord (0x3#6 ++ m) b a 0#3 d 0x2b#7)
  | .vxAbsd m b a d => some (rzWord (0x4#6 ++ m) b a 0#3 d 0x2b#7)
  | .vxAvgr m b a d => some (rzWord (0x5#6 ++ m) b a 0#3 d 0x2b#7)
  | .vxFredtsum m b a d => some (rzWord (0x0#6 ++ m) b a 1#3 d 0x2b#7)
  | .vxFdott m b a d => some (rzWord (0x1#6 ++ m) b a 1#3 d 0x2b#7)
  | .vxMif b => some (rzWord 0x1#7 b 0#5 2#3 0#5 0x2b#7)
  | .vxMelse => some (rzWord 0x3#7 0#5 0#5 2#3 0#5 0x2b#7)
  | .vxMpop => some (rzWord 0x5#7 0#5 0#5 2#3 0#5 0x2b#7)
  | .vxScanadd m b a d => some (rzWord (0x3#6 ++ m) b a 2#3 d 0x2b#7)
  | .vxScanmin m b a d => some (rzWord (0x4#6 ++ m) b a 2#3 d 0x2b#7)
  | .vxScanmax m b a d => some (rzWord (0x5#6 ++ m) b a 2#3 d 0x2b#7)
  | .vxScanminn m b a d => some (rzWord (0x6#6 ++ m) b a 2#3 d 0x2b#7)
  | .vxScanmaxn m b a d => some (rzWord (0x7#6 ++ m) b a 2#3 d 0x2b#7)
  | .vxFscanadd m b a d => some (rzWord (0x8#6 ++ m) b a 2#3 d 0x2b#7)
  | .vxEscanadd m b a d => some (rzWord (0x9#6 ++ m) b a 2#3 d 0x2b#7)
  | .vxTex m b a d => some (rzWord (0x0#6 ++ m) b a 3#3 d 0x2b#7)
  | .vxTexg m b a d => some (rzWord (0x1#6 ++ m) b a 3#3 d 0x2b#7)
  | .vxSshlx m b a d => some (rzWord (0x2#6 ++ m) b a 3#3 d 0x2b#7)
  | .vxSrlx m b a d => some (rzWord (0x3#6 ++ m) b a 3#3 d 0x2b#7)
  | .vxSrax m b a d => some (rzWord (0x4#6 ++ m) b a 3#3 d 0x2b#7)
  | .vxLwait a d => some (rzWord 0xb#7 0#5 a 3#3 d 0x2b#7)
  | .vxLoop n a => some (rzWord 0x0#7 (n.setWidth 5) a 4#3 0#5 0x2b#7)
  | .pkAdd8 b a d => some (rzWord 0x0#7 b a 5#3 d 0x2b#7)
  | .pkAdd16 b a d => some (rzWord 0x1#7 b a 5#3 d 0x2b#7)
  | .pkSub8 b a d => some (rzWord 0x2#7 b a 5#3 d 0x2b#7)
  | .pkSub16 b a d => some (rzWord 0x3#7 b a 5#3 d 0x2b#7)
  | .pkAdds8n b a d => some (rzWord 0x4#7 b a 5#3 d 0x2b#7)
  | .pkSubs8n b a d => some (rzWord 0x5#7 b a 5#3 d 0x2b#7)
  | .pkSll8 b a d => some (rzWord 0x6#7 b a 5#3 d 0x2b#7)
  | .pkSll16 b a d => some (rzWord 0x7#7 b a 5#3 d 0x2b#7)
  | .pkSrl8 b a d => some (rzWord 0x8#7 b a 5#3 d 0x2b#7)
  | .pkSrl16 b a d => some (rzWord 0x9#7 b a 5#3 d 0x2b#7)
  | .pkSra8 b a d => some (rzWord 0xa#7 b a 5#3 d 0x2b#7)
  | .pkSra16 b a d => some (rzWord 0xb#7 b a 5#3 d 0x2b#7)
  | .pkMul8h b a d => some (rzWord 0xc#7 b a 5#3 d 0x2b#7)
  | .pkAvg8 b a d => some (rzWord 0xd#7 b a 5#3 d 0x2b#7)
  | .pkMax8n b a d => some (rzWord 0xe#7 b a 5#3 d 0x2b#7)
  | .pkMin8n b a d => some (rzWord 0xf#7 b a 5#3 d 0x2b#7)
  | .vxCvtm8 m b s d => some (rzWord (0x0#6 ++ m) b (s.setWidth 5) 6#3 d 0x2b#7)
  | .vxCvtfm8 m b d => some (rzWord (0x1#6 ++ m) b 0#5 6#3 d 0x2b#7)
  | .vxBsdec m b a d => some (rzWord (0x2#6 ++ m) b a 6#3 d 0x2b#7)
  | .vxBsenc m b a d => some (rzWord (0x3#6 ++ m) b a 6#3 d 0x2b#7)
  | .vxBsfind m b d => some (rzWord (0x4#6 ++ m) b 0#5 6#3 d 0x2b#7)
  | .tlZero d => some (rzWord 0x0#7 0#5 0#5 0#3 (d.setWidth 5) 0x5b#7)
  | .tlMma b a d => some (rzWord 0x1#7 b a 0#3 (d.setWidth 5) 0x5b#7)
  | .tlMmas b a d => some (rzWord 0x2#7 b a 0#3 (d.setWidth 5) 0x5b#7)
  | .tlLd a d => some (rzWord 0x3#7 0#5 a 0#3 (d.setWidth 5) 0x5b#7)
  | .tlSt a d => some (rzWord 0x4#7 0#5 a 0#3 (d.setWidth 5) 0x5b#7)
  | .tlStc a d => some (rzWord 0x5#7 0#5 a 0#3 (d.setWidth 5) 0x5b#7)
  | .tlAdd a d => some (rzWord 0x6#7 0#5 (a.setWidth 5) 0#3 (d.setWidth 5) 0x5b#7)
  | .tlClaim a d => some (rzWord 0x7#7 0#5 a 0#3 d 0x5b#7)
  | .tlFree a => some (rzWord 0x8#7 0#5 a 0#3 0#5 0x5b#7)
  | .tlWait a => some (rzWord 0x9#7 0#5 a 0#3 0#5 0x5b#7)
  | .tlState d => some (rzWord 0xa#7 0#5 0#5 0#3 d 0x5b#7)
  | .tlRowv b a d => some (rzWord 0x0#7 (b.setWidth 5) a 1#3 d 0x5b#7)
  | .tlVrow b a d => some (rzWord 0x1#7 b a 1#3 (d.setWidth 5) 0x5b#7)
  | .xfOpen a d => some (rzWord 0x0#7 0#5 a 2#3 (d.setWidth 5) 0x5b#7)
  | .xfClose d => some (rzWord 0x1#7 0#5 0#5 2#3 (d.setWidth 5) 0x5b#7)
  | .xfWm a d => some (rzWord 0x2#7 0#5 a 2#3 (d.setWidth 5) 0x5b#7)
  | .xfWait d => some (rzWord 0x3#7 0#5 0#5 2#3 (d.setWidth 5) 0x5b#7)
  | .xfCancel d => some (rzWord 0x4#7 0#5 0#5 2#3 (d.setWidth 5) 0x5b#7)
  | .xfGet b a d => some (rzWord 0x1#7 b a 3#3 (d.setWidth 5) 0x5b#7)
  | .xfPut b a d => some (rzWord 0x3#7 b a 3#3 (d.setWidth 5) 0x5b#7)
  | .xfVget b a d => some (rzWord 0x5#7 b a 3#3 d 0x5b#7)
  | .xfVwait d => some (rzWord 0x7#7 0#5 0#5 3#3 d 0x5b#7)
  | .tskPut a d => some (rzWord 0x0#7 0#5 a 4#3 d 0x5b#7)
  | .tskWait a d => some (rzWord 0x1#7 0#5 a 4#3 d 0x5b#7)
  | .tskPoll a d => some (rzWord 0x2#7 0#5 a 4#3 d 0x5b#7)
  | .tskCancel a d => some (rzWord 0x3#7 0#5 a 4#3 d 0x5b#7)
  | .tskFence a d => some (rzWord 0x4#7 0#5 a 4#3 d 0x5b#7)
  | .tskStream b a d => some (rzWord 0x5#7 b a 4#3 d 0x5b#7)
  | .bmQuery a d => some (rzWord 0x0#7 0#5 a 0#3 d 0x7b#7)
  | .bmWait a d => some (rzWord 0x1#7 0#5 a 0#3 d 0x7b#7)
  | .bmPoll a d => some (rzWord 0x2#7 0#5 a 0#3 d 0x7b#7)
  | .bmSplit a d => some (rzWord 0x3#7 0#5 a 0#3 d 0x7b#7)
  | .bmResume b a d => some (rzWord 0x4#7 b a 0#3 d 0x7b#7)
  | .bmCancel a d => some (rzWord 0x5#7 0#5 a 0#3 d 0x7b#7)
  | .fntLaunch a d => some (rzWord 0x0#7 0#5 a 1#3 d 0x7b#7)
  | .fntDone b a => some (rzWord 0x1#7 b a 1#3 0#5 0x7b#7)
  | .fntSave b a d => some (rzWord 0x2#7 b a 1#3 d 0x7b#7)
  | .fntLoad b a d => some (rzWord 0x3#7 b a 1#3 d 0x7b#7)
  | .fntQuery a d => some (rzWord 0x4#7 0#5 a 1#3 d 0x7b#7)
  | .fntCancel a d => some (rzWord 0x5#7 0#5 a 1#3 d 0x7b#7)
  | .fntWait a d => some (rzWord 0x6#7 0#5 a 1#3 d 0x7b#7)
  | .registerWrite (.dev _ _ _) => none
  | .powerOn => none
  | .packageReset => none
  | .supplyThresholdCrossing _ => none
  | .stretchRiseTick _ => none
  | .stretchFallTick _ => none
  | .singleBitCorrection _ => none
  | .uncorrectableError _ => none
  | .wrsTimeout _ => none
  | .sequencerHeadExecute _ => none
  | .loopIteration _ => none
  | .trapOrInterrupt _ => none
  | .issuePassExpiry _ => none
  | .slotFill _ _ => none
  | .lightRecordArrival _ _ _ _ => none
  | .recordReoffer _ => none
  | .sleeperWake _ => none
  | .remoteScratchpadRequest _ _ => none
  | .scentDivergenceTimeout _ _ => none
  | .scentEnable _ => none
  | .missHoldExpiry _ _ => none
  | .l2FillReturn _ _ => none
  | .broadcastFillMaskWrite _ _ _ _ => none
  | .walkComplete _ _ => none
  | .segmentRegisterWrite _ _ _ _ _ => none
  | .segmentZeroingDone _ _ _ => none
  | .groupForm _ _ _ _ _ => none
  | .groupGoLive _ _ _ => none
  | .groupDrain _ _ _ => none
  | .groupFree _ _ _ => none
  | .launchEndNotice _ _ => none
  | .skennelPark _ => none
  | .skennelReady _ => none
  | .skennelEmptyFailed _ => none
  | .uweightWrite _ _ => none
  | .kennelSaveComplete _ _ _ => none
  | .kennelSaveFault _ _ _ => none
  | .kennelLoadComplete _ _ _ => none
  | .kennelLoadFault _ _ _ => none
  | .haltQuiescent _ _ => none
  | .rankMoveComplete _ => none
  | .tileOpStart _ _ => none
  | .tileOpComplete _ _ => none
  | .multicastRequest _ _ _ _ _ _ => none
  | .multicastEntryTimeout _ _ _ => none
  | .channelPieceSend _ _ _ _ => none
  | .retrieverPiece _ _ _ => none
  | .pieceLands _ _ _ => none
  | .pieceFails _ _ _ => none
  | .channelFaultSignal _ _ _ _ => none
  | .channelCancelDrained _ _ _ _ => none
  | .stripElementLand _ _ _ _ _ => none
  | .stripElementFail _ _ _ _ => none
  | .herderDispatch _ => none
  | .priorityAging _ _ => none
  | .taskEngineFinish _ _ => none
  | .taskEngineFailure _ _ => none
  | .taskRetire _ _ => none
  | .spawnChildSend _ _ => none
  | .transferTaskPieceCut _ _ => none
  | .frontierFire _ _ => none
  | .frontierMessage _ _ => none
  | .boundaryCountSend _ _ => none
  | .frontierStopped _ _ => none
  | .frontierArrayFault _ _ => none
  | .terrierItemStep _ _ => none
  | .terrierAccessFault _ _ => none
  | .collectorWeightMessage => none
  | .launchHeaderCheck _ => none
  | .groupOffer _ => none
  | .groupReoffer _ => none
  | .lightUnitSend _ => none
  | .sweep _ => none
  | .sweepAcknowledged _ => none
  | .intakeTake => none
  | .cmdNop _ => none
  | .cmdLaunch _ => none
  | .cmdSignal _ => none
  | .cmdWait _ => none
  | .cmdWaitPoll _ => none
  | .commandCompletion _ => none
  | .queueNotifyWrite _ _ _ => none
  | .queueEnable _ _ _ => none
  | .queueDisable _ _ => none
  | .queueResetWrite _ _ => none
  | .queueResetComplete _ => none
  | .agentTakeRecord _ => none
  | .triangleRecord _ => none
  | .fragmentBlockPush _ => none
  | .drawRecord _ => none
  | .drawComplete _ => none
  | .pixelUpdateRecord _ => none
  | .linkEnable _ _ => none
  | .linkDisable _ _ => none
  | .linkTrainingComplete _ _ _ _ => none
  | .flitReceive _ _ => none
  | .routeTableWrite _ _ _ => none
  | .routeEntryEffect _ => none
  | .hostRequest _ => none
  | .ownershipClaim _ _ => none
  | .ownershipHandoff _ _ => none
  | .mailboxDoorbell _ _ _ => none
  | .reqAttest => none
  | .reqStage => none
  | .reqCommit => none
  | .reqAbort => none
  | .reqKeyload => none
  | .reqKeyclear => none
  | .reqTkset => none
  | .reqPing => none
  | .reqKstate => none
  | .reqKcancel => none
  | .reqScrub => none
  | .reqEcount => none
  | .reqMonread => none
  | .reqRetrain => none
  | .reqHalt => none
  | .reqResume => none
  | .reqHread => none
  | .reqUnknownOp => none
  | .handoverCommitPoint _ => none
  | .handoverFailure _ => none
  | .supplyMonitorDisable _ _ => none
  | .errorRecord => none
  | .parkStoreEntryFree _ => none
  | .supplyAboveThreshold _ => none
  | .memoryAcknowledgement _ => none

end Sys2Proof
end

