-- ==== Sys2Proof/Config.lean ====
section
/-! DEFINITION. What the spec leaves open: free values, drawn at a counter of State or at the operands they depend on.
None has a body, so no proof can rest on a particular value. -/

namespace Sys2Proof.Config

/-- A doubleword that the spec leaves open, drawn at the counter State.free (log entry 2). -/
opaque freeWord : Nat → Word

/-- How many core cycles beyond one an issue turn takes, drawn at State.free (spec/00_scope.md R528; log entry 2). -/
opaque extraCycles : Nat → Nat

/-- Whether an agnostic tail or mask element is overwritten with ones, drawn at State.free (spec/03_encoding.md R67;
log entry 10). -/
opaque agnosticOnes : Nat → Bool

/-- Which pair an unordered sum adds next, drawn at State.free (log entry 11). -/
opaque sumPick : Nat → Nat

/-- The plaintext that a sector stored under one key (none: plaintext) gives when it is read under another, by
AES-256-XTS with the sector's address as tweak (spec/04_memory.md R116; log entry 12). -/
opaque xtsCross : Option (BitVec 256) → Option (BitVec 256) → Nat → BitVec 256 → BitVec 256

/-- The function, version and anti-rollback counter that a firmware image carries (spec/18_link.md R486; log entry 12). -/
opaque imageFields : List Byte → Nat × Nat × Nat

/-- The key that a peer device's HBM controller holds in one of its slots, by device and key index; none is an empty slot
(spec/04_memory.md R118; log entry 12). -/
opaque peerKey : Nat → Nat → Option (BitVec 256)

/-- Port cycles in which an arrival that is served met a local access at its bank, drawn at State.free (spec/03_encoding.md
R68 event 9; spec/04_memory.md R92; log entry 2). -/
opaque portMeets : Nat → Nat

/-- Flits that a link's sender has put into its replay buffer since the last flit was checked, drawn at State.free
(spec/18_link.md R473; log entry 44). -/
opaque flitsSent : Nat → Nat

/-- SHA-512 of a string of bytes (spec/18_link.md R486, R488; log entry 12). -/
opaque sha512 : List Byte → BitVec 512

/-- Whether an Ed25519 signature is good for a digest under the vendor's key (spec/18_link.md R486; log entry 12). -/
opaque vendorSigned : BitVec 512 → List Byte → Bool

/-- The Ed25519 signature of the device over a string of bytes (spec/18_link.md R488; log entry 12). -/
opaque deviceSign : List Byte → BitVec 512

/-- Unwrapping of a wrapped key under the transport key; none where the integrity check fails (spec/18_link.md R484;
log entry 12). -/
opaque keyUnwrap : BitVec 256 → List Byte → Option (BitVec 256)

end Sys2Proof.Config
end

