-- ==== Sys2Proof/Machine/Tab.lean ====
section
/-! DEFINITION. Sparse tables and byte memory as plain data: lists sorted by key. -/

namespace Sys2Proof.Machine

/-- A table by number: the entries that differ from the table's initial contents, keys rising. -/
structure Tab (α : Type) where
  ents : List (Nat × α)
deriving DecidableEq, Repr, Inhabited

/-- Entry k of a sorted list, or d. -/
def lookup {α : Type} (d : α) (k : Nat) : List (Nat × α) → α
  | [] => d
  | (j, v) :: r => if j = k then v else lookup d k r

/-- A sorted list with entry k set. -/
def insertAt {α : Type} (k : Nat) (v : α) : List (Nat × α) → List (Nat × α)
  | [] => [(k, v)]
  | (j, w) :: r =>
    if j = k then (k, v) :: r
    else if k < j then (k, v) :: (j, w) :: r
    else (j, w) :: insertAt k v r

/-- The table with nothing written. -/
def Tab.empty {α : Type} : Tab α := ⟨[]⟩

/-- Entry k, where d is its initial contents. -/
def Tab.get {α : Type} (t : Tab α) (d : α) (k : Nat) : α := lookup d k t.ents

/-- The table with entry k written. -/
def Tab.put {α : Type} (t : Tab α) (k : Nat) (v : α) : Tab α := ⟨insertAt k v t.ents⟩

/-- Byte memory: a canonical list of cells. -/
abbrev Memory := List Host.Cell

/-- What a byte that no cell lists reads as: 0 (spec/04_memory.md R94 for the scratchpads and vaults; elsewhere
DESIGN CHOICE, log entry 3, unsafe). -/
def unlisted : Byte := 0#8

/-- Keys rise strictly, start at or above the bound, and no cell holds what an unlisted byte reads as. -/
def cellsFrom (lo : Nat) : Memory → Bool
  | [] => true
  | (a, b) :: r => decide (lo ≤ a) && decide (b ≠ unlisted) && cellsFrom (a + 1) r

/-- The canonical form of memory. -/
def Memory.wf (m : Memory) : Bool := cellsFrom 0 m

/-- Byte at an address. -/
def Memory.read (m : Memory) (a : Nat) : Byte := lookup unlisted a m

/-- The memory without any cell at an address. -/
def eraseCell (a : Nat) : Memory → Memory
  | [] => []
  | (j, w) :: r => if j = a then eraseCell a r else (j, w) :: eraseCell a r

/-- Memory with one byte written; writing the unlisted value removes the cell. -/
def Memory.write (m : Memory) (a : Nat) (b : Byte) : Memory :=
  if b = unlisted then eraseCell a m else insertAt a b m

/-- n bytes from an address up. -/
def Memory.readN (m : Memory) (a : Nat) : Nat → List Byte
  | 0 => []
  | n + 1 => m.read a :: Memory.readN m (a + 1) n

/-- Memory with bytes written from an address up. -/
def Memory.writeN (m : Memory) (a : Nat) : List Byte → Memory
  | [] => m
  | b :: bs => Memory.writeN (m.write a b) (a + 1) bs

/-- The little-endian number in n bytes of memory (spec/00_scope.md R3). -/
def Memory.readLE (m : Memory) (a n : Nat) : Nat := leNat (m.readN a n)

/-- Memory with n bytes of a number written, little-endian. -/
def Memory.writeLE (m : Memory) (a n v : Nat) : Memory := m.writeN a (leBytes n v)

end Sys2Proof.Machine
end

