-- ==== Sys2Proof/Machine/State.lean ====
section
/-! DEFINITION. The machine's state as plain data: everything the spec gives the part, and a few fields of the model's own
(the schedule, the counter of free values, the instruction in flight). INVENTORY.md lists every field with its rule. -/

namespace Sys2Proof.Machine

/-- Reasons a step stops the machine for good. There is none: every exceptional outcome that the spec describes is a
trap, an error record or a status value, so no step of the model faults. Safe. -/
inductive Fault where
deriving DecidableEq, Repr

/-- Reasons a step has no meaning. -/
inductive Refusal where
  /-- Raised by an arm of exec that has no meaning yet, named by its mnemonic. Safe: nothing is proved about the run. -/
  | notModelled (mnemonic : String)
deriving DecidableEq, Repr

/-! ### Pages and translations -/

/-- Privilege modes (spec/03_encoding.md R65). -/
inductive Priv where
  | u | s | m
deriving DecidableEq, Repr, Inhabited

/-- Kind of an access: what permission it needs and which causes it raises (spec/06_page.md R155). -/
inductive Acc where
  | fetch | load | store
  | amo                  -- an AMO or amocas: a store that consumes poison as a load does (R150, R166)
  | inval                -- pg.inval: the permission and causes of a store, but D is neither needed nor set (R150, R169)
  | clean                -- pg.clean, pg.flush: the permission and causes of a load, but no poison is consumed (R169, R170)
deriving DecidableEq, Repr, Inhabited

/-- The attributes of a page (spec/06_page.md R152, R153). -/
structure Attr where
  cache : Nat := 0      -- 0 cached, 1 streaming, 2 uncached
  zl    : Bool := false
  cos   : Nat := 0
  key   : Nat := 0
  home  : Nat := 0
deriving DecidableEq, Repr, Inhabited

/-- A translation held in a TLB (R156). -/
structure TlbEnt where
  vpn  : Nat            -- first 4 KiB virtual page
  span : Nat            -- pages covered: 1, 16, 512, 512^2, 512^3
  asid : Nat
  g    : Bool
  ppn  : Nat            -- first physical page
  r    : Bool
  w    : Bool
  x    : Bool
  u    : Bool
  a    : Bool           -- the PTE's A bit, and its D bit, as the walk left them (R150)
  d    : Bool
  attr : Attr
deriving DecidableEq, Repr

/-- Which of a slot's accesses one is: its fetch, that of its scalar instruction, or that of the head of its sequencer. Each of
them can wait on its own (R159, spec/07_context.md R190). -/
inductive AccessOf where
  | fetch | scalar | vector
deriving DecidableEq, Repr, Inhabited

/-- An access that waits for a walk (R159). -/
structure Waiter where
  hart     : Hart
  part     : AccessOf
  acc      : Acc
  va       : Word
  n        : Nat         -- bytes of the access
  tv       : Word        -- trap value: the first byte of the whole access (spec/03_encoding.md R67)
  priv     : Priv
  sum      : Bool
  mxr      : Bool
  released : Bool       -- R162
deriving DecidableEq, Repr

/-- A walk in progress (R157), or one that waits for one of its die's 64 walkers (R156); the first waiter started it. -/
structure Walk where
  vpn     : Nat
  asid    : Nat
  satp    : Word
  cos     : Nat         -- class of the requesting slot, R157
  since   : Nat         -- when it asked for a walker
  waiters : List Waiter
deriving DecidableEq, Repr

/-- A fault-pending entry (R161). -/
structure Fpend where
  vpn     : Nat
  asid    : Nat
  slot    : Hart        -- the slot that took the trap
  waiters : List (Hart × AccessOf)   -- the slots whose access waits, and which of their accesses
deriving DecidableEq, Repr

/-! ### Caches -/

/-- An L2 line (spec/04_memory.md R101, R105, R108, R117). -/
structure L2Line where
  addr   : Nat          -- address of the line in the model's address space, a multiple of 256
  home   : Nat
  key    : Nat
  cls    : Nat
  asid   : Nat
  way    : Nat
  valid  : BitVec 8
  dirty  : BitVec 8
  zero   : Bool
  poison : BitVec 8
  data   : List (BitVec 256)   -- its eight sectors
  used   : Nat
  owed   : List Hart := []      -- harts whose miss the fill answers: their load is no further use of the line
deriving DecidableEq, Repr

/-- A line of the L1 data cache (R98). -/
structure L1dLine where
  addr   : Nat
  key    : Nat
  set    : Nat          -- virtual address bits 13:5
  poison : Bool
  data   : BitVec 256
  used   : Nat
deriving DecidableEq, Repr

/-- A line of the L1 instruction cache (R99). -/
structure L1iLine where
  addr   : Nat
  key    : Nat
  poison : BitVec 2
  data   : List (BitVec 256)   -- its two blocks
  used   : Nat
deriving DecidableEq, Repr

/-- A read miss in a slice's miss buffer (R104). -/
structure Miss where
  addr    : Nat
  attr    : Attr
  cls     : Nat
  asid    : Nat
  sectors : BitVec 8
  issued  : Bool
  pref    : Bool                 -- asked for by a prefetch only (spec/06_page.md R167)
  l1      : Option (Nat × Nat)   -- core and L1D set to fill as well (pg.pref lvl 1, spec/03_encoding.md R77)
  harts   : List Hart := []      -- harts that wait for the fill
deriving DecidableEq, Repr

/-- An access sent and not yet acknowledged by memory or a home (spec/05_ordering.md R125; spec/06_page.md R171). -/
structure Unacked where
  hart : Hart
  addr : Nat
deriving DecidableEq, Repr

/-! ### The context -/

/-- The identity captured when work is issued (spec/11_group.md R525). -/
structure Ident where
  asid  : Nat := 0
  priv  : Priv := .u
  light : Bool := true
  gv    : Bool := false
  grp   : Nat := 0
  key   : Nat := 0
  cos   : Nat := 0              -- scos.CLS: the class of Bare accesses and of walks (spec/06_page.md R153, R157)
  hart  : Option Hart := none   -- the slot whose PMP registers the engine's walks obey (log entry 14)
deriving DecidableEq, Repr, Inhabited

/-- A sequencer entry (spec/07_context.md R186). -/
structure SeqEnt where
  bits  : IWord
  vl    : Nat
  v     : Bool          -- valid
  l     : Bool          -- member of the captured loop body
  vtype : Word
  op1   : Word
  op2   : Word
  ident : Ident := {}            -- of an xf.vget: what its strip captures (spec/10_transfer.md R284, spec/11_group.md R525)
  satp  : Word := 0
  cls   : Option Nat := none
deriving DecidableEq, Repr, Inhabited

/-- States of a channel (spec/10_transfer.md R297). -/
inductive ChanState where
  | closed | openGet | openPut | faultGet | faultPut | cancelling
deriving DecidableEq, Repr, Inhabited

/-- A request of a channel (R292, R304). -/
structure ChanReq where
  far   : Nat                    -- x[rs1]
  dims  : List (Nat × Int)       -- extent and stride of each dimension, dimension 0 first
  at_   : Nat                    -- issue pointer at the request
  total : Nat
  sent  : Nat                    -- bytes already cut into pieces
  cls   : Option Nat             -- class carried when scos.OVR = 1, R284
  home  : Option (Nat × Nat)     -- home devices of the first piece's two sides, R293
  since : Nat := 0               -- when it was accepted (spec/11_group.md R320)
deriving DecidableEq, Repr, Inhabited

/-- A transfer channel (R286 to R297, spec/07_context.md R187). -/
structure Chan where
  st     : ChanState := .closed
  base   : Nat := 0
  len    : Nat := 0
  wm     : Word := 0
  ip     : Nat := 0
  mask   : Nat := 0
  sig    : Nat := 0
  satp   : Word := 0
  ident  : Ident := {}
  reqs   : List ChanReq := []
  whole  : List (Nat × Nat × List Nat) := []   -- completed runs above the watermark: address, length, global lines (R145)
  reason : Nat := 0                 -- cause-25 reason and address of a Faulted channel
  faddr  : Nat := 0
  sigOr  : Bool := false            -- the OR of R290 is done
  owesOr : Bool := false            -- cancelled after it had become Faulted and before that OR
deriving DecidableEq, Repr, Inhabited

/-- A register strip (R298 to R301, spec/07_context.md R188). -/
structure Strip where
  v      : Bool := false
  src    : Nat := 0               -- source address of element `start`
  vd     : Nat := 0
  sew    : Nat := 0               -- width code of vtype.vsew
  start  : Nat := 0               -- first element of the part still to land
  count  : Nat := 0
  stride : Int := 0
  ident  : Ident := {}
  satp   : Word := 0
  cls    : Option Nat := none     -- class carried when scos.OVR = 1, R284
  old    : List VReg := []        -- its destination registers when it started (R301)
  landed : List Nat := []         -- element groups landed (number of 16-byte group)
  data   : List (Nat × Nat) := [] -- elements that have landed clean, with their values (spec/07_context.md R189)
  bad    : List Nat := []         -- elements that have landed poisoned
  fault  : Option Nat := none     -- reason of a Faulted strip
deriving DecidableEq, Repr, Inhabited

/-- The register state of a thread (spec/07_context.md R172 to R174, R182 to R189). -/
structure Ctx where
  cid      : Nat := 0             -- the model's own name of the context
  pc       : Word := 0
  x        : Tab Word := Tab.empty
  f        : Tab Word := Tab.empty
  v        : Tab VReg := Tab.empty
  priv     : Priv := .u
  prio     : Nat := 0
  fcsr     : Word := 0
  vstart   : Word := 0
  vxsat    : Word := 0
  vxrm     : Word := 0
  vl       : Nat := 0
  vtype    : Word := 0x8000000000000000#64
  mxfmt    : Word := 0
  mxld     : Word := 0
  mxsca    : Word := 0
  mxscb    : Word := 0
  mxcast   : Word := 0
  vmsp     : Word := 0
  vmsbase  : Word := 0
  hw       : Tab VReg := Tab.empty
  vlpcnt   : Word := 0
  vlpidx   : Word := 0
  uweight  : Word := 0
  ulaunch  : Word := 0
  sstatus  : Word := 0x2200#64     -- SIE, SPIE, SPP, VS, FS, SUM, MXR only; FS and VS Initial
  sepc     : Word := 0
  scause   : Word := 0
  stval    : Word := 0
  sscratch : Word := 0
  satp     : Word := 0
  ssavea   : Word := 0
  scos     : Word := 0
  svault   : Word := 0
  instret  : Word := 0
  ckpt     : Word := 0
  seq      : List SeqEnt := []
  frozen   : Option Priv := none
  chans    : Tab Chan := Tab.empty
  strips   : Tab Strip := Tab.empty
  accs     : Tab (Option Nat) := Tab.empty   -- physical accumulator of each claimed name
  light    : Bool := false
  fp       : Bool := false
  bh       : Bool := false
  resv     : Option Nat := none    -- reservation granule of LR
  vfrom    : Option Nat := none    -- element at which the vector store that runs began (spec/06_page.md R165; model's own)
  vpoison  : List (Nat × Word × Nat) := []   -- v registers whose strip landed poisoned: virtual and physical address (R301)
deriving DecidableEq, Repr, Inhabited

/-! ### The slot -/

/-- Why a slot passes its turns until something happens (spec/07_context.md R195). -/
inductive WaitKind where
  | recordSent | recordTaken | recordRefused      -- light record, spec/11_group.md R314
  | sleeping | woken                              -- ctx.sleep, R210
  | barrier | barDone                             -- bar.wait, bar.sync: a = barrier, b = token, then status, spec/12_barrier.md R335
  | borrow | borrowed                             -- krn.borrow, spec/14_kernel.md R387
  | wrs | wrsOver                                 -- wrs.sto, wrs.nto, spec/03_encoding.md R67
  | cancel                                        -- a cancelling instruction has started its cancel: a = handle
  | reset                                         -- q.reset has started
  | fence                                         -- tsk.fence: a = records accepted before it, b = selector and whether one failed
  | frontier                                      -- a frontier instruction has sent its request
  | rankMove | rankMoved                          -- sys.rankset, R219
  | beam                                          -- a beam instruction has done its first part
  | posted                                        -- a remote scratchpad request has been sent
deriving DecidableEq, Repr

/-- A wait of a slot: two numbers and page attributes that its kind gives meaning to, and the instruction that waits. -/
structure WaitMark where
  kind : WaitKind
  a    : Nat := 0
  b    : Nat := 0
  attr : Attr := {}
  cell : List Byte := []     -- the record that a ctx.wake has taken from its cell (spec/11_group.md R317)
  bits : IWord := 0#32       -- the instruction in flight, which is not fetched again
  len  : Nat := 4
deriving DecidableEq, Repr

/-- What a walk, or a release, leaves for an access of a slot that waited on it: it walks once more, released, or it traps
(spec/06_page.md R159, R162). -/
inductive PageEnd where
  | released
  | trap (cause : Nat) (tval : Word)
deriving DecidableEq, Repr

/-- The outcome for one access of a slot, by page and address space. -/
structure PageMark where
  vpn  : Nat
  asid : Nat
  part : AccessOf
  out  : PageEnd
deriving DecidableEq, Repr

/-- A barrel slot: the state that stays with it (spec/07_context.md R185) and the context in it. -/
structure Slot where
  ctx        : Option Ctx := none
  mstatus    : Word := 0          -- MIE, MPIE, MPP, MPRV, TVM, TW, TSR only
  mtvec      : Word := 0
  medeleg    : Word := 0
  mideleg    : Word := 0
  mie        : Word := 0
  mip        : Word := 0
  mscratch   : Word := 0
  mepc       : Word := 0
  mcause     : Word := 0
  mtval      : Word := 0
  mcounteren : Word := 0
  scounteren : Word := 0
  menvcfg    : Word := 0
  senvcfg    : Word := 0
  stvec      : Word := 0
  pmpcfg     : Tab Byte := Tab.empty
  pmpaddr    : Tab Word := Tab.empty
  skennel    : Word := 0          -- SRC, YIE, RDY, SLOT, ENT (STATE and NRDY are computed)
  ktval      : Word := 0          -- stval of a pending interrupt 31 (R197, R207)
  pass       : Nat := 0           -- core cycles for which the slot passes its turns
  wait       : Option WaitMark := none
  marks      : List PageMark := []  -- what walks have left for its waiting accesses, at most one for each page and access
  halted     : Bool := false      -- R206
deriving DecidableEq, Repr, Inhabited

/-! ### The core -/

/-- States of a Kennel entry (spec/07_context.md R179, R201). -/
inductive KenState where
  | empty | parked | ready | loading | saving | stalled | failed
deriving DecidableEq, Repr, Inhabited

/-- A Kennel entry (R177, R197, R201). -/
structure Ken where
  st    : KenState := .empty
  ctx   : Option Ctx := none
  off   : Nat := 0            -- progress of a save, in bytes of the image after the header
  image : Nat := 0            -- address of the image being loaded
  satp  : Word := 0           -- address space of the slot that loads it
  rdy   : Bool := false       -- state it takes when loaded
  by_   : Hart := 0           -- slot that issued the save or load
  flags : Word := 0           -- FLAGS of the image
  since : Nat := 0            -- when it became ready
  vlenb : Nat := 64           -- VLENB of the image being loaded (R204)
  cos   : Nat := 0            -- scos.CLS of the slot that issued the save or load, and its class where OVR is 1 (R108, R114)
  cls   : Option Nat := none
deriving DecidableEq, Repr, Inhabited

/-- States of an accumulator (spec/09_tile.md R257). -/
inductive AccState where
  | free | claimed | failed | taskHeld
deriving DecidableEq, Repr, Inhabited

/-- A physical accumulator (R255, R256). -/
structure AccReg where
  st   : AccState := .free
  bits : AccBits := 0#32768
  err  : Word := 0            -- error address (R273)
  bad  : Bool := false        -- ERR (R256)
  gen  : Nat := 0             -- bindings so far (model's own)
deriving DecidableEq, Repr, Inhabited

/-- Kinds of tile operation (R266). -/
inductive TileKind where
  | zero | mma | mmas | ld | st | stc | add
deriving DecidableEq, Repr, Inhabited

/-- A tile operation in the queue (R266); addresses are those of the cluster scratchpad window (R263). -/
structure TileOp where
  kind    : TileKind
  dst     : Nat               -- physical accumulator
  src     : Nat := 0          -- physical accumulator of tl.add
  a       : Nat := 0          -- offset in the cluster's scratchpads of A, or of the C image
  b       : Nat := 0
  sa      : Nat := 0
  sb      : Nat := 0
  va      : Word := 0         -- the same operands as the program named them
  vb      : Word := 0
  mxfmt   : Word := 0
  mxld    : Word := 0
  mxcast  : Word := 0
  va2     : Word := 0
  vb2     : Word := 0
  cid     : Nat := 0          -- the issuing context
  task    : Option Nat := none  -- the Herder window entry of a tile task (R281)
  asid    : Nat := 0
  launch  : Nat := 0
  ident   : Ident := {}       -- captured at its start (spec/11_group.md R525)
  again   : Bool := false     -- it has waited for the zeroing of a segment and is checked again (spec/11_group.md R311)
  gen     : Nat := 0          -- binding of dst when it was accepted
  sgen    : Nat := 0          -- binding of src when it was accepted
  running : Bool := false
  res     : Option (AccBits × List (Nat × List Byte)) := none  -- what it writes: the accumulator, and stored bytes
  kept    : List (Nat × List Byte) := []                       -- pieces of the other operands, read when it started (R269)
  got     : List (Nat × List Byte) := []                       -- pieces of B read by multicast (R270)
  bad     : Option (Word × Nat) := none -- virtual and physical address of a poisoned operand block
deriving DecidableEq, Repr

/-- A combining entry of multicast reads (R270). -/
structure Comb where
  tag   : Nat
  piece : Nat
  cnt   : Nat
  cores : List Nat            -- global core ranks joined, the opener first
deriving DecidableEq, Repr

/-- A request at a core's memory port (spec/04_memory.md R92; spec/05_ordering.md R137). -/
structure PortReq where
  kind  : Nat              -- KIND of R139
  src   : Nat              -- SRCID
  hart  : Hart             -- source hart of KIND 0
  op    : Nat              -- OP of R139: 0 store, 1 AMO, 2 load, 3 amocas
  off   : Nat              -- scratchpad offset
  bytes : List Byte        -- bytes of a store; as many bytes as a load reads
  pois  : Bool             -- a whole poisoned block
  ident : Ident := {}      -- whose access it is, and its launch (spec/11_group.md R311, spec/17_queue.md R458)
  launch : Nat := 0
  again : Bool := false    -- it has waited for the zeroing of its segment and is checked again (spec/11_group.md R311)
  clears : List Nat := []  -- blocks that its vector store has written whole with it (spec/06_page.md R165)
deriving DecidableEq, Repr

/-- A turn of the schedule: an issue turn of a hart, an event, or an instruction of a control core. -/
inductive Turn where
  | issue (h : Hart)
  | event (i : Instr)
  | control (n : Nat)
deriving DecidableEq, Repr

/-- What an imposed log compares of an access that arrives at a port (spec/07_context.md R220; spec/05_ordering.md R139). -/
structure PortSig where
  src  : Nat
  slot : Nat
  kind : Nat
  op   : Nat
  sz   : Nat
  off  : Nat
deriving DecidableEq, Repr

/-- An imposed scent log (spec/07_context.md R220). -/
structure Impose where
  next     : Nat := 0      -- address of the next record
  left     : Nat := 0      -- records remaining
  diverged : Bool := false
  held     : List (Turn × PortSig) := []      -- accesses that it holds, in arrival order, each with the turn that makes it
  probe    : Option (List PortSig) := none    -- the accesses of a turn that is tried without the log (model's own)
deriving DecidableEq, Repr, Inhabited

/-- Who owns a transfer piece (spec/10_transfer.md R282; spec/13_task.md R343). -/
inductive PieceOwner where
  | chan (cid ch : Nat)
  | task (cl ent : Nat)
deriving DecidableEq, Repr

/-- A piece sent to a Retriever (R282 to R285). -/
structure Piece where
  owner  : PieceOwner
  read   : Word             -- virtual address of the bytes that are read
  write  : Word             -- virtual address of the bytes that are written
  len    : Nat
  near   : Nat              -- channel-side address of the piece's first byte
  ident  : Ident
  satp   : Word
  cls    : Option Nat
  launch : Nat
  mask   : Nat              -- multicast core mask
  get    : Bool             -- the bytes that are read are the far end
  first  : Bool             -- first piece of its request
  req    : Nat              -- issue pointer at its request
  since  : Nat := 0         -- when its request was accepted (spec/11_group.md R320)
  lines  : List Nat := []   -- global lines that it has written (spec/05_ordering.md R145)
  pois   : Bool := false    -- the Retriever's buffer was struck (R295)
  done   : Bool := false    -- its bytes have been moved
  fail   : Option (Nat × Nat) := none   -- reason of R294 and far address of a failure
deriving DecidableEq, Repr

/-- What a core of a global core rank holds (spec/01_device.md R23). -/
structure Core where
  kennel   : Tab Ken := Tab.empty
  queue    : List LightRec := []
  ringHead : Nat := 0
  ringCnt  : Nat := 0
  roff     : Nat := 0
  rvault   : Nat := 0
  rsize    : Nat := 4
  fromQueue : Bool := false       -- the last slot was filled from the arrival queue (R178)
  winVec   : Nat := 7             -- last winners of the shared units (R176)
  winMat   : Nat := 7
  winMem   : Nat := 7
  accs     : Tab AccReg := Tab.empty
  tileq    : List TileOp := []
  comb     : List Comb := []
  portq    : List PortReq := []
  sscent   : Word := 0
  scentSeq : Nat := 0
  scentN   : Nat := 0             -- records logged since enable (R138 STOP)
  impose   : Impose := {}
  cycle    : Word := 0
  hpm      : Tab Word := Tab.empty
  hpmev    : Tab Word := Tab.empty
  inhibit  : Word := 0
  itlb     : List TlbEnt := []
  dtlb     : List TlbEnt := []
  l1d      : List L1dLine := []
  l1i      : List L1iLine := []
  halted   : Bool := false
  quiet    : Bool := false
  stale    : Bool := false
  pieces   : List Piece := []
deriving DecidableEq, Repr, Inhabited

/-! ### The cluster -/

/-- A group-table entry (spec/11_group.md R307). -/
structure Group where
  cores  : Nat := 0
  barn   : Nat := 0
  barb   : Nat := 0
  launch : Nat := 0
  asid   : Nat := 0
  st     : Nat := 0        -- 0 Free, 1 Forming, 2 Live, 3 Draining
deriving DecidableEq, Repr, Inhabited

/-- A segment register, with a write whose zeroing is under way (R310, R311). -/
structure Seg where
  val  : Word := 0
  next : Option Word := none
deriving DecidableEq, Repr, Inhabited

/-- A rank-table entry (R319). -/
structure RankEnt where
  phys    : Nat
  transit : Bool := false
  since   : Nat := 0        -- when it was marked in transit (R320)
deriving DecidableEq, Repr, Inhabited

/-- A rank move (spec/07_context.md R219). -/
structure Move where
  rank   : Nat
  target : Nat
  retire : Bool
  wasHalted : Bool
  by_    : Hart
deriving DecidableEq, Repr, Inhabited

/-! ### Barriers (spec/12_barrier.md) -/

/-- A barrier entry (R329). -/
structure Bar where
  st      : Nat := 0        -- 0 Free, 1 Armed, 2 Drained, 3 Broken
  g       : Bool := false
  grp     : Nat := 0
  arrived : Nat := 0
  count   : Nat := 0
  phase   : Nat := 0
  asid    : Nat := 0
  launch  : Nat := 0
deriving DecidableEq, Repr, Inhabited

/-- A parked light record (R330, R336). -/
structure Parked where
  bar  : Nat
  core : Nat                -- core rank where it parked
  tok  : Nat
  rd   : Nat
  light : LightRec
deriving DecidableEq, Repr, Inhabited

/-! ### The Herder (spec/13_task.md) -/

/-- States of a task record (R354). -/
inductive TaskSt where
  | free | blocked | ready | pooled | running | done | failed | cancelled
deriving DecidableEq, Repr, Inhabited

/-- A window entry of the Herder (R346 to R354). -/
structure Task where
  st     : TaskSt := .free
  seq    : Nat := 0            -- acceptance sequence number
  bytes  : List Byte := []     -- the 128 bytes of the record
  fps    : List (Nat × Nat × Nat) := []   -- used footprints, resolved: base, length, mode
  preds  : List Nat := []      -- entries that it waits for: its dependence counter is their number
  after  : List Nat := []      -- entries of all its predecessors that have not retired (R347, R354)
  since  : Nat := 0            -- order of becoming ready; once it runs, when its engine accepted it
  age    : Nat := 0            -- full 1,024-cycle spans in the pool
  reason : Nat := 0
  ident  : Ident := {}
  satp   : Word := 0
  cls    : Option Nat := none
  launch : Nat := 0
  g      : Nat := 0            -- issuing core
  weight : Nat := 0            -- c of R353
  place  : Nat := 0            -- engine it runs on: core rank, Retriever, query slot, tracker entry
  acc    : Nat := 0            -- accumulator held by a tile task
  sent   : Nat := 0            -- pieces cut, children sent
  acked  : Nat := 0            -- children accepted
  passed : Nat := 0            -- weight that went with them
  bad    : Option Nat := none  -- the poisoned block of data that failed it
  noSig  : Bool := false       -- the signal was destroyed (R357)
  lostW  : Bool := false       -- the weight was destroyed (R357)
  retired : Bool := false      -- its window entry is free again; the outcome stays readable
deriving DecidableEq, Repr, Inhabited

/-- A stream (R346, R365). -/
structure Stream where
  asid    : Nat := 0
  stopped : Bool := false
  fail    : Bool := false
  reason  : Nat := 0
deriving DecidableEq, Repr, Inhabited

/-! ### The frontier tracker (spec/15_frontier.md) -/

/-- States of a frontier launch (R403); its code is that of R412. -/
inductive FntSt where
  | running | stopping | stopped | saved | complete | failed | cancelled | absent
deriving DecidableEq, Repr, Inhabited

/-- A line that a tracker holds (R392). -/
structure Line where
  count : Nat := 0
  comp  : Word := 0
  fired : Word := 0
deriving DecidableEq, Repr, Inhabited

/-- A tracker entry: one band of a frontier launch (R397 to R402). Band 0's entry keeps the state of the launch. -/
structure Trk where
  gen    : Nat := 0
  st     : FntSt := .absent
  reason : Nat := 0
  band   : Nat := 0
  bands  : List (Nat × Nat) := []   -- cluster and entry of every band, band 0 first
  ndim   : Nat := 0
  infl   : Nat := 0
  ext    : List Nat := []
  vecs   : List (List Int) := []
  array  : Nat := 0
  sig    : Nat := 0
  entry  : Word := 0
  ident  : Ident := {}
  satp   : Word := 0
  cls    : Option Nat := none
  launch : Nat := 0
  g      : Nat := 0
  weight : Nat := 0
  lo     : Nat := 0             -- first and one past the last p0 of the band
  hi     : Nat := 0
  held   : Tab Line := Tab.empty    -- own lines held
  ghost  : Tab Nat := Tab.empty     -- ghost copies held
  outbox : List (Nat × Nat) := []   -- boundary lines whose count is still to be written and sent
  inbox  : List (Nat × Nat) := []   -- frontier messages on their way to this entry
  withdrawn : List LightRec := []   -- withdrawn records
  ended  : Bool := false            -- the entry has returned its weight; st and reason are the launch's outcome
deriving DecidableEq, Repr, Inhabited

/-! ### The Terriers (spec/16_beam.md) -/

/-- States of a query (R438); its code is that of R443. -/
inductive QrySt where
  | running | faulted | complete | failed | cancelled | absent
deriving DecidableEq, Repr, Inhabited

/-- An item: a beam piece and where its descent resumes (R424). -/
structure Item where
  beam   : List Byte := []      -- 64 bytes
  node   : Nat := 0             -- child reference
  sub    : Nat := 0             -- SUB of R429
  reason : Nat := 0
  bv     : Bool := false
  path   : Nat := 0
  box    : List Byte := []      -- 24 bytes when bv
  seq    : Nat := 0             -- order of placement
  hand   : Bool := false        -- handed over by a handler: it is never spawned at once (R444, R445)
deriving DecidableEq, Repr, Inhabited

/-- An active or ended query (R437, R438). -/
structure Qry where
  gen     : Nat := 0
  st      : QrySt := .absent
  reason  : Nat := 0
  faddr   : Nat := 0
  block   : List Byte := []
  addr    : Nat := 0            -- address of the query block
  spilln  : Nat := 0
  ident   : Ident := {}
  satp    : Word := 0
  cls     : Option Nat := none
  launch  : Nat := 0
  g       : Nat := 0
  weight  : Nat := 0
  task    : Option Nat := none  -- Herder window entry
  item    : Option Item := none        -- in the engine
  todo    : List Item := []            -- items still to be placed, R430
  stack   : List Item := []            -- top first
  spill   : List Item := []            -- what the Terrier keeps of the items in the spill area, bottom first: no beam, no box
  owe     : Nat := 0                   -- freed slots whose waiting residual is still to be spawned
  out     : List Nat := []             -- outstanding slots
  stopped : List Nat := []             -- any-hit rays that have stopped
  resid   : Nat := 0                   -- residuals produced
  blocked : List (Nat × Nat) := []     -- depth and path of blocked or covered sub-cones
  anyBlk  : Bool := false
  seqs    : Nat := 0                   -- placements so far
deriving DecidableEq, Repr, Inhabited

/-- A message held for a rank in transit (spec/11_group.md R320). -/
inductive Held where
  | record (core : Nat) (src : RecSource) (rec : LightRec)
  | port (core : Nat) (req : PortReq)
deriving DecidableEq, Repr

/-- A cluster (spec/01_device.md R24). -/
structure Cluster where
  l2      : List L2Line := []
  misses  : List Miss := []
  fmask   : Tab Nat := Tab.empty        -- key: slice * 16 + class
  l2tlb   : List TlbEnt := []
  fpend   : List Fpend := []
  walks   : List Walk := []
  groups  : Tab Group := Tab.empty
  segs    : Tab Seg := Tab.empty        -- key: core * 16 + segment
  grants  : Tab Word := Tab.empty
  ranks   : Tab RankEnt := Tab.empty
  retired : Nat := 0
  moving  : Option Move := none
  hold    : List Held := []
  held    : List (Nat × RecSource × LightRec) := []   -- records the engines offer again: core, source, record (R317)
  engFail : List (Nat × Nat) := []      -- Herder entries whose engine has failed, with the reason (spec/13_task.md R356)
  engDone : List Nat := []              -- Herder entries whose query has completed
  spare   : Option Nat := none          -- spare mask once a rank move has changed it (spec/11_group.md R319)
  bars    : Tab Bar := Tab.empty
  park    : List Parked := []
  tasks   : Tab Task := Tab.empty
  streams : Tab Stream := Tab.empty
  taskSeq : Nat := 0
  trks    : Tab Trk := Tab.empty
  qrys    : Tab Qry := Tab.empty        -- key: Terrier * 16 + slot
  engHome : List (Nat × Nat × Nat) := []   -- Herder entries with the home devices of their first piece (spec/13_task.md R343)
deriving DecidableEq, Repr, Inhabited

/-! ### The package -/

/-- An error record on its way to the error core (spec/18_link.md R491). -/
structure ErrRec where
  kind   : Nat := 11
  sev    : Nat := 2
  inj    : Bool := false
  lost   : Bool := false
  asid   : Nat := 0
  addr   : Nat := 0
  cl     : Nat := 63
  launch : Nat := 0
  info   : Nat := 0
deriving DecidableEq, Repr, Inhabited

/-- States of a device link (spec/18_link.md R475). -/
inductive LinkSt where
  | down | training | up | degraded | retraining | failed
deriving DecidableEq, Repr, Inhabited

/-- A route-table entry, with a write that has not yet taken effect (spec/18_link.md R476). -/
structure Route where
  val  : Byte := 0#8
  next : Option Byte := none
deriving DecidableEq, Repr, Inhabited

/-! ### Work tables (spec/14_kernel.md R366, R379) -/

/-- States of a slot of a work table. -/
inductive WorkSt where
  | free | starting | running | sweeping | held | retired
deriving DecidableEq, Repr, Inhabited

/-- A slot of a work table: a launch, a graph, a phase or a job. -/
structure Work where
  st      : WorkSt := .free
  gen     : Nat := 0
  outcome : Nat := 0            -- 0 none, 3 Complete, 4 Failed, 5 Cancelled
  cause   : Nat := 0
  asid    : Nat := 0
  satp    : Word := 0
  ident   : Ident := {}
  g       : Nat := 0            -- core of the launching party
  parent  : Option Nat := none
  sig     : Nat := 0
  count   : Nat := 0            -- COUNT, or EXPECT
  light   : Bool := false
  khdr    : Nat := 0
  a0base  : Nat := 0
  a0step  : Nat := 0
  a1      : Word := 0
  a2      : Word := 0
  cmask   : Nat := 0
  gsize   : Nat := 0
  segs    : Nat := 0
  barn    : Nat := 0
  key     : Nat := 0
  entry   : Nat := 0            -- entry point and image range of the checked header
  imgLo   : Nat := 0
  imgLen  : Nat := 0
  issued  : Nat := 0
  returned : Nat := 0
  lost    : Bool := false
  next    : Nat := 0            -- next group or unit to start
  rot     : Nat := 0            -- cluster to which the next group is offered first
  waiting : List (Nat × Nat) := []  -- declined groups, each with the cluster that its rotation starts at
  accepted : Nat := 0           -- children accepted; groups or units accepted
  done    : Nat := 0            -- children completed
  swept   : Bool := false       -- the sweep has gone round
  tag     : Option Nat := none  -- queue tag
deriving DecidableEq, Repr, Inhabited

/-- A weight message on its way to a collector (R376). -/
structure WMsg where
  slot   : Nat
  gen    : Nat
  borrow : Option Hart := none  -- an addition to issued by krn.borrow of this hart; otherwise a return
  amount : Nat
deriving DecidableEq, Repr, Inhabited

/-! ### Queues (spec/17_queue.md) -/

/-- A queue (R447 to R449, R456). -/
structure Queue where
  st      : Nat := 0            -- 0 Disabled, 1 Active, 2 Stopped, 3 Resetting
  base    : Nat := 0
  satp    : Word := 0
  size    : Nat := 0
  agent   : Nat := 0
  server  : Nat := 0
  push    : Bool := false
  stoperr : Bool := false
  prio    : Nat := 0
  en      : Bool := false
  rd      : Nat := 0
  wr      : Nat := 0
  err     : Nat := 0
deriving DecidableEq, Repr, Inhabited

/-- A command that the intake core has taken (R452 to R454). -/
structure Cmd where
  q      : Nat
  bytes  : List Byte
  handed : Bool := false        -- handed off: it holds no command slot
  work   : Option (Nat × Nat) := none   -- table key and generation of its launch or level
  result : Option Nat := none   -- 0 completed, else failed with this ERR
  poll   : Bool := false        -- a WAIT that has read its doubleword at least once
deriving DecidableEq, Repr, Inhabited

/-- Work of a graphics agent: a record it has taken (R459 to R464). -/
structure AgentRec where
  agent  : Agent
  q      : Nat
  bytes  : List Byte
  step   : Nat := 0             -- triangles sent or pixels done; 1 once a triangle is rasterised
  sub    : List (List Byte) := []   -- fragment blocks of a triangle still to be pushed
  draw   : Option Nat := none   -- ticket of the draw that a triangle belongs to
  ticket : Nat := 0
  n      : Nat := 1             -- TILE of a triangle
  r      : Nat := 0
  out    : Nat := 0             -- queue that receives its blocks
  bad    : Bool := false        -- a triangle of the draw has failed
deriving DecidableEq, Repr, Inhabited

/-! ### The link and the control cores (spec/18_link.md) -/

/-- A request in a mailbox (R483). -/
structure MailReq where
  bytes : List Byte
  begun : Bool := false        -- a KCANCEL that has started its cancel
deriving DecidableEq, Repr, Inhabited

/-- A supply monitor (R489). -/
structure Supply where
  events  : Nat := 0
  stretch : Nat := 0
  en      : Bool := true
  thresh  : Nat := 380
  below   : Bool := false
deriving DecidableEq, Repr, Inhabited

/-- A firmware function of a control core (R486). -/
structure Func where
  st      : Nat := 0            -- 0 Idle, 1 Staged, 2 Transferring
  version : Nat := 0
  meas    : BitVec 512 := 0#512
  sver    : Nat := 0
  smeas   : BitVec 512 := 0#512
  scnt    : Nat := 0            -- counter of the staged image
deriving DecidableEq, Repr, Inhabited

/-- A device link (spec/18_link.md R473 to R475). -/
structure Link where
  st     : LinkSt := .down
  en     : Bool := false
  lanes  : Nat := 0
  peer   : Nat := 0
  retry  : Nat := 0
  crcerr : Nat := 0
  replay : Nat := 0            -- times the oldest unacknowledged flit has been replayed
  held   : Nat := 0            -- flits in the sender's replay buffer, at most 128 (R473)
deriving DecidableEq, Repr, Inhabited

/-- The hart of a control core (spec/18_link.md R482): RV64IMAC in M-mode, with its own SRAM. -/
structure CtlHart where
  pc   : Word := 0
  x    : Tab Word := Tab.empty     -- x1 to x31
  csr  : Tab Word := Tab.empty     -- machine-mode CSRs, by number
  resv : Option Nat := none        -- reservation
  sram : Memory := []              -- 256 KiB
deriving DecidableEq, Repr, Inhabited

/-- The whole machine. -/
structure State where
  cur      : Hart                       -- whose turn is next (model's own)
  agenda   : List Turn                  -- turns and events to come (model's own)
  turnNo   : Nat                        -- turns taken while the agenda was empty (model's own)
  free     : Nat                        -- where the next free value is drawn (model's own)
  tick     : Nat                        -- order of use and of arrival (model's own)
  ibits    : IWord                      -- the instruction in flight (model's own)
  ilen     : Nat
  npc      : Word
  cids     : Nat                        -- names of contexts given so far (model's own)
  mem      : Memory
  poison   : List Nat                   -- poisoned 32-byte blocks, by address (spec/06_page.md R165)
  injected : List Nat                   -- blocks whose poison sys.poison injected (R223)
  soft     : List Nat                   -- planted single-bit errors, by block (spec/07_context.md R223)
  sealed   : Tab (Option (BitVec 256))  -- key a block was written under, by block number; none is plaintext (R116)
  keys     : Tab (Option (BitVec 256))  -- key slots (spec/04_memory.md R119)
  tkey     : Option (BitVec 256)
  slots    : Tab Slot                   -- by hart number
  cores    : Tab Core                   -- by global core rank
  clusters : Tab Cluster                -- by cluster rank
  failed   : Tab Nat                    -- physical cores that failed test, a mask for each cluster (R26)
  acks     : List Unacked
  errs     : List ErrRec                -- error records not yet taken by the error core (spec/18_link.md R490)
  corrected : Word                      -- corrected errors (spec/06_page.md R164)
  devid    : Nat                        -- DEVID (spec/18_link.md R477)
  links    : Tab Link
  route    : Tab Route
  hosts    : Tab (Option Nat)           -- host table: the bridging device of each entry (spec/18_link.md R479)
  recs     : List (Nat × RecSource × LightRec)   -- light records on their way: destination global core rank
  work     : Tab Work                   -- work tables: level * 2^16 + slot (spec/14_kernel.md R366)
  wmsgs    : List WMsg                  -- weight messages on their way, oldest first
  ends     : List (Nat × Nat)           -- launch-end notices: cluster, launch slot (spec/11_group.md R308)
  queues   : Tab Queue                  -- spec/17_queue.md R447
  iptr     : Tab Nat                    -- rotating pointers of the intake core (spec/17_queue.md R455)
  cmds     : List Cmd                   -- commands taken and not completed
  aptr     : Tab Nat                    -- rotating pointers of the agents: agent number * 8 + level
  agents   : List AgentRec              -- records that the graphics agents hold
  tickets  : Nat                        -- names of agent records given so far (model's own)
  mail     : Tab (List MailReq)         -- mailboxes of the control cores (spec/18_link.md R483)
  maildrop : Tab Nat                    -- dropped doorbells
  funcs    : Tab Func                   -- by control core
  ctl      : Tab CtlHart                -- the harts of the control cores (spec/18_link.md R482)
  fuses    : Tab Nat                    -- anti-rollback counter fuse of each function
  minver   : Tab Nat                    -- fused minimum version of each function
  hseq     : Nat
  owner    : Nat                        -- 15: no owner (spec/18_link.md R480)
  epoch    : Nat
  supply   : Tab Supply
  elog     : Word
  evec     : Nat
  ehead    : Nat
  edropped : Nat
  eseq     : Nat                        -- records appended since package reset
  msis     : List (Nat × Nat)           -- interrupts sent to hosts: host, vector
  hostData : List Word                  -- answers to reads of hosts, control cores and firmware, latest first
  hostUr   : Nat                        -- accesses answered Unsupported Request
deriving DecidableEq, Repr

/-- Physical core that a core rank holds after package reset: the rank-th that passed test (spec/01_device.md R26). -/
def bootPhys (failedMask rank : Nat) : Nat :=
  (((List.range 66).filter (fun p => !failedMask.testBit p)).getD rank 0)

/-- A core after package reset: srank.ROFF and RVAULT by rank (spec/11_group.md R316). -/
def Core.boot (g : Nat) : Core := { roff := 0x300 + 4 * (g % 64), rvault := g / 64 }

/-- A slot after package reset. -/
def Slot.boot : Slot := {}

/-- A cluster after package reset. -/
def Cluster.boot : Cluster := {}

/-- The slot of a hart. -/
def State.slot (s : State) (h : Hart) : Slot := s.slots.get Slot.boot h
/-- The state with the slot of a hart replaced. -/
def State.setSlot (s : State) (h : Hart) (v : Slot) : State := { s with slots := s.slots.put h v }
/-- The core of a global core rank. -/
def State.core (s : State) (g : Nat) : Core := s.cores.get (Core.boot g) g
/-- The state with a core replaced. -/
def State.setCore (s : State) (g : Nat) (v : Core) : State := { s with cores := s.cores.put g v }
/-- A cluster. -/
def State.cluster (s : State) (k : Nat) : Cluster := s.clusters.get Cluster.boot k
/-- The state with a cluster replaced. -/
def State.setCluster (s : State) (k : Nat) (v : Cluster) : State := { s with clusters := s.clusters.put k v }

/-- The machine right after package reset (spec/00_scope.md R6): every table as the spec resets it. No context, no queue
and no launch exists; a program comes to run when the dispatch core starts a unit (log entry 1). -/
def State.reset : State where
  cur := 0
  agenda := []
  turnNo := 0
  free := 0
  tick := 0
  ibits := 0#32
  ilen := 4
  npc := 0#64
  cids := 0
  mem := []
  poison := []
  injected := []
  soft := []
  sealed := Tab.empty
  keys := Tab.empty
  tkey := none
  slots := Tab.empty
  cores := Tab.empty
  clusters := Tab.empty
  failed := Tab.empty
  acks := []
  errs := []
  corrected := 0#64
  devid := 0
  links := Tab.empty
  route := Tab.empty
  hosts := Tab.empty
  recs := []
  work := Tab.empty
  wmsgs := []
  ends := []
  queues := Tab.empty
  iptr := Tab.empty
  cmds := []
  aptr := Tab.empty
  agents := []
  tickets := 0
  mail := Tab.empty
  maildrop := Tab.empty
  funcs := Tab.empty
  ctl := Tab.empty
  fuses := Tab.empty
  minver := Tab.empty
  hseq := 0
  owner := 15
  epoch := 0
  supply := Tab.empty
  elog := 0#64
  evec := 0
  ehead := 0
  edropped := 0
  eseq := 0
  msis := []
  hostData := []
  hostUr := 0

end Sys2Proof.Machine
end

