-- ==== Sys2Proof/Machine/Ops.lean ====
section
/-! DEFINITION. The named operations that every meaning is built from: the monad of a hart's instruction, its registers, free
values, error records, and taking an exception with the return from it (spec/07_context.md R191, R194, R207). -/

namespace Sys2Proof.Machine

open Sys2Proof

/-- How an instruction of a hart can end other than by retiring. -/
inductive Exit where
  | trap (cause : Nat) (tval : Word)   -- a synchronous exception (R8)
  | wait                               -- the slot passes its turn and the instruction is issued again (R195 step 1)
  | gone                               -- the thread has left the slot, or was replaced in it

/-- An instruction of the hart whose turn it is. -/
abbrev M := EStateM Exit State

/-- The outcome of a step. -/
abbrev Out := Host.Outcome State Fault Refusal

def trap {α : Type} (cause : Nat) (tval : Word) : M α := throw (.trap cause tval)
def wait {α : Type} : M α := throw .wait
def gone {α : Type} : M α := throw .gone

/-- Runs a pure update of the state. -/
def upd (f : State → State) : M Unit := modify f

/-! ### Parts of the state -/

def State.modSlot (s : State) (h : Hart) (f : Slot → Slot) : State := s.setSlot h (f (s.slot h))
def State.modCore (s : State) (g : Nat) (f : Core → Core) : State := s.setCore g (f (s.core g))
def State.modCluster (s : State) (k : Nat) (f : Cluster → Cluster) : State := s.setCluster k (f (s.cluster k))

/-- The context in a slot, or an empty one. -/
def State.ctx (s : State) (h : Hart) : Ctx := (s.slot h).ctx.getD {}
/-- The state with the context of a slot updated, if it holds one. -/
def State.modCtx (s : State) (h : Hart) (f : Ctx → Ctx) : State :=
  s.modSlot h (fun t => { t with ctx := t.ctx.map f })

/-- A table with every entry updated. -/
def Tab.map {α : Type} (t : Tab α) (f : Nat → α → α) : Tab α := ⟨t.ents.map (fun e => (e.1, f e.1 e.2))⟩

def me : M Hart := return (← get).cur
def myCore : M Nat := return (← get).cur.gcore
def myCluster : M Nat := return (← get).cur.cl
def ctx : M Ctx := return (← get).ctx (← get).cur
def slot : M Slot := return (← get).slot (← get).cur
def modCtx (f : Ctx → Ctx) : M Unit := modify (fun s => s.modCtx s.cur f)
def modSlot (f : Slot → Slot) : M Unit := modify (fun s => s.modSlot s.cur f)
def modCore (f : Core → Core) : M Unit := modify (fun s => s.modCore s.cur.gcore f)
def modCluster (f : Cluster → Cluster) : M Unit := modify (fun s => s.modCluster s.cur.cl f)
def core : M Core := return (← get).core (← get).cur.gcore
def cluster : M Cluster := return (← get).cluster (← get).cur.cl

/-! ### Registers (spec/00_scope.md R7) -/

/-- x[r]; x0 reads 0. -/
def Ctx.getX (c : Ctx) (r : Nat) : Word := if r = 0 then 0#64 else c.x.get 0#64 r
/-- x[r] written; a write to x0 is discarded. -/
def Ctx.setX (c : Ctx) (r : Nat) (v : Word) : Ctx := if r = 0 then c else { c with x := c.x.put r v }
/-- The bits of f[r]. -/
def Ctx.getF (c : Ctx) (r : Nat) : Word := c.f.get 0#64 r
/-- v[r]. -/
def Ctx.getV (c : Ctx) (r : Nat) : VReg := c.v.get 0#512 r
/-- v[r] written by an instruction: a poisoned element that a strip had left for it is forgotten (spec/10_transfer.md R301). -/
def Ctx.setV (c : Ctx) (r : Nat) (v : VReg) : Ctx :=
  { c with v := c.v.put r v, vpoison := c.vpoison.filter (fun p => p.1 ≠ r) }
/-- Channel n. -/
def Ctx.chan (c : Ctx) (n : Nat) : Chan := c.chans.get {} n
/-- Strip n. -/
def Ctx.strip (c : Ctx) (n : Nat) : Strip := c.strips.get {} n
/-- Address space of the context (spec/03_encoding.md R67). -/
def Ctx.asid (c : Ctx) : Nat := wfld c.satp 59 44

/-- sstatus.FS (13:14) and VS (9:10) fields. -/
def Ctx.fs (c : Ctx) : Nat := wfld c.sstatus 14 13
def Ctx.vs (c : Ctx) : Nat := wfld c.sstatus 10 9
/-- The context with FS Dirty. -/
def Ctx.dirtyF (c : Ctx) : Ctx := { c with sstatus := wput c.sstatus 14 13 3 }
/-- The context with VS Dirty. -/
def Ctx.dirtyV (c : Ctx) : Ctx := { c with sstatus := wput c.sstatus 10 9 3 }
/-- f[r] written, with FS Dirty (spec/03_encoding.md R73). -/
def Ctx.setF (c : Ctx) (r : Nat) (v : Word) : Ctx := { c with f := c.f.put r v }.dirtyF

def getX (r : Reg) : M Word := return (← ctx).getX r.toNat
def setX (r : Reg) (v : Word) : M Unit := modCtx (·.setX r.toNat v)
def getF (r : Reg) : M Word := return (← ctx).getF r.toNat
def setF (r : Reg) (v : Word) : M Unit := modCtx (·.setF r.toNat v)
def setPc (v : Word) : M Unit := modify (fun s => { s with npc := v })

/-- Illegal instruction, with the instruction bits as trap value (spec/03_encoding.md R76). -/
def illegal {α : Type} : M α := do trap 2 ((← get).ibits.setWidth 64)

/-- The instruction raises illegal instruction unless the condition holds. -/
def require (b : Bool) : M Unit := if b then pure () else illegal

/-- A trap unless the condition holds. -/
def orTrap (b : Bool) (cause : Nat) (tval : Word) : M Unit := if b then pure () else trap cause tval

/-- A wait unless the condition holds. -/
def waitUnless (b : Bool) : M Unit := if b then pure () else wait

/-! ### Free values and order -/

/-- A free value and the state that has drawn it. -/
def State.draw (s : State) : Nat × State := (s.free, { s with free := s.free + 1 })

/-- A free doubleword. -/
def freeW : M Word := do
  let s ← get
  set { s with free := s.free + 1 }
  return Config.freeWord s.free

/-- The next number in the order of use. -/
def State.tock (s : State) : State := { s with tick := s.tick + 1 }

/-- An error record sent to the error core (spec/18_link.md R490). -/
def State.error (s : State) (e : ErrRec) : State := { s with errs := s.errs ++ [e] }

/-- The state with a list of error records sent. -/
def State.errors (s : State) (es : List ErrRec) : State := { s with errs := s.errs ++ es }

/-- The next unused name of a context. -/
def State.newCid (s : State) : Nat × State := (s.cids + 1, { s with cids := s.cids + 1 })

/-! ### Waits -/

/-- The slot's wait mark of this hart replaced; the mark keeps the instruction in flight. -/
def setWait (w : Option WaitMark) : M Unit := do
  let s ← get
  modSlot (fun t => { t with wait := w.map (fun m => { m with bits := s.ibits, len := s.ilen }) })

/-- The kind of the slot's wait. -/
def waitKind : M (Option WaitKind) := return (← slot).wait.map (·.kind)

/-- The hart is taken out of every walk and fault-pending entry of its cluster (spec/06_page.md R163). -/
def State.leavePages (s : State) (h : Hart) : State :=
  s.modCluster h.cl (fun c => { c with
    walks := c.walks.map (fun w => { w with waiters := w.waiters.filter (fun a => a.hart ≠ h) })
    fpend := c.fpend.map (fun f => { f with waiters := f.waiters.filter (fun a => a.1 ≠ h) }) })

/-- What a wait leaves behind when a trap, an interrupt or a pre-emption strikes it: nothing (spec/07_context.md R195 step 1,
spec/06_page.md R162, R163). -/
def State.abandon (s : State) (h : Hart) : State :=
  (s.modSlot h (fun t => { t with wait := none, marks := [] })).leavePages h

/-! ### Exceptions -/

/-- Field positions of the status registers (standard; PRESUMED, log entry 13). -/
def stSIE : Nat := 1
def stMIE : Nat := 3
def stSPIE : Nat := 5
def stMPIE : Nat := 7
def stSPP : Nat := 8
def stMPRV : Nat := 17
def stSUM : Nat := 18
def stMXR : Nat := 19
def stTVM : Nat := 20
def stTW : Nat := 21
def stTSR : Nat := 22

/-- Code of a mode in a status field. -/
def Priv.code : Priv → Nat
  | .u => 0 | .s => 1 | .m => 3
/-- Mode of a code; the reserved code 2 is read as U. -/
def Priv.ofCode : Nat → Priv
  | 3 => .m | 1 => .s | _ => .u
/-- Order of the modes. -/
def Priv.le (a b : Priv) : Bool := decide (a.code ≤ b.code)

/-- Where a trap goes: base, or base + 4 * cause for an interrupt when the mode field is vectored. -/
def vectorPc (tvec : Word) (intr : Bool) (cause : Nat) : Word :=
  let base := wput tvec 1 0 0
  if intr ∧ wfld tvec 1 0 = 1 then base + w64 (4 * cause) else base

/-- The cause register: bit 63 marks an interrupt. -/
def causeWord (intr : Bool) (cause : Nat) : Word := wputb (w64 cause) 63 intr

/-- The sequencer of a thread that leaves its mode by a trap: it freezes with its entries in place and records the mode
(spec/07_context.md R191, R194). An empty sequencer has nothing to freeze. -/
def Ctx.freeze (c : Ctx) : Ctx :=
  if c.seq.isEmpty then c
  else { c with frozen := some (c.frozen.getD c.priv) }

/-- Whether a trap from the slot's thread goes to S-mode (spec/07_context.md R207). -/
def Slot.delegates (t : Slot) (p : Priv) (intr : Bool) (cause : Nat) : Bool :=
  p ≠ .m && (if intr then wbit t.mideleg cause else wbit t.medeleg cause)

/-- The context as it leaves the mode that a trap interrupts: frozen, without its reservation. -/
def Ctx.leave (c : Ctx) : Ctx := { c.freeze with resv := none }

/-- A trap into S-mode: the saved pc, cause and trap value, SPIE from SIE, SIE clear, SPP from the mode. -/
def Slot.enterS (t : Slot) (c : Ctx) (intr : Bool) (cause : Nat) (tval : Word) : Slot :=
  { t with ctx := some { c with
      sepc := c.pc, scause := causeWord intr cause, stval := tval, priv := .s, pc := vectorPc t.stvec intr cause
      sstatus := wputb (wputb (wputb c.sstatus stSPIE (wbit c.sstatus stSIE)) stSIE false) stSPP (c.priv == .s) } }

/-- A trap into M-mode: the saved pc, cause and trap value, MPIE from MIE, MIE clear, MPP from the mode. -/
def Slot.enterM (t : Slot) (c : Ctx) (intr : Bool) (cause : Nat) (tval : Word) : Slot :=
  { t with
    mepc := c.pc, mcause := causeWord intr cause, mtval := tval
    mstatus := wput (wputb (wputb t.mstatus stMPIE (wbit t.mstatus stMIE)) stMIE false) 12 11 c.priv.code
    ctx := some { c with priv := .m, pc := vectorPc t.mtvec intr cause } }

/-- The slot after its thread has taken a trap. -/
def Slot.takeTrap (t : Slot) (intr : Bool) (cause : Nat) (tval : Word) : Slot :=
  match t.ctx with
  | none => t
  | some c =>
    if t.delegates c.priv intr cause then t.enterS c.leave intr cause tval else t.enterM c.leave intr cause tval

/-- TAKING AN EXCEPTION or an interrupt on a hart: the reservation is lost, the wait of the instruction in flight is
abandoned, the sequencer freezes, the saved pc, cause and trap value are written, the interrupt enable is saved and
cleared, the previous mode is saved, the mode changes and the pc goes to the vector (spec/07_context.md R191, R207;
spec/03_encoding.md R67, R76; the layout of the status registers is the standard's). -/
def State.takeTrap (s : State) (h : Hart) (intr : Bool) (cause : Nat) (tval : Word) : State :=
  (s.abandon h).modSlot h (·.takeTrap intr cause tval)

/-- The slot after its thread's sret. -/
def Slot.sret (t : Slot) : Slot :=
  match t.ctx with
  | none => t
  | some c =>
    { t with
      mstatus := wputb t.mstatus stMPRV false
      ctx := some { c with
        priv := if wbit c.sstatus stSPP then .s else .u
        pc := c.sepc
        sstatus := wputb (wputb (wputb c.sstatus stSIE (wbit c.sstatus stSPIE)) stSPIE true) stSPP false } }

/-- RETURNING FROM AN EXCEPTION by sret: the mode is SPP, SIE is SPIE, SPIE is 1, SPP is U, the pc is sepc; MPRV clears
when the new mode is below M (standard). -/
def State.doSret (s : State) (h : Hart) : State := s.modSlot h (·.sret)

/-- mstatus after mret: MIE is MPIE, MPIE is 1, MPP is U, and MPRV clears when the new mode is below M. -/
def mretStatus (st : Word) : Word :=
  let v := wput (wputb (wputb st stMIE (wbit st stMPIE)) stMPIE true) 12 11 0
  if Priv.ofCode (wfld st 12 11) = .m then v else wputb v stMPRV false

/-- The slot after its thread's mret. -/
def Slot.mret (t : Slot) : Slot :=
  { t with
    mstatus := if t.ctx.isSome then mretStatus t.mstatus else t.mstatus
    ctx := t.ctx.map (fun c => { c with priv := Priv.ofCode (wfld t.mstatus 12 11), pc := t.mepc }) }

/-- Returning by mret: the mode is MPP, MIE is MPIE, MPIE is 1, MPP is U, the pc is mepc; MPRV clears when the new mode is
below M (standard). -/
def State.doMret (s : State) (h : Hart) : State := s.modSlot h (·.mret)

/-- The restart of a frozen sequencer on an xRET: when the target mode is the recorded mode or a lower one, the sequencer
runs again and every Faulted strip becomes pending (spec/07_context.md R194; spec/10_transfer.md R300). -/
def Ctx.restart (c : Ctx) : Ctx :=
  let thaw := match c.frozen with
    | none => true
    | some p => c.priv.le p
  if thaw then
    { c with frozen := none
             strips := c.strips.map (fun _ st => { st with fault := none }) }
  else c

/-! ### Issue and retirement -/

/-- The slot can run its thread: it holds a context and is not halted (spec/07_context.md R175). -/
def State.running (s : State) (h : Hart) : Bool := (s.slot h).ctx.isSome && !(s.slot h).halted

/-- One retirement counted in the events of the core's counters (spec/03_encoding.md R68). -/
def Core.count (c : Core) (ev n : Nat) : Core :=
  { c with hpm := (List.range 8).foldl (fun t i =>
      if (c.hpmev.get 0#64 (i + 3)).toNat = ev ∧ wbit c.inhibit (i + 3) = false then
        t.put (i + 3) (t.get 0#64 (i + 3) + w64 n)
      else t) c.hpm }

/-- The slot of a hart was the last to win the vector unit, or the memory port, of its core (spec/07_context.md R176). -/
def State.wonVec (s : State) (h : Hart) : State := s.modCore h.gcore (fun k => { k with winVec := h.slot })
def State.wonMem (s : State) (h : Hart) : State := s.modCore h.gcore (fun k => { k with winMem := h.slot })

/-- Counts n occurrences of a performance event on a core. -/
def State.perf (s : State) (g ev n : Nat) : State := s.modCore g (·.count ev n)

/-- The cycles of one turn, operation or stall counted in a performance event: one, and a free number more (spec/00_scope.md
R528; spec/03_encoding.md R68; log entry 2). -/
def State.perfCycles (s : State) (g ev : Nat) : State :=
  { s with free := s.free + 1 }.perf g ev (1 + Config.extraCycles s.free)

/-- Cycles of a core: its cycle counter moves unless stopped; cycles in which no slot could issue, and cycles stretched by the
supply monitor, are events 2 and 15 (spec/03_encoding.md R67, R68). -/
def Core.cycles (c : Core) (n : Nat) (idle stretched : Bool) : Core :=
  let c := if idle then c.count 2 n else c
  let c := if stretched then c.count 15 n else c
  if wbit c.inhibit 0 then c else { c with cycle := c.cycle + w64 n }

/-- The supply monitor of the core's cluster stretches its cycles (spec/18_link.md R489). -/
def State.stretched (s : State) (g : Nat) : Bool := decide (0 < (s.supply.get {} (g / 64)).stretch)

/-- A core cycle, and the free number of cycles more that the turn took (spec/00_scope.md R11, R528; log entry 2). -/
def State.spend (s : State) (g : Nat) (idle : Bool) : State :=
  { s with free := s.free + 1 }.modCore g (·.cycles (1 + Config.extraCycles s.free) idle (s.stretched g))

/-- The cycles of a turn in which a slot issued. -/
def State.passCycles (s : State) (g : Nat) : State := s.spend g false

/-- No other slot of a hart's core could take the turn that the hart passes: each is empty, halted, told to pass, or waiting
(spec/07_context.md R175). -/
def State.othersIdle (s : State) (h : Hart) : Bool :=
  (List.range 8).all (fun i =>
    let j := h.gcore * 8 + i
    j == h || !(s.running j && (s.slot j).pass == 0 && (s.slot j).wait.isNone))

/-- The cycles of a turn that a hart passes because it waits; where no other slot could take it they are idle (spec/03_encoding.md
R68 event 2; log entry 2). -/
def State.waitCycles (s : State) (h : Hart) : State := s.spend h.gcore (s.othersIdle h)

/-- An instruction retires: the pc takes the next pc, instret counts unless stopped, and the core's counters move
(spec/03_encoding.md R67, R68). What walks have left for its accesses goes with it; the sequencer's accesses keep theirs. -/
def State.retire (s : State) : State :=
  let h := s.cur
  let c := s.core h.gcore
  let s := s.modSlot h (fun t => { t with
    wait := none
    marks := t.marks.filter (fun m => m.part = .vector)
    ctx := t.ctx.map (fun x => { x with
      pc := s.npc
      instret := if wbit c.inhibit 2 then x.instret else x.instret + 1#64 }) })
  (s.perf h.gcore 1 1).passCycles h.gcore

/-- An instruction of the hart whose turn it is: without a context, or halted, the slot passes its turn; otherwise it
retires, traps, waits, or leaves its slot. -/
def runThread (m : M Unit) (s : State) : Out :=
  if s.running s.cur then
    match m { s with npc := (s.ctx s.cur).pc + w64 s.ilen } with
    | .ok _ s' => .next s'.retire
    | .error (.trap c v) s' => .next ((s'.takeTrap s'.cur false c v).passCycles s'.cur.gcore)
    | .error .wait s' => .next (s'.waitCycles s'.cur)
    | .error .gone s' => .next (s'.passCycles s'.cur.gcore)
  else .next s

/-- An event: where its conditions do not hold it leaves the state unchanged (spec/00_scope.md R10). -/
def event (f : State → Option State) (s : State) : Out := .next ((f s).getD s)

end Sys2Proof.Machine
end

