-- ==== Sys2Proof/Machine/Mem.lean ====
section
/-! DEFINITION. Storage and caches: physical ranges, HBM with encryption keys, poison, the L2 and the L1 caches
(spec/01_device.md R37 to R41; spec/04_memory.md; spec/05_ordering.md R124 to R131; spec/06_page.md R164 to R167).
An address of the model is a physical address, or (home + 1) * 2^52 + physical address for memory of a peer device. -/

namespace Sys2Proof.Machine

open Sys2Proof

/-- Ranges of the physical map (spec/01_device.md R37). -/
inductive PRange where
  | hbm | vault | scratch | regs | host | reserved
deriving DecidableEq, Repr

def vaultBase : Nat := 0x800000000000
def scratchBase : Nat := 0x810000000000
def regsBase : Nat := 0xC00000000000
def hostBase : Nat := 0x8000000000000

/-- The range of a 52-bit physical address. -/
def rangeOf (pa : Nat) : PRange :=
  if pa < 0x10000000000 then .hbm
  else if vaultBase ≤ pa ∧ pa < vaultBase + 0xA0000000 then .vault
  else if scratchBase ≤ pa ∧ pa < scratchBase + 0x28000000 then .scratch
  else if regsBase ≤ pa ∧ pa < regsBase + 0x100000000 then .regs
  else if hostBase ≤ pa ∧ pa < 0x10000000000000 then .host
  else .reserved

/-- Address of the model for a physical address on a home device (R41). -/
def keyOf (own home pa : Nat) : Nat := if home = own then pa else (home + 1) * 2 ^ 52 + pa

/-- The physical address within its home. -/
def paOf (a : Nat) : Nat := a % 2 ^ 52

/-- The address is in HBM of this device, kept coherent by the directories (spec/05_ordering.md R126, R127). -/
def localHbm (a : Nat) : Bool := decide (a < 0x10000000000)

/-- The address is on-package SRAM. -/
def isSram (a : Nat) : Bool := rangeOf a = .vault || rangeOf a = .scratch

/-- The 32-byte block of an address. -/
def blk (a : Nat) : Nat := down a 32

/-- Bytes of a bit vector as a list. -/
def vecBytes {w : Nat} (v : BitVec w) (n : Nat) : List Byte := leBytes n v.toNat

/-! ### Watchers of a store -/

/-- A store or atomic of another party has touched [a, a + n): reservations on its granules are lost and heavy sleepers
on its cells wake (spec/03_encoding.md R67; spec/07_context.md R210). -/
def State.touch (s : State) (a n : Nat) (by_ : Option Hart) : State :=
  { s with slots := s.slots.map (fun h t =>
      if by_ = some h then t
      else
        { t with
          ctx := t.ctx.map (fun c =>
            match c.resv with
            | some g => if g < a + n ∧ a < g + 32 then { c with resv := none } else c
            | none => c)
          wait := t.wait.map (fun w =>
            if w.kind = .sleeping ∧ w.a < a + n ∧ a < w.a + 64 then { w with kind := .woken } else w) }) }

/-! ### Raw storage: SRAM, host and peer memory, and HBM below its controller -/

/-- The block is poisoned (spec/06_page.md R165). -/
def State.isPoison (s : State) (b : Nat) : Bool := s.poison.contains b

/-- The state with a block poisoned, or not. -/
def State.setPoison (s : State) (b : Nat) (p : Bool) : State :=
  if p then { s with poison := if s.poison.contains b then s.poison else b :: s.poison }
  else { s with poison := s.poison.filter (· ≠ b), injected := s.injected.filter (· ≠ b) }

/-- Blocks of [a, a + n). -/
def blocks (a n : Nat) : List Nat :=
  if n = 0 then [] else (List.range ((a + n - 1) / 32 - a / 32 + 1)).map (fun i => (a / 32 + i) * 32)

/-- A planted single-bit error in a block read is corrected and counted (R164). -/
def State.scrubSoft (s : State) (a n : Nat) : State :=
  let hit := s.soft.filter (fun b => (blocks a n).contains b)
  if hit.isEmpty then s
  else { s with soft := s.soft.filter (fun b => !hit.contains b)
                corrected := s.corrected + w64 hit.length }

/-- Bytes that reach storage, whoever wrote them and when. A write of all 32 bytes of a poisoned block clears its poison; one of
fewer leaves the block poisoned (R165). -/
def State.rawPut (s : State) (a : Nat) (bs : List Byte) : State :=
  let n := bs.length
  let cleared := s.poison.filter (fun b => a ≤ b && b + 32 ≤ a + n)
  { s with
    mem := s.mem.writeN a bs
    poison := s.poison.filter (fun b => !cleared.contains b)
    injected := s.injected.filter (fun b => !cleared.contains b) }

/-- Bytes written into storage by a party. -/
def State.putBytes (s : State) (a : Nat) (bs : List Byte) (by_ : Option Hart) : State :=
  (s.rawPut a bs).touch a bs.length by_

/-- Bytes read from storage. -/
def State.getBytes (s : State) (a n : Nat) : List Byte := s.mem.readN a n

/-- The first poisoned block of [a, a + n) in storage. -/
def State.poisonIn (s : State) (a n : Nat) : Option Nat := (blocks a n).find? s.isPoison

/-- Some block of [a, a + n) in storage is poisoned. -/
def State.anyPoison (s : State) (a n : Nat) : Bool := (blocks a n).any s.isPoison

/-! ### HBM controllers (spec/04_memory.md R116 to R119) -/

/-- The address is in memory of a peer device (R118). -/
def peerMem (a : Nat) : Bool := decide (2 ^ 52 ≤ a)

/-- The key that a key index names: index 0 means plaintext, a peer's controller applies a key of its own, and host memory
ignores the index (R116, R118); none is an empty slot (R119). -/
def State.keyFor (s : State) (a key : Nat) : Option (Option (BitVec 256)) :=
  if key = 0 then some none
  else if localHbm a then (s.keys.get none key).map some
  else if peerMem a then (Config.peerKey (a / 2 ^ 52 - 1) key).map some
  else some none

/-- The report of a controller that met an empty key slot: this device's goes to its error core (R119). -/
def State.emptyKey (s : State) (b : Nat) (e : ErrRec) : State :=
  if localHbm b then s.error { e with kind := 11, addr := paOf b } else s

/-- A 32-byte block read from memory under a key index: its bits and whether it is poisoned. An empty key slot returns
poisoned data and is reported (R119). -/
def State.memRead (s : State) (b key : Nat) (e : ErrRec) : State × BitVec 256 × Bool :=
  let s := s.scrubSoft b 32
  match s.keyFor b key with
  | none => (s.emptyKey b e, 0#256, true)
  | some k =>
    let raw := BitVec.ofNat 256 (leNat (s.getBytes b 32))
    let was := s.sealed.get none (b / 32)
    let d := if was = k then raw else Config.xtsCross was k b raw
    (s, d, s.isPoison b)

/-- A 32-byte block put into memory under a key index; with an empty key slot it is dropped and reported (R119). A write-back
puts one, and is no access of any party (spec/07_context.md R210). -/
def State.memPut (s : State) (b key : Nat) (d : BitVec 256) (pois : Bool) (e : ErrRec) : State :=
  match s.keyFor b key with
  | none => s.emptyKey b e
  | some k =>
    let s := s.rawPut b (vecBytes d 32)
    let s := if (localHbm b || peerMem b) ∧ s.sealed.get none (b / 32) ≠ k then { s with sealed := s.sealed.put (b / 32) k } else s
    s.setPoison b pois

/-- A 32-byte block of memory written by a party. -/
def State.memWrite (s : State) (b key : Nat) (d : BitVec 256) (pois : Bool) (by_ : Option Hart) (e : ErrRec) : State :=
  let t := s.memPut b key d pois e
  if (s.keyFor b key).isNone then t else t.touch b 32 by_

/-! ### L2 (spec/04_memory.md R101 to R111) -/

/-- Slice of an address (R101). -/
def l2Slice (a : Nat) : Nat := fld a 13 8 ^^^ fld a 25 20
/-- Set within the slice (R101). -/
def l2Set (a : Nat) : Nat := fld a 19 14
/-- Sector of an address within its line (R101). -/
def sectorOf (a : Nat) : Nat := fld a 7 5

/-- Sector i of a line's data; a zero line reads zeros (R105). -/
def L2Line.sector (l : L2Line) (i : Nat) : BitVec 256 := if l.zero then 0#256 else nth l.data i 0#256

/-- Eight sectors of zeros. -/
def zeroLine : List (BitVec 256) := List.replicate 8 0#256

/-- Bit i of an 8-bit mask set to b. -/
def setB8 (m : BitVec 8) (i : Nat) (b : Bool) : BitVec 8 := BitVec.ofNat 8 (nput m.toNat i i (b2n b))

/-- The line that a lookup of an address and key index hits (R117). -/
def Cluster.line (c : Cluster) (a key : Nat) : Option L2Line :=
  c.l2.find? (fun l => l.addr == down a 256 && l.key == key)

/-- The cluster with a line replaced or added; address, key and way name it. -/
def Cluster.putLine (c : Cluster) (l : L2Line) : Cluster :=
  { c with l2 := l :: c.l2.filter (fun x => !(x.addr == l.addr && x.key == l.key)) }

/-- The cluster without the lines of an address. -/
def Cluster.dropLine (c : Cluster) (a : Nat) : Cluster :=
  { c with l2 := c.l2.filter (fun x => x.addr != down a 256) }

/-- Dirty sectors written back to memory, the line left as it was; a dirty zero line writes 256 zero bytes (R103, R106).
A poisoned dirty sector is written poisoned and charged to the line's ASID (spec/06_page.md R167). -/
def State.writeBack (s : State) (k : Nat) (l : L2Line) : State :=
  (List.range 8).foldl (fun s i =>
    if l.dirty.getLsbD i then
      let p := l.poison.getLsbD i
      let b := l.addr + 32 * i
      let e : ErrRec := { kind := 3, asid := l.asid, cl := k, addr := paOf b, inj := s.injected.contains b }
      let s := if p then s.error e else s
      s.memPut b l.key (l.sector i) p e
    else s) s

/-- The line made clean after its write-back. -/
def L2Line.clean (l : L2Line) : L2Line := { l with dirty := 0#8 }

/-- The directories bring every other cluster's copy of a local HBM line home: dirty sectors are written back; the copies
stay clean for a read and leave for a write (spec/05_ordering.md R126). Their L1D copies stay. -/
def State.snoop (s : State) (k : Nat) (a : Nat) (write : Bool) : State :=
  if localHbm a then
    s.clusters.ents.foldl (fun s e =>
      if e.1 = k then s
      else
        (e.2.l2.filter (fun l => l.addr == down a 256)).foldl (fun s l =>
          let s := s.writeBack e.1 l
          s.modCluster e.1 (fun c => if write then c.dropLine a else c.putLine l.clean)) s) s
  else s

/-- Fill mask of a class in a slice (R109, R112). -/
def Cluster.mask (c : Cluster) (slice cls : Nat) : Nat := c.fmask.get 0xFFFF (slice * 16 + cls)

/-- Lines of a slice's set. -/
def Cluster.setLines (c : Cluster) (a : Nat) : List L2Line :=
  c.l2.filter (fun l => l2Slice l.addr == l2Slice a && l2Set l.addr == l2Set a)

/-- The way a fill takes: among the ways its mask permits the lowest invalid one, else the least recently used (R109). -/
def Cluster.victim (c : Cluster) (a cls : Nat) : Option Nat :=
  let m := c.mask (l2Slice a) cls
  let ls := c.setLines a
  let permitted := (List.range 16).filter (fun w => m.testBit w)
  match permitted.find? (fun w => ls.all (fun l => l.way != w)) with
  | some w => some w
  | none =>
    let cand := ls.filter (fun l => permitted.contains l.way)
    (cand.foldl (fun (b : Option L2Line) l =>
      match b with
      | none => some l
      | some m => if l.used < m.used then some l else b) none).map (·.way)

/-- A way is emptied: its line writes back and leaves (R103). -/
def State.evictWay (s : State) (k a way : Nat) : State :=
  match ((s.cluster k).setLines a).find? (fun l => l.way == way) with
  | none => s
  | some l => (s.writeBack k l).modCluster k (fun c => c.dropLine l.addr)

/-- A line of an address held under another key index is written back and leaves before a fill (R117). -/
def State.evictOtherKey (s : State) (k a key : Nat) : State :=
  ((s.cluster k).l2.filter (fun l => l.addr == down a 256 && l.key != key)).foldl
    (fun s l => (s.writeBack k l).modCluster k
      (fun c => { c with l2 := c.l2.filter (fun x => !(x.addr == l.addr && x.key == l.key)) })) s

/-- An empty line allocated for an address, or none where the mask of its class permits no way (R108, R109). Streaming
lines are the first victims of their set (R102). -/
def State.allocate (s : State) (k a : Nat) (at_ : Attr) (cls asid : Nat) : State × Option L2Line :=
  let s := s.evictOtherKey k a at_.key
  match (s.cluster k).victim a cls with
  | none => (s, none)
  | some w =>
    let s := (s.evictWay k a w).tock
    (s, some { addr := down a 256, home := at_.home, key := at_.key, cls := cls, asid := asid, way := w,
               valid := 0#8, dirty := 0#8, zero := false, poison := 0#8, data := zeroLine,
               used := if at_.cache = 1 then 0 else s.tick })

/-- One sector of a line read from memory and made valid, where it is not yet. -/
def State.fillSector (s : State) (k : Nat) (l : L2Line) (i : Nat) : State × L2Line :=
  if l.valid.getLsbD i then (s, l)
  else
    let (s, d, p) := s.memRead (l.addr + 32 * i) l.key { kind := 11, asid := l.asid, cl := k }
    (s, { l with valid := setB8 l.valid i true, data := setNth l.data i d, poison := setB8 l.poison i p })

/-- The line becomes a zero line when all sectors are valid, clean and zero and its page enables them (R105). -/
def L2Line.zeroed (l : L2Line) (zl : Bool) : L2Line :=
  if zl ∧ l.valid = 255#8 ∧ l.dirty = 0#8 ∧ l.poison = 0#8 ∧ l.data = zeroLine then { l with zero := true } else l

/-- An L2 hit refreshes the order of use (R109, R110). -/
def State.useLine (s : State) (k : Nat) (l : L2Line) : State :=
  let s := s.tock
  s.modCluster k (fun c => c.putLine { l with used := s.tick })

/-- A line that an access leaves in its cluster: a hit refreshes its order of use, and a line just allocated keeps the place
that its page gives it (R102). -/
def State.keepLine (s : State) (k : Nat) (l : L2Line) (hit : Bool) : State :=
  if hit then s.useLine k l else s.modCluster k (·.putLine l)

/-- A load of a hart served by an L2 line: the answer to the miss that filled the line is no further use of it (R102, R104). -/
def State.serveLine (s : State) (k : Nat) (l : L2Line) (h : Hart) : State :=
  if l.owed.contains h then s.modCluster k (·.putLine { l with owed := l.owed.filter (· ≠ h) }) else s.useLine k l

/-- The newest copy of a block that the directories know: a dirty sector of some L2 under the same key, else memory. -/
def State.cohRead (s : State) (b key : Nat) (e : ErrRec) : State × BitVec 256 × Bool :=
  let s := s.snoop 1000 b false
  s.memRead (blk b) key e

/-- Every L2 copy of a local HBM line written back and dropped, so that memory holds the line alone. -/
def State.takeHome (s : State) (a : Nat) : State := s.snoop 1000 a true

/-- Bytes of one block merged into its bits. -/
def mergeBlock (d : BitVec 256) (off : Nat) (bs : List Byte) : BitVec 256 :=
  let w := 8 * bs.length
  if w = 0 then d else BitVec.ofNat 256 (nput d.toNat (8 * off + w - 1) (8 * off) (leNat bs))

/-- Pieces of a byte string that stay within one 32-byte block: address and bytes, by structural recursion on bytes. -/
def splitBlocks (a : Nat) : List Byte → List (Nat × List Byte)
  | [] => []
  | b :: bs =>
    match splitBlocks (a + 1) bs with
    | (x, ys) :: r => if (a + 1) % 32 = 0 then (a, [b]) :: (x, ys) :: r else (a, b :: ys) :: r
    | [] => [(a, [b])]

/-- Bytes written to global memory past the caches, within one block: local HBM line copies come home first; a copy of a
peer or host line in the cluster's L2 is updated too (R102, R127). -/
def State.directWrite1 (s : State) (k a key : Nat) (bs : List Byte) (by_ : Option Hart) (e : ErrRec) : State :=
  let s := s.takeHome a
  let b := blk a
  let s :=
    if bs.length = 32 then s.memWrite b key (BitVec.ofNat 256 (leNat bs)) false by_ e
    else
      let (s, d, p) := s.memRead b key e
      s.memWrite b key (mergeBlock d (a - b) bs) p by_ e
  if localHbm a then s
  else
    s.modCluster k (fun c => match c.line a key with
      | none => c
      | some l =>
        if l.valid.getLsbD (sectorOf a) then
          let d := mergeBlock (l.sector (sectorOf a)) (a - b) bs
          c.putLine { l with zero := false, data := setNth l.data (sectorOf a) d
                             poison := if bs.length = 32 then setB8 l.poison (sectorOf a) false else l.poison }
        else c)

/-- Bytes written past the caches. -/
def State.directWrite (s : State) (k a key : Nat) (bs : List Byte) (by_ : Option Hart) (e : ErrRec) : State :=
  (splitBlocks a bs).foldl (fun s p => s.directWrite1 k p.1 key p.2 by_ e) s

/-- Bytes read past the caches, and the first poisoned block. -/
def State.directRead (s : State) (a n key : Nat) (e : ErrRec) : State × List Byte × Option Nat :=
  (blocks a n).foldl (fun (r : State × List Byte × Option Nat) b =>
    let (s, d, p) := r.1.cohRead b key e
    let lo := max a b
    let hi := min (a + n) (b + 32)
    (s, r.2.1 ++ ((vecBytes d 32).drop (lo - b)).take (hi - lo), r.2.2 <|> (if p then some b else none))) (s, [], none)

/-! ### L1 data cache (spec/04_memory.md R98) -/

/-- The L1D line that a load of a physical block hits: a copy in the set of its virtual address; an alias whose address
names another set misses (R98). -/
def Core.l1dFind (c : Core) (a key set : Nat) : Option L1dLine :=
  c.l1d.find? (fun l => l.addr == blk a && l.key == key && l.set == set)

/-- A line installed, any other copy of the block leaving first; a full set of four loses its least recently used line
(R98; the choice of the victim is DESIGN CHOICE, log entry 9). -/
def Core.l1dFill (c : Core) (l : L1dLine) : Core :=
  let rest := c.l1d.filter (fun x => x.addr != l.addr)
  let same := rest.filter (fun x => x.set == l.set)
  let rest :=
    if same.length < 4 then rest
    else
      match same.foldl (fun (b : Option L1dLine) x =>
          match b with
          | none => some x
          | some m => if x.used < m.used then some x else b) none with
      | none => rest
      | some v => rest.filter (fun x => x.addr != v.addr)
  { c with l1d := l :: rest }

/-- A store's bytes into the one L1D copy of their block, if any, in whichever of its four sets it lies (R98). -/
def Core.l1dStore (c : Core) (a key : Nat) (bs : List Byte) : Core :=
  { c with l1d := c.l1d.map (fun l =>
      if l.addr = blk a ∧ l.key = key then
        { l with data := mergeBlock l.data (a - blk a) bs, poison := l.poison && bs.length != 32 }
      else l) }

/-! ### Fills (R104, R105) -/

/-- The sectors that a fill brings: the one asked for, or all eight for two or more (R104). -/
def Miss.brings (m : Miss) : List Nat :=
  if popCount 8 m.sectors.toNat ≤ 1 then (List.range 8).filter (fun i => m.sectors.getLsbD i) else List.range 8

/-- The latent records of the poisoned sectors that a prefetch has brought (spec/06_page.md R167, spec/18_link.md R491). -/
def State.latent (s : State) (k : Nat) (m : Miss) (l : L2Line) : List ErrRec :=
  if m.pref then
    (m.brings.filter (fun i => l.poison.getLsbD i)).map (fun i =>
      { kind := 4, sev := 1, asid := m.asid, cl := k, addr := paOf (m.addr + 32 * i), inj := s.injected.contains (m.addr + 32 * i) })
  else []

/-- The miss of a party that was answered within one event, which none has joined: its fill brings nothing more (R104; log entry
34). -/
def Miss.served (m : Miss) : Bool := m.harts.isEmpty && !m.pref && m.l1.isNone && decide (popCount 8 m.sectors.toNat ≤ 1)

/-- The line that a fill brings sectors to: the one allocated for it, or the one that is there, of which the misses that it
answers are a use (R104, R109). -/
def State.fillLine (s : State) (k : Nat) (m : Miss) : State × Option L2Line :=
  match (s.cluster k).line m.addr m.attr.key with
  | some l => if m.harts.isEmpty then (s, some l) else let s := s.tock; (s, some { l with used := s.tick })
  | none => s.allocate k m.addr m.attr m.cls m.asid

/-- A fill returns: sectors become valid, a fill of all eight that is zero makes a zero line, a poisoned prefetch is logged
as latent (R104, R105; spec/06_page.md R167). -/
def State.fillReturn (s : State) (k : Nat) (m : Miss) : State :=
  if m.served then s else
  match (s.snoop k m.addr false).fillLine k m with
  | (s, none) => s
  | (s, some l) =>
    let (s, l) := m.brings.foldl (fun (x : State × L2Line) i => x.1.fillSector k x.2 i) (s, l)
    let l := if m.brings.length = 8 then l.zeroed m.attr.zl else l
    let s := s.errors (s.latent k m l)
    let s := s.modCluster k (·.putLine { l with owed := l.owed ++ m.harts })
    match m.l1 with
    | none => s
    | some (g, set) =>
      let i := set % 8
      s.modCore g (fun c => c.l1dFill { addr := m.addr + 32 * i, key := m.attr.key, set := set,
                                        poison := l.poison.getLsbD i, data := l.sector i, used := s.tick })

/-- The slice of a line has a fill of it under way (R107). -/
def Cluster.filling (c : Cluster) (a key : Nat) : Bool :=
  c.misses.any (fun m => m.addr == down a 256 && m.attr.key == key)

/-- A party that acts within one event meets an outstanding fill of its line: a read joins a request that is still held, and
the fill returns before the party's access is served; a write finds returned a fill that an earlier party has been answered by
(R104, R107; log entry 34). -/
def State.settleFill (s : State) (k line key : Nat) (secs : BitVec 8) : State :=
  match (s.cluster k).misses.find? (fun m => m.addr == line && m.attr.key == key && (secs != 0#8 || !m.served)) with
  | none => s
  | some m =>
    let s := s.modCluster k (fun c => { c with misses := c.misses.filter (fun x => !(x.addr == line && x.attr.key == key)) })
    s.fillReturn k (if m.issued then m else { m with sectors := m.sectors ||| secs, pref := m.pref && secs == 0#8 })

/-- Lines that [a, a + n) touches. -/
def linesOf (a n : Nat) : List Nat :=
  if n = 0 then [] else (List.range ((a + n - 1) / 256 - a / 256 + 1)).map (fun i => (a / 256 + i) * 256)

/-- Sectors of a line that [a, a + n) touches. -/
def sectorsIn (line a n : Nat) : BitVec 8 :=
  (List.range 8).foldl (fun m i =>
    if line + 32 * i < a + n ∧ a < line + 32 * i + 32 then setB8 m i true else m) 0#8

/-- The sectors of a line that an access asks for and does not find: one is filled alone, two or more by the whole line,
which is then a zero line if it brought zeros only (R104, R105). -/
def State.fillAsked (s : State) (k : Nat) (l : L2Line) (zl : Bool) (secs : BitVec 8) : State × L2Line :=
  let lack := (List.range 8).filter (fun i => secs.getLsbD i && !l.valid.getLsbD i)
  if lack.length ≤ 1 then lack.foldl (fun (x : State × L2Line) i => x.1.fillSector k x.2 i) (s, l)
  else
    let (s, l) := (List.range 8).foldl (fun (x : State × L2Line) i => x.1.fillSector k x.2 i) (s, l)
    (s, l.zeroed zl)

/-- The miss of a party that asks for one sector and is answered within its event: its request is held like any other, so that
a miss to another sector of the line joins it and brings all eight (R104; log entry 34). -/
def Cluster.holdMiss (c : Cluster) (line : Nat) (at_ : Attr) (cls asid : Nat) (lack : BitVec 8) : Cluster :=
  if popCount 8 lack.toNat = 1 then
    { c with misses := c.misses ++ [{ addr := line, attr := at_, cls := cls, asid := asid, sectors := lack,
                                      issued := false, pref := false, l1 := none }] }
  else c

/-- The sectors that a party asks for of a line that is there, or has just been allocated: those that it lacks are filled, and the
request for a single one stays held (R104). -/
def State.askLine (s : State) (k : Nat) (l : L2Line) (at_ : Attr) (cls asid : Nat) (secs : BitVec 8) (hit : Bool) :
    State × Option L2Line :=
  let lack := secs &&& ~~~l.valid
  let (s, l) := s.fillAsked k l at_.zl secs
  ((s.keepLine k l hit).modCluster k (·.holdMiss l.addr at_ cls asid lack), some l)

/-- A line with the sectors that one access of a party asks for, read through a cluster's L2 within one event: a hit, a fill
that it joins or makes, or none where nothing is allocated (R102 to R104, R109). The line keeps the place of its allocation
where this access, or the fill that it joins, has made it. -/
def State.l2Open (s : State) (k line : Nat) (at_ : Attr) (cls asid : Nat) (secs : BitVec 8) : State × Option L2Line :=
  let has (s : State) : Bool := ((s.cluster k).line line at_.key).any (fun l => l.valid &&& secs == secs)
  let was := ((s.cluster k).line line at_.key).isSome
  let s := if !has s && (s.cluster k).filling line at_.key then s.settleFill k line at_.key secs else s
  let s := if has s then s.scrubSoft line 256 else s.snoop k line false
  match (s.cluster k).line line at_.key with
  | some l => s.askLine k l at_ cls asid secs was
  | none =>
    match s.allocate k line at_ cls asid with
    | (s, none) => (s, none)
    | (s, some l) => s.askLine k l at_ cls asid secs false

/-- The blocks of [a, a + n), each with its bits and its poison, read by one access through a cluster's L2, or past it for an
uncached page (R102 to R104). -/
def State.l2Blocks (s : State) (k a n : Nat) (at_ : Attr) (cls asid : Nat) : State × List (Nat × BitVec 256 × Bool) :=
  let past (s : State) (bs : List Nat) : State × List (Nat × BitVec 256 × Bool) :=
    bs.foldl (fun (r : State × List (Nat × BitVec 256 × Bool)) b =>
      let (s, d, p) := r.1.cohRead b at_.key { kind := 11, asid := asid, cl := k }
      (s, r.2 ++ [(b, d, p)])) (s, [])
  if at_.cache = 2 then past s (blocks a n)
  else
    (linesOf a n).foldl (fun (r : State × List (Nat × BitVec 256 × Bool)) line =>
      let bs := (blocks a n).filter (fun b => down b 256 == line)
      match r.1.l2Open k line at_ cls asid (sectorsIn line a n) with
      | (s, none) => let (s, xs) := past s bs; (s, r.2 ++ xs)
      | (s, some l) => (s, r.2 ++ bs.map (fun b => (b, l.sector (sectorOf b), l.poison.getLsbD (sectorOf b))))) (s, [])

/-- The bytes of [a, a + n) in one of its blocks. -/
def cutBytes (a n b : Nat) (d : BitVec 256) : List Byte :=
  ((vecBytes d 32).drop (max a b - b)).take (min (a + n) (b + 32) - max a b)

/-- Bytes read by one access through a cluster's L2 (for engines, fetch and walks), and whether a block was poisoned. -/
def State.l2ReadN (s : State) (k a n : Nat) (at_ : Attr) (cls asid : Nat) : State × List Byte × Bool :=
  let (s, xs) := s.l2Blocks k a n at_ cls asid
  (s, xs.flatMap (fun x => cutBytes a n x.1 x.2.1), xs.any (fun x => x.2.2))

/-- A line of a peer's or the host's memory leaves the cluster's L2, so that the next read of it is performed at device scope
(spec/05_ordering.md R125, R127); copies of this device's HBM are coherent. -/
def State.freshen (s : State) (k a n : Nat) (at_ : Attr) : State :=
  if localHbm a then s
  else (linesOf a n).foldl (fun s l => (s.settleFill k l at_.key 0#8).modCluster k (fun c => c.dropLine l)) s

/-- Bytes of one block stored through a cluster's L2: the line is allocated if need be, a sector that is filled in part is
read first and merged, and the sector is dirty; a zero line becomes an ordinary line with every sector valid and dirty.
Host and peer lines stay clean and the bytes go on to the home; `hit` says that the line was there before the access (R103, R106,
R127; spec/05_ordering.md R126). -/
def State.l2Write1 (s : State) (k a : Nat) (at_ : Attr) (cls asid : Nat) (bs : List Byte) (by_ : Option Hart)
    (hit : Bool) : State :=
  let i := sectorOf a
  let e : ErrRec := { kind := 11, asid := asid, cl := k }
  if at_.cache = 2 then s.directWrite1 k a at_.key bs by_ e
  else
    let s := s.snoop k a true
    let r := match (s.cluster k).line a at_.key with
      | some l => (s, some l)
      | none => s.allocate k a at_ cls asid
    match r with
    | (s, none) => s.directWrite1 k a at_.key bs by_ e
    | (s, some l) =>
      let whole := bs.length = 32
      let (s, l) := if l.zero ∨ whole then (s, l) else s.fillSector k l i
      let old := l.sector i
      let pois := if whole then false else l.poison.getLsbD i && l.valid.getLsbD i
      let keep := localHbm a
      let l := { l with
        zero := false
        valid := if l.zero then 255#8 else setB8 l.valid i true
        dirty := if keep then (if l.zero then 255#8 else setB8 l.dirty i true) else 0#8
        poison := setB8 l.poison i pois
        data := setNth (if l.zero then zeroLine else l.data) i (mergeBlock old (a - blk a) bs) }
      let s := s.keepLine k l hit
      if keep then s.touch a bs.length by_
      else
        let (s, d, p) := s.memRead (blk a) at_.key e
        s.memWrite (blk a) at_.key (mergeBlock d (a - blk a) bs) (p && !whole) by_ e

/-- Bytes stored through a cluster's L2 by one access: a fill of a line that is outstanding returns first (R107), and a line
that the access itself has allocated, by its read (`fresh`) or by the store, keeps its place (R102). -/
def State.l2WriteBy (s : State) (k a : Nat) (at_ : Attr) (cls asid : Nat) (bs : List Byte) (by_ : Option Hart)
    (fresh : Bool) : State :=
  let s := if at_.cache = 2 then s else (linesOf a bs.length).foldl (fun s l => s.settleFill k l at_.key 0#8) s
  (splitBlocks a bs).foldl (fun t p =>
    t.l2Write1 k p.1 at_ cls asid p.2 by_ (!fresh && ((s.cluster k).line p.1 at_.key).isSome)) s

/-- Bytes stored by an access that only writes. -/
def State.l2Write (s : State) (k a : Nat) (at_ : Attr) (cls asid : Nat) (bs : List Byte) (by_ : Option Hart) : State :=
  s.l2WriteBy k a at_ cls asid bs by_ false

/-- Occupancy of a class in a slice (R111). -/
def Cluster.occupancy (c : Cluster) (slice cls : Nat) : Nat :=
  (c.l2.filter (fun l => l2Slice l.addr == slice && l.cls == cls)).length

/-! ### L1 data cache, copies that leave -/

/-- Every L1D copy of a 32-byte block leaves. -/
def Core.l1dDrop (c : Core) (a : Nat) : Core := { c with l1d := c.l1d.filter (fun l => l.addr != blk a) }

/-- The core's own L1D copies of the blocks of [a, a + n) leave. -/
def State.dropOwn (s : State) (g a n : Nat) : State := s.modCore g (fun c => (blocks a n).foldl (fun c b => c.l1dDrop b) c)

/-- Every L1D copy of a 256-byte line leaves. -/
def Core.l1dDropLine (c : Core) (a : Nat) : Core := { c with l1d := c.l1d.filter (fun l => down l.addr 256 != down a 256) }

/-- The L1D copies of a block in every core of a cluster but one leave (spec/05_ordering.md R125, R126). R126 says that the
store invalidates the line; that of the L1D's lines only the 32-byte one stored to leaves, and not the others of the 256-byte L2
line, is the model's choice (DESIGN CHOICE, log entry 9). -/
def State.l1dInvalidate (s : State) (k : Nat) (but : Option Nat) (a : Nat) : State :=
  { s with cores := s.cores.map (fun g c => if g / 64 = k ∧ but ≠ some g then c.l1dDrop a else c) }

/-- The acquire of spec/05_ordering.md R128 at device or system scope: every L1D line of the core, and every L2 line of its
cluster that host memory or a peer device homes, leave. -/
def State.acquire (s : State) (g : Nat) : State :=
  (s.modCore g (fun c => { c with l1d := [] })).modCluster (g / 64)
    (fun c => { c with l2 := c.l2.filter (fun l => localHbm l.addr) })

end Sys2Proof.Machine
end

