-- ==== Sys2Proof/Machine/Mmu.lean ====
section
/-! DEFINITION. Translation: windows, Bare and M-mode accesses, Sv48 with the attribute table, PMP, TLBs, walks and
fault-pending entries (spec/01_device.md R31 to R41; spec/06_page.md R149 to R163, R529; spec/11_group.md R310, R312). -/

namespace Sys2Proof.Machine

open Sys2Proof

/-! ### Windows (spec/01_device.md R31 to R36) -/

def winLo : Nat := 0x7E0000000000
def winHi : Nat := 0x7FFFFFFFFFFF
def winScratch : Nat := 0x7F0000000000
def winOwn : Nat := 0x7F8000000000
def winVault : Nat := 0x7E0000000000

/-- A window that a virtual address lies in. -/
inductive Win where
  | scratch (core off : Nat)
  | own (off : Nat)
  | vault (id off : Nat)
deriving DecidableEq, Repr

/-- The address lies in the range that bypasses translation (R31). -/
def inWinRange (va : Nat) : Bool := decide (winLo ≤ va) && decide (va ≤ winHi)

/-- The window of an address (R31). -/
def winOf (va : Nat) : Option Win :=
  if winScratch ≤ va ∧ va < winScratch + 0x1000000 then
    some (.scratch ((va - winScratch) / 2 ^ 18) ((va - winScratch) % 2 ^ 18))
  else if winOwn ≤ va ∧ va < winOwn + 0x40000 then some (.own (va - winOwn))
  else if winVault ≤ va ∧ va < winVault + 0xA0000000 then
    some (.vault ((va - winVault) / 2 ^ 26) ((va - winVault) % 2 ^ 26))
  else none

/-- Physical address of a scratchpad byte of a global core rank. -/
def scratchPa (g off : Nat) : Nat := scratchBase + g * 2 ^ 18 + off
/-- Physical address of a vault byte. -/
def vaultPa (id off : Nat) : Nat := vaultBase + id * 2 ^ 26 + off

/-- Physical address of a window byte for a core. -/
def Win.pa (w : Win) (g : Nat) : Nat :=
  match w with
  | .scratch c off => scratchPa (g / 64 * 64 + c) off
  | .own off => scratchPa g off
  | .vault id off => vaultPa id off

/-- Global core rank of a scratchpad address, and its offset. -/
def scratchAt (a : Nat) : Nat × Nat := ((a - scratchBase) / 2 ^ 18, (a - scratchBase) % 2 ^ 18)

/-- Segment register of a scratchpad byte (spec/11_group.md R310). -/
def State.segOf (s : State) (g off : Nat) : Seg := (s.cluster (g / 64)).segs.get {} (g % 64 * 16 + off / 2 ^ 14)

/-- The scratchpad access check (R310). -/
def segPermits (c : Cluster) (v : Word) (i : Ident) : Bool :=
  i.priv == .m
    || (wbit v 6 && wfld v 31 16 == i.asid && (i.priv == .s || i.light || wbit v 7))
    || (wbit v 6 && wfld v 31 16 == i.asid && i.gv && i.grp == wfld v 5 0
        && ((c.groups.get {} i.grp).st == 2 || (c.groups.get {} i.grp).st == 3))

/-- The vault access check (R312). -/
def grantPermits (c : Cluster) (off : Nat) (write : Bool) (i : Ident) : Bool :=
  i.priv == .m
    || (List.range 16).any (fun n =>
        let w := c.grants.get 0#64 n
        wbit w 0 && wfld w 31 16 == i.asid && (wfld w 15 8 == 0 || wfld w 15 8 == i.key)
          && decide (wfld w 41 32 ≤ off / 2 ^ 16) && decide (off / 2 ^ 16 ≤ wfld w 51 42) && (wbit w 1 || !write))

/-- What a window check answers. -/
inductive Permit where
  | yes | no | busy
deriving DecidableEq, Repr

/-- The check of R36 on n bytes of a window address at a physical address; a segment that is being zeroed makes the
access wait (R311). The bytes must lie within one scratchpad or vault. -/
def State.permits (s : State) (pa n : Nat) (write : Bool) (i : Ident) : Permit :=
  match rangeOf pa with
  | .scratch =>
    let (g, off) := scratchAt pa
    let segs := (List.range ((off + n - 1) / 2 ^ 14 - off / 2 ^ 14 + 1)).map (fun j => s.segOf g (down off (2 ^ 14) + j * 2 ^ 14))
    if off + n > 2 ^ 18 then .no
    else if segs.any (fun x => x.next.isSome) then .busy
    else if segs.all (fun x => segPermits (s.cluster (g / 64)) x.val i) then .yes
    else .no
  | .vault =>
    let id := (pa - vaultBase) / 2 ^ 26
    let off := (pa - vaultBase) % 2 ^ 26
    if off + n > 2 ^ 26 then .no
    else if (List.range ((off + n - 1) / 2 ^ 16 - off / 2 ^ 16 + 1)).all
        (fun j => grantPermits (s.cluster id) (down off (2 ^ 16) + j * 2 ^ 16) write i) then .yes
    else .no
  | _ => .no

/-- The segment of an offset of a scratchpad is being zeroed: accesses that reach it wait (R311). -/
def State.zeroing (s : State) (g off : Nat) : Bool := (s.segOf g (down off (2 ^ 14))).next.isSome

/-! ### PMP (spec/03_encoding.md R67: 16 entries of 4 KiB granularity, standard rules) -/

/-- The range [lo, hi) of PMP entry i, or none when it is off. NA4 does not exist at 4 KiB granularity. -/
def Slot.pmpRange (t : Slot) (i : Nat) : Option (Nat × Nat) :=
  let cfg := (t.pmpcfg.get 0#8 i).toNat
  let addr := (t.pmpaddr.get 0#64 i).toNat
  match fld cfg 4 3 with
  | 1 =>
    let lo := if i = 0 then 0 else (t.pmpaddr.get 0#64 (i - 1)).toNat
    some (down lo 1024 * 4, down addr 1024 * 4)
  | 3 =>
    -- the low ten bits of a NAPOT address read as ones at this granularity, less one
    let a := addr ||| 0x1FF
    let ones := ((List.range 55).find? (fun j => !a.testBit j)).getD 55
    let size := 2 ^ (ones + 3)
    some (down (a * 4) size, down (a * 4) size + size)
  | _ => none

/-- The PMP check of an access of n bytes. -/
def Slot.pmpOk (t : Slot) (pa n : Nat) (acc : Acc) (p : Priv) : Bool :=
  let hit := (List.range 16).find? (fun i =>
    match t.pmpRange i with
    | some (lo, hi) => decide (lo < pa + n) && decide (pa < hi)
    | none => false)
  match hit with
  | none => p == .m
  | some i =>
    let cfg := (t.pmpcfg.get 0#8 i).toNat
    match t.pmpRange i with
    | none => false
    | some (lo, hi) =>
      if ¬ (lo ≤ pa ∧ pa + n ≤ hi) then false
      else if p = .m ∧ cfg.testBit 7 = false then true
      else
        match acc with
        | .fetch => cfg.testBit 2
        | .load | .clean => cfg.testBit 0
        | .store | .amo | .inval => cfg.testBit 1

/-! ### Homes and hosts (spec/06_page.md R154; spec/18_link.md R476, R479) -/

/-- Whether a request to a device can be delivered now, later, or not at all (spec/18_link.md R476). -/
inductive Reach where
  | yes | later | no
deriving DecidableEq, Repr

/-- Delivery to a device by the route table. -/
def State.reach (s : State) (dev : Nat) : Reach :=
  if dev = s.devid then .yes
  else
    let r := s.route.get {} dev
    if r.next.isSome then .later
    else if r.val.getLsbD 7 = false then .no
    else
      let l := s.links.get {} (fld r.val.toNat 4 0)
      match l.st with
      | .down | .failed => .no
      | .training | .retraining => .later
      | .up | .degraded => .yes

/-- Where an address of a page goes: its model address, or a refusal. -/
def State.homeOf (s : State) (home pa : Nat) : Reach × Nat :=
  match rangeOf pa with
  | .host =>
    match s.hosts.get none (fld pa 50 48) with
    | none => (.no, pa)
    | some bridge => (s.reach bridge, pa)
  | _ => if home = s.devid then (.yes, pa) else (s.reach home, keyOf s.devid home pa)

/-- The attributes that act on an address: in the host-memory range HOME and KEY are ignored (R154). -/
def State.attrAt (s : State) (at_ : Attr) (pa : Nat) : Attr :=
  if rangeOf pa = .host then { at_ with key := 0, home := s.devid } else at_

/-- The link that leads to a device and is Down or Failed; 0 where its route has V = 0 and names none (spec/18_link.md R491). -/
def State.deadLink (s : State) (dev : Nat) : Nat :=
  let v := (s.route.get {} dev).val
  if v.getLsbD 7 then fld v.toNat 4 0 else 0

/-- The error record of a request to a page of a home that cannot be delivered; an empty host-table entry is no request to a device
(spec/18_link.md R476, R491). -/
def State.undelivered (s : State) (home pa asid cl : Nat) : State :=
  match (if rangeOf pa = .host then s.hosts.get none (fld pa 50 48) else some home) with
  | some dev => s.error { kind := 12, asid := asid, addr := pa, cl := cl, info := s.deadLink dev }
  | none => s

/-! ### Page-table walks (R149 to R152, R529) -/

/-- How a walk ends. -/
inductive WalkRes where
  | ok (e : TlbEnt)
  | pageFault
  | accessFault
  | poison
  | later                -- a read of the walk waits for a route or a link (spec/18_link.md R476)
deriving DecidableEq, Repr

/-- The access writes, so a window checks it as a store. -/
def Acc.writes (a : Acc) : Bool := a == .store || a == .amo || a == .inval
/-- The access needs and sets D (R150). -/
def Acc.dirties (a : Acc) : Bool := a == .store || a == .amo
/-- The access of a thread consumes poison (R166). -/
def Acc.consumes (a : Acc) : Bool := a == .fetch || a == .load || a == .amo

/-- The cause of a page fault, or access fault, of an access. -/
def Acc.pageCause : Acc → Nat
  | .fetch => 12 | .load | .clean => 13 | .store | .amo | .inval => 15
def Acc.accessCause : Acc → Nat
  | .fetch => 1 | .load | .clean => 5 | .store | .amo | .inval => 7

/-- The permission of a translation for an access, A and D apart. -/
def TlbEnt.permits (e : TlbEnt) (acc : Acc) (p : Priv) (sum mxr : Bool) : Bool :=
  match acc with
  | .fetch => e.x && (if e.u then p == .u else p == .s)
  | .load | .clean => (e.r || (mxr && e.x)) && (if e.u then p == .u || sum else p == .s)
  | .store | .amo | .inval => e.w && (if e.u then p == .u || sum else p == .s)

/-- A is set, and D for an access that needs it: no walk has to set them (R150). -/
def TlbEnt.marked (e : TlbEnt) (acc : Acc) : Bool := e.a && (e.d || !acc.dirties)

/-- The ranges that a walk reads (R529). -/
def walkable (pa : Nat) : Bool := rangeOf pa = .hbm || rangeOf pa = .host

/-- A doubleword read by a walk through the cluster's L2 with the fixed attributes, at device scope: a copy of host memory is
read anew (R153, R157). -/
def State.walkRead (s : State) (k pa cos asid : Nat) : State × Nat × Bool :=
  let at_ : Attr := { cos := cos, home := s.devid }
  let (s, bs, p) := (s.freshen k pa 8 at_).l2ReadN k pa 8 at_ cos asid
  (s, leNat bs, p)

/-- A walker's read of a doubleword: range, PMP, the way to host memory, and poison (R529, R155, R167; spec/18_link.md R476). -/
def State.walkGet (s : State) (k : Nat) (pmp : Option Slot) (pa cos asid : Nat) :
    State × Except WalkRes Nat :=
  if !walkable pa then (s, .error .accessFault)
  else if (match pmp with | some t => !t.pmpOk pa 8 .load .s | none => false) then (s, .error .accessFault)
  else
    match (s.homeOf s.devid pa).1 with
    | .later => (s, .error .later)
    | .no => (s.undelivered s.devid pa asid k, .error .accessFault)
    | .yes =>
      let (s, v, p) := s.walkRead k pa cos asid
      if p then
        (s.error { kind := 5, asid := asid, cl := k, addr := pa, inj := s.injected.contains (blk pa) }, .error .poison)
      else (s, .ok v)

/-- What a walk needs to know of its access. -/
structure WalkReq where
  va   : Nat
  acc  : Acc
  priv : Priv
  sum  : Bool
  mxr  : Bool
  n    : Nat := 1               -- bytes of the access
  who  : Option Hart := none    -- the thread whose access it is: its data's poison is a check of R155
  setAD : Bool := true          -- prefetches set neither A nor D (R150)

/-- The attribute entry of a word, by R152. -/
def attrOf (v : Nat) : Option Attr :=
  if v.testBit 0 = false ∨ fld v 2 1 = 3 ∨ v.testBit 19 ∨ fld v 63 32 ≠ 0 then none
  else some { cache := fld v 2 1, zl := v.testBit 3 && fld v 2 1 != 2, cos := fld v 7 4, key := fld v 18 8, home := fld v 31 20 }

/-- The block that a thread reads is poisoned, in the copy that its access meets: its L1, its cluster's L2, a dirty sector of
another L2, memory (R155 step 6, R165). -/
def State.poisonSeen (s : State) (h : Hart) (q : WalkReq) (b : Nat) (at_ : Attr) : Bool :=
  let i := sectorOf b
  let c := s.core h.gcore
  let l1 : Option Bool :=
    if q.acc = .load ∧ at_.cache = 0 then (c.l1dFind b at_.key (fld (down q.va 32 + (b - blk b)) 13 5)).map (·.poison)
    else if q.acc = .fetch ∧ at_.cache ≠ 2 then
      (c.l1i.find? (fun l => l.addr == down b 64 && l.key == at_.key)).map (fun l => l.poison.getLsbD (fld b 5 5))
    else none
  let l2 (c : Cluster) : Option L2Line := if at_.cache = 2 then none else (c.line b at_.key).filter (fun l => l.valid.getLsbD i)
  let dirty := s.clusters.ents.findSome? (fun e => e.2.l2.find? (fun l => l.addr == down b 256 && l.dirty.getLsbD i))
  match l1 with
  | some p => p
  | none =>
    match l2 (s.cluster h.cl) with
    | some l => l.poison.getLsbD i
    | none =>
      match dirty with
      | some l => l.poison.getLsbD i
      | none => (s.keyFor b at_.key).isNone || s.isPoison b

/-- The checks of R155 after the attribute entry all pass: PMP, the range and the home, and for a thread that would consume it
the poison of the data. -/
def State.passes (s : State) (pmp : Option Slot) (q : WalkReq) (pa : Nat) (at_ : Attr) : Bool :=
  (match pmp with | some t => t.pmpOk pa q.n q.acc q.priv | none => true)
    && (rangeOf pa = .hbm || rangeOf pa = .host)
    && (match s.homeOf at_.home pa with
        | (.yes, a) => !(q.acc.consumes && q.who.any (fun h => (blocks a q.n).any (fun b => s.poisonSeen h q b (s.attrAt at_ pa))))
        | _ => false)

/-- The PTE with A set, and D for a store, written at device scope (R150); no L1D of the cluster keeps the line (R126). R155
names a PMP failure on the read of a PTE only: the write asks for no PMP write permission (DESIGN CHOICE, log entry 47). -/
def State.setAD (s : State) (k pa pte cos asid : Nat) (store : Bool) : State :=
  let new := pte ||| 0x40 ||| (if store then 0x80 else 0)
  if new = pte then s
  else (s.l1dInvalidate k none pa).l2Write k pa { home := s.devid, cos := cos } cos asid (leBytes 8 new) none

/-- A leaf at a level: PTE format, Svnapot, permission, attribute entry, A and D (R149 to R152, R155 steps 2 and 3). -/
def State.leaf (s : State) (k : Nat) (pmp : Option Slot) (satp : Word) (cos asid : Nat) (q : WalkReq)
    (ptePa pte level : Nat) (g : Bool) : State × WalkRes :=
  let ppn := fld pte 53 10
  let n := pte.testBit 63
  let span := if n then 16 else 512 ^ level
  let aligned := if n then level = 0 ∧ fld ppn 3 0 = 8 else ppn % span = 0
  if ¬ aligned then (s, .pageFault)
  else
    let base := if n then down ppn 16 else ppn
    let e : TlbEnt := { vpn := down (q.va / 4096) span, span := span, asid := asid, g := g || pte.testBit 5, ppn := base,
                        r := pte.testBit 1, w := pte.testBit 2, x := pte.testBit 3, u := pte.testBit 4,
                        a := pte.testBit 6, d := pte.testBit 7, attr := {} }
    if !e.permits q.acc q.priv q.sum q.mxr then (s, .pageFault)
    else
      let atPa := (wfld satp 43 0 + 1) * 4096 + 8 * fld pte 60 54
      match s.walkGet k pmp atPa cos asid with
      | (s, .error r) => (s, r)
      | (s, .ok v) =>
        match attrOf v with
        | none => (s, .pageFault)
        | some at_ =>
          -- R150: A and D are set only when the access passes every other check
          let pa := (base + (q.va / 4096) % span) * 4096 + q.va % 4096
          let e := { e with attr := at_ }
          if q.setAD ∧ s.passes pmp q pa at_ then
            (s.setAD k ptePa pte cos asid q.acc.dirties, .ok { e with a := true, d := e.d || q.acc.dirties })
          else (s, .ok e)

/-- One level of a walk: the leaf it ends in, or the next table (R149). In a PTE that is no leaf, bits 60:54, A, D and U have no
meaning that the spec gives, and they are ignored (DESIGN CHOICE, log entry 47). -/
def State.walkStep (s : State) (k : Nat) (pmp : Option Slot) (satp : Word) (cos asid : Nat) (q : WalkReq)
    (table level : Nat) (g : Bool) : State × Except WalkRes (Nat × Bool) :=
  let ptePa := table * 4096 + 8 * fld (q.va / 2 ^ (12 + 9 * level)) 8 0
  match s.walkGet k pmp ptePa cos asid with
  | (s, .error r) => (s, .error r)
  | (s, .ok pte) =>
    if pte.testBit 0 = false ∨ (pte.testBit 1 = false ∧ pte.testBit 2 = true) ∨ fld pte 62 61 ≠ 0 then (s, .error .pageFault)
    else if pte.testBit 1 ∨ pte.testBit 3 then
      let (s, r) := s.leaf k pmp satp cos asid q ptePa pte level g
      (s, .error r)
    else if pte.testBit 63 then (s, .error .pageFault)
    else (s, .ok (fld pte 53 10, g || pte.testBit 5))

/-- The levels of a walk, from the level given down; below level 0 there is no table. -/
def State.walkLevels (k : Nat) (pmp : Option Slot) (satp : Word) (cos asid : Nat) (q : WalkReq) :
    Nat → State → Nat → Bool → State × WalkRes
  | 0, s, _, _ => (s, .pageFault)
  | l + 1, s, table, g =>
    match s.walkStep k pmp satp cos asid q table l g with
    | (s, .error r) => (s, r)
    | (s, .ok (t, g)) => State.walkLevels k pmp satp cos asid q l s t g

/-- A whole Sv48 walk under a satp (R149). -/
def State.walkPage (s : State) (k : Nat) (pmp : Option Slot) (satp : Word) (cos : Nat) (q : WalkReq) : State × WalkRes :=
  State.walkLevels k pmp satp cos (wfld satp 59 44) q 4 s (wfld satp 43 0) false

/-- Bits 63:48 of a virtual address copy bit 47 (Sv48). -/
def canonical (va : Nat) : Bool := fld va 63 47 == 0 || fld va 63 47 == 0x1FFFF

/-- Where the tables from one at level l - 1 down map a virtual address, whatever their permission bits say. -/
def State.mapLevels (s : State) (k : Nat) (satp : Word) (va : Nat) : Nat → Nat → Option Nat
  | 0, _ => none
  | l + 1, table =>
    let ptePa := table * 4096 + 8 * fld (va / 2 ^ (12 + 9 * l)) 8 0
    let pte := (s.walkRead k ptePa 0 0).2.1
    if !walkable ptePa || pte.testBit 0 = false then none
    else if pte.testBit 1 || pte.testBit 3 then
      let ppn := fld pte 53 10
      let n := pte.testBit 63
      let span := if n then 16 else 512 ^ l
      let pa := ((if n then down ppn 16 else ppn) + va / 4096 % span) * 4096 + va % 4096
      let atPa := (wfld satp 43 0 + 1) * 4096 + 8 * fld pte 60 54
      if !walkable atPa then none
      else (attrOf (s.walkRead k atPa 0 0).2.1).map (fun at_ => (s.homeOf at_.home pa).2)
    else s.mapLevels k satp va l (fld pte 53 10)

/-- The model address that a satp maps a virtual address to, without a permission or PMP check and without effect. -/
def State.mapVa (s : State) (k : Nat) (satp : Word) (va : Nat) : Option Nat :=
  if inWinRange va then none
  else if wfld satp 63 60 = 0 then some va
  else if canonical va then s.mapLevels k satp (va % 2 ^ 48) 4 (wfld satp 43 0)
  else none

/-! ### TLBs (R156, R158) -/

/-- The entry covers a page of an address space. -/
def TlbEnt.covers (e : TlbEnt) (vpn asid : Nat) : Bool :=
  decide (e.vpn ≤ vpn) && decide (vpn < e.vpn + e.span) && (e.g || e.asid == asid)

/-- Physical address of a virtual address under an entry. -/
def TlbEnt.pa (e : TlbEnt) (va : Nat) : Nat := (e.ppn + (va / 4096 - e.vpn)) * 4096 + va % 4096

/-- An entry added to a TLB of a given size, the oldest entry leaving when it is full (the choice is DESIGN CHOICE, log
entry 9). -/
def tlbAdd (size : Nat) (l : List TlbEnt) (e : TlbEnt) : List TlbEnt :=
  (e :: l.filter (fun x => !(x.vpn == e.vpn && x.span == e.span && x.asid == e.asid))).take size

/-- The entry matches an invalidation: an address or all, an ASID or all (sfence.vma with an ASID spares G entries). -/
def TlbEnt.hit (e : TlbEnt) (va asid : Option Nat) : Bool :=
  (match va with | none => true | some a => decide (e.vpn ≤ a / 4096 % 2 ^ 36) && decide (a / 4096 % 2 ^ 36 < e.vpn + e.span)) &&
  (match asid with | none => true | some i => e.asid == i && !e.g)

/-- A slot with a mark, in the place of the one that its access had for the page. -/
def Slot.addMark (t : Slot) (m : PageMark) : Slot :=
  { t with marks := t.marks.filter (fun x => !(x.vpn == m.vpn && x.asid == m.asid && x.part == m.part)) ++ [m] }

/-- The mark of an access of a slot for a page. -/
def Slot.markFor (t : Slot) (vpn asid : Nat) (part : AccessOf) : Option PageEnd :=
  (t.marks.find? (fun x => x.vpn == vpn && x.asid == asid && x.part == part)).map (·.out)

/-- The pages of [va, va + n) lose the marks that an access of a slot has: it has completed (R162). -/
def Slot.clearMarks (t : Slot) (part : AccessOf) (va n : Nat) : Slot :=
  { t with marks := t.marks.filter (fun x =>
      !(x.part == part && decide (va / 4096 % 2 ^ 36 ≤ x.vpn) && decide (x.vpn ≤ (va + n - 1) / 4096 % 2 ^ 36))) }

/-- The released mark on every slot that waited on a fault-pending entry (R161). -/
def State.markReleased (s : State) (f : Fpend) : State :=
  f.waiters.foldl (fun s w => s.modSlot w.1 (·.addMark ⟨f.vpn, f.asid, w.2, .released⟩)) s

/-- Fault-pending entries that satisfy a test are released (R161). -/
def State.release (s : State) (k : Nat) (p : Fpend → Bool) : State :=
  let out := (s.cluster k).fpend.filter p
  let s := s.modCluster k (fun c => { c with fpend := c.fpend.filter (fun f => !p f) })
  out.foldl (fun s f => s.markReleased f) s

/-- The fault-pending entry lies under an invalidation. -/
def Fpend.hit (f : Fpend) (va asid : Option Nat) : Bool :=
  (match va with | none => true | some a => f.vpn == a / 4096 % 2 ^ 36) && (match asid with | none => true | some i => f.asid == i)

/-- An invalidation in one cluster: its L2 TLB and its covered fault-pending entries. A walk in progress restarts, which
for a walk that this model performs in one step changes nothing (R158). -/
def State.invalL2tlb (s : State) (k : Nat) (va asid : Option Nat) : State :=
  (s.modCluster k (fun c => { c with l2tlb := c.l2tlb.filter (fun e => !e.hit va asid) })).release k (fun f => f.hit va asid)

/-- An invalidation of a core's L1 TLBs. -/
def State.invalL1tlb (s : State) (g : Nat) (va asid : Option Nat) : State :=
  s.modCore g (fun c => { c with itlb := c.itlb.filter (fun e => !e.hit va asid), dtlb := c.dtlb.filter (fun e => !e.hit va asid) })

/-! ### Thread accesses -/

/-- Where an access goes. -/
structure Target where
  a    : Nat              -- model address
  sram : Bool
  attr : Attr
deriving DecidableEq, Repr

/-- The mode that a data access runs in: MPP under MPRV in M-mode (standard). -/
def effPriv (t : Slot) (c : Ctx) : Priv :=
  if c.priv = .m ∧ wbit t.mstatus stMPRV then Priv.ofCode (wfld t.mstatus 12 11) else c.priv

/-- The identity of a thread now (R310, R525). -/
def identOf (c : Ctx) (p : Priv) (h : Hart) : Ident :=
  { asid := c.asid, priv := p, light := c.light, gv := wbit c.svault 7, grp := wfld c.svault 5 0,
    key := wfld c.svault 15 8, cos := wfld c.scos 3 0, hart := some h }

/-- Checks 4 and 5 of R155 on a physical address of a page: PMP, range, home. -/
def checkPhys (acc : Acc) (tv : Word) (p : Priv) (pa n : Nat) (at_ : Attr) : M Target := do
  let s ← get
  let t ← slot
  orTrap (t.pmpOk pa n acc p) acc.accessCause tv
  orTrap (rangeOf pa = .hbm || rangeOf pa = .host) acc.accessCause tv
  match s.homeOf at_.home pa with
  | (.yes, a) =>
    if acc = .fetch then pure () else upd (fun s => s.wonMem s.cur)
    return { a := a, sram := false, attr := s.attrAt at_ pa }
  | (.later, _) => wait
  | (.no, _) =>
    upd (·.undelivered at_.home pa (wfld (s.ctx s.cur).satp 59 44) s.cur.cl)
    trap acc.accessCause tv

/-- The class under which a data access of the slot fills (spec/04_memory.md R108, R114). -/
def fillClass (c : Ctx) (at_ : Attr) : Nat := if wbit c.scos 4 then wfld c.scos 3 0 else at_.cos

/-- One miss of a hart's access in an L1 TLB and in the L2 TLB counted (spec/03_encoding.md R68). -/
def State.tlbMiss (s : State) (h : Hart) : State := (s.perf h.gcore 5 1).perf h.gcore 6 1

/-- The word is one whose accesses are those of the sequencer: a vector load or store, or a custom-1 instruction. -/
def seqAccess (w : IWord) : Bool :=
  let op := w.extractLsb' 0 7
  let f3 := (w.extractLsb' 12 3).toNat
  op == 0x2b#7 || ((op == 0x07#7 || op == 0x27#7) && (f3 == 0 || decide (5 ≤ f3)))

/-- Which of its slot's accesses the one under way is: a fetch, or by the instruction that makes it. -/
def accessOf (acc : Acc) : M AccessOf := do
  if acc = .fetch then return .fetch
  else if seqAccess (← get).ibits then return .vector
  else return .scalar

/-- An access that needs a walk: it waits on the page's fault-pending entry, joins the page's walk, or starts one (R157,
R159). -/
def joinWalk (acc : Acc) (va tv : Word) (n vpn asid : Nat) (p : Priv) : M Target := do
  let s ← get
  let c ← ctx
  let t ← slot
  let h := s.cur
  let part ← accessOf acc
  let released := t.markFor vpn asid part = some .released
  let w : Waiter := { hart := h, part := part, acc := acc, va := va, n := n, tv := tv, priv := p, sum := wbit c.sstatus stSUM,
                      mxr := wbit c.sstatus stMXR, released := released }
  let cl := s.cluster h.cl
  if !released && cl.fpend.any (fun f => f.vpn == vpn && f.asid == asid) then
    let known := cl.fpend.any (fun f => f.vpn == vpn && f.asid == asid && f.waiters.contains (h, part))
    modCluster (fun c => { c with fpend := c.fpend.map (fun f =>
      if f.vpn = vpn ∧ f.asid = asid ∧ !f.waiters.contains (h, part) then { f with waiters := f.waiters ++ [(h, part)] } else f) })
    upd (fun s => (if known then s else s.tlbMiss h).perfCycles h.gcore 14)
    wait
  else if cl.walks.any (fun x => x.vpn == vpn && x.asid == asid) then
    let mine (y : Waiter) : Bool := y.hart == h && y.part == part
    let known := cl.walks.any (fun x => x.vpn == vpn && x.asid == asid && x.waiters.any mine)
    modCluster (fun c => { c with walks := c.walks.map (fun x =>
      if x.vpn = vpn ∧ x.asid = asid ∧ !x.waiters.any mine then { x with waiters := x.waiters ++ [w] } else x) })
    upd (fun s => if known then s else s.tlbMiss h)
    wait
  else
    upd State.tock
    let s ← get
    modCluster (fun cl => { cl with walks := cl.walks ++
      [{ vpn := vpn, asid := asid, satp := c.satp, cos := wfld c.scos 3 0, since := s.tick, waiters := [w] }] })
    upd (·.tlbMiss h)
    wait

/-- Translation of one access of n bytes within one page, with the checks of R155 but for poison. -/
def translate (acc : Acc) (va tv : Word) (n : Nat) : M Target := do
  let s ← get
  let t ← slot
  let c ← ctx
  let h := s.cur
  let p := if acc = .fetch then c.priv else effPriv t c
  let a := va.toNat
  if inWinRange a then
    orTrap (acc ≠ .fetch) 1 tv
    match winOf a with
    | none => trap acc.accessCause tv
    | some w =>
      let pa := w.pa h.gcore
      match s.permits pa n acc.writes (identOf c p h) with
      | .yes =>
        upd (·.wonMem h)
        return { a := pa, sram := true, attr := {} }
      | .busy => wait
      | .no => trap acc.accessCause tv
  else if p = .m ∨ wfld c.satp 63 60 = 0 then
    orTrap (decide (a + n ≤ 2 ^ 52)) acc.accessCause tv
    checkPhys acc tv p a n { cos := wfld c.scos 3 0, home := s.devid }
  else
    orTrap (canonical a) acc.pageCause tv
    let vpn := a / 4096 % 2 ^ 36
    let asid := c.asid
    let part ← accessOf acc
    match t.markFor vpn asid part with
    | some (.trap cause tval) =>
      if tval = tv ∧ (cause = acc.pageCause ∨ cause = acc.accessCause) ∨ cause = 19 then
        modSlot (·.clearMarks part a 1)
        trap cause tval
      else pure ()
    | _ => pure ()
    let sum := wbit c.sstatus stSUM
    let mxr := wbit c.sstatus stMXR
    let good (e : TlbEnt) : Bool := e.covers vpn asid && e.permits acc p sum mxr
    let ready (e : TlbEnt) : Bool := good e && e.marked acc
    let l1 := if acc = .fetch then (s.core h.gcore).itlb else (s.core h.gcore).dtlb
    match l1.find? ready with
    | some e => checkPhys acc tv p (e.pa (a % 2 ^ 48)) n e.attr
    | none =>
      match (s.cluster h.cl).l2tlb.find? ready with
      | some e =>
        modCore (fun c => if acc = .fetch then { c with itlb := tlbAdd 32 c.itlb e } else { c with dtlb := tlbAdd 64 c.dtlb e })
        upd (·.perf h.gcore 5 1)
        checkPhys acc tv p (e.pa (a % 2 ^ 48)) n e.attr
      | none =>
        -- an entry whose A, or D for a store, is still to be set walks again where every other check passes (R150)
        let q : WalkReq := { va := a % 2 ^ 48, acc := acc, priv := p, sum := sum, mxr := mxr, n := n, who := some h }
        match (s.cluster h.cl).l2tlb.find? good with
        | some e =>
          if s.passes (some t) q (e.pa (a % 2 ^ 48)) e.attr then joinWalk acc va tv n vpn asid p
          else checkPhys acc tv p (e.pa (a % 2 ^ 48)) n e.attr
        | none => joinWalk acc va tv n vpn asid p

/-! ### The end of a walk (R159) -/

/-- A set of the L2 TLB keeps eight entries; the oldest leaves (R156; the choice is DESIGN CHOICE, log entry 9). -/
def l2tlbAdd (l : List TlbEnt) (e : TlbEnt) : List TlbEnt :=
  let set (x : TlbEnt) : Nat := x.vpn / x.span % 1024
  let rest := l.filter (fun x => !(x.vpn == e.vpn && x.span == e.span && x.asid == e.asid))
  let same := (rest.filter (fun x => set x == set e)).take 7
  e :: (same ++ rest.filter (fun x => set x != set e))

/-- A trap mark on the slot of a waiter. -/
def State.markTrap (s : State) (vpn asid : Nat) (cause : Waiter → Nat) (w : Waiter) : State :=
  s.modSlot w.hart (·.addMark ⟨vpn, asid, w.part, .trap (cause w) w.tv⟩)

/-- The trap mark of a walk that read poison: the virtual address of the access, or the pc for a fetch (R166). -/
def State.markPoison (s : State) (vpn asid : Nat) (w : Waiter) : State :=
  s.modSlot w.hart (·.addMark ⟨vpn, asid, w.part, .trap 19 (if w.acc = .fetch then (s.ctx w.hart).pc else w.tv)⟩)

/-- The walk is in the cluster's list no more. -/
def Cluster.dropWalk (c : Cluster) (w : Walk) : Cluster :=
  { c with walks := c.walks.filter (fun x => !(x.vpn == w.vpn && x.asid == w.asid)) }

/-- A successful walk installs its entry, and releases a fault-pending entry of its page (R159, R161). -/
def State.install (s : State) (k vpn asid : Nat) (e : TlbEnt) : State :=
  (s.modCluster k (fun c => { c with l2tlb := l2tlbAdd c.l2tlb e })).release k (fun f => f.vpn == vpn && f.asid == asid)

/-- The entry of a walk in the L1 TLB of a waiter's core: its miss is answered (R157). -/
def State.answerTlb (s : State) (e : TlbEnt) (w : Waiter) : State :=
  s.modCore w.hart.gcore (fun c =>
    if w.acc = .fetch then { c with itlb := tlbAdd 32 c.itlb e } else { c with dtlb := tlbAdd 64 c.dtlb e })

/-- One of the 64 walkers of the cluster's die works on the walk: fewer than 64 walks of the die's five clusters asked for one
before it (R156). That waiting walks get a walker in the order in which they asked is DESIGN CHOICE (log entry 9). -/
def State.hasWalker (s : State) (k : Nat) (w : Walk) : Bool :=
  decide (((List.range 5).flatMap (fun i => (s.cluster (k / 5 * 5 + i)).walks)).countP (fun x => decide (x.since < w.since)) < 64)

/-- A walker of the cluster's die is free. -/
def State.freeWalker (s : State) (k : Nat) : Bool :=
  decide (((List.range 5).flatMap (fun i => (s.cluster (k / 5 * 5 + i)).walks)).length < 64)

/-- A walk ends: its entry is installed and every joined access proceeds; or it reads poison and every joined access takes
cause 19; or it faults, and the access that started it traps while the others wait on a fault-pending entry, if one is free
and the starter was not released; released accesses trap at once (R159, R161, R162, R166). One whose read must wait for a
route or a link stays. An unreleased access that joined a walk whose starter was released, and which faults, has its case in
no table of the spec: it neither waits nor traps, and walks again when it issues (DESIGN CHOICE, log entry 35). -/
def State.endWalk (s0 : State) (k : Nat) (w : Walk) : State :=
  match w.waiters with
  | [] => s0.modCluster k (·.dropWalk w)
  | st :: others =>
    let q : WalkReq := { va := st.va.toNat % 2 ^ 48, acc := st.acc, priv := st.priv, sum := st.sum, mxr := st.mxr, n := st.n,
                         who := some st.hart }
    match s0.walkPage k (some (s0.slot st.hart)) w.satp w.cos q with
    | (s, .ok e) => w.waiters.foldl (fun s x => s.answerTlb e x) ((s.modCluster k (·.dropWalk w)).install k w.vpn w.asid e)
    | (s, .poison) => (st :: others).foldl (fun s x => s.markPoison w.vpn w.asid x) (s.modCluster k (·.dropWalk w))
    | (_, .later) => s0
    | (s, r) =>
      let s := s.modCluster k (·.dropWalk w)
      let cause (x : Waiter) : Nat := if r = .pageFault then x.acc.pageCause else x.acc.accessCause
      let s := s.markTrap w.vpn w.asid cause st
      let rel := others.filter (·.released)
      let unrel := others.filter (fun x => !x.released)
      let s := rel.foldl (fun s x => s.markTrap w.vpn w.asid cause x) s
      if st.released then s
      else if (s.cluster k).fpend.length < 256 then
        s.modCluster k (fun c => { c with fpend := c.fpend ++
          [{ vpn := w.vpn, asid := w.asid, slot := st.hart, waiters := unrel.map (fun x => (x.hart, x.part)) }] })
      else unrel.foldl (fun s x => s.markTrap w.vpn w.asid cause x) s

/-- WALK_COMPLETE: walk number idx of a cluster ends, where a walker works on it. -/
def execWalkComplete (cl idx : Nat) (s : State) : Out :=
  event (fun s => ((s.cluster cl).walks[idx]?).bind (fun w => if s.hasWalker cl w then some (s.endWalk cl w) else none)) s

/-- How a walk for a party other than a thread ends: with the state after it. -/
inductive JoinRes where
  | done (s : State)     -- no walk of the page is under way: the one that was has ended
  | busy                 -- it waits for a walker, a route or a link

/-- An engine or a prefetch that misses joins the walk of its page that is under way, if any: that walk ends first, in the same
event (R157, R159; log entry 34). -/
def State.joinPending (s : State) (k vpn asid : Nat) : JoinRes :=
  match (s.cluster k).walks.find? (fun w => w.vpn == vpn && w.asid == asid) with
  | none => if s.freeWalker k then .done s else .busy
  | some w =>
    if !s.hasWalker k w then .busy
    else
      let s := s.endWalk k w
      if (s.cluster k).walks.any (fun w => w.vpn == vpn && w.asid == asid) then .busy else .done s

/-! ### Engine accesses (R160: a failed engine walk fails the engine's request) -/

/-- How an engine's translation ends. -/
inductive EngRes where
  | ok (t : Target)
  | page                 -- page fault
  | access               -- access, PMP or range fault, or a window check
  | poison
  | later                -- a message to a device whose link or route is not ready, or a segment being zeroed
deriving DecidableEq, Repr

/-- Translation of n bytes within one page for an engine acting under an identity and a satp; a failed walk neither
creates nor waits on a fault-pending entry (R160, spec/10_transfer.md R285). The engine's walk and its Bare accesses carry the
class scos.CLS that the issuing slot had (R153 and R157 name the slot's; DEDUCED, log entry 34). A Bare access to on-package SRAM
passes the check of R310 or R312 alone, not the issuing slot's PMP: the spec does not say that PMP applies to it too (DESIGN
CHOICE, log entry 14). -/
def State.engTranslate (s : State) (g : Nat) (i : Ident) (satp : Word) (acc : Acc) (va n : Nat) : State × EngRes :=
  if inWinRange va then
    match winOf va with
    | none => (s, .access)
    | some w =>
      let pa := w.pa g
      match s.permits pa n acc.writes i with
      | .yes => (s, .ok { a := pa, sram := true, attr := {} })
      | .busy => (s, .later)
      | .no => (s, .access)
  else
    let pmp := i.hart.map s.slot
    let k := g / 64
    let sram (pa : Nat) : State × EngRes :=
      match s.permits pa n acc.writes i with
      | .yes => (s, .ok { a := pa, sram := true, attr := {} })
      | .busy => (s, .later)
      | .no => (s, .access)
    let finish (s : State) (pa : Nat) (at_ : Attr) : State × EngRes :=
      if (match pmp with | some t => !t.pmpOk pa n acc i.priv | none => false) then (s, .access)
      else if !(rangeOf pa = .hbm || rangeOf pa = .host) then (s, .access)
      else
        match s.homeOf at_.home pa with
        | (.yes, a) => (s, .ok { a := a, sram := false, attr := s.attrAt at_ pa })
        | (.later, _) => (s, .later)
        | (.no, _) => (s.undelivered at_.home pa i.asid k, .access)
    if wfld satp 63 60 = 0 then
      if va + n > 2 ^ 52 then (s, .access)
      -- engines reach on-package SRAM by physical address, checked as by a window (spec/01_device.md R39; R525)
      else if isSram va then sram va
      else finish s va { cos := i.cos, home := s.devid }
    else if !canonical va then (s, .page)
    else
      let vpn := va / 4096 % 2 ^ 36
      let asid := wfld satp 59 44
      let va48 := va % 2 ^ 48
      let q : WalkReq := { va := va48, acc := acc, priv := i.priv, sum := true, mxr := false, n := n }
      let good (e : TlbEnt) : Bool := e.covers vpn asid && e.permits acc i.priv true false
      let held (s : State) : Option TlbEnt := (s.cluster k).l2tlb.find? (fun e => good e && (e.marked acc || !s.passes pmp q (e.pa va48) e.attr))
      match held s with
      | some e => finish s (e.pa va48) e.attr
      | none =>
        match s.joinPending k vpn asid with
        | .busy => (s, .later)
        | .done s =>
          match held s with
          | some e => finish s (e.pa va48) e.attr
          | none =>
            match s.walkPage k pmp satp i.cos q with
            | (s, .ok e) => finish (s.install k vpn asid e) (e.pa va48) e.attr
            | (s, .pageFault) => (s, .page)
            | (s, .accessFault) => (s, .access)
            | (s, .poison) => (s, .poison)
            | (s, .later) => (s, .later)

end Sys2Proof.Machine
end

