-- ==== Sys2Proof/Machine/Access.lean ====
section
/-! DEFINITION. The memory accesses of a thread: stalls on tile operands and channels, the scratchpad port with its scent
ring, loads, stores, atomics and fetches (spec/04_memory.md; spec/05_ordering.md R124 to R131, R137 to R140;
spec/09_tile.md R271; spec/10_transfer.md R289). -/

namespace Sys2Proof.Machine

open Sys2Proof

/-! ### Shapes of tile operands (spec/09_tile.md R259, R260) -/

/-- M, K, N, operand element bytes, C element bytes of a format; none for a reserved code. -/
def tileShape (fmt : Nat) : Option (Nat × Nat × Nat × Nat × Nat) :=
  match fmt with
  | 0 | 1 | 2 => some (32, 64, 32, 1, 4)
  | 3 | 4 => some (32, 32, 32, 2, 4)
  | 5 => some (32, 16, 32, 4, 4)
  | 6 => some (16, 16, 16, 8, 8)
  | _ => none

/-- Element bytes of tl.stc for FMT and OFMT, none for a combination outside R277. -/
def stcBytes (fmt ofmt : Nat) : Option Nat :=
  if 1 ≤ fmt ∧ fmt ≤ 5 then
    match ofmt with
    | 0 | 1 => some 2
    | 2 => some 1
    | _ => none
  else if fmt = 0 ∧ ofmt = 3 then some 1
  else none

/-- A memory operand of a tile operation: base, rows, pitch, bytes of a row, and whether it is written. -/
structure Span where
  base  : Nat
  rows  : Nat
  pitch : Nat
  len   : Nat
  write : Bool
deriving DecidableEq, Repr

/-- The pitch in force: 0 means the row length (R260). -/
def pitchOf (p len : Nat) : Nat := if p = 0 then len else p

/-- An operand in memory: the address the program gave, its element bytes and where it lies. -/
structure Operand where
  va   : Word
  elem : Nat
  span : Span
deriving DecidableEq, Repr

/-- The operands of a tile operation, in the order in which they are checked (R263, R275 to R277). -/
def TileOp.operands (o : TileOp) : List Operand :=
  let fmt := wfld o.mxfmt 3 0
  match tileShape fmt with
  | none => []
  | some (m, k, n, e, ce) =>
    let rows := if fmt = 6 then 16 else 32
    let mul : List Operand :=
      [⟨o.va, e, { base := o.a, rows := m, pitch := pitchOf (wfld o.mxld 15 0) (k * e), len := k * e, write := false }⟩,
       ⟨o.vb, e, { base := o.b, rows := k, pitch := pitchOf (wfld o.mxld 31 16) (n * e), len := n * e, write := false }⟩]
    let c (ce : Nat) (w : Bool) : List Operand :=
      [⟨o.va, ce, { base := o.a, rows := rows, pitch := pitchOf (wfld o.mxld 47 32) (rows * ce), len := rows * ce, write := w }⟩]
    let scale (on : Bool) (va : Word) (a : Nat) : List Operand :=
      if on then [⟨va, 1, { base := a, rows := 1, pitch := 64, len := 64, write := false }⟩] else []
    match o.kind with
    | .mma => mul
    | .mmas => mul ++ scale (wbit o.mxfmt 4) o.va2 o.sa ++ scale (wbit o.mxfmt 5) o.vb2 o.sb
    | .ld => c ce false
    | .st => c ce true
    | .stc => c ((stcBytes fmt (wfld o.mxfmt 9 8)).getD 4) true
    | .zero | .add => []

/-- The operands of a tile operation in memory. -/
def TileOp.spans (o : TileOp) : List Span := o.operands.map (·.span)

/-- Some 64-byte block of a row of the operand overlaps [a, a + n). -/
def Span.meets (x : Span) (a n : Nat) : Bool :=
  (List.range x.rows).any (fun r =>
    let lo := down (x.base + r * x.pitch) 64
    let hi := down (x.base + r * x.pitch + x.len + 63) 64
    decide (lo < a + n) && decide (a < hi))

/-- The access stalls on a pending tile operation of the issuing core (R271). -/
def Core.tileStall (c : Core) (a n : Nat) (store : Bool) : Bool :=
  c.tileq.any (fun o => o.spans.any (fun x => (store || x.write) && x.meets a n))

/-! ### Channels (spec/10_transfer.md R287, R289, R294) -/

/-- The channel is open for gets, Faulted or not; the channel is Faulted. -/
def ChanState.isGet : ChanState → Bool
  | .openGet | .faultGet => true
  | _ => false
def ChanState.isPut : ChanState → Bool
  | .openPut | .faultPut => true
  | _ => false
def ChanState.faulted : ChanState → Bool
  | .faultGet | .faultPut => true
  | _ => false

/-- Trap value of cause 25 (R294). -/
def chanTval (reason : Nat) (strip : Bool) (num addr : Nat) : Word :=
  w64 (reason * 2 ^ 52 + b2n strip * 2 ^ 51 + num % 8 * 2 ^ 48 + addr % 2 ^ 48)

/-- Model addresses at which the byte of a channel at window address va lies: its own place and the multicast copies. -/
def Chan.places (c : Chan) (g : Nat) (va : Nat) : List Nat :=
  match winOf va with
  | some (.scratch core off) =>
    scratchPa (g / 64 * 64 + core) off ::
      ((List.range 64).filter (fun i => c.mask.testBit i && i != core)).map (fun i => scratchPa (g / 64 * 64 + i) off)
  | some (.own off) => [scratchPa g off]
  | some (.vault id off) => [vaultPa id off]
  | none => []

/-- Channel n makes an access of the context's thread to [a, a + n) stall (R289). -/
def Chan.stalls (c : Chan) (g a n : Nat) (store : Bool) : Bool :=
  let busy := (c.st.isGet || (c.st.isPut && store)) && decide (c.wm.toNat < c.ip)
  busy && (c.places g c.wm.toNat).any (fun p => decide (p < a + n) && decide (a < p + (c.ip - c.wm.toNat)))

/-- The channel that makes an access of the context's thread stall, if any (R289). -/
def Ctx.stallingChan (c : Ctx) (g a n : Nat) (store : Bool) : Option Nat :=
  (List.range 8).find? (fun i => (c.chan i).stalls g a n store)

/-- Stalls of an access on the context's channels; one that stalls on a Faulted channel takes cause 25 (R289, R293). -/
def stallChan (a n : Nat) (store : Bool) : M Unit := do
  let c ← ctx
  let g ← myCore
  match c.stallingChan g a n store with
  | none => pure ()
  | some i =>
    let ch := c.chan i
    if ch.st.faulted then trap 25 (chanTval ch.reason false i ch.faddr)
    else
      upd (·.perfCycles g 13)
      wait

/-- Stalls of an access to on-package SRAM: tile operands of the core, then the context's channels (R271, R289). -/
def stallSram (a n : Nat) (store : Bool) : M Unit := do
  let k ← core
  waitUnless (!k.tileStall a n store)
  stallChan a n store

/-! ### The scratchpad port (spec/04_memory.md R92; spec/05_ordering.md R137 to R140; spec/07_context.md R206, R220) -/

/-- SZ of R139, log2 of a size. A size that is no power of two (a part of an access that crosses a page, a piece of an engine
or of the matrix unit) has no such code in the spec: it is rounded down (DESIGN CHOICE, log entry 36). -/
def log2sz (n : Nat) : Nat := n.log2

/-- The accesses that a port sees of one of n bytes: it, or where it is longer than the largest SZ of R139 its parts in
64-byte blocks, as offset and length from its first byte. -/
def portParts (a n : Nat) : List (Nat × Nat) :=
  if n ≤ 64 then [(0, n)]
  else (List.range ((a + n - 1) / 64 - a / 64 + 1)).map (fun i =>
    let lo := max a ((a / 64 + i) * 64)
    (lo - a, min (a + n) ((a / 64 + i + 1) * 64) - lo))

/-- A scent record's 16 bytes (R139). -/
def scentRecord (seq src slot kind op sz off : Nat) : List Byte :=
  leBytes 16 (seq % 2 ^ 32 + src % 2 ^ 12 * 2 ^ 32 + slot % 8 * 2 ^ 44 + kind % 8 * 2 ^ 48 + op % 8 * 2 ^ 51
    + sz % 8 * 2 ^ 54 + off % 2 ^ 18 * 2 ^ 64)

/-- Records the ring holds (R138). -/
def ringSize (sscent : Word) : Nat := 2 ^ (wfld sscent 11 8 + 8)

/-- The access is of a class that the port logs (R137). -/
def scentLogs (sscent : Word) (localAcc : Bool) (op : Nat) : Bool :=
  if localAcc then wbit sscent 5 && op != 2
  else op != 2 || wbit sscent 2

/-- One access is logged after it is performed (R137, R140); with STOP, not one more than the ring holds (R138). While ERR
reads 1 nothing is logged, also where EN has been set again: R140 says that a port which finds its ring outside HBM logs
nothing further and leaves open what ends that (DESIGN CHOICE, log entry 36). -/
def State.logScent (s : State) (g : Nat) (localAcc : Bool) (src slot kind op sz off : Nat) : State :=
  let c := s.core g
  if wbit c.sscent 0 ∧ scentLogs c.sscent localAcc op ∧ wbit c.sscent 1 = false ∧ wbit c.sscent 4 = false then
    let size := ringSize c.sscent
    let base := down (wfld c.sscent 51 12 * 4096) (size * 16)
    if base + size * 16 > 0x10000000000 then
      s.modCore g (fun c => { c with sscent := wputb (wputb c.sscent 4 true) 0 false })
    else if wbit c.sscent 3 ∧ c.scentN ≥ size then s.modCore g (fun c => { c with sscent := wputb c.sscent 1 true })
    else
      let a := base + 16 * (c.scentSeq % size)
      let s := s.directWrite (g / 64) a 0 (scentRecord c.scentSeq src slot kind op sz off) none { cl := g / 64 }
      s.modCore g (fun c => { c with
        scentSeq := (c.scentSeq + 1) % 2 ^ 32
        scentN := c.scentN + 1
        sscent := if wbit c.sscent 3 ∧ c.scentN + 1 ≥ size then wputb c.sscent 1 true else c.sscent })
  else s

/-- What the record at an address of a scent log says of its access (R139). -/
def State.scentAt (s : State) (a : Nat) : PortSig :=
  let r := leNat (s.directRead a 16 0 {}).2.1
  { src := fld r 43 32, slot := fld r 46 44, kind := fld r 50 48, op := fld r 53 51, sz := fld r 56 54, off := fld r 81 64 }

/-- An imposed log lets the access through now: it is of no logged class, no log is imposed, or it matches the next record,
which is then consumed (R220). A turn that is tried without the log has its accesses listed instead. -/
def State.imposed (s : State) (g : Nat) (localAcc : Bool) (src slot kind op sz off : Nat) : Option State :=
  let c := s.core g
  let x : PortSig := { src := src, slot := slot, kind := kind, op := op, sz := sz, off := off }
  if c.impose.left = 0 ∨ !scentLogs (c.sscent) localAcc op then some s
  else
    match c.impose.probe with
    | some l => some (s.modCore g (fun c => { c with impose := { c.impose with probe := some (l ++ [x]) } }))
    | none =>
      if s.scentAt c.impose.next = x then
        some (s.modCore g (fun c => { c with impose := { c.impose with next := c.impose.next + 16, left := c.impose.left - 1 } }))
      else none

/-- An arrival over the cluster network met by a local access at one bank, or not: a free number of port cycles (spec/00_scope.md
R528; spec/03_encoding.md R68 event 9; log entry 2). -/
def State.meet (s : State) (g : Nat) : State := { s with free := s.free + 1 }.perf g 9 (Config.portMeets s.free)

/-- The rank of a core is in transit (spec/11_group.md R320). -/
def State.inTransit (s : State) (g : Nat) : Bool :=
  ((s.cluster (g / 64)).ranks.get { phys := g % 64 } (g % 64)).transit

/-- The rank of a core is in transit and holds an access of a request accepted at a time, which none stands for where the access
is no piece of a request: pieces of requests accepted before the marking pass (spec/11_group.md R320). -/
def State.holdsBack (s : State) (g : Nat) (since : Option Nat) : Bool :=
  s.inTransit g &&
    (match since with
     | none => true
     | some t => decide (((s.cluster (g / 64)).ranks.get { phys := g % 64 } (g % 64)).since < t))

/-- A core that is halted and not quiescent notes a load that its port serves (R206). -/
def State.noteStale (s : State) (g : Nat) : State :=
  s.modCore g (fun c => if c.halted && !c.quiet then { c with stale := true } else c)

/-- A store performed at the owning port (R131). -/
def State.portStore (s : State) (g off : Nat) (bs : List Byte) (by_ : Option Hart) : State :=
  s.putBytes (scratchPa g off) bs by_

/-- The hart has requests under way to a scratchpad port: posted, or held for a rank in transit (R129). -/
def State.portBusy (s : State) (h : Hart) (g : Nat) : Bool :=
  (s.core g).portq.any (fun r => r.kind == 0 && r.hart == h) ||
  (s.cluster (g / 64)).hold.any (fun x => match x with
    | .port c r => c == g % 64 && r.kind == 0 && r.hart == h
    | _ => false)

/-- A remote load at the port: every part of it passes an imposed log, and is logged (R137, R220). -/
def State.remoteLoad (s : State) (h : Hart) (g off n : Nat) : Option State :=
  (portParts off n).foldl (fun r p => r.bind (fun s =>
    (s.imposed g false h.gcore h.slot 0 2 (log2sz p.2) (off + p.1)).map (fun s =>
      (((s.noteStale g).logScent g false h.gcore h.slot 0 2 (log2sz p.2) (off + p.1)).perf h.gcore 10 1).meet g))) (some s)

/-- A scalar or vector load of n bytes of a scratchpad, with the first poisoned block of it (R92, R129, R137). -/
def loadScratch (a n : Nat) : M (List Byte × Option Nat) := do
  let s ← get
  let (g, off) := scratchAt a
  let h := s.cur
  if g = h.gcore then
    upd (·.noteStale g)
    return (s.getBytes a n, s.poisonIn a n)
  else
    waitUnless (!s.inTransit g)
    waitUnless (!s.portBusy h g)
    match s.remoteLoad h g off n with
    | none => wait
    | some s' =>
      set s'
      return (s.getBytes a n, s.poisonIn a n)

/-- Messages that the hold buffer of a cluster keeps (R320). -/
def holdSize : Nat := 256

/-- A port takes n more requests: its rank is not in transit, or the hold buffer has room (R320). -/
def State.sendable (s : State) (g n : Nat) : Bool :=
  !s.inTransit g || decide ((s.cluster (g / 64)).hold.length + n ≤ holdSize)

/-- What an imposed log compares of a request, and the turn that serves it. -/
def PortReq.sig (r : PortReq) (g : Nat) : Turn × PortSig :=
  (.event (.remoteScratchpadRequest (g / 64) (g % 64)),
   { src := r.src, slot := if r.kind = 0 then r.hart % 8 else 0, kind := r.kind, op := r.op, sz := log2sz r.bytes.length, off := r.off })

/-- Requests that arrive at a port; an imposed log holds them behind those that have arrived before (R92, R220). -/
def Core.arrive (c : Core) (g : Nat) (rs : List PortReq) : Core :=
  { c with portq := c.portq ++ rs
           impose := if c.impose.left = 0 then c.impose else { c.impose with held := c.impose.held ++ rs.map (·.sig g) } }

/-- A request put in the queue of a port, or into the hold buffer while its rank is in transit (R92, R320). -/
def State.sendPort (s : State) (g : Nat) (r : PortReq) : State :=
  if s.inTransit g then s.modCluster (g / 64) (fun c => { c with hold := c.hold ++ [.port (g % 64) r] })
  else s.modCore g (fun c => c.arrive g [r])

/-- The parts of a store at the own port, performed and logged where an imposed log lets them through (R137, R220). -/
def State.localStore (s : State) (h : Hart) (g off : Nat) (bs : List Byte) : Option State :=
  (portParts off bs.length).foldl (fun r p => r.bind (fun s =>
    (s.imposed g true g h.slot 0 0 (log2sz p.2) (off + p.1)).map (fun s =>
      (s.portStore g (off + p.1) ((bs.drop p.1).take p.2) (some h)).logScent g true g h.slot 0 0 (log2sz p.2) (off + p.1)))) (some s)

/-- The parts of a store to another port, sent (R92, R131). -/
def State.remoteStore (s : State) (h : Hart) (g off : Nat) (bs : List Byte) : State :=
  let c := s.ctx h
  (portParts off bs.length).foldl (fun s p =>
    (s.sendPort g { kind := 0, src := h.gcore, hart := h, op := 0, off := off + p.1, bytes := (bs.drop p.1).take p.2,
                    pois := false, ident := identOf c (effPriv (s.slot h) c) h, launch := wfld c.ulaunch 15 0 }).perf h.gcore 10 1) s

/-- A store to a scratchpad: performed at once at the own port, sent to another (R92, R131, R137). -/
def storeScratch (a : Nat) (bs : List Byte) : M Unit := do
  let s ← get
  let (g, off) := scratchAt a
  let h := s.cur
  if g = h.gcore then
    match s.localStore h g off bs with
    | none => wait
    | some s => set s
  else
    waitUnless (s.sendable g (portParts off bs.length).length)
    upd (·.remoteStore h g off bs)

/-- What an atomic reads: an LR stalls as a load (spec/09_tile.md R271); an SC reads nothing, so it consumes no poison
(spec/06_page.md R165, R166); an AMO or amocas does both. -/
inductive AtomicKind where
  | lr | sc | rmw
deriving DecidableEq, Repr

/-- The poisoned block that an atomic of the kind consumes. -/
def AtomicKind.consumed (k : AtomicKind) (bad : Option Nat) : Option Nat := if k = .sc then none else bad

/-- An atomic at a scratchpad's port: f gives the new bytes from the old ones, or none where nothing is written; one that
meets poison is logged as well, for it has arrived, and writes nothing (R130, R137; spec/06_page.md R166). -/
def atomicScratch (a n : Nat) (op : Nat) (k : AtomicKind) (f : List Byte → Option (List Byte)) : M (List Byte × Option Nat) := do
  let s ← get
  let (g, off) := scratchAt a
  let h := s.cur
  let loc : Bool := g == h.gcore
  waitUnless (loc || !s.inTransit g)
  waitUnless (loc || !s.portBusy h g)
  match s.imposed g loc h.gcore h.slot 0 op (log2sz n) off with
  | none => wait
  | some s' =>
    let old := s.getBytes a n
    let bad := k.consumed (s.poisonIn a n)
    let s' := match (if bad.isSome then none else f old) with
      | some new => s'.portStore g off new (some h)
      | none => s'
    let s' := (if k = .sc then s' else s'.noteStale g).logScent g loc h.gcore h.slot 0 op (log2sz n) off
    set (if loc then s' else (s'.perf h.gcore 10 1).meet g)
    return (old, bad)

/-- A request passes the check of its segment as it stands now. -/
def PortReq.permitted (r : PortReq) (s : State) (g : Nat) : Bool :=
  s.permits (scratchPa g r.off) r.bytes.length (r.op != 2) r.ident == .yes

/-- A request of a port performed and logged. -/
def State.serve (s : State) (g : Nat) (r : PortReq) : State :=
  let slot := if r.kind = 0 then r.hart % 8 else 0
  let s := s.portStore g r.off r.bytes (if r.kind = 0 then some r.hart else none)
  let s := if r.pois then (blocks (scratchPa g r.off) r.bytes.length).foldl (fun s b => s.setPoison b true) s else s
  let s := r.clears.foldl (fun s b => s.setPoison b false) s
  (s.logScent g false r.src slot r.kind r.op (log2sz r.bytes.length) r.off).meet g

/-- A request leaves its port: the others of the queue stay, and an imposed log holds it no more. -/
def Core.depart (c : Core) (g : Nat) (r : PortReq) (others : List PortReq) : Core :=
  { c with portq := others, impose := { c.impose with held := c.impose.held.erase (r.sig g) } }

/-- An earlier request of the same thread is still at the port: the program order of the two holds this one back (R129). -/
def PortReq.behind (r : PortReq) (before : List PortReq) : Bool :=
  before.any (fun b => b.kind == 0 && r.kind == 0 && b.hart == r.hart)

/-- The first request at a port that an imposed log lets through is performed and logged (R92, R137, R220). One that finds none
stays, and so do one to a segment that is being zeroed and the later ones of its thread (R129); one that has waited for a zeroing
is checked again and, where its segment now denies it, is dropped: its thread has gone on, and no rule gives the store another
end (spec/11_group.md R311; DESIGN CHOICE, log entry 40). -/
def State.servePort (s : State) (g : Nat) : List PortReq → List PortReq → Option State
  | _, [] => none
  | before, r :: rest =>
    if r.behind before ∨ s.zeroing g r.off then State.servePort s g (before ++ [r]) rest
    else if r.again && !r.permitted s g then some (s.modCore g (fun c => c.depart g r (before ++ rest)))
    else
      match s.imposed g false r.src (if r.kind = 0 then r.hart % 8 else 0) r.kind r.op (log2sz r.bytes.length) r.off with
      | none => State.servePort s g (before ++ [r]) rest
      | some s => some ((s.modCore g (fun c => c.depart g r (before ++ rest))).serve g r)

/-- REMOTE_SCRATCHPAD_REQUEST of a core. -/
def execRemoteScratchpadRequest (cl core_ : Nat) (s : State) : Out :=
  event (fun s =>
    let g := cl * 64 + core_
    if s.inTransit g then none else s.servePort g [] (s.core g).portq) s

/-! ### Global memory -/

/-- A read miss enters the slice's miss buffer, or joins the held request of its line (R104). -/
def Cluster.addMiss (c : Cluster) (a : Nat) (at_ : Attr) (cls asid : Nat) (h : Hart) : Cluster :=
  let bit := 1#8 <<< sectorOf a
  if c.filling a at_.key then
    { c with misses := c.misses.map (fun m =>
        if m.addr = down a 256 ∧ m.attr.key = at_.key then
          { m with sectors := if m.issued then m.sectors else m.sectors ||| bit
                   pref := m.pref && m.issued
                   harts := if m.harts.contains h then m.harts else m.harts ++ [h] } else m) }
  else { c with misses := c.misses ++ [{ addr := down a 256, attr := at_, cls := cls, asid := asid, sectors := bit,
                                          issued := false, pref := false, l1 := none, harts := [h] }] }

/-- The hart waits for a fill of the line already: its miss is counted. -/
def Cluster.missKnown (c : Cluster) (a key : Nat) (h : Hart) : Bool :=
  c.misses.any (fun m => m.addr == down a 256 && m.attr.key == key && m.harts.contains h)

/-- A load that misses in L2 waits in the slice's miss buffer; the L1D miss counts once (R104; spec/03_encoding.md R68). -/
def State.loadMiss (s : State) (b : Nat) (at_ : Attr) (cls asid : Nat) (h : Hart) : State :=
  let known := (s.cluster h.cl).missKnown b at_.key h
  let s := s.modCluster h.cl (·.addMiss b at_ cls asid h)
  if known then s else s.perf h.gcore 3 1

/-- The L1D after a load of a block that the L2 served: a cached page's line is installed; otherwise an older copy, which an
alias may have left, leaves, so that no later load goes back behind this one (R98, R102; spec/05_ordering.md R123, R124). -/
def Core.l1dLoaded (c : Core) (cache : Nat) (l : L1dLine) : Core := if cache = 0 then c.l1dFill l else c.l1dDrop l.addr

/-- One block of global memory for a load: L1D, then L2, then a miss that waits for its fill (R98, R102, R104). -/
def loadBlock (t : Target) (b : Nat) (va : Nat) : M (BitVec 256 × Bool) := do
  let s ← get
  let h := s.cur
  let c ← ctx
  let g := h.gcore
  let k := h.cl
  let cls := fillClass c t.attr
  match (if t.attr.cache = 0 then (s.core g).l1dFind b t.attr.key (fld va 13 5) else none) with
  | some l =>
    upd (fun s => let s := s.tock
                  s.modCore g (fun c => { c with l1d := c.l1d.map (fun x =>
                    if x.addr = l.addr then { x with used := s.tick } else x) }))
    return (l.data, l.poison)
  | none =>
    let i := sectorOf b
    match (s.cluster k).line b t.attr.key with
    | some l =>
      if l.valid.getLsbD i then
        upd (fun s => (s.scrubSoft b 32).serveLine k l h)
        upd (fun s => s.modCore g (fun c => c.l1dLoaded t.attr.cache
            { addr := b, key := t.attr.key, set := fld va 13 5, poison := l.poison.getLsbD i, data := l.sector i, used := s.tick }))
        upd (fun s => if l.owed.contains h then s else s.perf g 3 1)
        return (l.sector i, l.poison.getLsbD i)
      else
        upd (·.loadMiss b t.attr cls c.asid h)
        wait
    | none =>
      if (s.cluster k).mask (l2Slice b) cls = 0 then
        let (s, d, p) := s.cohRead b t.attr.key { asid := c.asid, cl := k }
        set ((s.modCore g (·.l1dDrop b)).perf g 3 1)
        return (d, p)
      else
        upd (·.loadMiss b t.attr cls c.asid h)
        wait

/-- The blocks of a load, in order, with the first poisoned one. -/
def loadBlocks (t : Target) (a n va : Nat) : List Nat → M (List Byte × Option Nat)
  | [] => return ([], none)
  | b :: bs => do
    let (d, p) ← loadBlock t b (va - va % 32 + (b - blk a))
    let lo := max a b
    let hi := min (a + n) (b + 32)
    let (rest, q) ← loadBlocks t a n va bs
    return (((vecBytes d 32).drop (lo - b)).take (hi - lo) ++ rest, if p then some b else q)

/-- Bytes of a translated load, with the first poisoned block of it. -/
def loadTarget (t : Target) (n : Nat) (va : Nat) : M (List Byte × Option Nat) := do
  if t.sram then
    stallSram t.a n false
    upd (·.scrubSoft t.a n)
    if rangeOf t.a = .scratch then loadScratch t.a n
    else
      let s ← get
      return (s.getBytes t.a n, s.poisonIn t.a n)
  else if t.attr.cache = 2 then
    let s ← get
    let c ← ctx
    let (s', bs, p) := (s.freshen s.cur.cl t.a n t.attr).directRead t.a n t.attr.key { asid := c.asid, cl := s.cur.cl }
    set (s'.dropOwn s.cur.gcore t.a n)
    return (bs, p)
  else loadBlocks t t.a n va (blocks t.a n)

/-- The parts of an access, one in each page that it touches: address and length. -/
def pageParts (va : Word) (n : Nat) : List (Word × Nat) :=
  let room := 4096 - va.toNat % 4096
  if n ≤ room then [(va, n)]
  else
    (va, room) :: (List.range ((n - room + 4095) / 4096)).map (fun i =>
      (va + w64 (room + 4096 * i), min 4096 (n - room - 4096 * i)))

/-- Translation of every part of an access; the trap value is its first byte (spec/03_encoding.md R67). -/
def translateParts (acc : Acc) (tv : Word) : List (Word × Nat) → M (List (Target × Word × Nat))
  | [] => return []
  | (va, n) :: r => do
    let t ← translate acc va tv n
    let ts ← translateParts acc tv r
    return (t, va, n) :: ts

/-- Loads of translated parts. -/
def loadParts : List (Target × Word × Nat) → M (List Byte × Option Nat)
  | [] => return ([], none)
  | (t, va, n) :: r => do
    let (bs, p) ← loadTarget t n va.toNat
    let (cs, q) ← loadParts r
    return (bs ++ cs, p <|> q)

/-- The consumption of a poisoned block: the precise trap of cause 19, charged to the thread (spec/06_page.md R166, R167). -/
def poisonTrap {α : Type} (tv : Word) (a : Nat) : M α := do
  let c ← ctx
  upd (fun s => s.error { kind := 2, asid := c.asid, addr := paOf (blk a), cl := s.cur.cl, launch := wfld c.ulaunch 15 0,
                          inj := s.injected.contains (blk a) })
  trap 19 tv

/-- An access of n bytes has completed: the marks that it has for its pages clear (spec/06_page.md R162). -/
def accessDone (acc : Acc) (va : Word) (n : Nat) : M Unit := do
  let part ← accessOf acc
  modSlot (·.clearMarks part va.toNat n)

/-- A load of n bytes at a virtual address (R125, R155, R166). -/
def loadBytes (va : Word) (n : Nat) : M (List Byte) := do
  let ts ← translateParts .load va (pageParts va n)
  let (bs, p) ← loadParts ts
  match p with
  | some b => poisonTrap va b
  | none =>
    accessDone .load va n
    return bs

/-- A store waits for an outstanding fill of a line that it touches (R107). -/
def waitFill (t : Target) (n : Nat) : M Unit := do
  let s ← get
  waitUnless (t.attr.cache = 2 || (blocks t.a n).all (fun b => !(s.cluster s.cur.cl).filling b t.attr.key))

/-- A store into global memory through the caches: it waits for an outstanding fill of its line, is performed in the L2
slice or past it, updates the core's own L1D copy and removes the cluster's other copies; a host or peer address leaves an
access to be acknowledged (R98, R103, R107, R125 to R127). `fresh` says that the access has allocated the line itself. -/
def storeGlobal (t : Target) (bs : List Byte) (fresh : Bool) : M Unit := do
  let s ← get
  let h := s.cur
  let c ← ctx
  let g := h.gcore
  let cls := fillClass c t.attr
  waitFill t bs.length
  upd (fun s => s.l2WriteBy h.cl t.a t.attr cls c.asid bs (some h) fresh)
  upd (fun s => (splitBlocks t.a bs).foldl (fun s p =>
    (s.modCore g (·.l1dStore p.1 t.attr.key p.2)).l1dInvalidate h.cl (some g) p.1) s)
  if localHbm t.a then pure ()
  else upd (fun s => { s with acks := s.acks ++ [{ hart := h, addr := t.a }] })

/-- A store of bytes to a translated target. -/
def storeTarget (t : Target) (bs : List Byte) : M Unit := do
  if t.sram then
    if rangeOf t.a = .scratch then storeScratch t.a bs
    else upd (fun s => s.putBytes t.a bs (some s.cur))
  else storeGlobal t bs false

/-- The stalls of an access, before any byte is written. -/
def stallParts (store : Bool) : List (Target × Word × Nat) → M Unit
  | [] => pure ()
  | (t, _, n) :: r => do
    if t.sram then stallSram t.a n store
    else if store then waitFill t n
    else pure ()
    stallParts store r

/-- Stores of the parts of an access. -/
def storeParts : List (Target × Word × Nat) → List Byte → M Unit
  | [], _ => pure ()
  | (t, _, n) :: r, bs => do
    storeTarget t (bs.take n)
    storeParts r (bs.drop n)

/-- A store of bytes at a virtual address; a trap in either part writes no byte (spec/03_encoding.md R67). -/
def storeBytes (va : Word) (bs : List Byte) : M Unit := do
  let ts ← translateParts .store va (pageParts va bs.length)
  stallParts true ts
  storeParts ts bs
  accessDone .store va bs.length

/-- A poisoned copy of a block of a target, where a store of the hart meets one. -/
def State.poisonAt (s : State) (h : Hart) (t : Target) (b : Nat) : Bool :=
  s.poison.contains b
    || ((s.cluster h.cl).line b t.attr.key).any (fun l => l.poison.getLsbD (sectorOf b))
    || (s.core h.gcore).l1d.any (fun l => l.addr == b && l.poison)

/-- The last request that a hart has sent to a port. -/
def markLast (h : Hart) (b : Nat) (rs : List PortReq) : List PortReq :=
  let n := (rs.zipIdx.filter (fun p => p.1.kind == 0 && p.1.hart == h)).getLast?
  match n with
  | some (r, i) => setNth rs i { r with clears := r.clears ++ [b] }
  | none => rs

/-- The last request that a hart has put into a hold buffer. -/
def markHeld (h : Hart) (g b : Nat) (hs : List Held) : List Held :=
  let n := (hs.zipIdx.filter (fun p => match p.1 with
    | .port c r => c == g % 64 && r.kind == 0 && r.hart == h
    | _ => false)).getLast?
  match n with
  | some (.port c r, i) => setNth hs i (.port c { r with clears := r.clears ++ [b] })
  | _ => hs

/-- A block of a target that a store of a hart has written whole is poisoned no more, where its copy is: in the caches, in storage
past them, or at another port when the last store of it is served (spec/06_page.md R165). -/
def State.clearBlock (s : State) (h : Hart) (t : Target) (b : Nat) : State :=
  let (g, _) := scratchAt b
  if rangeOf t.a = .scratch ∧ t.sram ∧ g ≠ h.gcore then
    if s.inTransit g then s.modCluster (g / 64) (fun c => { c with hold := markHeld h g b c.hold })
    else s.modCore g (fun c => { c with portq := markLast h b c.portq })
  else if t.sram then s.setPoison b false
  else
    let k := h.cl
    let i := sectorOf b
    let s := s.modCore h.gcore (fun c => { c with l1d := c.l1d.map (fun l => if l.addr = b then { l with poison := false } else l) })
    match (if t.attr.cache = 2 then none else ((s.cluster k).line b t.attr.key).filter (fun l => l.valid.getLsbD i)) with
    | some l =>
      (if localHbm b then s else s.setPoison b false).modCluster k (·.putLine { l with poison := setB8 l.poison i false })
    | none => s.setPoison b false

/-- The sectors of one line that an atomic of the hart acts on in its L2 slice: a miss waits for its fill as a load's does, and so
does an atomic that meets a fill under way (R104, R107). -/
def waitSector (t : Target) (n : Nat) : M Unit := do
  let s ← get
  let h := s.cur
  let c ← ctx
  let cls := fillClass c t.attr
  if t.attr.cache = 2 then pure ()
  else
    waitUnless (!(s.cluster h.cl).filling t.a t.attr.key)
    let lacks := (blocks t.a n).filter (fun b =>
      !((s.cluster h.cl).line b t.attr.key).any (fun l => l.valid.getLsbD (sectorOf b)))
    if !localHbm t.a || lacks.isEmpty || (s.cluster h.cl).mask (l2Slice t.a) cls = 0 then pure ()
    else
      modCluster (fun k => lacks.foldl (fun k b => k.addMiss b t.attr cls c.asid h) k)
      wait

/-- What an atomic of a hart reads of global memory: in its L2 slice, where the answer to its own miss is no further use of the
line, or at the home (R102, R104, R130). The flag says that its own miss has brought the line. -/
def State.atomicRead (s : State) (h : Hart) (t : Target) (n cls asid : Nat) : State × List Byte × Option Nat × Bool :=
  let e : ErrRec := { asid := asid, cl := h.cl }
  if !localHbm t.a ∨ t.attr.cache = 2 then
    let (s, bs, p) := s.directRead t.a n t.attr.key e
    (s, bs, p, false)
  else
    let bs := blocks t.a n
    match ((s.cluster h.cl).line t.a t.attr.key).filter (fun l =>
        l.owed.contains h && bs.all (fun b => l.valid.getLsbD (sectorOf b))) with
    | some l =>
      ((s.scrubSoft t.a n).serveLine h.cl l h, bs.flatMap (fun b => cutBytes t.a n b (l.sector (sectorOf b))),
       bs.find? (fun b => l.poison.getLsbD (sectorOf b)), true)
    | none =>
      let (s, bs, p) := s.l2ReadN h.cl t.a n t.attr cls asid
      (s, bs, if p then some (blk t.a) else none, false)

/-- An indivisible read and conditional write of n naturally aligned bytes at the point of spec/05_ordering.md R130, with the
poisoned block that it consumes. One that writes nothing leaves no older copy of its bytes in the core's own L1D, nor one of
host or peer memory in its cluster's L2 (R123, R124). -/
def atomicTarget (t : Target) (n op : Nat) (k : AtomicKind) (f : List Byte → Option (List Byte)) : M (List Byte × Option Nat) := do
  let s ← get
  let h := s.cur
  let c ← ctx
  if t.sram then
    stallSram t.a n (k != .lr)
    upd (·.scrubSoft t.a n)
    if rangeOf t.a = .scratch then atomicScratch t.a n op k f
    else
      let s ← get
      let old := s.getBytes t.a n
      match k.consumed (s.poisonIn t.a n) with
      | some b => return (old, some b)
      | none =>
        match f old with
        | some new => upd (fun s => s.putBytes t.a new (some h))
        | none => pure ()
        return (old, none)
  else
    waitSector t n
    let (s', bs, p, fresh) := s.atomicRead h t n (fillClass c t.attr) c.asid
    set s'
    match k.consumed p with
    | some b => return (bs, some b)
    | none =>
      match f bs with
      | some new => storeGlobal t new fresh
      | none => upd (fun s => (s.freshen h.cl t.a n t.attr).dropOwn h.gcore t.a n)
      return (bs, none)

/-- An atomic at a virtual address: alignment first (R67, R155), then the checks of a store. -/
def atomicAt (va : Word) (n op : Nat) (misCause : Nat) (acc : Acc) (f : List Byte → Option (List Byte)) : M (List Byte) := do
  orTrap (va.toNat % n = 0) misCause va
  let t ← translate acc va va n
  let (bs, p) ← atomicTarget t n op .rmw f
  match p with
  | some b => poisonTrap va b
  | none =>
    accessDone acc va n
    return bs

/-! ### Fetch (spec/04_memory.md R99) -/

/-- An L1I line installed; a full set of four loses its oldest line. That physical address bits 12:6 pick the set is the
model's choice too, for R99 gives only size, ways and line length (DESIGN CHOICE, log entry 9). -/
def Core.l1iFill (c : Core) (l : L1iLine) : Core :=
  let set (x : L1iLine) : Nat := fld x.addr 12 6
  let rest := c.l1i.filter (fun x => !(x.addr == l.addr && x.key == l.key))
  let same := (rest.filter (fun x => set x == set l)).take 3
  { c with l1i := l :: (same ++ rest.filter (fun x => set x != set l)) }

/-- The latent record of the block of a fetched line that is poisoned and not executed (spec/06_page.md R167). -/
def State.latentCode (s : State) (asid k : Nat) (b : Nat) (p : Bool) : List ErrRec :=
  if p then [{ kind := 4, sev := 1, asid := asid, cl := k, addr := paOf b, inj := s.injected.contains b }] else []

/-- Bytes of a fetch within one 64-byte line, and whether their block is poisoned: from the L1I, which fills both blocks by
one access to the L2 and does not see stores (R99, R104). -/
def fetchLine (t : Target) (n : Nat) : M (List Byte × Bool) := do
  let s ← get
  let c ← ctx
  let g := s.cur.gcore
  let base := down t.a 64
  let i := (t.a - base) / 32
  let cut (d : List (BitVec 256)) (p : BitVec 2) : List Byte × Bool :=
    (((vecBytes (nth d i 0#256) 32).drop ((t.a - base) % 32)).take n, p.getLsbD i)
  if t.attr.cache = 2 then
    let (s, bs, p) := s.directRead t.a n t.attr.key { asid := c.asid, cl := s.cur.cl }
    set s
    return (bs, p.isSome)
  else
    match (s.core g).l1i.find? (fun l => l.addr == base && l.key == t.attr.key) with
    | some l => return cut l.data l.poison
    | none =>
      let k := s.cur.cl
      let (s, xs) := s.l2Blocks k base 64 t.attr t.attr.cos c.asid
      let x (j : Nat) : Nat × BitVec 256 × Bool := nth xs j (base, 0#256, false)
      let l : L1iLine := { addr := base, key := t.attr.key, poison := BitVec.ofNat 2 (b2n (x 0).2.2 + 2 * b2n (x 1).2.2),
                           data := [(x 0).2.1, (x 1).2.1], used := s.tick }
      let s := s.errors (s.latentCode c.asid k (base + 32 * (1 - i)) (x (1 - i)).2.2)
      set ((s.modCore g (·.l1iFill l)).perf g 4 1)
      return cut l.data l.poison

/-- Two bytes of code at an even address. -/
def fetchHalf (va : Word) : M (List Byte) := do
  let t ← translate .fetch va va 2
  let (bs, p) ← fetchLine t 2
  let c ← ctx
  if p then poisonTrap c.pc t.a
  else
    accessDone .fetch va 2
    return bs

/-! ### Fills (spec/04_memory.md R104) -/

/-- MISS_HOLD_EXPIRY: the held miss issues. -/
def execMissHoldExpiry (cl idx : Nat) (s : State) : Out :=
  event (fun s =>
    match (s.cluster cl).misses[idx]? with
    | some m => if m.issued then none
                else some (s.modCluster cl (fun c => { c with misses := setNth c.misses idx { m with issued := true } }))
    | none => none) s

/-- L2_FILL_RETURN: an issued miss is answered; the loads that wait on it are served when they issue again. -/
def execL2FillReturn (cl idx : Nat) (s : State) : Out :=
  event (fun s =>
    match (s.cluster cl).misses[idx]? with
    | some m =>
      if m.issued then
        let s := s.modCluster cl (fun c => { c with misses := c.misses.eraseIdx idx })
        some (s.fillReturn cl m)
      else none
    | none => none) s

/-- MEMORY_ACKNOWLEDGEMENT: an access sent to memory or a home is acknowledged (spec/05_ordering.md R125; spec/06_page.md
R171). -/
def execMemoryAcknowledgement (idx : Nat) (s : State) : Out :=
  event (fun s => if idx < s.acks.length then some { s with acks := s.acks.eraseIdx idx } else none) s

end Sys2Proof.Machine
end

