-- ==== Sys2Proof/Machine/Operands.lean ====
section
/-! DEFINITION. Operand forms: immediates, effective addresses, shift amounts, NaN-boxed floating-point registers, packed
lanes, and the integer operations of the scalar base on their operands (spec/03_encoding.md R65, R70; spec/00_scope.md R7;
spec/02_numbers.md R44; the meanings of the standard instructions are the standard's, PRESUMED, log entry 13). -/

namespace Sys2Proof.Machine

open Sys2Proof

/-- A 12-bit immediate, sign-extended. -/
def imm12 (i : BitVec 12) : Word := i.signExtend 64
/-- The effective address rs1 + imm. -/
def effAddr (rs1 : Word) (i : BitVec 12) : Word := rs1 + imm12 i
/-- A branch offset: the field counts units of two bytes. -/
def brOff (i : BitVec 12) : Word := i.signExtend 64 <<< 1
/-- A jal offset: the field counts units of two bytes. -/
def jalOff (i : BitVec 20) : Word := i.signExtend 64 <<< 1
/-- The upper immediate of lui and auipc. -/
def upperImm (i : BitVec 20) : Word := (i ++ 0#12).signExtend 64
/-- The low word of a doubleword, sign-extended. -/
def sextw (v : Word) : Word := (v.setWidth 32).signExtend 64
/-- The low word of a doubleword, zero-extended. -/
def zextw (v : Word) : Word := (v.setWidth 32).setWidth 64

/-- Signed quotient by the standard's rules: x / 0 = -1, the overflow gives the dividend. -/
def sdivR {n : Nat} (a b : BitVec n) : BitVec n := if b = 0#n then BitVec.allOnes n else a.sdiv b
/-- Unsigned quotient: x / 0 = 2^n - 1. -/
def udivR {n : Nat} (a b : BitVec n) : BitVec n := if b = 0#n then BitVec.allOnes n else a / b
/-- Signed remainder: x rem 0 = x. -/
def sremR {n : Nat} (a b : BitVec n) : BitVec n := if b = 0#n then a else a.srem b
/-- Unsigned remainder: x rem 0 = x. -/
def uremR {n : Nat} (a b : BitVec n) : BitVec n := if b = 0#n then a else a % b

/-- High half of a product of integers. -/
def hiProd (a b : Int) : Word := BitVec.ofInt 64 (a * b / (2 ^ 64 : Nat))

/-- Rotation left of an n-bit value. -/
def rolN {n : Nat} (a : BitVec n) (k : Nat) : BitVec n := a <<< (k % n) ||| a >>> ((n - k % n) % n)
/-- Rotation right of an n-bit value. -/
def rorN {n : Nat} (a : BitVec n) (k : Nat) : BitVec n := a >>> (k % n) ||| a <<< ((n - k % n) % n)

/-- A 32-bit operation on the low words, its result sign-extended. -/
def wop (f : BitVec 32 → BitVec 32 → BitVec 32) (a b : Word) : Word :=
  (f (a.setWidth 32) (b.setWidth 32)).signExtend 64

/-- The register-register operations. -/
def aluFn (k : AluOp) (a b : Word) : Word :=
  let s6 := b.toNat % 64
  match k with
  | .add => a + b
  | .sub => a - b
  | .sll => a <<< s6
  | .slt => b2w (a.slt b)
  | .sltu => b2w (a.ult b)
  | .xor => a ^^^ b
  | .srl => a >>> s6
  | .sra => a.sshiftRight s6
  | .or => a ||| b
  | .and => a &&& b
  | .mul => a * b
  | .mulh => hiProd a.toInt b.toInt
  | .mulhsu => hiProd a.toInt (b.toNat : Int)
  | .mulhu => w64 (a.toNat * b.toNat / 2 ^ 64)
  | .div => sdivR a b
  | .divu => udivR a b
  | .rem => sremR a b
  | .remu => uremR a b
  | .sh1add => (a <<< 1) + b
  | .sh2add => (a <<< 2) + b
  | .sh3add => (a <<< 3) + b
  | .andn => a &&& ~~~b
  | .orn => a ||| ~~~b
  | .xnor => ~~~(a ^^^ b)
  | .max => if a.slt b then b else a
  | .maxu => if a.ult b then b else a
  | .min => if a.slt b then a else b
  | .minu => if a.ult b then a else b
  | .rol => rolN a s6
  | .ror => rorN a s6
  | .bset => a ||| 1#64 <<< s6
  | .bclr => a &&& ~~~(1#64 <<< s6)
  | .binv => a ^^^ 1#64 <<< s6
  | .bext => a >>> s6 &&& 1#64
  | .czeroEqz => if b = 0#64 then 0#64 else a
  | .czeroNez => if b = 0#64 then a else 0#64
  | .addw => wop (· + ·) a b
  | .subw => wop (· - ·) a b
  | .sllw => wop (fun x y => x <<< (y.toNat % 32)) a b
  | .srlw => wop (fun x y => x >>> (y.toNat % 32)) a b
  | .sraw => wop (fun x y => x.sshiftRight (y.toNat % 32)) a b
  | .mulw => wop (· * ·) a b
  | .divw => wop sdivR a b
  | .divuw => wop udivR a b
  | .remw => wop sremR a b
  | .remuw => wop uremR a b
  | .addUw => zextw a + b
  | .sh1addUw => (zextw a <<< 1) + b
  | .sh2addUw => (zextw a <<< 2) + b
  | .sh3addUw => (zextw a <<< 3) + b
  | .rolw => wop (fun x y => rolN x (y.toNat % 32)) a b
  | .rorw => wop (fun x y => rorN x (y.toNat % 32)) a b

/-- The immediate operations. -/
def immFn (k : ImmOp) (a : Word) (i : BitVec 12) : Word :=
  let b := imm12 i
  match k with
  | .addi => a + b
  | .slti => b2w (a.slt b)
  | .sltiu => b2w (a.ult b)
  | .xori => a ^^^ b
  | .ori => a ||| b
  | .andi => a &&& b
  | .addiw => sextw (a + b)

/-- The shifts and single-bit operations with an immediate amount. -/
def shFn (k : ShOp) (a : Word) (amt : BitVec 6) : Word :=
  let n := amt.toNat
  match k with
  | .slli => a <<< n
  | .srli => a >>> n
  | .srai => a.sshiftRight n
  | .rori => rorN a n
  | .bseti => a ||| 1#64 <<< n
  | .bclri => a &&& ~~~(1#64 <<< n)
  | .binvi => a ^^^ 1#64 <<< n
  | .bexti => a >>> n &&& 1#64
  | .slliUw => zextw a <<< n
  | .slliw => (a.setWidth 32 <<< (n % 32)).signExtend 64
  | .srliw => (a.setWidth 32 >>> (n % 32)).signExtend 64
  | .sraiw => ((a.setWidth 32).sshiftRight (n % 32)).signExtend 64
  | .roriw => (rorN (a.setWidth 32) (n % 32)).signExtend 64

/-- Leading zeros of an n-bit value. -/
def clzN (n v : Nat) : Nat := n - bitLen (v % 2 ^ n)
/-- Trailing zeros of an n-bit value. -/
def ctzN (n v : Nat) : Nat := (leastBelow n (fun i => v.testBit i)).getD n

/-- The one-operand operations of Zbb. -/
def unFn (k : UnOp) (a : Word) : Word :=
  match k with
  | .clz => w64 (clzN 64 a.toNat)
  | .ctz => w64 (ctzN 64 a.toNat)
  | .cpop => w64 (popCount 64 a.toNat)
  | .sextb => (a.setWidth 8).signExtend 64
  | .sexth => (a.setWidth 16).signExtend 64
  | .zexth => (a.setWidth 16).setWidth 64
  | .orcb => w64 (leNat ((leBytes 8 a.toNat).map (fun b => if b = 0#8 then 0#8 else 0xFF#8)))
  | .rev8 => w64 (leNat (leBytes 8 a.toNat).reverse)
  | .clzw => w64 (clzN 32 a.toNat)
  | .ctzw => w64 (ctzN 32 a.toNat)
  | .cpopw => w64 (popCount 32 a.toNat)

/-- The condition of a branch. -/
def brFn (k : BrOp) (a b : Word) : Bool :=
  match k with
  | .beq => a == b
  | .bne => a != b
  | .blt => a.slt b
  | .bge => !a.slt b
  | .bltu => a.ult b
  | .bgeu => !a.ult b

/-- The value an AMO writes: op old src, on n-bit values (RV64A). -/
def amoFn {n : Nat} (k : AmoOp) (old src : BitVec n) : BitVec n :=
  match k with
  | .lr => old
  | .sc => src
  | .swap => src
  | .add => old + src
  | .xor => old ^^^ src
  | .and => old &&& src
  | .or => old ||| src
  | .min => if old.slt src then old else src
  | .max => if old.slt src then src else old
  | .minu => if old.ult src then old else src
  | .maxu => if old.ult src then src else old

/-! ### Floating-point registers (spec/02_numbers.md R44) -/

/-- Width of a scalar format. -/
def fmtWidth : FpFmt → Nat
  | .s => 32 | .d => 64 | .h => 16

/-- The canonical NaN of a binary format of a given width. -/
def canonNaN (w : Nat) : Nat :=
  match w with
  | 16 => 0x7E00
  | 32 => 0x7FC00000
  | _ => 0x7FF8000000000000

/-- The value in an f register of a format: NaN-boxed, or the canonical NaN where the box is not all ones. -/
def unbox (fmt : FpFmt) (v : Word) : Nat :=
  let w := fmtWidth fmt
  if w = 64 ∨ v.toNat / 2 ^ w = 2 ^ (64 - w) - 1 then v.toNat % 2 ^ w else canonNaN w

/-- A value of a format NaN-boxed into a doubleword. -/
def boxF (fmt : FpFmt) (v : Nat) : Word :=
  let w := fmtWidth fmt
  w64 (v % 2 ^ w + (2 ^ 64 - 2 ^ w))

/-! ### Packed lanes (spec/08_vector.md R231) -/

/-- Lanes of a doubleword, low lane first. -/
def lanes (w n : Nat) (v : Word) : List Nat := (List.range n).map (fun i => fld v.toNat (w * i + w - 1) (w * i))
/-- A doubleword from lanes of w bits. -/
def ofLanes (w : Nat) : List Nat → Nat
  | [] => 0
  | x :: xs => x % 2 ^ w + 2 ^ w * ofLanes w xs
/-- A lane-by-lane operation. -/
def lanewise (w : Nat) (f : Nat → Nat → Nat) (a b : Word) : Word :=
  w64 (ofLanes w ((lanes w (64 / w) a).zipWith f (lanes w (64 / w) b)))

end Sys2Proof.Machine
end

