-- ==== Sys2Proof/Machine/Flags.lean ====
section
/-! DEFINITION. Flags and status: the floating-point flags, FS and VS, the fixed-point flag, and the views of mstatus and
sstatus (spec/03_encoding.md R65, R67, R73; spec/02_numbers.md R45; the layouts are the standard's, PRESUMED, log entry 13). -/

namespace Sys2Proof.Machine

open Sys2Proof

/-- The floating-point exception flags, in the order of fflags: NV, DZ, OF, UF, NX. -/
structure FFlags where
  nv : Bool := false
  dz : Bool := false
  of_ : Bool := false
  uf : Bool := false
  nx : Bool := false
deriving DecidableEq, Repr, Inhabited

/-- Both sets of flags. -/
def FFlags.join (a b : FFlags) : FFlags :=
  { nv := a.nv || b.nv, dz := a.dz || b.dz, of_ := a.of_ || b.of_, uf := a.uf || b.uf, nx := a.nx || b.nx }

/-- The flags as the low five bits of fcsr. -/
def FFlags.bits (f : FFlags) : Nat := b2n f.nx + 2 * b2n f.uf + 4 * b2n f.of_ + 8 * b2n f.dz + 16 * b2n f.nv

/-- Flags accrued into fcsr; FS becomes Dirty where a flag is written (R73). -/
def Ctx.accrue (c : Ctx) (f : FFlags) : Ctx :=
  if f.bits = 0 then c else { c with fcsr := c.fcsr ||| w64 f.bits }.dirtyF

/-- Dynamic rounding mode. -/
def Ctx.frm (c : Ctx) : Nat := wfld c.fcsr 7 5

/-- The rounding mode of an instruction, or illegal instruction for a dynamic mode that frm makes reserved (R67). -/
def roundMode (rm : BitVec 3) : M Nat := do
  let c ← ctx
  let r := if rm = 7#3 then c.frm else rm.toNat
  require (decide (r ≤ 4))
  return r

/-- Illegal instruction where the floating-point unit is Off (R73). -/
def needF : M Unit := do
  let c ← ctx
  require (c.fs ≠ 0)

/-- Illegal instruction where the vector unit is Off (R73). -/
def needV : M Unit := do
  let c ← ctx
  require (c.vs ≠ 0)

/-- Flags of a scalar instruction. -/
def accrue (f : FFlags) : M Unit := modCtx (·.accrue f)

/-- The summary of dirty state: bit 63 of the status views. -/
def Ctx.sd (c : Ctx) : Bool := c.fs == 3 || c.vs == 3

/-- sstatus as software reads it: the context's fields, UXL = 2, SD. -/
def Ctx.sstatusView (c : Ctx) : Word := wputb (wput c.sstatus 33 32 2) 63 c.sd

/-- mstatus as software reads it: the slot's fields and the context's, SXL = UXL = 2, SD. -/
def mstatusView (t : Slot) (c : Ctx) : Word := wput (c.sstatusView ||| t.mstatus) 35 34 2

/-- Bits of the status word that belong to the context: SIE, SPIE, SPP, VS, FS, SUM, MXR. -/
def sstatusMask : Word := 0xC6722#64
/-- Bits that belong to the slot: MIE, MPIE, MPP, MPRV, TVM, TW, TSR. -/
def mstatusMask : Word := 0x721888#64

/-- sstatus written. -/
def Ctx.writeSstatus (c : Ctx) (v : Word) : Ctx := { c with sstatus := v &&& sstatusMask }
/-- The slot's part of mstatus written; the reserved code 2 of MPP leaves MPP as it was. -/
def Slot.writeMstatus (t : Slot) (v : Word) : Slot :=
  let v := if wfld v 12 11 = 2 then wput v 12 11 (wfld t.mstatus 12 11) else v
  { t with mstatus := v &&& mstatusMask }

end Sys2Proof.Machine
end

