-- ==== Sys2Proof/Machine/Float.lean ====
section
/-! DEFINITION. IEEE arithmetic on bit patterns: exact values, one rounding, flags (spec/02_numbers.md R42 to R47;
spec/03_encoding.md R67). A finite value is an exact dyadic number; every operation computes exactly and rounds once. -/

namespace Sys2Proof.Machine

open Sys2Proof

/-- A binary interchange format: exponent bits and fraction bits (R42). -/
structure BinFmt where
  e : Nat
  m : Nat
deriving DecidableEq, Repr

def binary16 : BinFmt := ⟨5, 10⟩
def binary32 : BinFmt := ⟨8, 23⟩
def binary64 : BinFmt := ⟨11, 52⟩
def bfloat16 : BinFmt := ⟨8, 7⟩

/-- The format of a scalar instruction. -/
def binOf : FpFmt → BinFmt
  | .s => binary32 | .d => binary64 | .h => binary16

def BinFmt.width (f : BinFmt) : Nat := 1 + f.e + f.m
def BinFmt.bias (f : BinFmt) : Nat := 2 ^ (f.e - 1) - 1
/-- Bits of +infinity. -/
def BinFmt.inf (f : BinFmt) : Nat := (2 ^ f.e - 1) * 2 ^ f.m
/-- The canonical NaN (R44). -/
def BinFmt.nan (f : BinFmt) : Nat := f.inf + 2 ^ (f.m - 1)
/-- The sign bit. -/
def BinFmt.sgn (f : BinFmt) (neg : Bool) : Nat := if neg then 2 ^ (f.e + f.m) else 0

/-- An exact value: a NaN (signalling or not), an infinity, or (-1)^neg * m * 2^e. -/
inductive FV where
  | nan (sig : Bool)
  | inf (neg : Bool)
  | num (neg : Bool) (m : Nat) (e : Int)
deriving DecidableEq, Repr, Inhabited

/-- The value of a bit pattern (R43). -/
def BinFmt.val (f : BinFmt) (b : Nat) : FV :=
  let neg := b.testBit (f.e + f.m)
  let ex := b / 2 ^ f.m % 2 ^ f.e
  let fr := b % 2 ^ f.m
  if ex = 2 ^ f.e - 1 then (if fr = 0 then .inf neg else .nan (!fr.testBit (f.m - 1)))
  else if ex = 0 then .num neg fr (1 - (f.bias : Int) - f.m)
  else .num neg (fr + 2 ^ f.m) (ex - (f.bias : Int) - f.m)

/-- A shift by a signed number of places, and what is cut off: the quotient, the remainder, the divisor. -/
def cutAt (m : Nat) (k : Int) : Nat × Nat × Nat :=
  match k with
  | .ofNat n => (m >>> n, m % 2 ^ n, 2 ^ n)
  | .negSucc n => (m <<< (n + 1), 0, 1)

/-- A cut value rounded by a mode: 0 nearest even, 1 towards zero, 2 down, 3 up, 4 nearest away, 5 to odd. `more` says that
the exact value lies a little above what m holds. -/
def roundCut (rm : Nat) (neg : Bool) (c : Nat × Nat × Nat) (more : Bool) : Nat × Bool :=
  let (q, r, d) := c
  let inexact := r != 0 || more
  let above := decide (2 * r > d) || (2 * r == d && more)
  let tie := 2 * r == d && !more
  let up := match rm with
    | 0 => above || (tie && q % 2 == 1)
    | 2 => neg && inexact
    | 3 => !neg && inexact
    | 4 => decide (2 * r ≥ d) && d != 1
    | _ => false
  (if rm = 5 ∧ inexact then q ||| 1 else if up then q + 1 else q, inexact)

/-- A nonzero exact magnitude (m, and a little more where `more`) * 2^e rounded into a format, with its flags: overflow by
the mode, underflow where the result is tiny after rounding and inexact (the standard's rules). -/
def BinFmt.round (f : BinFmt) (rm : Nat) (neg : Bool) (m : Nat) (e : Int) (more : Bool) : Nat × FFlags :=
  let p := f.m + 1
  let emin : Int := 1 - (f.bias : Int)
  let top : Int := bitLen m - 1 + e                 -- exponent of the leading bit
  let q := max (top - f.m) (emin - f.m)             -- exponent of the last kept bit
  let (sig, nx) := roundCut rm neg (cutAt m (q - e)) more
  let tiny := decide (top < emin) &&
    (decide (top + 1 < emin) || (roundCut rm neg (cutAt m (top - f.m - e)) more).1 != 2 ^ p)
  let fin : Nat := (q - (emin - f.m)).toNat * 2 ^ f.m + sig   -- the encoding as one number: a carry moves the exponent
  if fin ≥ f.inf then
    let toInf := match rm with
      | 0 | 4 => true
      | 2 => neg
      | 3 => !neg
      | _ => false
    (f.sgn neg + (if toInf then f.inf else f.inf - 1), { of_ := true, nx := true })
  else (f.sgn neg + fin, { uf := tiny && nx, nx := nx })

/-- An exact value as a bit pattern, rounded; a NaN is the canonical one (R44). -/
def BinFmt.enc (f : BinFmt) (rm : Nat) (v : FV) : Nat × FFlags :=
  match v with
  | .nan _ => (f.nan, {})
  | .inf n => (f.sgn n + f.inf, {})
  | .num n m e => if m = 0 then (f.sgn n, {}) else f.round rm n m e false

/-- The signed significand of a finite value at an exponent not above its own. -/
def signedAt (neg : Bool) (m : Nat) (e lo : Int) : Int :=
  let v : Int := (m <<< (e - lo).toNat : Nat)
  if neg then -v else v

/-- An integer times a power of two as a value. -/
def FV.ofInt (i : Int) (e : Int) : FV := .num (decide (i < 0)) i.natAbs e

/-- The exact sum of two values, with the sign of an exact zero by the rounding mode; NaN for opposite infinities. -/
def FV.add (rm : Nat) (a b : FV) : FV :=
  match a, b with
  | .nan s, .nan t => .nan (s || t)
  | .nan s, _ => .nan s
  | _, .nan s => .nan s
  | .inf n, .inf k => if n = k then .inf n else .nan true
  | .inf n, _ => .inf n
  | _, .inf n => .inf n
  | .num n m e, .num k l d =>
    if m = 0 ∧ l = 0 then .num (if n = k then n else rm = 2) 0 0
    else
      let lo := min e d
      let s := signedAt n m e lo + signedAt k l d lo
      if s = 0 then .num (rm = 2) 0 0 else FV.ofInt s lo

/-- The exact product; NaN (signalling, so that NV is raised) for zero times infinity. -/
def FV.mul (a b : FV) : FV :=
  match a, b with
  | .nan s, .nan t => .nan (s || t)
  | .nan s, _ => .nan s
  | _, .nan s => .nan s
  | .inf n, .inf k => .inf (n != k)
  | .inf n, .num k l _ => if l = 0 then .nan true else .inf (n != k)
  | .num n m _, .inf k => if m = 0 then .nan true else .inf (n != k)
  | .num n m e, .num k l d => .num (n != k) (m * l) (e + d)

/-- The negated value. -/
def FV.neg : FV → FV
  | .nan s => .nan s
  | .inf n => .inf (!n)
  | .num n m e => .num (!n) m e

/-- The value is a NaN; a signalling one. -/
def FV.isNan : FV → Bool
  | .nan _ => true
  | _ => false
def FV.isSnan : FV → Bool
  | .nan s => s
  | _ => false

/-- A result computed exactly: NV where the exact value is an invalid one, then rounding. -/
def BinFmt.out (f : BinFmt) (rm : Nat) (v : FV) : Nat × FFlags :=
  let (b, g) := f.enc rm v
  (b, { g with nv := v.isSnan })

/-- Sum, difference, product. -/
def BinFmt.add (f : BinFmt) (rm a b : Nat) : Nat × FFlags := f.out rm ((f.val a).add rm (f.val b))
def BinFmt.sub (f : BinFmt) (rm a b : Nat) : Nat × FFlags := f.out rm ((f.val a).add rm (f.val b).neg)
def BinFmt.mul (f : BinFmt) (rm a b : Nat) : Nat × FFlags := f.out rm ((f.val a).mul (f.val b))

/-- a * b + c with one rounding; zero times infinity is invalid whatever c is. -/
def BinFmt.fma (f : BinFmt) (rm : Nat) (a b c : FV) : Nat × FFlags :=
  f.out rm ((a.mul b).add rm c)

/-- Quotient. -/
def BinFmt.div (f : BinFmt) (rm a b : Nat) : Nat × FFlags :=
  match f.val a, f.val b with
  | .nan s, .nan t => (f.nan, { nv := s || t })
  | .nan s, _ => (f.nan, { nv := s })
  | _, .nan s => (f.nan, { nv := s })
  | .inf _, .inf _ => (f.nan, { nv := true })
  | .inf n, .num k _ _ => (f.sgn (n != k) + f.inf, {})
  | .num n _ _, .inf k => (f.sgn (n != k), {})
  | .num n m e, .num k l d =>
    if l = 0 then (if m = 0 then (f.nan, { nv := true }) else (f.sgn (n != k) + f.inf, { dz := true }))
    else if m = 0 then (f.sgn (n != k), {})
    else
      let sh := f.m + 4 + bitLen l
      f.round rm (n != k) (m <<< sh / l) (e - d - sh) (m <<< sh % l != 0)

/-- Integer square root, bit by bit from bit n - 1 down. -/
def isqrtFrom (v : Nat) : Nat → Nat → Nat
  | 0, r => r
  | n + 1, r => if (r + 2 ^ n) * (r + 2 ^ n) ≤ v then isqrtFrom v n (r + 2 ^ n) else isqrtFrom v n r

/-- Integer square root. -/
def isqrt (v : Nat) : Nat := isqrtFrom v ((bitLen v + 1) / 2) 0

/-- Square root. -/
def BinFmt.sqrt (f : BinFmt) (rm a : Nat) : Nat × FFlags :=
  match f.val a with
  | .nan s => (f.nan, { nv := s })
  | .inf n => if n then (f.nan, { nv := true }) else (f.inf, {})
  | .num n m e =>
    if m = 0 then (f.sgn n, {})
    else if n then (f.nan, { nv := true })
    else
      let sh := 2 * (f.m + 4)
      let (m, e) := if e % 2 = 0 then (m <<< sh, e - sh) else (m <<< (sh + 1), e - (sh + 1))
      let r := isqrt m
      f.round rm false r (e / 2) (r * r != m)

/-- The order of two values that are no NaN: a < b. -/
def FV.lt (a b : FV) : Bool :=
  match a, b with
  | .nan _, _ => false
  | _, .nan _ => false
  | .inf n, .inf k => n && !k
  | .inf n, _ => n
  | _, .inf k => !k
  | .num n m e, .num k l d => decide (signedAt n m e (min e d) < signedAt k l d (min e d))

/-- Equality of two values that are no NaN; zeros are equal. -/
def FV.eq (a b : FV) : Bool := !a.isNan && !b.isNan && !a.lt b && !b.lt a

/-- Comparisons: feq is quiet, flt and fle raise NV on any NaN. -/
def BinFmt.cmp (f : BinFmt) (k : FpCmp) (a b : Nat) : Bool × FFlags :=
  let x := f.val a
  let y := f.val b
  match k with
  | .eq => (x.eq y, { nv := x.isSnan || y.isSnan })
  | .lt => (x.lt y, { nv := x.isNan || y.isNan })
  | .le => (x.lt y || x.eq y, { nv := x.isNan || y.isNan })

/-- minimumNumber and maximumNumber: a NaN loses, -0 lies below +0, a signalling NaN raises NV. -/
def BinFmt.minmax (f : BinFmt) (isMax : Bool) (a b : Nat) : Nat × FFlags :=
  let x := f.val a
  let y := f.val b
  let g : FFlags := { nv := x.isSnan || y.isSnan }
  if x.isNan ∧ y.isNan then (f.nan, g)
  else if x.isNan then (b, g)
  else if y.isNan then (a, g)
  else
    let less := x.lt y || (x.eq y && a.testBit (f.e + f.m) && !b.testBit (f.e + f.m))
    (if less != isMax then a else b, g)

/-- Sign injection. -/
def BinFmt.sgnj (f : BinFmt) (k : FpOp2n) (a b : Nat) : Nat :=
  let s := f.e + f.m
  let mag := a % 2 ^ s
  let sa := a.testBit s
  let sb := b.testBit s
  mag + f.sgn (match k with
    | .sgnjn => !sb
    | .sgnjx => sa != sb
    | _ => sb)

/-- Class of a value, one bit of ten. -/
def BinFmt.cls (f : BinFmt) (a : Nat) : Nat :=
  let neg := a.testBit (f.e + f.m)
  let ex := a / 2 ^ f.m % 2 ^ f.e
  let fr := a % 2 ^ f.m
  if ex = 2 ^ f.e - 1 then
    if fr = 0 then (if neg then 1 else 2 ^ 7) else (if fr.testBit (f.m - 1) then 2 ^ 9 else 2 ^ 8)
  else if ex = 0 then
    if fr = 0 then (if neg then 2 ^ 3 else 2 ^ 4) else (if neg then 2 ^ 2 else 2 ^ 5)
  else (if neg then 2 else 2 ^ 6)

/-- Conversion to an n-bit integer: rounding by the mode, saturation with NV out of range, NaN to the greatest value. -/
def FV.toIntSat (v : FV) (rm : Nat) (signed : Bool) (n : Nat) : Nat × FFlags :=
  let hi : Int := if signed then (2 ^ (n - 1) : Nat) - 1 else (2 ^ n : Nat) - 1
  let lo : Int := if signed then -((2 ^ (n - 1) : Nat) : Int) else 0
  match v with
  | .nan _ => (uint hi n, { nv := true })
  | .inf neg => (uint (if neg then lo else hi) n, { nv := true })
  | .num neg m e =>
    let (q, nx) := roundCut rm neg (cutAt m (-e)) false
    let i : Int := if neg then -(q : Int) else q
    if i > hi then (uint hi n, { nv := true })
    else if i < lo then (uint lo n, { nv := true })
    else (uint i n, { nx := nx })

/-- Conversion of an integer. -/
def BinFmt.ofInt (f : BinFmt) (rm : Nat) (i : Int) : Nat × FFlags := f.enc rm (FV.ofInt i 0)

/-- Conversion from another format. -/
def BinFmt.conv (dst src : BinFmt) (rm a : Nat) : Nat × FFlags := dst.out rm (src.val a)

/-! ### Seven-bit estimates (vfrec7.v, vfrsqrt7.v of V 1.0; PRESUMED, log entry 13) -/

/-- The reciprocal table: the nearest seven-bit fraction of twice the reciprocal of the middle of each interval. -/
def rec7Tab (i : Nat) : Nat := ((512 * 128 * 2 - 128 * 2 * (257 + 2 * i) + (257 + 2 * i))) / (2 * (257 + 2 * i))

/-- The reciprocal-square-root table, by the low exponent bit and six fraction bits. -/
def rsqrt7Tab (i : Nat) : Nat :=
  let n := if i ≥ 64 then 129 + 2 * (i - 64) else 2 * (129 + 2 * i)
  (List.range 127).countP (fun k => decide ((2 * (k + 1) + 255) ^ 2 * n ≤ 512 ^ 2 * 128))

/-- Leading zeros of the fraction of a subnormal. -/
def BinFmt.lead (f : BinFmt) (fr : Nat) : Nat := f.m - bitLen fr

/-- vfrec7.v on one element. -/
def BinFmt.rec7 (f : BinFmt) (rm a : Nat) : Nat × FFlags :=
  let neg := a.testBit (f.e + f.m)
  let ex := a / 2 ^ f.m % 2 ^ f.e
  let fr := a % 2 ^ f.m
  match f.val a with
  | .nan s => (f.nan, { nv := s })
  | .inf n => (f.sgn n, {})
  | .num n m _ =>
    if m = 0 then (f.sgn n + f.inf, { dz := true })
    else
      let z := if ex = 0 then f.lead fr else 0
      if z ≥ 2 then
        (f.sgn neg + (if rm = 1 ∨ (rm = 2 ∧ !neg) ∨ (rm = 3 ∧ neg) then f.inf - 1 else f.inf), { of_ := true, nx := true })
      else
        let x : Int := if ex = 0 then -(z : Int) else ex
        let sig := if ex = 0 then (fr <<< (z + 1)) % 2 ^ f.m else fr
        let o := rec7Tab (sig >>> (f.m - 7)) <<< (f.m - 7)
        let oe : Int := 2 * (f.bias : Int) - 1 - x
        let (oe, o) :=
          if oe = 0 then (0, o / 2 + 2 ^ (f.m - 1))
          else if oe = -1 then (0, (o / 2 + 2 ^ (f.m - 1)) / 2)
          else (oe.toNat, o)
        (f.sgn neg + oe * 2 ^ f.m + o, {})

/-- vfrsqrt7.v on one element. -/
def BinFmt.rsqrt7 (f : BinFmt) (a : Nat) : Nat × FFlags :=
  let ex := a / 2 ^ f.m % 2 ^ f.e
  let fr := a % 2 ^ f.m
  match f.val a with
  | .nan s => (f.nan, { nv := s })
  | .inf n => if n then (f.nan, { nv := true }) else (0, {})
  | .num n m _ =>
    if m = 0 then (f.sgn n + f.inf, { dz := true })
    else if n then (f.nan, { nv := true })
    else
      let z := f.lead fr
      let x : Int := if ex = 0 then -(z : Int) else ex
      let sig := if ex = 0 then (fr <<< (z + 1)) % 2 ^ f.m else fr
      let o := rsqrt7Tab ((x % 2).toNat * 64 + sig >>> (f.m - 6)) <<< (f.m - 7)
      let oe := ((3 * (f.bias : Int) - 1 - x) / 2).toNat
      (oe * 2 ^ f.m + o, {})

end Sys2Proof.Machine
end

