-- ==== Sys2Proof/Machine/Numbers.lean ====
section
/-! DEFINITION. The 8-bit formats M8D and S8, matrix sums and the reduction tree (spec/02_numbers.md R46 to R64). -/

namespace Sys2Proof.Machine

open Sys2Proof

/-- A nonzero exact magnitude m * 2^e / d rounded into a format. -/
def BinFmt.roundRat (f : BinFmt) (rm : Nat) (neg : Bool) (m : Nat) (e : Int) (d : Nat) : Nat × FFlags :=
  let sh := f.m + 4 + bitLen d
  f.round rm neg ((m <<< sh) / d) (e - sh) ((m <<< sh) % d != 0)

/-- A value counted in units of 1 / d as a bit pattern. -/
def BinFmt.encRat (f : BinFmt) (rm : Nat) (v : FV) (d : Nat) : Nat :=
  match v with
  | .num n m e => if m = 0 then f.sgn n else (f.roundRat rm n m e d).1
  | _ => (f.enc rm v).1

/-! ### M8D (R48 to R54) -/

/-- Length of the run of bits equal to bit 6 of the magnitude field (R48). -/
def m8Run (m : Nat) : Nat :=
  ((List.range 7).find? (fun i => m.testBit (6 - i) != m.testBit 6)).getD 7

/-- The magnitude of a field that is not special, as a multiple of 10^-6 / 32 (R48). -/
def m8Mag (m : Nat) : Nat :=
  let l := m8Run m
  let n := 6 - l
  let e := if m.testBit 6 then 6 + l - 1 else 6 - l     -- E + 6
  10 ^ e * (32 + 9 * (m % 2 ^ n) * 2 ^ (5 - n))

/-- Units of an M8D value: 10^-6 / 32 = 1 / (5^6 * 2^11). -/
def m8Den : Nat := 5 ^ 6

/-- An M8D code's exact value in units of 1 / 5^6; zero is one value (R48, R49). -/
def m8Val (c : Nat) : FV :=
  let m := c % 128
  if c % 256 = 0x80 then .nan false
  else if m = 0 then .num false 0 0
  else if m = 127 then .inf (c.testBit 7)
  else .num (c.testBit 7) (m8Mag m) (-11)

/-- Decoding to binary32 (R52). -/
def m8Decode (c : Nat) : Nat := binary32.encRat 0 (m8Val c) m8Den

/-- m * 2^e against k / (2 * 32 * 10^6), the half units of M8D: less, equal, or greater. -/
def cmpM8 (m : Nat) (e : Int) (k : Nat) : Ordering :=
  match e with
  | .ofNat n => compare ((m <<< n) * (64 * 10 ^ 6)) k
  | .negSucc n => compare (m * (64 * 10 ^ 6)) (k <<< (n + 1))

/-- The nearest magnitude field of a magnitude of at most 10^5, ties to the even code (R53). -/
def m8Nearest (m : Nat) (e : Int) : Nat :=
  (List.range 126).countP (fun c =>
    let mid := (if c = 0 then 0 else m8Mag c) + m8Mag (c + 1)
    match cmpM8 m e mid with
    | .gt => true
    | .eq => c % 2 == 1
    | .lt => false)

/-- Encoding to M8D, with the flags of R54 (R53). -/
def m8Encode (sat : Bool) (y : FV) : Nat × FFlags :=
  match y with
  | .nan s => (0x80, { nv := s })
  | .inf n => (b2n n * 128 + (if sat then 0x7E else 0x7F), {})
  | .num n m e =>
    if m = 0 then (0, {})
    else if cmpM8 m e (64 * 10 ^ 11) = .gt then
      let c := if sat then 0x7E else if cmpM8 m e (96 * 10 ^ 11) = .lt then 0x7E else 0x7F
      (b2n n * 128 + c, { of_ := true, nx := true })
    else
      let c := m8Nearest m e
      let nx := cmpM8 m e (2 * (if c = 0 then 0 else m8Mag c)) != .eq
      (if c = 0 then 0 else b2n n * 128 + c, { nx := nx, uf := nx && cmpM8 m e 64 == .lt })

/-! ### S8 (R55 to R58) -/

/-- Exponent of the scale of a code that is neither 0 nor 255 (R55). -/
def s8Exp (c : Nat) : Int := (c : Int) - 127

/-- Rounding to S8 (R56). -/
def s8Encode (y : FV) : Nat × FFlags :=
  match y with
  | .nan _ => (255, { nv := true })
  | .inf n => if n then (255, { nv := true }) else (254, {})
  | .num n m e =>
    if m = 0 then (0, {})
    else if n then (255, { nv := true })
    else ((max 1 (min 254 (bitLen m - 1 + e + 127))).toNat, {})

/-- A value times 2^k. -/
def FV.scale (v : FV) (k : Int) : FV :=
  match v with
  | .num n m e => .num n m (e + k)
  | v => v

/-- Block size of vtype.vbs; 0 means no block scaling (R57). -/
def vbsSize (vbs : Nat) : Nat := if vbs = 0 then 0 else 4 * 2 ^ vbs

/-! ### Matrix sums (R59 to R61) -/

/-- An integer operand's value. -/
def intVal (c n : Nat) : FV := FV.ofInt (sint c n) 0

/-- A product of operands that have one zero: no product of theirs is -0 (log entry 15). -/
def FV.plain (v : FV) : FV :=
  match v with
  | .num n m e => if m = 0 then .num false 0 e else .num n m e
  | v => v

/-- The exact sum of the products of a block, in order; zero only where every product is zero with that sign (R59, R61). -/
def exactSum : List FV → FV
  | [] => FV.num false 0 0
  | p :: ps => ps.foldl (fun (s q : FV) => s.add 0 q) p

/-- One block of the update of an element of C: products in units of 1 / d, and the scale codes of the two operands (R59,
R61). A code of 127 is the scale 1. -/
def blockUpdate (f : BinFmt) (d : Nat) (c : Nat) (prods : List FV) (sa sb : Nat) : Nat :=
  let cv := f.val c
  if sa = 0 ∨ sb = 0 then
    match cv with
    | .nan _ => f.nan
    | .num _ m _ => if m = 0 then 0 else c
    | .inf _ => c
  else if sa = 255 ∨ sb = 255 then f.nan
  else
    let t := (exactSum prods).scale (s8Exp sa + s8Exp sb)
    let cu : FV := match cv with
      | .num n m e => .num n (m * d) e
      | v => v
    f.encRat 0 (cu.add 0 t) d

/-- All blocks of an element of C, ascending; each block with its scale codes. -/
def blocksUpdate (f : BinFmt) (d : Nat) (c : Nat) (bs : List (List FV × Nat × Nat)) : Nat :=
  bs.foldl (fun c b => blockUpdate f d c b.1 b.2.1 b.2.2) c

/-- The int32 element of C: the exact sum wraps (R60). -/
def intUpdate (c : Nat) (ps : List (Int × Int)) : Nat :=
  uint (ps.foldl (fun s p => s + p.1 * p.2) (sint c 32)) 32

/-! ### Reductions (R62 to R64) -/

/-- One rounded addition of values. -/
def BinFmt.addV (f : BinFmt) (rm : Nat) (a b : FV) : FV × FFlags :=
  let (r, g) := f.out rm (a.add rm b)
  (f.val r, g)

/-- The tree over 2^k leaves, some of them none (R63, R64). -/
def treeSum (f : BinFmt) (rm : Nat) : Nat → List (Option FV) → Option FV × FFlags
  | 0, l => (l.headD none, {})
  | k + 1, l =>
    let (a, g) := treeSum f rm k (l.take (2 ^ k))
    let (b, h) := treeSum f rm k (l.drop (2 ^ k))
    match a, b with
    | none, b => (b, g.join h)
    | a, none => (a, g.join h)
    | some a, some b =>
      let (r, i) := f.addV rm a b
      (some r, (g.join h).join i)

/-- The result of a floating-point reduction over no element: the scalar itself, but the canonical NaN where it is NaN (R44). The
pseudocode of R63 and spec/08_vector.md R235 copies the element, the standard's ordered sum copies it too, and the standard lets
an unordered sum make it canonical, with NV where it is signalling; the model raises no flag (DEDUCED, log entry 37). -/
def BinFmt.alone (f : BinFmt) (init : Nat) : Nat := if (f.val init).isNan then f.nan else init

/-- A tree reduction onto a scalar: the element's bits (R63). -/
def treeReduce (f : BinFmt) (rm : Nat) (init : Nat) (l : List (Option FV)) : Nat × FFlags :=
  let (t, g) := treeSum f rm (bitLen (l.length - 1)) l
  match t with
  | none => (f.alone init, g)
  | some t =>
    let (r, h) := f.out rm ((f.val init).add rm t)
    (r, g.join h)

/-- The ordered sum (R62). -/
def orderedSum (f : BinFmt) (rm : Nat) (init : Nat) (l : List Nat) : Nat × FFlags :=
  l.foldl (fun r x =>
    let (s, g) := f.add rm r.1 x
    (s, r.2.join g)) (init, {})

end Sys2Proof.Machine
end

