-- ==== Sys2Proof/Machine/Csr.lean ====
section
/-! DEFINITION. Control and status registers: which exist, who may use them, what a read gives and what a write does
(spec/03_encoding.md R65 to R68, R73, R80; spec/07_context.md R179 to R181, R185, R190, R193, R207; the chapters that R80
names for the device's own; standard registers by the standard, PRESUMED, log entry 13). -/

namespace Sys2Proof.Machine

open Sys2Proof

/-! ### The sequencer as CSR accesses see it -/

/-- A captured loop is live: the sequencer holds body entries (spec/08_vector.md R243, R245). -/
def Ctx.loopLive (c : Ctx) : Bool := c.seq.any (·.l)

/-- An access to vector state waits until no queued entry remains; the entries of a frozen sequencer count as later ones
(spec/07_context.md R190, R193, R524). -/
def waitSeq : M Unit := do
  let c ← ctx
  waitUnless (c.seq.isEmpty || c.frozen.isSome)

/-- An access to vlpcnt or vlpidx waits while a loop is live (spec/08_vector.md R244). -/
def waitLoop : M Unit := do
  let c ← ctx
  waitUnless (!c.loopLive || c.frozen.isSome)

/-! ### skennel (spec/07_context.md R179, R199) -/

/-- Code of a Kennel state. -/
def KenState.code : KenState → Nat
  | .empty => 0 | .parked => 1 | .ready => 2 | .loading => 3 | .saving => 4 | .stalled => 5 | .failed => 7

/-- Kennel entry n of a core. -/
def Core.ken (c : Core) (n : Nat) : Ken := c.kennel.get {} n

/-- A core with a Kennel entry replaced. -/
def Core.setKen (c : Core) (n : Nat) (k : Ken) : Core := { c with kennel := c.kennel.put n k }

/-- skennel as it reads: the fields of the slot, the state of entry ENT, and the number of ready entries. -/
def skennelView (t : Slot) (c : Core) : Word :=
  let w := t.skennel
  let nrdy := (List.range 32).countP (fun i => (c.ken i).st == .ready)
  wput (wput w 7 5 (c.ken (wfld w 4 0)).st.code) 21 16 nrdy

/-- What a written STATE does to an entry. -/
def Ken.write (k : Ken) (state tick : Nat) : Ken :=
  match state, k.st with
  | 1, .ready => { k with st := .parked }
  | 2, .parked => { k with st := .ready, since := tick }
  | 0, .failed => {}
  | _, _ => k

/-- Bits of skennel that the slot holds: SRC, YIE, RDY, SLOT, ENT. -/
def skennelMask : Word := 0x3F1F#64

/-- A write of skennel: the fields, the action of STATE on entry ENT, and sip bit 31 cleared. -/
def State.writeSkennel (s : State) (h : Hart) (v : Word) : State :=
  let s := s.tock
  let s := s.modSlot h (fun t => { t with skennel := v &&& skennelMask, mip := wputb t.mip 31 false })
  s.modCore h.gcore (fun c => c.setKen (wfld v 4 0) ((c.ken (wfld v 4 0)).write (wfld v 7 5) s.tick))

/-! ### srank and sscent -/

/-- Physical core of a global core rank (spec/11_group.md R319). -/
def State.physOf (s : State) (g : Nat) : Nat :=
  ((s.cluster (g / 64)).ranks.get { phys := bootPhys (s.failed.get 0 (g / 64)) (g % 64) } (g % 64)).phys

/-- srank as it reads (spec/11_group.md R316). -/
def State.srankView (s : State) (g : Nat) : Word :=
  let c := s.core g
  w64 (s.physOf g + c.rsize * 2 ^ 8 + c.rvault * 2 ^ 16 + c.roff * 2 ^ 22 + c.ringCnt * 2 ^ 32 + c.queue.length * 2 ^ 49)

/-- srank written (R316). -/
def Core.writeSrank (c : Core) (v : Word) : Core :=
  if c.ringCnt ≠ 0 then c
  else { c with rsize := min 8 (wfld v 11 8), rvault := wfld v 21 16, roff := wfld v 31 22 }

/-- sscent written (spec/05_ordering.md R137, R138). -/
def Core.writeSscent (c : Core) (v : Word) : Core :=
  let size := min 12 (wfld v 11 8)
  let base := down (wfld v 51 12 * 4096) (2 ^ (size + 12))
  let rise := wbit v 0 && !wbit c.sscent 0
  let err := wbit c.sscent 4 && !wbit v 4
  let full := wbit c.sscent 1 && !rise
  let w := w64 (base + size * 256 + b2n (wbit v 5) * 32 + b2n err * 16 + b2n (wbit v 3) * 8 + b2n (wbit v 2) * 4
    + b2n full * 2 + b2n (wbit v 0))
  { c with sscent := w
           scentSeq := if rise then 0 else c.scentSeq
           scentN := if rise then 0 else c.scentN }

/-! ### Interrupt and delegation masks (spec/07_context.md R207) -/

/-- Interrupts that exist: software, timer and external at S and M, and 31. -/
def mieMask : Word := 0x80000AAA#64
/-- Interrupts that can be delegated. -/
def midelegMask : Word := 0x80000222#64
/-- Bits of mip that M-mode writes. -/
def mipMask : Word := 0x222#64
/-- Exceptions that can be delegated: the standard ones and 19, 24 to 30, 48. -/
def medelegMask : Word := 0x100007F08B3FF#64

/-- v under a mask over old. -/
def under (mask old v : Word) : Word := (old &&& ~~~mask) ||| (v &&& mask)

/-! ### PMP registers -/

/-- pmpcfg of eight entries as they read. -/
def Slot.pmpcfgView (t : Slot) (i : Nat) : Word :=
  w64 (leNat ((List.range 8).map (fun j => t.pmpcfg.get 0#8 (8 * i + j))))

/-- One pmpcfg byte written: a locked entry keeps its value; a reserved combination, or NA4, which does not exist at this
granularity, is not taken. -/
def Slot.writePmpcfg1 (t : Slot) (i : Nat) (v : Byte) : Slot :=
  let n := v.toNat
  if (t.pmpcfg.get 0#8 i).getLsbD 7 ∨ (n.testBit 1 ∧ !n.testBit 0) ∨ fld n 4 3 = 2 then t
  else { t with pmpcfg := t.pmpcfg.put i (v &&& 0x9F#8) }

/-- pmpcfg of eight entries written. -/
def Slot.writePmpcfg (t : Slot) (i : Nat) (v : Word) : Slot :=
  (List.range 8).foldl (fun t j => t.writePmpcfg1 (8 * i + j) (BitVec.ofNat 8 (wfld v (8 * j + 7) (8 * j)))) t

/-- pmpaddr as it reads at 4 KiB granularity. -/
def Slot.pmpaddrView (t : Slot) (i : Nat) : Word :=
  let a := t.pmpaddr.get 0#64 i
  if (t.pmpcfg.get 0#8 i).getLsbD 4 then a ||| 0x1FF#64 else a &&& ~~~0x3FF#64

/-- pmpaddr written, unless the entry or a TOR entry above it is locked. -/
def Slot.writePmpaddr (t : Slot) (i : Nat) (v : Word) : Slot :=
  let up := t.pmpcfg.get 0#8 (i + 1)
  if (t.pmpcfg.get 0#8 i).getLsbD 7 ∨ (up.getLsbD 7 ∧ fld up.toNat 4 3 = 1) then t
  else { t with pmpaddr := t.pmpaddr.put i (v &&& 0x3FFFFFFFFFFFFF#64) }

/-! ### Existence and privilege -/

/-- Unit that a CSR belongs to: it is Off-able by FS or VS (R73). -/
inductive CsrUnit where
  | none | fp | vec
deriving DecidableEq, Repr

/-- Whether a CSR exists, and its unit (R80; the standard set of R65). That pmpcfg4 to pmpcfg14 and pmpaddr16 to pmpaddr63 exist
and read 0 beside the 16 PMP entries of R67, that mconfigptr exists and reads 0, and that mseccfg does not exist, is the model's
choice (PRESUMED, the standard's; log entry 43). -/
def csrUnit (n : Nat) : Option CsrUnit :=
  if n = 0x001 ∨ n = 0x002 ∨ n = 0x003 then some .fp
  else if n = 0x008 ∨ n = 0x009 ∨ n = 0x00A ∨ n = 0x00F ∨ n = 0xC20 ∨ n = 0xC21 ∨ n = 0xC22 then some .vec
  else if n = 0x808 ∨ n = 0x809 ∨ n = 0x80A ∨ n = 0x80B then some .vec
  else if n = 0xC00 ∨ (0xC02 ≤ n ∧ n ≤ 0xC1F) then some .none
  else if n ∈ [0x100, 0x104, 0x105, 0x106, 0x10A, 0x140, 0x141, 0x142, 0x143, 0x144, 0x180] then some .none
  else if 0x300 ≤ n ∧ n ≤ 0x306 ∨ n = 0x30A ∨ n = 0x320 ∨ (0x323 ≤ n ∧ n ≤ 0x33F) then some .none
  else if 0x340 ≤ n ∧ n ≤ 0x344 then some .none
  else if 0x3A0 ≤ n ∧ n ≤ 0x3AF ∧ n % 2 = 0 then some .none
  else if 0x3B0 ≤ n ∧ n ≤ 0x3EF then some .none
  else if n = 0xB00 ∨ (0xB02 ≤ n ∧ n ≤ 0xB1F) then some .none
  else if 0xF11 ≤ n ∧ n ≤ 0xF15 then some .none
  else if 0x800 ≤ n ∧ n ≤ 0x804 ∨ (0x810 ≤ n ∧ n ≤ 0x817) ∨ n = 0x820 ∨ n = 0x821 then some .none
  else if 0xCC0 ≤ n ∧ n ≤ 0xCC3 ∨ (0x5C0 ≤ n ∧ n ≤ 0x5C5) then some .none
  else none

/-- Number of a counter CSR of the unprivileged range. -/
def counterNo (n : Nat) : Option Nat := if 0xC00 ≤ n ∧ n ≤ 0xC1F then some (n - 0xC00) else none

/-- An identification CSR of the read-only range: its writes are ignored (R66). -/
def isIdCsr (n : Nat) : Bool := decide (0xF11 ≤ n) && decide (n ≤ 0xF14)

/-- Illegal instruction unless the CSR access is allowed: existence, mode, read-only, FS and VS, TVM, counter enables, and
the U-mode writes that R378 forbids. Of the read-only CSRs, R66 has the writes of the identification CSRs ignored, against the
general word of R80 (DEDUCED: the rule that names them decides; log entry 43). -/
def csrCheck (n : Nat) (write : Bool) : M Unit := do
  let t ← slot
  let c ← ctx
  match csrUnit n with
  | none => illegal
  | some u =>
    require (decide (fld n 9 8 ≤ c.priv.code))
    require (!(write && fld n 11 10 == 3 && !isIdCsr n))
    require (u ≠ .fp || c.fs ≠ 0)
    require (u ≠ .vec || c.vs ≠ 0)
    require (!(n == 0x180 && c.priv == .s && wbit t.mstatus stTVM))
    require (!(write && (n == 0x820 || n == 0x821) && c.priv == .u))
    match counterNo n with
    | none => pure ()
    | some k =>
      require (c.priv == .m || wbit t.mcounteren k)
      require (c.priv != .u || wbit t.scounteren k)

/-! ### Reads -/

/-- A counter of the core or the context (R67, R68). -/
def counterView (c : Ctx) (k : Core) (n : Nat) : Word :=
  if n = 0 then k.cycle
  else if n = 2 then c.instret
  else if 3 ≤ n ∧ n ≤ 10 then k.hpm.get 0#64 n
  else 0#64

/-- A CSR's value. -/
def csrValue (s : State) (h : Hart) (n : Nat) : Word :=
  let t := s.slot h
  let c := s.ctx h
  let k := s.core h.gcore
  if 0xC00 ≤ n ∧ n ≤ 0xC1F then counterView c k (n - 0xC00)
  else if 0xB00 ≤ n ∧ n ≤ 0xB1F then counterView c k (n - 0xB00)
  else if 0x323 ≤ n ∧ n ≤ 0x33F then k.hpmev.get 0#64 (n - 0x320)
  else if 0x3A0 ≤ n ∧ n ≤ 0x3AF then t.pmpcfgView (n - 0x3A0)
  else if 0x3B0 ≤ n ∧ n ≤ 0x3EF then (if n - 0x3B0 < 16 then t.pmpaddrView (n - 0x3B0) else 0#64)
  else if 0x810 ≤ n ∧ n ≤ 0x817 then (c.chan (n - 0x810)).wm
  else
    match n with
    | 0x001 => c.fcsr &&& 0x1F#64
    | 0x002 => w64 c.frm
    | 0x003 => c.fcsr
    | 0x008 => c.vstart
    | 0x009 => c.vxsat
    | 0x00A => c.vxrm
    | 0x00F => c.vxrm <<< 1 ||| c.vxsat
    | 0xC20 => w64 c.vl
    | 0xC21 => c.vtype
    | 0xC22 => 64#64
    | 0x808 => c.vmsp
    | 0x809 => c.vmsbase
    | 0x80A => c.vlpcnt
    | 0x80B => c.vlpidx
    | 0x800 => c.mxfmt
    | 0x801 => c.mxld
    | 0x802 => c.mxsca
    | 0x803 => c.mxscb
    | 0x804 => c.mxcast
    | 0x820 => c.uweight
    | 0x821 => c.ulaunch
    | 0x100 => c.sstatusView
    | 0x104 => t.mie &&& t.mideleg
    | 0x105 => t.stvec
    | 0x106 => t.scounteren
    | 0x10A => t.senvcfg
    | 0x140 => c.sscratch
    | 0x141 => c.sepc
    | 0x142 => c.scause
    | 0x143 => c.stval
    | 0x144 => t.mip &&& t.mideleg
    | 0x180 => c.satp
    | 0x5C0 => skennelView t k
    | 0x5C1 => c.ssavea
    | 0x5C2 => s.srankView h.gcore
    | 0x5C3 => k.sscent
    | 0x5C4 => c.scos
    | 0x5C5 => c.svault
    | 0x300 => mstatusView t c
    | 0x301 => 0x8000000000B4112D#64
    | 0x302 => t.medeleg
    | 0x303 => t.mideleg
    | 0x304 => t.mie
    | 0x305 => t.mtvec
    | 0x306 => t.mcounteren
    | 0x30A => t.menvcfg
    | 0x320 => k.inhibit
    | 0x340 => t.mscratch
    | 0x341 => t.mepc
    | 0x342 => t.mcause
    | 0x343 => t.mtval
    | 0x344 => t.mip
    | 0xF12 => 0x8000000000002560#64
    | 0xF13 => 0x01000001#64
    | 0xF14 => w64 h
    | 0xCC0 => w64 h.core
    | 0xCC1 => w64 h.slot
    | 0xCC2 => w64 h.cl
    | 0xCC3 => w64 s.devid
    | _ => 0#64

/-- The wait that an access to a CSR makes for queued vector work (spec/07_context.md R190, R193). -/
def csrWait (n : Nat) : M Unit :=
  if n = 0x80A ∨ n = 0x80B then waitLoop
  else match csrUnit n with
    | some .fp => waitSeq
    | some .vec => if n = 0xC22 then pure () else waitSeq
    | _ => if n = 0x100 ∨ n = 0x300 then waitSeq else pure ()

/-! ### Writes -/

/-- satp written: another MODE leaves it unchanged (R67). -/
def Ctx.writeSatp (c : Ctx) (v : Word) : Ctx :=
  if wfld v 63 60 = 0 ∨ wfld v 63 60 = 9 then { c with satp := v } else c

/-- A write to a CSR of the floating-point or vector unit, with the unit Dirty (R73). -/
def Ctx.writeUnit (c : Ctx) (n : Nat) (v : Word) : Ctx :=
  match n with
  | 0x001 => { c with fcsr := (c.fcsr &&& 0xE0#64) ||| (v &&& 0x1F#64) }.dirtyF
  | 0x002 => { c with fcsr := (c.fcsr &&& 0x1F#64) ||| ((v &&& 7#64) <<< 5) }.dirtyF
  | 0x003 => { c with fcsr := v &&& 0xFF#64 }.dirtyF
  | 0x008 => { c with vstart := v &&& 0x1FF#64, vfrom := none }.dirtyV
  | 0x009 => { c with vxsat := v &&& 1#64 }.dirtyV
  | 0x00A => { c with vxrm := v &&& 3#64 }.dirtyV
  | 0x00F => { c with vxsat := v &&& 1#64, vxrm := (v >>> 1) &&& 3#64 }.dirtyV
  | 0x808 => { c with vmsp := v &&& 0xFFFF#64 }.dirtyV
  | 0x809 => { c with vmsbase := v &&& ~~~0x3F#64 }.dirtyV
  | 0x80A => if c.loopLive then c else { c with vlpcnt := v &&& 0xFFFFFFFF#64 }.dirtyV
  | 0x80B => if c.loopLive then c else { c with vlpidx := v &&& 0xFFFFFFFF#64 }.dirtyV
  | _ => c

/-- A write to a register of the context. -/
def Ctx.writeCsr (c : Ctx) (n : Nat) (v : Word) : Ctx :=
  match n with
  | 0x800 => { c with mxfmt := v &&& 0x1FBF#64 }
  | 0x801 => { c with mxld := v &&& 0xFFFFFFFFFFFF#64 }
  | 0x802 => { c with mxsca := v }
  | 0x803 => { c with mxscb := v }
  | 0x804 => { c with mxcast := v &&& 0xFFFFFF#64 }
  | 0x820 => { c with uweight := v }
  | 0x821 => { c with ulaunch := v &&& 0xFFFF#64 }
  | 0x100 => c.writeSstatus v
  | 0x140 => { c with sscratch := v }
  | 0x141 => { c with sepc := wputb v 0 false }
  | 0x142 => { c with scause := v }
  | 0x143 => { c with stval := v }
  | 0x180 => c.writeSatp v
  | 0x5C1 => { c with ssavea := v &&& ~~~0x3F#64 }
  | 0x5C4 => { c with scos := v &&& 0x1F#64 }
  | 0x5C5 => { c with svault := v &&& 0xFFBF#64 }
  | _ => c.writeUnit n v

/-- A write to a register of the slot. That bit 1 (TM) of mcounteren and scounteren is read-only 0, there being no time CSR, and
that bits 31:11 are writable, is the model's choice (DESIGN CHOICE, log entry 43). -/
def Slot.writeCsr (t : Slot) (n : Nat) (v : Word) : Slot :=
  if 0x3A0 ≤ n ∧ n ≤ 0x3AF then (if n = 0x3A0 ∨ n = 0x3A2 then t.writePmpcfg (n - 0x3A0) v else t)
  else if 0x3B0 ≤ n ∧ n ≤ 0x3EF then (if n - 0x3B0 < 16 then t.writePmpaddr (n - 0x3B0) v else t)
  else
    match n with
    | 0x104 => { t with mie := under (t.mideleg &&& mieMask) t.mie v }
    | 0x105 => { t with stvec := wputb v 1 false }
    | 0x106 => { t with scounteren := v &&& 0xFFFFFFFD#64 }
    | 0x10A => { t with senvcfg := v &&& 1#64 }
    | 0x144 => { t with mip := under (t.mideleg &&& 2#64) t.mip v }
    | 0x300 => t.writeMstatus v
    | 0x302 => { t with medeleg := v &&& medelegMask }
    | 0x303 => { t with mideleg := v &&& midelegMask }
    | 0x304 => { t with mie := v &&& mieMask }
    | 0x305 => { t with mtvec := wputb v 1 false }
    | 0x306 => { t with mcounteren := v &&& 0xFFFFFFFD#64 }
    | 0x30A => { t with menvcfg := v &&& 1#64 }
    | 0x340 => { t with mscratch := v }
    | 0x341 => { t with mepc := wputb v 0 false }
    | 0x342 => { t with mcause := v }
    | 0x343 => { t with mtval := v }
    | 0x344 => { t with mip := under mipMask t.mip v }
    | _ => t

/-- A write to a register of the core; a write of minstret counts instead of the retirement of its own instruction. -/
def Core.writeCsr (c : Core) (n : Nat) (v : Word) : Core :=
  if 0xB03 ≤ n ∧ n ≤ 0xB0A then { c with hpm := c.hpm.put (n - 0xB00) v }
  else if 0x323 ≤ n ∧ n ≤ 0x32A then { c with hpmev := c.hpmev.put (n - 0x320) (v &&& 0xFF#64) }
  else
    match n with
    | 0xB00 => { c with cycle := v }
    | 0x320 => { c with inhibit := v &&& 0x7FD#64 }
    | 0x5C2 => c.writeSrank v
    | 0x5C3 => c.writeSscent v
    | _ => c

/-- A channel watermark written: only while the channel is Closed (spec/10_transfer.md R288). -/
def Ctx.writeXfwm (c : Ctx) (i : Nat) (v : Word) : Ctx :=
  if (c.chan i).st = .closed then { c with chans := c.chans.put i { c.chan i with wm := v } } else c

/-- A CSR write by a hart. -/
def State.writeCsr (s : State) (h : Hart) (n : Nat) (v : Word) : State :=
  if n = 0x5C0 then s.writeSkennel h v
  else if 0x810 ≤ n ∧ n ≤ 0x817 then s.modCtx h (·.writeXfwm (n - 0x810) v)
  else if n = 0xB02 then
    let stop := wbit (s.core h.gcore).inhibit 2
    s.modCtx h (fun c => { c with instret := if stop then v else v - 1#64 })
  else
    let s := s.modCore h.gcore (·.writeCsr n v)
    let s := s.modSlot h (·.writeCsr n v)
    s.modCtx h (fun c => if n = 0x300 then c.writeSstatus v else c.writeCsr n v)

/-- The new value of a CSR instruction. -/
def csrNew (op : CsrOp) (old src : Word) : Word :=
  match op with
  | .rw => src
  | .rs => old ||| src
  | .rc => old &&& ~~~src

/-- The source operand of a CSR instruction. -/
def csrSrc (immForm : Bool) (src : Reg) : M Word :=
  if immForm then return src.setWidth 64 else getX src

/-- A CSR read: STANDARD_SCALAR_INSTRUCTION's CSR row. -/
def csrReadInstr (rd : Reg) (n : Nat) : M Unit := do
  csrCheck n false
  csrWait n
  let s ← get
  setX rd (csrValue s s.cur n)

/-- What mip contributes to a read-modify-write of sip or mip is the register itself; the CSR instruction's read and
write. -/
def csrWriteInstr (op : CsrOp) (immForm : Bool) (rd src : Reg) (n : Nat) : M Unit := do
  csrCheck n true
  csrWait n
  let s ← get
  let old := csrValue s s.cur n
  let v ← csrSrc immForm src
  upd (fun s => s.writeCsr s.cur n (csrNew op old v))
  setX rd old

end Sys2Proof.Machine
end

