-- ==== Sys2Proof/Machine/Fp.lean ====
section
/-! DEFINITION. The scalar floating-point instructions of F, D and Zfh (spec/02_numbers.md R43 to R45;
spec/03_encoding.md R65, R67, R73; meanings standard, PRESUMED, log entry 13). -/

namespace Sys2Proof.Machine

open Sys2Proof

/-- The value in f[r] of a format. -/
def getFv (fmt : FpFmt) (r : Reg) : M Nat := return unbox fmt (← getF r)

/-- A result and its flags. -/
def putFv (fmt : FpFmt) (rd : Reg) (v : Nat × FFlags) : M Unit := do
  setF rd (boxF fmt v.1)
  accrue v.2

/-- Two-operand arithmetic. -/
def fpOp2 (k : FpOp2) (fmt : FpFmt) (rm : BitVec 3) (rd rs1 rs2 : Reg) : M Unit := do
  needF
  let r ← roundMode rm
  let a ← getFv fmt rs1
  let b ← getFv fmt rs2
  let f := binOf fmt
  putFv fmt rd (match k with
    | .add => f.add r a b
    | .sub => f.sub r a b
    | .mul => f.mul r a b
    | .div => f.div r a b)

/-- Sign injection, minimum and maximum. -/
def fpOp2n (k : FpOp2n) (fmt : FpFmt) (rd rs1 rs2 : Reg) : M Unit := do
  needF
  let a ← getFv fmt rs1
  let b ← getFv fmt rs2
  let f := binOf fmt
  putFv fmt rd (match k with
    | .min => f.minmax false a b
    | .max => f.minmax true a b
    | _ => (f.sgnj k a b, {}))

/-- Comparisons. -/
def fpCmp (k : FpCmp) (fmt : FpFmt) (rd rs1 rs2 : Reg) : M Unit := do
  needF
  let a ← getFv fmt rs1
  let b ← getFv fmt rs2
  let (r, g) := (binOf fmt).cmp k a b
  setX rd (b2w r)
  accrue g

/-- Square root. -/
def fpSqrt (fmt : FpFmt) (rm : BitVec 3) (rd rs1 : Reg) : M Unit := do
  needF
  let r ← roundMode rm
  let a ← getFv fmt rs1
  putFv fmt rd ((binOf fmt).sqrt r a)

/-- Fused multiply-adds. -/
def fpFma (k : FmaOp) (fmt : FpFmt) (rm : BitVec 3) (rd rs1 rs2 rs3 : Reg) : M Unit := do
  needF
  let r ← roundMode rm
  let f := binOf fmt
  let a := f.val (← getFv fmt rs1)
  let b := f.val (← getFv fmt rs2)
  let c := f.val (← getFv fmt rs3)
  putFv fmt rd (match k with
    | .madd => f.fma r a b c
    | .msub => f.fma r a b c.neg
    | .nmsub => f.fma r a.neg b c
    | .nmadd => f.fma r a.neg b c.neg)

/-- Classification. -/
def fpClass (fmt : FpFmt) (rd rs1 : Reg) : M Unit := do
  needF
  let a ← getFv fmt rs1
  setX rd (w64 ((binOf fmt).cls a))

/-- fmv.x: the register's low bits, sign-extended, with no look at the box. -/
def fpMvXF (fmt : FpFmt) (rd rs1 : Reg) : M Unit := do
  needF
  let v ← getF rs1
  setX rd (sextW v.toNat (fmtWidth fmt))

/-- fmv.f: the low bits of x, boxed. -/
def fpMvFX (fmt : FpFmt) (rd rs1 : Reg) : M Unit := do
  needF
  let v ← getX rs1
  setF rd (boxF fmt v.toNat)

/-- Width and sign of an integer format. -/
def intFmt : IntFmt → Nat × Bool
  | .w => (32, true) | .wu => (32, false) | .l => (64, true) | .lu => (64, false)

/-- Float to integer; a 32-bit result is sign-extended. -/
def fpCvtIF (t : IntFmt) (fmt : FpFmt) (rm : BitVec 3) (rd rs1 : Reg) : M Unit := do
  needF
  let r ← roundMode rm
  let a ← getFv fmt rs1
  let (n, sg) := intFmt t
  let (v, g) := ((binOf fmt).val a).toIntSat r sg n
  setX rd (sextW v n)
  accrue g

/-- Integer to float. -/
def fpCvtFI (fmt : FpFmt) (t : IntFmt) (rm : BitVec 3) (rd rs1 : Reg) : M Unit := do
  needF
  let r ← roundMode rm
  let v ← getX rs1
  let (n, sg) := intFmt t
  let i : Int := if sg then sint v.toNat n else (v.toNat % 2 ^ n : Nat)
  putFv fmt rd ((binOf fmt).ofInt r i)

/-- Float to float. -/
def fpCvtFF (dst src : FpFmt) (rm : BitVec 3) (rd rs1 : Reg) : M Unit := do
  needF
  let r ← roundMode rm
  let a ← getFv src rs1
  putFv dst rd ((binOf dst).conv (binOf src) r a)

end Sys2Proof.Machine
end

