-- ==== Sys2Proof/Machine/Scalar.lean ====
section
/-! DEFINITION. The standard scalar instructions: integer, control flow, loads, stores, atomics, fences, sfence.vma, xRET,
waits on a reservation, traps and interrupts (spec/03_encoding.md R65 to R68; spec/05_ordering.md R121 to R136;
spec/06_page.md R158, R161; spec/07_context.md R190 to R194, R207; standard meanings PRESUMED, log entry 13). -/

namespace Sys2Proof.Machine

open Sys2Proof

/-! ### Queued vector work (spec/07_context.md R190) -/

/-- The word is a standard vector load; a store. -/
def isVLoad (w : IWord) : Bool := fOp w == 0x07#7
def isVStore (w : IWord) : Bool := fOp w == 0x27#7

/-- Queued words that load; that store: the standard ones, and the vector memory class of spec/08_vector.md R225. -/
def queuesLoad (w : IWord) : Bool :=
  isVLoad w || (fOp w == 0x2b#7 && ((fF3 w == 3#3 && decide ((w.extractLsb' 26 6).toNat ≤ 1)) || (fF3 w == 2#3 && w.extractLsb' 26 6 == 2#6)))
def queuesStore (w : IWord) : Bool := isVStore w || (fOp w == 0x2b#7 && fF3 w == 2#3 && w.extractLsb' 26 6 == 0#6)

/-- The word is a fault-only-first load, which writes vl. -/
def isFof (w : IWord) : Bool :=
  isVLoad w && (w.extractLsb' 26 2 == 0#2) && fRs2 w == 0x10#5

/-- Queued vector memory entries of the kinds asked for; the entries of a frozen sequencer do not count (R193). -/
def Ctx.queuedMem (c : Ctx) (ld st : Bool) : Bool :=
  c.frozen.isNone && c.seq.any (fun e => (ld && queuesLoad e.bits) || (st && queuesStore e.bits))

/-- A scalar memory access waits until every older vector memory instruction of the slot has completed (R190). -/
def waitVecMem : M Unit := do
  let c ← ctx
  waitUnless (!c.queuedMem true true)

/-! ### Performed accesses (spec/05_ordering.md R125, R133) -/

/-- A store of the hart is under way to a scratchpad port. -/
def State.posted (s : State) (h : Hart) : Bool :=
  s.cores.ents.any (fun e => e.2.portq.any (fun r => r.kind == 0 && r.hart == h)) ||
  s.clusters.ents.any (fun e => e.2.hold.any (fun x => match x with
    | .port _ r => r.kind == 0 && r.hart == h
    | _ => false))

/-- Every earlier access of the hart of the kinds asked for is performed at a scope (scope codes of R18: 0 core, 1 group,
2 device, 3 system). -/
def State.performed (s : State) (h : Hart) (ld st : Bool) (scope : Nat) : Bool :=
  !(s.ctx h).queuedMem ld st &&
    (!st || (!s.posted h && (decide (scope < 2) || s.acks.all (fun u => u.hart != h))))

/-- A release at a scope: wait until every earlier access is performed there. -/
def release (scope : Nat) : M Unit := do
  let s ← get
  waitUnless (s.performed s.cur true true scope)

/-- An acquire at device scope (R128). -/
def acquire : M Unit := do upd (fun s => s.acquire s.cur.gcore)

/-- mf.fence with sets P and Q (bit 1 R, bit 0 W) at a scope (R133). -/
def fenceOp (p q : Nat) (scope : Nat) : M Unit := do
  if p = 0 ∨ q = 0 then pure ()
  else
    let s ← get
    waitUnless (s.performed s.cur (p.testBit 1) (p.testBit 0) scope)
    if p.testBit 1 ∧ q.testBit 1 ∧ scope ≥ 2 then acquire else pure ()

/-- MF_FENCE: the successor set q, the predecessor set p, the scope. -/
def execMfFence (q p : BitVec 4) (sc : BitVec 2) (s : State) : Out :=
  runThread (fenceOp p.toNat q.toNat sc.toNat) s

/-- The sets of a fence below a mode whose environment gives I and O the order of R and W (FIOM, standard). -/
def fiomSet (t : Slot) (c : Ctx) (v : BitVec 4) : Nat :=
  let on := (c.priv != .m && wbit t.menvcfg 0) || (c.priv == .u && wbit t.senvcfg 0)
  if on then v.toNat ||| fld v.toNat 3 2 else v.toNat

/-- FENCE: mf.fence.device with the same sets; an empty set orders nothing (R135). -/
def execFence (_fm pred succ : BitVec 4) (_rs1 _rd : Reg) (s : State) : Out :=
  runThread (do
    let t ← slot
    let c ← ctx
    fenceOp (fiomSet t c pred) (fiomSet t c succ) 2) s

/-- FENCE_TSO: mf.fence.device rw, rw; that a store before it need not be performed before a load after it (R135) is an
order that this model does not show (log entry 8). -/
def execFenceTso (_rs1 _rd : Reg) (s : State) : Out :=
  runThread (do
    let s ← get
    waitUnless (s.performed s.cur true true 2)
    acquire) s

/-- FENCE_I: the slot's earlier stores are performed and the L1I lines of its core leave (R67; spec/04_memory.md R99). -/
def execFenceI (_imm : BitVec 12) (_rs1 _rd : Reg) (s : State) : Out :=
  runThread (do
    release 2
    modCore (fun c => { c with l1i := [] })) s

/-! ### Loads and stores -/

/-- Width in bytes, sign extension, and floating-point format of a load. -/
def loadShape : LoadKind → Nat × Bool × Option FpFmt
  | .lb => (1, true, none) | .lh => (2, true, none) | .lw => (4, true, none) | .ld => (8, false, none)
  | .lbu => (1, false, none) | .lhu => (2, false, none) | .lwu => (4, false, none)
  | .flh => (2, false, some .h) | .flw => (4, false, some .s) | .fld => (8, false, some .d)

/-- Width in bytes and floating-point source of a store. -/
def storeShape : StoreKind → Nat × Bool
  | .sb => (1, false) | .sh => (2, false) | .sw => (4, false) | .sd => (8, false)
  | .fsh => (2, true) | .fsw => (4, true) | .fsd => (8, true)

/-- SCALAR_LOAD. -/
def execScalarLoad (k : LoadKind) (rd rs1 : Reg) (imm : BitVec 12) (s : State) : Out :=
  runThread (do
    let (n, sg, fmt) := loadShape k
    if fmt.isSome then needF else pure ()
    waitVecMem
    let base ← getX rs1
    let bs ← loadBytes (effAddr base imm) n
    let v := leNat bs
    match fmt with
    | some f => setF rd (boxF f v)
    | none => setX rd (if sg then sextW v (8 * n) else w64 v)) s

/-- SCALAR_STORE. -/
def execScalarStore (k : StoreKind) (rs1 rs2 : Reg) (imm : BitVec 12) (s : State) : Out :=
  runThread (do
    let (n, fp) := storeShape k
    if fp then needF else pure ()
    waitVecMem
    let base ← getX rs1
    let v ← if fp then getF rs2 else getX rs2
    storeBytes (effAddr base imm) (leBytes n v.toNat)) s

/-! ### Atomics (spec/05_ordering.md R121, R128, R130, R135; spec/03_encoding.md R67) -/

/-- Bytes of an atomic width. -/
def amoWidth : AmoWidth → Nat
  | .w => 4 | .d => 8

/-- The value of n bytes as a register holds it: a word is sign-extended. -/
def regOf (n : Nat) (bs : List Byte) : Word := sextW (leNat bs) (8 * n)

/-- The bytes that an AMO writes. -/
def amoBytes (op : AmoOp) (n : Nat) (src : Word) (old : List Byte) : List Byte :=
  if n = 4 then leBytes 4 (amoFn op (BitVec.ofNat 32 (leNat old)) (src.setWidth 32)).toNat
  else leBytes 8 (amoFn op (BitVec.ofNat 64 (leNat old)) src).toNat

/-- Operation codes of a scent record (R139). -/
def opAmo : Nat := 1
def opCas : Nat := 3

/-- LR: a load that sets the reservation on its 32-byte granule. -/
def lrOp (n : Nat) (rd rs1 : Reg) : M Unit := do
  let va ← getX rs1
  orTrap (va.toNat % n = 0) 5 va
  let t ← translate .load va va n
  let (bs, p) ← atomicTarget t n opAmo .lr (fun _ => none)
  match p with
  | some b => poisonTrap va b
  | none =>
    accessDone .load va n
    modCtx (fun c => { c with resv := some (blk t.a) })
    setX rd (regOf n bs)

/-- SC: a store that succeeds while the reservation is held on its granule; 0 or 1 to rd. -/
def scOp (n : Nat) (rd rs1 rs2 : Reg) : M Unit := do
  let va ← getX rs1
  let v ← getX rs2
  orTrap (va.toNat % n = 0) 7 va
  let t ← translate .store va va n
  let c ← ctx
  if c.resv = some (blk t.a) then
    let _ ← atomicTarget t n opAmo .sc (fun _ => some (leBytes n v.toNat))
    accessDone .store va n
    modCtx (fun c => { c with resv := none })
    setX rd 0#64
  else
    accessDone .store va n
    modCtx (fun c => { c with resv := none })
    setX rd 1#64

/-- An AMO. -/
def amoOp (op : AmoOp) (n : Nat) (rd rs1 rs2 : Reg) : M Unit := do
  let va ← getX rs1
  let v ← getX rs2
  let old ← atomicAt va n opAmo 7 .amo (fun old => some (amoBytes op n v old))
  setX rd (regOf n old)

/-- ATOMIC_AMO: rl waits for the earlier accesses, aq makes the core acquire, both at device scope. -/
def execAtomicAmo (op : AmoOp) (wd : AmoWidth) (aq rl : BitVec 1) (rd rs1 rs2 : Reg) (s : State) : Out :=
  runThread (do
    waitVecMem
    if rl = 1#1 then release 2 else pure ()
    match op with
    | .lr => lrOp (amoWidth wd) rd rs1
    | .sc => scOp (amoWidth wd) rd rs1 rs2
    | k => amoOp k (amoWidth wd) rd rs1 rs2
    if aq = 1#1 then acquire else pure ()) s

/-- A pair of registers, or zeros for x0 (amocas.q). -/
def getPair (r : Reg) : M Nat := do
  if r = 0#5 then return 0
  else return (← getX r).toNat + (← getX (r + 1#5)).toNat * 2 ^ 64

/-- AMOCAS: compare with rd, store rs2 where equal, the old value to rd. -/
def execAmocas (wd : CasWidth) (aq rl : BitVec 1) (rd rs1 rs2 : Reg) (s : State) : Out :=
  runThread (do
    waitVecMem
    if rl = 1#1 then release 2 else pure ()
    let va ← getX rs1
    match wd with
    | .q =>
      require (!rd.getLsbD 0 && !rs2.getLsbD 0)
      let cmp ← getPair rd
      let new ← getPair rs2
      let old ← atomicAt va 16 opCas 7 .amo (fun old => if leNat old = cmp then some (leBytes 16 new) else none)
      if rd = 0#5 then pure ()
      else
        setX rd (w64 (leNat old))
        setX (rd + 1#5) (w64 (leNat old / 2 ^ 64))
    | _ =>
      let n := if wd = .w then 4 else 8
      let cmp ← getX rd
      let new ← getX rs2
      let old ← atomicAt va n opCas 7 .amo
        (fun old => if leNat old = cmp.toNat % 2 ^ (8 * n) then some (leBytes n new.toNat) else none)
      setX rd (regOf n old)
    if aq = 1#1 then acquire else pure ()) s

/-! ### Waits on a reservation (R67) -/

/-- An interrupt is pending and locally enabled. -/
def Slot.pending (t : Slot) : Bool := t.mip &&& t.mie != 0#64

/-- The wait of wrs.nto (nto = true) and wrs.sto: it ends when the reservation is lost, on a pending interrupt, or for
wrs.sto when its time is over; wrs.nto below M-mode with TW = 1 is illegal when its time is over. -/
def wrsOp (nto : Bool) : M Unit := do
  let t ← slot
  let c ← ctx
  if c.resv.isNone ∨ t.pending then pure ()
  else
    if t.wait.map (·.kind) = some WaitKind.wrsOver then
      if nto then illegal else pure ()
    else
      setWait (some { kind := .wrs, a := b2n nto })
      wait

/-- WRS_NTO. -/
def execWrsNto (s : State) : Out := runThread (wrsOp true) s
/-- WRS_STO. -/
def execWrsSto (s : State) : Out := runThread (wrsOp false) s

/-- WRS_TIMEOUT: the time of a waiting wrs.sto, or of a wrs.nto below M-mode with TW = 1, is over. -/
def execWrsTimeout (h : Hart) (s : State) : Out :=
  event (fun s =>
    let t := s.slot h
    match t.wait with
    | some w =>
      if w.kind = .wrs ∧ (w.a = 0 ∨ ((s.ctx h).priv ≠ .m ∧ wbit t.mstatus stTW)) then
        some (s.modSlot h (fun t => { t with wait := some { w with kind := .wrsOver } }))
      else none
    | none => none) s

/-! ### sfence.vma and xRET -/

/-- SFENCE_VMA: entries that match leave the core's L1 TLBs and the cluster's L2 TLB, and fault-pending entries that are
covered are released (R158, R161). -/
def execSfenceVma (rs1 rs2 : Reg) (s : State) : Out :=
  runThread (do
    let t ← slot
    let c ← ctx
    require (c.priv != .u && !(c.priv == .s && wbit t.mstatus stTVM))
    let s ← get
    waitUnless (s.performed s.cur false true 2)
    let va ← getX rs1
    let asid ← getX rs2
    let v : Option Nat := if rs1 = 0#5 then none else some va.toNat
    let a : Option Nat := if rs2 = 0#5 then none else some (wfld asid 15 0)
    upd (fun s => (s.invalL1tlb s.cur.gcore v a).invalL2tlb s.cur.cl v a)) s

/-- An xRET of the recorded slot releases its fault-pending entries (R161). -/
def State.releaseOf (s : State) (h : Hart) : State := s.release h.cl (fun f => f.slot == h)

/-- XRET: the return, then the restart of a frozen sequencer (spec/07_context.md R194). -/
def execXret (k : XretKind) (s : State) : Out :=
  runThread (do
    let t ← slot
    let c ← ctx
    match k with
    | .sret => require (c.priv != .u && !(c.priv == .s && wbit t.mstatus stTSR))
    | .mret => require (c.priv == .m)
    upd (fun s => if k = .sret then s.doSret s.cur else s.doMret s.cur)
    upd (fun s => s.releaseOf s.cur)
    modCtx (·.restart)
    let c ← ctx
    setPc c.pc) s

/-! ### Traps and interrupts from outside the instruction (spec/07_context.md R191, R207) -/

/-- The order in which pending interrupts are taken: the standard's, then 31 (log entry 13). -/
def irqOrder : List Nat := [11, 3, 7, 9, 1, 5, 31]

/-- Interrupt i would be taken now. -/
def Slot.irqEnabled (t : Slot) (c : Ctx) (i : Nat) : Bool :=
  wbit t.mip i && wbit t.mie i &&
    (if wbit t.mideleg i then c.priv == .u || (c.priv == .s && wbit c.sstatus stSIE)
     else c.priv != .m || wbit t.mstatus stMIE)

/-- The interrupt that is taken now; one that is not delegated goes first. -/
def Slot.irq (t : Slot) (c : Ctx) : Option Nat :=
  match irqOrder.find? (fun i => t.irqEnabled c i && !wbit t.mideleg i) with
  | some i => some i
  | none => irqOrder.find? (fun i => t.irqEnabled c i)

/-- The wait of the slot lets no interrupt in: an instruction whose request is under way, or has been answered, ends first
(spec/11_group.md R314; spec/07_context.md R219; spec/14_kernel.md R387). -/
def Slot.noIrq (t : Slot) : Bool :=
  match t.wait with
  | some w => [.recordSent, .recordTaken, .recordRefused, .rankMove, .rankMoved, .borrow, .borrowed, .barDone].contains w.kind
  | none => false

/-- An interrupt is to be taken before the slot's next instruction (spec/07_context.md R209; the standard for a write of a
CSR and for xRET). -/
def Slot.irqDue (t : Slot) : Bool :=
  match t.ctx with
  | some c => (t.irq c).isSome && !t.noIrq
  | none => false

/-- TRAP_OR_INTERRUPT: an encoding that nothing decodes, a fetch that failed, an interrupt taken, an interrupt line raised. -/
def execTrapOrInterrupt (k : TrapEvent) (s : State) : Out :=
  match k with
  | .illegal bits => runThread (trap 2 (bits.setWidth 64)) s
  | .fetchTrap cause tval => runThread (trap cause tval) s
  | .interrupt h =>
    event (fun s =>
      let t := s.slot h
      match t.ctx with
      | none => none
      | some c =>
        if t.halted ∨ t.noIrq then none
        else
          match t.irq c with
          | none => none
          | some i => some (s.takeTrap h true i (if i = 31 then t.ktval else 0#64))) s
  | .raise h bit =>
    event (fun s =>
      if wbit mieMask bit ∧ bit ≠ 31 then some (s.modSlot h (fun t => { t with mip := wputb t.mip bit true })) else none) s

/-! ### vsetvl (spec/02_numbers.md R57; spec/03_encoding.md R67) -/

def villWord : Word := 0x8000000000000000#64

/-- VLMAX of a vtype, none where it is not supported: 512 bits of register, SEW from 8 to 64, LMUL from 1/8 to 8 with
SEW / LMUL at most 64. -/
def vlmaxOf (vt : Word) : Option Nat :=
  let sew := wfld vt 5 3
  let lmul := wfld vt 2 0
  let vbs := wfld vt 10 8
  if wfld vt 63 11 ≠ 0 ∨ vbs ≥ 5 ∨ sew ≥ 4 ∨ lmul = 4 then none
  else if lmul < 4 then some (512 * 2 ^ lmul / (8 * 2 ^ sew))
  else if 8 * 2 ^ sew * 2 ^ (8 - lmul) > 64 then none
  else some (512 / 2 ^ (8 - lmul) / (8 * 2 ^ sew))

/-- vtype and vl set for a requested length; none asks to keep vl, which an unchanged VLMAX allows. -/
def Ctx.setVl (c : Ctx) (vt : Word) (avl : Option Nat) : Ctx :=
  let c := { c with vstart := 0#64 }.dirtyV
  match vlmaxOf vt with
  | none => { c with vtype := villWord, vl := 0 }
  | some mx =>
    match avl with
    | some n => { c with vtype := vt, vl := min n mx }
    | none => if vlmaxOf c.vtype = some mx then { c with vtype := vt } else { c with vtype := villWord, vl := 0 }

/-- The vsetvl family: it waits for a queued load that writes vl, and enters no sequencer entry (R190, R193, R524). -/
def vsetOp (rd : Reg) (vt : Word) (avl : Option Nat) : M Unit := do
  needV
  let c ← ctx
  require (!(c.frozen.isSome && !c.seq.isEmpty))
  waitUnless (!c.seq.any (fun e => isFof e.bits))
  let old := c.vstart
  modCtx (·.setVl vt avl)
  -- behind queued entries vstart is theirs: each leaves 0 (R524)
  modCtx (fun d => if c.seq.isEmpty then d else { d with vstart := old })
  let c ← ctx
  setX rd (w64 c.vl)

/-- The length that vsetvli and vsetvl ask for. -/
def vsetAvl (rd rs1 : Reg) : M (Option Nat) := do
  if rs1 ≠ 0#5 then return some (← getX rs1).toNat
  else if rd ≠ 0#5 then return some 1000
  else return none

/-! ### The rest -/

/-- ecall's cause by mode. -/
def ecallCause : Priv → Nat
  | .u => 8 | .s => 9 | .m => 11

/-- A jump: rd takes the address of the next instruction. -/
def jumpTo (rd : Reg) (target : Word) : M Unit := do
  let c ← ctx
  let s ← get
  setX rd (c.pc + w64 s.ilen)
  setPc target

/-- The meaning of a standard scalar instruction. -/
def scalarOp (op : ScalarOp) : M Unit := do
  match op with
  | .lui rd imm => setX rd (upperImm imm)
  | .auipc rd imm => setX rd ((← ctx).pc + upperImm imm)
  | .jal rd imm => jumpTo rd ((← ctx).pc + jalOff imm)
  | .jalr rd rs1 imm =>
    let t := wputb (effAddr (← getX rs1) imm) 0 false
    jumpTo rd t
  | .branch k rs1 rs2 imm =>
    if brFn k (← getX rs1) (← getX rs2) then setPc ((← ctx).pc + brOff imm) else pure ()
  | .imm k rd rs1 imm => setX rd (immFn k (← getX rs1) imm)
  | .sh k rd rs1 amt => setX rd (shFn k (← getX rs1) amt)
  | .alu k rd rs1 rs2 => setX rd (aluFn k (← getX rs1) (← getX rs2))
  | .un k rd rs1 => setX rd (unFn k (← getX rs1))
  | .ecall => trap (ecallCause (← ctx).priv) 0#64
  | .ebreak => trap 3 (← ctx).pc
  | .wfi =>
    let t ← slot
    let c ← ctx
    require (c.priv == .m || !wbit t.mstatus stTW)
  | .csrRead _ _ rd csr => csrReadInstr rd csr.toNat
  | .fp2 k fmt rm rd rs1 rs2 => fpOp2 k fmt rm rd rs1 rs2
  | .fp2n k fmt rd rs1 rs2 => fpOp2n k fmt rd rs1 rs2
  | .fcmp k fmt rd rs1 rs2 => fpCmp k fmt rd rs1 rs2
  | .fsqrt fmt rm rd rs1 => fpSqrt fmt rm rd rs1
  | .fma k fmt rm rd rs1 rs2 rs3 => fpFma k fmt rm rd rs1 rs2 rs3
  | .fclass fmt rd rs1 => fpClass fmt rd rs1
  | .fmvXF fmt rd rs1 => fpMvXF fmt rd rs1
  | .fmvFX fmt rd rs1 => fpMvFX fmt rd rs1
  | .fcvtIF t fmt rm rd rs1 => fpCvtIF t fmt rm rd rs1
  | .fcvtFI fmt t rm rd rs1 => fpCvtFI fmt t rm rd rs1
  | .fcvtFF dst src rm rd rs1 => fpCvtFF dst src rm rd rs1
  | .vsetvli rd rs1 imm => vsetOp rd (imm.setWidth 64) (← vsetAvl rd rs1)
  | .vsetivli rd u imm => vsetOp rd (imm.setWidth 64) (some u.toNat)
  | .vsetvl rd rs1 rs2 => vsetOp rd (← getX rs2) (← vsetAvl rd rs1)

/-- STANDARD_SCALAR_INSTRUCTION. -/
def execStandardScalarInstruction (op : ScalarOp) (s : State) : Out := runThread (scalarOp op) s

end Sys2Proof.Machine
end

