-- ==== Sys2Proof/Machine/VecBase.lean ====
section
/-! DEFINITION. The vector unit's ground: the configuration of an instruction, register groups and their legality, elements,
mask and tail policy, waits on register strips (spec/03_encoding.md R67, R72, R73; spec/07_context.md R190, R193, R524;
spec/08_vector.md R228, R229; spec/10_transfer.md R299; the standard's rules are PRESUMED, log entry 13). -/

namespace Sys2Proof.Machine

open Sys2Proof

/-- A vector instruction at the head of its sequencer: its word, the operands captured at issue and vstart as it stands. -/
structure VI where
  w   : IWord
  vl  : Nat
  vt  : Word
  op1 : Word
  op2 : Word
  vs  : Nat
  ident : Ident := {}          -- of an xf.vget: what its strip captures
  satp  : Word := 0
  cls   : Option Nat := none
deriving DecidableEq, Repr

def VI.sew (x : VI) : Nat := 8 * 2 ^ wfld x.vt 5 3
/-- LMUL in eighths. -/
def VI.lm (x : VI) : Nat := if wfld x.vt 2 0 < 4 then 8 * 2 ^ wfld x.vt 2 0 else 2 ^ (wfld x.vt 2 0 - 5)
def VI.ill (x : VI) : Bool := wbit x.vt 63
def VI.ta (x : VI) : Bool := wbit x.vt 6
def VI.ma (x : VI) : Bool := wbit x.vt 7
def VI.vd (x : VI) : Nat := (fRd x.w).toNat
def VI.s1 (x : VI) : Nat := (fRs1 x.w).toNat
def VI.s2 (x : VI) : Nat := (fRs2 x.w).toNat
def VI.vm (x : VI) : Bool := fVm x.w
/-- VLMAX. -/
def VI.vlmax (x : VI) : Nat := 512 * x.lm / (8 * x.sew)

/-! ### Groups -/

/-- EMUL in eighths at an element width; 0 where it is no EMUL. -/
def VI.emul (x : VI) (eew : Nat) : Nat :=
  if 8 ≤ eew ∧ eew ≤ 64 ∧ x.lm * eew % x.sew = 0 ∧ x.lm * eew / x.sew ≤ 64 then x.lm * eew / x.sew else 0

/-- Registers of a group of an EMUL in eighths. -/
def groupRegs (em : Nat) : Nat := Nat.max 1 (em / 8)

/-- Registers of a group at an element width. -/
def VI.regs (x : VI) (eew : Nat) : Nat := groupRegs (x.emul eew)

/-- A group is legal: its EMUL exists and its number is aligned. -/
def VI.groupOk (x : VI) (r eew : Nat) : Bool := x.emul eew != 0 && r % x.regs eew == 0

/-- Two runs of registers overlap. -/
def overlap (r n q m : Nat) : Bool := decide (r < q + m) && decide (q < r + n)

/-- The overlap of a destination with a source that the standard permits: equal widths; a narrower destination in the lowest
part of the source; a wider destination whose highest part is the source, of EMUL at least 1. -/
def VI.overlapOk (x : VI) (vd dw r sw : Nat) : Bool :=
  if !overlap vd (x.regs dw) r (x.regs sw) then true
  else if dw = sw then true
  else if dw < sw then vd == r
  else decide (x.emul sw ≥ 8) && r == vd + x.regs dw - x.regs sw

/-- A masked instruction's destination does not overlap v0. -/
def VI.maskOk (x : VI) (dw : Nat) : Bool := x.vm || !overlap x.vd (x.regs dw) 0 1

/-! ### Elements -/

/-- Element i of width w of the group at register r. -/
def Ctx.elem (c : Ctx) (r w i : Nat) : Nat := fld (c.getV (r + i * w / 512)).toNat (i * w % 512 + w - 1) (i * w % 512)

/-- Element i of width w written. -/
def Ctx.setElem (c : Ctx) (r w i v : Nat) : Ctx :=
  let k := r + i * w / 512
  let lo := i * w % 512
  c.setV k (BitVec.ofNat 512 (nput (c.getV k).toNat (lo + w - 1) lo v))

/-- Bit i of a mask register. -/
def Ctx.maskBit (c : Ctx) (r i : Nat) : Bool := (c.getV r).getLsbD i

/-- Element i is active. -/
def VI.active (x : VI) (c : Ctx) (i : Nat) : Bool := x.vm || c.maskBit 0 i

/-- All ones of w bits. -/
def ones (w : Nat) : Nat := 2 ^ w - 1

/-! ### Use of registers while strips are pending (spec/10_transfer.md R299) -/

/-- Registers of a strip's destination group: first, and how many. -/
def Strip.regs (s : Strip) : Nat × Nat := (s.vd, Nat.max 1 (ceilDiv (s.count * (8 * 2 ^ s.sew)) 512))

/-- The instruction waits for pending strips whose group holds one of n registers from r up; a Faulted one raises cause 25
(R299). -/
def waitStrips (r n : Nat) : M Unit := do
  let c ← ctx
  match (List.range 4).find? (fun i => (c.strip i).v && overlap r n (c.strip i).regs.1 (c.strip i).regs.2) with
  | none => pure ()
  | some i =>
    match (c.strip i).fault with
    | some reason => trap 25 (chanTval reason true i (c.strip i).src)
    | none => wait

/-- The instruction reads n registers from r up: a strip that landed poisoned raises cause 19 and its registers keep their
values (spec/10_transfer.md R301). One that only writes them waits for their strips (waitStrips) and meets no poison. -/
def useV (r n : Nat) : M Unit := do
  waitStrips r n
  let c ← ctx
  match c.vpoison.find? (fun p => decide (r ≤ p.1) && decide (p.1 < r + n)) with
  | none => pure ()
  | some (_, va, a) =>
    modCtx (fun c => { c with vpoison := c.vpoison.filter (fun p => !(decide (r ≤ p.1) && decide (p.1 < r + n))) })
    poisonTrap va a

/-- Use of a group. -/
def VI.use (x : VI) (r eew : Nat) : M Unit := useV r (x.regs eew)

/-- The instruction reads its destination: a multiply-add, whose result starts from the old element. -/
def VI.readsVd (x : VI) : Bool :=
  fOp x.w == 0x57#7 &&
    (if fF3 x.w = 2#3 ∨ fF3 x.w = 6#3 then [0x29, 0x2b, 0x2d, 0x2f, 0x3c, 0x3d, 0x3e, 0x3f].contains (fF6 x.w)
     else if fF3 x.w = 1#3 ∨ fF3 x.w = 5#3 then (0x28 ≤ fF6 x.w && fF6 x.w ≤ 0x2f) || (0x3c ≤ fF6 x.w && fF6 x.w ≤ 0x3f)
     else false)

/-- The destination group at a width, which a result is written to. -/
def VI.useDest (x : VI) (dw : Nat) : M Unit :=
  if x.readsVd then x.use x.vd dw else waitStrips x.vd (x.regs dw)

/-- Use of the mask, where the instruction is masked. -/
def VI.useMask (x : VI) : M Unit := if x.vm then pure () else useV 0 1

/-! ### Results -/

/-- A result of one element: its value, its flags, saturation. -/
structure VRes where
  v   : Nat
  fl  : FFlags := {}
  sat : Bool := false
deriving DecidableEq, Repr, Inhabited

/-- Draws n agnostic choices; the k-th is Config.agnosticOnes (base + k) (log entry 10). -/
def drawAgnostic (n : Nat) : M Nat := do
  let s ← get
  set { s with free := s.free + n }
  return s.free

/-- Elements of a whole group, those past VLMAX of a fractional group included. -/
def VI.total (x : VI) (eew : Nat) : Nat := x.regs eew * 512 / eew

/-- A destination group written: elements below `lo` stay; active ones below vl take their result; inactive ones and the
tail follow vma and vta; where vstart is not below vl nothing is written. The list holds a result for each element below
vl, none for one to be left alone. -/
def VI.putFrom (x : VI) (lo dw : Nat) (rs : List (Option Nat)) : M Unit := do
  if x.vs ≥ x.vl then pure ()
  else
    let n := x.total dw
    let base ← drawAgnostic n
    modCtx (fun c =>
      ((List.range n).foldl (fun d i =>
        if i < x.vl then
          if i < lo then d
          else if x.active c i then
            match rs.getD i none with
            | some v => d.setElem x.vd dw i v
            | none => d
          else if x.ma ∧ Config.agnosticOnes (base + i) then d.setElem x.vd dw i (ones dw)
          else d
        else if x.ta ∧ Config.agnosticOnes (base + i) then d.setElem x.vd dw i (ones dw)
        else d) c).dirtyV)

/-- A destination group written from vstart on. -/
def VI.putGroup (x : VI) (dw : Nat) (rs : List (Option Nat)) : M Unit := x.putFrom x.vs dw rs

/-- The instruction with every element active. -/
def VI.unmasked (x : VI) : VI := { x with w := x.w ||| 0x02000000#32 }

/-- A mask register written bit by bit: the tail is always agnostic. -/
def VI.putMask (x : VI) (rs : List (Option Bool)) : M Unit := do
  if x.vs ≥ x.vl then pure ()
  else
    let base ← drawAgnostic 512
    modCtx (fun c =>
      let old := c.getV x.vd
      let bit (i : Nat) : Bool :=
        if i < x.vs then old.getLsbD i
        else if i < x.vl then
          if x.active c i then (rs.getD i none).getD (old.getLsbD i)
          else if x.ma ∧ Config.agnosticOnes (base + i) then true
          else old.getLsbD i
        else if Config.agnosticOnes (base + i) then true
        else old.getLsbD i
      (c.setV x.vd (BitVec.ofNat 512 ((List.range 512).foldl (fun n i => n + (if bit i then 2 ^ i else 0)) 0))).dirtyV)

/-- Element 0 of a register written, the rest tail. -/
def VI.putScalar (x : VI) (dw v : Nat) : M Unit := do
  if x.vl = 0 then pure ()
  else
    let n := 512 / dw
    let base ← drawAgnostic n
    modCtx (fun c =>
      ((List.range n).foldl (fun d i =>
        if i = 0 then d.setElem x.vd dw 0 v
        else if x.ta ∧ Config.agnosticOnes (base + i) then d.setElem x.vd dw i (ones dw)
        else d) c).dirtyV)

/-- Flags and saturation of results accrue. -/
def putEffects (rs : List VRes) : M Unit := do
  let fl := rs.foldl (fun f r => f.join r.fl) {}
  accrue fl
  if rs.any (·.sat) then modCtx (fun c => { c with vxsat := 1#64 }) else pure ()

/-! ### Operand forms -/

/-- Where the second operand comes from. -/
inductive VSrc where
  | vec            -- vs1
  | scalar (v : Nat)
deriving DecidableEq, Repr

/-- The integer scalar or immediate of an instruction at a width: x[rs1], or simm5, or uimm5. -/
def VI.intSrc (x : VI) (width : Nat) (unsignedImm : Bool) : VSrc :=
  match (fF3 x.w).toNat with
  | 0 | 2 | 1 => .vec
  | 3 => .scalar (if unsignedImm then x.s1 else (uint (sint x.s1 5) width))
  | _ => .scalar (x.op1.toNat % 2 ^ width)

/-- The floating-point scalar of an instruction at a width, unboxed. -/
def VI.fpSrc (x : VI) (width : Nat) : VSrc :=
  if fF3 x.w = 1#3 then .vec
  else .scalar (if width = 64 then x.op1.toNat else unbox .s x.op1)

/-- Legality of a source operand beside a destination. -/
def VI.srcOk (x : VI) (src : VSrc) (dw sw : Nat) : Bool :=
  match src with
  | .vec => x.groupOk x.s1 sw && x.overlapOk x.vd dw x.s1 sw
  | .scalar _ => true

/-- Element i of the second operand. -/
def VI.srcElem (x : VI) (c : Ctx) (src : VSrc) (sw i : Nat) : Nat :=
  match src with
  | .vec => c.elem x.s1 sw i
  | .scalar v => v % 2 ^ sw

/-- Uses of the second operand. -/
def VI.useSrc (x : VI) (src : VSrc) (sw : Nat) : M Unit :=
  match src with
  | .vec => x.use x.s1 sw
  | .scalar _ => pure ()

/-- The elementwise skeleton: destination width dw, vs2 at aw, the second operand at bw; f takes the element number, the old
destination, a and b. An instruction that reads one register with two different EEWs, which V 1.0 reserves, is executed as its
operands stand (DESIGN CHOICE, log entry 13). -/
def VI.elementwise (x : VI) (dw aw bw : Nat) (src : VSrc) (f : Nat → Nat → Nat → Nat → VRes) : M Unit := do
  require (!x.ill && x.groupOk x.vd dw && x.groupOk x.s2 aw && x.overlapOk x.vd dw x.s2 aw && x.srcOk src dw bw && x.maskOk dw)
  x.useMask
  x.use x.s2 aw
  x.useSrc src bw
  x.useDest dw
  let c ← ctx
  let rs := (List.range x.vl).map (fun i =>
    if i < x.vs ∨ !x.active c i then none
    else some (f i (c.elem x.vd dw i) (c.elem x.s2 aw i) (x.srcElem c src bw i)))
  x.putGroup dw (rs.map (fun r => r.map (·.v)))
  putEffects (rs.filterMap id)

/-- A one-register mask destination may overlap a source group only at its lowest register. -/
def VI.maskDest (x : VI) (r w : Nat) : Bool := !overlap x.vd 1 r (x.regs w) || x.vd == r

/-- The skeleton of a result that is a mask. -/
def VI.toMask (x : VI) (w : Nat) (src : VSrc) (f : Nat → Nat → Nat → Bool × FFlags) : M Unit := do
  require (!x.ill && x.groupOk x.s2 w && x.maskDest x.s2 w && (match src with | .vec => x.groupOk x.s1 w && x.maskDest x.s1 w | _ => true))
  x.useMask
  x.use x.s2 w
  x.useSrc src w
  waitStrips x.vd 1
  let c ← ctx
  let rs := (List.range x.vl).map (fun i =>
    if i < x.vs ∨ !x.active c i then none else some (f i (c.elem x.s2 w i) (x.srcElem c src w i)))
  x.putMask (rs.map (fun r => r.map (·.1)))
  putEffects ((rs.filterMap id).map (fun r => { v := 0, fl := r.2 }))

end Sys2Proof.Machine
end

