-- ==== Sys2Proof/Machine/VecInt.lean ====
section
/-! DEFINITION. The integer, fixed-point, mask and permutation instructions of V 1.0 (spec/03_encoding.md R65, R67; the
meanings are the standard's, PRESUMED, log entry 13). -/

namespace Sys2Proof.Machine

open Sys2Proof

/-- A result without effects. -/
def vr (v : Nat) : VRes := { v := v }
/-- An integer result of width w. -/
def vi (w : Nat) (i : Int) : VRes := { v := uint i w }

/-- v / 2^d rounded by vxrm: nearest up, nearest even, down, to odd. -/
def roundoff (rm : Nat) (v : Int) (d : Nat) : Int :=
  let p : Int := (2 ^ d : Nat)
  let q := v / p
  let m := v % p
  let up := match rm with
    | 0 => decide (2 * m ≥ p) && d != 0
    | 1 => decide (2 * m > p) || (decide (2 * m = p) && q % 2 == 1)
    | 2 => false
    | _ => m != 0 && q % 2 == 0
  if up then q + 1 else q

/-- A value clamped to a signed width. -/
def clampS (w : Nat) (i : Int) : VRes :=
  let hi : Int := (2 ^ (w - 1) : Nat) - 1
  let lo : Int := -((2 ^ (w - 1) : Nat) : Int)
  if i > hi then { v := uint hi w, sat := true } else if i < lo then { v := uint lo w, sat := true } else vi w i

/-- A value clamped to an unsigned width. -/
def clampU (w : Nat) (i : Int) : VRes :=
  if i > (2 ^ w : Nat) - 1 then { v := ones w, sat := true } else if i < 0 then { v := 0, sat := true } else vi w i

/-- Elementwise operations of OPIVV, OPIVX and OPIVI on elements of width w: a from vs2, b from the second operand. -/
def opiFn (f6 rm w a b : Nat) : VRes :=
  let sa := sint a w
  let sb := sint b w
  let sh := b % w
  match f6 with
  | 0x00 => vr ((a + b) % 2 ^ w)
  | 0x02 => vi w (sa - sb)
  | 0x03 => vi w (sb - sa)
  | 0x04 => vr (min a b)
  | 0x05 => vi w (min sa sb)
  | 0x06 => vr (max a b)
  | 0x07 => vi w (max sa sb)
  | 0x09 => vr (a &&& b)
  | 0x0a => vr (a ||| b)
  | 0x0b => vr (a ^^^ b)
  | 0x20 => clampU w ((a : Int) + b)
  | 0x21 => clampS w (sa + sb)
  | 0x22 => clampU w ((a : Int) - b)
  | 0x23 => clampS w (sa - sb)
  | 0x25 => vr ((a <<< sh) % 2 ^ w)
  | 0x27 => clampS w (roundoff rm (sa * sb) (w - 1))
  | 0x28 => vr (a >>> sh)
  | 0x29 => vi w (sa / (2 ^ sh : Nat))
  | 0x2a => vi w (roundoff rm a sh)
  | _ => vi w (roundoff rm sa sh)

/-- Narrowing operations: a of width 2w, b of width w. -/
def opiNarrow (f6 rm w a b : Nat) : VRes :=
  let sa := sint a (2 * w)
  let sh := b % (2 * w)
  match f6 with
  | 0x2c => vr ((a >>> sh) % 2 ^ w)
  | 0x2d => vi w (sa / (2 ^ sh : Nat))
  | 0x2e => clampU w (roundoff rm a sh)
  | _ => clampS w (roundoff rm sa sh)

/-- Comparisons. -/
def opiCmp (f6 w a b : Nat) : Bool :=
  let sa := sint a w
  let sb := sint b w
  match f6 with
  | 0x18 => a == b
  | 0x19 => a != b
  | 0x1a => decide (a < b)
  | 0x1b => decide (sa < sb)
  | 0x1c => decide (a ≤ b)
  | 0x1d => decide (sa ≤ sb)
  | 0x1e => decide (a > b)
  | _ => decide (sa > sb)

/-- The immediate of OPIVI is unsigned for shifts, slides and gathers. -/
def immUnsigned (f6 : Nat) : Bool := decide (0x25 ≤ f6) || f6 == 0x0c || f6 == 0x0e || f6 == 0x0f

/-- vd := the second operand (vmv.v.*, vfmv.v.f). -/
def VI.broadcast (x : VI) (src : VSrc) : M Unit := do
  let w := x.sew
  require (!x.ill && x.groupOk x.vd w && x.srcOk src w w)
  x.useSrc src w
  waitStrips x.vd (x.regs w)
  let c ← ctx
  x.putGroup w ((List.range x.vl).map (fun i => some (x.srcElem c src w i)))

/-- vd := v0 bit ? second operand : vs2 (vmerge, vfmerge). -/
def VI.merge (x : VI) (src : VSrc) : M Unit := do
  useV 0 1
  require (x.maskOk x.sew)
  let c ← ctx
  x.unmasked.elementwise x.sew x.sew x.sew src (fun i _ a b => vr (if c.maskBit 0 i then b else a))

/-- vadc and vsbc: every element is active, and v0 is the carry or borrow. -/
def VI.carryOp (x : VI) (sub : Bool) (src : VSrc) : M Unit := do
  let w := x.sew
  useV 0 1
  require (x.maskOk w)
  let c ← ctx
  x.unmasked.elementwise w w w src (fun i _ a b =>
    let k : Int := b2n (c.maskBit 0 i)
    vi w (if sub then (a : Int) - b - k else (a : Int) + b + k))

/-- vmadc and vmsbc: the carry or borrow out. -/
def VI.carryOut (x : VI) (sub : Bool) (src : VSrc) : M Unit := do
  let w := x.sew
  x.useMask
  let c ← ctx
  x.unmasked.toMask w src (fun i a b =>
    let k := if x.vm then 0 else b2n (c.maskBit 0 i)
    (if sub then decide (a < b + k) else decide (a + b + k ≥ 2 ^ w), {}))

/-- A permutation of vs2 into a group that does not overlap it: f gives element i. -/
def VI.permute (x : VI) (lo : Nat) (ok : Bool) (f : Ctx → Nat → Nat) : M Unit := do
  let w := x.sew
  require (!x.ill && x.groupOk x.vd w && x.groupOk x.s2 w && x.maskOk w && ok)
  x.useMask
  x.use x.s2 w
  waitStrips x.vd (x.regs w)
  let c ← ctx
  x.putFrom (max x.vs lo) w ((List.range x.vl).map (fun i => if i < lo then none else some (f c i)))

/-- Destination and vs2 do not overlap. -/
def VI.apart2 (x : VI) : Bool := !overlap x.vd (x.regs x.sew) x.s2 (x.regs x.sew)

/-- Element i of vs2, 0 at and past VLMAX. -/
def VI.from2 (x : VI) (c : Ctx) (i : Nat) : Nat := if i < x.vlmax then c.elem x.s2 x.sew i else 0

/-- vslideup. -/
def VI.slideUp (x : VI) (off : Nat) : M Unit := x.permute off x.apart2 (fun c i => c.elem x.s2 x.sew (i - off))
/-- vslidedown. -/
def VI.slideDown (x : VI) (off : Nat) : M Unit := x.permute 0 true (fun c i => x.from2 c (i + off))
/-- vslide1up and vfslide1up. -/
def VI.slide1Up (x : VI) (v : Nat) : M Unit :=
  x.permute 0 x.apart2 (fun c i => if i = 0 then v else c.elem x.s2 x.sew (i - 1))
/-- vslide1down and vfslide1down. -/
def VI.slide1Down (x : VI) (v : Nat) : M Unit :=
  x.permute 0 true (fun c i => if i + 1 = x.vl then v else x.from2 c (i + 1))

/-- vrgather with indices of width iw in vs1. -/
def VI.gather (x : VI) (iw : Nat) : M Unit := do
  require (x.groupOk x.s1 iw && !overlap x.vd (x.regs x.sew) x.s1 (x.regs iw))
  x.use x.s1 iw
  x.permute 0 x.apart2 (fun c i => x.from2 c (c.elem x.s1 iw i))
/-- vrgather with one index. -/
def VI.gather1 (x : VI) (k : Nat) : M Unit := x.permute 0 x.apart2 (fun c _ => x.from2 c k)

/-- vmv<nr>r.v: whole registers, from element vstart on. -/
def VI.moveWhole (x : VI) : M Unit := do
  let n := x.s1 + 1
  require (!x.ill && x.vd % n == 0 && x.s2 % n == 0)
  useV x.s2 n
  waitStrips x.vd n
  let w := x.sew
  modCtx (fun c => ((List.range (n * 512 / w)).foldl (fun d i =>
    if i < x.vs then d else d.setElem x.vd w i (c.elem x.s2 w i)) c).dirtyV)

/-- OPIVV, OPIVX and OPIVI. -/
def VI.opi (x : VI) (rm : Nat) : M Unit := do
  let f6 := fF6 x.w
  let w := x.sew
  let src := x.intSrc w (immUnsigned f6)
  let vec := fF3 x.w == 0#3
  let imm := fF3 x.w == 3#3
  let idx := if imm then x.s1 else x.op1.toNat
  if f6 = 0x0c then (if vec then x.gather w else x.gather1 idx)
  else if f6 = 0x0e then (if vec then x.gather 16 else x.slideUp idx)
  else if f6 = 0x0f then x.slideDown idx
  else if f6 = 0x10 then x.carryOp false src
  else if f6 = 0x12 then x.carryOp true src
  else if f6 = 0x11 then x.carryOut false src
  else if f6 = 0x13 then x.carryOut true src
  else if f6 = 0x17 then (if x.vm then x.broadcast src else x.merge src)
  else if 0x18 ≤ f6 ∧ f6 ≤ 0x1f then x.toMask w src (fun _ a b => (opiCmp f6 w a b, {}))
  else if f6 = 0x27 ∧ imm then x.moveWhole
  else if 0x2c ≤ f6 ∧ f6 ≤ 0x2f then
    x.elementwise w (2 * w) w src (fun _ _ a b => opiNarrow f6 rm w a b)
  else x.elementwise w w w src (fun _ _ a b => opiFn f6 rm w a b)

/-! ### OPMVV and OPMVX -/

/-- Single-width operations: d is the old destination, a from vs2, b the second operand. -/
def opmFn (f6 rm w d a b : Nat) : VRes :=
  let sa := sint a w
  let sb := sint b w
  let un (x : Nat) : Int := x
  match f6 with
  | 0x08 => vi w (roundoff rm (un a + un b) 1)
  | 0x09 => vi w (roundoff rm (sa + sb) 1)
  | 0x0a => vi w (roundoff rm (un a - un b) 1)
  | 0x0b => vi w (roundoff rm (sa - sb) 1)
  | 0x20 => vr (if b = 0 then ones w else a / b)
  | 0x21 => vi w (if sb = 0 then -1 else Int.tdiv sa sb)
  | 0x22 => vr (if b = 0 then a else a % b)
  | 0x23 => vi w (if sb = 0 then sa else Int.tmod sa sb)
  | 0x24 => vi w (un a * un b / (2 ^ w : Nat))
  | 0x25 => vi w (sa * sb)
  | 0x26 => vi w (sa * un b / (2 ^ w : Nat))
  | 0x27 => vi w (sa * sb / (2 ^ w : Nat))
  | 0x29 => vi w (un b * un d + un a)
  | 0x2b => vi w (un a - un b * un d)
  | 0x2d => vi w (un b * un a + un d)
  | _ => vi w (un d - un b * un a)

/-- Widening operations: the result has width 2w; a is of width 2w for the .w forms. -/
def opmWiden (f6 w d a b : Nat) : VRes :=
  let sa := sint a w
  let sb := sint b w
  let ua : Int := a
  let ub : Int := b
  let ud : Int := d
  vi (2 * w) (match f6 with
    | 0x30 => ua + ub
    | 0x31 => sa + sb
    | 0x32 => ua - ub
    | 0x33 => sa - sb
    | 0x34 => ua + ub
    | 0x35 => ua + sb
    | 0x36 => ua - ub
    | 0x37 => ua - sb
    | 0x38 => ua * ub
    | 0x3a => sa * ub
    | 0x3b => sa * sb
    | 0x3c => ub * ua + ud
    | 0x3d => sb * sa + ud
    | 0x3e => ub * sa + ud
    | _ => sb * ua + ud)

/-- A reduction: the active elements of vs2 folded onto element 0 of vs1, into element 0 of vd. -/
def VI.reduceInt (x : VI) (dw : Nat) (f : Int → Nat → Int) (init : Nat → Int) : M Unit := do
  let w := x.sew
  require (!x.ill && x.groupOk x.s2 w && x.vs == 0 && decide (dw ≤ 64))
  x.useMask
  x.use x.s2 w
  useV x.s1 1
  waitStrips x.vd 1
  let c ← ctx
  let r := (List.range x.vl).foldl (fun r i => if x.active c i then f r (c.elem x.s2 w i) else r) (init (c.elem x.s1 dw 0))
  x.putScalar dw (uint r dw)

/-- The integer reductions vredsum to vredmax. -/
def VI.redInt (x : VI) (f6 : Nat) : M Unit :=
  let w := x.sew
  let nat (f : Nat → Nat → Nat) : M Unit := x.reduceInt w (fun r e => (f r.toNat e : Nat)) (fun v => v)
  let int (f : Int → Int → Int) : M Unit := x.reduceInt w (fun r e => f r (sint e w)) (fun v => sint v w)
  match f6 with
  | 0 => int (fun a b => a + b)
  | 1 => nat (fun a b => a &&& b)
  | 2 => nat (fun a b => a ||| b)
  | 3 => nat (fun a b => a ^^^ b)
  | 4 => nat (fun a b => min a b)
  | 5 => int (fun a b => min a b)
  | 6 => nat (fun a b => max a b)
  | _ => int (fun a b => max a b)

/-- Mask-register logic below vl. -/
def VI.maskLogic (x : VI) (f : Bool → Bool → Bool) : M Unit := do
  require (!x.ill)
  useV x.s1 1
  useV x.s2 1
  waitStrips x.vd 1
  let c ← ctx
  x.putMask ((List.range x.vl).map (fun i => some (f (c.maskBit x.s2 i) (c.maskBit x.s1 i))))

/-- vzext and vsext by a factor. -/
def VI.extend (x : VI) (k : Nat) (signed : Bool) : M Unit := do
  let w := x.sew
  require (decide (w / k ≥ 8))
  x.elementwise w (w / k) w (.scalar 0) (fun _ _ a _ => if signed then vi w (sint a (w / k)) else vr a)

/-- First active element below vl whose bit of vs2 is set. -/
def VI.firstSet (x : VI) (c : Ctx) : Option Nat :=
  (List.range x.vl).find? (fun i => x.active c i && c.maskBit x.s2 i)

/-- vmsbf, vmsof, vmsif. -/
def VI.setFirst (x : VI) (k : Nat) : M Unit := do
  require (!x.ill && x.vs == 0 && x.vd != x.s2 && (x.vm || x.vd != 0))
  x.useMask
  useV x.s2 1
  waitStrips x.vd 1
  let c ← ctx
  let p := x.firstSet c
  x.putMask ((List.range x.vl).map (fun i => some (match p with
    | none => k != 2
    | some f => match k with
      | 1 => decide (i < f)
      | 2 => i == f
      | _ => decide (i ≤ f))))

/-- viota. -/
def VI.iota (x : VI) : M Unit := do
  let w := x.sew
  require (!x.ill && x.vs == 0 && x.groupOk x.vd w && !overlap x.vd (x.regs w) x.s2 1 && x.maskOk w)
  x.useMask
  useV x.s2 1
  waitStrips x.vd (x.regs w)
  let c ← ctx
  let out := (List.range x.vl).foldl (fun (r : List (Option Nat) × Nat) i =>
    if x.active c i then (r.1 ++ [some (r.2 % 2 ^ w)], r.2 + b2n (c.maskBit x.s2 i)) else (r.1 ++ [none], r.2)) ([], 0)
  x.putGroup w out.1

/-- vid. -/
def VI.ids (x : VI) : M Unit := do
  let w := x.sew
  require (!x.ill && x.groupOk x.vd w && x.maskOk w)
  x.useMask
  waitStrips x.vd (x.regs w)
  x.putGroup w ((List.range x.vl).map (fun i => some (i % 2 ^ w)))

/-- vcompress: the elements of vs2 that vs1 selects, packed; the rest is tail. -/
def VI.compress (x : VI) : M Unit := do
  let w := x.sew
  require (!x.ill && x.vs == 0 && x.groupOk x.vd w && x.groupOk x.s2 w && x.apart2 && !overlap x.vd (x.regs w) x.s1 1)
  x.use x.s2 w
  useV x.s1 1
  waitStrips x.vd (x.regs w)
  let c ← ctx
  let sel := (List.range x.vl).filter (fun i => c.maskBit x.s1 i)
  if x.vl = 0 then pure ()
  else if sel.isEmpty then
    -- every element is tail
    let base ← drawAgnostic (x.total w)
    modCtx (fun c => ((List.range (x.total w)).foldl (fun d i =>
      if x.ta ∧ Config.agnosticOnes (base + i) then d.setElem x.vd w i (ones w) else d) c).dirtyV)
  else ({ x with vl := sel.length } : VI).putGroup w (sel.map (fun i => some (c.elem x.s2 w i)))

/-- vmv.s.x and vfmv.s.f: element 0 where vstart is below vl. -/
def VI.moveToScalar (x : VI) (v : Nat) : M Unit := do
  require (!x.ill)
  waitStrips x.vd 1
  if x.vs ≥ x.vl then pure () else x.putScalar x.sew v

/-- OPMVV and OPMVX, but for the ones that write an x register. -/
def VI.opm (x : VI) (rm : Nat) : M Unit := do
  let f6 := fF6 x.w
  let w := x.sew
  let vec := fF3 x.w == 2#3
  let src := x.intSrc w false
  if vec ∧ f6 < 8 then x.redInt f6
  else if f6 = 0x0e then x.slide1Up (x.op1.toNat % 2 ^ w)
  else if f6 = 0x0f then x.slide1Down (x.op1.toNat % 2 ^ w)
  else if f6 = 0x10 then x.moveToScalar (x.op1.toNat % 2 ^ w)
  else if f6 = 0x12 then
    let k := if x.s1 / 2 = 1 then 8 else if x.s1 / 2 = 2 then 4 else 2
    x.extend k (x.s1 % 2 == 1)
  else if f6 = 0x14 then
    if x.s1 = 0x10 then x.iota else if x.s1 = 0x11 then x.ids else x.setFirst x.s1
  else if f6 = 0x17 then x.compress
  else if 0x18 ≤ f6 ∧ f6 ≤ 0x1f then
    x.maskLogic (match f6 with
      | 0x18 => fun a b => a && !b
      | 0x19 => fun a b => a && b
      | 0x1a => fun a b => a || b
      | 0x1b => fun a b => a != b
      | 0x1c => fun a b => a || !b
      | 0x1d => fun a b => !(a && b)
      | 0x1e => fun a b => !(a || b)
      | _ => fun a b => a == b)
  else if 0x34 ≤ f6 ∧ f6 ≤ 0x37 then
    x.elementwise (2 * w) (2 * w) w src (fun _ d a b => opmWiden f6 w d a b)
  else if 0x30 ≤ f6 then
    x.elementwise (2 * w) w w src (fun _ d a b => opmWiden f6 w d a b)
  else x.elementwise w w w src (fun _ d a b => opmFn f6 rm w d a b)

/-- vwredsumu and vwredsum. -/
def VI.wideRed (x : VI) : M Unit :=
  let w := x.sew
  if fF6 x.w = 0x30 then x.reduceInt (2 * w) (fun r e => r + (e : Int)) (fun v => v)
  else x.reduceInt (2 * w) (fun r e => r + sint e w) (fun v => sint v (2 * w))

end Sys2Proof.Machine
end

