-- ==== Sys2Proof/Machine/VecFp.lean ====
section
/-! DEFINITION. The floating-point instructions of V 1.0 at SEW 32 and 64 (spec/02_numbers.md R43 to R45, R62, R64;
spec/03_encoding.md R67; the meanings are the standard's, PRESUMED, log entry 13). -/

namespace Sys2Proof.Machine

open Sys2Proof

/-- Format of an element width. -/
def fpW (w : Nat) : BinFmt := if w = 64 then binary64 else binary32

/-- A rounded result. -/
def vf (r : Nat × FFlags) : VRes := { v := r.1, fl := r.2 }

/-- A product with its sign, plus an addend with its sign, rounded once. -/
def mulAdd (f : BinFmt) (rm : Nat) (negP negC : Bool) (a b c : FV) : VRes :=
  vf (f.fma rm (if negP then a.neg else a) b (if negC then c.neg else c))

/-- Single-width operations: d the old destination, a from vs2, b the second operand. -/
def opfFn (f6 rm w d a b : Nat) : VRes :=
  let f := fpW w
  let vd := f.val d
  let va := f.val a
  let vb := f.val b
  match f6 with
  | 0x00 => vf (f.add rm a b)
  | 0x02 => vf (f.sub rm a b)
  | 0x04 => vf (f.minmax false a b)
  | 0x06 => vf (f.minmax true a b)
  | 0x08 => vr (f.sgnj .sgnj a b)
  | 0x09 => vr (f.sgnj .sgnjn a b)
  | 0x0a => vr (f.sgnj .sgnjx a b)
  | 0x20 => vf (f.div rm a b)
  | 0x21 => vf (f.div rm b a)
  | 0x24 => vf (f.mul rm a b)
  | 0x27 => vf (f.sub rm b a)
  | 0x28 => mulAdd f rm false false vb vd va
  | 0x29 => mulAdd f rm true true vb vd va
  | 0x2a => mulAdd f rm false true vb vd va
  | 0x2b => mulAdd f rm true false vb vd va
  | 0x2c => mulAdd f rm false false vb va vd
  | 0x2d => mulAdd f rm true true vb va vd
  | 0x2e => mulAdd f rm false true vb va vd
  | _ => mulAdd f rm true false vb va vd

/-- Widening operations to width 2w. -/
def opfWiden (f6 rm w d a b : Nat) : VRes :=
  let f := fpW w
  let g := fpW (2 * w)
  let vb := f.val b
  let va := f.val a
  let wa := g.val a
  let vd := g.val d
  match f6 with
  | 0x30 => vf (g.out rm (va.add rm vb))
  | 0x32 => vf (g.out rm (va.add rm vb.neg))
  | 0x34 => vf (g.out rm (wa.add rm vb))
  | 0x36 => vf (g.out rm (wa.add rm vb.neg))
  | 0x38 => vf (g.out rm (va.mul vb))
  | 0x3c => mulAdd g rm false false vb va vd
  | 0x3d => mulAdd g rm true true vb va vd
  | 0x3e => mulAdd g rm false true vb va vd
  | _ => mulAdd g rm true false vb va vd

/-- Comparisons of a with b. -/
def opfCmp (f6 w a b : Nat) : Bool × FFlags :=
  let f := fpW w
  match f6 with
  | 0x18 => f.cmp .eq a b
  | 0x19 => f.cmp .le a b
  | 0x1b => f.cmp .lt a b
  | 0x1c =>
    let (r, g) := f.cmp .eq a b
    (!r, g)
  | 0x1d => f.cmp .lt b a
  | _ => f.cmp .le b a

/-- Float to integer of width n. -/
def cvtI (rm w n : Nat) (signed : Bool) (a : Nat) : VRes := vf (((fpW w).val a).toIntSat rm signed n)

/-- Integer of width n to float of width w. -/
def cvtF (rm w n : Nat) (signed : Bool) (a : Nat) : VRes :=
  vf ((fpW w).ofInt rm (if signed then sint a n else (a % 2 ^ n : Nat)))

/-- The conversions of VFUNARY0 at SEW w. -/
def VI.convert (x : VI) (rm : Nat) : M Unit := do
  let w := x.sew
  let k := x.s1
  -- the low three bits say what to convert, the rest how the width changes
  let go (dw aw : Nat) (f : Nat → VRes) : M Unit := x.elementwise dw aw w (.scalar 0) (fun _ _ a _ => f a)
  if k < 8 then
    go w w (match k with
      | 0 => cvtI rm w w false
      | 1 => cvtI rm w w true
      | 2 => cvtF rm w w false
      | 3 => cvtF rm w w true
      | 6 => cvtI 1 w w false
      | _ => cvtI 1 w w true)
  else
    require (w == 32)
    if k < 16 then
      go 64 32 (match k with
        | 8 => cvtI rm 32 64 false
        | 9 => cvtI rm 32 64 true
        | 10 => cvtF rm 64 32 false
        | 11 => cvtF rm 64 32 true
        | 12 => fun a => vf (binary64.conv binary32 rm a)
        | 14 => cvtI 1 32 64 false
        | _ => cvtI 1 32 64 true)
    else
      go 32 64 (match k with
        | 16 => cvtI rm 64 32 false
        | 17 => cvtI rm 64 32 true
        | 18 => cvtF rm 32 64 false
        | 19 => cvtF rm 32 64 true
        | 20 => fun a => vf (binary32.conv binary64 rm a)
        | 21 => fun a => vf (binary32.conv binary64 5 a)
        | 22 => cvtI 1 64 32 false
        | _ => cvtI 1 64 32 true)

/-- VFUNARY1: square root, estimates, classes. -/
def VI.unary1 (x : VI) (rm : Nat) : M Unit := do
  let w := x.sew
  let f := fpW w
  x.elementwise w w w (.scalar 0) (fun _ _ a _ =>
    match x.s1 with
    | 0 => vf (f.sqrt rm a)
    | 4 => vf (f.rsqrt7 a)
    | 5 => vf (f.rec7 rm a)
    | _ => vr (f.cls a))

/-- The element at a position and the rest of a list. -/
def pickAt (k : Nat) (l : List FV) : FV × List FV := (l.getD k (.num false 0 0), l.eraseIdx k)

/-- An unordered sum: n times two values, of the model's free choice, are added (log entry 11). -/
def unordered (f : BinFmt) (rm : Nat) : Nat → Nat → List FV → FFlags → FV × FFlags
  | 0, _, l, g => (l.headD (.num false 0 0), g)
  | n + 1, base, l, g =>
    let p := Config.sumPick base
    let (a, l1) := pickAt (p % l.length) l
    let (b, l2) := pickAt (p / l.length % l1.length) l1
    let (r, h) := f.addV rm a b
    unordered f rm n (base + 1) (r :: l2) (g.join h)

/-- A floating-point reduction from vs2 at SEW into element 0 of vd at width dw. -/
def VI.reduceFp (x : VI) (dw : Nat) (f : Nat → List Nat → M (Nat × FFlags)) : M Unit := do
  let w := x.sew
  require (!x.ill && x.groupOk x.s2 w && x.vs == 0 && decide (dw ≤ 64))
  x.useMask
  x.use x.s2 w
  useV x.s1 1
  waitStrips x.vd 1
  let c ← ctx
  if x.vl = 0 then pure ()
  else
    let l := ((List.range x.vl).filter (fun i => x.active c i)).map (fun i => c.elem x.s2 w i)
    let init := c.elem x.s1 dw 0
    let (r, g) ← if l.isEmpty then pure ((fpW dw).alone init, {}) else f init l
    x.putScalar dw r
    accrue g

/-- vfredosum, vfredusum, vfredmin, vfredmax and the widening sums; what each gives with no active element is `BinFmt.alone`. -/
def VI.redFp (x : VI) (rm : Nat) : M Unit := do
  let f6 := fF6 x.w
  let w := x.sew
  let wide := f6 == 0x31 || f6 == 0x33
  let dw := if wide then 2 * w else w
  require (!wide || w == 32)
  let f := fpW w
  let g := fpW dw
  x.reduceFp dw (fun init l => do
    match f6 with
    | 0x05 => return l.foldl (fun r e => let (v, h) := f.minmax false r.1 e; (v, r.2.join h)) (init, {})
    | 0x07 => return l.foldl (fun r e => let (v, h) := f.minmax true r.1 e; (v, r.2.join h)) (init, {})
    | 0x03 => return orderedSum f rm init l
    | 0x33 => return l.foldl (fun r e =>
        let (v, h) := g.out rm ((g.val r.1).add rm (f.val e)); (v, r.2.join h)) (init, {})
    | _ =>
      let base ← drawAgnostic l.length
      let (v, h) := unordered g rm l.length base (g.val init :: l.map f.val) {}
      return ((g.enc rm v).1, h))

/-- OPFVV and OPFVF, but for vfmv.f.s. -/
def VI.opf (x : VI) : M Unit := do
  let c ← ctx
  let rm := c.frm
  let w := x.sew
  let f6 := fF6 x.w
  let vec := fF3 x.w == 1#3
  require (c.fs ≠ 0 && (w == 32 || w == 64) && decide (rm ≤ 4))
  let src := x.fpSrc w
  let scalar := match src with
    | .scalar v => v
    | .vec => 0
  if vec ∧ (f6 = 1 ∨ f6 = 3 ∨ f6 = 5 ∨ f6 = 7 ∨ f6 = 0x31 ∨ f6 = 0x33) then x.redFp rm
  else if f6 = 0x0e then x.slide1Up scalar
  else if f6 = 0x0f then x.slide1Down scalar
  else if f6 = 0x10 then x.moveToScalar scalar
  else if f6 = 0x12 then x.convert rm
  else if f6 = 0x13 then x.unary1 rm
  else if f6 = 0x17 then (if x.vm then x.broadcast src else x.merge src)
  else if 0x18 ≤ f6 ∧ f6 ≤ 0x1f then x.toMask w src (fun _ a b => opfCmp f6 w a b)
  else if 0x30 ≤ f6 then
    require (w == 32)
    let aw := if f6 = 0x34 ∨ f6 = 0x36 then 64 else 32
    x.elementwise 64 aw 32 src (fun _ d a b => opfWiden f6 rm w d a b)
  else x.elementwise w w w src (fun _ d a b => opfFn f6 rm w d a b)

end Sys2Proof.Machine
end

