-- ==== Sys2Proof/Machine/VecMem.lean ====
section
/-! DEFINITION. The vector loads and stores of V 1.0: unit-stride, strided, indexed, segment, whole-register, mask and
fault-only-first accesses, precise at their element (spec/03_encoding.md R67; spec/05_ordering.md R124; spec/07_context.md
R191; the meanings are the standard's, PRESUMED, log entry 13). -/

namespace Sys2Proof.Machine

open Sys2Proof

/-- Element width in the width field. -/
def VI.eew (x : VI) : Nat :=
  match (fF3 x.w).toNat with
  | 0 => 8 | 5 => 16 | 6 => 32 | _ => 64

/-- Number of fields. -/
def VI.nf (x : VI) : Nat := (x.w.extractLsb' 29 3).toNat + 1
/-- Addressing mode: 0 unit-stride, 1 and 3 indexed, 2 strided. -/
def VI.mop (x : VI) : Nat := (x.w.extractLsb' 26 2).toNat
def VI.store (x : VI) : Bool := isVStore x.w
def VI.unit (x : VI) (sel : Nat) : Bool := x.mop == 0 && x.s2 == sel

/-- vstart as a running access leaves it when it stops before element i. -/
def setVstart (i : Nat) : M Unit := modCtx (fun c => { c with vstart := w64 i })

/-- The bytes of the fields of one element, read before any is written: field f lies at va + f * width. -/
def loadFields (w : Nat) (va : Word) : List Nat → M (List (Nat × Nat))
  | [] => return []
  | f :: fs => do
    let bs ← loadBytes (va + w64 (f * (w / 8))) (w / 8)
    return (f, leNat bs) :: (← loadFields w va fs)

/-- The checks of the stores of an element's fields, each with its own trap value, before any byte is written. -/
def storeFields (w : Nat) (va : Word) : List Nat → M (List (Target × Word × Nat))
  | [] => return []
  | f :: fs => do
    let a := va + w64 (f * (w / 8))
    let ts ← translateParts .store a (pageParts a (w / 8))
    return ts ++ (← storeFields w va fs)

/-- Every byte of the 32-byte block at a virtual address is one that the active elements from `lo` to i store, nf fields of w bits
each. -/
def VI.covers (x : VI) (c : Ctx) (w nf lo i : Nat) (addr : Nat → Word) (block : Word) : Bool :=
  let by_ (j : Nat) (a : Word) : Bool :=
    x.active c j && (List.range nf).any (fun f => decide ((a - (addr j + w64 (f * (w / 8)))).toNat < w / 8))
  (List.range 32).all (fun k => (List.range (i + 1 - lo)).any (fun d => by_ (i - d) (block + w64 k)))

/-- The poison of the blocks that a part of an element's store touches clears where the instruction has now written all 32 bytes
of them (spec/06_page.md R165): the store that R165 speaks of is the whole vector store, whose elements `whole` looks at, from
the one at which it began (DEDUCED, log entry 48). -/
def clearWhole (whole : Word → Bool) (p : Target × Word × Nat) : M Unit := do
  let (t, va, n) := p
  upd (fun s =>
    (blocks t.a n).foldl (fun s b =>
      let g := (scratchAt b).1
      let remote : Bool := t.sram && rangeOf t.a == .scratch && g != s.cur.gcore
      if (remote || s.poisonAt s.cur t b) && whole (va - va % 32#64 + w64 (b - blk t.a)) then
        s.clearBlock s.cur t b
      else s) s)

/-- The fields of one element, moved: an element that traps or waits leaves none of them moved (R191; spec/00_scope.md R8).
Field f of the element is in the group f groups on. -/
def VI.moveFields (x : VI) (w regs i : Nat) (va : Word) (fs : List Nat) (whole : Word → Bool) : M Unit := do
  if x.store then
    let ts ← storeFields w va fs
    stallParts true ts
    let c ← ctx
    storeParts ts (fs.flatMap (fun f => leBytes (w / 8) (c.elem (x.vd + f * regs) w i)))
    ts.forM (clearWhole whole)
    accessDone .store va (fs.length * (w / 8))
  else
    let vs ← loadFields w va fs
    modCtx (fun c => (vs.foldl (fun c v => c.setElem (x.vd + v.1 * regs) w i v.2) c).dirtyV)

/-- The elements of an access, from vstart on: an element that traps or waits leaves vstart naming it (R191). -/
def VI.moveElems (x : VI) (w regs nf : Nat) (addr : Nat → Word) : List Nat → M Unit
  | [] => pure ()
  | i :: is => do
    setVstart i
    let c ← ctx
    if x.active c i then x.moveFields w regs i (addr i) (List.range nf) (x.covers c w nf (c.vfrom.getD x.vs) i addr)
    else pure ()
    x.moveElems w regs nf addr is

/-- Elements vstart to n - 1. -/
def VI.span (x : VI) (n : Nat) : List Nat := (List.range n).filter (fun i => decide (x.vs ≤ i))

/-- Mask and tail policy of a load after its elements have landed, field by field. -/
def VI.loadPolicy (x : VI) (w regs : Nat) : List Nat → M Unit
  | [] => pure ()
  | f :: fs => do
    let n := regs * 512 / w
    let base ← drawAgnostic n
    modCtx (fun c => (List.range n).foldl (fun d i =>
      let agn := Config.agnosticOnes (base + i)
      if i < x.vs then d
      else if i < x.vl then (if !x.active c i && x.ma && agn then d.setElem (x.vd + f * regs) w i (ones w) else d)
      else if x.ta && agn then d.setElem (x.vd + f * regs) w i (ones w)
      else d) c)
    x.loadPolicy w regs fs

/-- A strided, unit-stride or indexed access of nf fields. -/
def VI.access (x : VI) (w regs nf : Nat) (addr : Nat → Word) : M Unit := do
  x.moveElems w regs nf addr (x.span x.vl)
  if x.store ∨ x.vs ≥ x.vl then pure () else x.loadPolicy w regs (List.range nf)

/-- Legality of a data group: EMUL, alignment, eight registers at most for all fields, inside the file, and no masked load
over v0. -/
def VI.dataOk (x : VI) (w nf : Nat) : Bool :=
  x.groupOk x.vd w && decide (nf * x.regs w ≤ 8) && decide (x.vd + nf * x.regs w ≤ 32)
    && (x.store || x.vm || x.vd != 0)

/-- Uses of the data registers: a store reads them, a load writes them. -/
def VI.useRegs (x : VI) (n : Nat) : M Unit := if x.store then useV x.vd n else waitStrips x.vd n

/-- Uses of the mask and of the data registers. -/
def VI.useData (x : VI) (n : Nat) : M Unit := do
  x.useMask
  x.useRegs n

/-- Fault-only-first: a trap of an element past the first active one is not taken; it cuts vl. -/
def VI.fofElems (x : VI) (w regs nf : Nat) (addr : Nat → Word) : List Nat → M Nat
  | [] => return x.vl
  | i :: is => do
    setVstart i
    let c ← ctx
    let ok ← (if x.active c i then
        tryCatch (do x.moveFields w regs i (addr i) (List.range nf) (fun _ => false); return true)
          (fun e => match e with
            | .trap cause tval => if i = 0 then trap cause tval else return false
            | e => throw e)
      else return true)
    if ok then x.fofElems w regs nf addr is else return i

/-- Legality of a load or store from its word and vtype. -/
def VI.memOk (x : VI) : Bool :=
  if x.unit 8 then x.vd % x.nf == 0
  else if x.ill then false
  else if x.unit 0x0b then true
  else if x.mop = 1 ∨ x.mop = 3 then
    x.dataOk x.sew x.nf && x.groupOk x.s2 x.eew
      && (x.store || (if x.nf = 1 then x.overlapOk x.vd x.sew x.s2 x.eew
                      else !overlap x.vd (x.nf * x.regs x.sew) x.s2 (x.regs x.eew)))
  else x.dataOk x.eew x.nf

/-- A standard vector load or store at the head of the sequencer. -/
def VI.mem (x : VI) : M Unit := do
  let w := x.eew
  let nf := x.nf
  require x.memOk
  modCtx (fun c => { c with vfrom := some (c.vfrom.getD x.vs) })
  if x.unit 8 then
    -- whole registers: no vtype, no mask
    let n := nf * 512 / w
    x.useRegs nf
    ({ x with vl := n } : VI).moveElems w 0 1 (fun i => x.op1 + w64 (i * (w / 8))) (x.span n)
  else if x.unit 0x0b then
    -- mask load and store: ceil(vl / 8) bytes
    let n := ceilDiv x.vl 8
    x.useData 1
    let y : VI := { x with vl := n }
    y.moveElems 8 1 1 (fun i => x.op1 + w64 i) (x.span n)
    if x.store ∨ x.vs ≥ n then pure ()
    else ({ y with vt := y.vt ||| 0x40#64 } : VI).loadPolicy 8 1 [0]
  else if x.mop = 1 ∨ x.mop = 3 then
    let regs := x.regs x.sew
    x.useData (nf * regs)
    x.use x.s2 w
    let c ← ctx
    x.access x.sew regs nf (fun i => x.op1 + w64 (c.elem x.s2 w i))
  else
    let regs := x.regs w
    x.useData (nf * regs)
    let step := if x.mop = 2 then x.op2 else w64 (nf * (w / 8))
    let addr (i : Nat) : Word := x.op1 + w64 i * step
    if x.unit 0x10 then
      let n ← x.fofElems w regs nf addr (x.span x.vl)
      modCtx (fun c => ({ c with vl := n }).dirtyV)
      let y : VI := { x with vl := n }
      if y.vs ≥ n then pure () else y.loadPolicy w regs (List.range nf)
    else x.access w regs nf addr

/-- Bytes that one pass of a captured loop advances the base of a unit-stride access (spec/08_vector.md R243). -/
def VI.advance (x : VI) : Nat :=
  if x.unit 0x0b then ceilDiv x.vl 8 else x.vl * (x.eew / 8)

end Sys2Proof.Machine
end

