-- ==== Sys2Proof/Machine/VecRz.lean ====
section
/-! DEFINITION. The Ramzil vector instructions of custom-1 at the head of the sequencer: shifts, scans, tree reductions, the mask
stack, M8D and block-scale conversions (spec/08_vector.md R228 to R240, R247 to R249; spec/02_numbers.md R45 to R64). -/

namespace Sys2Proof.Machine

open Sys2Proof

/-- Legality common to the chapter: vtype, vstart, groups, and a masked vd that does not overlap v0 (R226, R228). -/
def VI.rzOk (x : VI) (dw : Nat) : Bool := !x.ill && x.vs == 0 && x.groupOk x.vd dw && x.maskOk dw

/-- Illegal instruction where the floating-point unit is Off (spec/03_encoding.md R73). -/
def needFs : M Unit := do
  let c ← ctx
  require (c.fs ≠ 0)

/-- The dynamic rounding mode, which must be a legal one (R67). -/
def dynRm : M Nat := do
  let c ← ctx
  require (c.fs ≠ 0 && decide (c.frm ≤ 4))
  return c.frm

/-! ### R230 -/

/-- The operations of R230 on elements of width w; n is the amount, from bits 7:0 of the amount operand. -/
def shiftFn (k rm w a b : Nat) : VRes :=
  let n := b % 256
  let sa := sint a w
  let sb := sint b w
  match k with
  | 0 => if sa = 0 then vr 0 else clampS w (sa * (2 ^ min n w : Nat))
  | 1 => vr (a / 2 ^ n)
  | 2 => vi w (sa / (2 ^ min n w : Nat))
  | 3 => if n ≥ w then vi w (sa / (2 ^ w : Nat)) else vi w (roundoff rm sa n)
  | 4 => vi w (if sa ≥ sb then sa - sb else sb - sa)
  | _ => vi w ((sa + sb + 1) / 2)

/-- vx.sshl, vx.srl, vx.sra, vx.rsra, vx.absd, vx.avgr (k = 0 to 5), and the forms with a scalar amount. -/
def VI.rzElem (x : VI) (k : Nat) (src : VSrc) : M Unit := do
  let w := x.sew
  require (x.rzOk w && x.groupOk x.s2 w && (match src with | .vec => x.groupOk x.s1 w | _ => true))
  x.useMask
  x.use x.s2 w
  x.useSrc src w
  waitStrips x.vd (x.regs w)
  let c ← ctx
  let rm := c.vxrm.toNat
  let rs := (List.range x.vl).map (fun i =>
    if x.active c i then some (shiftFn k rm w (c.elem x.s2 w i) (match src with | .vec => c.elem x.s1 w i | .scalar v => v))
    else none)
  x.putGroup w (rs.map (fun r => r.map (·.v)))
  putEffects (rs.filterMap id)

/-! ### Scans (R233) -/

/-- One step of a scan: the new chain value, the output, the flags. -/
def scanFn (k rm w c e : Nat) : Nat × Nat × FFlags :=
  let sc := sint c w
  let se := sint e w
  match k with
  | 3 => let v := (c + e) % 2 ^ w; (v, v, {})
  | 4 => let v := uint (min sc se) w; (v, v, {})
  | 5 => let v := uint (max sc se) w; (v, v, {})
  | 6 => (min c e, min c e, {})
  | 7 => (max c e, max c e, {})
  | 8 => let (v, g) := (fpW w).add rm c e; (v, v, g)
  | _ => ((c + e) % 2 ^ w, c, {})

/-- vx.scanadd to vx.escanadd (k is funct6); an inactive destination element is left alone whatever vma holds. -/
def VI.scan (x : VI) (k : Nat) : M Unit := do
  let w := x.sew
  require (x.rzOk w && x.groupOk x.s2 w)
  let rm ← if k = 8 then (do require (w == 32 || w == 64); dynRm) else pure 0
  x.useMask
  x.use x.s2 w
  useV x.s1 1
  waitStrips x.vd (x.regs w)
  let c ← ctx
  let out := (List.range x.vl).foldl (fun (r : List (Option Nat) × Nat × FFlags) i =>
    if x.active c i then
      let (v, o, g) := scanFn k rm w r.2.1 (c.elem x.s2 w i)
      (r.1 ++ [some o], v, r.2.2.join g)
    else (r.1 ++ [none], r.2)) ([], c.elem x.s1 w 0, {})
  x.unmasked.putGroup w out.1
  if x.vl = 0 then pure () else accrue out.2.2

/-! ### Tree reductions (R234, R235) -/

/-- vx.fredtsum (dot = false) and vx.fdott. -/
def VI.tree (x : VI) (dot : Bool) : M Unit := do
  let w := x.sew
  require (!x.ill && x.vs == 0 && (w == 32 || w == 64) && x.groupOk x.s2 w && (!dot || x.groupOk x.s1 w) && (x.vm || x.vd != 0))
  let rm ← dynRm
  x.useMask
  x.use x.s2 w
  if dot then x.use x.s1 w else useV x.s1 1
  if dot then useV x.vd 1 else waitStrips x.vd 1
  let c ← ctx
  let f := fpW w
  if x.vl = 0 then pure ()
  else
    let leaves := (List.range x.vl).map (fun i =>
      if x.active c i then
        some (if dot then (f.val (c.elem x.s2 w i)).mul (f.val (c.elem x.s1 w i)) else f.val (c.elem x.s2 w i))
      else none)
    let (r, g) := treeReduce f rm (c.elem (if dot then x.vd else x.s1) w 0) leaves
    x.putScalar w r
    accrue g

/-! ### The mask stack (R236 to R240) -/

/-- A failing spill or fill raises cause 24 in place of its page fault or access fault (R240). -/
def asMaskFault {α : Type} (a : Word) (m : M α) : M α :=
  tryCatch m (fun e => match e with
    | .trap cause tval => if cause = 5 ∨ cause = 7 ∨ cause = 13 ∨ cause = 15 then trap 24 a else trap cause tval
    | e => throw e)

/-- Hardware entry i of the mask stack. -/
def Ctx.hwAt (c : Ctx) (i : Nat) : VReg := c.hw.get 0#512 i

/-- vx.mif vs2. -/
def VI.mif (x : VI) : M Unit := do
  useV 0 1
  useV x.s2 1
  let c ← ctx
  let d := c.vmsp.toNat
  if d = 65535 then trap 24 0#64
  else
    if d ≥ 8 then
      let a := c.vmsbase + w64 (64 * (d - 8))
      asMaskFault a (storeBytes a (leBytes 64 (c.hwAt 0).toNat))
    else pure ()
    modCtx (fun c =>
      let hw := if d ≥ 8 then
          ((List.range 7).foldl (fun t i => t.put i (c.hwAt (i + 1))) c.hw).put 7 (c.getV 0)
        else c.hw.put d (c.getV 0)
      ({ c with hw := hw, vmsp := w64 (d + 1) }.setV 0 (c.getV 0 &&& c.getV x.s2)).dirtyV)

/-- vx.melse. -/
def VI.melse (_x : VI) : M Unit := do
  useV 0 1
  let c ← ctx
  let d := c.vmsp.toNat
  if d = 0 then trap 24 0#64
  else modCtx (fun c => (c.setV 0 (c.hwAt (min d 8 - 1) &&& ~~~(c.getV 0))).dirtyV)

/-- vx.mpop. -/
def VI.mpop (_x : VI) : M Unit := do
  useV 0 1
  let c ← ctx
  let d := c.vmsp.toNat
  if d = 0 then trap 24 0#64
  else
    let top := c.hwAt (min d 8 - 1)
    if d > 8 then
      let a := c.vmsbase + w64 (64 * (d - 9))
      let f ← asMaskFault a (loadBytes a 64)
      modCtx (fun c => { c with
        hw := ((List.range 7).foldl (fun t i => t.put (i + 1) (c.hwAt i)) c.hw).put 0 (BitVec.ofNat 512 (leNat f)) })
    else pure ()
    modCtx (fun c => ({ c with vmsp := w64 (d - 1) }.setV 0 top).dirtyV)

/-! ### M8D and block scales (R247 to R249) -/

/-- The vtype that the conversions need: SEW 32, LMUL from 1/2 up. -/
def VI.cvtOk (x : VI) : Bool := !x.ill && x.vs == 0 && x.sew == 32 && decide (x.lm ≥ 4)

/-- Block size in force. -/
def VI.vbs (x : VI) : Nat := vbsSize (wfld x.vt 10 8)

/-- An elementwise conversion from width aw to width dw; f takes the element number. -/
def VI.cvt (x : VI) (dw aw : Nat) (scaled : Bool) (f : Ctx → Nat → Nat → VRes) : M Unit := do
  require (x.cvtOk && x.groupOk x.vd dw && x.groupOk x.s2 aw && x.maskOk dw)
  x.useMask
  x.use x.s2 aw
  if scaled then useV x.s1 1 else pure ()
  waitStrips x.vd (x.regs dw)
  let c ← ctx
  let rs := (List.range x.vl).map (fun i => if x.active c i then some (f c i (c.elem x.s2 aw i)) else none)
  x.putGroup dw (rs.map (fun r => r.map (·.v)))
  putEffects (rs.filterMap id)

/-- vx.bsdec on one element. -/
def bsdec (sc code : Nat) : VRes :=
  if sc = 0 then vr 0
  else if sc = 255 then vr binary32.nan
  else
    match m8Val code with
    | .num n m e =>
      if m = 0 then vr 0
      else
        let (b, g) := binary32.roundRat 0 n m (e + s8Exp sc) m8Den
        { v := b, fl := g }
    | v => vr (binary32.enc 0 v).1

/-- vx.bsenc on one element. -/
def bsenc (sc y : Nat) : VRes :=
  if sc = 0 then vr 0
  else if sc = 255 then vr 0x80
  else
    let (b, g) := m8Encode true ((binary32.val y).scale (-(s8Exp sc)))
    { v := b, fl := g }

/-- m * 2^e is at most 10^5 * 2^k. -/
def within (m : Nat) (e k : Int) : Bool := decide (signedAt false m e (min e k) ≤ signedAt false (10 ^ 5) k (min e k))

/-- The S8 code that vx.bsfind gives a set of binary32 elements. -/
def bsfind (ys : List FV) : Nat :=
  if ys.any (·.isNan) then 255
  else if ys.all (fun y => match y with | .num _ m _ => m == 0 | _ => false) then 0
  else if ys.any (fun y => match y with | .inf _ => true | _ => false) then 254
  else
    ((List.range 254).find? (fun c => decide (1 ≤ c) && ys.all (fun y => match y with
      | .num _ m e => within m e (s8Exp c)
      | _ => true))).getD 254

/-- vx.bsfind. -/
def VI.bsfindOp (x : VI) : M Unit := do
  require (x.cvtOk && x.vbs != 0 && x.groupOk x.s2 32 && (x.vm || x.vd != 0))
  x.useMask
  x.use x.s2 32
  waitStrips x.vd 1
  let c ← ctx
  let b := x.vbs
  let n := ceilDiv x.vl (if b = 0 then 1 else b)
  let codes := (List.range n).map (fun k =>
    bsfind (((List.range x.vl).filter (fun i => i / b == k && x.active c i)).map (fun i => binary32.val (c.elem x.s2 32 i))))
  -- element 0 to n - 1 of one register at EEW 8, the rest tail
  let base ← drawAgnostic 64
  if x.vl = 0 then pure ()
  else
    modCtx (fun c => ((List.range 64).foldl (fun d i =>
      if i < n then d.setElem x.vd 8 i (codes.getD i 0)
      else if x.ta ∧ Config.agnosticOnes (base + i) then d.setElem x.vd 8 i 255
      else d) c).dirtyV)

/-- The conversions of funct3 110. -/
def VI.rzConv (x : VI) (k : Nat) : M Unit := do
  match k with
  | 0 =>
    needFs
    x.cvt 8 32 false (fun _ _ a => vf (m8Encode (x.w.getLsbD 15) (binary32.val a)))
  | 1 => x.cvt 32 8 false (fun _ _ a => vr (m8Decode a))
  | 2 =>
    needFs
    require (x.vbs != 0)
    x.cvt 32 8 true (fun c i a => bsdec (c.elem x.s1 8 (i / x.vbs)) a)
  | 3 =>
    needFs
    require (x.vbs != 0)
    x.cvt 8 32 true (fun c i a => bsenc (c.elem x.s1 8 (i / x.vbs)) a)
  | _ => x.bsfindOp

end Sys2Proof.Machine
end

