-- ==== Sys2Proof/Machine/VecTex.lean ====
section
/-! DEFINITION. Texture sampling: vx.tex and vx.texg (spec/08_vector.md R250 to R254). -/

namespace Sys2Proof.Machine

open Sys2Proof

/-- A texture descriptor (R250). -/
structure TexDesc where
  base   : Nat
  width  : Nat
  height : Nat
  levels : Nat
  filt   : Bool
  clampX : Bool
  clampY : Bool
deriving DecidableEq, Repr

/-- The descriptor in 64 bytes, none where it breaks R250. -/
def texDesc (bs : List Byte) : Option TexDesc :=
  let n := leNat bs
  let w := fld n 79 64
  let h := fld n 95 80
  let lv := fld n 103 96
  let mode := fld n 119 112
  if fld n 63 0 % 4 ≠ 0 ∨ w < 1 ∨ w > 16384 ∨ h < 1 ∨ h > 16384 ∨ lv < 1 ∨ lv > 15 ∨ fld n 111 104 ≠ 0 ∨ mode ≥ 8
      ∨ fld n 511 120 ≠ 0 then none
  else some { base := fld n 63 0, width := w, height := h, levels := lv,
              filt := mode.testBit 0, clampX := mode.testBit 1, clampY := mode.testBit 2 }

/-- Width and height of level l (R251). -/
def TexDesc.size (d : TexDesc) (l : Nat) : Nat × Nat := (Nat.max 1 (d.width / 2 ^ l), Nat.max 1 (d.height / 2 ^ l))

/-- Texels of all levels below l. -/
def TexDesc.below (d : TexDesc) (l : Nat) : Nat :=
  (List.range l).foldl (fun n m => n + (d.size m).1 * (d.size m).2) 0

/-- Address of a texel (R251). -/
def TexDesc.texel (d : TexDesc) (l x y : Nat) : Word := w64 (d.base + 4 * d.below l + 4 * (y * (d.size l).1 + x))

/-- A value rounded to binary32, to the nearest, ties to even. -/
def rne32 (v : FV) : FV := binary32.val (binary32.enc 0 v).1

/-- Floor of a finite value, and the exact rest. -/
def floorFrac (v : FV) : Int × FV :=
  match v with
  | .num n m e =>
    let s : Int := if n then -(m : Int) else m
    match e with
    | .ofNat k => (s * (2 ^ k : Nat), .num false 0 0)
    | .negSucc k =>
      let p : Int := (2 ^ (k + 1) : Nat)
      (s / p, FV.ofInt (s % p) e)
  | _ => (0, .num false 0 0)

/-- The integer and the fraction of a coordinate (R252). -/
def texPlace (c : FV) (n : Nat) (half : Bool) : Int × FV :=
  let c : FV := match c with
    | .num s m e => .num s m e
    | _ => .num false 0 0
  let a : FV := match rne32 (c.mul (FV.ofInt n 0)) with
    | .inf s => binary32.val (binary32.sgn s + 0x7F7FFFFF)
    | v => v
  let a := if half then rne32 (a.add 0 (.num true 1 (-1))) else a
  floorFrac a

/-- A texel index made to fit (R252). -/
def texFit (i : Int) (n : Nat) (clamp : Bool) : Nat :=
  if clamp then (max 0 (min i ((n : Int) - 1))).toNat else (i % (n : Int)).toNat

/-- One channel of a bilinear blend (R253). -/
def texBlend (w c : List FV) : Nat :=
  match w.zipWith (fun a b => rne32 (a.mul b)) c with
  | p :: ps =>
    let acc := ps.foldl (fun (s p : FV) => rne32 (s.add 0 p)) p
    min 255 (acc.toIntSat 0 false 32).1
  | [] => 0

/-- Byte k of a texel's four. -/
def chan (t : List Byte) (k : Nat) : Nat := (nth t k 0#8).toNat

/-- Texels loaded in order. -/
def loadTexels : List Word → M (List (List Byte))
  | [] => return []
  | a :: r => do
    let t ← loadBytes a 4
    let ts ← loadTexels r
    return t :: ts

/-- The value of one element: gather says vx.texg. -/
def texElem (d : TexDesc) (gather : Bool) (sel l s t : Nat) : M Nat := do
  let (wl, hl) := d.size l
  let half := d.filt || gather
  let (x0, fx) := texPlace (binary32.val s) wl half
  let (y0, fy) := texPlace (binary32.val t) hl half
  let xa := texFit x0 wl d.clampX
  let xb := texFit (x0 + 1) wl d.clampX
  let ya := texFit y0 hl d.clampY
  let yb := texFit (y0 + 1) hl d.clampY
  if !half then
    let ts ← loadTexels [d.texel l xa ya]
    return leNat (ts.headD [])
  else
    let ts ← loadTexels [d.texel l xa ya, d.texel l xb ya, d.texel l xa yb, d.texel l xb yb]
    if gather then return leNat (ts.map (fun t => nth t sel 0#8))
    else
      let one := FV.num false 1 0
      let gx := rne32 (one.add 0 fx.neg)
      let gy := rne32 (one.add 0 fy.neg)
      let w := [rne32 (gx.mul gy), rne32 (fx.mul gy), rne32 (gx.mul fy), rne32 (fx.mul fy)]
      return leNat ((List.range 4).map (fun ch =>
        BitVec.ofNat 8 (texBlend w (ts.map (fun t => FV.ofInt (chan t ch) 0)))))

/-- The elements from vstart on, precise at each. -/
def texElems (x : VI) (d : TexDesc) (gather : Bool) (sel l : Nat) : List Nat → M Unit
  | [] => pure ()
  | i :: is => do
    setVstart i
    let c ← ctx
    if x.active c i then
      let v ← texElem d gather sel l (c.elem x.vd 32 i) (c.elem (x.vd + 1) 32 i)
      modCtx (fun c => (c.setElem x.vd 32 i v).dirtyV)
    else pure ()
    texElems x d gather sel l is

/-- vx.tex and vx.texg at the head of the sequencer. -/
def VI.tex (x : VI) (gather : Bool) : M Unit := do
  require (!x.ill && x.sew == 32 && x.lm == 8 && decide (x.vd ≤ 30) && (x.vm || x.vd != 0))
  x.useMask
  useV x.vd 2
  orTrap (x.op1.toNat % 64 = 0) 4 x.op1
  let bs ← loadBytes x.op1 64
  match texDesc bs with
  | none => trap 5 x.op1
  | some d =>
    let l := min (wfld x.op2 3 0) (d.levels - 1)
    texElems x d gather (wfld x.op2 9 8) l (x.span x.vl)
    if x.vs ≥ x.vl then pure () else x.loadPolicy 32 1 [0]

end Sys2Proof.Machine
end

