-- ==== Sys2Proof/Machine/VecSeq.lean ====
section
/-! DEFINITION. The issue of vector instructions into the sequencer: legality at issue, captured operands, the instructions that
write an x or f register, and the capture of a loop (spec/07_context.md R190, R193, R524; spec/08_vector.md R225, R241 to
R246; spec/03_encoding.md R72, R73, R76). -/

namespace Sys2Proof.Machine

open Sys2Proof

/-- A standard or custom-1 vector instruction runs on the vector unit. -/
def VI.runVec (x : VI) : M Unit := do
  let c ← ctx
  let rm := c.vxrm.toNat
  let f3 := (fF3 x.w).toNat
  let f6 := fF6 x.w
  if fOp x.w = 0x57#7 then
    if f3 = 1 ∨ f3 = 5 then x.opf
    else if f3 = 2 ∨ f3 = 6 then x.opm rm
    else if f3 = 0 ∧ (f6 = 0x30 ∨ f6 = 0x31) then x.wideRed
    else x.opi rm
  else if fOp x.w = 0x2b#7 then
    match f3 with
    | 0 => x.rzElem f6 .vec
    | 1 => x.tree (f6 == 1)
    | 2 => if f6 = 0 then x.mif else if f6 = 1 then x.melse else if f6 = 2 then x.mpop else x.scan f6
    | 3 => if f6 ≤ 1 then x.tex (f6 == 1) else x.rzElem (f6 - 2) (.scalar x.op1.toNat)
    | _ => x.rzConv f6
  else x.mem

/-- The context with nothing that makes a vector instruction wait or trap but its own legality. -/
def Ctx.bare (c : Ctx) : Ctx := { c with strips := Tab.empty, vpoison := [], vstart := 0#64, vmsp := 1#64 }

/-- The word is legal under a vtype, FS and frm as they stand: run with vl = 0 and vstart = 0 it raises no illegal
instruction; a load or store is judged by its form. -/
def vecLegal (w : IWord) (s : State) : Bool :=
  let c := s.ctx s.cur
  let x : VI := { w := w, vl := 0, vt := c.vtype, op1 := 1#64, op2 := 0#64, vs := 0 }
  if isVLoad w ∨ isVStore w then x.memOk
  else
    match x.runVec (s.modCtx s.cur Ctx.bare) with
    | .error (.trap cause _) _ => cause != 2
    | _ => true

/-- Illegal instruction for a vector instruction while a frozen sequencer holds an entry (R193). -/
def notFrozen : M Unit := do
  let c ← ctx
  require (!(c.frozen.isSome && !c.seq.isEmpty))

/-- A wait for a queued load that writes vl (R190). -/
def waitVl : M Unit := do
  let c ← ctx
  waitUnless (!c.seq.any (fun e => isFof e.bits))

/-- An entry at the tail of the sequencer, which holds 16; an instruction that finds it full waits (R190). -/
def pushSeq (e : SeqEnt) : M Unit := do
  let c ← ctx
  waitUnless (decide (c.seq.length < 16))
  modCtx (fun c => { c with seq := c.seq ++ [e] })

/-- An entry with its captured operands, under vl and vtype as they stand. -/
def enterSeq (w : IWord) (op1 op2 : Word) : M Unit := do
  let c ← ctx
  pushSeq { bits := w, vl := c.vl, v := true, l := false, vtype := c.vtype, op1 := op1, op2 := op2 }

/-- The scalar operands that a word captures at issue (spec/07_context.md R186). -/
def captured (w : IWord) : M (Word × Word) := do
  let f3 := (fF3 w).toNat
  let op := fOp w
  if op = 0x57#7 then
    if f3 = 5 then return (← getF (fRs1 w), 0#64)
    else if f3 = 4 ∨ f3 = 6 then return (← getX (fRs1 w), 0#64)
    else return (0#64, 0#64)
  else if op = 0x2b#7 then
    if f3 = 3 then
      let b ← if fF6 w ≤ 1 then getX (fRs2 w) else pure 0#64
      return (← getX (fRs1 w), b)
    else return (0#64, 0#64)
  else
    let mop := (w.extractLsb' 26 2).toNat
    let b ← if mop = 2 then getX (fRs2 w) else pure 0#64
    return (← getX (fRs1 w), b)

/-- The mask-stack instructions are legal with any vtype (spec/08_vector.md R228). -/
def isMaskStack (w : IWord) : Bool := fOp w == 0x2b#7 && fF3 w == 2#3 && decide (fF6 w ≤ 2)

/-- The issue of a vector instruction that enters the sequencer. -/
def issueVec (w : IWord) : M Unit := do
  needV
  notFrozen
  waitVl
  let s ← get
  require (isMaskStack w || vecLegal w s)
  let (a, b) ← captured w
  enterSeq w a b

/-! ### Vector instructions that write an x or f register -/

/-- vmv.x.s, vcpop.m, vfirst.m, vfmv.f.s. -/
def writesScalar (w : IWord) : Bool :=
  fOp w == 0x57#7 && fF6 w == 0x10 && (fF3 w == 1#3 || fF3 w == 2#3)

/-- They wait until the sequencer is empty, and run. -/
def scalarVec (w : IWord) : M Unit := do
  needV
  notFrozen
  waitSeq
  let c ← ctx
  let x : VI := { w := w, vl := c.vl, vt := c.vtype, op1 := 0#64, op2 := 0#64, vs := c.vstart.toNat }
  require (!x.ill)
  if fF3 w = 1#3 then
    require (c.fs ≠ 0 && (x.sew == 32 || x.sew == 64) && decide (c.frm ≤ 4))
    useV x.s2 1
    setF (fRd w) (boxF (if x.sew = 64 then .d else .s) (c.elem x.s2 x.sew 0))
  else if x.s1 = 0 then
    useV x.s2 1
    setX (fRd w) (sextW (c.elem x.s2 x.sew 0) x.sew)
  else
    require (x.vs == 0)
    x.useMask
    useV x.s2 1
    if x.s1 = 0x10 then
      setX (fRd w) (w64 ((List.range x.vl).countP (fun i => x.active c i && c.maskBit x.s2 i)))
    else setX (fRd w) (match x.firstSet c with | some i => w64 i | none => BitVec.allOnes 64)
  modCtx (fun c => { c with vstart := 0#64 })

/-- VECTOR_ISSUE: a standard vector instruction. -/
def execVectorIssue (w : IWord) (s : State) : Out :=
  runThread (if writesScalar w then scalarVec w else issueVec w) s

/-! ### Words of custom-1 -/

/-- An RZ-V word of custom-1 (spec/03_encoding.md R69). -/
def rvWord (f6 : BitVec 6) (m : BitVec 1) (b a : BitVec 5) (f3 : BitVec 3) (d : BitVec 5) : IWord :=
  f6 ++ m ++ b ++ a ++ f3 ++ d ++ 0x2b#7

def execVxSshl (m : BitVec 1) (b a d : BitVec 5) (s : State) : Out := runThread (issueVec (rvWord 0#6 m b a 0#3 d)) s
def execVxSrl (m : BitVec 1) (b a d : BitVec 5) (s : State) : Out := runThread (issueVec (rvWord 1#6 m b a 0#3 d)) s
def execVxSra (m : BitVec 1) (b a d : BitVec 5) (s : State) : Out := runThread (issueVec (rvWord 2#6 m b a 0#3 d)) s
def execVxRsra (m : BitVec 1) (b a d : BitVec 5) (s : State) : Out := runThread (issueVec (rvWord 3#6 m b a 0#3 d)) s
def execVxAbsd (m : BitVec 1) (b a d : BitVec 5) (s : State) : Out := runThread (issueVec (rvWord 4#6 m b a 0#3 d)) s
def execVxAvgr (m : BitVec 1) (b a d : BitVec 5) (s : State) : Out := runThread (issueVec (rvWord 5#6 m b a 0#3 d)) s
def execVxFredtsum (m : BitVec 1) (b a d : BitVec 5) (s : State) : Out := runThread (issueVec (rvWord 0#6 m b a 1#3 d)) s
def execVxFdott (m : BitVec 1) (b a d : BitVec 5) (s : State) : Out := runThread (issueVec (rvWord 1#6 m b a 1#3 d)) s
def execVxMif (b : BitVec 5) (s : State) : Out := runThread (issueVec (rvWord 0#6 1#1 b 0#5 2#3 0#5)) s
def execVxMelse (s : State) : Out := runThread (issueVec (rvWord 1#6 1#1 0#5 0#5 2#3 0#5)) s
def execVxMpop (s : State) : Out := runThread (issueVec (rvWord 2#6 1#1 0#5 0#5 2#3 0#5)) s
def execVxScanadd (m : BitVec 1) (b a d : BitVec 5) (s : State) : Out := runThread (issueVec (rvWord 3#6 m b a 2#3 d)) s
def execVxScanmin (m : BitVec 1) (b a d : BitVec 5) (s : State) : Out := runThread (issueVec (rvWord 4#6 m b a 2#3 d)) s
def execVxScanmax (m : BitVec 1) (b a d : BitVec 5) (s : State) : Out := runThread (issueVec (rvWord 5#6 m b a 2#3 d)) s
def execVxScanminn (m : BitVec 1) (b a d : BitVec 5) (s : State) : Out := runThread (issueVec (rvWord 6#6 m b a 2#3 d)) s
def execVxScanmaxn (m : BitVec 1) (b a d : BitVec 5) (s : State) : Out := runThread (issueVec (rvWord 7#6 m b a 2#3 d)) s
def execVxFscanadd (m : BitVec 1) (b a d : BitVec 5) (s : State) : Out := runThread (issueVec (rvWord 8#6 m b a 2#3 d)) s
def execVxEscanadd (m : BitVec 1) (b a d : BitVec 5) (s : State) : Out := runThread (issueVec (rvWord 9#6 m b a 2#3 d)) s
def execVxTex (m : BitVec 1) (b a d : BitVec 5) (s : State) : Out := runThread (issueVec (rvWord 0#6 m b a 3#3 d)) s
def execVxTexg (m : BitVec 1) (b a d : BitVec 5) (s : State) : Out := runThread (issueVec (rvWord 1#6 m b a 3#3 d)) s
def execVxSshlx (m : BitVec 1) (b a d : BitVec 5) (s : State) : Out := runThread (issueVec (rvWord 2#6 m b a 3#3 d)) s
def execVxSrlx (m : BitVec 1) (b a d : BitVec 5) (s : State) : Out := runThread (issueVec (rvWord 3#6 m b a 3#3 d)) s
def execVxSrax (m : BitVec 1) (b a d : BitVec 5) (s : State) : Out := runThread (issueVec (rvWord 4#6 m b a 3#3 d)) s
def execVxCvtm8 (m : BitVec 1) (b : BitVec 5) (sat : BitVec 1) (d : BitVec 5) (s : State) : Out :=
  runThread (issueVec (rvWord 0#6 m b (0#4 ++ sat) 6#3 d)) s
def execVxCvtfm8 (m : BitVec 1) (b d : BitVec 5) (s : State) : Out := runThread (issueVec (rvWord 1#6 m b 0#5 6#3 d)) s
def execVxBsdec (m : BitVec 1) (b a d : BitVec 5) (s : State) : Out := runThread (issueVec (rvWord 2#6 m b a 6#3 d)) s
def execVxBsenc (m : BitVec 1) (b a d : BitVec 5) (s : State) : Out := runThread (issueVec (rvWord 3#6 m b a 6#3 d)) s
def execVxBsfind (m : BitVec 1) (b d : BitVec 5) (s : State) : Out := runThread (issueVec (rvWord 4#6 m b 0#5 6#3 d)) s

/-! ### Loop capture (spec/08_vector.md R241 to R246) -/

/-- The word may stand in a body (R242). -/
def bodyWord (w : IWord) : Bool :=
  if fOp w = 0x57#7 then vecKnown w && !writesScalar w && fF3 w != 7#3
  else if fOp w = 0x07#7 ∨ fOp w = 0x27#7 then
    vecKnown w && w.extractLsb' 26 2 == 0#2 && w.extractLsb' 29 3 == 0#3 && (fRs2 w == 0#5 || fRs2 w == 0x0b#5)
  else if fOp w = 0x2b#7 then
    match decode32 w with
    | .error _ => false
    | .ok _ => fF3 w == 0#3 || fF3 w == 1#3 || fF3 w == 6#3 || (fF3 w == 2#3 && decide (fF6 w ≥ 3))
  else false

/-- The n words from an address up. -/
def fetchWords : Nat → Word → M (List IWord)
  | 0, _ => return []
  | n + 1, va => do
    let lo ← fetchHalf va
    let hi ← fetchHalf (va + 2#64)
    let ws ← fetchWords n (va + 4#64)
    return BitVec.ofNat 32 (leNat (lo ++ hi)) :: ws

/-- Body entries with their captured operands. -/
def bodyEntries (c : Ctx) : List IWord → M (List SeqEnt)
  | [] => return []
  | w :: ws => do
    let (a, b) ← captured w
    let r ← bodyEntries c ws
    return { bits := w, vl := c.vl, v := true, l := true, vtype := c.vtype, op1 := a, op2 := b } :: r

/-- VX_LOOP: the next n + 1 vector instructions become a loop of x[rs1] iterations. -/
def execVxLoop (n : BitVec 4) (a : BitVec 5) (s : State) : Out :=
  runThread (do
    needV
    notFrozen
    waitVl
    let len := n.toNat + 1
    let c ← ctx
    require (!wbit c.vtype 63)
    require (!(c.seq.isEmpty && c.vstart != 0#64))
    let ws ← fetchWords len (c.pc + 4#64)
    let s ← get
    require (ws.all (fun w => bodyWord w && vecLegal w s))
    waitUnless (!c.loopLive && decide (c.seq.length + len ≤ 16))
    let x ← getX a
    let cnt := wfld x 31 0
    modCtx (fun c => { c with vlpcnt := w64 cnt, vlpidx := 0#64 }.dirtyV)
    if cnt = 0 then pure ()
    else
      let es ← bodyEntries c ws
      modCtx (fun c => { c with seq := c.seq ++ es })
    setPc (c.pc + w64 (4 + 4 * len))) s

/-- VX_LWAIT: wait until no loop is live or the index has been reached; a vstart that applies to it is illegal (R226). -/
def execVxLwait (a d : BitVec 5) (s : State) : Out :=
  runThread (do
    needV
    notFrozen
    let c ← ctx
    require (!(c.seq.isEmpty && c.vstart != 0#64))
    let x ← getX a
    waitUnless (!c.loopLive || decide (c.vlpidx.toNat ≥ wfld x 31 0))
    setX d c.vlpidx) s

end Sys2Proof.Machine
end

