-- ==== Sys2Proof/Machine/Tile.lean ====
section
/-! DEFINITION. The matrix unit: accumulators, the tile queue, multicast reads, and the tile instructions (spec/09_tile.md R255 to
R281; spec/02_numbers.md R59 to R61; spec/05_ordering.md R137, R139). -/

namespace Sys2Proof.Machine

open Sys2Proof

/-! ### Accumulators (R255 to R257) -/

/-- Physical accumulator p of a core. -/
def Core.acc (c : Core) (p : Nat) : AccReg := c.accs.get {} p
/-- A core with a physical accumulator replaced. -/
def Core.setAcc (c : Core) (p : Nat) (a : AccReg) : Core := { c with accs := c.accs.put p a }
/-- Free physical accumulators, lowest first. -/
def Core.freeAccs (c : Core) : List Nat := (List.range 8).filter (fun p => (c.acc p).st == .free)
/-- The accumulator bound anew: zero, no error. -/
def AccReg.bind (a : AccReg) (st : AccState) : AccReg := { st := st, gen := a.gen + 1 }
/-- The accumulator freed. -/
def AccReg.unbind (a : AccReg) : AccReg := { a with st := .free }
/-- The accumulator moved to Failed with its error address, its ERR bit set. -/
def AccReg.fail (a : AccReg) (va : Word) : AccReg := { a with st := .failed, err := va, bad := true }
/-- The way out of Failed: tl.zero and tl.ld clear ERR (R257). -/
def AccReg.mend (a : AccReg) : AccReg := { a with st := if a.st = .failed then .claimed else a.st, err := 0, bad := false }

/-- The operation names a physical accumulator in its present binding. -/
def TileOp.names (o : TileOp) (p gen : Nat) : Bool :=
  (o.dst == p && o.gen == gen) || (o.kind == .add && o.src == p && o.sgen == gen)
/-- PND: an accepted operation that names the accumulator has not completed. -/
def Core.pnd (c : Core) (p : Nat) : Bool := c.tileq.any (fun o => o.names p (c.acc p).gen)

/-- Physical accumulator of a name of a context. -/
def Ctx.acc (c : Ctx) (n : Nat) : Option Nat := c.accs.get none n
/-- Names a context holds, rising. -/
def Ctx.claimed (c : Ctx) : List Nat := (List.range 8).filter (fun n => (c.acc n).isSome)
/-- A set of names as a mask. -/
def maskOf (l : List Nat) : Nat := l.foldl (fun m n => m ||| 2 ^ n) 0

/-- First element bit of C: the half HALF for binary64 (R256). -/
def accBase (fmtw : Word) : Nat := if wfld fmtw 3 0 = 6 then 16384 * wfld fmtw 7 7 else 0
/-- Rows and columns of C. -/
def accDim (fmtw : Word) : Nat := if wfld fmtw 3 0 = 6 then 16 else 32
/-- Element width of C in bits. -/
def accWidth (fmtw : Word) : Nat := if wfld fmtw 3 0 = 6 then 64 else 32
/-- Bit position of element (i, j) of C (R256). -/
def accPos (fmtw : Word) (i j : Nat) : Nat := accBase fmtw + accWidth fmtw * (accDim fmtw * i + j)
/-- Element (i, j) of C. -/
def accGet (fmtw : Word) (v : AccBits) (i j : Nat) : Nat := (v.extractLsb' (accPos fmtw i j) (accWidth fmtw)).toNat
/-- Element (i, j) of C written. -/
def accPut (fmtw : Word) (v : AccBits) (i j x : Nat) : AccBits :=
  BitVec.ofNat 32768 (nput v.toNat (accPos fmtw i j + accWidth fmtw - 1) (accPos fmtw i j) x)
/-- Index pairs of C, row by row. -/
def accIdx (fmtw : Word) : List (Nat × Nat) :=
  (List.range (accDim fmtw)).flatMap (fun i => (List.range (accDim fmtw)).map (fun j => (i, j)))
/-- C replaced element by element; the other half of a binary64 accumulator stays. -/
def accMap (fmtw : Word) (v : AccBits) (f : Nat → Nat → Nat) : AccBits :=
  let b := ofLanes (accWidth fmtw) ((accIdx fmtw).map (fun p => f p.1 p.2))
  let n := accWidth fmtw * accDim fmtw * accDim fmtw
  BitVec.ofNat 32768 (nput v.toNat (accBase fmtw + n - 1) (accBase fmtw) b)

/-! ### Arithmetic (R259, R275 to R277; spec/02_numbers.md R59 to R61) -/

/-- Little-endian elements of e bytes in a row. -/
def rowElems (e : Nat) (row : List Byte) : List Nat :=
  (List.range (row.length / e)).map (fun k => leNat ((row.drop (k * e)).take e))

/-- The value of an operand element; u marks unsigned int8. -/
def operandVal (fmt : Nat) (u : Bool) (c : Nat) : FV :=
  match fmt with
  | 0 | 1 => FV.ofInt (if u then (c : Int) else sint c 8) 0
  | 2 => m8Val c
  | 3 => bfloat16.val c
  | 4 => binary16.val c
  | 5 => binary32.val c
  | _ => binary64.val c

/-- The exact product of two operands of a format; M8D and int8 have one zero (log entry 15). -/
def operandMul (fmt : Nat) (a b : FV) : FV := if fmt ≤ 2 then (a.mul b).plain else a.mul b

/-- Block size along K (spec/02_numbers.md R60). -/
def tileBlock (fmt : Nat) : Nat :=
  match fmt with
  | 1 | 2 => 32
  | 3 | 4 => 32
  | 5 => 16
  | 6 => 1
  | _ => 64

/-- The products of one block with its scale codes. -/
def tileBlockOf (fmt : Nat) (a b : List FV) (sa sb : Nat → Nat) (blk : Nat) : List FV × Nat × Nat :=
  let bk := tileBlock fmt
  (((a.drop (blk * bk)).take bk).zipWith (operandMul fmt) ((b.drop (blk * bk)).take bk), sa blk, sb blk)

/-- One element of C updated with a row of A and a column of B. -/
def tileElem (fmt : Nat) (ua ub : Bool) (c : Nat) (ar bc : List Nat) (sa sb : Nat → Nat) : Nat :=
  if fmt = 0 then
    intUpdate c ((ar.zip bc).map (fun p => ((if ua then (p.1 : Int) else sint p.1 8), (if ub then (p.2 : Int) else sint p.2 8))))
  else
    let f := if fmt = 6 then binary64 else binary32
    let d := if fmt = 2 then m8Den * m8Den else 1
    let a := ar.map (operandVal fmt ua)
    let b := bc.map (operandVal fmt ub)
    blocksUpdate f d c ((List.range (ar.length / tileBlock fmt)).map (tileBlockOf fmt a b sa sb))

/-- C + A B: rows of A and of B as bytes, the scale arrays where they apply. -/
def tileMma (fmtw : Word) (v : AccBits) (arows brows : List (List Byte)) (sca scb : Option (List Byte)) : AccBits :=
  let fmt := wfld fmtw 3 0
  let e := match tileShape fmt with
    | some (_, _, _, e, _) => e
    | none => 1
  let a := arows.map (rowElems e)
  let b := brows.map (rowElems e)
  let code (s : Option (List Byte)) (k : Nat) : Nat :=
    match s with
    | none => 127
    | some bs => (nth bs k 0#8).toNat
  let cols := (List.range (accDim fmtw)).map (fun j => b.map (fun r => nth r j 0))
  accMap fmtw v (fun i j =>
    tileElem fmt (wbit fmtw 11) (wbit fmtw 12) (accGet fmtw v i j) (nth a i []) (nth cols j [])
      (fun blk => code sca (2 * i + blk)) (fun blk => code scb (32 * blk + j)))

/-- tl.add: the sum of two elements of C (R276). -/
def tileAdd (fmt x y : Nat) : Nat :=
  if fmt = 0 then (x + y) % 2 ^ 32
  else if fmt = 6 then (binary64.add 0 x y).1
  else (binary32.add 0 x y).1

/-- tl.stc: the conversion of an element (R277). -/
def tileConv (fmtw : Word) (x : Nat) : Nat :=
  match wfld fmtw 9 8 with
  | 0 => (bfloat16.conv binary32 0 x).1
  | 1 => (binary16.conv binary32 0 x).1
  | 2 => (m8Encode (wbit fmtw 10) (binary32.val x)).1
  | _ => uint (max (-128) (min 127 (sint x 32))) 8

/-- Bytes of row i of C as a store writes them. -/
def tileRow (o : TileOp) (v : AccBits) (i : Nat) : List Byte :=
  let n := accDim o.mxfmt
  (List.range n).flatMap (fun j =>
    let x := accGet o.mxfmt v i j
    if o.kind = .stc then leBytes ((stcBytes (wfld o.mxfmt 3 0) (wfld o.mxfmt 9 8)).getD 4) (tileConv o.mxfmt x)
    else leBytes (accWidth o.mxfmt / 8) x)

/-! ### Reading and writing operands (R269, R270, R273) -/

/-- Addresses of the 64-byte pieces that cover a row run. -/
def pieces64 (a n : Nat) : List Nat :=
  if n = 0 then [] else (List.range ((a + n - 1) / 64 - a / 64 + 1)).map (fun i => (a / 64 + i) * 64)

/-- Pieces of an operand, row by row, each once. -/
def Span.pieces (x : Span) : List Nat :=
  ((List.range x.rows).flatMap (fun r => pieces64 (x.base + r * x.pitch) x.len)).eraseDups

/-- One read of a piece at its owning port for the matrix unit of core g, which corrects a soft error there (spec/07_context.md
R223); none while the port cannot serve it. -/
def State.tilePort (s : State) (g : Nat) (a : Nat) : Option State :=
  let (o, off) := scratchAt a
  let t := s.scrubSoft a 64
  if s.zeroing o off then none
  else if o = g then some (t.noteStale o)
  else (t.imposed o false g 0 2 2 6 off).map (fun s => ((s.noteStale o).logScent o false g 0 2 2 6 off).meet o)

/-- A plain read of a piece, which does not reach the port of another core while its rank is in transit (spec/11_group.md R320). -/
def State.tilePiece (s : State) (g : Nat) (a : Nat) : Option State :=
  let o := (scratchAt a).1
  if o = g then s.tilePort g a
  else if s.inTransit o then none
  else (s.tilePort g a).map (·.perf g 10 1)

/-- Reads of pieces in order. -/
def State.tilePieces (s : State) (g : Nat) (as : List Nat) : Option State :=
  as.foldl (fun r a => r.bind (fun s => s.tilePiece g a)) (some s)

/-- One write of at most 64 bytes at the owning port. -/
def State.tileStore (s : State) (g a : Nat) (bs : List Byte) : Option State :=
  let (o, off) := scratchAt a
  if s.zeroing o off then none
  else if o = g then some (s.portStore o off bs none)
  else if s.inTransit o then none
  else (s.imposed o false g 0 2 0 (log2sz bs.length) off).map (fun s =>
    (((s.portStore o off bs none).logScent o false g 0 2 0 (log2sz bs.length) off).meet o).perf g 10 1)

/-- Pieces of a byte string that stay within one 64-byte piece. -/
def split64 (a : Nat) (bs : List Byte) : List (Nat × List Byte) :=
  (pieces64 a bs.length).map (fun p => let lo := max a p; (lo, (bs.drop (lo - a)).take (min (a + bs.length) (p + 64) - lo)))

/-- Stores of rows. -/
def State.tileStores (s : State) (g : Nat) (ws : List (Nat × List Byte)) : Option State :=
  (ws.flatMap (fun w => split64 w.1 w.2)).foldl (fun r w => r.bind (fun s => s.tileStore g w.1 w.2)) (some s)

/-- Rows of an operand by a reader of bytes. -/
def Span.rowsBy (x : Span) (rd : Nat → Nat → List Byte) : List (List Byte) :=
  (List.range x.rows).map (fun r => rd (x.base + r * x.pitch) x.len)

/-- Operand k of an operation. -/
def TileOp.operand (o : TileOp) (k : Nat) : Option Operand := o.operands[k]?

/-- B is read by multicast (R270). -/
def TileOp.casts (o : TileOp) : Bool := wbit o.mxcast 23 && (o.kind == .mma || o.kind == .mmas)

/-- The operands that an operation reads by plain reads, and the one that multicast reads bring (R269, R270). -/
def TileOp.plain (o : TileOp) : List Operand :=
  ((o.operands.zipIdx).filter (fun p => !p.1.span.write && !(o.casts && p.2 == 1))).map (·.1)
def TileOp.cast (o : TileOp) : List Operand := if o.casts then (o.operand 1).toList else []

/-- The first poisoned block, of those asked about, among operands that are read: its virtual and its physical address. R273 speaks
of the poisoned block; where there are several the model takes the first by operand, then row, then address (DESIGN CHOICE, log
entry 49). -/
def State.tilePoison (s : State) (ps : List Operand) (ask : Nat → Bool) : Option (Word × Nat) :=
  (ps.flatMap (fun p =>
    (List.range p.span.rows).flatMap (fun r =>
      ((blocks (p.span.base + r * p.span.pitch) p.span.len).filter (fun b => ask b && s.isPoison b)).map
        (fun b => (w64 (down p.va.toNat 32 + (b - blk p.span.base)), b))))).head?

/-- Bytes of an address among the pieces that a multicast brought. -/
def gotBytes (l : List (Nat × List Byte)) (a n : Nat) : List Byte :=
  (List.range n).map (fun i =>
    match l.find? (fun p => p.1 == down (a + i) 64) with
    | some p => nth p.2 ((a + i) % 64) 0#8
    | none => 0#8)

/-- What an operation writes, from its operands and accumulators as they stand (R275 to R277). -/
def State.tileResult (s : State) (g : Nat) (o : TileOp) : AccBits × List (Nat × List Byte) :=
  let v := ((s.core g).acc o.dst).bits
  let plainRd := if o.casts then gotBytes o.kept else fun a n => s.getBytes a n
  let rows (k : Nat) (rd : Nat → Nat → List Byte) : List (List Byte) :=
    match o.operand k with
    | some p => p.span.rowsBy rd
    | none => []
  match o.kind with
  | .zero => (0#32768, [])
  | .add =>
    let y := ((s.core g).acc o.src).bits
    (accMap o.mxfmt v (fun i j => tileAdd (wfld o.mxfmt 3 0) (accGet o.mxfmt v i j) (accGet o.mxfmt y i j)), [])
  | .ld =>
    let r := (rows 0 plainRd).map (rowElems (accWidth o.mxfmt / 8))
    (accMap o.mxfmt v (fun i j => nth (nth r i []) j 0), [])
  | .st | .stc =>
    match o.operand 0 with
    | some p => (v, (List.range p.span.rows).map (fun i => (p.span.base + i * p.span.pitch, tileRow o v i)))
    | none => (v, [])
  | .mma | .mmas =>
    let onA := o.kind == .mmas && wbit o.mxfmt 4
    let onB := o.kind == .mmas && wbit o.mxfmt 5
    let sa := if onA then (rows 2 plainRd).head? else none
    let sb := if onB then (rows (if onA then 3 else 2) plainRd).head? else none
    (tileMma o.mxfmt v (rows 0 plainRd) (rows 1 (if o.casts then gotBytes o.got else plainRd)) sa sb, [])

/-- The operation at the head of the queue, which the matrix unit runs. -/
def Core.setHead (c : Core) (o : TileOp) : Core := { c with tileq := o :: c.tileq.drop 1 }

/-- The pieces that an operation reads by plain reads. -/
def TileOp.plainPieces (o : TileOp) : List Nat := o.plain.flatMap (fun p => p.span.pieces)

/-- The pieces that an operation reads by multicast. -/
def TileOp.castPieces (o : TileOp) : List Nat := o.cast.flatMap (fun p => p.span.pieces)

/-- A rank move that has to let the operations of the core's contexts complete, by step 4 of spec/07_context.md R195: they start
and complete though the core is halted. A core that was halted before the move keeps its queue (R268; DEDUCED, log entry 39). -/
def State.drains (s : State) (g : Nat) : Bool :=
  (match (s.cluster (g / 64)).moving with
   | some m => m.rank == g % 64 && !m.wasHalted
   | none => false) && (s.core g).tileq.any (fun o => o.task.isNone)

/-- TILE_OP_START: the oldest accepted operation of a core that is not halted starts; it reads its operands now, but for those
that multicast reads bring (R266, R268, R269). -/
def execTileOpStart (cl core_ : Nat) (s : State) : Out :=
  event (fun s =>
    let g := cl * 64 + core_
    match (s.core g).tileq with
    | [] => none
    | o :: _ =>
      if o.running ∨ ((s.core g).halted ∨ s.inTransit g) ∧ !s.drains g then none
      else
        (s.tilePieces g o.plainPieces).map (fun s =>
          let o := { o with running := true, bad := s.tilePoison o.plain (fun _ => true)
                            kept := if o.casts then o.plainPieces.map (fun a => (a, s.getBytes a 64)) else []
                            res := if o.casts then none else some (s.tileResult g o) }
          s.modCore g (·.setHead o))) s

/-- An accumulator that an operation has written; tl.zero and tl.ld leave one that had Failed Claimed, without an error (R257,
R276). -/
def AccReg.wrote (a : AccReg) (v : AccBits) (clears : Bool) : AccReg :=
  if clears then { a.mend with bits := v } else { a with bits := v }

/-- An error record of a tile operation's poisoned operand (R257; spec/18_link.md R491). -/
def TileOp.errRec (o : TileOp) (s : State) (cl b : Nat) : ErrRec :=
  { kind := 6, asid := o.asid, addr := paOf b, cl := cl, launch := o.launch, inj := s.injected.contains b,
    info := if o.task.isSome then 11 else 0 }

/-- The operations of a Herder task that have not started leave the queue (R266). -/
def Core.dropTaskOps (k : Core) (ent : Nat) : Core :=
  { k with tileq := k.tileq.filter (fun o => o.running || o.task != some ent) }

/-- Bytes from the first to the last of an operand. -/
def Span.extent (x : Span) : Nat := (x.rows - 1) * x.pitch + x.len

/-- An operand of an operation that has waited for the zeroing of a segment and that its segment now denies
(spec/11_group.md R311). -/
def State.tileDenied (s : State) (o : TileOp) : Option Operand :=
  if o.again then o.operands.find? (fun p => s.permits p.span.base p.span.extent p.span.write o.ident == .no) else none

/-- The end of an operation that has failed: its Herder task fails with a reason, or its accumulator with an address. -/
def State.tileFail (s : State) (g : Nat) (o : TileOp) (va : Word) (reason : Nat) : State :=
  match o.task with
  | some e => (s.modCluster (g / 64) (fun c => { c with engFail := c.engFail ++ [(e, reason)] })).modCore g (·.dropTaskOps e)
  | none =>
    if ((s.core g).acc o.dst).gen = o.gen then s.modCore g (fun c => c.setAcc o.dst ((c.acc o.dst).fail va)) else s

/-- The completion of an operation (R256, R257, R266, R273). One that a segment denies after its zeroing writes nothing and
fails, a Herder task with reason 2 (spec/13_task.md R342), an accumulator with the operand's address (DESIGN CHOICE, log
entry 40). A Herder task's operation that reads an accumulator whose ERR is set fails it with reason 11, as one that reads a
poisoned operand (DEDUCED from R256 and R257, log entry 49). -/
def State.tileFinish (s : State) (g : Nat) (o : TileOp) : Option State :=
  let r := o.res.getD (s.tileResult g o)
  let pop (s : State) : State := (s.modCore g (fun c => { c with tileq := c.tileq.drop 1 })).perfCycles g 8
  let live := ((s.core g).acc o.dst).gen == o.gen
  match o.bad, s.tileDenied o with
  | some (va, b), _ => some (pop ((s.error (o.errRec s (g / 64) b)).tileFail g o va 11))
  | none, some p => some (pop (s.tileFail g o p.va 2))
  | none, none =>
    if o.task.isSome ∧ o.kind ≠ .zero ∧ o.kind ≠ .ld ∧ ((s.core g).acc o.dst).bad then some (pop (s.tileFail g o 0#64 11))
    else
    (s.tileStores g r.2).map (fun s =>
      let s := if o.kind = .st ∨ o.kind = .stc ∨ !live then s
               else s.modCore g (fun c => c.setAcc o.dst ((c.acc o.dst).wrote r.1 (o.kind == .zero || o.kind == .ld)))
      pop s)

/-- TILE_OP_COMPLETE: the running operation of a core completes. -/
def execTileOpComplete (cl core_ : Nat) (s : State) : Out :=
  event (fun s =>
    let g := cl * 64 + core_
    match (s.core g).tileq with
    | [] => none
    | o :: _ =>
      if !o.running ∨ !(o.castPieces.all (fun p => o.got.any (fun q => q.1 == p))) then none
      else s.tileFinish g o) s

/-! ### Multicast (R270) -/

/-- Bytes of a piece sent to the running operation of a core that asked for it; a poisoned block marks the operation. -/
def State.deliverPiece (s : State) (a : Nat) (bs : List Byte) (g : Nat) : State :=
  match (s.core g).tileq with
  | [] => s
  | o :: _ =>
    if o.running ∧ o.castPieces.contains a ∧ !(o.got.any (fun q => q.1 == a)) then
      s.modCore g (·.setHead { o with got := o.got ++ [(a, bs)], bad := o.bad.or (s.tilePoison o.cast (fun b => down b 64 == a)) })
    else s

/-- A combining entry closes: one read of the piece, identical bytes to every joined core. The read is logged as the remote load
of the first joined core that is not the port's own, if any (spec/05_ordering.md R137; DEDUCED, log entry 39). Its requests have
reached the port, so a rank that has come into transit since does not hold it back. -/
def State.closeComb (s : State) (g : Nat) (e : Comb) : Option State :=
  let opener := (e.cores.find? (· != g)).getD g
  (s.tilePort opener e.piece).map (fun s =>
    let s := s.modCore g (fun c => { c with comb := c.comb.filter (fun x => !(x.tag == e.tag && x.piece == e.piece)) })
    e.cores.foldl (fun s r => s.deliverPiece e.piece (s.getBytes e.piece 64) r) s)

/-- MULTICAST_REQUEST: core src of the cluster asks for a piece of core core_'s scratchpad; the request joins the entry of its
tag and piece, opens one, or is served as a plain read where all 16 entries are taken. Tag, piece and count are those of the
running operation of src. While the rank of core_ is in transit its port takes no request of another core (spec/11_group.md R320);
that core's own operation completes (R268). -/
def execMulticastRequest (cl core_ src tag piece cnt : Nat) (s : State) : Out :=
  event (fun s =>
    let g := cl * 64 + core_
    let r := cl * 64 + src
    match (s.core r).tileq with
    | [] => none
    | o :: _ =>
      let c := if wfld o.mxcast 22 16 > 64 then 0 else wfld o.mxcast 22 16
      let a := piece * 64
      if !o.running ∨ !o.castPieces.contains a ∨ o.got.any (fun q => q.1 == a) ∨ (scratchAt a).1 ≠ g
          ∨ wfld o.mxcast 15 0 ≠ tag ∨ c ≠ cnt ∨ r ≠ g ∧ s.inTransit g then none
      else
        let s := if r = g then s else s.perf r 10 1
        match (s.core g).comb.find? (fun x => x.tag == tag && x.piece == a) with
        | some e =>
          if e.cores.contains r then none
          else
            let e := { e with cores := e.cores ++ [r] }
            if e.cnt ≠ 0 ∧ e.cores.length ≥ e.cnt then s.closeComb g e
            else some (s.modCore g (fun c => { c with comb := c.comb.map (fun x => if x.tag = tag ∧ x.piece = a then e else x) }))
        | none =>
          let e : Comb := { tag := tag, piece := a, cnt := cnt, cores := [r] }
          if cnt = 1 ∨ (s.core g).comb.length ≥ 16 then s.closeComb g e
          else some (s.modCore g (fun c => { c with comb := c.comb ++ [e] }))) s

/-- MULTICAST_ENTRY_TIMEOUT: a combining entry closes 64 core cycles after its first request. -/
def execMulticastEntryTimeout (cl core_ idx : Nat) (s : State) : Out :=
  event (fun s =>
    let g := cl * 64 + core_
    ((s.core g).comb[idx]?).bind (fun e => s.closeComb g e)) s

/-! ### Issue (R263 to R267, R269) -/

/-- The accumulator name of a tl.rowv or tl.vrow word. -/
def rowName (w : IWord) : Nat := if w.extractLsb' 25 7 = 0#7 then (fRs2 w).toNat else (fRd w).toNat

/-- A queued entry is a tl.rowv or tl.vrow that names an accumulator. -/
def SeqEnt.namesRow (e : SeqEnt) (n : Nat) : Bool := fOp e.bits == 0x5b#7 && fF3 e.bits == 1#3 && rowName e.bits == n

/-- A wait for queued tl.rowv and tl.vrow of the slot that name one of the accumulators (R267). -/
def rowWait (names : List Nat) : M Unit := do
  let c ← ctx
  waitUnless (c.frozen.isSome || !c.seq.any (fun e => names.any e.namesRow))

/-- Physical address of a scratchpad operand of the cluster (R263). -/
def tilePa (g : Nat) (va : Word) : Option Nat :=
  match winOf va.toNat with
  | some (.scratch core off) => some (scratchPa (g / 64 * 64 + core) off)
  | some (.own off) => some (scratchPa g off)
  | _ => none

/-- The span lies within one scratchpad of the cluster and its base is aligned (R263). -/
def Operand.spanOk (p : Operand) (g : Nat) : Bool :=
  match tilePa g p.va with
  | none => false
  | some a => decide ((scratchAt a).2 + (p.span.rows - 1) * p.span.pitch + p.span.len ≤ 2 ^ 18)
      && p.va.toNat % p.elem == 0

/-- The pitch keeps R260. -/
def Operand.pitchOk (p : Operand) : Bool := decide (p.span.len ≤ p.span.pitch) && p.span.pitch % p.elem == 0

/-- The permission of R36 for every byte of an operand. -/
def State.operandPermit (s : State) (i : Ident) (p : Operand) : Permit := s.permits p.span.base p.span.extent p.span.write i

/-- The format is legal for the kind (reason 2). -/
def tileFormatOk (kind : TileKind) (fmtw : Word) : Bool :=
  let fmt := wfld fmtw 3 0
  match kind with
  | .zero => true
  | .mmas => fmt == 1 || fmt == 2
  | .stc => (stcBytes fmt (wfld fmtw 9 8)).isSome
  | _ => (tileShape fmt).isSome

/-- The physical accumulator of a name, or cause 26 with reason 1. -/
def accOf (n : Nat) : M Nat := do
  match (← ctx).acc n with
  | some p => return p
  | none => trap 26 1#64

/-- The spans and then the permissions of operands, by R263. -/
def checkSpans (g : Nat) : List Operand → M Unit
  | [] => pure ()
  | p :: ps => do
    orTrap (p.spanOk g) 26 p.va
    checkSpans g ps

/-- The permissions of operands: 7 for a written one, else 5, with its base. -/
def checkPermits (i : Ident) : List Operand → M Unit
  | [] => pure ()
  | p :: ps => do
    let s ← get
    match s.operandPermit i p with
    | .yes => pure ()
    | .busy => wait
    | .no => trap (if p.span.write then 7 else 5) p.va
    checkPermits i ps

/-- The operands of a tile operation wait for the context's channels until the watermark passes them
(spec/10_transfer.md R289). -/
def stallSpans : List Span → M Unit
  | [] => pure ()
  | x :: xs => do
    stallChan x.base x.extent x.write
    stallSpans xs

/-- Cause 19 for a Failed accumulator (R273). -/
def notFailed (p : Nat) : M Unit := do
  let k ← core
  orTrap ((k.acc p).st != .failed) 19 (k.acc p).err

/-- The operation that an instruction would start, its operands resolved. -/
def tileOpOf (kind : TileKind) (g : Nat) (c : Ctx) (i : Ident) (dst src gen : Nat) (va vb : Word) : TileOp :=
  { kind := kind, dst := dst, src := src, gen := gen, va := va, vb := vb, va2 := c.mxsca, vb2 := c.mxscb,
    a := (tilePa g va).getD 0, b := (tilePa g vb).getD 0, sa := (tilePa g c.mxsca).getD 0, sb := (tilePa g c.mxscb).getD 0,
    mxfmt := c.mxfmt, mxld := c.mxld, mxcast := c.mxcast, cid := c.cid, asid := c.asid, launch := wfld c.ulaunch 15 0, ident := i }

/-- The tile queue takes one more operation. The one that runs keeps its entry, and counts among the eight and in QUE, until it
completes (DESIGN CHOICE, log entry 49). -/
def Core.tileRoom (k : Core) : Bool := decide (k.tileq.length < 8)

/-- A tile operation started: the checks of R265 in order, the release, the queue. tl.add looks at rd before rs1 for a Failed
accumulator (DESIGN CHOICE, log entry 49). -/
def tileIssue (kind : TileKind) (d srcn : Nat) (va vb : Word) : M Unit := do
  rowWait (if kind = .add then [d, srcn] else [d])
  let p ← accOf d
  let q ← if kind = .add then accOf srcn else pure p
  if kind = .zero ∨ kind = .ld then pure ()
  else
    notFailed p
    notFailed q
  let c ← ctx
  orTrap (tileFormatOk kind c.mxfmt) 26 2#64
  let g ← myCore
  let k ← core
  let s ← get
  let o := { tileOpOf kind g c (identOf c c.priv s.cur) p q (k.acc p).gen va vb with sgen := (k.acc q).gen }
  orTrap (o.operands.all (·.pitchOk)) 26 3#64
  checkSpans g o.operands
  checkPermits o.ident o.operands
  stallSpans o.spans
  release 1
  waitUnless k.tileRoom
  modCore (fun k =>
    let k := if kind = .zero ∨ kind = .ld then k.setAcc p (k.acc p).mend else k
    { k with tileq := k.tileq ++ [o], winMat := s.cur.slot })

def execTlZero (d : BitVec 3) (s : State) : Out := runThread (tileIssue .zero d.toNat 0 0#64 0#64) s
def execTlMma (b a : BitVec 5) (d : BitVec 3) (s : State) : Out :=
  runThread (do tileIssue .mma d.toNat 0 (← getX a) (← getX b)) s
def execTlMmas (b a : BitVec 5) (d : BitVec 3) (s : State) : Out :=
  runThread (do tileIssue .mmas d.toNat 0 (← getX a) (← getX b)) s
def execTlLd (a : BitVec 5) (d : BitVec 3) (s : State) : Out :=
  runThread (do tileIssue .ld d.toNat 0 (← getX a) 0#64) s
def execTlSt (a : BitVec 5) (d : BitVec 3) (s : State) : Out :=
  runThread (do tileIssue .st d.toNat 0 (← getX a) 0#64) s
def execTlStc (a : BitVec 5) (d : BitVec 3) (s : State) : Out :=
  runThread (do tileIssue .stc d.toNat 0 (← getX a) 0#64) s
def execTlAdd (a d : BitVec 3) (s : State) : Out := runThread (tileIssue .add d.toNat a.toNat 0#64 0#64) s

/-! ### Names (R278, R279) -/

/-- Names bound to the lowest free physical accumulators, in order. -/
def bindNames (c : Ctx) (k : Core) : List Nat → Ctx × Core
  | [] => (c, k)
  | n :: ns =>
    let p := k.freeAccs.headD 0
    bindNames { c with accs := c.accs.put n (some p) } (k.setAcc p ((k.acc p).bind .claimed)) ns

/-- Bits of a mask. -/
def bitsOf8 (m : Nat) : List Nat := (List.range 8).filter (fun n => m.testBit n)

/-- TL_CLAIM. -/
def execTlClaim (a d : BitVec 5) (s : State) : Out :=
  runThread (do
    let m := wfld (← getX a) 7 0
    let c ← ctx
    let k ← core
    if m &&& maskOf c.claimed ≠ 0 then setX d 2#64
    else if (bitsOf8 m).length > k.freeAccs.length then setX d 1#64
    else
      let r := bindNames c k (bitsOf8 m)
      modCtx (fun _ => r.1)
      modCore (fun _ => r.2)
      setX d 0#64) s

/-- Names unbound and their accumulators freed. -/
def freeNames (c : Ctx) (k : Core) : List Nat → Ctx × Core
  | [] => (c, k)
  | n :: ns =>
    match c.acc n with
    | some p => freeNames { c with accs := c.accs.put n none } (k.setAcc p (k.acc p).unbind) ns
    | none => freeNames c k ns

/-- The names of a list freed, after the operations that name them have completed. -/
def freeAccNames (names : List Nat) : M Unit := do
  let c ← ctx
  let k ← core
  waitUnless (names.all (fun n => match c.acc n with | some p => !k.pnd p | none => true))
  let r := freeNames c k names
  modCtx (fun _ => r.1)
  modCore (fun _ => r.2)

/-- Every name of the thread freed, as at its end (R278). -/
def freeAllNames : M Unit := do freeAccNames (← ctx).claimed

/-- TL_FREE. -/
def execTlFree (a : BitVec 5) (s : State) : Out :=
  runThread (do
    let m := wfld (← getX a) 7 0
    let c ← ctx
    let names := (bitsOf8 m).filter (fun n => (c.acc n).isSome)
    rowWait names
    freeAccNames names) s

/-- The first Failed accumulator among names raises cause 19. Where several are Failed R273 leaves open whose error address the trap
carries: the lowest name's, and for tl.add that of rd before that of rs1 (DESIGN CHOICE, log entry 49). -/
def failNames : List Nat → M Unit
  | [] => pure ()
  | n :: ns => do
    match (← ctx).acc n with
    | some p => notFailed p
    | none => pure ()
    failNames ns

/-- TL_WAIT: the acquire at group scope that ends it invalidates nothing (spec/05_ordering.md R128). -/
def execTlWait (a : BitVec 5) (s : State) : Out :=
  runThread (do
    let m := wfld (← getX a) 7 0
    let c ← ctx
    let names := c.claimed.filter (fun n => m == 0 || m.testBit n)
    rowWait names
    let k ← core
    waitUnless (names.all (fun n => match c.acc n with | some p => !k.pnd p | none => true))
    failNames names) s

/-- The word of tl.state. -/
def tileStateWord (c : Ctx) (k : Core) : Word :=
  let on (f : Nat → Bool) : Nat := maskOf (c.claimed.filter (fun n => match c.acc n with | some p => f p | none => false))
  w64 (k.tileq.length * 2 ^ 28 + k.freeAccs.length * 2 ^ 24 + on (fun p => (k.acc p).st == .failed) * 2 ^ 16
    + on k.pnd * 2 ^ 8 + maskOf c.claimed)

/-- TL_STATE. -/
def execTlState (d : BitVec 5) (s : State) : Out :=
  runThread (do setX d (tileStateWord (← ctx) (← core))) s

/-! ### Rows (R267, R280) -/

/-- A row instruction's word: funct7, rs2, rs1, funct3 001, rd. -/
def rowWord (f7 : BitVec 7) (b a d : BitVec 5) : IWord := f7 ++ b ++ a ++ 1#3 ++ d ++ 0x5b#7

/-- The issue of tl.rowv and tl.vrow: the illegal-instruction checks, the capture, the sequencer. -/
def issueRow (w : IWord) (vr : BitVec 5) (a : BitVec 5) : M Unit := do
  needV
  notFrozen
  waitVl
  let c ← ctx
  let x : VI := { w := w, vl := c.vl, vt := c.vtype, op1 := 0#64, op2 := 0#64, vs := 0 }
  let fmt := wfld c.mxfmt 3 0
  require (!x.ill && (decide (fmt > 6) || x.sew == accWidth c.mxfmt) && x.groupOk vr.toNat x.sew)
  rowWait [rowName w]
  let r ← getX a
  enterSeq w r (w64 (wfld c.mxfmt 7 0))

def execTlRowv (b : BitVec 3) (a d : BitVec 5) (s : State) : Out :=
  runThread (issueRow (rowWord 0#7 (0#2 ++ b) a d) d a) s
def execTlVrow (b a : BitVec 5) (d : BitVec 3) (s : State) : Out :=
  runThread (issueRow (rowWord 1#7 b a (0#2 ++ d)) b a) s

/-- A row instruction at the head of the sequencer. -/
def VI.row (x : VI) : M Unit := do
  require (x.vs == 0)
  let load := x.w.extractLsb' 25 7 == 0#7
  let name := if load then x.s2 else x.vd
  let vr := if load then x.vd else x.s2
  let p ← accOf name
  let k ← core
  waitUnless (!k.pnd p)
  notFailed p
  orTrap (decide (wfld x.op2 3 0 ≤ 6)) 26 2#64
  orTrap (decide (x.op1.toNat < accDim x.op2 ∧ x.vl ≤ accDim x.op2)) 26 4#64
  if load then waitStrips vr (x.regs x.sew) else useV vr (x.regs x.sew)
  let c ← ctx
  let i := x.op1.toNat
  if load then
    x.unmasked.putGroup x.sew ((List.range x.vl).map (fun j => some (accGet x.op2 (k.acc p).bits i j)))
  else
    modCore (fun k => k.setAcc p { k.acc p with
      bits := (List.range x.vl).foldl (fun v j => accPut x.op2 v i j (c.elem vr x.sew j)) (k.acc p).bits })

/-! ### Tile tasks (R281; spec/13_task.md R342) -/

/-- The operations of a tile task on a held accumulator, in order. -/
def taskOps (o : TileOp) (cva : Word) (cld cnv : Bool) (cpa : Nat) : List TileOp :=
  let mul := { o with kind := if wbit o.mxfmt 4 ∨ wbit o.mxfmt 5 then .mmas else .mma }
  let onC (k : TileKind) : TileOp := { o with kind := k, va := cva, a := cpa }
  [onC (if cld then .ld else .zero), mul, onC (if cnv then .stc else .st)]

end Sys2Proof.Machine
end

