-- ==== Sys2Proof/Machine/Engine.lean ====
section
/-! DEFINITION. The accesses of engines: under a captured identity and address space, through ports, caches and homes, with
poison carried along (spec/10_transfer.md R283 to R285, R295; spec/11_group.md R525; spec/05_ordering.md R126, R137 to R142;
spec/06_page.md R160, R165). -/

namespace Sys2Proof.Machine

open Sys2Proof

/-- A party that accesses memory for a context: the core whose windows and cluster it uses, how a scent ring names it
(KIND and SRCID of R139), the captured identity and address space, and the class its requests carry. -/
structure Eng where
  g     : Nat
  kind  : Nat
  src   : Nat
  ident : Ident
  satp  : Word
  cls   : Option Nat := none
  since : Option Nat := none  -- when its request was accepted, where a rank in transit asks (spec/11_group.md R320)
  slot  : Nat := 0            -- SLOT of R139 where a thread acts
  fresh : Bool := false       -- its reads are performed at device scope (spec/05_ordering.md R125; spec/15_frontier.md R391)
deriving DecidableEq, Repr

/-- How an engine's access fails: page fault; access, PMP, range or window fault; poison, in a block of data or met by the walk;
not now. -/
inductive EngFail where
  | page | access | poison (block : Option Nat) | later
deriving DecidableEq, Repr

/-- The poisoned block of data that failed an access. -/
def EngFail.block : EngFail → Option Nat
  | .poison b => b
  | _ => none
/-- The access met poison. -/
def EngFail.isPoison : EngFail → Bool
  | .poison _ => true
  | _ => false

/-- The class that an access fills under (R284). -/
def Eng.fill (e : Eng) (t : Target) : Nat := e.cls.getD t.attr.cos

/-- An error record of an engine's access. -/
def Eng.err (e : Eng) : ErrRec := { kind := 11, asid := e.ident.asid, cl := e.g / 64 }

/-- SRCID of the Retriever that serves a far end, by R283: the model address says where it lies. -/
def retrieverOf (g a : Nat) : Nat :=
  match rangeOf (paOf a) with
  | .vault => (a - vaultBase) / 2 ^ 26 * 8 + fld a 10 8
  | .scratch => g / 64 * 8 + (scratchAt a).1 % 8
  | .host => 320 + (2 * (g / 64 / 5)) * 16 + fld a 11 8
  | _ => 320 + fld a 15 12 * 16 + fld a 11 8

/-- The party stands in no cluster: a control core or a mesh distributor that acts for a queue (log entry 20). -/
def Eng.nowhere (e : Eng) : Bool := e.ident.hart.isNone && e.kind == 5

/-- The address lies in a window of the issuing party's own cluster (spec/01_device.md R32). -/
def ownClusterWindow (va : Nat) : Bool :=
  match winOf va with
  | some (.scratch _ _) | some (.own _) => true
  | _ => false

/-- Translation of an engine's access within one page. A party in no cluster has no scratchpad windows and no caches. -/
def State.engTarget (s : State) (e : Eng) (acc : Acc) (va n : Nat) : State × Except EngFail Target :=
  if e.nowhere && ownClusterWindow va then (s, .error .access)
  else
  match s.engTranslate e.g e.ident e.satp acc va n with
  | (s, .ok t) => (s, .ok (if e.nowhere ∧ !t.sram then { t with attr := { t.attr with cache := 2 } } else t))
  | (s, .page) => (s, .error .page)
  | (s, .access) => (s, .error .access)
  | (s, .poison) => (s, .error (.poison none))
  | (s, .later) => (s, .error .later)

/-- The port of a scratchpad serves an engine's access of at most 64 bytes now, and logs it (spec/05_ordering.md R137); it waits
for a rank in transit and for the zeroing of its segment (spec/11_group.md R311, R320). Loads and atomics read (spec/07_context.md
R206). -/
def State.engPort (s : State) (e : Eng) (a n op : Nat) : Option State :=
  if rangeOf a ≠ .scratch then some s
  else
    let (o, off) := scratchAt a
    if s.holdsBack o e.since ∨ s.zeroing o off then none
    else
      -- a queue instruction on its core's own scratchpad is a local access of its thread
      let loc := e.kind == 0 && e.src == o
      (s.imposed o loc e.src e.slot e.kind op (log2sz n) off).map (fun s =>
        let s := if op = 0 then s else s.noteStale o
        let s := s.logScent o loc e.src e.slot e.kind op (log2sz n) off
        if loc then s else s.meet o)

/-- The port's service of every 64-byte piece of an access. -/
def State.engPorts (s : State) (e : Eng) (a n op : Nat) : Option State :=
  (pieces64 a n).foldl (fun r p => r.bind (fun s =>
    let lo := max a p
    s.engPort e lo (min (a + n) (p + 64) - lo) op)) (some s)

/-- Bytes and poison, byte by byte, of one block. -/
def cutBlock (a n b : Nat) (bs : List Byte) (p : Bool) : List Byte × List Bool :=
  let lo := max a b
  let hi := min (a + n) (b + 32)
  ((bs.drop (lo - b)).take (hi - lo), List.replicate (hi - lo) p)

/-- Bytes read at a target. -/
def State.engGet (s : State) (e : Eng) (t : Target) (n : Nat) : State × Except EngFail (List Byte × List Bool) :=
  if t.sram then
    match (s.scrubSoft t.a n).engPorts e t.a n 2 with
    | none => (s, .error .later)
    | some s =>
      (s, .ok ((blocks t.a n).foldl (fun r b =>
        let c := cutBlock t.a n b (s.getBytes b 32) (s.isPoison b)
        (r.1 ++ c.1, r.2 ++ c.2)) ([], [])))
  else
    let s := if e.fresh then s.freshen (e.g / 64) t.a n t.attr else s
    let (s, xs) := s.l2Blocks (e.g / 64) t.a n t.attr (e.fill t) e.ident.asid
    (s, .ok (xs.foldl (fun r x =>
      let c := cutBlock t.a n x.1 (vecBytes x.2.1 32) x.2.2
      (r.1 ++ c.1, r.2 ++ c.2)) ([], [])))

/-- A block poisoned where its newest copy is: the cluster's L2 line, else storage; a line of a peer's or the host's memory is
a copy, and its home is poisoned with it (spec/06_page.md R165; spec/05_ordering.md R127). -/
def State.poisonBlock (s : State) (k b key : Nat) : State :=
  match (s.cluster k).line b key with
  | some l =>
    if l.valid.getLsbD (sectorOf b) then
      (if localHbm b then s else s.setPoison b true).modCluster k (·.putLine { l with poison := setB8 l.poison (sectorOf b) true })
    else s.setPoison b true
  | none => s.setPoison b true

/-- Blocks of [a, ...) that receive a poisoned byte. -/
def poisonedBlocks (a : Nat) (ps : List Bool) : List Nat :=
  (((ps.zipIdx).filter (fun p => p.1)).map (fun p => blk (a + p.2))).eraseDups

/-- Bytes written at a target, with their poison. The L1D copies of the cluster leave (spec/05_ordering.md R126, R145). -/
def State.engPut (s : State) (e : Eng) (t : Target) (bs : List Byte) (ps : List Bool) : State × Except EngFail Unit :=
  if t.sram then
    match s.engPorts e t.a bs.length 0 with
    | none => (s, .error .later)
    | some s =>
      let s := s.putBytes t.a bs none
      ((poisonedBlocks t.a ps).foldl (fun s b => s.setPoison b true) s, .ok ())
  else
    let k := e.g / 64
    let s := s.l2Write k t.a t.attr (e.fill t) e.ident.asid bs none
    let s := (blocks t.a bs.length).foldl (fun s b => s.l1dInvalidate k none b) s
    ((poisonedBlocks t.a ps).foldl (fun s b => s.poisonBlock k b t.attr.key) s, .ok ())

/-- Parts of a span of virtual addresses, one in each page. -/
def vaParts (va n : Nat) : List (Nat × Nat) :=
  if n = 0 then []
  else (List.range ((va % 4096 + n - 1) / 4096 + 1)).map (fun i =>
    let lo := if i = 0 then va else down va 4096 + 4096 * i
    (lo, min (va + n) (down va 4096 + 4096 * (i + 1)) - lo))

/-- A read of n bytes at a virtual address; a copy of a peer's or the host's memory in the cluster's L2 may serve it. -/
def State.engRead (s : State) (e : Eng) (va n : Nat) : State × Except EngFail (List Byte × List Bool) :=
  (vaParts va n).foldl (fun (r : State × Except EngFail (List Byte × List Bool)) p =>
    match r with
    | (s, .error f) => (s, .error f)
    | (s, .ok (bs, ps)) =>
      match s.engTarget e .load p.1 p.2 with
      | (s, .error f) => (s, .error f)
      | (s, .ok t) =>
        match s.engGet e t p.2 with
        | (s, .error f) => (s, .error f)
        | (s, .ok (cs, qs)) => (s, .ok (bs ++ cs, ps ++ qs))) (s, .ok ([], []))

/-- A read whose poison, if any, fails it: the bytes, or the failure. -/
def State.engReadClean (s : State) (e : Eng) (va n : Nat) : State × Except EngFail (List Byte) :=
  match s.engRead e va n with
  | (s, .error f) => (s, .error f)
  | (s, .ok (bs, ps)) => if ps.any id then (s, .error (.poison none)) else (s, .ok bs)

/-- Translations of every part of a write. -/
def State.engTargets (s : State) (e : Eng) (acc : Acc) (ps : List (Nat × Nat)) : State × Except EngFail (List (Target × Nat)) :=
  ps.foldl (fun (r : State × Except EngFail (List (Target × Nat))) p =>
    match r with
    | (s, .error f) => (s, .error f)
    | (s, .ok ts) =>
      match s.engTarget e acc p.1 p.2 with
      | (s, .error f) => (s, .error f)
      | (s, .ok t) => (s, .ok (ts ++ [(t, p.2)]))) (s, .ok [])

/-- A write of bytes at a virtual address; nothing is written where a part fails its checks. -/
def State.engWrite (s : State) (e : Eng) (va : Nat) (bs : List Byte) : State × Except EngFail Unit :=
  match s.engTargets e .store (vaParts va bs.length) with
  | (s, .error f) => (s, .error f)
  | (s, .ok ts) =>
    let r := ts.foldl (fun (x : State × List Byte × Except EngFail Unit) t =>
      match x with
      | (s, bs, .error f) => (s, bs, .error f)
      | (s, bs, .ok _) =>
        let (s, r) := s.engPut e t.1 (bs.take t.2) []
        (s, bs.drop t.2, r)) (s, bs, .ok ())
    (r.1, r.2.2)

/-- An indivisible update of n bytes within one block at a target: the old value, with its poison; f gives the new one, or
none where nothing is written. -/
def State.engAtomicAt (s : State) (e : Eng) (t : Target) (n : Nat) (f : Nat → Option Nat) : State × Except EngFail (Nat × Bool) :=
  match s.engPorts e t.a (if t.sram then n else 0) 1 with
  | none => (s, .error .later)
  | some s =>
    if t.sram then
      let s := s.scrubSoft t.a n
      let old := leNat (s.getBytes t.a n)
      if s.anyPoison t.a n then (s, .ok (old, true))
      else
        match f old with
        | some v => (s.putBytes t.a (leBytes n v) none, .ok (old, false))
        | none => (s, .ok (old, false))
    else
      let k := e.g / 64
      let at_ := if localHbm t.a then t.attr else { t.attr with cache := 2 }
      let was := ((s.cluster k).line t.a t.attr.key).isSome
      let (s, bs, p) := s.l2ReadN k t.a n at_ (e.fill t) e.ident.asid
      let old := leNat bs
      if p then (s, .ok (old, true))
      else
        match f old with
        | some v =>
          -- a line that the atomic's own read has allocated keeps its place (spec/04_memory.md R102)
          let s := s.l2WriteBy k t.a t.attr (e.fill t) e.ident.asid (leBytes n v) none (localHbm t.a && !was)
          (s.l1dInvalidate k none t.a, .ok (old, false))
        | none => (s.freshen k t.a n t.attr, .ok (old, false))

/-- An indivisible update of an aligned doubleword at a virtual address. -/
def State.engAtomic (s : State) (e : Eng) (va n : Nat) (f : Nat → Option Nat) : State × Except EngFail (Nat × Bool) :=
  match s.engTarget e .store va n with
  | (s, .error r) => (s, .error r)
  | (s, .ok t) => s.engAtomicAt e t n f

/-- An error record of kind 14: a completion signal that could not be written; its physical address where it has one
(spec/18_link.md R491). -/
def State.signalError (s : State) (e : Eng) (pa launch : Nat) : State :=
  s.error { kind := 14, asid := e.ident.asid, addr := pa, cl := e.g / 64, launch := launch,
            inj := pa != 0 && s.injected.contains (blk pa) }

/-- How a signal write ends. -/
inductive SigRes where
  | done | failed | later
deriving DecidableEq, Repr

/-- An atomic update of the doubleword of a completion signal: added to, or ORed with; a signal that fails translation or
permission, or is poisoned, is reported (R290). -/
def State.signal (s : State) (e : Eng) (va launch : Nat) (f : Nat → Nat) : State × SigRes :=
  match s.engTarget e .store va 8 with
  | (s, .error .later) => (s, .later)
  | (s, .error _) => (s.signalError e 0 launch, .failed)
  | (s, .ok t) =>
    match s.engAtomicAt e t 8 (fun v => some (f v % 2 ^ 64)) with
    | (s, .ok (_, false)) => (s, .done)
    | (s, .ok (_, true)) => (s.signalError e (paOf (blk t.a)) launch, .failed)
    | (s, .error .later) => (s, .later)
    | (s, .error _) => (s.signalError e 0 launch, .failed)

/-- What an ordinary completion adds to a signal: -1. -/
def decSignal (v : Nat) : Nat := v + (2 ^ 64 - 1)
/-- What a failure does to a signal: bit 63 is set. -/
def orSignal (v : Nat) : Nat := v ||| 2 ^ 63

end Sys2Proof.Machine
end

