-- ==== Sys2Proof/Machine/Transfer.lean ====
section
/-! DEFINITION. Transfers: channels and their pieces, the Retrievers, register strips, and the transfer instructions
(spec/10_transfer.md R282 to R306; spec/07_context.md R188, R189). -/

namespace Sys2Proof.Machine

open Sys2Proof

/-- Number of n bytes at an offset. -/
def numAt (bs : List Byte) (off n : Nat) : Nat := leNat ((bs.drop off).take n)

/-! ### Contexts of a core by name -/

/-- The context of a name among the slots and the Kennel of a core. -/
def State.findCid (s : State) (g cid : Nat) : Option Ctx :=
  match (List.range 8).findSome? (fun i => ((s.slot (g * 8 + i)).ctx).filter (fun c => c.cid == cid)) with
  | some c => some c
  | none => (s.core g).kennel.ents.findSome? (fun e => e.2.ctx.filter (fun c => c.cid == cid))

/-- The slot of a core that holds a context. -/
def State.hartOfCid (s : State) (g cid : Nat) : Option Hart :=
  ((List.range 8).map (g * 8 + ·)).find? (fun h => ((s.slot h).ctx.map (fun c => c.cid == cid)).getD false)

/-- The state with a context of a core updated, wherever it stands. -/
def State.modCid (s : State) (g cid : Nat) (f : Ctx → Ctx) : State :=
  let one (c : Ctx) : Ctx := if c.cid = cid then f c else c
  let s := (List.range 8).foldl (fun s i => if (s.slot (g * 8 + i)).ctx.isSome then s.modCtx (g * 8 + i) one else s) s
  s.modCore g (fun k => { k with kennel := k.kennel.map (fun _ e => { e with ctx := e.ctx.map one }) })

/-- A context with a channel replaced. -/
def Ctx.setChan (c : Ctx) (n : Nat) (ch : Chan) : Ctx := { c with chans := c.chans.put n ch }
/-- A context with a strip replaced. -/
def Ctx.setStrip (c : Ctx) (n : Nat) (st : Strip) : Ctx := { c with strips := c.strips.put n st }

/-- SRCID of the Retriever for a virtual address, where it is a window address. -/
def winRetriever (g va : Nat) : Nat :=
  match winOf va with
  | some w => retrieverOf g (w.pa g)
  | none => 0

/-- A channel's engine for signals, with the class that its oldest request carries (R284; log entry 16). -/
def Chan.eng (ch : Chan) (g va : Nat) : Eng :=
  { g := g, kind := 1, src := winRetriever g va, ident := ch.ident, satp := ch.satp, cls := ch.reqs.head?.bind (·.cls) }

/-! ### Requests and pieces (R282, R289, R292) -/

/-- Virtual address on the far side of byte k of a request (R292). -/
def ChanReq.farAt (r : ChanReq) (k : Nat) : Nat :=
  match r.dims with
  | [] => r.far
  | (e0, _) :: ds =>
    uint ((ds.foldl (fun (x : Nat × Int) d => (x.1 / d.1, x.2 + ((x.1 % d.1 : Nat) : Int) * d.2))
      (k / e0, ((r.far + k % e0 : Nat) : Int))).2) 64

/-- Row length of a request. -/
def ChanReq.row (r : ChanReq) : Nat := (r.dims.headD (1, 0)).1

/-- The next piece of a request: far address, channel-side address and length. A piece ends with its row and with its
4 KiB block on either side. -/
def ChanReq.cut (r : ChanReq) : Nat × Nat × Nat :=
  let far := r.farAt r.sent
  let near := r.at_ + r.sent
  (far, near, min (r.row - r.sent % r.row) (min (4096 - far % 4096) (4096 - near % 4096)))

/-- The channels of the context that make an access to n bytes at a window address stall; an address outside the windows lies
in no channel (R289). -/
def Ctx.stallsAt (c : Ctx) (g va n : Nat) (store : Bool) : List Nat :=
  match winOf va with
  | none => []
  | some w => (List.range 8).filter (fun i => (c.chan i).stalls g (w.pa g) n store)

/-- The channels that a piece of a put request stalls on: its write of the far bytes and its read of the near ones are accesses
of the context (R289). -/
def Ctx.putStalls (c : Ctx) (g far near n : Nat) : List Nat := c.stallsAt g far n true ++ c.stallsAt g near n false

/-- The piece that the channel unit would send next for a channel. -/
def Ctx.nextPiece (c : Ctx) (g n : Nat) : Option (Chan × Piece) :=
  let ch := c.chan n
  if ch.st ≠ .openGet ∧ ch.st ≠ .openPut then none
  else
    match ch.reqs.findIdx? (fun r => decide (r.sent < r.total)) with
    | none => none
    | some i =>
      let r := nth ch.reqs i default
      let (far, near, len) := r.cut
      let get := ch.st == .openGet
      if !get && !(c.putStalls g far near len).isEmpty then none
      else
        some ({ ch with reqs := setNth ch.reqs i { r with sent := r.sent + len } },
          { owner := .chan c.cid n, read := w64 (if get then far else near), write := w64 (if get then near else far),
            len := len, near := near, ident := ch.ident, satp := ch.satp, cls := r.cls, launch := wfld c.ulaunch 15 0,
            mask := ch.mask, get := get, first := r.sent == 0, req := r.at_, since := r.since })

/-- The Faulted channel on which the next piece of a put channel of a context stalls (R289). -/
def Ctx.pieceMeets (c : Ctx) (g n : Nat) : Option Nat :=
  if (c.chan n).st ≠ .openPut then none
  else
    ((c.chan n).reqs.find? (fun r => decide (r.sent < r.total))).bind (fun r =>
      let (far, near, len) := r.cut
      (c.putStalls g far near len).find? (fun i => (c.chan i).st.faulted))

/-- A piece of a put channel of the context of a hart stalls on Faulted channel i: the access is the context's, so its thread takes
cause 25 before its next instruction, in the mode in which it opened the channel (R289, R293; DEDUCED, log entry 38). -/
def State.pieceTrap (s : State) (g cid n i : Nat) : Option State :=
  (s.hartOfCid g cid).bind (fun h =>
    let c := s.ctx h
    if s.running h ∧ c.priv = (c.chan n).ident.priv ∧ !(s.slot h).noIrq then
      some (s.takeTrap h false 25 (chanTval (c.chan i).reason false i (c.chan i).faddr))
    else none)

/-- CHANNEL_PIECE_SEND: the channel unit of a core cuts and sends the next piece of a channel of a context; one that stalls on a
Faulted channel makes the thread meet it. -/
def execChannelPieceSend (cl core_ cid n : Nat) (s : State) : Out :=
  event (fun s =>
    let g := cl * 64 + core_
    (s.findCid g cid).bind (fun c =>
      match c.nextPiece g n with
      | some r => some ((s.modCid g cid (·.setChan n r.1)).modCore g (fun k => { k with pieces := k.pieces ++ [r.2] }))
      | none => (c.pieceMeets g n).bind (fun i => s.pieceTrap g cid n i))) s

/-! ### The pieces of a transfer task (spec/13_task.md R343) -/

/-- Rows of a transfer payload: its row length and its extents, 0 taken as 1. -/
def xferDims (b : List Byte) : Nat × Nat × Nat := (numAt b 0x60 4, max 1 (numAt b 0x64 4), max 1 (numAt b 0x68 4))

/-- Address of the first byte of row i on a side: its base and the offsets of its strides in the payload. -/
def xferRow (b : List Byte) (base s1 s2 i : Nat) : Nat :=
  let (_, e1, _) := xferDims b
  uint ((numAt b base 8 : Int) + ((i % e1 : Nat) : Int) * sint (numAt b s1 4) 32 + ((i / e1 : Nat) : Int) * sint (numAt b s2 4) 32) 64

/-- Source, destination and length of the pieces of n bytes, cut at the pages of both sides. -/
def cutRow (src dst : Nat) : Nat → Nat → List (Nat × Nat × Nat)
  | 0, _ => []
  | k + 1, n =>
    if n = 0 then []
    else
      let m := min n (min (4096 - src % 4096) (4096 - dst % 4096))
      (src, dst, m) :: cutRow (uint ((src + m : Nat) : Int) 64) (uint ((dst + m : Nat) : Int) 64) k (n - m)

/-- A piece put before the first one whose source does not lie below its own. -/
def insertPiece (p : Nat × Nat × Nat) : List (Nat × Nat × Nat) → List (Nat × Nat × Nat)
  | [] => [p]
  | q :: qs => if p.1 ≤ q.1 then p :: q :: qs else q :: insertPiece p qs

/-- The pieces of a transfer task, in ascending source order. -/
def xferPieces (b : List Byte) : List (Nat × Nat × Nat) :=
  let (row, e1, e2) := xferDims b
  if row = 0 then []
  else
    ((List.range (e1 * e2)).flatMap (fun i =>
      cutRow (xferRow b 0x50 0x6C 0x70 i) (xferRow b 0x58 0x74 0x78 i) row row)).foldr insertPiece []

/-! ### Retrievers (R283 to R285, R293, R295) -/

/-- Home devices recorded for the request of a piece. -/
def State.pieceHome (s : State) (g : Nat) (p : Piece) : Option (Nat × Nat) :=
  match p.owner with
  | .chan cid n =>
    ((s.findCid g cid).bind (fun c => (c.chan n).reqs.find? (fun r => r.at_ == p.req && r.total != 0))).bind (·.home)
  | .task cl e => ((s.cluster cl).engHome.find? (fun x => x.1 == e)).map (·.2)

/-- Home devices of the first piece recorded. -/
def State.setPieceHome (s : State) (g : Nat) (p : Piece) (home : Nat × Nat) : State :=
  match p.owner with
  | .chan cid n => s.modCid g cid (fun c => c.setChan n { c.chan n with
      reqs := (c.chan n).reqs.map (fun r => if r.at_ = p.req ∧ r.total ≠ 0 then { r with home := some home } else r) })
  | .task cl e => s.modCluster cl (fun c => { c with engHome := (e, home) :: c.engHome.filter (fun x => x.1 != e) })

/-- Reason of R294 for a failure of an engine access. -/
def EngFail.reason : EngFail → Nat
  | .page => 5
  | _ => 6

/-- Far address of a piece. -/
def Piece.far (p : Piece) : Nat := if p.get then p.read.toNat else p.write.toNat

/-- Window addresses of the copies that a multicast mask adds to a write at a window address. -/
def copiesOf (mask va : Nat) : List Nat :=
  match winOf va with
  | some (.scratch core off) =>
    ((List.range 64).filter (fun i => mask.testBit i && i != core)).map (fun i => winScratch + i * 2 ^ 18 + off)
  | _ => []

/-- Window addresses of the copies of a piece. -/
def Piece.copies (p : Piece) : List Nat := copiesOf p.mask p.write.toNat

/-- The home device of a target. -/
def Target.homeDev (t : Target) (devid : Nat) : Nat := if t.sram then devid else t.attr.home

/-- Bytes written at several targets. -/
def State.putAll (s : State) (e : Eng) (bs : List Byte) (ps : List Bool) (ts : List (Target × Nat)) : Option State :=
  ts.foldl (fun r t => r.bind (fun s =>
    match s.engPut e t.1 bs ps with
    | (s, .ok _) => some s
    | (_, .error _) => none)) (some s)

/-- The records of the poisoned blocks that a piece moves (R295; spec/06_page.md R167). -/
def State.moveErrors (s : State) (e : Eng) (p : Piece) (a : Nat) (ps : List Bool) : List ErrRec :=
  (poisonedBlocks a ps).map (fun b =>
    { kind := 6, asid := p.ident.asid, addr := paOf b, cl := e.g / 64, launch := p.launch, inj := s.injected.contains b })

/-- The bytes of a piece moved between translated ends. -/
def State.movePiece (s : State) (e : Eng) (p : Piece) (tr : Target) (ts : List (Target × Nat)) : Option State :=
  match s.engGet e tr p.len with
  | (_, .error _) => none
  | (s, .ok (bs, ps)) =>
    let ps := if p.pois then List.replicate bs.length true else ps
    (s.errors (s.moveErrors e p tr.a ps)).putAll e bs ps ts

/-- Global lines that a piece has written. -/
def globalLines (ts : List (Target × Nat)) : List Nat :=
  (ts.flatMap (fun t => if t.1.sram then [] else linesOf t.1.a t.2)).eraseDups

/-- An end of a piece leaves the Sv48 range (R292). -/
def Piece.leaves (p : Piece) : Bool :=
  wfld p.satp 63 60 != 0 && !(canonical p.read.toNat && canonical p.write.toNat)

/-- A Retriever carries out a piece: what becomes of the piece, or none while it must wait. -/
def State.runPiece (s : State) (g : Nat) (p : Piece) : Option (State × Piece) :=
  let failed (r : Nat) : Piece := { p with fail := some (r, p.far) }
  let e : Eng := { g := g, kind := 1, src := 0, ident := p.ident, satp := p.satp, cls := p.cls, since := some p.since }
  if p.leaves then some (s, failed 6)
  else
  match s.engTarget e .load p.read.toNat p.len with
  | (_, .error .later) => none
  | (s, .error f) => some (s, failed f.reason)
  | (s, .ok tr) =>
    match s.engTargets e .store ((p.write.toNat :: p.copies).map (fun a => (a, p.len))) with
    | (_, .error .later) => none
    | (s, .error f) => some (s, failed f.reason)
    | (s, .ok ts) =>
      let tw := (ts.headD (tr, 0)).1
      let home := (tr.homeDev s.devid, tw.homeDev s.devid)
      let e := { e with src := retrieverOf g (if p.get then tr.a else tw.a) }
      let pending := (s.core g).pieces.any (fun q => q.owner == p.owner && q.req == p.req && q.first && !q.done && q.fail.isNone)
      let moved : Piece := { p with done := true, lines := globalLines ts }
      match s.pieceHome g p with
      | some h => if h ≠ home then some (s, failed 7) else (s.movePiece e p tr ts).map (fun s => (s, moved))
      | none =>
        if !p.first && pending then none
        else (s.movePiece e p tr ts).map (fun s => (if p.first then s.setPieceHome g p home else s, moved))

/-- RETRIEVER_PIECE: the Retriever of piece idx of a core reads and writes its bytes, or finds that it fails. -/
def execRetrieverPiece (cl core_ idx : Nat) (s : State) : Out :=
  event (fun s =>
    let g := cl * 64 + core_
    match (s.core g).pieces[idx]? with
    | none => none
    | some p =>
      if p.done ∨ p.fail.isSome then none
      else (s.runPiece g p).map (fun r => r.1.modCore g (fun k => { k with pieces := setNth k.pieces idx r.2 }))) s

/-! ### Watermark, signal and faults (R288, R290, R293, R297) -/

/-- The watermark moved over the completed runs that start at it. -/
def Chan.extend (ch : Chan) : Chan :=
  (List.range ch.whole.length).foldl (fun ch _ =>
    match ch.whole.find? (fun r => r.1 == ch.wm.toNat) with
    | some r => { ch with wm := w64 (r.1 + r.2.1), whole := ch.whole.filter (fun x => x.1 != r.1) }
    | none => ch) ch

/-- The channel Faulted with a reason and an address; one that is Faulted already keeps its own. -/
def Chan.fault (ch : Chan) (reason addr : Nat) : Chan :=
  match ch.st with
  | .openGet => { ch with st := .faultGet, reason := reason, faddr := addr }
  | .openPut => { ch with st := .faultPut, reason := reason, faddr := addr }
  | _ => ch

/-- A request is complete: the watermark has passed its end (R290). -/
def ChanReq.complete (r : ChanReq) (wm : Nat) : Bool := decide (r.at_ + r.total ≤ wm)

/-- Complete requests at the front of a channel leave it, each with its signal; none while a signal cannot be written now. -/
def State.settle (s : State) (g launch : Nat) : Nat → Chan → Option (State × Chan)
  | 0, ch => some (s, ch)
  | k + 1, ch =>
    match ch.reqs with
    | [] => some (s, ch)
    | r :: rest =>
      if !r.complete ch.wm.toNat then some (s, ch)
      else if ch.sig = 0 then s.settle g launch k { ch with reqs := rest }
      else
        match s.signal (ch.eng g ch.sig) ch.sig launch decSignal with
        | (_, .later) => none
        | (s, .done) => s.settle g launch k { ch with reqs := rest }
        | (s, .failed) => s.settle g launch k ({ ch with reqs := rest }.fault 8 ch.sig)

/-- Settles a channel of a context of a core. -/
def State.settleChan (s : State) (g cid n : Nat) : Option State :=
  match s.findCid g cid with
  | none => some s
  | some c =>
    (s.settle g (wfld c.ulaunch 15 0) (c.chan n).reqs.length (c.chan n)).map (fun r =>
      r.1.modCid g cid (·.setChan n r.2))

/-- A landed piece of a channel. -/
def Chan.land (ch : Chan) (p : Piece) : Chan :=
  if ch.st = .cancelling then ch else ({ ch with whole := ch.whole ++ [(p.near, p.len, p.lines)] }).extend

/-- Global lines that the watermark of a channel passes when a piece lands: those of the runs that leave the list of runs above
it (spec/05_ordering.md R145). -/
def Chan.passed (ch : Chan) (p : Piece) : List Nat :=
  if ch.st = .cancelling then []
  else
    ((ch.whole ++ [(p.near, p.len, p.lines)]).filter (fun r => !(ch.land p).whole.any (fun x => x.1 == r.1))).flatMap (·.2.2)

/-- PIECE_LANDS: a moved piece completes; the watermark advances, the issuing core's L1D copies of the global lines that it
passes leave, and completed requests are signalled (R288, R290; spec/05_ordering.md R145). -/
def execPieceLands (cl core_ idx : Nat) (s : State) : Out :=
  event (fun s =>
    let g := cl * 64 + core_
    match (s.core g).pieces[idx]? with
    | none => none
    | some p =>
      if !p.done then none
      else
        let s := s.modCore g (fun k => { k with pieces := k.pieces.eraseIdx idx })
        match p.owner with
        | .task _ _ => some s
        | .chan cid n =>
          let lines := ((s.findCid g cid).map (fun c => (c.chan n).passed p)).getD []
          ((s.modCore g (fun k => lines.foldl (fun k l => k.l1dDropLine l) k)).modCid g cid
            (fun c => c.setChan n ((c.chan n).land p))).settleChan g cid n) s

/-- Reason of R355 for a failed piece of a transfer task. -/
def taskReason (r : Nat) : Nat :=
  match r with
  | 5 => 1 | 7 => 3 | _ => 2

/-- PIECE_FAILS: a failed piece leaves; its channel becomes Faulted unless it is being cancelled, or its task fails. -/
def execPieceFails (cl core_ idx : Nat) (s : State) : Out :=
  event (fun s =>
    let g := cl * 64 + core_
    match (s.core g).pieces[idx]? with
    | none => none
    | some p =>
      p.fail.map (fun f =>
        let s := s.modCore g (fun k => { k with pieces := k.pieces.eraseIdx idx })
        match p.owner with
        | .task k e => s.modCluster k (fun c => { c with engFail := c.engFail ++ [(e, taskReason f.1)] })
        | .chan cid n => s.modCid g cid (fun c => c.setChan n ((c.chan n).fault f.1 f.2)))) s

/-- A channel has pieces under way. -/
def Core.inFlight (k : Core) (cid n : Nat) : Bool := k.pieces.any (fun p => p.owner == .chan cid n)

/-- CHANNEL_FAULT_SIGNAL: a Faulted channel with no piece under way sets bit 63 of its signal, once. -/
def execChannelFaultSignal (cl core_ cid n : Nat) (s : State) : Out :=
  event (fun s =>
    let g := cl * 64 + core_
    match s.findCid g cid with
    | none => none
    | some c =>
      let ch := c.chan n
      if !ch.st.faulted ∨ ch.sigOr ∨ (s.core g).inFlight cid n then none
      else
        let mark (s : State) : State := s.modCid g cid (·.setChan n { ch with sigOr := true })
        if ch.sig = 0 then some (mark s)
        else
          match s.signal (ch.eng g ch.sig) ch.sig (wfld c.ulaunch 15 0) orSignal with
          | (_, .later) => none
          | (s, _) => some (mark s)) s

/-- The channel Closed; its watermark stays. -/
def Chan.close (ch : Chan) : Chan :=
  { ch with st := .closed, reqs := [], whole := [], reason := 0, faddr := 0, sigOr := false, owesOr := false }

/-- CHANNEL_CANCEL_DRAINED: a cancelling channel with no piece under way closes; one that had become Faulted first sets bit 63 of
its signal, where it had not yet (R290). -/
def execChannelCancelDrained (cl core_ cid n : Nat) (s : State) : Out :=
  event (fun s =>
    let g := cl * 64 + core_
    match s.findCid g cid with
    | none => none
    | some c =>
      let ch := c.chan n
      if ch.st ≠ .cancelling ∨ (s.core g).inFlight cid n then none
      else
        let done (s : State) : State := s.modCid g cid (·.setChan n ch.close)
        if !ch.owesOr ∨ ch.sig = 0 then some (done s)
        else
          match s.signal (ch.eng g ch.sig) ch.sig (wfld c.ulaunch 15 0) orSignal with
          | (_, .later) => none
          | (s, _) => some (done s)) s

/-- The channel cancelled, where it is open or Faulted (R297). A Faulted one still owes the OR of its signal that it has not done
(R290). -/
def Chan.cancel (ch : Chan) : Chan :=
  if ch.st = .closed then ch
  else { ch with st := .cancelling, owesOr := ch.owesOr || (ch.st.faulted && !ch.sigOr && ch.sig != 0) }

/-! ### xf.open (R286, R287, R303) -/

/-- The range of a channel in SRAM: its resolved base, none where it breaks the first rule of R287. -/
def chanBase (core_ base len : Nat) : Option Nat :=
  if len = 0 ∨ 2 ^ 26 < len then none
  else
    match winOf base with
    | some (.scratch _ off) => if off + len ≤ 2 ^ 18 then some base else none
    | some (.own off) => if off + len ≤ 2 ^ 18 then some (winScratch + core_ * 2 ^ 18 + off) else none
    | some (.vault _ off) => if off + len ≤ 2 ^ 26 then some base else none
    | none => none

/-- First model addresses of a channel's range and of its copies. -/
def Chan.starts (ch : Chan) (g : Nat) : List Nat := ch.places g ch.base

/-- The range and the copies of a new channel overlap no range of another channel that is not Closed (R287). -/
def Ctx.chanFree (c : Ctx) (g n : Nat) (new : Chan) : Bool :=
  (List.range 8).all (fun i =>
    i == n || (c.chan i).st == .closed ||
      (new.starts g).all (fun a =>
        match winOf (c.chan i).base with
        | some w => !(decide (a < w.pa g + (c.chan i).len) && decide (w.pa g < a + new.len))
        | none => true))

/-- The permission of R36 for every receiving scratchpad or vault. -/
def checkPlaces (i : Ident) (write : Bool) (base : Word) (n : Nat) : List Nat → M Unit
  | [] => pure ()
  | a :: as => do
    match (← get).permits a n write i with
    | .yes => pure ()
    | .busy => wait
    | .no => trap (if write then 7 else 5) base
    checkPlaces i write base n as

/-- XF_OPEN: a channel opened over the descriptor at x[rs1]. -/
def execXfOpen (a : BitVec 5) (d : BitVec 3) (s : State) : Out :=
  runThread (do
    let va ← getX a
    orTrap (va.toNat % 32 = 0) 4 va
    waitVecMem
    let bs ← loadBytes va 32
    let n := d.toNat
    let c ← ctx
    orTrap ((c.chan n).st == .closed) 25 (chanTval 1 false n 0)
    let f (o k : Nat) : Nat := leNat ((bs.drop o).take k)
    let base := f 0 8
    let len := f 8 4
    let dir := (f 12 1).testBit 0
    let mask := f 16 8
    let sig := f 24 8
    let bad : M Unit := trap 25 (chanTval 2 false n va.toNat)
    let s ← get
    let h := s.cur
    let resolved := (chanBase h.core base len).getD 0
    let ch : Chan := { st := if dir then .openPut else .openGet, base := resolved, len := len, wm := w64 resolved, ip := resolved,
                       mask := mask, sig := sig, satp := c.satp, ident := identOf c c.priv h }
    let inPad := match winOf resolved with
      | some (.scratch _ _) => true
      | _ => false
    let ok := (chanBase h.core base len).isSome && decide (f 12 1 ≤ 1) && decide (f 13 3 = 0)
      && (mask == 0 || (inPad && !dir)) && c.chanFree h.gcore n ch
    if ok then pure () else bad
    checkPlaces ch.ident (!dir) (w64 base) len (ch.starts h.gcore)
    if sig = 0 then pure ()
    else
      if sig % 8 = 0 then pure () else bad
      let _ ← translate .store (w64 sig) (w64 sig) 8
    modCtx (·.setChan n ch)) s

/-! ### xf.get, xf.put (R292, R304) -/

/-- A layout: extent and stride of each element of vs2 below vl. -/
def layoutOf (c : Ctx) (r vl : Nat) : List (Nat × Int) :=
  (List.range vl).map (fun k => let e := c.elem r 64 k; (fld e 31 0, sint (fld e 63 32) 32))

/-- A layout is legal: at most eight dimensions, no stride of dimension 0, no extent of zero. -/
def layoutOk (dims : List (Nat × Int)) : Bool :=
  decide (dims.length ≤ 8) && dims.all (fun d => d.1 != 0) && (dims.headD (1, 0)).2 == 0

/-- Bytes that a layout moves. -/
def layoutTotal (dims : List (Nat × Int)) : Nat :=
  if dims.isEmpty then 0 else dims.foldl (fun t d => t * d.1) 1

/-- The context meets a Faulted channel (R293). -/
def meetChan (n : Nat) : M Unit := do
  let ch := (← ctx).chan n
  orTrap (!ch.st.faulted) 25 (chanTval ch.reason false n ch.faddr)

/-- Far address, near address and length of the rows of a request, each cut at 4 KiB on either side as its pieces are. -/
def ChanReq.runs (r : ChanReq) : Nat → Nat → List (Nat × Nat × Nat)
  | 0, _ => []
  | k + 1, sent =>
    if r.total ≤ sent then []
    else
      let (far, near, n) := { r with sent := sent }.cut
      (far, near, n) :: r.runs k (sent + n)

/-- The Faulted channel that a put request would stall on when it is issued: the put's accesses are the context's, so the
instruction takes cause 25 (R289, R293; DEDUCED, log entry 38). -/
def Ctx.putMeets (c : Ctx) (g : Nat) (r : ChanReq) : Option Nat :=
  ((r.runs r.total 0).flatMap (fun p => c.putStalls g p.1 p.2.1 p.2.2)).find? (fun i => (c.chan i).st.faulted)

/-- The class that the requests of a context carry: scos.CLS where scos.OVR is 1 (R284). -/
def Ctx.carries (c : Ctx) : Option Nat := if wbit c.scos 4 then some (wfld c.scos 3 0) else none

/-- A request appended to a channel. -/
def xfRequest (get_ : Bool) (b a : BitVec 5) (n : Nat) : M Unit := do
  needV
  notFrozen
  let c ← ctx
  let x : VI := { w := 0x0200005B#32, vl := c.vl, vt := c.vtype, op1 := 0#64, op2 := 0#64, vs := c.vstart.toNat }
  require (!x.ill && x.sew == 64 && x.groupOk b.toNat 64)
  waitSeq
  require ((← ctx).vstart == 0#64)
  x.use b.toNat 64
  let c ← ctx
  meetChan n
  let ch := c.chan n
  orTrap (ch.st == (if get_ then .openGet else .openPut)) 25 (chanTval 1 false n 0)
  let dims := layoutOf c b.toNat c.vl
  orTrap (layoutOk dims) 25 (chanTval 3 false n 0)
  let t := layoutTotal dims
  orTrap (decide (t ≤ ch.base + ch.len - ch.ip)) 25 (chanTval 4 false n 0)
  let far ← getX a
  let s ← get
  let r : ChanReq := { far := far.toNat, dims := dims, at_ := ch.ip, total := t, sent := 0, cls := c.carries, home := none,
                       since := s.tick + 1 }
  match (if get_ then none else c.putMeets s.cur.gcore r) with
  | some i => trap 25 (chanTval (c.chan i).reason false i (c.chan i).faddr)
  | none => pure ()
  release 2
  let s ← get
  let s := s.tock.modCtx s.cur (·.setChan n { ch with reqs := ch.reqs ++ [r], ip := ch.ip + t })
  match s.settleChan s.cur.gcore c.cid n with
  | some s => set s
  | none => wait

/-- XF_GET. -/
def execXfGet (b a : BitVec 5) (d : BitVec 3) (s : State) : Out := runThread (xfRequest true b a d.toNat) s
/-- XF_PUT. -/
def execXfPut (b a : BitVec 5) (d : BitVec 3) (s : State) : Out := runThread (xfRequest false b a d.toNat) s

/-! ### xf.wm, xf.wait, xf.close, xf.cancel (R305) -/

/-- XF_WM. -/
def execXfWm (a : BitVec 5) (d : BitVec 3) (s : State) : Out :=
  runThread (do
    let n := d.toNat
    let ch := (← ctx).chan n
    let lvl := min (← getX a).toNat ch.ip
    if ch.st = .closed ∨ lvl ≤ ch.wm.toNat then pure ()
    else
      meetChan n
      wait) s

/-- A wait until the watermark reaches the issue pointer; a Faulted channel is met. -/
def waitChan (n : Nat) : M Unit := do
  let ch := (← ctx).chan n
  if ch.st = .closed then pure ()
  else
    meetChan n
    waitUnless (decide (ch.ip ≤ ch.wm.toNat))

/-- XF_WAIT. -/
def execXfWait (d : BitVec 3) (s : State) : Out := runThread (waitChan d.toNat) s

/-- A channel closed once its watermark reaches its issue pointer. -/
def closeChan (n : Nat) : M Unit := do
  waitUnless (((← ctx).chan n).st != .cancelling)
  waitChan n
  modCtx (fun c => c.setChan n (c.chan n).close)

/-- XF_CLOSE. -/
def execXfClose (d : BitVec 3) (s : State) : Out := runThread (closeChan d.toNat) s

/-- The channels of a light thread that suspends, closed in order (R297). -/
def closeChannels : List Nat → M Unit
  | [] => pure ()
  | n :: ns => do
    if ((← ctx).chan n).st = .closed then pure () else closeChan n
    closeChannels ns

/-- XF_CANCEL: the channel cancels; the instruction retires once it has drained and closed. -/
def execXfCancel (d : BitVec 3) (s : State) : Out :=
  runThread (do
    let n := d.toNat
    modCtx (fun c => c.setChan n (c.chan n).cancel)
    waitUnless (((← ctx).chan n).st == .closed)) s

/-! ### Register strips (R298 to R301, R306) -/

/-- The lowest free strip. -/
def Ctx.freeStrip (c : Ctx) : Option Nat := (List.range 4).find? (fun i => !(c.strip i).v)

/-- XF_VGET at issue: its checks, and an entry in the sequencer with the source and the stride as captured operands, and with
the identity, the address space and the class that its strip will have (R284; spec/11_group.md R525). With vl = 0 it never
reaches the sequencer and meets the vstart that applies to it here (R302; spec/07_context.md R524). -/
def execXfVget (b a d : BitVec 5) (s : State) : Out :=
  runThread (do
    needV
    notFrozen
    waitVl
    let c ← ctx
    let w : IWord := 2#6 ++ 1#1 ++ b ++ a ++ 3#3 ++ d ++ 0x5b#7
    let x : VI := { w := w, vl := c.vl, vt := c.vtype, op1 := 0#64, op2 := 0#64, vs := 0 }
    require (!x.ill && x.groupOk d.toNat x.sew)
    if c.vl = 0 then require (!(c.seq.isEmpty && c.vstart != 0#64))
    else
      let src ← getX a
      let st := sextW (wfld (← getX b) 31 0) 32
      orTrap (src.toNat % (x.sew / 8) = 0 && st.toNat % (x.sew / 8) = 0) 4 src
      waitUnless c.freeStrip.isSome
      pushSeq { bits := w, vl := c.vl, v := true, l := false, vtype := c.vtype, op1 := src, op2 := st,
                ident := identOf c c.priv (← me), satp := c.satp, cls := c.carries }) s

/-- XF_VWAIT at issue. -/
def execXfVwait (d : BitVec 5) (s : State) : Out :=
  runThread (do
    needV
    notFrozen
    enterSeq (3#6 ++ 1#1 ++ 0#5 ++ 0#5 ++ 3#3 ++ d ++ 0x5b#7) 0#64 0#64) s

/-- A strip that starts keeps the values of its destination registers (R301). -/
def Strip.keep (t : Strip) (c : Ctx) : Strip := { t with old := (List.range t.regs.2).map (fun k => c.getV (t.regs.1 + k)) }

/-- The registers r up to r + n are no longer poisoned: a new strip lands in them. -/
def Ctx.clearPoison (c : Ctx) (r n : Nat) : Ctx :=
  { c with vpoison := c.vpoison.filter (fun p => !(decide (r ≤ p.1) && decide (p.1 < r + n))) }

/-- xf.vget at the head of the sequencer: a release at device scope, and the strip starts. -/
def VI.vget (x : VI) : M Unit := do
  require (x.vs == 0)
  waitStrips x.vd (x.regs x.sew)
  let s ← get
  let c ← ctx
  waitUnless (!s.posted s.cur && s.acks.all (fun u => u.hart != s.cur))
  match c.freeStrip with
  | none => wait
  | some i =>
    modCtx (fun c =>
      let t : Strip := { v := true, src := x.op1.toNat, vd := x.vd, sew := wfld x.vt 5 3, start := 0, count := x.vl,
                         stride := x.op2.toInt, ident := x.ident, satp := x.satp, cls := x.cls }
      ((c.setStrip i (t.keep c)).clearPoison t.regs.1 t.regs.2).dirtyV)

/-- xf.vwait at the head of the sequencer. -/
def VI.vwait (x : VI) : M Unit := do
  require (x.vs == 0)
  waitStrips x.vd 1

/-- Element width of a strip in bits. -/
def Strip.width (t : Strip) : Nat := 8 * 2 ^ t.sew
/-- Elements of a group of 16 bytes that a strip still has to land. -/
def Strip.groupElems (t : Strip) (grp : Nat) : List Nat :=
  ((List.range (128 / t.width)).map (fun k => grp * (128 / t.width) + k)).filter
    (fun i => decide (t.start ≤ i) && decide (i < t.count))
/-- Source address of an element. -/
def Strip.addr (t : Strip) (i : Nat) : Nat := uint ((t.src : Int) + ((i - t.start : Nat) : Int) * t.stride) 64
/-- Groups that a strip has to land, in order. -/
def Strip.groups (t : Strip) : List Nat :=
  (List.range (ceilDiv (t.count * t.width) 128)).filter (fun g => !(t.groupElems g).isEmpty && !t.landed.contains g)

/-- The engine of a strip's element. -/
def Strip.eng (t : Strip) (g i : Nat) : Eng :=
  { g := g, kind := 1, src := winRetriever g (t.addr i), ident := t.ident, satp := t.satp, cls := t.cls }

/-- Physical address of an element, for the record of a consumed error. -/
def State.stripPa (s : State) (t : Strip) (g i : Nat) : Nat :=
  match s.engTarget (t.eng g i) .load (t.addr i) (t.width / 8) with
  | (_, .ok x) => x.a
  | _ => 0

/-- Register that element i of a strip lies in. -/
def Strip.regOf (t : Strip) (i : Nat) : Nat := t.vd + i * t.width / 512

/-- A poisoned element lands: its register takes back the value it had when the strip started, and is poisoned until it is
written again (R301). -/
def Ctx.landPoison (c : Ctx) (t : Strip) (i pa : Nat) : Ctx :=
  let r := t.regOf i
  { c with v := c.v.put r (t.old.getD (r - t.vd) (c.getV r)), vpoison := c.vpoison ++ [(r, w64 (t.addr i), pa)] }

/-- A clean element lands; a register that is poisoned keeps its old value (R301). -/
def Ctx.landClean (c : Ctx) (t : Strip) (i v : Nat) : Ctx :=
  if c.vpoison.any (fun p => p.1 == t.regOf i) then c else c.setElem t.vd t.width i v

/-- The strip notes what has landed of it. -/
def Strip.note (t : Strip) (i : Nat) (v : Option Nat) : Strip :=
  match v with
  | some v => { t with data := t.data ++ [(i, v)] }
  | none => { t with bad := t.bad ++ [i] }

/-- One element of strip n landed in the context of a hart. -/
def State.landElem (s : State) (h : Hart) (n : Nat) (t : Strip) (i : Nat) : State × Except EngFail Unit :=
  match s.engRead (t.eng h.gcore i) (t.addr i) (t.width / 8) with
  | (s, .error f) => (s, .error f)
  | (s, .ok (bs, ps)) =>
    let pa := s.stripPa t h.gcore i
    let v : Option Nat := if ps.any id then none else some (leNat bs)
    (s.modCtx h (fun c =>
      let c := match v with
        | none => c.landPoison t i pa
        | some v => c.landClean t i v
      c.setStrip n ((c.strip n).note i v)), .ok ())

/-- Elements of strip n landed until one fails: the state, and the failing element. -/
def State.landElems (s : State) (h : Hart) (n : Nat) (t : Strip) : List Nat → State × Option (Nat × EngFail)
  | [] => (s, none)
  | i :: is =>
    match s.landElem h n t i with
    | (s, .ok _) => s.landElems h n t is
    | (s, .error f) => (s, some (i, f))

/-- STRIP_ELEMENT_LAND: an element group of a pending strip lands in the registers of a context in its slot. -/
def execStripElementLand (cl core_ cid strip grp : Nat) (s : State) : Out :=
  event (fun s =>
    let g := cl * 64 + core_
    match s.hartOfCid g cid with
    | none => none
    | some h =>
      let t := (s.ctx h).strip strip
      if !t.v ∨ t.fault.isSome ∨ !t.groups.contains grp then none
      else
        match s.landElems h strip t (t.groupElems grp) with
        | (_, some _) => none
        | (s, none) =>
          let t := { (s.ctx h).strip strip with landed := grp :: t.landed }
          some (s.modCtx h (·.setStrip strip (if t.groups.isEmpty then {} else t)))) s

/-- STRIP_ELEMENT_FAIL: the lowest element still to land fails its checks; the elements below it in its group land, and the
strip is Faulted at it. -/
def execStripElementFail (cl core_ cid strip : Nat) (s : State) : Out :=
  event (fun s =>
    let g := cl * 64 + core_
    match s.hartOfCid g cid with
    | none => none
    | some h =>
      let t := (s.ctx h).strip strip
      if !t.v ∨ t.fault.isSome then none
      else
        match t.groups with
        | [] => none
        | grp :: _ =>
          match s.landElems h strip t (t.groupElems grp) with
          | (_, none) => none
          | (_, some (_, .later)) => none
          | (s, some (i, f)) =>
            some (s.modCtx h (fun c => c.setStrip strip
              { c.strip strip with start := i, src := t.addr i, landed := [], fault := some f.reason }))) s

/-- The first element of a strip that a cut-back does not keep: that of the first group which has not landed. -/
def Strip.cutAt (t : Strip) : Nat :=
  match t.groups with
  | [] => t.count
  | grp :: _ => (t.groupElems grp).headD t.start

/-- A strip cut back to the end of the landed groups that start at its vstart (spec/07_context.md R189). -/
def Strip.cutBack (t : Strip) : Strip :=
  if !t.v then t
  else if t.groups.isEmpty then {}
  else
    let i := t.cutAt
    { t with start := i, src := t.addr i, landed := [], fault := none
             data := t.data.filter (fun d => decide (d.1 < i)), bad := t.bad.filter (fun j => decide (j < i)) }

/-- A register of a strip as a cut-back leaves it: the data of discarded groups are gone, and so is their poison; the kept elements
that landed clean stand, unless one of its kept elements landed poisoned (spec/07_context.md R189; spec/10_transfer.md R301). -/
def Ctx.cutReg (c : Ctx) (t : Strip) (r : Nat) : Ctx :=
  let i := t.cutAt
  let c := { c with v := c.v.put r (t.old.getD (r - t.vd) (c.getV r)) }
  if t.bad.any (fun j => decide (j < i) && t.regOf j == r) then c
  else
    (t.data.filter (fun d => decide (d.1 < i) && t.regOf d.1 == r)).foldl (fun c d => c.setElem t.vd t.width d.1 d.2)
      { c with vpoison := c.vpoison.filter (fun p => p.1 ≠ r) }

/-- Strip n of a context cut back, with its registers (spec/07_context.md R189). -/
def Ctx.cutStrip (c : Ctx) (n : Nat) : Ctx :=
  let t := c.strip n
  if !t.v then c
  else ((List.range t.regs.2).foldl (fun c k => c.cutReg t (t.regs.1 + k)) c).setStrip n t.cutBack

end Sys2Proof.Machine
end

