-- ==== Sys2Proof/Machine/SeqHead.lean ====
section
/-! DEFINITION. The sequencer at work: its head entry, captured loops, faults of queued vector work (spec/07_context.md R190 to
R194, R524; spec/08_vector.md R243, R245). -/

namespace Sys2Proof.Machine

open Sys2Proof

/-- The entry that runs next, by its position: the first body entry that has not run in this iteration, or the head (R245). -/
def Ctx.seqNext (c : Ctx) : Option (Nat × SeqEnt) :=
  match c.seq with
  | [] => none
  | e :: _ => if e.l then (c.seq.zipIdx.find? (fun p => p.1.l && p.1.v)).map (fun p => (p.2, p.1)) else some (0, e)

/-- An entry as the vector unit sees it, with vstart as it stands. -/
def SeqEnt.instr (e : SeqEnt) (c : Ctx) : VI :=
  { w := e.bits, vl := e.vl, vt := e.vtype, op1 := e.op1, op2 := e.op2, vs := c.vstart.toNat, ident := e.ident, satp := e.satp,
    cls := e.cls }

/-- An instruction of the sequencer runs: a row of an accumulator, a register strip, or vector work. -/
def VI.run (x : VI) : M Unit :=
  if fOp x.w = 0x5b#7 then
    if fF3 x.w = 1#3 then x.row
    else if fF6 x.w = 2 then x.vget
    else x.vwait
  else x.runVec

/-- A unit-stride access of a body. -/
def SeqEnt.isMem (e : SeqEnt) : Bool := isVLoad e.bits || isVStore e.bits

/-- A body entry that has completed its iteration: its base advances (R243, R245). -/
def SeqEnt.passed (e : SeqEnt) : SeqEnt :=
  { e with v := false
           op1 := if e.isMem then e.op1 + w64 (e.instr {}).advance else e.op1 }

/-- The loop after a body entry has completed: an iteration whose entries have all run ends, and with the last one the body
leaves the sequencer. -/
def Ctx.loopTurn (c : Ctx) : Ctx :=
  if c.seq.any (fun e => e.l && e.v) then c
  else
    let i := c.vlpidx + 1#64
    if i = c.vlpcnt then { c with vlpidx := i, seq := c.seq.filter (fun e => !e.l) }
    else { c with vlpidx := i, seq := c.seq.map (fun e => if e.l then { e with v := true } else e) }

/-- The context after entry number i has completed: vstart is 0 for the next entry, which has not begun. -/
def Ctx.seqDone (c : Ctx) (i : Nat) (e : SeqEnt) : Ctx :=
  let c := { c with vstart := 0#64, vfrom := none }
  if e.l then ({ c with seq := setNth c.seq i e.passed } : Ctx).loopTurn else { c with seq := c.seq.drop 1 }

/-- The sequencer of a hart may run (R175, R191, R206). -/
def State.seqReady (s : State) (h : Hart) : Bool :=
  s.running h && (s.ctx h).frozen.isNone && !(s.slot h).noIrq

/-- The entries of a hart's sequencer where one of them has trapped or waits: every one keeps its place (R190, R191). -/
def State.keepSeq (s : State) (h : Hart) (seq : List SeqEnt) : State := s.modCtx h (fun c => { c with seq := seq })

/-- What walks have left for the accesses of the sequencer goes with the entry that has completed (spec/06_page.md R162). -/
def Slot.seqClear (t : Slot) : Slot := { t with marks := t.marks.filter (fun m => m.part ≠ .vector) }

/-- The next entry of a hart's sequencer runs: the state, and whether it completed. A trap freezes the sequencer; a wait
leaves the entry at its place. -/
def State.seqStep (s : State) (h : Hart) : Option (State × Bool) :=
  if !s.seqReady h then none
  else
    (s.ctx h).seqNext.map (fun p =>
      match p.2.instr (s.ctx h) |>.run { s with cur := h, ibits := p.2.bits } with
      | .ok _ s' => (((s'.modCtx h (fun c => c.seqDone p.1 p.2)).modSlot h Slot.seqClear).perfCycles h.gcore 7 |>.wonVec h, true)
      | .error (.trap cause tval) s' => ((s'.keepSeq h (s.ctx h).seq).takeTrap h false cause tval, false)
      | .error _ s' => (s'.keepSeq h (s.ctx h).seq, false))

/-- SEQUENCER_HEAD_EXECUTE: the head entry of a hart's sequencer runs. -/
def execSequencerHeadExecute (h : Hart) (s : State) : Out := event (fun s => (s.seqStep h).map (·.1)) s

/-- Entries run, at most n of them, until one does not complete or the iteration ends. -/
def State.loopPass (h : Hart) (idx : Word) : Nat → State → State
  | 0, s => s
  | n + 1, s =>
    if (s.ctx h).vlpidx ≠ idx ∨ !(s.ctx h).loopLive then s
    else
      match s.seqStep h with
      | none => s
      | some (s, true) => State.loopPass h idx n s
      | some (s, false) => s

/-- LOOP_ITERATION: the body of a live loop runs to the end of its iteration, or to the entry that traps or waits. -/
def execLoopIteration (h : Hart) (s : State) : Out :=
  event (fun s =>
    match (s.ctx h).seq with
    | [] => none
    | e :: _ => if e.l ∧ s.seqReady h then some (State.loopPass h (s.ctx h).vlpidx 16 s) else none) s

end Sys2Proof.Machine
end

