-- ==== Sys2Proof/Machine/Weight.lean ====
section
/-! DEFINITION. Launches as weight sees them, light records, owners of addresses, arrival units and the path of a record from
its sender to a slot (spec/14_kernel.md R366, R367, R376, R377, R379, R380; spec/07_context.md R172; spec/11_group.md R313 to
R317, R320, R526; spec/15_frontier.md R401, R404). -/

namespace Sys2Proof.Machine

open Sys2Proof

/-! ### Work tables (spec/14_kernel.md R366, R367) -/

/-- Key of a slot of a level in the work tables: LEVEL and SLOT as a handle holds them. -/
def workKey (level slot : Nat) : Nat := level * 2 ^ 16 + slot
/-- Slots of a level. -/
def levelSlots (level : Nat) : Nat :=
  match level with
  | 0 => 65536 | 1 => 8192 | 2 => 1024 | _ => 256
/-- An entry of the work tables. -/
def State.workAt (s : State) (k : Nat) : Work := s.work.get {} k
/-- The state with an entry replaced. -/
def State.setWork (s : State) (k : Nat) (w : Work) : State := { s with work := s.work.put k w }
/-- The state with an entry updated. -/
def State.modWork (s : State) (k : Nat) (f : Work → Work) : State := s.setWork k (f (s.workAt k))
/-- The handle of an entry (R367). -/
def Work.handle (w : Work) (k : Nat) : Nat := w.gen % 2 ^ 32 * 2 ^ 18 + k

/-- The entry begins to sweep with a cause, where it is Running. -/
def Work.sweepFor (w : Work) (cause : Nat) : Work :=
  if w.st = .running then { w with st := .sweeping, cause := cause } else w

/-- Weight of a launch is lost (R377): LOST is set; a Running launch fails with cause 7, a Held slot is Retired. -/
def Work.loseWeight (w : Work) : Work :=
  match w.st with
  | .free | .retired => w
  | .held => { w with lost := true, st := .retired }
  | _ => ({ w with lost := true }).sweepFor 7

/-- Weight of a launch is lost. -/
def State.loseWeight (s : State) (launch : Nat) : State := s.modWork launch Work.loseWeight

/-- A failure reported by an engine fails a Running launch (R379). -/
def State.failLaunch (s : State) (launch cause : Nat) : State := s.modWork launch (·.sweepFor cause)

/-- Weight returned to the collector of a launch: a message on its way (R376). -/
def State.giveBack (s : State) (launch amount : Nat) : State :=
  { s with wmsgs := s.wmsgs ++ [{ slot := launch, gen := (s.workAt launch).gen, amount := amount }] }

/-- An engine adds 2^32 to the collector of a launch, performed before the weight is given (R376). -/
def State.engBorrow (s : State) (launch : Nat) : State := s.modWork launch (fun w => { w with issued := w.issued + 2 ^ 32 })

/-! ### Light records (spec/07_context.md R172) -/

/-- Doubleword 0 of a record. -/
def recDw0 (r : LightRec) : Nat :=
  r.pc % 2 ^ 48 + r.lslot % 2 ^ 12 * 2 ^ 48 + b2n r.rx * 2 ^ 60 + b2n r.fp * 2 ^ 61 + b2n r.bh * 2 ^ 62 + b2n r.bad * 2 ^ 63

/-- The 64 bytes of a record. -/
def recBytes (r : LightRec) : List Byte :=
  leBytes 8 (recDw0 r) ++ leBytes 8 r.weight ++ (List.range 6).flatMap (fun i => leBytes 8 (nth r.a i 0#64).toNat)

/-- Doubleword i of a string of bytes. -/
def dwAt (bs : List Byte) (i : Nat) : Nat := leNat ((bs.drop (8 * i)).take 8)

/-- The record that 64 bytes hold. -/
def lightOf (bs : List Byte) : LightRec :=
  let d := dwAt bs 0
  { pc := fld d 47 0, lslot := fld d 59 48, rx := d.testBit 60, fp := d.testBit 61, bh := d.testBit 62, bad := d.testBit 63,
    weight := dwAt bs 1, a := (List.range 6).map (fun i => w64 (dwAt bs (i + 2))) }

/-- The record in which a thread's context travels (R174, spec/11_group.md R323). -/
def Ctx.record (c : Ctx) (pc : Word) (rx : Bool) : LightRec :=
  { pc := wfld pc 47 0, lslot := wfld c.ulaunch 11 0, rx := rx, fp := c.fp, bh := c.bh, bad := false,
    weight := c.uweight.toNat, a := (List.range 6).map (fun i => c.getX (10 + i)) }

/-! ### Owners (spec/11_group.md R313) -/

/-- Global core rank of the owner of an address, for a thread of core g. -/
def ownerOf (g va : Nat) : Option Nat :=
  match winOf va with
  | some (.scratch c _) => some (g / 64 * 64 + c)
  | some (.own _) => some g
  | some (.vault id _) => some (id * 64 + (fld va 13 8 ^^^ fld va 15 14))
  | none => none

/-! ### Arrival units (spec/11_group.md R315 to R317) -/

/-- Records the spill ring of a core can hold. -/
def Core.ringSize (k : Core) : Nat := 2 ^ (k.rsize + 8)
/-- Offset in its vault of record number i of a spill ring. -/
def Core.ringOff (k : Core) (i : Nat) : Nat := k.roff * 65536 + 64 * (i % k.ringSize)
/-- Records that an arrival unit holds. -/
def Core.arrivals (k : Core) : Nat := k.queue.length + k.ringCnt

/-- An arrival unit takes a record: into the queue where the ring is empty and the queue has room, else into the ring where
it has room; none where it refuses. -/
def State.takeIn (s : State) (g : Nat) (r : LightRec) : Option State :=
  let k := s.core g
  let s := s.perf g 11 1
  if k.ringCnt = 0 ∧ k.queue.length < 32 then some (s.modCore g (fun k => { k with queue := k.queue ++ [r] }))
  else
    let off := k.ringOff (k.ringHead + k.ringCnt)
    if k.ringCnt < k.ringSize ∧ off + 64 ≤ 2 ^ 26 then
      some (((s.putBytes (vaultPa k.rvault off) (recBytes r) none).modCore g (fun k => { k with ringCnt := k.ringCnt + 1 })).perf g 12 1)
    else none

/-- A record lost with its weight, and the error record of kind 10 against its launch, with the poisoned block that it met, if any
(spec/07_context.md R172, R223; R315). -/
def State.dropRecord (s : State) (g : Nat) (r : LightRec) (b : Option Nat) : State :=
  (s.error { kind := 10, lost := true, asid := (s.workAt r.lslot).asid, addr := (b.map paOf).getD 0, cl := g / 64, launch := r.lslot
             inj := (b.map s.injected.contains).getD false }).loseWeight r.lslot

/-- The ring's oldest record, with the first poisoned block of it; the ring without it. -/
def State.popRing (s : State) (g : Nat) : State × LightRec × Option Nat :=
  let k := s.core g
  let a := vaultPa k.rvault (k.ringOff k.ringHead)
  let s := s.scrubSoft a 64
  (s.modCore g (fun k => { k with ringHead := (k.ringHead + 1) % k.ringSize, ringCnt := k.ringCnt - 1 }),
   lightOf (s.getBytes a 64), s.poisonIn a 64)

/-- Ring records move to the queue's tail until it is full or the ring is empty; a poisoned one is discarded (R315). -/
def State.refill (g : Nat) : Nat → State → State
  | 0, s => s
  | n + 1, s =>
    let k := s.core g
    if k.ringCnt = 0 ∨ k.queue.length ≥ 32 then s
    else
      match s.popRing g with
      | (s, r, some b) => State.refill g n (s.dropRecord g r (some b))
      | (s, r, none) => State.refill g n (s.modCore g (fun k => { k with queue := k.queue ++ [r] }))

/-- The head of the queue leaves, and the ring refills it. -/
def State.popQueue (s : State) (g : Nat) : State × Option LightRec :=
  match (s.core g).queue with
  | [] => (s, none)
  | r :: rest =>
    (State.refill g (s.core g).ringCnt (s.modCore g (fun k => { k with queue := rest })), some r)

/-- Every record of the ring, oldest first; poisoned ones are discarded. -/
def State.drainRing (g : Nat) : Nat → State → List LightRec → State × List LightRec
  | 0, s, rs => (s, rs)
  | n + 1, s, rs =>
    if (s.core g).ringCnt = 0 then (s, rs)
    else
      match s.popRing g with
      | (s, r, some b) => State.drainRing g n (s.dropRecord g r (some b)) rs
      | (s, r, none) => State.drainRing g n s (rs ++ [r])

/-- Records written back to the ring, in the last of the slots that its records held before: a ring never grows past the slots
that were checked against the vault's end (R315, R317; which slots the records that stay take is DESIGN CHOICE, log entry 22). -/
def State.putRing (s : State) (g : Nat) (rs : List LightRec) : State :=
  let back (k : Core) : Core := { k with ringHead := (k.ringHead + k.ringSize - rs.length % k.ringSize) % k.ringSize }
  rs.foldl (fun s r =>
    let k := s.core g
    (s.putBytes (vaultPa k.rvault (k.ringOff (k.ringHead + k.ringCnt))) (recBytes r) none).modCore g
      (fun k => { k with ringCnt := k.ringCnt + 1 })) (s.modCore g back)

/-- Records of an arrival unit that satisfy a test leave it; the others keep their order (R315). -/
def State.pullRecords (s : State) (g : Nat) (p : LightRec → Bool) : State × List LightRec :=
  let (s, ring) := State.drainRing g (s.core g).ringCnt s []
  let q := (s.core g).queue
  let keep := (q ++ ring).filter (fun r => !p r)
  let s := s.modCore g (fun k => { k with queue := keep.take 32 })
  (s.putRing g (keep.drop 32), (q ++ ring).filter p)

/-! ### Frontier records (spec/15_frontier.md R401, R404) -/

/-- Cluster, entry and generation that a frontier handle names; none where a bit stands in a field that is 0. -/
def fntHandle (h : Nat) : Option (Nat × Nat × Nat) :=
  if fld h 63 48 ≠ 0 ∨ fld h 15 8 ≠ 0 then none else some (fld h 5 0, fld h 7 6, fld h 47 16)

/-- A tracker entry. -/
def State.trk (s : State) (cl ent : Nat) : Trk := (s.cluster cl).trks.get {} ent
/-- The state with a tracker entry updated. -/
def State.modTrk (s : State) (cl ent : Nat) (f : Trk → Trk) : State :=
  s.modCluster cl (fun c => { c with trks := c.trks.put ent (f (c.trks.get {} ent)) })
/-- The state of the frontier launch that an entry belongs to, kept in band 0's entry until it ends (R403). -/
def State.fntState (s : State) (t : Trk) : FntSt :=
  if t.ended then t.st
  else
    match t.bands with
    | (c, e) :: _ => (s.trk c e).st
    | [] => t.st

/-- The band entry that a record with FP = 1 belongs to: its A5 names the entry in its present generation, and its LSLOT is
the launch's (R404). -/
def State.bandOf (s : State) (r : LightRec) : Option (Nat × Nat) :=
  match fntHandle (nth r.a 5 0#64).toNat with
  | none => none
  | some (c, e, gen) =>
    let t := s.trk c e
    if r.fp ∧ t.gen % 2 ^ 32 = gen ∧ t.gen ≠ 0 ∧ t.launch % 4096 = r.lslot then some (c, e) else none

/-- What becomes of a record of a frontier launch that no slot has taken. -/
inductive Withdraw where
  | keep                     -- it is delivered
  | hold (cl ent : Nat)      -- it is withdrawn to its band's tracker
  | discard                  -- it is withdrawn and discarded, its weight returned to the collector
deriving DecidableEq, Repr

/-- The fate of a record by the state of its frontier launch (R403, R404). -/
def State.withdrawal (s : State) (r : LightRec) : Withdraw :=
  match s.bandOf r with
  | none => .keep
  | some (c, e) =>
    match s.fntState (s.trk c e) with
    | .stopping | .stopped => .hold c e
    | .cancelled | .failed => .discard
    | _ => .keep

/-! ### Senders and answers (R314, R317, R320, R526) -/

/-- A record put on its way to the arrival unit of a core. -/
def State.sendRecord (s : State) (g : Nat) (src : RecSource) (r : LightRec) : State := { s with recs := s.recs ++ [(g, src, r)] }

/-- The answer to the sender: a thread's slot is told, a spawn task and a launch count an acceptance. -/
def State.answer (s : State) (src : RecSource) (r : LightRec) (ok : Bool) : State :=
  match src with
  | .thread h =>
    s.modSlot h (fun t => { t with wait := t.wait.map (fun w =>
      if w.kind = .recordSent then { w with kind := if ok then .recordTaken else .recordRefused } else w) })
  | .engine cl u =>
    if ok ∧ u ≥ 16 then
      s.modCluster cl (fun c =>
        let t := c.tasks.get {} (u - 16)
        { c with tasks := c.tasks.put (u - 16) { t with acked := t.acked + 1, passed := t.passed + r.weight } })
    else s
  | .dispatch =>
    s.modWork r.lslot (fun w => if ok ∧ w.st = .running then { w with accepted := w.accepted + 1 } else w)
  | .intake => s

/-- Two sources are one sender: the spawn unit of a Herder sends for all its tasks (R526). -/
def srcSame (a b : RecSource) : Bool :=
  match a, b with
  | .engine c u, .engine d v => c == d && (u == v || (decide (16 ≤ u) && decide (16 ≤ v)))
  | a, b => a == b

/-- The record's launch is being swept or has been: the record is discarded; its weight is returned unless the slot is
Retired (spec/14_kernel.md R380). -/
def WorkSt.discards : WorkSt → Bool
  | .sweeping | .held | .retired => true
  | _ => false

/-- A withdrawn record is held in its band's tracker, which takes its weight back (spec/15_frontier.md R402, R404). -/
def State.withdraw (s : State) (cl ent : Nat) (r : LightRec) : State :=
  s.modTrk cl ent (fun t => { t with withdrawn := t.withdrawn ++ [r], weight := t.weight + r.weight })

/-- A record that its frontier launch withdraws as it reaches an arrival unit, a hold buffer or an engine's hold; none where it is
kept (spec/15_frontier.md R404). -/
def State.withdrawn (s : State) (r : LightRec) : Option State :=
  match s.withdrawal r with
  | .hold c e => some (s.withdraw c e r)
  | .discard => some (s.giveBack r.lslot r.weight)
  | .keep => none

/-- A record reaches the arrival unit of a core: it is discarded with its launch, withdrawn to its tracker, accepted, or
refused (none) (R315, R317, R404; spec/14_kernel.md R380). -/
def State.arrive (s : State) (g : Nat) (r : LightRec) : Option State :=
  let st := (s.workAt r.lslot).st
  if st.discards then some (if st = .retired then s else s.giveBack r.lslot r.weight)
  else
    match s.withdrawn r with
    | some s => some s
    | none => s.takeIn g r

/-- A refused record: its thread is told; an engine of the device holds it for an offer again (R317). -/
def State.refuse (s : State) (g : Nat) (src : RecSource) (r : LightRec) : State :=
  match src with
  | .thread _ => s.answer src r false
  | _ => s.modCluster (g / 64) (fun c => { c with held := c.held ++ [(g % 64, src, r)] })

/-- A record delivered to a core: behind held records of the same source it is held too, unless its frontier launch withdraws
it (spec/15_frontier.md R404). -/
def State.deliver (s : State) (g : Nat) (src : RecSource) (r : LightRec) : State :=
  if (s.cluster (g / 64)).held.any (fun x => x.1 == g % 64 && srcSame x.2.1 src) then
    match s.withdrawn r with
    | some s => s.answer src r true
    | none => s.refuse g src r
  else
    match s.arrive g r with
    | some s => s.answer src r true
    | none => s.refuse g src r

/-- The first record under way from a source to a core is removed. -/
def dropFirst (g : Nat) (src : RecSource) : List (Nat × RecSource × LightRec) → List (Nat × RecSource × LightRec)
  | [] => []
  | x :: xs => if x.1 = g ∧ x.2.1 = src then xs else x :: dropFirst g src xs

/-- A record for a rank in transit reaches the hold buffer: its frontier launch withdraws it, or it is held; none where all of the
buffer's 256 places are taken, and it waits in the network (R320; spec/15_frontier.md R404). -/
def State.holdRecord (s : State) (g : Nat) (src : RecSource) (r : LightRec) : Option State :=
  match s.withdrawn r with
  | some s => some (s.answer src r true)
  | none =>
    if (s.cluster (g / 64)).hold.length < holdSize then
      some (s.modCluster (g / 64) (fun c => { c with hold := c.hold ++ [.record (g % 64) src r] }))
    else none

/-- LIGHT_RECORD_ARRIVAL: the oldest record under way from a source to a core reaches it; while the rank is in transit the
hold buffer takes it (R315, R320). -/
def execLightRecordArrival (cl core_ : Nat) (src : RecSource) (rec : LightRec) (s : State) : Out :=
  event (fun s =>
    let g := cl * 64 + core_
    match s.recs.find? (fun x => x.1 == g && srcSame x.2.1 src) with
    | none => none
    | some x =>
      if x.2.1 ≠ src ∨ x.2.2 ≠ rec then none
      else
        let s := { s with recs := dropFirst g src s.recs }
        if s.inTransit g then s.holdRecord g src rec else some (s.deliver g src rec)) s

/-- A held record can be taken now: no older one of its source and core is held, its rank is not in transit, and its
arrival unit would not refuse it. -/
def State.canOffer (s : State) (cl : Nat) (before : List (Nat × RecSource × LightRec)) (x : Nat × RecSource × LightRec) : Bool :=
  !s.inTransit (cl * 64 + x.1) && !before.any (fun y => y.1 == x.1 && srcSame y.2.1 x.2.1) && (s.arrive (cl * 64 + x.1) x.2.2).isSome

/-- RECORD_REOFFER: the engines of the device offer again the first record held for a core of a cluster that is taken now
(R317). -/
def execRecordReoffer (cl : Nat) (s : State) : Out :=
  event (fun s =>
    let l := (s.cluster cl).held
    match (List.range l.length).find? (fun i =>
        match l[i]? with
        | some x => s.canOffer cl (l.take i) x
        | none => false) with
    | none => none
    | some i =>
      match l[i]? with
      | none => none
      | some (c, src, r) =>
        ((s.modCluster cl (fun k => { k with held := k.held.eraseIdx i })).arrive (cl * 64 + c) r).map (·.answer src r true)) s

/-- Records that an arrival unit holds as a sender counts them: those it holds, and those that the sender has sent to it and
that are not yet answered (R526). -/
def State.senderCount (s : State) (src : RecSource) (g : Nat) : Nat :=
  (s.core g).arrivals + s.recs.countP (fun x => x.1 == g && srcSame x.2.1 src)
    + (s.cluster (g / 64)).held.countP (fun x => x.1 == g % 64 && srcSame x.2.1 src)
    + (s.cluster (g / 64)).hold.countP (fun x => match x with
        | .record c q _ => c == g % 64 && srcSame q src
        | _ => false)

/-- The core of a list with the fewest records, the first of the list on a tie (R526). -/
def State.fewest (s : State) (src : RecSource) (gs : List Nat) : Nat :=
  (gs.foldl (fun (b : Option (Nat × Nat)) g =>
    let n := s.senderCount src g
    match b with
    | none => some (n, g)
    | some (m, _) => if n < m then some (n, g) else b) none |>.map (·.2)).getD 0

/-- Cores of a cluster, by global rank. -/
def coresOf (cl : Nat) : List Nat := (List.range 64).map (cl * 64 + ·)

/-- Clusters of a mask, rising. -/
def clustersOf (m : Nat) : List Nat := (List.range 40).filter (fun k => m.testBit k)

/-- The thread of the instruction sends a record and waits for the answer (R314); a, b and attr are what the instruction
needs when it is answered. -/
def sendAndWait (g : Nat) (r : LightRec) (a b : Nat) (attr : Attr) (cell : List Byte := []) : M Unit := do
  upd (fun s => s.sendRecord g (.thread s.cur) r)
  setWait (some { kind := .recordSent, a := a, b := b, attr := attr, cell := cell })
  wait

end Sys2Proof.Machine
end

