-- ==== Sys2Proof/Machine/Image.lean ====
section
/-! DEFINITION. The heavy image: its layout, what a save writes and what a load takes from it (spec/07_context.md R182 to R189,
R198, R202 to R204; spec/08_vector.md R245; spec/10_transfer.md R297, R301). -/

namespace Sys2Proof.Machine

open Sys2Proof

/-! ### Waits of a context that leaves its thread (R195, R196, R212) -/

/-- A channel of a context has nothing left to land: every piece of an open channel has landed, and no piece of any other is
under way. -/
def Core.chanLanded (k : Core) (c : Ctx) (n : Nat) : Bool :=
  let ch := c.chan n
  match ch.st with
  | .closed => true
  | .openGet | .openPut => ch.reqs.isEmpty && !k.inFlight c.cid n
  | _ => !k.inFlight c.cid n

/-- Every transfer of the context's channels has landed. -/
def Core.allLanded (k : Core) (c : Ctx) : Bool := (List.range 8).all (fun n => k.chanLanded c n)

/-- No accepted tile operation names an accumulator that the context has claimed. -/
def Core.tilesDone (k : Core) (c : Ctx) : Bool :=
  c.claimed.all (fun n => match c.acc n with | some p => !k.pnd p | none => true)

/-! ### Words of the image -/

/-- Doublewords as bytes. -/
def dwords (l : List Word) : List Byte := l.flatMap (fun v => leBytes 8 v.toNat)

/-- Code of a channel state in an image (spec/10_transfer.md R297); a cancelling channel drains before a save. -/
def ChanState.code : ChanState → Nat
  | .closed | .cancelling => 0
  | .openGet => 1 | .openPut => 2 | .faultGet => 3 | .faultPut => 4

/-- The state of a channel by its code; an unknown code is Faulted. -/
def ChanState.ofCode : Nat → ChanState
  | 0 => .closed | 1 => .openGet | 2 => .openPut | 4 => .faultPut | _ => .faultGet

/-- The CSR block (R184). The rule gives the privilege field the values 0 for U and 1 for S; a context captured in M-mode writes 3,
which loads as U (DESIGN CHOICE, log entry 41). -/
def Ctx.csrBlock (c : Ctx) : List Byte :=
  let w : List Word :=
    [w64 (c.priv.code + c.prio * 16), c.fcsr, c.vstart, c.vxsat, c.vxrm, w64 c.vl, c.vtype,
     c.mxfmt, c.mxld, c.mxsca, c.mxscb, c.mxcast, c.vmsp, c.vmsbase, c.vlpcnt, c.vlpidx]
    ++ (List.range 8).map (fun n => (c.chan n).wm)
    ++ [c.uweight, c.ulaunch, c.sstatusView, c.sepc, c.scause, c.stval, c.sscratch, c.satp, c.ssavea, c.scos, c.svault,
        c.instret, c.ckpt, w64 ((c.vlpcnt - c.vlpidx).toNat % 2 ^ 32 * 2 ^ 32)]
  dwords w ++ List.replicate (512 - 8 * w.length) 0#8

/-- A sequencer entry (R186). -/
def SeqEnt.bytes (e : SeqEnt) : List Byte :=
  leBytes 4 e.bits.toNat ++ leBytes 2 e.vl ++ leBytes 2 (b2n e.v + 2 * b2n e.l) ++ dwords [e.vtype, e.op1, e.op2]

/-- A channel block (R187). -/
def Chan.bytes (ch : Chan) : List Byte :=
  leBytes 8 ch.base ++ leBytes 4 ch.len ++ leBytes 4 ch.st.code ++ leBytes 8 ch.mask ++ leBytes 8 ch.sig

/-- A strip block (R188). -/
def Strip.bytes (t : Strip) : List Byte :=
  if !t.v then List.replicate 16 0#8
  else
    leBytes 8 (t.src % 2 ^ 48 + t.vd % 32 * 2 ^ 48 + t.sew % 8 * 2 ^ 53 + 2 ^ 63)
      ++ leBytes 8 (t.start % 2 ^ 16 + t.count % 2 ^ 16 * 2 ^ 16 + uint t.stride 32 * 2 ^ 32)

/-- The fixed blocks after the header (R182). -/
def Ctx.body (c : Ctx) : List Byte :=
  dwords (c.pc :: (List.range 31).map (fun i => c.getX (i + 1)))
    ++ dwords ((List.range 32).map c.getF)
    ++ c.csrBlock
    ++ (List.range 32).flatMap (fun i => vecBytes (c.getV i) 64)
    ++ (List.range 8).flatMap (fun i => vecBytes (c.hw.get 0#512 i) 64)
    ++ (List.range 16).flatMap (fun i => match c.seq[i]? with | some e => e.bytes | none => List.replicate 32 0#8)
    ++ (List.range 8).flatMap (fun n => (c.chan n).bytes)
    ++ (List.range 4).flatMap (fun n => (c.strip n).bytes)

/-- Size of the fixed blocks, the header included. -/
def imageFixed : Nat := 0x1180

/-- A strip is pending. -/
def Ctx.stripPending (c : Ctx) : Bool := (List.range 4).any (fun n => (c.strip n).v)

/-- A word is a vsetvl-family instruction with rd or rs1 other than x0 (R203; the field at rs1 for vsetivli, DEDUCED, log entry 24). -/
def isVset (w : Nat) : Bool :=
  fld w 6 0 == 0x57 && fld w 14 12 == 7 && (!w.testBit 31 || fld w 31 30 == 3 || fld w 31 25 == 0x40)
    && (fld w 11 7 != 0 || fld w 19 15 != 0)

/-- Two bytes of code at an address as a context would fetch them, without effect; none where the fetch would fail. -/
def State.peekHalf (s : State) (g : Nat) (i : Ident) (satp : Word) (va : Nat) : Option Nat :=
  let e : Eng := { g := g, kind := 1, src := 0, ident := i, satp := satp }
  match s.engTarget e .fetch va 2 with
  | (_, .error _) => none
  | (s, .ok t) =>
    match s.engGet e t 2 with
    | (_, .ok (bs, _)) => some (leNat bs)
    | _ => none

/-- The four bytes of code at an address, each half of its own page. -/
def State.peekCode (s : State) (g : Nat) (i : Ident) (satp : Word) (pc : Nat) : Option Nat := do
  let lo ← s.peekHalf g i satp pc
  let hi ← s.peekHalf g i satp ((pc + 2) % 2 ^ 64)
  return lo + hi * 2 ^ 16

/-- FLAGS of an image but for POIS (R183, R203). -/
def Ctx.flags (c : Ctx) (ck vset : Bool) : Nat :=
  let seq := !c.seq.isEmpty
  let vp := !seq && !c.loopLive && !c.stripPending && vset
  maskOf c.claimed + b2n c.loopLive * 2 ^ 8 + b2n seq * 2 ^ 9 + b2n c.stripPending * 2 ^ 10 + b2n ck * 2 ^ 11 + b2n vp * 2 ^ 12
    + b2n c.light * 2 ^ 13

/-- MAGIC of an image. -/
def imageMagic : Nat := 0x4B5A4358
/-- mimpid. -/
def impid : Nat := 0x01000001

/-- The header (R183). -/
def Ctx.header (c : Ctx) (flags : Nat) : List Byte :=
  leBytes 4 imageMagic ++ leBytes 2 1 ++ leBytes 2 64 ++ leBytes 8 flags ++ dwords [c.ckpt, w64 impid] ++ List.replicate 32 0#8

/-- A claimed accumulator is Failed. -/
def Core.accFailed (k : Core) (c : Ctx) : Bool :=
  c.claimed.any (fun n => match c.acc n with | some p => (k.acc p).st == .failed | none => false)

/-- An uncorrectable error stands in what a save would write: a Failed accumulator, or a vector register that a strip left
poisoned (R198). -/
def Core.imagePois (k : Core) (c : Ctx) : Bool := k.accFailed c || !c.vpoison.isEmpty

/-- The accumulator blocks in ascending name, with their poison: a Failed one is written poisoned (R198,
spec/09_tile.md R257). -/
def Core.accBlocks (k : Core) (c : Ctx) : List (List Byte × Bool) :=
  c.claimed.flatMap (fun n =>
    match c.acc n with
    | none => []
    | some p =>
      let bs := vecBytes (k.acc p).bits 4096
      (List.range 64).map (fun i => ((bs.drop (64 * i)).take 64, (k.acc p).st == .failed)))

/-- A byte string in blocks of 64 bytes. -/
def blocks64 (bs : List Byte) : List (List Byte) := (List.range (ceilDiv bs.length 64)).map (fun i => (bs.drop (64 * i)).take 64)

/-- Block i after the header is a vector register that a strip left poisoned: v0 stands at offset 0x440 (R182, R198). -/
def Ctx.blockPois (c : Ctx) (i : Nat) : Bool := c.vpoison.any (fun p => p.1 + 16 == i)

/-- The poison of block i was injected by sys.poison (R223). -/
def Ctx.blockInj (c : Ctx) (injected : List Nat) (i : Nat) : Bool := c.vpoison.any (fun p => p.1 + 16 == i && injected.contains (blk p.2.2))

/-- The records of the 32-byte blocks that a save of the context writes poisoned at [a, a + n), charged to it (R198;
spec/06_page.md R167). -/
def Ctx.saveErrors (c : Ctx) (g a n : Nat) (inj : Bool) : List ErrRec :=
  (blocks a n).map (fun b =>
    { kind := 9, asid := c.asid, launch := wfld c.ulaunch 15 0, addr := paOf b, cl := g / 64, inj := inj })

/-- Every block of the image after its header, with its poison, in ascending offset. -/
def Core.imageBlocks (k : Core) (c : Ctx) : List (List Byte × Bool) :=
  ((blocks64 c.body).zipIdx).map (fun b => (b.1, c.blockPois b.2)) ++ k.accBlocks c

/-! ### What a load takes -/

/-- Doubleword at an offset. -/
def wordAt (bs : List Byte) (off : Nat) : Word := w64 (numAt bs off 8)

/-- A register of 64 bytes from one of another length: bytes beyond are dropped, missing ones are 0 (R204). -/
def vecAt (bs : List Byte) (off len : Nat) : VReg := BitVec.ofNat 512 (leNat ((bs.drop off).take (min len 64)))

/-- A table from a list of values. -/
def tabOf {α : Type} (l : List α) : Tab α := l.zipIdx.foldl (fun t p => t.put p.2 p.1) Tab.empty

/-- A sequencer entry from its bytes. -/
def seqOf (bs : List Byte) : SeqEnt :=
  { bits := BitVec.ofNat 32 (numAt bs 0 4), vl := numAt bs 4 2, v := (numAt bs 6 2).testBit 0, l := (numAt bs 6 2).testBit 1,
    vtype := wordAt bs 8, op1 := wordAt bs 16, op2 := wordAt bs 24 }

/-- A channel from its block and its watermark, with the address space and the identity of the loaded context, for the image
holds no captured ones (DEDUCED, log entry 38): the issue pointer is the watermark, and a Faulted one reports reason 0 there
and writes its signal no more (spec/10_transfer.md R290, R297). -/
def chanOf (bs : List Byte) (wm : Word) (satp : Word) (i : Ident) : Chan :=
  { st := ChanState.ofCode (numAt bs 12 1), base := numAt bs 0 8, len := numAt bs 8 4, wm := wm, ip := wm.toNat,
    mask := numAt bs 16 8, sig := numAt bs 24 8, satp := satp, ident := i, faddr := wm.toNat, sigOr := (ChanState.ofCode (numAt bs 12 1)).faulted }

/-- A strip from its block. -/
def stripOf (bs : List Byte) (satp : Word) (i : Ident) (cls : Option Nat) : Strip :=
  let a := numAt bs 0 8
  let b := numAt bs 8 8
  if a.testBit 63 then
    -- a virtual address of Sv48: bits 63:48 copy bit 47
    { v := true, src := uint (sint (fld a 47 0) 48) 64, vd := fld a 52 48, sew := fld a 55 53, start := fld b 15 0, count := fld b 31 16,
      stride := sint (fld b 63 32) 32, ident := i, satp := satp, cls := cls }
  else {}

/-- The context that an image holds: `bs` is the whole image but for accumulators, `vb` its VLENB, `base` the name and the
accumulators bound for it. -/
def loadCtx (base : Ctx) (bs : List Byte) (vb : Nat) (flags : Nat) (h : Hart) : Ctx :=
  let d := 32 * vb - 2048
  let shift (o : Nat) : Nat := if vb = 64 then o else if 32 * vb ≥ 2048 then o + d else o - (2048 - 32 * vb)
  let csr (o : Nat) : Word := wordAt bs (0x240 + o)
  let c0 : Ctx := { base with
    pc := wordAt bs 0x40
    x := tabOf (0#64 :: (List.range 31).map (fun i => wordAt bs (0x48 + 8 * i)))
    f := tabOf ((List.range 32).map (fun i => wordAt bs (0x140 + 8 * i)))
    priv := if wfld (csr 0) 1 0 = 1 then .s else .u
    prio := wfld (csr 0) 5 4
    fcsr := csr 0x08 &&& 0xFF#64
    vstart := csr 0x10 &&& 0x1FF#64
    vxsat := csr 0x18 &&& 1#64
    vxrm := csr 0x20 &&& 3#64
    vl := if vb = 64 then (csr 0x28).toNat % 1024 else 0
    vtype := if vb = 64 then csr 0x30 else 0x8000000000000000#64
    vmsp := csr 0x60 &&& 0xFFFF#64
    vmsbase := csr 0x68 &&& ~~~0x3F#64
    vlpcnt := csr 0x70 &&& 0xFFFFFFFF#64
    vlpidx := csr 0x78 &&& 0xFFFFFFFF#64
    instret := csr 0x118
    ckpt := csr 0x120
    light := flags.testBit 13
    v := tabOf ((List.range 32).map (fun i => vecAt bs (0x440 + vb * i) vb))
    hw := tabOf ((List.range 8).map (fun i => vecAt bs (shift 0xC40 + 64 * i) 64)) }
  let c1 : Ctx := [(0x38, 0x800), (0x40, 0x801), (0x48, 0x802), (0x50, 0x803), (0x58, 0x804), (0xC0, 0x820), (0xC8, 0x821),
      (0xD0, 0x100), (0xD8, 0x141), (0xE0, 0x142), (0xE8, 0x143), (0xF0, 0x140), (0xF8, 0x180), (0x100, 0x5C1), (0x108, 0x5C4),
      (0x110, 0x5C5)].foldl (fun c p => c.writeCsr p.2 (csr p.1)) c0
  let id := identOf c1 c1.priv h
  let seq := (((List.range 16).map (fun i => seqOf ((bs.drop (shift 0xE40 + 32 * i)).take 32))).filter
    (fun e => e.bits != 0#32)).map (fun e => { e with ident := id, satp := c1.satp, cls := c1.carries })
  { c1 with
    seq := seq
    frozen := if seq.isEmpty then none else some c1.priv
    chans := tabOf ((List.range 8).map (fun n => chanOf ((bs.drop (shift 0x1040 + 32 * n)).take 32) (csr (0x80 + 8 * n)) c1.satp id))
    strips := tabOf ((List.range 4).map (fun n => (stripOf ((bs.drop (shift 0x1140 + 16 * n)).take 16) c1.satp id c1.carries).keep c1)) }

end Sys2Proof.Machine
end

