-- ==== Sys2Proof/Machine/Context.lean ====
section
/-! DEFINITION. Contexts in their slots: filling a slot, suspension points, discarding a context, the ctx instructions, and the
CSR writes that have rows of their own (spec/07_context.md R172 to R181, R200, R208 to R214; spec/11_group.md R315, R323, R324;
spec/05_ordering.md R137, R138, R146; spec/14_kernel.md R372, R378). -/

namespace Sys2Proof.Machine

open Sys2Proof

/-! ### Leaving and discarding -/

/-- The slot of a hart empty; what waited there waits no more. -/
def State.emptySlot (s : State) (h : Hart) : State :=
  (s.abandon h).modSlot h (fun t => { t with ctx := none })

/-- The operations of a context that have not started leave the tile queue (spec/09_tile.md R266). -/
def Core.dropOps (k : Core) (cid : Nat) : Core :=
  { k with tileq := k.tileq.filter (fun o => o.running || o.task.isSome || o.cid != cid) }

/-- What a lost or discarded context leaves of itself on its core: its queued tile operations are dropped and its
accumulators freed (R199, R200; spec/09_tile.md R257). Its pieces land nowhere but in memory, its channels and strips go
with it. -/
def Core.forget (k : Core) (c : Ctx) : Core := (freeNames c (k.dropOps c.cid) c.claimed).2

/-! ### Filling a slot (R173, R178, spec/11_group.md R315) -/

/-- The context that a light record starts (R173; spec/14_kernel.md R372). -/
def lightCtx (w : Work) (cid : Nat) (r : LightRec) : Ctx :=
  { cid := cid, pc := sextW r.pc 48
    x := (List.range 6).foldl (fun t i => t.put (10 + i) (nth r.a i 0#64)) Tab.empty
    uweight := w64 r.weight, ulaunch := w64 r.lslot, satp := w.satp, svault := w64 (w.key % 256 * 256)
    light := true, fp := r.fp, bh := r.bh }

/-- The lowest empty slot of a core. -/
def State.freeSlot (s : State) (g : Nat) : Option Hart :=
  ((List.range 8).map (g * 8 + ·)).find? (fun h => (s.slot h).ctx.isNone)

/-- The ready Kennel entry of highest priority, and among equals the one ready longest. -/
def Core.readyEntry (k : Core) : Option Nat :=
  let better (a b : Ken) : Bool :=
    let p := (a.ctx.getD {}).prio
    let q := (b.ctx.getD {}).prio
    decide (p > q) || (p == q && decide (a.since < b.since))
  (List.range 32).foldl (fun b i =>
    let e := k.ken i
    if e.st ≠ .ready then b
    else
      match b with
      | none => some i
      | some j => if better e (k.ken j) then some i else b) none

/-- A context that takes a slot: its sequencer restarts in its mode (R194). -/
def Ctx.enter (c : Ctx) : Ctx := ({ c with resv := none } : Ctx).restart

/-- A context put into a slot. One that has retired no instruction starts there, having acquired at device scope
(spec/14_kernel.md R375; spec/05_ordering.md R146). -/
def State.putCtx (s : State) (h : Hart) (c : Option Ctx) : State :=
  (if c.any (·.instret == 0#64) then s.acquire h.gcore else s).modSlot h (fun t => { t with ctx := c.map (·.enter) })

/-- A slot filled from a Kennel entry. -/
def State.fillKennel (s : State) (g : Nat) (h : Hart) (i : Nat) : State :=
  (s.putCtx h (some (((s.core g).ken i).ctx.getD {}))).modCore g (fun k => { k.setKen i {} with fromQueue := false })

/-- A slot filled from the arrival queue: a record with bit 63 set is discarded; a thread that starts has acquired at device
scope (R172, R173; spec/05_ordering.md R146). -/
def State.fillQueue (s : State) (g : Nat) (h : Hart) : State :=
  match s.popQueue g with
  | (s, none) => s
  | (s, some r) =>
    if r.bad then s.dropRecord g r none
    else
      let (cid, s) := s.newCid
      ((s.acquire g).modSlot h (fun t => { t with ctx := some (lightCtx (s.workAt r.lslot) cid r) })).modCore g
        (fun k => { k with fromQueue := true })

/-- SLOT_FILL: the lowest empty slot of a core takes a ready Kennel entry or the head of the arrival queue, alternating
between the two whenever both have work. -/
def execSlotFill (cl core_ : Nat) (s : State) : Out :=
  event (fun s =>
    let g := cl * 64 + core_
    let k := s.core g
    if k.halted ∨ s.inTransit g then none
    else
      match s.freeSlot g with
      | none => none
      | some h =>
        match k.readyEntry, k.queue with
        | none, [] => none
        | some i, [] => some (s.fillKennel g h i)
        | none, _ :: _ => some (s.fillQueue g h)
        | some i, _ :: _ => some (if k.fromQueue then s.fillKennel g h i else s.fillQueue g h)) s

/-- ISSUE_PASS_EXPIRY: the core cycles for which a slot passes its turns are over (R209). -/
def execIssuePassExpiry (h : Hart) (s : State) : Out :=
  event (fun s => if (s.slot h).pass = 0 then none else some (s.modSlot h (fun t => { t with pass := 0 }))) s

/-! ### Suspension points and ends (R210, R214; spec/11_group.md R323, R324) -/

/-- The thread leaves its slot. -/
def leaveSlot {α : Type} : M α := do
  upd (fun s => s.emptySlot s.cur)
  gone

/-- A light thread releases what does not travel: accumulators, channels, strips. -/
def suspend : M Unit := do
  waitSeq
  freeAllNames
  closeChannels (List.range 8)
  modCtx (fun c => { c with strips := Tab.empty, vpoison := [] })
  release 2

/-- Waits until a suspension would wait no more, with nothing released yet; a Faulted channel is met. -/
def readyChans : List Nat → M Unit
  | [] => pure ()
  | n :: ns => do
    waitUnless (((← ctx).chan n).st != .cancelling)
    waitChan n
    readyChans ns

/-- The suspension of a ctx.sleep that parks would complete at once: its atomic on the cell is its one effect until then
(R210; spec/00_scope.md R8). -/
def suspendReady : M Unit := do
  waitSeq
  waitUnless ((← core).tilesDone (← ctx))
  readyChans (List.range 8)
  release 2

/-- A suspension whose waits are over. -/
def suspendNow : M Unit := do
  let c ← ctx
  let r := freeNames c (← core) c.claimed
  modCore (fun _ => r.2)
  modCtx (fun _ => { r.1 with chans := r.1.chans.map (fun _ ch => ch.close), strips := Tab.empty, vpoison := [] })

/-- The weight of a thread that ends is returned, and its slot becomes empty. -/
def endThread : M Unit := do
  let c ← ctx
  upd (fun s => s.giveBack (wfld c.ulaunch 15 0) c.uweight.toNat)
  leaveSlot

/-- The end of a light thread (spec/11_group.md R324). -/
def endLight : M Unit := do
  suspend
  endThread

/-- The waits of ctx.ckpt and ctx.exit (R212). The entries of a frozen sequencer are waited for by no wait of the supervisor (R193):
a ctx.ckpt in a handler does not wait for them and writes them into its image with SEQ = 1, where R202 speaks of an empty
sequencer (DESIGN CHOICE, log entry 47). -/
def settleAll : M Unit := do
  waitSeq
  waitStrips 0 32
  let c ← ctx
  let k ← core
  waitUnless (k.allLanded c)
  waitUnless (k.tilesDone c)
  release 2

/-- The end of a heavy thread (R214). A Faulted channel raises cause 25 before anything is freed or closed, for a trapping
instruction leaves everything unchanged (spec/00_scope.md R8, spec/10_transfer.md R293). -/
def endHeavy : M Unit := do
  settleAll
  readyChans (List.range 8)
  suspendNow
  endThread

/-- CTX_EXIT: in a light thread it is grp.exit. -/
def execCtxExit (s : State) : Out := runThread (do if (← ctx).light then endLight else endHeavy) s

/-- GRP_EXIT: in a heavy thread it is ctx.exit (spec/11_group.md R324). -/
def execGrpExit (s : State) : Out := runThread (do if (← ctx).light then endLight else endHeavy) s

/-! ### ctx.sleep, ctx.wake (R210) -/

/-- Doubleword 0 of a wake cell as the atomic would find it, read without effect. -/
def State.peek8 (s : State) (k : Nat) (t : Target) : Nat :=
  if t.sram then leNat (s.getBytes t.a 8)
  else leNat (s.directRead t.a 8 t.attr.key { cl := k }).2.1

/-- Eight zero bytes. -/
def zeros8 : List Byte := List.replicate 8 0#8

/-- An atomic of ctx.sleep or ctx.wake on a cell: a poisoned block is consumed. -/
def cellAtomic (va : Word) (t : Target) (n : Nat) (f : List Byte → Option (List Byte)) : M (List Byte) := do
  let (bs, p) ← atomicTarget t n opAmo .rmw f
  match p with
  | some b => poisonTrap va b
  | none => return bs

/-- A sleeper that was touched: a pending wake is consumed. -/
def wakeUp (m : WaitMark) : M Unit := do
  let t : Target := { a := m.a, sram := isSram m.a, attr := m.attr }
  let s ← get
  if s.peek8 s.cur.cl t = 1 then
    let _ ← cellAtomic (w64 m.b) t 8 (fun _ => some zeros8)
    acquire
  else pure ()

/-- CTX_SLEEP. -/
def execCtxSleep (a : BitVec 5) (s : State) : Out :=
  runThread (do
    let va ← getX a
    match (← slot).wait with
    | some m =>
      if m.kind = .woken then wakeUp m else wait
    | none =>
      waitVecMem
      orTrap (va.toNat % 64 = 0) 7 va
      let t ← translate .amo va va 64
      let s ← get
      let w := s.peek8 s.cur.cl t
      let c ← ctx
      if w = 1 then
        let _ ← cellAtomic va t 8 (fun _ => some zeros8)
        acquire
      else if w ≥ 2 then
        let _ ← cellAtomic va t 8 (fun _ => none)
      else if c.light then
        suspendReady
        let _ ← cellAtomic va t 64 (fun _ => some (recBytes (c.record (c.pc + 4#64) false)))
        suspendNow
        leaveSlot
      else
        let _ ← cellAtomic va t 8 (fun _ => none)
        setWait (some { kind := .sleeping, a := t.a, b := va.toNat, attr := t.attr })
        wait) s

/-- SLEEPER_WAKE: a heavy sleeper whose cell was touched goes on. -/
def execSleeperWake (h : Hart) (s : State) : Out :=
  match (s.slot h).wait with
  | some m =>
    if m.kind = .woken ∧ s.running h then runThread (wakeUp m) { s with cur := h, ilen := m.len } else .next s
  | none => .next s

/-- CTX_WAKE: a parked record is sent to the owner of its cell; a refused one is back in the cell (spec/11_group.md R317). The mark
keeps where the cell lies and the record: it goes back whole, once the cell is empty (DEDUCED, log entry 24). -/
def execCtxWake (a d : BitVec 5) (s : State) : Out :=
  runThread (do
    let va ← getX a
    match (← slot).wait with
    | some m =>
      match m.kind with
      | .recordTaken => setX d 1#64
      | .recordRefused =>
        let t : Target := { a := m.a, sram := isSram m.a, attr := m.attr }
        let s ← get
        waitUnless (s.peek8 s.cur.cl t == 0)
        let _ ← cellAtomic va t 64 (fun _ => some m.cell)
        trap 48 va
      | _ => wait
    | none =>
      waitVecMem
      orTrap (va.toNat % 64 = 0) 7 va
      let t ← translate .amo va va 64
      release 2
      let s ← get
      if s.peek8 s.cur.cl t ≥ 2 then
        let bs ← cellAtomic va t 64 (fun old => some (zeros8 ++ old.drop 8))
        sendAndWait ((ownerOf s.cur.gcore va.toNat).getD s.cur.gcore) (lightOf bs) t.a (dwAt bs 0) t.attr bs
      else
        let _ ← cellAtomic va t 8 (fun _ => some (leBytes 8 1))
        setX d 0#64) s

/-! ### ctx.self, ctx.prio, ctx.yield (R209, R211, R213) -/

/-- CTX_SELF. -/
def execCtxSelf (d : BitVec 5) (s : State) : Out :=
  runThread (do
    let s ← get
    let c ← ctx
    setX d (w64 (s.cur.slot + s.cur.core * 2 ^ 3 + s.cur.cl * 2 ^ 9 + s.devid * 2 ^ 15 + b2n c.light * 2 ^ 27))) s

/-- CTX_PRIO. -/
def execCtxPrio (a d : BitVec 5) (s : State) : Out :=
  runThread (do
    let v ← getX a
    let c ← ctx
    setX d (w64 c.prio)
    modCtx (fun c => { c with prio := min v.toNat 3 })) s

/-- CTX_YIELD. -/
def execCtxYield (s : State) : Out :=
  runThread (modSlot (fun t => { t with pass := 8, mip := if wbit t.skennel 12 then wputb t.mip 1 true else t.mip })) s

/-! ### ctx.ckpt (R202, R212) -/

/-- Blocks stored at an address by the thread, in ascending order; poisoned ones are poisoned, and reported as `inj` says of the
position of each (R198; spec/06_page.md R167). -/
def storeBlocks (inj : Nat → Bool) : Nat → Word → List (List Byte × Bool) → M Unit
  | _, _, [] => pure ()
  | i, va, (bs, p) :: r => do
    storeBytes va bs
    if p then
      let t ← translate .store va va bs.length
      let c ← ctx
      upd (fun s => (blocks t.a bs.length).foldl (fun s b => s.poisonBlock s.cur.cl b t.attr.key)
        (s.errors (c.saveErrors s.cur.gcore t.a bs.length (inj i))))
    else pure ()
    storeBlocks inj (i + 1) (va + w64 bs.length) r

/-- CTX_CKPT: an image whose sequencer is empty is written at x[rs1], header last; the mark says that its stores are under
way. -/
def execCtxCkpt (a d : BitVec 5) (s : State) : Out :=
  runThread (do
    let va ← getX a
    let done := (← waitKind) == some WaitKind.posted
    let c ← ctx
    let id := c.ckpt + 1#64
    if !done then
      orTrap (va.toNat % 64 = 0) 6 va
      settleAll
      let k ← core
      let s ← get
      let img := { c with pc := c.pc + 4#64, ckpt := id }.setX d.toNat id
      let vset := match s.peekCode s.cur.gcore (identOf c c.priv s.cur) c.satp (c.pc + 4#64).toNat with
        | some w => isVset w
        | none => false
      storeBlocks (c.blockInj s.injected) 0 (va + 64#64) (k.imageBlocks img)
      storeBytes va (img.header (img.flags true vset + b2n (k.imagePois c) * 2 ^ 14))
      setWait (some { kind := .posted })
    else pure ()
    release 2
    modCtx (fun c => { c with ckpt := id }.setX d.toNat id)) s

/-! ### CSR writes with rows of their own -/

/-- The thread whose turn it is may write supervisor registers. -/
def State.supervisor (s : State) : Bool := s.running s.cur && (s.ctx s.cur).priv != .u

/-- skennel as the hart's slot holds it, with an entry and a written STATE. -/
def State.skennelWith (s : State) (ent state : Nat) : Word :=
  wput (wput ((s.slot s.cur).skennel) 4 0 ent) 7 5 state

/-- SKENNEL_PARK: a write of skennel with STATE 1 makes a ready entry parked (R179). -/
def execSkennelPark (ent : Nat) (s : State) : Out :=
  event (fun s => if s.supervisor ∧ ent < 32 ∧ ((s.core s.cur.gcore).ken ent).st = .ready then
    some (s.writeSkennel s.cur (s.skennelWith ent 1)) else none) s

/-- SKENNEL_READY: a write of skennel with STATE 2 makes a parked entry ready (R179). -/
def execSkennelReady (ent : Nat) (s : State) : Out :=
  event (fun s => if s.supervisor ∧ ent < 32 ∧ ((s.core s.cur.gcore).ken ent).st = .parked then
    some (s.writeSkennel s.cur (s.skennelWith ent 2)) else none) s

/-- SKENNEL_EMPTY_FAILED: a write of skennel with STATE 0 empties a Failed entry (R199). -/
def execSkennelEmptyFailed (ent : Nat) (s : State) : Out :=
  event (fun s => if s.supervisor ∧ ent < 32 ∧ ((s.core s.cur.gcore).ken ent).st = .failed then
    some (s.writeSkennel s.cur (s.skennelWith ent 0)) else none) s

/-- UWEIGHT_WRITE: a supervisor writes uweight, or ulaunch (spec/14_kernel.md R378). -/
def execUweightWrite (launch : Bool) (value : Word) (s : State) : Out :=
  event (fun s => if s.supervisor then some (s.writeCsr s.cur (if launch then 0x821 else 0x820) value) else none) s

/-- SCENT_ENABLE: a supervisor writes sscent with EN set, which starts a log where it was clear (spec/05_ordering.md R137,
R138). -/
def execScentEnable (value : Word) (s : State) : Out :=
  event (fun s => if s.supervisor ∧ wbit value 0 then some (s.writeCsr s.cur 0x5C3 value) else none) s

end Sys2Proof.Machine
end

