-- ==== Sys2Proof/Machine/Sys.lean ====
section
/-! DEFINITION. The sys instructions and the events they start: moves of contexts between slots, Kennel and memory, rank moves,
halts, scent imposition, TLB invalidation and error injection (spec/07_context.md R195 to R206, R215 to R223; spec/11_group.md
R319, R320). -/

namespace Sys2Proof.Machine

open Sys2Proof

/-- sys instructions execute in S-mode and M-mode only (spec/03_encoding.md R75). -/
def needS : M Unit := do
  let c ← ctx
  require (c.priv != .u)

/-! ### Moves out of a slot (R195) -/

/-- The context of a slot can leave it now: no answer is awaited, its tile operations have completed and its accesses are
performed at device scope (steps 1, 4 and 5). -/
def State.movable (s : State) (h : Hart) : Bool :=
  !(s.slot h).noIrq && (s.core h.gcore).tilesDone (s.ctx h) && !s.posted h && s.acks.all (fun u => u.hart != h)

/-- The context as it is captured: every pending strip is cut back (step 3), the reservation is lost. -/
def Ctx.captured (c : Ctx) : Ctx := { (List.range 4).foldl (fun c n => c.cutStrip n) c with resv := none }

/-- A slot after its context has left: fault-pending entries that it took are released, and nothing waits there
(spec/06_page.md R161). -/
def State.vacate (s : State) (h : Hart) : State := (s.emptySlot h).releaseOf h

/-- The context that sys.kswap moves out of the issuing slot: pc from sepc, mode from SPP (R216). -/
def Ctx.swapSelf (c : Ctx) : Ctx :=
  { c with pc := c.sepc, priv := if wbit c.sstatus stSPP then .s else .u }

/-- sstatus after an sret: SIE is SPIE, SPIE is 1, SPP is U (standard). -/
def Ctx.sretStatus (c : Ctx) : Ctx :=
  { c with sstatus := wputb (wputb (wputb c.sstatus stSIE (wbit c.sstatus stSPIE)) stSPIE true) stSPP false }

/-- The states of an entry that sys.kswap accepts (R201). -/
def KenState.swaps : KenState → Bool
  | .empty | .parked | .ready => true
  | _ => false

/-- The exchange of a slot's context with a Kennel entry's. -/
def State.swap (s : State) (h : Hart) (ent : Nat) (out : Option Ctx) (rdy : Bool) : State :=
  let e := (s.core h.gcore).ken ent
  let s := (s.vacate h).tock
  (s.putCtx h e.ctx).modCore h.gcore (fun k => k.setKen ent (match out with
    | none => {}
    | some c => { st := if rdy then .ready else .parked, ctx := some c, since := s.tick }))

/-- SYS_KSWAP. -/
def execSysKswap (s : State) : Out :=
  runThread (do
    needS
    let t ← slot
    let s ← get
    let ent := wfld t.skennel 4 0
    let h := s.cur.gcore * 8 + wfld t.skennel 10 8
    orTrap ((s.core s.cur.gcore).ken ent).st.swaps 30 4#64
    waitUnless ((s.slot h).ctx.isNone || s.movable h)
    let own := h == s.cur
    let out := (s.slot h).ctx.map (fun c => if own then c.captured.swapSelf else c.captured)
    set (s.swap h ent out (wbit t.skennel 11))
    if own then
      -- it completes as an sret into the incoming context, which resumes at its own pc in its own mode
      modSlot (fun t => { t with mstatus := wputb t.mstatus stMPRV false, ctx := t.ctx.map (·.sretStatus) })
      gone
    else pure ()) s

/-! ### Saves (R196 to R198, R217) -/

/-- The state of an entry from which sys.ksave starts or resumes a save. -/
def KenState.saves : KenState → Bool
  | .parked | .ready | .stalled => true
  | _ => false

/-- The entry is loading, saving or Failed. -/
def KenState.busy : KenState → Bool
  | .loading | .saving | .failed => true
  | _ => false

/-- SYS_KSAVE. -/
def execSysKsave (d : BitVec 5) (s : State) : Out :=
  runThread (do
    needS
    let t ← slot
    let s ← get
    let g := s.cur.gcore
    let ent := wfld t.skennel 4 0
    let e := (s.core g).ken ent
    if !wbit t.skennel 13 then
      if e.st = .empty then setX d 1#64
      else if e.st.busy then setX d 2#64
      else
        let me ← ctx
        modCore (fun k => k.setKen ent { e with
          st := .saving, by_ := s.cur, off := if e.st = .stalled then e.off else 0, cos := wfld me.scos 3 0, cls := me.carries })
        setX d 0#64
    else
      let h := g * 8 + wfld t.skennel 10 8
      orTrap (h != s.cur) 30 10#64
      match (s.slot h).ctx with
      | none => setX d 1#64
      | some c =>
        if e.st.busy then setX d 2#64
        else if e.st ≠ .empty then setX d 3#64
        else
          waitUnless (s.movable h)
          let me ← ctx
          upd (·.vacate h)
          modCore (fun k => k.setKen ent
            { st := .saving, ctx := some c.captured, by_ := s.cur, cos := wfld me.scos 3 0, cls := me.carries })
          setX d 0#64) s

/-- The identity under which the Kennel unit of a core saves or loads for an address space: supervisor accesses. The table of
spec/05_ordering.md R139 has no kind for this unit; a scent record names it by KIND 1 and SRCID 0 (DESIGN CHOICE, log entry 41).
Its accesses fill under the scos of the slot that issued the save or load (spec/04_memory.md R108, R114). -/
def kennelEng (g : Nat) (satp : Word) (h : Hart) (cos : Nat) (cls : Option Nat) : Eng :=
  { g := g, kind := 1, src := 0, satp := satp, cls := cls,
    ident := { asid := wfld satp 59 44, priv := .s, light := false, cos := cos, hart := some h } }

/-- The party that saves or loads a Kennel entry for an address space. -/
def Ken.eng (en : Ken) (g : Nat) (satp : Word) : Eng := kennelEng g satp en.by_ en.cos en.cls

/-- A block of an image of a context stored; where it is poisoned, it is written poisoned and reported (R198). -/
def State.saveBlock (s : State) (e : Eng) (c : Ctx) (inj : Bool) (va : Nat) (b : List Byte × Bool) : State × Except EngFail Unit :=
  match s.engTarget e .store va b.1.length with
  | (s, .error f) => (s, .error f)
  | (s, .ok t) =>
    match s.engPut e t b.1 (List.replicate b.1.length b.2) with
    | (s, .ok _) => (if b.2 then s.errors (c.saveErrors e.g t.a b.1.length inj) else s, .ok ())
    | r => r

/-- Blocks of an image of a context stored in ascending order from an address, the first of them block i: the state, and the first
failure with its address. -/
def State.saveBlocks (s : State) (e : Eng) (c : Ctx) (i va : Nat) : List (List Byte × Bool) → State × Option (Nat × EngFail)
  | [] => (s, none)
  | b :: bs =>
    match s.saveBlock e c (c.blockInj s.injected i) va b with
    | (s, .ok _) => s.saveBlocks e c (i + 1) (va + b.1.length) bs
    | (s, .error f) => (s, some (va, f))

/-- The save of an entry carried on from where it stands: the state, and how it ends. -/
def State.runSave (s : State) (g ent : Nat) : State × Option (Nat × EngFail) :=
  let k := s.core g
  let en := k.ken ent
  let c := en.ctx.getD {}
  let e := en.eng g c.satp
  let base := c.ssavea.toNat
  let vset := match s.peekCode g (identOf c c.priv en.by_) c.satp c.pc.toNat with
    | some w => isVset w
    | none => false
  match s.saveBlocks e c (en.off / 64) (base + 64 + en.off) ((k.imageBlocks c).drop (en.off / 64)) with
  | (s, some f) => (s, some f)
  | (s, none) => s.saveBlocks e c 0 base [(c.header (c.flags false vset + b2n (k.imagePois c) * 2 ^ 14), false)]

/-- The entry is being saved, and every transfer of its context's channels has landed, Faulted ones signalled (R196). -/
def State.saving (s : State) (g ent : Nat) : Bool :=
  let k := s.core g
  let en := k.ken ent
  match en.ctx with
  | none => false
  | some c => en.st == .saving && k.allLanded c && (List.range 8).all (fun n => !(c.chan n).st.faulted || (c.chan n).sigOr)

/-- KENNEL_SAVE_COMPLETE: the image is written, header last; the entry empties and its accumulators are freed. -/
def execKennelSaveComplete (cl core_ ent : Nat) (s : State) : Out :=
  event (fun s =>
    let g := cl * 64 + core_
    if !s.saving g ent then none
    else
      match s.runSave g ent with
      | (_, some _) => none
      | (s, none) => some (s.modCore g (fun k => (k.forget (((k.ken ent).ctx).getD {})).setKen ent {}))) s

/-- Interrupt 31 made pending on a hart, with its trap value (R197, R207). -/
def State.raiseKennel (s : State) (h : Hart) (addr : Nat) : State :=
  s.modSlot h (fun t => { t with mip := wputb t.mip 31 true, ktval := w64 addr })

/-- KENNEL_SAVE_FAULT: a store of a save faults; the save stalls at its offset and interrupt 31 names the entry. -/
def execKennelSaveFault (cl core_ ent : Nat) (s : State) : Out :=
  event (fun s =>
    let g := cl * 64 + core_
    if !s.saving g ent then none
    else
      match s.runSave g ent with
      | (_, none) => none
      | (_, some (_, .later)) => none
      | (s, some (va, _)) =>
        let en := (s.core g).ken ent
        let base := (en.ctx.getD {}).ssavea.toNat
        let off := if va = base then ((s.core g).imageBlocks (en.ctx.getD {})).length * 64 else va - base - 64
        some (((s.modCore g (·.setKen ent { en with st := .stalled, off := off })).raiseKennel en.by_ va).modSlot en.by_
          (fun t => { t with skennel := wput t.skennel 4 0 ent }))) s

/-! ### Loads (R198, R201, R204, R218) -/

/-- VLENB of an image is one that this device loads (R204). -/
def vlenbOk (vb flags : Nat) : Bool := vb == 64 || (flags.testBit 12 && [16, 32, 64, 128, 256, 512].contains vb)

/-- The header is one that loads (R218, status 2). -/
def headerOk (bs : List Byte) : Bool :=
  numAt bs 0 4 == imageMagic && numAt bs 4 2 == 1 && numAt bs 8 8 >>> 15 == 0 && !(numAt bs 8 8).testBit 14
    && numAt bs 32 32 == 0 && vlenbOk (numAt bs 6 2) (numAt bs 8 8)

/-- Model address that an engine's read of a virtual address reaches, looked up without effect. -/
def State.physOfVa (s : State) (e : Eng) (va : Nat) : Option Nat :=
  match s.engTarget e .load va 1 with
  | (_, .ok t) => some t.a
  | _ => none

/-- The first poisoned block of 64 bytes that an engine reads, looked up without effect; none where a walk met the poison. -/
def State.poisonedAt (s : State) (e : Eng) (va : Nat) : Option Nat :=
  match (s.engRead e va 64).2, s.physOfVa e va with
  | .ok (_, ps), some a => (ps.findIdx? id).map (fun i => blk (a + i))
  | _, _ => none

/-- The header that sys.kload reads: as the hart's own load, and where that would not be translated, by a supervisor access
under the slot's satp (R218). -/
def loadHeader (va : Word) : M (List Byte) := do
  let t ← slot
  let c ← ctx
  if effPriv t c ≠ .m then loadBytes va 64
  else
    let s ← get
    let e := kennelEng s.cur.gcore c.satp s.cur (wfld c.scos 3 0) c.carries
    match s.engRead e va.toNat 64 with
    | (_, .error .later) => wait
    | (s, .error f) =>
      set s
      trap (match f with | .page => 13 | .poison _ => 19 | _ => 5) va
    | (s, .ok (bs, ps)) =>
      set s
      if ps.any id then poisonTrap va ((s.poisonedAt e va.toNat).getD 0) else return bs

/-- SYS_KLOAD. -/
def execSysKload (a d : BitVec 5) (s : State) : Out :=
  runThread (do
    needS
    let va ← getX a
    orTrap (va.toNat % 64 = 0) 4 va
    waitVecMem
    let bs ← loadHeader va
    let t ← slot
    let c ← ctx
    let k ← core
    let s ← get
    let ent := wfld t.skennel 4 0
    let names := bitsOf8 (numAt bs 8 1)
    if (k.ken ent).st ≠ .empty then setX d 1#64
    else if !headerOk bs then setX d 2#64
    else if names.length > k.freeAccs.length then setX d 3#64
    else
      let (cid, s) := s.newCid
      let (base, k) := bindNames { cid := cid } k names
      set s
      modCore (fun _ => k.setKen ent
        { st := .loading, ctx := some base, image := va.toNat, satp := c.satp, rdy := wbit t.skennel 11, by_ := s.cur,
          flags := w64 (numAt bs 8 8), vlenb := numAt bs 6 2, cos := wfld c.scos 3 0, cls := c.carries })
      setX d 0#64) s

/-- Blocks of 64 bytes read in ascending order: the bytes, or the first failure with its address. -/
def State.readBlocks (s : State) (e : Eng) : List Nat → State × Except (Nat × EngFail) (List Byte)
  | [] => (s, .ok [])
  | va :: vs =>
    match s.engReadClean e va 64 with
    | (s, .error f) => (s, .error (va, f))
    | (s, .ok bs) =>
      match s.readBlocks e vs with
      | (s, .error f) => (s, .error f)
      | (s, .ok cs) => (s, .ok (bs ++ cs))

/-- Bytes of the fixed blocks of an image of a given VLENB. -/
def fixedSize (vb : Nat) : Nat := imageFixed + 32 * vb - 2048

/-- The whole image of an entry that loads, read. -/
def State.runLoad (s : State) (g ent : Nat) : State × Except (Nat × EngFail) (List Byte) :=
  let en := (s.core g).ken ent
  let n := fixedSize en.vlenb + 4096 * ((en.ctx.getD {}).claimed).length
  s.readBlocks (en.eng g en.satp) ((List.range (n / 64)).map (fun i => en.image + 64 * i))

/-- Address space, launch and weight of the context that an entry loads, as its image names them in its CSR block; none where they
cannot be read (R184, R199 to R201; DEDUCED, log entry 42). -/
def State.loadingOwner (s : State) (g ent : Nat) : Option (Nat × Nat × Nat) :=
  let en := (s.core g).ken ent
  match (s.engRead (en.eng g en.satp) (en.image + 0x300) 64).2 with
  | .ok (bs, _) => some (wfld (wordAt bs 0x38) 59 44, wfld (wordAt bs 0x08) 15 0, numAt bs 0 8)
  | .error _ => none

/-- Address space, launch and weight of what a Kennel entry holds. -/
def State.kenOwner (s : State) (g ent : Nat) : Option (Nat × Nat × Nat) :=
  let en := (s.core g).ken ent
  if en.st = .loading then s.loadingOwner g ent
  else en.ctx.map (fun c => (c.asid, wfld c.ulaunch 15 0, c.uweight.toNat))

/-- The record of a poisoned image block, charged to the context (R198; spec/06_page.md R167; spec/18_link.md R491). -/
def State.loadError (s : State) (g ent va : Nat) : ErrRec :=
  let en := (s.core g).ken ent
  let b := s.poisonedAt (en.eng g en.satp) va
  let own := (s.kenOwner g ent).getD (wfld en.satp 59 44, 0, 0)
  { kind := 9, asid := own.1, launch := own.2.1, addr := (b.map paOf).getD 0, cl := g / 64,
    inj := (b.map s.injected.contains).getD false }

/-- The claimed accumulators filled from their blocks, in ascending name. -/
def Core.fillAccs (k : Core) (c : Ctx) (bs : List Byte) : Core :=
  (c.claimed.zipIdx).foldl (fun k p =>
    match c.acc p.1 with
    | none => k
    | some q => k.setAcc q { k.acc q with bits := BitVec.ofNat 32768 (leNat ((bs.drop (4096 * p.2)).take 4096)) }) k

/-- KENNEL_LOAD_COMPLETE: the image is read, and the entry holds its context. -/
def execKennelLoadComplete (cl core_ ent : Nat) (s : State) : Out :=
  event (fun s =>
    let g := cl * 64 + core_
    let en := (s.core g).ken ent
    if en.st ≠ .loading then none
    else
      match s.runLoad g ent with
      | (_, .error _) => none
      | (s, .ok bs) =>
        let s := s.tock
        let base := en.ctx.getD {}
        let c := loadCtx base bs en.vlenb en.flags.toNat en.by_
        some (s.modCore g (fun k => (k.fillAccs base (bs.drop (fixedSize en.vlenb))).setKen ent
          { st := if en.rdy then .ready else .parked, ctx := some c, since := s.tick }))) s

/-- KENNEL_LOAD_FAULT: a read of a load faults, or reads poison; the entry is empty again, its accumulators freed; a fault
raises interrupt 31, poison is reported. -/
def execKennelLoadFault (cl core_ ent : Nat) (s : State) : Out :=
  event (fun s =>
    let g := cl * 64 + core_
    let en := (s.core g).ken ent
    if en.st ≠ .loading then none
    else
      match s.runLoad g ent with
      | (_, .ok _) => none
      | (_, .error (_, .later)) => none
      | (s, .error (va, f)) =>
        let e := s.loadError g ent va
        let s := s.modCore g (fun k => (k.forget (en.ctx.getD {})).setKen ent {})
        some (if f.isPoison then s.error e else s.raiseKennel en.by_ va)) s

/-! ### Halts (R206, R221) -/

/-- A write at a window address, or one of its multicast copies, goes into the scratchpad of a core; g is the core whose window
it is. -/
def aimsAt (g target mask va : Nat) : Bool :=
  (va :: copiesOf mask va).any (fun va =>
    match winOf va with
    | some w => let pa := w.pa g
                rangeOf pa == .scratch && (scratchAt pa).1 == target
    | none => false)

/-- A piece aimed at a scratchpad. -/
def Piece.aims (p : Piece) (g target : Nat) : Bool := aimsAt g target p.mask p.write.toNat

/-- An accepted request of an open channel still has bytes to send that are aimed at a scratchpad (R206). -/
def Chan.aims (ch : Chan) (g target : Nat) (counts : Nat → Bool) : Bool :=
  (ch.st == .openGet || ch.st == .openPut) &&
    ch.reqs.any (fun r => counts r.since &&
      (r.runs r.total r.sent).any (fun p => aimsAt g target ch.mask (if ch.st == .openGet then p.2.1 else p.1)))

/-- Contexts of a core, in its slots and in its Kennel. -/
def State.ctxsOf (s : State) (g : Nat) : List Ctx :=
  (List.range 8).filterMap (fun i => (s.slot (g * 8 + i)).ctx) ++ (s.core g).kennel.ents.filterMap (fun e => e.2.ctx)

/-- A running transfer task still has bytes to send that are aimed at a scratchpad. -/
def Task.aims (t : Task) (target : Nat) (counts : Nat → Bool) : Bool :=
  t.st == .running && numAt t.bytes 0 1 == 1 && counts t.since &&
    ((xferPieces t.bytes).drop t.sent).any (fun p => aimsAt t.g target 0 p.2.1)

/-- A transfer aimed at the scratchpad of a core has not landed: a piece is under way, or an accepted request has bytes still to
send (R206). `counts` says which times of acceptance count: before its rank was marked, where the rank moves
(spec/11_group.md R320). -/
def State.aimed (s : State) (target : Nat) (counts : Nat → Bool) : Bool :=
  s.cores.ents.any (fun e => e.2.pieces.any (fun p => p.fail.isNone && counts p.since && p.aims e.1 target)) ||
  (s.cores.ents.any (fun e => (s.ctxsOf e.1).any (fun c => (List.range 8).any (fun n => (c.chan n).aims e.1 target counts)))) ||
  s.clusters.ents.any (fun e => e.2.tasks.ents.any (fun t => t.2.aims target counts))

/-- Every transfer counts. -/
def anyTime (_ : Nat) : Bool := true

/-- Issue stops on every slot of a core: instructions in flight are abandoned, but for one whose answer is awaited. -/
def State.haltCore (s : State) (g : Nat) : State :=
  let quiet := !s.aimed g anyTime
  let s := s.modCore g (fun k => { k with halted := true, quiet := quiet, stale := false })
  (List.range 8).foldl (fun s i =>
    let h := g * 8 + i
    let s := if (s.slot h).noIrq then s else s.abandon h
    s.modSlot h (fun t => { t with halted := true })) s

/-- Every slot of a halted core runs again. -/
def State.resumeCore (s : State) (g : Nat) : State :=
  let s := s.modCore g (fun k => { k with halted := false, quiet := false, stale := false })
  (List.range 8).foldl (fun s i => s.modSlot (g * 8 + i) (fun t => { t with halted := false })) s

/-- The status word of sys.halt. -/
def Core.haltWord (k : Core) : Word := w64 (b2n k.halted + 2 * b2n k.quiet + 4 * b2n k.stale)

/-- The core that an operand names, which must not be the issuing one. -/
def otherCore (v : Word) : M Nat := do
  let s ← get
  let g := s.cur.cl * 64 + wfld v 5 0
  orTrap (g != s.cur.gcore) 30 1#64
  return g

/-- SYS_HALT. -/
def execSysHalt (a d : BitVec 5) (s : State) : Out :=
  runThread (do
    needS
    let g ← otherCore (← getX a)
    upd (fun s => if (s.core g).halted then s else s.haltCore g)
    let s ← get
    setX d (s.core g).haltWord) s

/-- SYS_RESUME. -/
def execSysResume (a : BitVec 5) (s : State) : Out :=
  runThread (do
    needS
    let g ← otherCore (← getX a)
    upd (fun s => if (s.core g).halted then s.resumeCore g else s)) s

/-- HALT_QUIESCENT: every transfer aimed at the scratchpad of a halted core has landed. -/
def execHaltQuiescent (cl core_ : Nat) (s : State) : Out :=
  event (fun s =>
    let g := cl * 64 + core_
    let k := s.core g
    if !k.halted ∨ k.quiet ∨ s.aimed g anyTime then none else some (s.modCore g (fun k => { k with quiet := true }))) s

/-! ### Rank moves (R219, spec/11_group.md R319, R320) -/

/-- Physical cores that hold a rank of a cluster. -/
def State.mapped (s : State) (cl p : Nat) : Bool := (List.range 64).any (fun r => s.physOf (cl * 64 + r) == p)

/-- Spare physical cores of a cluster: those that passed test, hold no rank and are not retired. -/
def State.spareMask (s : State) (cl : Nat) : Nat :=
  match (s.cluster cl).spare with
  | some m => m
  | none => maskOf ((List.range 66).filter (fun p => !(s.failed.get 0 cl).testBit p && !s.mapped cl p))

/-- SYS_RANKSET. -/
def execSysRankset (b a d : BitVec 5) (s : State) : Out :=
  runThread (do
    needS
    match (← waitKind) with
    | some .rankMoved => setX d 0#64
    | some .rankMove => wait
    | _ =>
      let g ← otherCore (← getX a)
      let v ← getX b
      let s ← get
      let cl := s.cur.cl
      let p := wfld v 6 0
      orTrap (decide (p < 66)) 30 2#64
      orTrap ((s.spareMask cl).testBit p) 30 3#64
      waitUnless (s.cluster cl).moving.isNone
      let was := (s.core g).halted
      let r := g % 64
      upd (fun s => s.tock.modCluster cl (fun c => { c with
        ranks := c.ranks.put r { phys := s.physOf g, transit := true, since := s.tick + 1 }
        moving := some { rank := r, target := p, retire := wbit v 8, wasHalted := was, by_ := s.cur } }))
      upd (fun s => if was then s else s.haltCore g)
      setWait (some { kind := .rankMove })
      wait) s

/-- When the rank of a core was marked in transit. -/
def State.markedAt (s : State) (g : Nat) : Nat := ((s.cluster (g / 64)).ranks.get { phys := g % 64 } (g % 64)).since

/-- The source core of a move is quiescent: nothing aimed at it is under way, its running tile operation has completed, and so
have those that its contexts issued; its slots' accesses are performed (R195, R206, R219 step 2). -/
def State.moveReady (s : State) (g : Nat) : Bool :=
  !s.aimed g (fun t => decide (t ≤ s.markedAt g)) && !s.drains g && !((s.core g).tileq.any (·.running)) &&
    (List.range 8).all (fun i => !s.posted (g * 8 + i) && s.acks.all (fun u => u.hart != g * 8 + i))

/-- Held messages delivered in the order in which they reached the hold. -/
def State.deliverHold (cl : Nat) : List Held → State → State
  | [], s => s
  | .record c src r :: xs, s => State.deliverHold cl xs (s.deliver (cl * 64 + c) src r)
  | .port c q :: xs, s => State.deliverHold cl xs (s.modCore (cl * 64 + c) (fun k => k.arrive (cl * 64 + c) [q]))

/-- A core on its new physical core: its L1 caches and TLBs are empty, its contexts' strips cut back. -/
def State.moveCore (s : State) (g : Nat) : State :=
  let s := s.modCore g (fun k => { k with l1d := [], l1i := [], itlb := [], dtlb := [] })
  (List.range 8).foldl (fun s i => s.modCtx (g * 8 + i) (·.captured)) s

/-- RANK_MOVE_COMPLETE: the rank's state stands on the new physical core; held messages are delivered; the core resumes. -/
def execRankMoveComplete (cl : Nat) (s : State) : Out :=
  event (fun s =>
    match (s.cluster cl).moving with
    | none => none
    | some m =>
      let g := cl * 64 + m.rank
      if !s.moveReady g then none
      else
        let old := s.physOf g
        let spare := (nput (s.spareMask cl) m.target m.target 0) ||| (if m.retire then 0 else 2 ^ old)
        let hold := (s.cluster cl).hold
        let s := (s.moveCore g).modCluster cl (fun c => { c with
          ranks := c.ranks.put m.rank { phys := m.target, transit := false }
          spare := some spare
          retired := if m.retire then c.retired ||| 2 ^ old else c.retired
          moving := none, hold := [] })
        let s := State.deliverHold cl hold s
        let s := if m.wasHalted then s else s.resumeCore g
        some (s.modSlot m.by_ (fun t => { t with wait := t.wait.map (fun w => { w with kind := .rankMoved }) }))) s

/-! ### sys.scent (R220) -/

/-- The status word of sys.scent. -/
def Impose.word (i : Impose) : Word := w64 (b2n (i.left != 0) + 2 * b2n i.diverged + i.left * 2 ^ 32)

/-- SYS_SCENT. Three points that R220 leaves open are the model's choice (DESIGN CHOICE, log entry 21): a count is bits 31:0 of
x[rs2], an address is rounded down to 16 bytes, and a log that starts in HBM and runs past its end raises cause 5 at once. -/
def execSysScent (b a d : BitVec 5) (s : State) : Out :=
  runThread (do
    needS
    let k ← core
    if a = 0#5 then setX d k.impose.word
    else
      let v ← getX a
      let n := wfld (← getX b) 31 0
      let at_ := down v.toNat 16
      orTrap (decide (at_ + 16 * n ≤ 0x10000000000 ∧ at_ < 0x10000000000)) 5 v
      let g ← myCore
      modCore (fun k => { k with impose := { next := at_, left := n, diverged := false, held := if k.impose.left = 0 then k.portq.map (·.sig g) else k.impose.held } })
      setX d k.impose.word) s

/-- The next record of an imposed log matches an access that the port holds (R220). -/
def State.heldMatches (s : State) (g : Nat) : Bool :=
  (s.core g).impose.held.any (fun x => s.scentAt (s.core g).impose.next == x.2)

/-- SCENT_DIVERGENCE_TIMEOUT: held accesses have waited their time and none matches the imposed log; imposition ends, and the held
accesses are served in arrival order (R220; State.scentTurn). That no record counts as remaining then is the model's choice
(DESIGN CHOICE, log entry 21). -/
def execScentDivergenceTimeout (cl core_ : Nat) (s : State) : Out :=
  event (fun s =>
    let g := cl * 64 + core_
    let k := s.core g
    if k.impose.left = 0 ∨ k.impose.held.isEmpty ∨ s.heldMatches g ∨ (s.servePort g [] k.portq).isSome then none
    else some (s.modCore g (fun k => { k with impose := { k.impose with left := 0, diverged := true } }))) s

/-! ### sys.tlbinv, sys.poison (R222, R223) -/

/-- An invalidation in every TLB of the device. -/
def State.invalAll (s : State) (va asid : Option Nat) : State :=
  let s := s.cores.ents.foldl (fun s e => s.invalL1tlb e.1 va asid) s
  s.clusters.ents.foldl (fun s e => s.invalL2tlb e.1 va asid) s

/-- SYS_TLBINV. -/
def execSysTlbinv (b a : BitVec 5) (s : State) : Out :=
  runThread (do
    needS
    let s ← get
    waitUnless (s.performed s.cur false true 2)
    let va ← getX a
    let asid ← getX b
    upd (fun s => s.invalAll (if a = 0#5 then none else some va.toNat) (if b = 0#5 then none else some (wfld asid 15 0)))) s

/-- A block poisoned where its current copy stands: a dirty sector of some L2, the cluster's own line, else storage. -/
def State.poisonCurrent (s : State) (k b key : Nat) : State :=
  let owner := s.clusters.ents.find? (fun e => e.2.l2.any (fun l =>
    l.addr == down b 256 && l.key == key && l.dirty.getLsbD (sectorOf b)))
  let s := match owner with
    | some (i, _) => s.poisonBlock i b key
    | none => s.poisonBlock k b key
  s.l1dInvalidate k none b

/-- SYS_POISON. Its store check walks as a store's does, so it sets A and D, in modes 2 and 3 too (DESIGN CHOICE, log entry 47). -/
def execSysPoison (b a : BitVec 5) (s : State) : Out :=
  runThread (do
    needS
    let va ← getX a
    let mode := wfld (← getX b) 1 0
    let t ← translate .store va va 1
    let bl := blk t.a
    if mode = 0 then
      upd (fun s => { s.poisonCurrent s.cur.cl bl t.attr.key with
        injected := if s.injected.contains bl then s.injected else bl :: s.injected })
    else if mode = 1 then upd (fun s => { s.l1dInvalidate s.cur.cl none bl with soft := if s.soft.contains bl then s.soft else bl :: s.soft })
    else pure ()) s

/-- SINGLE_BIT_CORRECTION: ECC corrects a single-bit error without any effect on software; the error core counts it
(spec/06_page.md R164). -/
def execSingleBitCorrection (addr : Nat) (s : State) : Out :=
  event (fun s => some { s with soft := s.soft.filter (· ≠ blk addr), corrected := s.corrected + 1#64 }) s

end Sys2Proof.Machine
end

