-- ==== Sys2Proof/Machine/Barrier.lean ====
section
/-! DEFINITION. The barrier file: naming and ownership, phases, waiting and parking, and the bar instructions
(spec/12_barrier.md R326 to R338). -/

namespace Sys2Proof.Machine

open Sys2Proof

/-! ### The barrier file (R329 to R331) -/

def barFreeSt : Nat := 0
def barArmed : Nat := 1
def barDrained : Nat := 2
def barBroken : Nat := 3

/-- Physical barrier p. -/
def Cluster.bar (c : Cluster) (p : Nat) : Bar := c.bars.get {} p
/-- A cluster with a barrier replaced. -/
def Cluster.setBar (c : Cluster) (p : Nat) (b : Bar) : Cluster := { c with bars := c.bars.put p b }

/-- A token has passed (R331). -/
def Bar.passed (b : Bar) (tok : Nat) : Bool :=
  let d := (b.phase + 2 ^ 32 - tok % 2 ^ 32) % 2 ^ 32
  decide (1 ≤ d) && decide (d ≤ 2 ^ 31 - 1)

/-- What bar.wait with a token finds: a status, or none while it must wait (R338). -/
def Bar.status (b : Bar) (tok : Nat) : Option Nat :=
  if b.passed tok then some 0
  else if b.st = barBroken then some 1
  else if b.st = barDrained then some 2
  else none

/-- The status written into a parked record: into the A field of rd, where it is one of x10 to x15 (R336). -/
def Parked.release (p : Parked) (status : Nat) : LightRec :=
  if 10 ≤ p.rd ∧ p.rd ≤ 15 then { p.light with a := setNth p.light.a (p.rd - 10) (w64 status) } else p.light

/-- The slots of a cluster that wait on a barrier and need wait no longer are told their status (R331). -/
def State.tellWaiters (s : State) (cl p : Nat) : State :=
  { s with slots := s.slots.map (fun h t =>
      if h / 512 = cl then
        { t with wait := t.wait.map (fun w =>
            if w.kind = .barrier ∧ w.a = p then
              match ((s.cluster cl).bar p).status w.b with
              | some st => { w with kind := .barDone, b := st }
              | none => w
            else w) }
      else t) }

/-- Waiters and parked records of a barrier that need wait no longer are released; the barrier file sends the records to the
cores where they parked (R331, R336). -/
def State.releaseBar (s : State) (cl p : Nat) : State :=
  let b := (s.cluster cl).bar p
  let ready (x : Parked) : Bool := x.bar == p && (b.status x.tok).isSome
  let out := (s.cluster cl).park.filter ready
  let s := (s.tellWaiters cl p).modCluster cl (fun c => { c with park := c.park.filter (fun x => !ready x) })
  out.foldl (fun s x => s.sendRecord (cl * 64 + x.core) (.engine cl 6) (x.release ((b.status x.tok).getD 0))) s

/-- A phase completes (R331). -/
def Bar.complete (b : Bar) : Bar := { b with phase := (b.phase + 1) % 2 ^ 32, arrived := 0 }

/-- An arrival at an Armed barrier (R334). -/
def Bar.arrive (b : Bar) : Bar :=
  let b := { b with arrived := b.arrived + 1 }
  if b.arrived = b.count then b.complete else b

/-- A drop at an Armed barrier (R334). -/
def Bar.drop (b : Bar) : Bar :=
  if b.count = 1 then { b with count := 0, st := barDrained }.complete
  else
    let b := { b with count := b.count - 1 }
    if b.arrived ≥ b.count then b.complete else b

/-- A barrier changed, and those released whom the change lets go. -/
def State.modBar (s : State) (cl p : Nat) (f : Bar → Bar) : State :=
  (s.modCluster cl (fun c => c.setBar p (f (c.bar p)))).releaseBar cl p

/-- A barrier has a waiting thread or a parked record. -/
def State.barBusy (s : State) (cl p : Nat) : Bool :=
  (s.cluster cl).park.any (fun x => x.bar == p) ||
  s.slots.ents.any (fun e => decide (e.1 / 512 = cl) &&
    (match e.2.wait with | some w => w.kind == .barrier && w.a == p | none => false))

/-- bar.free on a barrier that is not Free: the status, and the state (R334). -/
def State.freeBar (s : State) (cl p : Nat) : State × Nat :=
  if ((s.cluster cl).bar p).st = barArmed ∧ s.barBusy cl p then (s, 1)
  else (s.modCluster cl (fun c => c.setBar p { c.bar p with st := barFreeSt }), 0)

/-- A cancel breaks a barrier: its parked records are discarded and their weight returned (R334). -/
def State.breakBar (s : State) (cl p : Nat) : State :=
  let out := (s.cluster cl).park.filter (fun x => x.bar == p)
  let s := s.modCluster cl (fun c => { c.setBar p { c.bar p with st := barBroken } with park := c.park.filter (fun x => x.bar != p) })
  let s := out.foldl (fun s x => s.giveBack x.light.lslot x.light.weight) s
  s.releaseBar cl p

/-! ### Checks (R326 to R328) -/

/-- Group g's barrier range holds physical barrier p. -/
def Group.holds (g : Group) (p : Nat) : Bool := decide (g.barb ≤ p) && decide (p < g.barb + g.barn)

/-- The physical barrier that a thread names, or none out of range (R326). -/
def Cluster.physBar (c : Cluster) (svault : Word) (b : Nat) : Option Nat :=
  if wbit svault 7 then
    let g := c.groups.get {} (wfld svault 5 0)
    if b < g.barn then some (g.barb + b) else none
  else if (List.range 64).any (fun i => let g := c.groups.get {} i; g.st != 0 && g.holds b) then none
  else some b

/-- The thread matches the owner of a barrier (R327). -/
def Bar.owned (b : Bar) (c : Ctx) : Bool :=
  c.priv == .m ||
    (c.asid == b.asid && (if b.g then wbit c.svault 7 && wfld c.svault 5 0 == b.grp else wfld c.ulaunch 15 0 == b.launch))

/-- The barrier of a bar instruction in range. -/
def barNamed (a : BitVec 5) : M Nat := do
  let v ← getX a
  match (← cluster).physBar (← ctx).svault (wfld v 5 0) with
  | some p => return p
  | none => trap 30 6#64

/-- The state and the owner of a barrier checked: Free refuses, and for an arrival or a drop so do Drained and Broken. -/
def barCheck (p : Nat) (arrives : Bool) : M Unit := do
  let b := (← cluster).bar p
  orTrap (b.st != barFreeSt && (!arrives || b.st == barArmed)) 30 7#64
  orTrap (b.owned (← ctx)) 30 8#64

/-- The arrival of the thread: a release at group scope, then the count (R333). -/
def barCount (p : Nat) : M Unit := do
  release 1
  upd (fun s => s.modBar s.cur.cl p Bar.arrive)

/-! ### Waiting (R335, R336) -/

/-- The wait for a token, with the status to x[rd]: a heavy thread waits in its slot; a light one parks where the park store
has room, after it has freed, closed and dropped as grp.go does. The mark keeps the barrier and the token. -/
def barTail (p tok : Nat) (d : BitVec 5) : M Unit := do
  let k ← cluster
  match (k.bar p).status tok with
  | some st => setX d (w64 st)
  | none =>
    let c ← ctx
    setWait (some { kind := .barrier, a := p, b := tok })
    if c.light ∧ k.park.length < 256 then
      suspend
      let s ← get
      modCluster (fun k => { k with park := k.park ++
        [{ bar := p, core := s.cur.core, tok := tok, rd := d.toNat, light := c.record (c.pc + 4#64) false }] })
      leaveSlot
    else wait

/-- A bar.wait or bar.sync that waits in its slot goes on with the barrier and the token that it recorded; otherwise it starts
(R338). -/
def barGoOn (d : BitVec 5) (start : M Unit) : M Unit := do
  match (← slot).wait with
  | some m => if m.kind = .barDone then setX d (w64 m.b) else barTail m.a m.b d
  | none => start

/-- PARK_STORE_ENTRY_FREE: a light thread that waits in its slot for a full park store parks (R336). -/
def execParkStoreEntryFree (h : Hart) (s : State) : Out :=
  match (s.slot h).wait with
  | some m =>
    if m.kind = .barrier ∧ s.running h ∧ (s.ctx h).light ∧ (s.cluster h.cl).park.length < 256 then
      runThread (barTail m.a m.b (fRd m.bits)) { s with cur := h, ibits := m.bits, ilen := m.len }
    else .next s
  | none => .next s

/-! ### The bar instructions (R338) -/

/-- BAR_INIT. -/
def execBarInit (b a d : BitVec 5) (s : State) : Out :=
  runThread (do
    let p ← barNamed a
    let n := wfld (← getX b) 23 0
    orTrap (n != 0) 30 9#64
    let c ← ctx
    if ((← cluster).bar p).st ≠ barFreeSt then setX d 1#64
    else
      modCluster (fun k => k.setBar p
        { st := barArmed, g := wbit c.svault 7, grp := wfld c.svault 5 0, count := n, asid := c.asid, launch := wfld c.ulaunch 15 0 })
      setX d 0#64) s

/-- BAR_ARRIVE. -/
def execBarArrive (a d : BitVec 5) (s : State) : Out :=
  runThread (do
    let p ← barNamed a
    barCheck p true
    let tok := ((← cluster).bar p).phase
    barCount p
    setX d (w64 tok)) s

/-- BAR_WAIT. -/
def execBarWait (b a d : BitVec 5) (s : State) : Out :=
  runThread (do
    barGoOn d (do
      let p ← barNamed a
      barCheck p false
      let tok := wfld (← getX b) 31 0
      barTail p tok d)) s

/-- BAR_SYNC; an rd field of 0 is illegal (R337). -/
def execBarSync (a d : BitVec 5) (s : State) : Out :=
  runThread (do
    require (d != 0#5)
    barGoOn d (do
      let p ← barNamed a
      if wbit (← getX d) 63 then barCheck p false
      else
        barCheck p true
        let tok := ((← cluster).bar p).phase
        barCount p
        setX d (w64 (2 ^ 63 + tok))
      let tok := wfld (← getX d) 31 0
      barTail p tok d)) s

/-- BAR_DROP. -/
def execBarDrop (a : BitVec 5) (s : State) : Out :=
  runThread (do
    let p ← barNamed a
    barCheck p true
    release 1
    upd (fun s => s.modBar s.cur.cl p Bar.drop)) s

/-- BAR_TEST. -/
def execBarTest (b a d : BitVec 5) (s : State) : Out :=
  runThread (do
    let p ← barNamed a
    barCheck p false
    let x := (← cluster).bar p
    let tok := wfld (← getX b) 31 0
    setX d (w64 (x.phase * 2 ^ 32 + 2 * b2n (x.st == barBroken) + b2n (x.passed tok)))) s

/-- BAR_FREE. -/
def execBarFree (a d : BitVec 5) (s : State) : Out :=
  runThread (do
    let p ← barNamed a
    barCheck p false
    let s ← get
    let r := s.freeBar s.cur.cl p
    set r.1
    setX d (w64 r.2)) s

end Sys2Proof.Machine
end

