-- ==== Sys2Proof/Machine/Group.lean ====
section
/-! DEFINITION. Groups, segments and fill masks as firmware and system software set them, and the grp instructions
(spec/11_group.md R307 to R314, R321 to R325; spec/04_memory.md R112, R113). -/

namespace Sys2Proof.Machine

open Sys2Proof

/-- A party may write a device register of a cluster, or of the package where none is given: the owner host, the control
cores, and the firmware of the cluster (spec/17_queue.md R447; spec/18_link.md R481; spec/01_device.md R39). -/
def State.mayWrite (s : State) (who : Party) (cl : Option Nat) : Bool :=
  match who with
  | .host n => decide (n < 8) && s.owner == n
  | .control n => decide (n < 8)
  | .firmware k => cl == some k

/-! ### Group table (R307, R308) -/

/-- Group g of a cluster. -/
def Cluster.group (c : Cluster) (g : Nat) : Group := c.groups.get {} g
/-- A cluster with a group entry replaced. -/
def Cluster.setGroup (c : Cluster) (g : Nat) (x : Group) : Cluster := { c with groups := c.groups.put g x }

/-- Doubleword 1 of an entry. -/
def Group.word (g : Group) : Nat :=
  g.st + g.asid * 2 ^ 16 + g.launch * 2 ^ 32 + g.barb * 2 ^ 48 + g.barn * 2 ^ 54

/-- A segment of the cluster is owned by group g. -/
def Cluster.ownsSeg (c : Cluster) (g : Nat) : Bool :=
  c.segs.ents.any (fun e => wbit e.2.val 6 && wfld e.2.val 5 0 == g)

/-- Doubleword 1 written: STATE moves the group, and any other write of STATE is ignored. -/
def Cluster.writeGroup (c : Cluster) (g : Nat) (v : Nat) : Cluster :=
  let x := c.group g
  let st := if fld v 2 0 > 3 then 0 else fld v 2 0
  match x.st, st with
  | 0, 1 => c.setGroup g { x with st := 1, asid := fld v 31 16, launch := fld v 47 32, barb := fld v 53 48, barn := fld v 60 54 }
  | 1, 2 => c.setGroup g { x with st := 2 }
  | 2, 3 => c.setGroup g { x with st := 3 }
  | 3, 0 =>
    if c.ownsSeg g ∨ (List.range 64).any (fun p => x.holds p && (c.bar p).st != 0) then c
    else c.setGroup g { x with st := 0 }
  | _, _ => c

/-- Doubleword 0 written. -/
def Cluster.writeCores (c : Cluster) (g : Nat) (v : Nat) : Cluster := c.setGroup g { c.group g with cores := v }

/-- GROUP_FORM: a Free group entry is written with STATE 1; ASID, LAUNCH, CORES and the barrier range take effect. -/
def execGroupForm (who : Party) (cl g : Nat) (cores dw1 : Word) (s : State) : Out :=
  event (fun s =>
    if s.mayWrite who (some cl) ∧ cl < 40 ∧ g < 64 ∧ ((s.cluster cl).group g).st = 0 ∧ wfld dw1 2 0 = 1 then
      some (s.modCluster cl (fun c => (c.writeCores g cores.toNat).writeGroup g dw1.toNat))
    else none) s

/-- GROUP_GO_LIVE: STATE 2 is written to a Forming group. -/
def execGroupGoLive (who : Party) (cl g : Nat) (s : State) : Out :=
  event (fun s =>
    if s.mayWrite who (some cl) ∧ cl < 40 ∧ g < 64 ∧ ((s.cluster cl).group g).st = 1 then
      some (s.modCluster cl (·.writeGroup g 2))
    else none) s

/-- GROUP_DRAIN: STATE 3 is written to a Live group. -/
def execGroupDrain (who : Party) (cl g : Nat) (s : State) : Out :=
  event (fun s =>
    if s.mayWrite who (some cl) ∧ cl < 40 ∧ g < 64 ∧ ((s.cluster cl).group g).st = 2 then
      some (s.modCluster cl (·.writeGroup g 3))
    else none) s

/-- GROUP_FREE: STATE 0 is written to a Draining group; it is ignored while a segment or a barrier is still the group's. -/
def execGroupFree (who : Party) (cl g : Nat) (s : State) : Out :=
  event (fun s =>
    if s.mayWrite who (some cl) ∧ cl < 40 ∧ g < 64 ∧ ((s.cluster cl).group g).st = 3 then
      some (s.modCluster cl (·.writeGroup g 0))
    else none) s

/-! ### Segments (R310, R311) -/

/-- Segment register of segment seg of core rank c. -/
def Cluster.seg (k : Cluster) (c seg : Nat) : Seg := k.segs.get {} (c * 16 + seg)
/-- A cluster with a segment register replaced. -/
def Cluster.setSeg (k : Cluster) (c seg : Nat) (x : Seg) : Cluster := { k with segs := k.segs.put (c * 16 + seg) x }

/-- Writable bits of a segment register. -/
def segMask : Word := 0xFFFF00FF#64

/-- The write zeroes the segment first. -/
def segZeroes (old new : Word) : Bool :=
  wfld old 31 16 != wfld new 31 16 || (!wbit old 6 && wbit new 6) || (wbit old 6 && wbit new 6 && wfld old 5 0 != wfld new 5 0)

/-- A segment register written: at once, or after the zeroing that the write starts. -/
def Seg.write (x : Seg) (v : Word) : Seg :=
  let v := v &&& segMask
  if segZeroes x.val v then { x with next := some v } else { x with val := v }

/-- SEGMENT_REGISTER_WRITE: a write that arrives while the segment is being zeroed waits for it. -/
def execSegmentRegisterWrite (who : Party) (cl core_ seg : Nat) (value : Word) (s : State) : Out :=
  event (fun s =>
    let x := (s.cluster cl).seg core_ seg
    if s.mayWrite who (some cl) ∧ cl < 40 ∧ core_ < 64 ∧ seg < 16 ∧ x.next.isNone then
      some (s.modCluster cl (·.setSeg core_ seg (x.write value)))
    else none) s

/-- The 16 KiB of a segment zero. -/
def State.zeroSeg (s : State) (g seg : Nat) : State :=
  s.putBytes (scratchPa g (seg * 2 ^ 14)) (List.replicate (2 ^ 14) 0#8) none

/-- The accesses that have reached the segment while it was being zeroed are checked again: requests in the port's queue, and the
operations at the heads of the tile queues of the cluster (R311). -/
def State.checkAgain (s : State) (g seg : Nat) : State :=
  let s := s.modCore g (fun c => { c with portq := c.portq.map (fun r =>
    if r.off / 2 ^ 14 = seg then { r with again := true } else r) })
  { s with cores := s.cores.map (fun i c =>
      match c.tileq with
      | [] => c
      | o :: rest =>
        if i / 64 = g / 64 ∧ o.spans.any (fun x => x.meets (scratchPa g (seg * 2 ^ 14)) (2 ^ 14)) then
          { c with tileq := { o with again := true } :: rest }
        else c) }

/-- SEGMENT_ZEROING_DONE: the segment is zero and the written value takes effect. -/
def execSegmentZeroingDone (cl core_ seg : Nat) (s : State) : Out :=
  event (fun s =>
    let x := (s.cluster cl).seg core_ seg
    x.next.map (fun v => ((s.zeroSeg (cl * 64 + core_) seg).checkAgain (cl * 64 + core_) seg).modCluster cl
      (·.setSeg core_ seg { val := v }))) s

/-- Segments freed: V = 0 in every segment register that names group g. -/
def Cluster.freeSegs (c : Cluster) (g : Nat) : Cluster :=
  { c with segs := c.segs.map (fun _ x =>
      if wbit x.val 6 ∧ wfld x.val 5 0 = g then x.write (wputb x.val 6 false) else x) }

/-! ### The end of a group's launch (R308) -/

/-- A segment of group g is being zeroed for a write that has not taken effect; a further write waits for it (R311). -/
def Cluster.segBusy (c : Cluster) (g : Nat) : Bool :=
  c.segs.ents.any (fun e => wbit e.2.val 6 && wfld e.2.val 5 0 == g && e.2.next.isSome)

/-- The barriers of a group's range freed. -/
def State.freeRange (s : State) (cl : Nat) (x : Group) : State :=
  (List.range x.barn).foldl (fun s i =>
    if ((s.cluster cl).bar (x.barb + i)).st = 0 then s else (s.freeBar cl (x.barb + i)).1) s

/-- LAUNCH_END_NOTICE: cluster firmware drains a group of an ended launch, frees its barriers and its segments, and frees the
group. -/
def execLaunchEndNotice (cl g : Nat) (s : State) : Out :=
  event (fun s =>
    let x := (s.cluster cl).group g
    if x.st = 0 ∨ !s.ends.contains (cl, x.launch) ∨ (s.cluster cl).segBusy g then none
    else
      let s := s.modCluster cl (fun c => if x.st = 2 then c.writeGroup g 3 else c)
      let s := (s.freeRange cl x).modCluster cl (fun c => (c.freeSegs g).writeGroup g 0)
      let more := (List.range 64).any (fun i => let y := (s.cluster cl).group i; y.st != 0 && y.launch == x.launch)
      some (if more then s else { s with ends := s.ends.filter (· ≠ (cl, x.launch)) })) s

/-! ### Fill masks (spec/04_memory.md R112, R113) -/

/-- The fill mask of a class written in every slice. -/
def Cluster.castMask (c : Cluster) (cls m : Nat) : Cluster :=
  { c with fmask := (List.range 64).foldl (fun t i => t.put (i * 16 + cls) m) c.fmask }

/-- BROADCAST_FILL_MASK_WRITE: all 64 slices of the cluster apply the mask. -/
def execBroadcastFillMaskWrite (who : Party) (cl cls : Nat) (mask : Word) (s : State) : Out :=
  event (fun s =>
    if s.mayWrite who (some cl) ∧ cl < 40 ∧ cls < 16 then some (s.modCluster cl (·.castMask cls (wfld mask 15 0))) else none) s

/-! ### grp.spawn, grp.spawnat (R322) -/

/-- A light thread created at the core that a choice names; its argument is x[rs2]. -/
def spawnTo (b a : BitVec 5) (dest : Nat → Word → Nat) : M Unit := do
  let c ← ctx
  match (← slot).wait with
  | some m =>
    match m.kind with
    | .recordTaken => modCtx (fun c => { c with uweight := c.uweight - w64 (c.uweight.toNat / 2) })
    | .recordRefused => trap 48 (← getX b)
    | _ => wait
  | none =>
    let e ← getX a
    let arg ← getX b
    orTrap (e != 0#64 && canonical e.toNat) 1 e
    orTrap (!wbit e 0) 0 e
    orTrap (decide (c.ulaunch.toNat < 4096)) 30 5#64
    orTrap (decide (2 ≤ c.uweight.toNat)) 29 c.uweight
    release 2
    let r : LightRec := { pc := wfld e 47 0, lslot := wfld c.ulaunch 11 0, rx := false, fp := false, bh := false, bad := false,
                          weight := c.uweight.toNat / 2, a := arg :: (List.range 5).map (fun i => c.getX (11 + i)) }
    sendAndWait (dest (← myCore) arg) r 0 0 {}

/-- GRP_SPAWN. -/
def execGrpSpawn (b a : BitVec 5) (s : State) : Out := runThread (spawnTo b a (fun g _ => g)) s

/-- GRP_SPAWNAT. -/
def execGrpSpawnat (b a : BitVec 5) (s : State) : Out :=
  runThread (spawnTo b a (fun g v => (ownerOf g v.toNat).getD g)) s

/-! ### grp.go, grp.owner, grp.here (R323, R325) -/

/-- GRP_GO. -/
def execGrpGo (a : BitVec 5) (s : State) : Out :=
  runThread (do
    let va ← getX a
    match (← slot).wait with
    | some m =>
      match m.kind with
      | .recordTaken => leaveSlot
      | .recordRefused => trap 48 va
      | _ => wait
    | none =>
      let c ← ctx
      let g ← myCore
      match (if c.light then (ownerOf g va.toNat).filter (· != g) else none) with
      | none => release 2
      | some o =>
        suspend
        let c ← ctx
        sendAndWait o (c.record (c.pc + 4#64) true) 0 1 {}) s

/-- GRP_OWNER. -/
def execGrpOwner (a d : BitVec 5) (s : State) : Out :=
  runThread (do
    match ownerOf (← myCore) (← getX a).toNat with
    | some o => setX d (w64 o)
    | none => setX d (BitVec.allOnes 64)) s

/-- GRP_HERE. -/
def execGrpHere (a d : BitVec 5) (s : State) : Out :=
  runThread (do
    let g ← myCore
    match ownerOf g (← getX a).toNat with
    | some o => setX d (b2w (o == g))
    | none => setX d 1#64) s

end Sys2Proof.Machine
end

