-- ==== Sys2Proof/Machine/Header.lean ====
section
/-! DEFINITION. Steps of engines in sequence, the kernel header and the discard of fetched lines of an image
(spec/19_code.md R493 to R495). -/

namespace Sys2Proof.Machine

open Sys2Proof

/-! ### Steps of an engine -/

/-- Accesses of an engine in sequence: they end with a value, or with a failure. -/
abbrev EM := EStateM EngFail State

/-- One operation of an engine. -/
def eng {α : Type} (f : State → State × Except EngFail α) : EM α := fun s =>
  match f s with
  | (s, .ok a) => .ok a s
  | (s, .error e) => .error e s

/-- An operation that is retried while it cannot be served. -/
def later {α : Type} : EM α := fun s => .error .later s

/-- A read within one page, with its first poisoned block; a walk that meets poison fails as a poisoned read. -/
def State.engReadPage (s : State) (e : Eng) (va n : Nat) : State × Except EngFail (List Byte × Option Nat) :=
  match s.engTarget e .load va n with
  | (s, .error f) => (s, .error f)
  | (s, .ok t) =>
    match s.engGet e t n with
    | (s, .error f) => (s, .error f)
    | (s, .ok (bs, ps)) => (s, .ok (bs, (ps.findIdx? id).map (fun i => blk (t.a + i))))

/-- Parts of a read in turn: the bytes and the first poisoned block. -/
def readParts (e : Eng) : List (Nat × Nat) → EM (List Byte × Option Nat)
  | [] => return ([], none)
  | (va, n) :: r => do
    let (bs, p) ← eng (fun s => s.engReadPage e va n)
    let (cs, q) ← readParts e r
    return (bs ++ cs, p <|> q)

/-- Bytes read at a virtual address; poison ends the read with its own failure. -/
def readE (e : Eng) (va n : Nat) : EM (List Byte) := do
  let (bs, p) ← readParts e (vaParts va n)
  match p with
  | some b => throw (.poison (some b))
  | none => return bs

/-- Bytes written at a virtual address. -/
def writeE (e : Eng) (va : Nat) (bs : List Byte) : EM Unit :=
  eng (fun s => s.engWrite e va bs)

/-- The error records sent on the way to a failure whose other effects do not happen (spec/06_page.md R167). -/
def State.keepErrs (s t : State) : State := s.errors (t.errs.drop s.errs.length)

/-- A signal written; it fails only for now. -/
def signalE (e : Eng) (va launch : Nat) (f : Nat → Nat) : EM SigRes := do
  if va = 0 then return .done
  let r ← (fun s => let (s, r) := s.signal e va launch f; .ok r s : EM SigRes)
  match r with
  | .later => later
  | r => return r

/-! ### The kernel header (spec/19_code.md R493, R494) -/

/-- The fields of a kernel header that the device uses. -/
structure KHeader where
  kind   : Nat
  ndim   : Nat
  nvec   : Nat
  vecs   : List (List Int)
  entry  : Word
  imgLo  : Nat
  imgLen : Nat
deriving DecidableEq, Repr, Inhabited

/-- A list of bytes is zero. -/
def allZero (bs : List Byte) : Bool := bs.all (· == 0#8)

/-- Signed bytes. -/
def int8s (bs : List Byte) : List Int := bs.map (fun b => sint b.toNat 8)

/-- A dependence vector obeys R389 for n dimensions (spec/15_frontier.md R389): lexicographically positive, in range, and
zero beyond the dimensions. -/
def vecOk (n : Nat) (v : List Int) : Bool :=
  let d := v.take n
  (v.drop n).all (· == 0) && decide (0 ≤ d.headD 0) && decide (d.headD 0 ≤ 3)
    && (d.drop 1).all (fun x => decide (-63 ≤ x) && decide (x ≤ 63))
    && (match d.find? (· != 0) with
        | some x => decide (0 < x)
        | none => false)

/-- Vectors of three components each. -/
def vecsOf (bs : List Byte) : List (List Int) := (List.range 4).map (fun v => int8s ((bs.drop (3 * v)).take 3))

/-- The checks of a header read at an address (R494): the header, where it is accepted. -/
def headerOf (va : Nat) (bs : List Byte) : Option KHeader :=
  let kind := numAt bs 6 1
  let ndim := numAt bs 7 1
  let nvec := numAt bs 8 1
  let vecs := vecsOf (bs.drop 12)
  let rev := numAt bs 0x18 4
  let off := sint (numAt bs 0x20 8) 64
  let img := sint (numAt bs 0x28 8) 64
  let len := numAt bs 0x30 8
  let shape :=
    if kind = 3 then decide (1 ≤ ndim) && decide (ndim ≤ 3) && decide (1 ≤ nvec) && decide (nvec ≤ 4)
      && (vecs.take nvec).all (vecOk ndim) && (vecs.drop nvec).all (fun v => v.all (· == 0))
    else ndim == 0 && nvec == 0 && allZero ((bs.drop 12).take 12)
  if numAt bs 0 4 = 0x4B5A4B48 ∧ numAt bs 4 2 = 1 ∧ kind ≤ 3 ∧ shape ∧ numAt bs 10 2 ≤ 0x100
      ∧ (rev / 2 ^ 16 = 0x2560 ∨ rev / 2 ^ 16 = 0) ∧ numAt bs 0x1C 4 = 0 ∧ allZero ((bs.drop 0x40).take 32)
      ∧ off % 2 = 0 ∧ img ≤ off ∧ off < img + len then
    some { kind := kind, ndim := ndim, nvec := nvec, vecs := vecs.take nvec, entry := w64 (uint ((va : Int) + off) 64),
           imgLo := uint ((va : Int) + img) 64, imgLen := len }
  else none

/-! ### The discard of an image's fetched lines (spec/19_code.md R495) -/

/-- Physical 4 KiB blocks that the pages of an image lie in, whatever their permissions, with the address of the page. -/
def State.imagePages (s : State) (e : Eng) (lo len : Nat) : List (Nat × Nat) :=
  (vaParts lo len).filterMap (fun p =>
    (s.mapVa (e.g / 64) e.satp (p.1 % 2 ^ 64)).map (fun a => (down a 4096, down p.1 4096)))

/-- A line of an instruction cache holds a byte of an image. -/
def lineInImage (pages : List (Nat × Nat)) (lo len : Nat) (l : L1iLine) : Bool :=
  pages.any (fun p => p.1 == down l.addr 4096 &&
    (let va := p.2 + l.addr % 4096
     decide (lo < va + 64) && decide (va < lo + len)))

/-- The cores of some clusters discard the fetched lines of an image; the engine says under which address space. -/
def State.discardImage (s : State) (e : Eng) (cls : List Nat) (lo len : Nat) : State :=
  if lo = 0 ∧ len = 0 then s
  else
    let pages := s.imagePages e lo len
    (cls.flatMap coresOf).foldl (fun s g =>
      if (s.core g).l1i.isEmpty then s
      else s.modCore g (fun k => { k with l1i := k.l1i.filter (fun l => !lineInImage pages lo len l) })) s

/-- The discard for the image of a launch's header, in one cluster: for a beam query and for a spawn task. The image lies where the
launch's own satp maps it, under which its header was read and its handlers and children run (R495; spec/14_kernel.md R371;
spec/07_context.md R173). -/
def State.discardLaunchImage (s : State) (e : Eng) (launch cl : Nat) : State :=
  let w := s.workAt launch
  s.discardImage { e with satp := w.satp } [cl] w.imgLo w.imgLen

end Sys2Proof.Machine
end

