-- ==== Sys2Proof/Machine/Frontier.lean ====
section
/-! DEFINITION. The frontier launch: its descriptor, bands, firing, counts and messages, its states, its record, and the fnt
instructions (spec/15_frontier.md R388 to R413). -/

namespace Sys2Proof.Machine

open Sys2Proof

/-! ### Tables by key -/

/-- The entry of a table at a key, where it is listed. -/
def Tab.look {α : Type} (t : Tab α) (k : Nat) : Option α := (t.ents.find? (fun e => e.1 == k)).map (·.2)
/-- A table without a key. -/
def Tab.drop {α : Type} (t : Tab α) (k : Nat) : Tab α := ⟨t.ents.filter (fun e => e.1 != k)⟩

/-! ### The descriptor (R388 to R390, R397) -/

/-- A frontier descriptor. -/
structure FntDesc where
  bytes : List Byte
  ndim  : Nat
  nvec  : Nat
  infl  : Nat
  ext   : List Nat
  vecs  : List (List Int)
  cmask : Nat
  khdr  : Nat
  array : Nat
  sig   : Nat
deriving DecidableEq, Repr

/-- The descriptor that 64 bytes hold. -/
def fntDesc (bs : List Byte) : FntDesc :=
  { bytes := bs, ndim := numAt bs 0 1, nvec := numAt bs 1 1, infl := numAt bs 2 2
    ext := [numAt bs 4 4, numAt bs 8 4, numAt bs 12 4], vecs := vecsOf (bs.drop 16), cmask := numAt bs 0x20 8
    khdr := numAt bs 0x28 8, array := numAt bs 0x30 8, sig := numAt bs 0x38 8 }

/-- LINES of a space of n dimensions (R390). -/
def spaceLines (ndim : Nat) (ext : List Nat) : Nat :=
  match ndim with
  | 1 => 1
  | 2 => nth ext 0 0
  | _ => nth ext 0 0 * nth ext 1 0

/-- LINES. -/
def FntDesc.lines (d : FntDesc) : Nat := spaceLines d.ndim d.ext
/-- Extent of the last dimension. -/
def FntDesc.last (d : FntDesc) : Nat := nth d.ext (d.ndim - 1) 0
/-- Clusters that may hold bands. -/
def FntDesc.clusters (d : FntDesc) : List Nat := clustersOf d.cmask

/-- NB of R397. -/
def FntDesc.nb (d : FntDesc) : Nat := if d.ndim = 1 then 1 else max 1 (min d.clusters.length (nth d.ext 0 0 / 3))

/-- The bands: cluster, first p0 and one past the last (R397); the one band of a space of one dimension, or without lines,
is band 0 on the lowest cluster. -/
def FntDesc.bands (d : FntDesc) : List (Nat × Nat × Nat) :=
  let c0 := d.clusters.headD 0
  if d.ndim = 1 then [(c0, 0, 1)]
  else if d.lines = 0 then [(c0, 0, 0)]
  else
    let e0 := nth d.ext 0 0
    let sz := ceilDiv e0 d.nb
    (List.range (ceilDiv e0 sz)).map (fun b => (nth d.clusters b 0, b * sz, min ((b + 1) * sz) e0))

/-- Reason 1: reserved bytes and bits, and the fields beyond NDIM and NVEC. -/
def FntDesc.shapeBad (d : FntDesc) : Bool :=
  !allZero ((d.bytes.drop 0x1C).take 4) || d.cmask >= 2 ^ 40 || d.ndim == 0 || decide (3 < d.ndim) || d.nvec == 0 || decide (4 < d.nvec)
    || (d.ext.drop d.ndim).any (· != 0) || (d.vecs.drop d.nvec).any (fun v => v.any (· != 0))
    || (d.vecs.take d.nvec).any (fun v => (v.drop d.ndim).any (· != 0))

/-! ### Geometry (R390, R393) -/

/-- Coordinates of a point of a line. -/
def coordsOf (ndim : Nat) (ext : List Nat) (l p : Nat) : List Nat :=
  match ndim with
  | 1 => [p]
  | 2 => [l, p]
  | _ => [l / nth ext 1 0, l % nth ext 1 0, p]

/-- Line and position of a point. -/
def lineOf (ndim : Nat) (ext : List Nat) (q : List Nat) : Nat × Nat :=
  match ndim with
  | 1 => (0, nth q 0 0)
  | 2 => (nth q 0 0, nth q 1 0)
  | _ => (nth q 0 0 * nth ext 1 0 + nth q 1 0, nth q 2 0)

/-- p - d, where it lies in the space. -/
def predOf (ndim : Nat) (ext : List Nat) (p : List Nat) (d : List Int) : Option (List Nat) :=
  let q : List Int := (List.range ndim).map (fun k => ((nth p k 0 : Nat) : Int) - nth d k 0)
  if (List.range ndim).all (fun k => decide (0 ≤ nth q k 0) && decide (nth q k 0 < ((nth ext k 0 : Nat) : Int))) then some (q.map Int.toNat) else none

/-- Extent of the last dimension. -/
def Trk.last (t : Trk) : Nat := nth t.ext (t.ndim - 1) 0
/-- First line of a band, and one past its last. -/
def Trk.line0 (t : Trk) : Nat := if t.ndim = 3 then t.lo * nth t.ext 1 0 else t.lo
def Trk.lineEnd (t : Trk) : Nat := if t.ndim = 3 then t.hi * nth t.ext 1 0 else t.hi
/-- The band holds a line. -/
def Trk.owns (t : Trk) (l : Nat) : Bool := decide (t.line0 ≤ l) && decide (l < t.lineEnd)
/-- The line is a boundary line of the band (R398). -/
def Trk.boundary (t : Trk) (l : Nat) : Bool :=
  t.ndim != 1 && decide (t.hi ≤ (nth (coordsOf t.ndim t.ext l 0) 0 0) + 3)

/-! ### The tracker's accesses (R391; spec/11_group.md R525) -/

/-- The tracker of a band as an engine (log entry 16); its accesses are performed at device scope. -/
def Trk.eng (t : Trk) (cl : Nat) : Eng :=
  { g := cl * 64 + t.g % 64, kind := 5, src := cl, ident := t.ident, satp := t.satp, cls := t.cls, fresh := true }

/-- The count of a line that the array holds, clamped to the line's extent. -/
def arrayCount (e : Eng) (t : Trk) (l : Nat) : EM Nat := do
  let bs ← readE e (uint ((t.array + 4 * l : Nat) : Int) 64) 4
  return min (leNat bs) t.last

/-- The count of a line as a tracker knows it: held, held as a ghost copy, or read. -/
def lineCount (e : Eng) (t : Trk) (l : Nat) : EM Nat :=
  match t.held.look l with
  | some x => return x.count
  | none =>
    match t.ghost.look l with
    | some n => return n
    | none => arrayCount e t l

/-- A count written to its array entry. -/
def writeCount (e : Eng) (t : Trk) (l n : Nat) : EM Unit :=
  writeE e (uint ((t.array + 4 * l : Nat) : Int) 64) (leBytes 4 n)

/-! ### Lines (R392, R396, R399) -/

/-- The line may leave the tracker. -/
def Line.idle (x : Line) : Bool := x.comp == 0#64 && x.fired == 0#64

/-- The windows shifted over completed positions. -/
def Line.advance : Nat → Line → Line
  | 0, x => x
  | n + 1, x =>
    if wbit x.comp 0 then Line.advance n { count := x.count + 1, comp := x.comp >>> 1, fired := x.fired >>> 1 } else x

/-- Position count + k complete (R396). -/
def Line.finish (x : Line) (k : Nat) : Line := Line.advance 64 { x with comp := wputb x.comp k true, fired := wputb x.fired k false }

/-- Position p of the line is in flight. -/
def Line.inFlight (x : Line) (p : Nat) : Bool := decide (x.count ≤ p) && decide (p < x.count + 64) && wbit x.fired (p - x.count)

/-- Points in flight of a band. -/
def Trk.inFlight (t : Trk) : Nat := t.held.ents.foldl (fun n e => n + popCount 64 e.2.fired.toNat) 0

/-- Lines that a tracker may hold for a frontier launch. -/
def trkLines : Nat := 1024

/-- A held line may be evicted: its windows are zero, and none of its counts waits to be written and sent. -/
def Trk.evictable (t : Trk) (e : Nat × Line) : Bool := e.2.idle && !t.outbox.any (fun o => o.1 == e.1)

/-- The tracker has room for another line, or can make it. -/
def Trk.canHold (t : Trk) : Bool :=
  decide (t.held.ents.length + t.ghost.ents.length < trkLines) || !t.ghost.ents.isEmpty || t.held.ents.any t.evictable

/-- Room made for another line: a ghost copy is dropped, else the count of an idle own line is written (R399). -/
def makeRoom (e : Eng) (t : Trk) : EM Trk :=
  if t.held.ents.length + t.ghost.ents.length < trkLines then return t
  else
    match t.ghost.ents with
    | (l, _) :: _ => return { t with ghost := t.ghost.drop l }
    | [] =>
      match t.held.ents.find? t.evictable with
      | some (l, x) => do
        writeCount e t l x.count
        return { t with held := t.held.drop l }
      | none => return t

/-! ### Readiness and firing (R393 to R395) -/

/-- Every predecessor of a point lies outside the space or below its line's count. -/
def predsDone (e : Eng) (t : Trk) (p : List Nat) : List (List Int) → EM Bool
  | [] => return true
  | d :: ds =>
    match predOf t.ndim t.ext p d with
    | none => predsDone e t p ds
    | some q => do
      let (l, pos) := lineOf t.ndim t.ext q
      let c ← lineCount e t l
      if pos < c then predsDone e t p ds else return false

/-- The lowest ready position of a line, among n positions from p on. -/
def readyPos (e : Eng) (t : Trk) (l : Nat) (x : Line) : Nat → Nat → EM (Option Nat)
  | 0, _ => return none
  | n + 1, p => do
    if t.last ≤ p then return none
    else if wbit x.comp (p - x.count) ∨ wbit x.fired (p - x.count) then readyPos e t l x n (p + 1)
    else
      let ok ← predsDone e t (coordsOf t.ndim t.ext l p) t.vecs
      if ok then return some p else readyPos e t l x n (p + 1)

/-- The lowest ready point of a band among n lines from l on. -/
def readyPoint (e : Eng) (t : Trk) : Nat → Nat → EM (Option (Nat × Nat × Line))
  | 0, _ => return none
  | n + 1, l => do
    let held := t.held.look l
    if held.isNone ∧ !t.canHold then readyPoint e t n (l + 1)
    else
      let x ← match held with
        | some x => pure x
        | none => do
          let c ← arrayCount e t l
          pure ({ count := c } : Line)
      match ← readyPos e t l x 64 x.count with
      | some p => return some (l, p, x)
      | none => readyPoint e t n (l + 1)

/-- The handle of an entry (R401). -/
def Trk.handle (t : Trk) (cl ent : Nat) : Nat := cl + ent * 2 ^ 6 + t.gen % 2 ^ 32 * 2 ^ 16

/-- The record of a fired point (R395). -/
def Trk.record (t : Trk) (cl ent l p : Nat) : LightRec :=
  let q := coordsOf t.ndim t.ext l p
  { pc := wfld t.entry 47 0, lslot := t.launch % 4096, rx := false, fp := true, bh := false, bad := false, weight := 1
    a := [w64 (nth q 0 0), w64 (nth q 1 0), w64 (nth q 2 0), w64 (l * 2 ^ 32 + p), 0#64, w64 (t.handle cl ent)] }

/-- Weight 1 taken from a tracker entry, which keeps at least 1: it borrows first where it holds exactly 1 (R402). -/
def State.trkGive (s : State) (cl ent : Nat) : State :=
  let t := s.trk cl ent
  let s := if t.weight ≤ 1 then (s.engBorrow t.launch).modTrk cl ent (fun t => { t with weight := t.weight + 2 ^ 32 }) else s
  s.modTrk cl ent (fun t => { t with weight := t.weight - 1 })

/-- A record sent by a tracker to the core of its cluster whose arrival unit holds the fewest records. -/
def State.trkSend (s : State) (cl ent : Nat) (r : LightRec) : State :=
  let s := s.trkGive cl ent
  s.sendRecord (s.fewest (.engine cl 1) (coresOf cl)) (.engine cl 1) r

/-- The next firing of a band, where there is a ready point. -/
def fireBand (cl ent : Nat) : EM Bool := do
  let s ← get
  let t := s.trk cl ent
  if t.ended ∨ s.fntState t ≠ .running ∨ t.inFlight ≥ t.infl then return false
  else
    let e := t.eng cl
    match ← readyPoint e t (t.lineEnd - t.line0) t.line0 with
    | none => return false
    | some (l, p, x) =>
      let t ← if (t.held.look l).isSome then pure t else makeRoom e t
      let x : Line := { x with fired := wputb x.fired (p - x.count) true }
      let t := { t with held := t.held.put l x }
      modify (fun s => (s.modTrk cl ent (fun _ => t)).trkSend cl ent (t.record cl ent l p))
      return true

/-! ### Bands as a whole -/

/-- The entry of band 0. -/
def Trk.first (t : Trk) : Nat × Nat := t.bands.headD (0, 0)

/-- Every line of the band among n lines from l on has reached the extent, as held counts and the array stand. -/
def linesFull (e : Eng) (t : Trk) : Nat → Nat → EM Bool
  | 0, _ => return true
  | n + 1, l => do
    if (← lineCount e t l) = t.last then linesFull e t n (l + 1) else return false

/-- Every line of every band has reached the extent. -/
def bandsFull : List (Nat × Nat) → EM Bool
  | [] => return true
  | b :: bs => do
    let x := (← get).trk b.1 b.2
    if ← linesFull (x.eng b.1) x (x.lineEnd - x.line0) x.line0 then bandsFull bs else return false

/-- Every line of the frontier launch has reached the extent (R396). A held line below it answers before any line is read. -/
def fntFull (t : Trk) : EM Bool := do
  let s ← get
  if t.bands.any (fun b => (s.trk b.1 b.2).held.ents.any (fun e => e.2.count != (s.trk b.1 b.2).last)) then return false
  else bandsFull t.bands

/-- Points in flight over all bands. -/
def State.fntInFlight (s : State) (t : Trk) : Nat := t.bands.foldl (fun n b => n + (s.trk b.1 b.2).inFlight) 0

/-- The line and position of a withdrawn record, which its body still holds in a3 (R395). -/
def pointOf (r : LightRec) : Nat × Nat := (wfld (nth r.a 3 0#64) 63 32, wfld (nth r.a 3 0#64) 31 0)

/-- Points in flight of a band, as line and position. -/
def Trk.flying (t : Trk) : List (Nat × Nat) :=
  t.held.ents.flatMap (fun e => ((List.range 64).filter (wbit e.2.fired ·)).map (fun k => (e.1, e.2.count + k)))

/-- The record of every point in flight of a band has been withdrawn, so that none runs or is parked. A body may have left another
value in a3 (R395), so the records are counted (DEDUCED, log entry 45). -/
def Trk.allWithdrawn (t : Trk) : Bool := decide (t.flying.length ≤ t.withdrawn.length)

/-- Points with the records whose A3 is their index, and the points and records that are left. -/
def matchPoints : List (Nat × Nat) → List LightRec → List ((Nat × Nat) × LightRec) × List (Nat × Nat) × List LightRec
  | [], rs => ([], [], rs)
  | q :: qs, rs =>
    match rs.find? (fun r => pointOf r == q) with
    | some r =>
      let (m, ps, x) := matchPoints qs (rs.erase r)
      ((q, r) :: m, ps, x)
    | none =>
      let (m, ps, x) := matchPoints qs rs
      (m, q :: ps, x)

/-- The saved points of a band: each point in flight with a withdrawn record, its own where A3 tells it (R406, R407; DEDUCED, log
entry 45). -/
def Trk.savedPoints (t : Trk) : List ((Nat × Nat) × LightRec) :=
  let (m, ps, x) := matchPoints t.flying t.withdrawn
  m ++ ps.zip x

/-! ### Withdrawal (R404) -/

/-- Records that satisfy a test and that no arrival unit has accepted leave hold buffers, engine holds and the way to a core;
their senders are answered as if they had been taken. -/
def State.pullSent (s : State) (p : RecSource → LightRec → Bool) : State × List LightRec :=
  let (s, l) := (s.clusters.ents.map (·.1)).foldl (fun (x : State × List (RecSource × LightRec)) k =>
    let c := x.1.cluster k
    let a := (c.held.filter (fun h => p h.2.1 h.2.2)).map (·.2)
    let b := c.hold.filterMap (fun h => match h with
      | .record _ src r => if p src r then some (src, r) else none
      | _ => none)
    (x.1.modCluster k (fun c => { c with
      held := c.held.filter (fun h => !p h.2.1 h.2.2)
      hold := c.hold.filter (fun h => match h with
        | .record _ src r => !p src r
        | _ => true) }), x.2 ++ a ++ b)) (s, [])
  let l := l ++ (s.recs.filter (fun x => p x.2.1 x.2.2)).map (·.2)
  let s := { s with recs := s.recs.filter (fun x => !p x.2.1 x.2.2) }
  (l.foldl (fun s x => s.answer x.1 x.2 true) s, l.map (·.2))

/-- Records that satisfy a test leave every place where no slot has taken them: arrival queues, spill rings and the places
before them. -/
def State.pullAll (s : State) (p : LightRec → Bool) : State × List LightRec :=
  let (s, l) := (s.cores.ents.map (·.1)).foldl (fun (x : State × List LightRec) g =>
    let (s, l) := x.1.pullRecords g p
    (s, x.2 ++ l)) (s, [])
  let (s, m) := s.pullSent (fun _ => p)
  (s, l ++ m)

/-- The records of a frontier launch that no slot has taken are withdrawn to the trackers of their bands. -/
def State.fntPull (s : State) (t : Trk) : State :=
  let (s, l) := s.pullAll (fun r => match s.bandOf r with
    | some b => t.bands.contains b
    | none => false)
  l.foldl (fun s r => match s.bandOf r with
    | some (c, e) => s.withdraw c e r
    | none => s) s

/-- They are withdrawn and discarded: their weight returns to the collector. -/
def State.fntDiscard (s : State) (t : Trk) : State :=
  let (s, l) := s.pullAll (fun r => match s.bandOf r with
    | some b => t.bands.contains b
    | none => false)
  l.foldl (fun s r => s.giveBack r.lslot r.weight) s

/-! ### Ends (R402, R403) -/

/-- The frontier launch ends: its entries keep the outcome, and return what they hold. -/
def State.fntClose (s : State) (t : Trk) (st : FntSt) (reason : Nat) : State :=
  t.bands.foldl (fun s b =>
    let x := s.trk b.1 b.2
    (s.giveBack x.launch x.weight).modTrk b.1 b.2 (fun x => { x with
      st := st, reason := reason, weight := 0, ended := true, held := Tab.empty, ghost := Tab.empty, outbox := [], inbox := [],
      withdrawn := [] })) s

/-- It ends with its signal written first. -/
def fntEnd (t : Trk) (st : FntSt) (reason : Nat) (f : Nat → Nat) : EM Unit := do
  let _ ← signalE (t.eng t.first.1) t.sig t.launch f
  modify (fun s => s.fntClose t st reason)

/-- Counts of one band written to the array. -/
def writeCounts (e : Eng) (t : Trk) : List (Nat × Nat) → EM Unit
  | [] => return ()
  | (l, n) :: rest => do
    writeCount e t l n
    writeCounts e t rest

/-- The new counts of boundary lines that bands have still to write (R398). -/
def writeOutboxes : List (Nat × Nat) → EM Unit
  | [] => return ()
  | b :: bs => do
    let x := (← get).trk b.1 b.2
    writeCounts (x.eng b.1) x x.outbox
    writeOutboxes bs

/-- It is cancelled, or fails (R403). Counts that advanced before a cancel are in the array. -/
def fntKill (t : Trk) (st : FntSt) (reason : Nat) : EM Unit := do
  if st = .cancelled then tryCatch (writeOutboxes t.bands) (fun _ => return ()) else pure ()
  modify (fun s => s.fntDiscard t)
  fntEnd t st reason orSignal

/-- It fails, and its launch with it: cause 9 (R403; spec/14_kernel.md R379). The record names the poisoned block, if any
(spec/06_page.md R167). -/
def fntFail (t : Trk) (reason : Nat) (b : Option Nat) : EM Unit := do
  fntKill t .failed reason
  modify (fun s => (s.error { kind := 6, asid := t.ident.asid, cl := t.first.1, launch := t.launch, info := reason
                              addr := (b.map paOf).getD 0, inj := (b.map s.injected.contains).getD false }).failLaunch t.launch 9)

/-- Reason of R412 for a failed array access. -/
def EngFail.fnt : EngFail → Nat
  | .poison _ => 2
  | _ => 1

/-- The last point is complete: the counts still to be written are in the array before the signal is (R398, R403). -/
def fntLast (t : Trk) : EM Unit := do
  let r ← tryCatch (do writeOutboxes t.bands; return none) (fun f => if f = .later then throw f else return some f)
  match r with
  | none => fntEnd t .complete 0 decSignal
  | some f => fntFail t f.fnt f.block

/-- A band once one of its points is complete (R396, R398). A point whose record had been withdrawn is complete and no longer
a point to be saved (R407): its record is discarded. -/
def Trk.complete (t : Trk) (l p : Nat) : Trk :=
  let x := (t.held.look l).getD {}
  let y := x.finish (p - x.count)
  { t with held := t.held.put l y
           outbox := if y.count ≠ x.count ∧ t.boundary l then t.outbox ++ [(l, y.count)] else t.outbox
           withdrawn := t.withdrawn.eraseP (fun r => pointOf r == (l, p)) }

/-- The frontier launch of an entry ends where every line has reached the extent. While the array cannot be read to tell, nothing
has changed; an array access that fails takes the frontier launch with it (R403). -/
def fntSettle (t : Trk) : EM Unit := do
  let r : Except EngFail Bool ← tryCatch (do return Except.ok (← fntFull t)) (fun f =>
    if f = EngFail.later then throw f else return Except.error f)
  match r with
  | .ok true => fntLast t
  | .ok false => pure ()
  | .error f => fntFail t f.fnt f.block

/-- A point completed at a tracker, and the frontier launch with it where it was the last. -/
def fntPoint (cl ent l p : Nat) : EM Unit := do
  modify (fun s => s.modTrk cl ent (·.complete l p))
  fntSettle ((← get).trk cl ent)

/-! ### Events -/

/-- An engine's step as an event: it does not happen while an access cannot be served or fails. -/
def stepE (m : EM Unit) (s : State) : Option State :=
  match m s with
  | .ok _ s => some s
  | .error _ _ => none

/-- FRONTIER_FIRE: a band's tracker fires its lowest ready point. -/
def execFrontierFire (cl ent : Nat) (s : State) : Out :=
  event (fun s =>
    match fireBand cl ent s with
    | .ok true s => some s
    | _ => none) s

/-- The oldest count to be written and sent by a tracker: it is written, and then sent to the next band (R398). -/
def sendBoundary (cl ent : Nat) : EM Bool := do
  let t := (← get).trk cl ent
  match t.outbox with
  | [] => return false
  | (l, n) :: rest =>
    writeCount (t.eng cl) t l n
    modify (fun s =>
      let s := s.modTrk cl ent (fun t => { t with outbox := rest })
      match t.bands[t.band + 1]? with
      | some (c, e) => s.modTrk c e (fun x => { x with inbox := x.inbox ++ [(l, n)] })
      | none => s)
    return true

/-- BOUNDARY_COUNT_SEND: a tracker writes the new count of a boundary line to the array and sends it on. -/
def execBoundaryCountSend (cl ent : Nat) (s : State) : Out :=
  event (fun s =>
    match sendBoundary cl ent s with
    | .ok true s => some s
    | _ => none) s

/-- A message taken: a ghost copy is raised, never lowered. A tracker without room for another reads the array instead. -/
def Trk.takeMessage (t : Trk) (l n : Nat) : Trk :=
  match t.ghost.look l with
  | some m => { t with ghost := t.ghost.put l (max m n) }
  | none =>
    if t.held.ents.length + t.ghost.ents.length < trkLines then { t with ghost := t.ghost.put l n } else t

/-- FRONTIER_MESSAGE: the oldest message on its way to an entry reaches it. -/
def execFrontierMessage (cl ent : Nat) (s : State) : Out :=
  event (fun s =>
    match (s.trk cl ent).inbox with
    | [] => none
    | (l, n) :: rest => some (s.modTrk cl ent (fun t => { t with inbox := rest }.takeMessage l n))) s

/-- FRONTIER_STOPPED: no point of a Stopping frontier launch runs or is parked; every point in flight has been withdrawn,
and every count that advanced is written and sent. -/
def execFrontierStopped (cl ent : Nat) (s : State) : Out :=
  event (fun s =>
    let t := s.trk cl ent
    if t.ended ∨ t.first ≠ (cl, ent) ∨ t.st ≠ .stopping
        ∨ t.bands.any (fun b => !(s.trk b.1 b.2).allWithdrawn || !(s.trk b.1 b.2).outbox.isEmpty) then none
    else some (s.modTrk cl ent (fun t => { t with st := .stopped }))) s

/-- FRONTIER_ARRAY_FAULT: an array access of a tracker fails, and the frontier launch with it. -/
def execFrontierArrayFault (cl ent : Nat) (s : State) : Out :=
  event (fun s =>
    let t := s.trk cl ent
    if t.ended ∨ t.gen = 0 then none
    else
      match (do let a ← fireBand cl ent; let b ← sendBoundary cl ent; return a || b : EM Bool) s with
      | .ok _ _ => none
      | .error .later _ => none
      | .error f u => stepE (fntFail t f.fnt f.block) (s.keepErrs u)) s

/-! ### The record (R406) -/

/-- The body of a record: run pairs, window bitmaps, points. -/
structure FntBody where
  runs : List (Nat × Nat) := []
  wins : List (Nat × Nat) := []
  pts  : List (Nat × Nat × LightRec) := []
  resv : Bool := false                -- a reserved byte is not zero
deriving DecidableEq, Repr

/-- Bytes of a body. -/
def FntBody.bytes (b : FntBody) : List Byte :=
  b.runs.flatMap (fun r => leBytes 4 r.1 ++ leBytes 4 r.2)
    ++ b.wins.flatMap (fun w => leBytes 4 w.1 ++ leBytes 4 0 ++ leBytes 8 w.2)
    ++ b.pts.flatMap (fun p => leBytes 4 p.1 ++ leBytes 4 p.2.1 ++ leBytes 8 0 ++ recBytes { p.2.2 with weight := 0 })

/-- Bytes of a header. -/
def FntBody.header (b : FntBody) (ndim lines : Nat) : List Byte :=
  leBytes 4 0x4B5A464E ++ leBytes 2 1 ++ leBytes 1 ndim ++ leBytes 1 0 ++ leBytes 8 lines ++ leBytes 4 b.runs.length
    ++ leBytes 4 b.wins.length ++ leBytes 4 b.pts.length ++ leBytes 4 0

/-- Length of a record by its counts. -/
def fntLen (nrun nwin npt : Nat) : Nat := 32 + 8 * nrun + 16 * nwin + 80 * npt

/-- The body that bytes hold. -/
def fntBody (nrun nwin npt : Nat) (bs : List Byte) : FntBody :=
  let w := bs.drop (8 * nrun)
  let p := w.drop (16 * nwin)
  { runs := (List.range nrun).map (fun i => (numAt bs (8 * i) 4, numAt bs (8 * i + 4) 4))
    wins := (List.range nwin).map (fun i => (numAt w (16 * i) 4, numAt w (16 * i + 8) 8))
    pts := (List.range npt).map (fun i => (numAt p (80 * i) 4, numAt p (80 * i + 4) 4, lightOf ((p.drop (80 * i + 16)).take 64)))
    resv := (List.range nwin).any (fun i => numAt w (16 * i + 4) 4 != 0) || (List.range npt).any (fun i => numAt p (80 * i + 8) 8 != 0) }

/-- The count of a line by the runs of a body. -/
def countIn : List (Nat × Nat) → Nat → Nat
  | [], _ => 0
  | (c, n) :: r, l => if l < n then c else countIn r (l - n)
/-- The window of a line by the bitmaps of a body. -/
def FntBody.win (b : FntBody) (l : Nat) : Nat := ((b.wins.find? (fun w => w.1 == l)).map (·.2)).getD 0
/-- The count of a line by a body. -/
def FntBody.count (b : FntBody) (l : Nat) : Nat := countIn b.runs l

/-- Adjacent runs differ in COUNT, unless the first is full. -/
def runsOk : List (Nat × Nat) → Bool
  | (c, n) :: (d, m) :: r => (c != d || n == 2 ^ 32 - 1) && runsOk ((d, m) :: r)
  | _ => true

/-- A list rises strictly. -/
def rising : List Nat → Bool
  | a :: b :: r => decide (a < b) && rising (b :: r)
  | _ => true

/-- Every predecessor of a point is complete by the counts of a body. -/
def FntBody.ready (b : FntBody) (d : FntDesc) (p : List Nat) : Bool :=
  (d.vecs.take d.nvec).all (fun v =>
    match predOf d.ndim d.ext p v with
    | none => true
    | some q => let x := lineOf d.ndim d.ext q; decide (x.2 < b.count x.1))

/-- The lines of a band of a descriptor. -/
def FntDesc.bandLines (d : FntDesc) (b : Nat × Nat × Nat) : Nat × Nat :=
  if d.ndim = 3 then (b.2.1 * nth d.ext 1 0, b.2.2 * nth d.ext 1 0) else (b.2.1, b.2.2)

/-- The body passes every check of reason 8. -/
def FntBody.ok (b : FntBody) (d : FntDesc) : Bool :=
  !b.resv
  && b.runs.all (fun r => decide (1 ≤ r.2) && decide (r.1 ≤ d.last)) && (b.runs.foldl (fun n r => n + r.2) 0) == d.lines && runsOk b.runs
  && rising (b.wins.map (·.1))
  && b.wins.all (fun w => decide (w.1 < d.lines) && w.2 != 0 && !w.2.testBit 0 && decide (b.count w.1 + bitLen w.2 ≤ d.last))
  && rising (b.pts.map (fun p => p.1 * 2 ^ 32 + p.2.1))
  && b.pts.all (fun p =>
      let c := b.count p.1
      decide (p.1 < d.lines) && decide (c ≤ p.2.1) && decide (p.2.1 < c + 64) && decide (p.2.1 < d.last)
        && !(b.win p.1).testBit (p.2.1 - c) && p.2.2.weight == 0 && b.ready d (coordsOf d.ndim d.ext p.1 p.2.1))
  && d.bands.all (fun x =>
      let (lo, hi) := d.bandLines x
      decide (b.pts.countP (fun p => decide (lo ≤ p.1) && decide (p.1 < hi)) ≤ d.infl))

/-- Runs of equal counts; a run never holds more than 2^32 - 1 lines. -/
def runsOf : List Nat → List (Nat × Nat)
  | [] => []
  | c :: cs =>
    match runsOf cs with
    | (d, n) :: r => if c = d ∧ n < 2 ^ 32 - 1 then (d, n + 1) :: r else (c, 1) :: (d, n) :: r
    | [] => [(c, 1)]

/-! ### Acceptance (R388, R397, R402, R409) -/

/-- The lowest free entry of a cluster's tracker: one that no frontier launch holds that has not ended. -/
def State.freeTrk (s : State) (cl : Nat) : Option Nat :=
  (List.range 4).find? (fun e => let t := s.trk cl e; t.gen == 0 || t.ended)

/-- The lowest refusal reason of 1 to 6. -/
def State.fntRefusal (s : State) (d : FntDesc) (h : Option KHeader) (launch : Nat) : Option Nat :=
  if d.shapeBad then some 1
  else if (d.vecs.take d.nvec).any (fun v => !vecOk d.ndim v) then some 2
  else if d.lines ≥ 2 ^ 32 ∨ d.infl = 0 ∨ 256 < d.infl ∨ d.cmask % 2 ^ 40 = 0 ∨ d.array % 4 ≠ 0 ∨ d.sig % 8 ≠ 0 then some 3
  else
    match h with
    | none => some 4
    | some h =>
      if h.kind ≠ 3 ∨ h.ndim ≠ d.ndim ∨ h.vecs ≠ d.vecs.take d.nvec then some 4
      else if launch ≥ 4096 then some 5
      else if d.bands.any (fun b => (s.freeTrk b.1).isNone) then some 6
      else none

/-- Reason 7: the record's header disagrees with the descriptor. -/
def fntHeaderBad (d : FntDesc) (rh : List Byte) : Bool :=
  numAt rh 0 4 != 0x4B5A464E || numAt rh 4 2 != 1 || numAt rh 6 1 != d.ndim || numAt rh 8 8 != d.lines

/-- What the issuing party gives a frontier launch. -/
structure FntParty where
  ident  : Ident
  satp   : Word
  cls    : Option Nat
  launch : Nat
  g      : Nat
  weight : Nat

/-- A line as a body starts it. -/
def FntBody.line (b : FntBody) (l : Nat) : Line :=
  let c := b.count l
  { count := c, comp := w64 (b.win l)
    fired := b.pts.foldl (fun w p => if p.1 = l then wputb w (p.2.1 - c) true else w) 0#64 }

/-- The entries of the bands taken (R401, R402); every band but band 0 borrows 2^32. -/
def State.takeBands (s : State) (d : FntDesc) (h : KHeader) (b : FntBody) (p : FntParty) (bands : List (Nat × Nat)) : State :=
  (d.bands.zipIdx).foldl (fun s x =>
    let ((cl, lo, hi), i) := x
    let (_, ent) := nth bands i (0, 0)
    let s := if i = 0 then s else s.engBorrow p.launch
    let (l0, l1) := d.bandLines (cl, lo, hi)
    let lines := ((b.wins.map (·.1) ++ b.pts.map (·.1)).filter (fun l => decide (l0 ≤ l) && decide (l < l1))).eraseDups
    s.modTrk cl ent (fun t =>
      { gen := t.gen + 1, st := .running, band := i, bands := bands, ndim := d.ndim, infl := d.infl, ext := d.ext,
        vecs := d.vecs.take d.nvec, array := d.array, sig := d.sig, entry := h.entry, ident := p.ident, satp := p.satp,
        cls := p.cls, launch := p.launch, g := p.g, weight := if i = 0 then p.weight else 2 ^ 32, lo := lo, hi := hi,
        held := lines.foldl (fun t l => t.put l (b.line l)) Tab.empty })) s

/-- Counts of the lines of a band as the array gets them (R391). -/
def FntBody.counts (b : FntBody) (lo hi : Nat) : List Byte := (List.range (hi - lo)).flatMap (fun i => leBytes 4 (b.count (lo + i)))

/-- The array entries of every band written. -/
def writeArrays (d : FntDesc) (b : FntBody) (s0 : State) : List (Nat × Nat) → EM Unit
  | [] => return ()
  | (cl, ent) :: r => do
    let t := s0.trk cl ent
    if t.lineEnd ≤ t.line0 then pure ()
    else writeE (t.eng cl) (uint ((t.array + 4 * t.line0 : Nat) : Int) 64) (b.counts t.line0 t.lineEnd)
    writeArrays d b s0 r

/-- The saved points of a body sent, each by its band's tracker (R409). -/
def State.sendSaved (s : State) (b : FntBody) (t : Trk) : State :=
  b.pts.foldl (fun s p =>
    match t.bands.find? (fun x => (s.trk x.1 x.2).owns p.1) with
    | none => s
    | some (cl, ent) =>
      let x := s.trk cl ent
      s.trkSend cl ent { p.2.2 with lslot := x.launch % 4096, weight := 1, a := setNth p.2.2.a 5 (w64 (x.handle cl ent)) }) s

/-- A frontier launch accepted: the handle of band 0's entry. A failing array write fails it at once. -/
def fntAccept (d : FntDesc) (h : KHeader) (b : FntBody) (p : FntParty) : EM Nat := do
  let s ← get
  let bands := d.bands.map (fun x => (x.1, (s.freeTrk x.1).getD 0))
  modify (fun s => s.takeBands d h b p bands)
  let s1 ← get
  let (c, e) := bands.headD (0, 0)
  let t := s1.trk c e
  modify (fun s => s.discardImage (t.eng c) d.clusters h.imgLo h.imgLen)
  let w ← (fun s => match writeArrays d b s1 bands s with
    | .ok _ s => .ok none s
    | .error .later s => .error .later s
    | .error f s => .ok (some f) s : EM (Option EngFail))
  match w with
  | some f => fntFail t f.fnt f.block
  | none =>
    modify (fun s => s.sendSaved b t)
    if (d.ext.take d.ndim).any (· == 0) then fntEnd t .complete 0 decSignal
    else fntSettle t
  return t.handle c e

/-! ### fnt.launch, fnt.load (R409) -/

/-- Steps of an engine within an instruction; nothing has changed while one cannot be served. -/
def runE {α : Type} (m : EM α) : M (Except EngFail α) := fun s =>
  match m s with
  | .ok a s => .ok (.ok a) s
  | .error .later _ => .error .wait s
  | .error f s => .ok (.error f) s

/-- A completion signal probed as a store (spec/13_task.md R361). -/
def probeSig (sig : Nat) : M Unit :=
  if sig ≠ 0 ∧ sig % 8 = 0 then do
    let _ ← translate .store (w64 sig) (w64 sig) 8
  else pure ()

/-- A refusal: 2^63 + reason. -/
def refusal (d : BitVec 5) (r : Nat) : M Unit := setX d (w64 (2 ^ 63 + r))

/-- fnt.launch and fnt.load; q is the address of a record to load. -/
def fntStart (a d : BitVec 5) (q : Option (BitVec 5)) : M Unit := do
  let va ← getX a
  orTrap (va.toNat % 64 = 0) 4 va
  waitVecMem
  let bs ← loadBytes va 64
  let dsc := fntDesc bs
  let hb ← loadBytes (w64 dsc.khdr) 96
  let rec_ ← match q with
    | none => pure 0#64
    | some r => getX r
  orTrap (rec_.toNat % 8 = 0) 4 rec_
  let rh ← if q.isSome then loadBytes rec_ 32 else pure []
  let c ← ctx
  orTrap (decide (2 ≤ c.uweight.toNat)) 29 c.uweight
  probeSig dsc.sig
  let s ← get
  let hd := headerOf dsc.khdr hb
  match s.fntRefusal dsc hd c.ulaunch.toNat, hd with
  | some r, _ => refusal d r
  | none, none => refusal d 4
  | none, some hd =>
    if q.isSome ∧ fntHeaderBad dsc rh then refusal d 7
    else
      let n := fntLen (numAt rh 0x10 4) (numAt rh 0x14 4) (numAt rh 0x18 4)
      if q.isSome ∧ n > 32 + 24 * dsc.lines + 80 * 256 * dsc.nb then refusal d 8
      else
        let b ← if q.isSome then do
            let bs ← loadBytes rec_ n
            pure (fntBody (numAt rh 0x10 4) (numAt rh 0x14 4) (numAt rh 0x18 4) (bs.drop 32))
          else pure {}
        if q.isSome ∧ !b.ok dsc then refusal d 8
        else
          release 2
          let c ← ctx
          let s ← get
          let w := c.uweight.toNat / 2
          let p : FntParty := { ident := identOf c c.priv s.cur, satp := c.satp, cls := none, launch := wfld c.ulaunch 15 0,
                                g := s.cur.gcore, weight := w }
          match ← runE (fntAccept dsc hd b p) with
          | .ok h => modCtx (fun c => { c with uweight := c.uweight - w64 w }.setX d.toNat (w64 h))
          | .error _ => wait

/-- FNT_LAUNCH. -/
def execFntLaunch (a d : BitVec 5) (s : State) : Out := runThread (fntStart a d none) s
/-- FNT_LOAD. -/
def execFntLoad (b a d : BitVec 5) (s : State) : Out := runThread (fntStart a d (some b)) s

/-! ### Handles (R401) -/

/-- The entry that a handle names for a thread of an address space; none where the handle is gone. -/
def State.fntOf (s : State) (asid : Nat) (h : Word) : Option (Nat × Nat) :=
  match fntHandle h.toNat with
  | none => none
  | some (c, e, gen) =>
    let t := s.trk c e
    if t.gen ≠ 0 ∧ t.gen % 2 ^ 32 = gen ∧ t.ident.asid = asid then some (c, e) else none

/-- FNT_DONE (R410). -/
def execFntDone (b a : BitVec 5) (s : State) : Out :=
  runThread (do
    let h ← getX a
    let k ← getX b
    waitVecMem
    release 2
    let c ← ctx
    let s ← get
    match s.fntOf c.asid h with
    | none => trap 28 h
    | some (cl, ent) =>
      let t := s.trk cl ent
      orTrap (t.launch == wfld c.ulaunch 15 0) 28 h
      if t.ended then pure ()
      else
        let l := wfld k 63 32
        let p := wfld k 31 0
        let fly := match t.held.look l with
          | some x => x.inFlight p
          | none => false
        orTrap (t.owns l && fly) 28 h
        match ← runE (fntPoint cl ent l p) with
        | .ok _ => pure ()
        | .error _ => wait) s

/-! ### fnt.save (R411) -/

/-- The body of the record of a Stopped frontier launch: counts from the trackers and the array, windows, and the withdrawn
points in ascending point index. -/
def saveLines (e : Eng) (t : Trk) : Nat → Nat → EM (List Nat)
  | 0, _ => return []
  | n + 1, l => do
    let c ← lineCount e t l
    let r ← saveLines e t n (l + 1)
    return c :: r

/-- Counts of every line, band by band. -/
def saveCounts (s : State) : List (Nat × Nat) → EM (List Nat)
  | [] => return []
  | (cl, ent) :: r => do
    let t := s.trk cl ent
    let a ← saveLines (t.eng cl) t (t.lineEnd - t.line0) t.line0
    let b ← saveCounts s r
    return a ++ b

/-- An element put into a list kept in rising order of a key. -/
def insertBy {α : Type} (k : α → Nat) (x : α) : List α → List α
  | [] => [x]
  | y :: ys => if k x ≤ k y then x :: y :: ys else y :: insertBy k x ys

/-- A list in rising order of a key. -/
def sortBy {α : Type} (k : α → Nat) (l : List α) : List α := l.foldr (insertBy k) []

/-- The body of a record. -/
def saveBody (s : State) (t : Trk) : EM FntBody := do
  let cs ← saveCounts s t.bands
  let wins := t.bands.flatMap (fun b => (s.trk b.1 b.2).held.ents.filterMap (fun e =>
    if e.2.comp = 0#64 then none else some (e.1, e.2.comp.toNat)))
  let pts := t.bands.flatMap (fun b => (s.trk b.1 b.2).savedPoints.map (fun p => (p.1.1, p.1.2, p.2)))
  return { runs := runsOf cs, wins := sortBy (·.1) wins, pts := sortBy (fun p => p.1 * 2 ^ 32 + p.2.1) pts }

/-- The translations of a run of stores, up to the first that traps; that trap names the store's own address. -/
def translateRun : List (Word × Nat) → M (List (Target × Word × Nat) × Option Exit)
  | [] => return ([], none)
  | (va, n) :: r => do
    let x : Except Exit Target ← tryCatch (do return Except.ok (← translate .store va va n))
      (fun e => match e with
        | .wait => throw Exit.wait
        | e => return Except.error e)
    match x with
    | .error e => return ([], some e)
    | .ok t =>
      let (ts, e) ← translateRun r
      return ((t, va, n) :: ts, e)

/-- A run of stores in the order given: the bytes of those before a faulting one stay written (R411). -/
def storeEach (ps : List (Word × Nat)) (bs : List Byte) : M Unit := do
  let (ts, e) ← translateRun ps
  stallParts true ts
  storeParts ts bs
  match e with
  | some e => throw e
  | none => pure ()

/-- FNT_SAVE: the body, then the header. The mark says that its stores are under way. -/
def execFntSave (b a d : BitVec 5) (s : State) : Out :=
  runThread (do
    let h ← getX a
    let va ← getX b
    orTrap (va.toNat % 8 = 0) 4 va
    waitVecMem
    let c ← ctx
    let s ← get
    match s.fntOf c.asid h with
    | none => refusal d 3
    | some (cl, ent) =>
      let t := s.trk cl ent
      let b0 := t.first
      match s.fntState t with
      | .complete => refusal d 1
      | .failed | .cancelled | .saved => refusal d 2
      | .running =>
        upd (fun s => (s.modTrk b0.1 b0.2 (fun t => { t with st := .stopping })).fntPull t)
        wait
      | .stopping | .absent => wait
      | .stopped =>
        match ← runE (saveBody s t) with
        | .error f =>
          match ← runE (fntFail t f.fnt f.block) with
          | .ok _ => refusal d 2
          | .error _ => wait
        | .ok body =>
          let hdr := body.header t.ndim (spaceLines t.ndim t.ext)
          let bs := body.bytes
          if (← waitKind) = some WaitKind.posted then pure ()
          else
            storeEach (pageParts (va + 32#64) bs.length ++ pageParts va 32) (bs ++ hdr)
            setWait (some { kind := .posted })
          release 2
          upd (fun s => s.fntClose t .saved 0)
          acquire
          setX d (w64 (32 + bs.length))) s

/-! ### fnt.query, fnt.wait, fnt.cancel (R412, R413) -/

/-- Code of a state (R412). -/
def FntSt.code : FntSt → Nat
  | .running => 0 | .stopping => 1 | .stopped => 2 | .saved => 3 | .complete => 4 | .failed => 5 | .cancelled => 6 | .absent => 7

/-- The state word of an entry. -/
def State.fntWord (s : State) (t : Trk) : Word :=
  let r := if t.ended then t.reason else 0
  w64 ((if t.ended then 0 else s.fntInFlight t) % 2 ^ 16 * 2 ^ 24 + r * 2 ^ 16 + (s.fntState t).code)

/-- The report of a state; Complete and Saved acquire. -/
def fntReport (d : BitVec 5) (h : Word) : M Unit := do
  let s ← get
  match s.fntOf (← ctx).asid h with
  | none => setX d 7#64
  | some (cl, ent) =>
    let t := s.trk cl ent
    if s.fntState t = .complete ∨ s.fntState t = .saved then acquire else pure ()
    setX d (s.fntWord t)

/-- FNT_QUERY. -/
def execFntQuery (a d : BitVec 5) (s : State) : Out := runThread (do fntReport d (← getX a)) s

/-- FNT_WAIT. -/
def execFntWait (a d : BitVec 5) (s : State) : Out :=
  runThread (do
    let h ← getX a
    let s ← get
    match s.fntOf (← ctx).asid h with
    | none => fntReport d h
    | some (cl, ent) =>
      let st := s.fntState (s.trk cl ent)
      waitUnless (st != .running && st != .stopping)
      fntReport d h) s

/-- FNT_CANCEL. -/
def execFntCancel (a d : BitVec 5) (s : State) : Out :=
  runThread (do
    let h ← getX a
    let s ← get
    match s.fntOf (← ctx).asid h with
    | none => setX d 3#64
    | some (cl, ent) =>
      let t := s.trk cl ent
      match s.fntState t with
      | .complete | .saved => setX d 1#64
      | .failed | .cancelled => setX d 2#64
      | _ =>
        match ← runE (fntKill t .cancelled 3) with
        | .ok _ => setX d 0#64
        | .error _ => wait) s

end Sys2Proof.Machine
end

