-- ==== Sys2Proof/Machine/BeamGeo.lean ====
section
/-! DEFINITION. The geometry of beams: directions of rays, intervals of pieces, classification of boxes, the triangle test
(spec/16_beam.md R416 to R422, R427). Every value is a binary32 bit pattern, every operation rounds once. -/

namespace Sys2Proof.Machine

open Sys2Proof

/-! ### binary32 with a rounding: 0 nearest even, 2 down, 3 up -/

def f32add (rm a b : Nat) : Nat := (binary32.add rm a b).1
def f32sub (rm a b : Nat) : Nat := (binary32.sub rm a b).1
def f32mul (rm a b : Nat) : Nat := (binary32.mul rm a b).1
def f32div (rm a b : Nat) : Nat := (binary32.div rm a b).1
def f32sqrt (rm a : Nat) : Nat := (binary32.sqrt rm a).1
/-- Comparisons; every comparison with a NaN is false (R420). -/
def f32lt (a b : Nat) : Bool := (binary32.cmp .lt a b).1
def f32le (a b : Nat) : Bool := (binary32.cmp .le a b).1
/-- The magnitude. -/
def f32abs (a : Nat) : Nat := a % 2 ^ 31
/-- The negated value. -/
def f32neg (a : Nat) : Nat := if a.testBit 31 then a - 2 ^ 31 else a + 2 ^ 31
/-- A NaN; a finite value. -/
def f32nan (a : Nat) : Bool := decide (binary32.inf < f32abs a)
def f32fin (a : Nat) : Bool := decide (f32abs a < binary32.inf)
/-- The greater and the lesser of two values; the first where they do not compare. -/
def f32max (a b : Nat) : Nat := if f32lt a b then b else a
def f32min (a b : Nat) : Nat := if f32lt b a then b else a
/-- The value of an integer times a power of two. -/
def f32of (i : Int) (e : Int) : Nat := (binary32.enc 0 (FV.ofInt i e)).1
/-- 1. -/
def f32one : Nat := 0x3F800000

/-- Three coordinates at an offset. -/
def vec3 (bs : List Byte) (off : Nat) : List Nat := (List.range 3).map (fun k => numAt bs (off + 4 * k) 4)
/-- A component. -/
def comp (v : List Nat) (k : Nat) : Nat := nth v k 0
/-- Three components by their axis. -/
def axes (f : Nat → Nat) : List Nat := [f 0, f 1, f 2]

/-- Differences, dot and cross products rounded at every step (R420). -/
def sub3 (a b : List Nat) : List Nat := axes (fun k => f32sub 0 (comp a k) (comp b k))
def sum3 (rm : Nat) (x y z : Nat) : Nat := f32add rm (f32add rm x y) z
def dot3 (a b : List Nat) : Nat :=
  sum3 0 (f32mul 0 (comp a 0) (comp b 0)) (f32mul 0 (comp a 1) (comp b 1)) (f32mul 0 (comp a 2) (comp b 2))
def cross3 (a b : List Nat) : List Nat :=
  axes (fun k =>
    let i := (k + 1) % 3
    let j := (k + 2) % 3
    f32sub 0 (f32mul 0 (comp a i) (comp b j)) (f32mul 0 (comp a j) (comp b i)))
/-- A vector divided by its length. -/
def unit3 (a : List Nat) : List Nat :=
  let n := f32sqrt 0 (dot3 a a)
  axes (fun k => f32div 0 (comp a k) n)

/-! ### Frusta (R416, R417, R426) -/

/-- Width and height of a frustum. -/
def frustW (beam : List Byte) : Nat := fld (numAt beam 0 4) 5 0 + 1
def frustH (beam : List Byte) : Nat := fld (numAt beam 0 4) 13 8 + 1

/-- The direction of ray (i, j) of a frustum (R417). -/
def rayDir (beam : List Byte) (i j : Nat) : List Nat :=
  let s := f32div 0 (f32of (2 * i + 1) (-1)) (f32of (frustW beam) 0)
  let t := f32div 0 (f32of (2 * j + 1) (-1)) (f32of (frustH beam) 0)
  let c (q k : Nat) : Nat := comp (vec3 beam (0x10 + 12 * q)) k
  let mix (s a b : Nat) : Nat := f32add 0 a (f32mul 0 s (f32sub 0 b a))
  axes (fun k => mix t (mix s (c 0 k) (c 1 k)) (mix s (c 2 k) (c 3 k)))

/-- A rectangle of rays, and SUB of R429 for it. -/
structure Rect where
  i0 : Nat
  j0 : Nat
  w  : Nat
  h  : Nat
deriving DecidableEq, Repr, Inhabited

/-- The rectangle that SUB holds. -/
def rectOf (sub : Nat) : Rect := ⟨fld sub 5 0, fld sub 11 6, fld sub 17 12 + 1, fld sub 23 18 + 1⟩
/-- SUB of a rectangle. -/
def Rect.sub (r : Rect) : Nat := r.i0 + r.j0 * 2 ^ 6 + (r.w - 1) * 2 ^ 12 + (r.h - 1) * 2 ^ 18
/-- The quadrants of a rectangle, in order, without empty ones (R426). -/
def Rect.quads (r : Rect) : List Rect :=
  let wa := (r.w + 1) / 2
  let ha := (r.h + 1) / 2
  [⟨r.i0, r.j0, wa, ha⟩, ⟨r.i0 + wa, r.j0, r.w - wa, ha⟩, ⟨r.i0, r.j0 + ha, wa, r.h - ha⟩,
   ⟨r.i0 + wa, r.j0 + ha, r.w - wa, r.h - ha⟩].filter (fun q => q.w != 0 && q.h != 0)
/-- The rays of a rectangle. -/
def Rect.rays (r : Rect) : List (Nat × Nat) :=
  (List.range r.h).flatMap (fun j => (List.range r.w).map (fun i => (r.i0 + i, r.j0 + j)))

/-! ### Pieces (R421) -/

/-- A beam piece as boxes are classified against it. -/
structure BeamPiece where
  apex    : List Nat
  dlo     : List Nat
  dhi     : List Nat
  corners : List (List Nat)
  single  : Bool
deriving DecidableEq, Repr, Inhabited

/-- A single ray. -/
def onePiece (apex d : List Nat) : BeamPiece := { apex := apex, dlo := d, dhi := d, corners := [d], single := true }

/-- A rectangle of a frustum. -/
def frustPiece (beam : List Byte) (r : Rect) : BeamPiece :=
  let apex := vec3 beam 4
  if r.w = 1 ∧ r.h = 1 then onePiece apex (rayDir beam r.i0 r.j0)
  else
    let cs := [rayDir beam r.i0 r.j0, rayDir beam (r.i0 + r.w - 1) r.j0, rayDir beam r.i0 (r.j0 + r.h - 1),
               rayDir beam (r.i0 + r.w - 1) (r.j0 + r.h - 1)]
    let m := ((List.range 4).flatMap (fun q => vec3 beam (0x10 + 12 * q))).foldl (fun m c => f32max m (f32abs c)) 0
    let e := f32mul 3 0x36800000 m
    let lo (k : Nat) : Nat := cs.foldl (fun a c => f32min a (comp c k)) (comp (cs.headD []) k)
    let hi (k : Nat) : Nat := cs.foldl (fun a c => f32max a (comp c k)) (comp (cs.headD []) k)
    { apex := apex, corners := cs, single := false
      dlo := axes (fun k => f32sub 2 (lo k) e), dhi := axes (fun k => f32add 3 (hi k) e) }

/-- The directions p and q across a cone's axis. -/
def coneCross (u : List Nat) : List Nat × List Nat :=
  let a (k : Nat) : Nat := f32abs (comp u k)
  let raw :=
    if f32le (a 0) (a 1) ∧ f32le (a 0) (a 2) then [0, f32neg (comp u 2), comp u 1]
    else if f32le (a 1) (a 2) then [comp u 2, 0, f32neg (comp u 0)]
    else [f32neg (comp u 1), comp u 0, 0]
  let p := unit3 raw
  (p, cross3 u p)

/-- u + sp*t*p + sq*t*q, each operation rounded; the signs are given as "is negative". -/
def coneDir (u p q : List Nat) (t : Nat) (np nq : Bool) : List Nat :=
  let add (neg : Bool) (x v : Nat) : Nat := let y := f32mul 0 t v; if neg then f32sub 0 x y else f32add 0 x y
  axes (fun k => add nq (add np (comp u k) (comp p k)) (comp q k))

/-- The four sign pairs in the order (+,+), (-,+), (+,-), (-,-). -/
def signPairs : List (Bool × Bool) := [(false, false), (true, false), (false, true), (true, true)]

/-- A cone (R421). -/
def conePiece (beam : List Byte) : BeamPiece :=
  let u := vec3 beam 0x0C
  let t := f32mul 3 (numAt beam 0x18 4) (f32of (2 ^ 16 + 1) (-16))
  let (p, q) := coneCross u
  { apex := vec3 beam 0, single := false, corners := signPairs.map (fun s => coneDir u p q t s.1 s.2)
    dlo := axes (fun k => f32sub 2 (comp u k) t), dhi := axes (fun k => f32add 3 (comp u k) t) }

/-- The four sub-cones of a cone record (R427). -/
def coneSplit (beam : List Byte) : List (List Byte) :=
  let u := vec3 beam 0x0C
  let t := numAt beam 0x18 4
  let (p, q) := coneCross u
  let half := f32mul 0 t (f32of 1 (-1))
  let tan := f32mul 3 (f32of 3 (-2)) t
  signPairs.map (fun s =>
    beam.take 12 ++ (unit3 (coneDir u p q half s.1 s.2)).flatMap (leBytes 4) ++ leBytes 4 tan ++ (beam.drop 0x1C).take 4
      ++ List.replicate 32 0#8)

/-! ### Classification (R422) -/

/-- The classes of a box. -/
inductive BoxClass where
  | miss | hit | straddle
deriving DecidableEq, Repr, Inhabited

/-- The slab test of one axis: the interval narrowed, or a miss. -/
def slabAxis (b : BeamPiece) (lo hi : List Nat) (k : Nat) (t : Nat × Nat) : Option (Nat × Nat) :=
  let nl := f32sub 2 (comp lo k) (comp b.apex k)
  let nu := f32sub 3 (comp hi k) (comp b.apex k)
  let dh := comp b.dhi k
  let dl := comp b.dlo k
  let t1 :=
    if f32lt 0 dh then some (f32max t.1 (f32div 2 nl dh), t.2)
    else if f32lt dh 0 then some (t.1, f32min t.2 (f32div 3 nl dh))
    else if f32lt 0 nl then none else some t
  t1.bind (fun t =>
    if f32lt 0 dl then some (t.1, f32min t.2 (f32div 3 nu dl))
    else if f32lt dl 0 then some (f32max t.1 (f32div 2 nu dl), t.2)
    else if f32lt nu 0 then none else some t)

/-- A corner ray is proved to hit: the upper ends of its entries, the lower ends of its exits. -/
def provehit (a lo hi c : List Nat) (tmin tmax : Nat) : Bool :=
  let axis (k : Nat) : Option (Nat × Nat) :=
    let d := comp c k
    if f32abs d = 0 then
      (if f32lt (comp lo k) (comp a k) ∧ f32lt (comp a k) (comp hi k) then some (tmin, tmax) else none)
    else
      let near := if f32lt 0 d then f32sub 3 (comp lo k) (comp a k) else f32sub 2 (comp hi k) (comp a k)
      let far := if f32lt 0 d then f32sub 2 (comp hi k) (comp a k) else f32sub 3 (comp lo k) (comp a k)
      some (f32div 3 near d, f32div 2 far d)
  match axis 0, axis 1, axis 2 with
  | some x, some y, some z =>
    f32le (f32max tmin (f32max x.1 (f32max y.1 z.1))) (f32min tmax (f32min x.2 (f32min y.2 z.2)))
  | _, _, _ => false

/-- |x - y| rounded up. -/
def absUp (x y : Nat) : Nat := if f32lt x y then f32sub 3 y x else f32sub 3 x y

/-- The square root of a sum of three, all rounded one way. -/
def root3 (rm : Nat) (v : List Nat) : Nat := f32sqrt rm (sum3 rm (comp v 0) (comp v 1) (comp v 2))

/-- Every ray of a piece reaches the box within the range: the last test of R422. -/
def nearFar (b : BeamPiece) (lo hi : List Nat) (tmin tmax : Nat) : Bool :=
  let a := b.apex
  let sq (rm x : Nat) : Nat := f32mul rm x x
  let g (k : Nat) : Nat := f32max 0 (f32max (f32sub 2 (comp lo k) (comp a k)) (f32sub 2 (comp a k) (comp hi k)))
  let h (k : Nat) : Nat := f32max (absUp (comp a k) (comp lo k)) (absUp (comp a k) (comp hi k))
  let mx (k : Nat) : Nat := f32max (sq 3 (comp b.dlo k)) (sq 3 (comp b.dhi k))
  let mn (k : Nat) : Nat :=
    if f32le (comp b.dlo k) 0 ∧ f32le 0 (comp b.dhi k) then 0 else f32min (f32abs (comp b.dlo k)) (f32abs (comp b.dhi k))
  let dn := root3 2 (axes (fun k => sq 2 (g k)))
  let df := root3 3 (axes (fun k => sq 3 (h k)))
  let lmax := root3 3 (axes mx)
  let lmin := root3 2 (axes (fun k => sq 2 (mn k)))
  let far := if f32abs lmin = 0 then binary32.inf else f32div 3 df lmin
  f32le tmin (f32div 2 dn lmax) && f32le far tmax

/-- A child box classified against a piece (R418, R422). -/
def classify (b : BeamPiece) (box : List Byte) (tmin tmax : Nat) : BoxClass :=
  let lo := vec3 box 0
  let hi := vec3 box 12
  let ks := [0, 1, 2]
  if ks.any (fun k => f32nan (comp lo k) || f32nan (comp hi k) || f32lt (comp hi k) (comp lo k)) then .miss
  else
    match ks.foldl (fun t k => t.bind (slabAxis b lo hi k)) (some (tmin, tmax)) with
    | none => .miss
    | some (t0, t1) =>
      if f32lt t1 t0 then .miss
      else if b.single then .hit
      else if ks.all (fun k => f32le (comp lo k) (comp b.apex k) && f32le (comp b.apex k) (comp hi k)) then .straddle
      else if b.corners.any (fun c => !provehit b.apex lo hi c tmin tmax) then .straddle
      else if nearFar b lo hi tmin tmax then .hit
      else .straddle

/-! ### A ray against a triangle (R419, R420) -/

/-- The hit of a ray on a triangle record: t, u, v. -/
def triHit (o d : List Nat) (tri : List Byte) (tmin tmax : Nat) : Option (Nat × Nat × Nat) :=
  let v0 := vec3 tri 0
  let e1 := sub3 (vec3 tri 0x0C) v0
  let e2 := sub3 (vec3 tri 0x18) v0
  let pv := cross3 d e2
  let det := dot3 e1 pv
  if f32abs det = 0 ∨ f32nan det then none
  else
    let inv := f32div 0 f32one det
    let tv := sub3 o v0
    let u := f32mul 0 (dot3 tv pv) inv
    let qv := cross3 tv e1
    let v := f32mul 0 (dot3 d qv) inv
    let t := f32mul 0 (dot3 e2 qv) inv
    if f32le 0 u ∧ f32le 0 v ∧ f32le (f32add 0 u v) f32one ∧ f32le tmin t ∧ f32le t tmax then
      some (if t = 2 ^ 31 then 0 else t, u, v)
    else none

end Sys2Proof.Machine
end

