-- ==== Sys2Proof/Machine/Beam.lean ====
section
/-! DEFINITION. The beam query and the Terrier: the query block, items and their descent, placement and handlers, results,
states, and the bm instructions (spec/16_beam.md R414 to R446). -/

namespace Sys2Proof.Machine

open Sys2Proof

/-! ### The query block (R414, R415) -/

/-- KIND: 0 ray, 1 cone, 2 frustum. -/
def blkKind (b : List Byte) : Nat := fld (numAt b 0x75 1) 1 0
/-- MODE: 0 closest-hit, 1 any-hit, 2 coverage. -/
def blkMode (b : List Byte) : Nat := fld (numAt b 0x75 1) 3 2
/-- The spawn budget; 255 stands for 16. -/
def blkBudget (b : List Byte) : Nat := if numAt b 0x74 1 = 255 then 16 else numAt b 0x74 1
def blkBeam (b : List Byte) : List Byte := b.take 64
def blkTmin (b : List Byte) : Nat := numAt b 0x40 4
def blkTmax (b : List Byte) : Nat := numAt b 0x44 4
def blkRoot (b : List Byte) : Nat := numAt b 0x48 8
def blkResult (b : List Byte) : Nat := numAt b 0x50 8
def blkHpc (b : List Byte) : Nat := numAt b 0x58 8
def blkSplit (b : List Byte) : Nat := numAt b 0x60 8
def blkSpill (b : List Byte) : Nat := numAt b 0x68 8
def blkSig (b : List Byte) : Nat := numAt b 0x78 8

/-! ### Child references (R418) -/

/-- TYPE: 0 empty, 1 node, 2 leaf, 3 solid box. -/
def refType (r : Nat) : Nat := fld r 49 48
/-- COUNT of a leaf. -/
def refCount (r : Nat) : Nat := fld r 52 50
/-- The address. -/
def refAddr (r : Nat) : Nat := (sextW (fld r 47 7 * 128) 48).toNat
/-- The reference keeps its table. -/
def refOk (r : Nat) : Bool :=
  fld r 63 53 == 0 && fld r 6 0 == 0 &&
    (if refType r = 2 then decide (1 ≤ refCount r) && decide (refCount r ≤ 4) else refCount r == 0)

/-! ### Refusals (R442) -/

/-- An exact value within 1 plus or minus 2^-10. -/
def nearOne (v : FV) : Bool := !v.lt (FV.ofInt (2 ^ 10 - 1) (-10)) && !(FV.ofInt (2 ^ 10 + 1) (-10)).lt v && !v.isNan

/-- A value of the block or of its beam record lies outside its range (reason 3). -/
def blkValueBad (b : List Byte) : Bool :=
  let beam := blkBeam b
  let tmin := blkTmin b
  let tmax := blkTmax b
  let coords : List Nat :=
    match blkKind b with
    | 0 => vec3 beam 0 ++ vec3 beam 12
    | 1 => vec3 beam 0 ++ vec3 beam 12 ++ [numAt beam 0x18 4, numAt beam 0x1C 4]
    | _ => vec3 beam 4 ++ (List.range 4).flatMap (fun q => vec3 beam (0x10 + 12 * q))
  let u := (vec3 beam 0x0C).map binary32.val
  let sq := (u.foldl (fun s x => s.add 0 (x.mul x)) (.num false 0 0))
  let tan := numAt beam 0x18 4
  let mtan := numAt beam 0x1C 4
  tmin.testBit 31 || !f32le tmin tmax || coords.any (fun c => !f32fin c) || decide (2 ^ 24 < numAt b 0x70 4)
    || (blkKind b == 0 && (vec3 beam 12).all (fun c => f32abs c == 0))
    || (blkKind b == 1 && (!nearOne sq || !f32lt 0 tan || !f32le tan f32one || !f32lt 0 mtan || !f32le mtan tan))

/-- The lowest refusal reason of a query block. -/
def blkRefusal (b : List Byte) : Option Nat :=
  let beam := blkBeam b
  let k := blkKind b
  let m := blkMode b
  let hdr := numAt beam 0 4
  let resv : Bool :=
    match k with
    | 0 => !allZero (beam.drop 0x18)
    | 1 => !allZero (beam.drop 0x20)
    | _ => fld hdr 7 6 != 0 || fld hdr 15 14 != 0 || fld hdr 31 18 != 0
  let bud := blkBudget b
  let raw := numAt b 0x74 1
  let hpc := blkHpc b
  if fld (numAt b 0x75 1) 7 4 ≠ 0 ∨ numAt b 0x76 2 ≠ 0 ∨ k = 3 ∨ m = 3 ∨ ((k == 1) != (m == 2)) ∨ resv then some 1
  else if k = 2 ∧ fld hdr 17 16 ≠ 2 then some 2
  else if blkValueBad b then some 3
  else if !refOk (blkRoot b) ∨ (refType (blkRoot b) ≠ 1 ∧ refType (blkRoot b) ≠ 2) then some 4
  else if (65 ≤ raw ∧ raw ≤ 254) ∨ (bud ≠ 0 ∧ (hpc = 0 ∨ hpc % 2 = 1 ∨ !canonical hpc)) ∨ (k = 1 ∧ bud = 0)
      ∨ blkSplit b % 128 ≠ 0 ∨ blkSpill b % 128 ≠ 0 ∨ blkResult b % (if m = 0 then 16 else 8) ≠ 0 then some 5
  else if blkSig b % 8 ≠ 0 then some 6
  else none

/-! ### Queries and their accesses (R437, R439) -/

/-- A query of a cluster. -/
def State.qry (s : State) (cl k : Nat) : Qry := (s.cluster cl).qrys.get {} k
/-- The state with a query updated. -/
def State.modQry (s : State) (cl k : Nat) (f : Qry → Qry) : State :=
  s.modCluster cl (fun c => { c with qrys := c.qrys.put k (f (c.qrys.get {} k)) })

/-- The query has not ended. -/
def Qry.active (q : Qry) : Bool := q.st == .running || q.st == .faulted

/-- The handle of a query (R437); k is Terrier * 16 + slot. -/
def Qry.handle (q : Qry) (cl k : Nat) : Nat := k + cl * 2 ^ 6 + q.gen % 2 ^ 32 * 2 ^ 12

/-- The Terrier of a query as an engine. -/
def Qry.eng (q : Qry) (cl k : Nat) : Eng :=
  { g := cl * 64 + q.g % 64, kind := 3, src := cl * 4 + k / 16, ident := q.ident, satp := q.satp, cls := q.cls }

/-- The Terrier as a sender of records. -/
def terrierSrc (cl k : Nat) : RecSource := .engine cl (2 + k / 16)

/-- How a step of a Terrier fails: an access at an address, or a malformed hierarchy. -/
inductive TErr where
  | eng (f : EngFail) (va : Nat)
  | bad
deriving DecidableEq, Repr

/-- Steps of a Terrier. -/
abbrev TM := EStateM TErr State

/-- An access of a Terrier at an address. -/
def tacc {α : Type} (va : Nat) (m : EM α) : TM α := fun s =>
  match m s with
  | .ok a s => .ok a s
  | .error f s => .error (.eng f va) s

/-! ### Ends and faults (R438 to R440) -/

/-- The query ends: its signal is written, what it holds is dropped, its weight returns. -/
def qryEnd (cl k : Nat) (st : QrySt) (reason : Nat) (f : Nat → Nat) : EM Unit := do
  let q := (← get).qry cl k
  let _ ← signalE (q.eng cl k) (blkSig q.block) q.launch f
  let h := w64 (q.handle cl k)
  modify (fun s =>
    let (s, l) := s.pullSent (fun src r => src == terrierSrc cl k && r.bh && nth r.a 1 0#64 == h)
    let s := l.foldl (fun s r => s.giveBack q.launch r.weight) s
    (s.giveBack q.launch q.weight).modQry cl k (fun q => { q with
      st := st, reason := reason, weight := 0, item := none, todo := [], stack := [], spill := [], out := [], owe := 0 }))
  match q.task with
  | none => pure ()
  | some e =>
    modify (fun s => s.modCluster cl (fun c =>
      if st = .complete then { c with engDone := c.engDone ++ [e] } else { c with engFail := c.engFail ++ [(e, 7)] }))

/-- The query fails, and its launch with it: cause 9 (R439). The record names the poisoned block, if any (spec/06_page.md R167). -/
def qryFail (cl k reason : Nat) (b : Option Nat) : EM Unit := do
  let q := (← get).qry cl k
  qryEnd cl k .failed reason orSignal
  modify (fun s => (s.error { kind := 6, asid := q.ident.asid, cl := cl, launch := q.launch, info := reason
                              addr := (b.map paOf).getD 0, inj := (b.map s.injected.contains).getD false }).failLaunch q.launch 9)

/-- The query meets a fault: it is Faulted; one that a task started fails (R439). -/
def qryFault (cl k reason addr : Nat) : EM Unit := do
  let q := (← get).qry cl k
  if q.task.isSome then qryFail cl k reason none
  else modify (fun s => s.modQry cl k (fun q => if q.st = .running then { q with st := .faulted, reason := reason, faddr := addr } else q))

/-- What a failed step of a Terrier does to its query. -/
def qryErr (cl k : Nat) (e : TErr) : EM Unit :=
  match e with
  | .eng .later _ => later
  | .eng .page va => qryFault cl k 1 va
  | .eng .access va => qryFault cl k 2 va
  | .eng (.poison b) _ => qryFail cl k 4 b
  | .bad => qryFail cl k 5 none

/-! ### Split records (R429) -/

/-- The bytes of a record of an item. -/
def Qry.recordOf (q : Qry) (cl k : Nat) (it : Item) : List Byte :=
  it.beam ++ leBytes 8 it.node ++ leBytes 4 it.sub ++ leBytes 1 it.reason ++ leBytes 1 (blkKind q.block) ++ leBytes 2 (b2n it.bv)
    ++ leBytes 8 (q.handle cl k) ++ leBytes 8 q.addr ++ leBytes 8 it.path
    ++ (if it.bv then it.box else List.replicate 24 0#8)

/-- The item that a record holds. -/
def itemOf (bs : List Byte) : Item :=
  let bv := (numAt bs 0x4E 1).testBit 0
  { beam := bs.take 64, node := numAt bs 0x40 8, sub := numAt bs 0x48 4, reason := numAt bs 0x4C 1, bv := bv, path := numAt bs 0x60 8
    box := if bv then (bs.drop 0x68).take 24 else [] }

/-- A record keeps R429 for a query. -/
def Qry.recordOk (q : Qry) (bs : List Byte) : Bool :=
  let k := blkKind q.block
  let sub := numAt bs 0x48 4
  let r := rectOf sub
  let flg := numAt bs 0x4E 2
  let ref := numAt bs 0x40 8
  numAt bs 0x4D 1 == k && decide (numAt bs 0x4C 1 ≤ 3) && decide (flg ≤ 1) && (flg == 1 || allZero ((bs.drop 0x68).take 24))
    && refOk ref && refType ref != 0
    && (match k with
        | 0 => bs.take 64 == blkBeam q.block && sub == 0 && numAt bs 0x60 8 == 0
        | 1 => allZero ((bs.drop 0x20).take 32) && decide (sub < 32)
        | _ => bs.take 64 == blkBeam q.block && decide (sub < 2 ^ 24) && decide (r.i0 + r.w ≤ frustW bs)
            && decide (r.j0 + r.h ≤ frustH bs) && numAt bs 0x60 8 == 0)

/-! ### Pieces and splits of an item (R421, R426, R427) -/

/-- The rectangle of an item of a ray or frustum query. -/
def Qry.rect (q : Qry) (it : Item) : Rect := if blkKind q.block = 0 then ⟨0, 0, 1, 1⟩ else rectOf it.sub
/-- The apex of a ray or frustum query. -/
def Qry.apex (q : Qry) : List Nat := vec3 (blkBeam q.block) (if blkKind q.block = 0 then 0 else 4)
/-- The direction of a ray of a ray or frustum query. -/
def Qry.dir (q : Qry) (i j : Nat) : List Nat :=
  if blkKind q.block = 0 then vec3 (blkBeam q.block) 12 else rayDir (blkBeam q.block) i j
/-- Result index of a ray (R417). -/
def Qry.index (q : Qry) (i j : Nat) : Nat := if blkKind q.block = 0 then 0 else i + j * frustW (blkBeam q.block)
/-- The piece of an item. -/
def Qry.piece (q : Qry) (it : Item) : BeamPiece :=
  match blkKind q.block with
  | 0 => onePiece q.apex (q.dir 0 0)
  | 1 => conePiece it.beam
  | _ => frustPiece (blkBeam q.block) (q.rect it)

/-- Depth of a sub-cone. -/
def Item.depth (it : Item) : Nat := fld it.sub 4 0

/-- A sub-cone splits no more: its tangent is at the minimum or its depth is 31. -/
def Item.coneLast (it : Item) : Bool := f32le (numAt it.beam 0x18 4) (numAt it.beam 0x1C 4) || it.depth == 31

/-- The children of a split: quadrants at the same node, or sub-cones at ROOT. -/
def Qry.children (q : Qry) (it : Item) : List Item :=
  if blkKind q.block = 1 then
    (coneSplit it.beam).zipIdx.map (fun x =>
      { beam := x.1, node := blkRoot q.block, sub := it.depth + 1, reason := 0, path := it.path + x.2 * 2 ^ (2 * it.depth) })
  else (q.rect it).quads.map (fun r => { it with sub := r.sub, reason := 0 })

/-- An item that splits no more by its kind: bm.split answers 0 (R444). -/
def Qry.unsplittable (q : Qry) (it : Item) : Bool :=
  it.reason != 0 || (match blkKind q.block with
    | 0 => true
    | 1 => it.coneLast
    | _ => (q.rect it).w == 1 && (q.rect it).h == 1)

/-! ### Placement (R430, R431) -/

/-- A residual. -/
def Item.residual (it : Item) : Bool := it.reason == 1 || it.reason == 2

/-- Weight 1 taken from a query, which borrows first where it holds exactly 1 (R440). -/
def State.qryGive (s : State) (cl k : Nat) : State :=
  let q := s.qry cl k
  let s := if q.weight ≤ 1 then (s.engBorrow q.launch).modQry cl k (fun q => { q with weight := q.weight + 2 ^ 32 }) else s
  s.modQry cl k (fun q => { q with weight := q.weight - 1 })

/-- Rule 1: the record is written into the lowest free slot and a handler is spawned. -/
def spawnItem (cl k : Nat) (it : Item) : TM Unit := do
  let s ← get
  let q := s.qry cl k
  let slot := ((List.range 64).find? (fun i => !q.out.contains i)).getD 0
  let addr := uint ((blkSplit q.block + 128 * slot : Nat) : Int) 64
  tacc addr (writeE (q.eng cl k) addr (q.recordOf cl k it))
  modify (fun s =>
    let s := (s.qryGive cl k).modQry cl k (fun q => { q with out := q.out ++ [slot] })
    let r : LightRec := { pc := blkHpc q.block % 2 ^ 48, lslot := q.launch % 4096, rx := false, fp := false, bh := true, bad := false,
                          weight := 1, a := [w64 addr, w64 (q.handle cl k), 0#64, 0#64, 0#64, 0#64] }
    s.sendRecord (s.fewest (terrierSrc cl k) (coresOf cl)) (terrierSrc cl k) r)

/-- Address of a record of the spill area. -/
def Qry.spillAt (q : Qry) (i : Nat) : Nat := uint ((blkSpill q.block + 128 * i : Nat) : Int) 64

/-- What the Terrier keeps of an item in the spill area. -/
def Item.stub (it : Item) : Item := { it with beam := [], box := [] }

/-- Rules 2 and 3; whether the item has been placed. -/
def storeItem (cl k : Nat) (it : Item) : TM Bool := do
  let q := (← get).qry cl k
  let it := { it with seq := q.seqs, hand := false }
  if q.stack.length < 32 then
    modify (fun s => s.modQry cl k (fun q => { q with stack := it :: q.stack, seqs := q.seqs + 1 }))
    return true
  else if q.spill.length < q.spilln then
    tacc (q.spillAt q.spill.length) (writeE (q.eng cl k) (q.spillAt q.spill.length) (q.recordOf cl k it))
    modify (fun s => s.modQry cl k (fun q => { q with spill := q.spill ++ [it.stub], seqs := q.seqs + 1 }))
    return true
  else return false

/-- The first rule that applies; pending and handed-over items skip rule 1. A freed slot that is owed to a waiting residual is
not free for another. -/
def placeItem (cl k : Nat) (it : Item) : TM Bool := do
  let q := (← get).qry cl k
  if it.reason ≠ 3 ∧ !it.hand ∧ q.out.length + q.owe < blkBudget q.block then
    spawnItem cl k it
    return true
  else storeItem cl k it

/-- An item leaves the spill area; the entries above it move down one place. -/
def moveDown (cl k : Nat) (q : Qry) : Nat → Nat → TM Unit
  | 0, _ => return ()
  | n + 1, i => do
    let bs ← tacc (q.spillAt (i + 1)) (readE (q.eng cl k) (q.spillAt (i + 1)) 128)
    tacc (q.spillAt i) (writeE (q.eng cl k) (q.spillAt i) bs)
    moveDown cl k q n (i + 1)

/-- Item i of the spill area taken out of it. -/
def unspill (cl k i : Nat) : TM Item := do
  let q := (← get).qry cl k
  let bs ← tacc (q.spillAt i) (readE (q.eng cl k) (q.spillAt i) 128)
  moveDown cl k q (q.spill.length - 1 - i) i
  modify (fun s => s.modQry cl k (fun q => { q with spill := q.spill.eraseIdx i }))
  return { itemOf bs with seq := (nth q.spill i default).seq }

/-- The last index of a list that satisfies a test. -/
def lastIdx {α : Type} (p : α → Bool) (l : List α) : Option Nat :=
  (List.range l.length).foldl (fun r i => match l[i]? with
    | some x => if p x then some i else r
    | none => r) none

/-- The item that the engine takes next, from the top of the stack and then of the spill area; residuals are passed over. -/
def nextItem (cl k : Nat) : TM (Option Item) := do
  let q := (← get).qry cl k
  match q.stack.findIdx? (fun x => !x.residual) with
  | some i =>
    modify (fun s => s.modQry cl k (fun q => { q with stack := q.stack.eraseIdx i }))
    return q.stack[i]?
  | none =>
    match lastIdx (fun x => !x.residual) q.spill with
    | some i => do
      let it ← unspill cl k i
      return some it
    | none => return none

/-- The most recently placed residual that waits: its place in the stack, or in the spill area. -/
def Qry.lastResidual (q : Qry) : Option (Bool × Nat × Nat) :=
  let st := (q.stack.findIdx? (·.residual)).map (fun i => (true, i, (nth q.stack i default).seq))
  let sp := (lastIdx (·.residual) q.spill).map (fun i => (false, i, (nth q.spill i default).seq))
  match st, sp with
  | some a, some b => if a.2.2 < b.2.2 then some b else some a
  | some a, none => some a
  | none, b => b

/-- A freed slot's residual spawned, if one waits. -/
def spawnResidual (cl k : Nat) : TM Bool := do
  let q := (← get).qry cl k
  match q.lastResidual with
  | none =>
    modify (fun s => s.modQry cl k (fun q => { q with owe := 0 }))
    return false
  | some (true, i, _) =>
    modify (fun s => s.modQry cl k (fun q => { q with stack := q.stack.eraseIdx i }))
    spawnItem cl k (nth q.stack i default)
  | some (false, i, _) =>
    let it ← unspill cl k i
    spawnItem cl k it
  modify (fun s => s.modQry cl k (fun q => { q with owe := q.owe - 1 }))
  return true

/-- An operation of a Terrier that may fail: what its failure does to the query stands instead of it, with the error records sent on
the way; while it cannot be served nothing changes. -/
def State.orFault (s : State) (cl k : Nat) (m : TM Unit) : State :=
  match m s with
  | .ok _ s => s
  | .error e u =>
    match qryErr cl k e (s.keepErrs u) with
    | .ok _ s => s
    | .error _ _ => s

/-- The residuals owed to freed slots spawned, as far as they go (R430); a Faulted query spawns them too (R438). -/
def spawnOwed (cl k : Nat) : Nat → State → State
  | 0, s => s
  | n + 1, s =>
    if (s.qry cl k).owe = 0 then s
    else
      match spawnResidual cl k s with
      | .ok true s => spawnOwed cl k n s
      | .ok false s => s
      | .error _ _ => s.orFault cl k (do let _ ← spawnResidual cl k)

/-- Every residual that is owed. -/
def State.spawnAll (s : State) (cl k : Nat) : State := spawnOwed cl k (s.qry cl k).owe s

/-- Items still to be placed, in turn; a residual that waits behind a freed slot is spawned once it is placed. -/
def placeTodo (cl k : Nat) : Nat → State → State
  | 0, s => s
  | n + 1, s =>
    let q := s.qry cl k
    match q.todo with
    | [] => s
    | it :: rest =>
      match placeItem cl k it s with
      | .ok true s => placeTodo cl k n ((s.modQry cl k (fun q => { q with todo := rest })).spawnAll cl k)
      | .ok false _ =>
        match qryFault cl k 3 q.addr s with
        | .ok _ s => s
        | .error _ _ => s
      | .error _ _ => s.orFault cl k (do let _ ← placeItem cl k it)

/-- Everything that is owed or to be placed. -/
def State.placeAll (s : State) (cl k : Nat) : State := placeTodo cl k (s.qry cl k).todo.length (s.spawnAll cl k)

/-- The handed-over items placed by rules 2 and 3, in turn, past what the engine still holds. -/
def placeHanded (cl k : Nat) : Nat → State → State
  | 0, s => s
  | n + 1, s =>
    let q := s.qry cl k
    match q.todo.findIdx? (·.hand) with
    | none => s
    | some i =>
      match storeItem cl k (nth q.todo i default) s with
      | .ok true s => placeHanded cl k n (s.modQry cl k (fun q => { q with todo := q.todo.eraseIdx i }))
      | .ok false _ => s
      | .error _ _ => s.orFault cl k (do let _ ← storeItem cl k (nth q.todo i default))

/-- Items handed to a query's Terrier. Behind one whose placing is a held access of a Faulted query they are held with it
(R438). -/
def State.handItems (s : State) (cl k : Nat) (items : List Item) : State :=
  let q := s.qry cl k
  let s1 := s.modQry cl k (fun q => { q with todo := q.todo ++ items.map (fun i => { i with hand := true }) })
  if q.st = .faulted ∧ q.todo.any (·.hand) then s1 else placeHanded cl k (s1.qry cl k).todo.length s1

/-- A slot of the split area released: the most recently placed residual that waits is spawned in its place (R430). An item that is
still to be placed waits nowhere yet: the freed slot is free for it. -/
def State.endHandler (s : State) (cl k slot : Nat) : State :=
  (s.modQry cl k (fun q => { q with
    out := q.out.filter (· != slot)
    owe := min (q.owe + 1) ((q.stack ++ q.spill).countP (·.residual)) })).spawnAll cl k

/-! ### Descent (R424 to R428) -/

/-- What is in the engine after a step, and what is to be placed. -/
def setEngine (cl k : Nat) (it : Option Item) (todo : List Item) : TM Unit :=
  modify (fun s => s.modQry cl k (fun q => { q with item := it, todo := todo }))

/-- The children of a node: reference and box. -/
def nodeKids (bs : List Byte) : List (Nat × List Byte) :=
  (List.range 4).map (fun c => (numAt bs (0x60 + 8 * c) 8, (bs.drop (24 * c)).take 24))

/-- A child visited by the whole piece of an item. -/
def Item.child (it : Item) (ref : Nat) (box : List Byte) (reason : Nat) : Item :=
  { it with node := ref, bv := true, box := box, reason := reason, hand := false }

/-- The sub-cone is blocked; four blocked siblings block their parent (R428). -/
def blockCone : Nat → Nat → Nat → List (Nat × Nat) → List (Nat × Nat)
  | 0, d, p, l => if l.contains (d, p) then l else (d, p) :: l
  | n + 1, d, p, l =>
    let l := if l.contains (d, p) then l else (d, p) :: l
    if d = 0 then l
    else
      let par := p % 2 ^ (2 * (d - 1))
      if (List.range 4).all (fun c => l.contains (d, par + c * 2 ^ (2 * (d - 1)))) then blockCone n (d - 1) par l else l

/-- The pending items of a sub-cone leave the stack and the spill area. -/
def dropPending (cl k : Nat) (it : Item) : Nat → TM Unit
  | 0 => return ()
  | n + 1 => do
    let mine (x : Item) : Bool := x.reason == 3 && x.sub == it.sub && x.path == it.path
    modify (fun s => s.modQry cl k (fun q => { q with stack := q.stack.filter (fun x => !mine x) }))
    match lastIdx mine ((← get).qry cl k).spill with
    | none => return ()
    | some i => do
      let _ ← unspill cl k i
      dropPending cl k it n

/-- A sub-cone at a node (R427). -/
def coneNode (cl k : Nat) (it : Item) (kids : List (Nat × List Byte × BoxClass)) : TM Unit := do
  let q := (← get).qry cl k
  if kids.any (fun c => refType c.1 == 3 && c.2.2 == .hit) then
    dropPending cl k it (q.spill.length + 1)
    modify (fun s => s.modQry cl k (fun q => { q with blocked := blockCone 32 it.depth it.path q.blocked, anyBlk := true }))
    setEngine cl k none []
  else if kids.any (fun c => refType c.1 != 2 && c.2.2 == .straddle) && !it.coneLast then
    dropPending cl k it (q.spill.length + 1)
    let ch := q.children it
    setEngine cl k ch.head? (ch.drop 1)
  else
    let res := kids.filterMap (fun c =>
      if refType c.1 = 2 then some (it.child c.1 c.2.1 2)
      else if c.2.2 = .straddle then some (it.child c.1 c.2.1 1) else none)
    let go := (kids.filter (fun c => refType c.1 == 1 && c.2.2 == .hit)).map (fun c => it.child c.1 c.2.1 3)
    modify (fun s => s.modQry cl k (fun q => { q with resid := q.resid + res.length }))
    setEngine cl k go.head? (res ++ (go.drop 1).reverse)

/-- A ray or a frustum piece at a node (R424, R426). -/
def beamNode (cl k : Nat) (it : Item) (kids : List (Nat × List Byte × BoxClass)) : TM Unit := do
  let q := (← get).qry cl k
  let kids := kids.filter (fun c => refType c.1 != 3)
  if kids.any (fun c => refType c.1 == 1 && c.2.2 == .straddle) then
    let ch := q.children it
    setEngine cl k ch.head? (ch.drop 1)
  else
    let go := kids.map (fun c => it.child c.1 c.2.1 3)
    setEngine cl k go.head? (go.drop 1).reverse

/-- An item at a node: its children are classified, the empty ones and the all-miss ones dropped. -/
def nodeStep (cl k : Nat) (it : Item) : TM Unit := do
  let q := (← get).qry cl k
  let a := refAddr it.node
  let bs ← tacc a (readE (q.eng cl k) a 128)
  let kids := nodeKids bs
  if kids.any (fun c => !refOk c.1) then throw .bad
  let p := q.piece it
  let kids := (kids.filter (fun c => refType c.1 != 0)).map (fun c => (c.1, c.2, classify p c.2 (blkTmin q.block) (blkTmax q.block)))
  let kids := kids.filter (fun c => c.2.2 != .miss)
  if blkKind q.block = 1 then coneNode cl k it kids else beamNode cl k it kids

/-- An atomic update of a result entry; poison fails it. -/
def resultAtomic (e : Eng) (va n : Nat) (f : Nat → Option Nat) : TM Unit := do
  let (_, p) ← tacc va (eng (fun s => s.engAtomic e va n f))
  if p then throw (.eng (.poison (((← get).physOfVa e va).map blk)) va)

/-- A hit of a ray updates its result (R433, R434). -/
def hitRay (cl k n : Nat) (t u v prim : Nat) : TM Unit := do
  let q := (← get).qry cl k
  let e := q.eng cl k
  if blkMode q.block = 0 then
    let key := t * 2 ^ 32 + prim
    resultAtomic e (uint ((blkResult q.block + 16 * n : Nat) : Int) 64) 16 (fun old =>
      if key < old % 2 ^ 64 then some (key + u * 2 ^ 64 + v * 2 ^ 96) else none)
  else
    resultAtomic e (uint ((blkResult q.block + 8 * (n / 64) : Nat) : Int) 64) 8 (fun old => some (old ||| 2 ^ (n % 64)))
    modify (fun s => s.modQry cl k (fun q => { q with stopped := n :: q.stopped }))

/-- A ray tested against the triangles of a leaf, in record order; in any-hit mode it stops at a hit. -/
def rayTris (cl k : Nat) (d : List Nat) (n : Nat) : List (List Byte) → TM Unit
  | [] => return ()
  | tri :: r => do
    let q := (← get).qry cl k
    match triHit q.apex d tri (blkTmin q.block) (blkTmax q.block) with
    | none => rayTris cl k d n r
    | some (t, u, v) => do
      hitRay cl k n t u v (numAt tri 0x24 4)
      if blkMode q.block = 1 then return () else rayTris cl k d n r

/-- The rays of a piece at a leaf (R425). -/
def leafRays (cl k : Nat) (it : Item) (tris : List (List Byte)) : List (Nat × Nat) → TM Unit
  | [] => return ()
  | (i, j) :: r => do
    let q := (← get).qry cl k
    let n := q.index i j
    let d := q.dir i j
    let miss := it.bv && classify (onePiece q.apex d) it.box (blkTmin q.block) (blkTmax q.block) == .miss
    if q.stopped.contains n ∨ miss then pure () else rayTris cl k d n tris
    leafRays cl k it tris r

/-- An item at a leaf. -/
def leafStep (cl k : Nat) (it : Item) : TM Unit := do
  let q := (← get).qry cl k
  if blkKind q.block = 1 then
    modify (fun s => s.modQry cl k (fun q => { q with resid := q.resid + 1 }))
    setEngine cl k none [{ it with reason := 2, hand := false }]
  else
    let a := refAddr it.node
    let bs ← tacc a (readE (q.eng cl k) a (64 * refCount it.node))
    leafRays cl k it ((List.range (refCount it.node)).map (fun i => (bs.drop (64 * i)).take 64)) (q.rect it).rays
    setEngine cl k none []

/-- The item in the engine moves on: at a node, at a leaf; a piece whose rays have all stopped ends (R434). -/
def workItem (cl k : Nat) (it : Item) : TM Unit := do
  let q := (← get).qry cl k
  let stops := blkMode q.block == 1 && (q.rect it).rays.all (fun r => q.stopped.contains (q.index r.1 r.2))
  if stops then setEngine cl k none []
  else
    match refType it.node with
    | 1 => nodeStep cl k it
    | 2 => leafStep cl k it
    | _ => setEngine cl k none []

/-- The code of a cone query (R428). -/
def Qry.coverage (q : Qry) : Nat := if q.blocked.contains (0, 0) then 2 else if !q.anyBlk && q.resid == 0 then 1 else 3

/-- The query completes where R432 holds; the coverage word, the signal, the weight (R435, R438). -/
def completeQry (cl k : Nat) : TM Bool := do
  let q := (← get).qry cl k
  if q.item.isSome ∨ !q.todo.isEmpty ∨ !q.stack.isEmpty ∨ !q.spill.isEmpty ∨ !q.out.isEmpty then return false
  else
    let a := blkResult q.block
    if blkMode q.block = 2 then tacc a (writeE (q.eng cl k) a (leBytes 8 (q.coverage + q.resid % 2 ^ 32 * 2 ^ 32)))
    tacc 0 (qryEnd cl k .complete 0 decSignal)
    return true

/-- One step of a Terrier for a Running query: whether there was one to take. -/
def itemStep (cl k : Nat) : TM Bool := do
  let q := (← get).qry cl k
  match q.item with
  | some it => do
    workItem cl k it
    return true
  | none =>
    match ← nextItem cl k with
    | some it => do
      modify (fun s => s.modQry cl k (fun q => { q with item := some it }))
      return true
    | none => completeQry cl k

/-- TERRIER_ITEM_STEP: the Terrier of a query places what is to be placed, or moves its item on; for a Faulted query it spawns what
is owed to freed slots (R438). -/
def execTerrierItemStep (cl q : Nat) (s : State) : Out :=
  event (fun s =>
    let x := s.qry cl q
    if x.st = .faulted ∧ x.owe > 0 then
      match spawnResidual cl q s with
      | .ok _ s => some (s.spawnAll cl q)
      | .error (.eng (.poison b) _) u => stepE (qryFail cl q 4 b) (s.keepErrs u)
      | .error _ _ => none
    else if x.st ≠ .running then none
    else if x.owe > 0 ∨ !x.todo.isEmpty then some (s.placeAll cl q)
    else
      match itemStep cl q s with
      | .ok true s => some (s.placeAll cl q)
      | _ => none) s

/-- TERRIER_ACCESS_FAULT: an access of the Terrier fails: the query is Faulted or Failed, and the access is held. -/
def execTerrierAccessFault (cl q : Nat) (s : State) : Out :=
  event (fun s =>
    let x := s.qry cl q
    if x.st ≠ .running ∨ x.owe > 0 ∨ !x.todo.isEmpty then none
    else
      match itemStep cl q s with
      | .ok _ _ => none
      | .error e u => stepE (qryErr cl q e) (s.keepErrs u)) s

/-! ### Acceptance (R437, R440, R442) -/

/-- The free query slot of the lowest Terrier. -/
def State.freeQry (s : State) (cl : Nat) : Option Nat := (List.range 64).find? (fun k => !(s.qry cl k).active)

/-- A query taken into a slot; descent starts at ROOT. -/
def State.startQry (s : State) (cl k : Nat) (blk : List Byte) (addr : Nat) (p : FntParty) (task : Option Nat) : State :=
  let beam := blkBeam blk
  let it : Item := { beam := beam, node := blkRoot blk
                     sub := if blkKind blk = 2 then (⟨0, 0, frustW beam, frustH beam⟩ : Rect).sub else 0 }
  let s := s.modQry cl k (fun q =>
    { gen := q.gen + 1, st := .running, block := blk, addr := addr, spilln := numAt blk 0x70 4, ident := p.ident, satp := p.satp,
      cls := p.cls, launch := p.launch, g := p.g, weight := p.weight, task := task, item := some it })
  s.discardLaunchImage ((s.qry cl k).eng cl k) p.launch cl

/-- BM_QUERY. -/
def execBmQuery (a d : BitVec 5) (s : State) : Out :=
  runThread (do
    let va ← getX a
    orTrap (va.toNat % 128 = 0) 4 va
    waitVecMem
    let bs ← loadBytes va 128
    let c ← ctx
    orTrap (decide (2 ≤ c.uweight.toNat)) 29 c.uweight
    orTrap (numAt bs 0x74 1 == 0 || decide (c.ulaunch.toNat < 4096)) 30 5#64
    probeSig (blkSig bs)
    match blkRefusal bs with
    | some r => refusal d r
    | none =>
      let s ← get
      match s.freeQry s.cur.cl with
      | none => wait
      | some k =>
        release 2
        let c ← ctx
        let s ← get
        let w := c.uweight.toNat / 2
        let p : FntParty := { ident := identOf c c.priv s.cur, satp := c.satp, cls := none, launch := wfld c.ulaunch 15 0,
                              g := s.cur.gcore, weight := w }
        upd (fun s => s.startQry s.cur.cl k bs va.toNat p none)
        let s ← get
        modCtx (fun c => { c with uweight := c.uweight - w64 w }.setX d.toNat (w64 ((s.qry s.cur.cl k).handle s.cur.cl k)))) s

/-! ### Handles and the status word (R437, R443) -/

/-- The query that a handle names for a thread of an address space; none where it is gone. -/
def State.qryOf (s : State) (asid : Nat) (h : Nat) : Option (Nat × Nat) :=
  let cl := fld h 11 6
  let k := fld h 5 0
  let q := s.qry cl k
  if fld h 63 44 = 0 ∧ q.gen ≠ 0 ∧ q.gen % 2 ^ 32 = fld h 43 12 ∧ q.ident.asid = asid then some (cl, k) else none

/-- Code of a state. -/
def QrySt.code : QrySt → Nat
  | .running => 0 | .faulted => 1 | .complete => 2 | .failed => 3 | .cancelled => 4 | .absent => 5

/-- The status word. -/
def Qry.word (q : Qry) : Word :=
  let r := if q.st = .faulted ∨ q.st = .failed then q.reason else 0
  w64 (q.spill.length * 2 ^ 32 + q.out.length * 2 ^ 16 + r * 2 ^ 8 + q.st.code)

/-- The report on a handle; Complete acquires. -/
def bmReport (d : BitVec 5) (h : Word) : M Unit := do
  let s ← get
  match s.qryOf (← ctx).asid h.toNat with
  | none => setX d 5#64
  | some (cl, k) =>
    let q := s.qry cl k
    if q.st = .complete then acquire else pure ()
    setX d q.word

/-- BM_POLL. -/
def execBmPoll (a d : BitVec 5) (s : State) : Out := runThread (do bmReport d (← getX a)) s

/-- The restart of a Faulted query: SPILLN is read again, held items are placed, the held access is tried again (R438). -/
def restartQry (cl k : Nat) : EM Unit := do
  let q := (← get).qry cl k
  let a := uint ((q.addr + 0x70 : Nat) : Int) 64
  let r ← (fun s => match readE (q.eng cl k) a 4 s with
    | .ok bs s => .ok (Except.ok bs) s
    | .error .later s => .error .later s
    | .error f s => .ok (Except.error f) s : EM (Except EngFail (List Byte)))
  match r with
  | .error (.poison b) => qryFail cl k 4 b
  | .error f => modify (fun s => s.modQry cl k (fun q => { q with reason := if f = .page then 1 else 2, faddr := a }))
  | .ok bs =>
    modify (fun s => (s.modQry cl k (fun q => { q with st := .running, reason := 0, spilln := leNat bs })).placeAll cl k)

/-- BM_WAIT. The mark says that the restart is done. -/
def execBmWait (a d : BitVec 5) (s : State) : Out :=
  runThread (do
    let h ← getX a
    let c ← ctx
    let s ← get
    match s.qryOf c.asid h.toNat with
    | none => bmReport d h
    | some (cl, k) =>
      if (← waitKind) ≠ some WaitKind.beam ∧ (s.qry cl k).st = .faulted then
        match ← runE (restartQry cl k) with
        | .ok _ => pure ()
        | .error _ => wait
      else pure ()
      let q := (← get).qry cl k
      match q.st with
      | .faulted => trap 27 (w64 q.faddr)
      | .running =>
        setWait (some { kind := .beam })
        wait
      | _ => bmReport d h) s

/-! ### bm.split, bm.resume, bm.cancel (R444 to R446) -/

/-- Room for n items on the stack and in the spill area, beside the handed-over ones that are held for a place there. -/
def Qry.room (q : Qry) (n : Nat) : Bool :=
  decide (n + q.todo.countP (·.hand) ≤ (32 - q.stack.length) + (q.spilln - q.spill.length))

/-- Items handed to a query's Terrier; a spill record that cannot be written is held (R438). -/
def handOver (cl k : Nat) (items : List Item) : EM Unit := modify (fun s => s.handItems cl k items)

/-- A store of the thread, and then steps of an engine; nothing has changed while either waits. -/
def storeThen (st : M Unit) (m : EM Unit) : M Unit := fun s =>
  match st s with
  | .error e s => .error e s
  | .ok _ s1 =>
    match m s1 with
    | .ok _ s2 => .ok () s2
    | .error _ _ => .error .wait s

/-- BM_SPLIT. -/
def execBmSplit (a d : BitVec 5) (s : State) : Out :=
  runThread (do
    let va ← getX a
    orTrap (va.toNat % 128 = 0) 4 va
    waitVecMem
    let bs ← loadBytes va 128
    let c ← ctx
    let s ← get
    match s.qryOf c.asid (numAt bs 0x50 8) with
    | none => refusal d 2
    | some (cl, k) =>
      let q := s.qry cl k
      if !q.active then refusal d 2
      else
        orTrap (q.recordOk bs && numAt bs 0x58 8 == q.addr) 27 va
        let it := itemOf bs
        if q.unsplittable it then setX d 0#64
        else
          let ch := q.children it
          if !q.room (ch.length - 1) then refusal d 1
          else
            release 2
            storeThen (storeBytes va (q.recordOf cl k (ch.headD default))) (handOver cl k (ch.drop 1))
            setX d (w64 ch.length)) s

/-- The slot of the split area that a record stands in, where it is outstanding. -/
def Qry.slotOf (q : Qry) (va : Nat) : Option Nat := q.out.find? (fun i => uint ((blkSplit q.block + 128 * i : Nat) : Int) 64 == va)

/-- BM_RESUME. -/
def execBmResume (b a d : BitVec 5) (s : State) : Out :=
  runThread (do
    let va ← getX a
    let mode ← getX b
    orTrap (va.toNat % 128 = 0) 4 va
    waitVecMem
    let bs ← loadBytes va 128
    let c ← ctx
    let s ← get
    match s.qryOf c.asid (numAt bs 0x50 8) with
    | none => setX d 2#64
    | some (cl, k) =>
      let q := s.qry cl k
      if !q.active then setX d 2#64
      else
        orTrap (q.recordOk bs) 27 va
        orTrap (!wbit mode 1 || (q.slotOf va.toNat).isSome) 27 va
        if wbit mode 0 ∧ !q.room 1 then setX d 1#64
        else
          release 2
          upd (fun s =>
            let s := if wbit mode 0 then s.handItems cl k [itemOf bs] else s
            match (if wbit mode 1 then q.slotOf va.toNat else none) with
            | some slot => s.endHandler cl k slot
            | none => s)
          setX d 0#64) s

/-- BM_CANCEL. -/
def execBmCancel (a d : BitVec 5) (s : State) : Out :=
  runThread (do
    let h ← getX a
    let s ← get
    match s.qryOf (← ctx).asid h.toNat with
    | none => setX d 3#64
    | some (cl, k) =>
      match (s.qry cl k).st with
      | .complete => setX d 1#64
      | .failed | .cancelled | .absent => setX d 2#64
      | _ =>
        match ← runE (qryEnd cl k .cancelled 0 orSignal) with
        | .ok _ => setX d 0#64
        | .error _ => wait) s

end Sys2Proof.Machine
end

