-- ==== Sys2Proof/Machine/Herder.lean ====
section
/-! DEFINITION. The task and the Herder: records, footprints and edges, dispatch, completion, failure, streams, and the tsk
instructions (spec/13_task.md R339 to R365, R527; spec/05_ordering.md R141 to R144). -/

namespace Sys2Proof.Machine

open Sys2Proof

/-! ### The record (R339 to R345) -/

/-- KIND: 0 tile MMA, 1 transfer, 2 spawn, 3 beam query, 4 signal-only, 5 frontier launch. -/
def recKind (b : List Byte) : Nat := numAt b 0 1
def recStream (b : List Byte) : Nat := fld (numAt b 1 1) 5 0
def recPrio (b : List Byte) : Nat := fld (numAt b 2 1) 1 0
def recSig (b : List Byte) : Nat := numAt b 8 8
/-- N of a spawn payload. -/
def recN (b : List Byte) : Nat := numAt b 0x78 4

/-- The class of engine fills (R341). -/
def recClass (b : List Byte) (scos : Word) : Option Nat :=
  let c := numAt b 3 1
  if c.testBit 4 then some (fld c 3 0) else if wbit scos 4 then some (wfld scos 3 0) else none

/-- The used footprint entries: base, length and mode, with the own-scratchpad alias resolved for a core (R340). -/
def footprints (b : List Byte) (core_ : Nat) : List (Nat × Nat × Nat) :=
  (List.range 4).filterMap (fun i =>
    let d := numAt b (0x10 + 16 * i) 8
    let base := fld d 47 0
    let mode := fld d 49 48
    let base := match winOf base with
      | some (.own off) => winScratch + core_ * 2 ^ 18 + off
      | _ => base
    if mode = 0 then none else some (base, numAt b (0x18 + 16 * i) 4, mode))

/-- mxfmt of a tile payload. -/
def payFmt (ctl : Nat) : Word :=
  w64 (fld ctl 51 48 + fld ctl 54 54 * 2 ^ 4 + fld ctl 55 55 * 2 ^ 5 + fld ctl 59 59 * 2 ^ 7 + fld ctl 57 56 * 2 ^ 8
    + fld ctl 58 58 * 2 ^ 10 + fld ctl 52 52 * 2 ^ 11 + fld ctl 53 53 * 2 ^ 12)

/-- The operations of a tile task on a physical accumulator, its addresses as core g names them (R342, R281); they act with the
identity captured at tsk.put, also where they are checked again (spec/11_group.md R311, R525). -/
def payOps (b : List Byte) (g dst gen : Nat) (ent : Nat) (id : Ident) (launch : Nat) : List TileOp :=
  let ctl := numAt b 0x78 8
  let w (o : Nat) : Word := w64 (numAt b o 8)
  let pa (v : Word) : Nat := (tilePa g v).getD 0
  let o : TileOp :=
    { kind := .mma, dst := dst, src := dst, gen := gen, va := w 0x50, vb := w 0x58, va2 := w 0x68, vb2 := w 0x70
      a := pa (w 0x50), b := pa (w 0x58), sa := pa (w 0x68), sb := pa (w 0x70), mxfmt := payFmt ctl, mxld := w64 (fld ctl 47 0)
      mxcast := w64 (numAt b 4 4 % 2 ^ 24), task := some ent, asid := id.asid, launch := launch, ident := id }
  taskOps o (w 0x60) (ctl.testBit 60) (ctl.testBit 61) (pa (w 0x60))

/-- A nonzero reserved byte or bit, or a reserved KIND (reason 1). -/
def recReserved (b : List Byte) : Bool :=
  let k := recKind b
  decide (5 < k) || decide (64 ≤ numAt b 1 1) || decide (4 ≤ numAt b 2 1) || decide (32 ≤ numAt b 3 1)
    || (if k = 0 then decide (2 ^ 24 ≤ numAt b 4 4) else numAt b 4 4 != 0)
    || (List.range 4).any (fun i => fld (numAt b (0x10 + 16 * i) 8) 63 50 != 0 || numAt b (0x1C + 16 * i) 4 != 0)
    || (match k with
        | 0 => fld (numAt b 0x78 8) 63 62 != 0
        | 1 => numAt b 0x7C 4 != 0
        | 2 => false
        | 4 => !allZero (b.drop 0x50)
        | _ => !allZero (b.drop 0x58))

/-- The payload is illegal for its kind (reason 6). -/
def recPayloadBad (b : List Byte) : Bool :=
  match recKind b with
  | 0 =>
    let ctl := numAt b 0x78 8
    let fmt := fld ctl 51 48
    (tileShape fmt).isNone || ((ctl.testBit 54 || ctl.testBit 55) && fmt != 1 && fmt != 2)
      || (ctl.testBit 61 && (stcBytes fmt (fld ctl 57 56)).isNone)
      || (payOps b 0 0 0 0 {} 0).any (fun o => o.operands.any (fun p => !p.pitchOk))
  | 2 =>
    let pc := numAt b 0x50 8
    pc == 0 || pc % 2 == 1 || !canonical pc || recN b == 0 || decide (1 < numAt b 0x7C 4)
  | _ => false

/-! ### The window (R346, R349, R354) -/

/-- A window entry. -/
def State.task (s : State) (cl ent : Nat) : Task := (s.cluster cl).tasks.get {} ent
/-- The state with an entry updated. -/
def State.modTask (s : State) (cl ent : Nat) (f : Task → Task) : State :=
  s.modCluster cl (fun c => { c with tasks := c.tasks.put ent (f (c.tasks.get {} ent)) })
/-- A stream of a cluster. -/
def State.stream (s : State) (cl n : Nat) : Stream := (s.cluster cl).streams.get {} n
/-- The state with a stream updated. -/
def State.modStream (s : State) (cl n : Nat) (f : Stream → Stream) : State :=
  s.modCluster cl (fun c => { c with streams := c.streams.put n (f (c.streams.get {} n)) })

/-- Blocked, Ready, Pooled or Running. -/
def Task.live (t : Task) : Bool :=
  match t.st with
  | .blocked | .ready | .pooled | .running => true
  | _ => false
/-- The record occupies its window entry: it has not retired. -/
def Task.held (t : Task) : Bool := t.st != .free && !t.retired
/-- Window entries. -/
def windowSize : Nat := 512
/-- Entries of the ready pool. -/
def poolSize : Nat := 128

/-- Records of a stream in the window. -/
def State.streamCount (s : State) (cl n : Nat) : Nat := (s.cluster cl).tasks.ents.countP (fun e => e.2.held && recStream e.2.bytes == n)

/-- Two footprints share a byte, and one of them writes (R347). -/
def fpEdge (e n : Nat × Nat × Nat) : Bool :=
  decide (e.1 < n.1 + n.2.1) && decide (n.1 < e.1 + e.2.1) && decide (0 < e.2.1) && decide (0 < n.2.1)
    && (e.2.2.testBit 1 || n.2.2.testBit 1)

/-- The entries that a new record waits for. -/
def State.edges (s : State) (cl stream : Nat) (fps : List (Nat × Nat × Nat)) : List Nat :=
  ((s.cluster cl).tasks.ents.filter (fun e =>
    e.2.live && recStream e.2.bytes == stream && e.2.fps.any (fun f => fps.any (fpEdge f)))).map (·.1)

/-- Ready records enter the pool in the order in which they became ready, while it has room. -/
def fillPool (cl : Nat) : Nat → State → State
  | 0, s => s
  | n + 1, s =>
    let es := (s.cluster cl).tasks.ents
    if es.countP (fun e => e.2.st == .pooled) ≥ poolSize then s
    else
      match (sortBy (fun (e : Nat × Task) => e.2.since) (es.filter (fun e => e.2.st == .ready))).head? with
      | none => s
      | some (i, _) => fillPool cl n (s.modTask cl i (fun t => { t with st := .pooled, age := 0 }))

/-- The pool filled as far as it goes. -/
def State.pool (s : State) (cl : Nat) : State := fillPool cl windowSize s

/-- A record becomes ready. -/
def State.ready (s : State) (cl ent : Nat) : State :=
  (s.modTask cl ent (fun t => { t with st := .ready, since := s.tick })).tock

/-- A record becomes Done: its dependants wait for it no more (R354). -/
def State.taskDone (s : State) (cl ent : Nat) : State :=
  let s := s.modTask cl ent (fun t => { t with st := .done })
  let deps := ((s.cluster cl).tasks.ents.filter (fun e => e.2.st == .blocked && e.2.preds.contains ent)).map (·.1)
  (deps.foldl (fun s d =>
    let s := s.modTask cl d (fun t => { t with preds := t.preds.filter (· ≠ ent) })
    if (s.task cl d).preds.isEmpty then s.ready cl d else s) s).pool cl

/-! ### Engines that finish (R352, R354) -/

/-- Pieces of a task under way. -/
def State.taskPieces (s : State) (cl ent : Nat) : Bool := s.cores.ents.any (fun e => e.2.pieces.any (fun p => p.owner == .task cl ent))
/-- Tile operations of a task still in the queue of its core. -/
def State.taskOpsLeft (s : State) (cl ent core_ : Nat) : Bool := (s.core (cl * 64 + core_)).tileq.any (fun o => o.task == some ent)

/-- The engine of a running record has finished. -/
def State.engineDone (s : State) (cl ent : Nat) : Bool :=
  let t := s.task cl ent
  !(s.cluster cl).engFail.any (fun x => x.1 == ent) &&
    (match recKind t.bytes with
     | 0 => !s.taskOpsLeft cl ent t.place
     | 1 => decide ((xferPieces t.bytes).length ≤ t.sent) && !s.taskPieces cl ent
     | 2 => t.acked == recN t.bytes
     | 3 => (s.cluster cl).engDone.contains ent
     | _ => false)

/-- The accumulator of a tile task freed. -/
def State.freeTaskAcc (s : State) (cl : Nat) (t : Task) : State :=
  if recKind t.bytes = 0 then s.modCore (cl * 64 + t.place) (fun k =>
    if (k.acc t.acc).st = .taskHeld then k.setAcc t.acc (k.acc t.acc).unbind else k)
  else s

/-- The engine of a running record finishes, and the record is Done. -/
def State.engineEnds (s : State) (cl ent : Nat) : State :=
  ((s.freeTaskAcc cl (s.task cl ent)).modCluster cl (fun c => { c with engDone := c.engDone.filter (· ≠ ent) })).taskDone cl ent

/-- The row of R354 that a cancel of a record meets: an engine that has finished or reported a failure comes first, for the rows of
Running stand in priority order. -/
def State.ending (s : State) (cl ent : Nat) (st : TaskSt) (reason : Nat) : TaskSt × Nat :=
  if st ≠ .cancelled ∨ (s.task cl ent).st ≠ .running then (st, reason)
  else if s.engineDone cl ent then (.done, 0)
  else
    match (s.cluster cl).engFail.find? (fun x => x.1 == ent) with
    | some (_, r) => (.failed, r)
    | none => (.cancelled, reason)

/-! ### Failure and cancellation (R354 to R356) -/

/-- The spawn unit as a sender. -/
def spawnSrc (cl ent : Nat) : RecSource := .engine cl (16 + ent)

/-- A running engine is stopped (R354). -/
def stopEngine (cl ent : Nat) : EM Unit := do
  let t := (← get).task cl ent
  if t.st = .running then
    match recKind t.bytes with
    | 0 => modify (fun s => s.modCore (cl * 64 + t.place) (·.dropTaskOps ent))
    | 2 => modify (fun s => (s.pullSent (fun src _ => src == spawnSrc cl ent)).1.modTask cl ent (fun x =>
      { x with acked := t.acked, passed := t.passed }))
    | 3 =>
      let q := (← get).qry cl t.place
      if q.active && q.task == some ent then qryEnd cl t.place .cancelled 0 orSignal
    | _ => pure ()

/-- A record fails or is cancelled, its stream is marked, a failure is reported with the poisoned block that it met, if any (R356;
spec/06_page.md R167). -/
def endTask (cl ent : Nat) (st : TaskSt) (reason : Nat) : EM Unit := do
  stopEngine cl ent
  modify (fun s =>
    let t := s.task cl ent
    let s := (s.modTask cl ent (fun t => { t with st := st, reason := reason })).modStream cl (recStream t.bytes)
      (fun x => { x with fail := true, reason := reason })
    if st = .failed then
      s.error { kind := if reason = 5 then 7 else if reason = 6 then 8 else 6, lost := t.lostW, asid := t.ident.asid,
                cl := cl, launch := t.launch, info := reason, addr := (t.bad.map paOf).getD 0
                inj := (t.bad.map s.injected.contains).getD false }
    else s)

/-- The records in the window that depend on a record, to be cancelled with reason 8 as it fails or is cancelled (R354). -/
def State.dependants (s : State) (cl ent : Nat) : List (Nat × TaskSt × Nat) :=
  ((s.cluster cl).tasks.ents.filter (fun e => e.2.live && e.2.after.contains ent)).map (fun e => (e.1, TaskSt.cancelled, 8))

/-- Records that end badly, and after each of them its dependants, cancelled with reason 8; one whose engine has finished is Done
(R354). -/
def endTasks (cl : Nat) : Nat → List (Nat × TaskSt × Nat) → EM Unit
  | 0, _ => return ()
  | _, [] => return ()
  | n + 1, (ent, st, reason) :: rest => do
    let s ← get
    if !(s.task cl ent).live then endTasks cl n rest
    else
      match s.ending cl ent st reason with
      | (.done, _) =>
        modify (fun s => s.engineEnds cl ent)
        endTasks cl n rest
      | (st, reason) =>
        endTask cl ent st reason
        endTasks cl n (rest ++ s.dependants cl ent)

/-- One record ends badly. -/
def killTask (cl ent : Nat) (st : TaskSt) (reason : Nat) : EM Unit := do
  endTasks cl (windowSize * windowSize) [(ent, st, reason)]
  modify (fun s => s.pool cl)

/-! ### Dispatch (R349 to R351) -/

/-- Effective priority. -/
def Task.effective (t : Task) : Nat := min 3 (recPrio t.bytes + t.age)

/-- Running tasks of a kind at a place. -/
def State.runningAt (s : State) (cl kind : Nat) (p : Task → Bool) : Nat :=
  (s.cluster cl).tasks.ents.countP (fun e => e.2.st == .running && recKind e.2.bytes == kind && p e.2)

/-- The engine that is free for a kind, by R350. -/
def State.freeEngine (s : State) (cl kind : Nat) : Option Nat :=
  match kind with
  | 0 => (List.range 64).find? (fun c =>
      let g := cl * 64 + c
      let k := s.core g
      !k.freeAccs.isEmpty && k.tileq.isEmpty && !k.halted && !s.inTransit g)
  | 1 => (List.range 8).find? (fun i => decide (s.runningAt cl 1 (fun t => t.place == i) < 4))
  | 2 => if s.runningAt cl 2 (fun _ => true) < 4 then some 0 else none
  | 3 => s.freeQry cl
  | 4 => some 0
  | _ => s.freeTrk cl

/-- The record to dispatch among kinds: the highest effective priority of those whose kind has a free engine, the earliest accepted
among equals. -/
def State.nextTask (s : State) (cl : Nat) (kinds : List Nat) : Option (Nat × Nat) :=
  let free := (List.range 6).map (fun k => if kinds.contains k then s.freeEngine cl k else none)
  ((s.cluster cl).tasks.ents.foldl (fun (b : Option (Nat × Task × Nat)) e =>
    match (if e.2.st = .pooled then nth free (recKind e.2.bytes) none else none) with
    | none => b
    | some p =>
      match b with
      | none => some (e.1, e.2, p)
      | some (_, t, _) =>
        if t.effective < e.2.effective ∨ (t.effective = e.2.effective ∧ e.2.seq < t.seq) then some (e.1, e.2, p) else b)
    none).map (fun x => (x.1, x.2.2))

/-- The Herder as an engine for a record (KIND 5 of spec/05_ordering.md R139). -/
def Task.eng (t : Task) (cl : Nat) : Eng := { g := t.g, kind := 5, src := cl, ident := t.ident, satp := t.satp, cls := t.cls }

/-- What a record gives the query or frontier launch that it starts. -/
def Task.party (t : Task) : FntParty :=
  { ident := t.ident, satp := t.satp, cls := t.cls, launch := t.launch, g := t.g, weight := t.weight }

/-- A record starts on its engine. -/
def State.startTask (s : State) (cl ent place : Nat) : State :=
  s.tock.modTask cl ent (fun t => { t with st := .running, place := place, since := s.tick + 1 })

/-- What fails a record at dispatch: a reason of R355, and the poisoned block that was read. -/
abbrev TaskBad := Nat × Option Nat

/-- A read of the Herder for a record: the bytes, or what fails the task (R345). -/
def taskRead (t : Task) (cl va n : Nat) : EM (Except TaskBad (List Byte)) := fun s =>
  match readE (t.eng cl) va n s with
  | .ok bs s => .ok (.ok bs) s
  | .error .later s => .error .later s
  | .error .page s => .ok (.error (1, none)) s
  | .error f s => .ok (.error (2, f.block)) s

/-- The failure of a read. -/
def failOf {α : Type} (r : Except TaskBad α) : List TaskBad :=
  match r with
  | .error x => [x]
  | .ok _ => []

/-- The lowest reason of those that apply (R527). -/
def lowestBad : List TaskBad → Option TaskBad
  | [] => none
  | x :: xs =>
    match lowestBad xs with
    | none => some x
    | some y => if y.1 < x.1 then some y else some x

/-- A record that a dispatch refuses fails. -/
def refuseTask (cl ent : Nat) (x : TaskBad) : EM Unit := do
  modify (fun s => s.modTask cl ent (fun t => { t with bad := x.2 }))
  killTask cl ent .failed x.1

/-- A completion signal that a task's block or descriptor names, probed as a store by the Herder; the reason that fails the
task where the probe fails (R355; spec/15_frontier.md R409; spec/16_beam.md R442). -/
def taskProbe (t : Task) (cl sig : Nat) : EM (Option Nat) := fun s =>
  if sig = 0 ∨ sig % 8 ≠ 0 then .ok none s
  else
    match s.engTarget (t.eng cl) .store sig 8 with
    | (s, .ok _) => .ok none s
    | (s, .error .later) => .error .later s
    | (s, .error .page) => .ok (some 1) s
    | (s, .error _) => .ok (some 2) s

/-- A tile task (R342): its operands are checked, it holds an accumulator, its operations enter the queue. -/
def startTile (cl ent core_ : Nat) : EM Unit := do
  let s ← get
  let t := s.task cl ent
  let g := cl * 64 + core_
  let k := s.core g
  let p := k.freeAccs.headD 0
  let ops := payOps t.bytes t.g p ((k.acc p).gen + 1) ent t.ident t.launch
  let opnds := ops.flatMap (·.operands)
  if opnds.any (fun o => !o.spanOk t.g) then killTask cl ent .failed 2
  else
    let perms := opnds.map (s.operandPermit t.ident)
    if perms.any (fun x => match x with
        | .no => true
        | _ => false) then killTask cl ent .failed 2
    else if perms.any (fun x => match x with
        | .busy => true
        | _ => false) then later
    else
      modify (fun s => ((s.startTask cl ent core_).modTask cl ent (fun t => { t with acc := p })).modCore g (fun k =>
        { k.setAcc p ((k.acc p).bind .taskHeld) with tileq := k.tileq ++ ops }))

/-- A reason without an address, where a condition holds. -/
def badIf (p : Bool) (r : Nat) : List TaskBad := if p then [(r, none)] else []

/-- A beam query task (R345): the block is read and checked, the lowest reason that applies fails it (R527), the record's weight
passes to the query. -/
def startBeam (cl ent k : Nat) : EM Unit := do
  let t := (← get).task cl ent
  let a := numAt t.bytes 0x50 8
  let r ← taskRead t cl a 128
  let bs := match r with
    | .ok bs => bs
    | .error _ => []
  let p ← if bs.isEmpty then pure none else taskProbe t cl (blkSig bs)
  let refused := (blkRefusal bs).isSome || (numAt bs 0x74 1 != 0 && decide (4096 ≤ t.launch))
  match lowestBad (badIf (a % 128 != 0) 2 ++ failOf r ++ p.toList.map (·, none) ++ badIf (!bs.isEmpty && refused) 7) with
  | some x => refuseTask cl ent x
  | none => modify (fun s => (s.startTask cl ent k).startQry cl k bs a t.party (some ent))

/-- A frontier launch task (R345; spec/15_frontier.md R409): the lowest reason that applies fails it (R527); it is Done once the
frontier launch is accepted. -/
def startFnt (cl ent : Nat) : EM Unit := do
  let t := (← get).task cl ent
  let a := numAt t.bytes 0x50 8
  let r ← taskRead t cl a 64
  let misplaced := badIf (a % 64 != 0) 2
  match r with
  | .error x => refuseTask cl ent ((lowestBad (misplaced ++ [x])).getD x)
  | .ok bs =>
    let d := fntDesc bs
    let r ← taskRead t cl d.khdr 96
    let hb := match r with
      | .ok hb => hb
      | .error _ => []
    let p ← taskProbe t cl d.sig
    let s ← get
    let hd := if hb.isEmpty then none else headerOf d.khdr hb
    match lowestBad (misplaced ++ failOf r ++ p.toList.map (·, none) ++ badIf (s.fntRefusal d hd t.launch).isSome 7), hd with
    | none, some h =>
      modify (fun s => s.startTask cl ent 0)
      let _ ← fntAccept d h {} t.party
      modify (fun s => s.taskDone cl ent)
    | bad, _ => refuseTask cl ent (bad.getD (7, none))

/-- A record starts on an engine of its kind, or fails there; none while an access that this takes cannot be served. -/
def State.startRecord (s : State) (cl ent place : Nat) : Option State :=
  match recKind (s.task cl ent).bytes with
  | 0 => stepE (startTile cl ent place) s
  | 3 => stepE (startBeam cl ent place) s
  | 4 => some ((s.startTask cl ent 0).taskDone cl ent)
  | 5 => stepE (startFnt cl ent) s
  | _ => some (s.startTask cl ent place)

/-- The next record started among n kinds: one whose start must wait holds back those of its kind alone (R351). -/
def State.dispatch (s : State) (cl : Nat) : Nat → List Nat → Option State
  | 0, _ => none
  | n + 1, kinds =>
    match s.nextTask cl kinds with
    | none => none
    | some (ent, place) =>
      match s.startRecord cl ent place with
      | some s => some s
      | none => s.dispatch cl n (kinds.filter (· ≠ recKind (s.task cl ent).bytes))

/-- HERDER_DISPATCH: a pooled record starts on a free engine of its kind. -/
def execHerderDispatch (cl : Nat) (s : State) : Out :=
  event (fun s => (s.dispatch cl 6 (List.range 6)).map (fun x => x.pool cl)) s

/-- PRIORITY_AGING: a pooled record has spent another 1,024 core cycles in the pool (R351). -/
def execPriorityAging (cl ent : Nat) (s : State) : Out :=
  event (fun s =>
    let t := s.task cl ent
    if t.st ≠ .pooled ∨ t.effective ≥ 3 then none else some (s.modTask cl ent (fun t => { t with age := t.age + 1 }))) s

/-! ### Spawn and transfer tasks (R343, R344) -/

/-- SPAWN_CHILD_SEND: the spawn unit creates and sends the next child. -/
def execSpawnChildSend (cl ent : Nat) (s : State) : Out :=
  event (fun s =>
    let t := s.task cl ent
    let b := t.bytes
    let n := recN b
    if t.st ≠ .running ∨ recKind b ≠ 2 ∨ n ≤ t.sent then none
    else
      let a0 := w64 (numAt b 0x58 8 + t.sent * numAt b 0x60 8)
      let w := t.weight / n + (if t.sent + 1 = n then t.weight % n else 0)
      let r : LightRec := { pc := numAt b 0x50 8 % 2 ^ 48, lslot := t.launch % 4096, rx := false, fp := false, bh := false, bad := false,
                            weight := w, a := [a0, w64 (numAt b 0x68 8), w64 (numAt b 0x70 8), 0#64, 0#64, 0#64] }
      let g := match (if numAt b 0x7C 4 = 1 then ownerOf t.g a0.toNat else none) with
        | some g => g
        | none => s.fewest (spawnSrc cl ent) (coresOf cl)
      some ((s.sendRecord g (spawnSrc cl ent) r).modTask cl ent (fun t => { t with sent := t.sent + 1 }))) s

/-- TRANSFER_TASK_PIECE_CUT: the coordinating Retriever cuts and sends the next piece of a transfer task. -/
def execTransferTaskPieceCut (cl ent : Nat) (s : State) : Out :=
  event (fun s =>
    let t := s.task cl ent
    let b := t.bytes
    if t.st ≠ .running ∨ recKind b ≠ 1 ∨ (s.cluster cl).engFail.any (fun x => x.1 == ent) then none
    else
      ((xferPieces b)[t.sent]?).map (fun x =>
        let p : Piece := { owner := .task cl ent, read := w64 x.1, write := w64 x.2.1, len := x.2.2, near := x.1, ident := t.ident,
                           satp := t.satp, cls := t.cls, launch := t.launch, mask := 0, get := true, first := t.sent == 0, req := 0,
                           since := t.since }
        (s.modCore t.g (fun k => { k with pieces := k.pieces ++ [p] })).modTask cl ent (fun t => { t with sent := t.sent + 1 }))) s

/-! ### Completion (R352 to R354) -/

/-- TASK_ENGINE_FINISH: the engine of a running record finishes, and the record is Done. -/
def execTaskEngineFinish (cl ent : Nat) (s : State) : Out :=
  event (fun s =>
    let t := s.task cl ent
    if t.st ≠ .running ∨ !s.engineDone cl ent then none
    else some (s.engineEnds cl ent)) s

/-- TASK_ENGINE_FAILURE: the engine of a running record reports a failure; a report on a record that runs no more is
dropped. -/
def execTaskEngineFailure (cl ent : Nat) (s : State) : Out :=
  event (fun s =>
    match (s.cluster cl).engFail.find? (fun x => x.1 == ent) with
    | none => none
    | some (_, r) =>
      let s := s.modCluster cl (fun c => { c with engFail := c.engFail.filter (fun x => x.1 != ent) })
      if (s.task cl ent).st = .running then stepE (killTask cl ent .failed r) s else some s) s

/-- Weight that a record returns as it ends: what has not passed on to children, to a query or to a frontier launch (R353). -/
def Task.returns (t : Task) : Nat :=
  if t.lostW then 0
  else
    match recKind t.bytes with
    | 2 => if t.st = .done then 0 else t.weight - t.passed
    | 3 | 5 => if t.place = windowSize then t.weight else 0
    | _ => t.weight

/-- The slots that wait in tsk.fence for a record learn that it failed (R364). -/
def State.tellFences (s : State) (cl : Nat) (t : Task) : State :=
  { s with slots := s.slots.map (fun h x =>
      match x.wait, x.ctx with
      | some m, some c =>
        if m.kind = .fence ∧ h / 512 = cl ∧ c.asid = t.ident.asid ∧ t.seq < m.a ∧ (m.b % 128 = 64 ∨ m.b % 128 = recStream t.bytes) then
          { x with wait := some { m with b := m.b % 128 + 128 } }
        else x
      | _, _ => x) }

/-- The end of a record's life: its signal, its weight, its window entry (R352, R353). -/
def retireTask (cl ent : Nat) : EM Unit := do
  let t := (← get).task cl ent
  let r ← if t.noSig then pure SigRes.done
          else signalE (t.eng cl) (recSig t.bytes) t.launch (if t.st = .done then decSignal else orSignal)
  -- a Done record whose signal write fails is Failed with reason 4, and what depends on it is cancelled (R352, R354)
  if t.st = .done ∧ r = .failed then
    modify (fun s => (s.modTask cl ent (fun t => { t with st := .failed, reason := 4 })).modStream cl (recStream t.bytes)
      (fun x => { x with fail := true, reason := 4 }))
    endTasks cl (windowSize * windowSize) ((← get).dependants cl ent)
    modify (fun s => s.pool cl)
  else pure ()
  modify (fun s =>
    let s := if t.st = .done ∨ t.place = windowSize then s else s.freeTaskAcc cl t
    let n := t.returns
    let s := if n = 0 then s else s.giveBack t.launch n
    let s := s.modCluster cl (fun c => { c with tasks := c.tasks.map (fun _ t => { t with after := t.after.filter (· ≠ ent) }) })
    let s := s.modTask cl ent (fun t => { t with retired := true, preds := [], after := [] })
    let s := if (s.task cl ent).st = .done then s else s.tellFences cl t
    if s.streamCount cl (recStream t.bytes) = 0 then s.modStream cl (recStream t.bytes) (fun x => { x with asid := 0 }) else s)

/-- TASK_RETIRE: a record that is Done, Failed or Cancelled, and whose last piece and operation are over, performs its signal
and returns its weight. -/
def execTaskRetire (cl ent : Nat) (s : State) : Out :=
  event (fun s =>
    let t := s.task cl ent
    if t.retired ∨ t.live ∨ t.st = .free ∨ s.taskPieces cl ent ∨ (recKind t.bytes = 0 ∧ t.place ≠ windowSize ∧ s.taskOpsLeft cl ent t.place) then none
    else stepE (retireTask cl ent) s) s

/-! ### tsk.put (R361) -/

/-- The lowest refusal reason of a record for a thread of an address space. -/
def State.recRefusal (s : State) (cl asid : Nat) (b : List Byte) (fps : List (Nat × Nat × Nat)) : Option Nat :=
  let n := recStream b
  if recReserved b then some 1
  else if fps.any (fun f => 2 ^ 48 < f.1 + f.2.1) then some 2
  else if recSig b % 8 ≠ 0 then some 3
  else if s.streamCount cl n ≠ 0 ∧ (s.stream cl n).asid ≠ asid then some 4
  else if (s.stream cl n).stopped then some 5
  else if recPayloadBad b then some 6
  else none

/-- The lowest free window entry. -/
def State.freeEntry (s : State) (cl : Nat) : Option Nat := (List.range windowSize).find? (fun e => !(s.task cl e).held)

/-- The handle of a record (R360). -/
def Task.handle (t : Task) (cl ent : Nat) : Nat := ent + t.seq % 2 ^ 32 * 2 ^ 9 + cl * 2 ^ 41

/-- A record accepted into an entry. -/
def State.putTask (s : State) (cl ent : Nat) (b : List Byte) (fps : List (Nat × Nat × Nat)) (p : FntParty) : State :=
  let n := recStream b
  let es := s.edges cl n fps
  let t : Task := { st := .blocked, seq := (s.cluster cl).taskSeq, bytes := b, fps := fps, preds := es, after := es, ident := p.ident,
                    satp := p.satp, cls := p.cls, launch := p.launch, g := p.g, weight := p.weight, place := windowSize }
  let s := s.modCluster cl (fun c => { c with
    taskSeq := c.taskSeq + 1
    engHome := c.engHome.filter (fun x => x.1 != ent)
    engFail := c.engFail.filter (fun x => x.1 != ent)
    engDone := c.engDone.filter (· ≠ ent) })
  let s := (s.modTask cl ent (fun _ => t)).modStream cl n (fun x => { x with asid := p.ident.asid })
  let s := if recKind b = 2 then s.discardLaunchImage (t.eng cl) p.launch cl else s
  (if es.isEmpty then s.ready cl ent else s).pool cl

/-- TSK_PUT. -/
def execTskPut (a d : BitVec 5) (s : State) : Out :=
  runThread (do
    let va ← getX a
    orTrap (va.toNat % 64 = 0) 4 va
    waitVecMem
    let b ← loadBytes va 128
    let c ← ctx
    let w := c.uweight.toNat / 2
    orTrap (decide (2 ≤ c.uweight.toNat)) 29 c.uweight
    orTrap (recKind b != 2 || decide (recN b ≤ w)) 29 c.uweight
    orTrap (recKind b != 2 || decide (c.ulaunch.toNat < 4096)) 30 5#64
    probeSig (recSig b)
    let s ← get
    let cl := s.cur.cl
    let fps := footprints b s.cur.core
    match s.recRefusal cl c.asid b fps with
    | some r => refusal d r
    | none =>
      match s.freeEntry cl with
      | none => wait
      | some ent =>
        release 2
        let c ← ctx
        let s ← get
        let p : FntParty := { ident := identOf c c.priv s.cur, satp := c.satp, cls := recClass b c.scos, launch := wfld c.ulaunch 15 0,
                              g := s.cur.gcore, weight := w }
        upd (fun s => s.putTask cl ent b fps p)
        let h := ({ seq := (s.cluster cl).taskSeq } : Task).handle cl ent
        modCtx (fun c => { c with uweight := c.uweight - w64 w }.setX d.toNat (w64 h))) s

/-! ### tsk.wait, tsk.poll, tsk.cancel (R360, R362, R363) -/

/-- The entry that a handle names for a thread of an address space; none where it is gone. -/
def State.taskOf (s : State) (asid : Nat) (h : Word) : Option (Nat × Nat) :=
  let cl := wfld h 46 41
  let ent := wfld h 8 0
  let t := s.task cl ent
  if wfld h 63 47 = 0 ∧ t.st ≠ .free ∧ t.seq % 2 ^ 32 = wfld h 40 9 ∧ t.ident.asid = asid then some (cl, ent) else none

/-- The status word. -/
def Task.word (t : Task) : Word :=
  match t.st with
  | .done => 0#64
  | .failed => w64 (1 + t.reason * 2 ^ 8)
  | .cancelled => w64 (2 + t.reason * 2 ^ 8)
  | .free => 3#64
  | .blocked | .ready => 4#64
  | .pooled => 5#64
  | .running => 6#64

/-- The report on a handle; Done acquires at device scope. -/
def tskReport (d : BitVec 5) (h : Word) : M Unit := do
  let s ← get
  match s.taskOf (← ctx).asid h with
  | none => setX d 3#64
  | some (cl, ent) =>
    let t := s.task cl ent
    if t.st = .done then acquire else pure ()
    setX d t.word

/-- TSK_POLL. -/
def execTskPoll (a d : BitVec 5) (s : State) : Out := runThread (do tskReport d (← getX a)) s

/-- TSK_WAIT. -/
def execTskWait (a d : BitVec 5) (s : State) : Out :=
  runThread (do
    let h ← getX a
    let s ← get
    match s.taskOf (← ctx).asid h with
    | none => tskReport d h
    | some (cl, ent) =>
      waitUnless (!(s.task cl ent).live)
      tskReport d h) s

/-- TSK_CANCEL. The mark says that this instruction has cancelled the record; one whose engine has finished is found Done (R354). -/
def execTskCancel (a d : BitVec 5) (s : State) : Out :=
  runThread (do
    let h ← getX a
    let s ← get
    let mine := (← waitKind) == some WaitKind.cancel
    match s.taskOf (← ctx).asid h with
    | none => setX d (if mine then 0#64 else 3#64)
    | some (cl, ent) =>
      let t := s.task cl ent
      if t.live then
        match ← runE (killTask cl ent .cancelled 9) with
        | .ok _ =>
          if ((← get).task cl ent).st = .cancelled then setWait (some { kind := .cancel }) else pure ()
          wait
        | .error _ => wait
      else
        waitUnless t.retired
        setX d (if mine then 0#64 else if t.st = .done then 1#64 else 2#64)) s

/-! ### tsk.fence, tsk.stream (R364, R365) -/

/-- TSK_FENCE. The mark holds how many records had been accepted when it issued, and whether one of those failed. -/
def execTskFence (a d : BitVec 5) (s : State) : Out :=
  runThread (do
    let sel ← getX a
    let c ← ctx
    let s ← get
    let cl := s.cur.cl
    let pick := if wbit sel 63 then 64 else wfld sel 5 0
    let m := match (← slot).wait with
      | some m => m
      | none => ({ kind := .fence, a := (s.cluster cl).taskSeq, b := pick } : WaitMark)
    let open_ := (s.cluster cl).tasks.ents.any (fun e =>
      e.2.held && e.2.ident.asid == c.asid && decide (e.2.seq < m.a) && (pick == 64 || recStream e.2.bytes == pick))
    if open_ then
      setWait (some m)
      wait
    else
      acquire
      setX d (b2w (decide (128 ≤ m.b)))) s

/-- The state word of a stream. -/
def State.streamWord (s : State) (cl n : Nat) : Word :=
  let x := s.stream cl n
  let k := s.streamCount cl n
  w64 ((if k = 0 then 0 else x.asid) * 2 ^ 48 + x.reason * 2 ^ 16 + b2n x.stopped * 2 ^ 13 + b2n x.fail * 2 ^ 12 + k)

/-- TSK_STREAM. -/
def execTskStream (b a d : BitVec 5) (s : State) : Out :=
  runThread (do
    let n := wfld (← getX a) 5 0
    let op := wfld (← getX b) 1 0
    let c ← ctx
    let s ← get
    let cl := s.cur.cl
    if s.streamCount cl n = 0 ∨ (s.stream cl n).asid = c.asid then
      upd (fun s => s.modStream cl n (fun x =>
        match op with
        | 1 => { x with fail := false }
        | 2 => { x with stopped := true }
        | 3 => { x with stopped := false }
        | _ => x))
    else pure ()
    let s ← get
    setX d (s.streamWord cl n)) s

end Sys2Proof.Machine
end

