-- ==== Sys2Proof/Machine/Kernel.lean ====
section
/-! DEFINITION. Kernels and the levels above them: the tables, descriptors, the start of units, the collector, sweeps, ends, and
the krn instructions (spec/14_kernel.md R366 to R387). -/

namespace Sys2Proof.Machine

open Sys2Proof

/-! ### Descriptors (R367 to R370, R384) -/

/-- The first number from i on, among n, that satisfies a test. -/
def findFrom (p : Nat → Bool) : Nat → Nat → Option Nat
  | 0, _ => none
  | n + 1, i => if p i then some i else findFrom p n (i + 1)

/-- LEVEL of a descriptor. -/
def dscLevel (d : List Byte) : Nat := fld (numAt d 0 1) 1 0
/-- The launch is light. -/
def dscLight (d : List Byte) : Bool := (numAt d 1 1).testBit 0
/-- The launch will hold light threads. -/
def dscLT (d : List Byte) : Bool := (numAt d 1 1).testBit 1 || dscLight d
def dscSig (d : List Byte) : Nat := numAt d 8 8
def dscCount (d : List Byte) : Nat := numAt d 0x10 4
def dscCmask (d : List Byte) : Nat := numAt d 0x40 8

/-- The table key of the parent that a descriptor names. -/
def dscParent (d : List Byte) : Option Nat :=
  let p := numAt d 4 4
  if p.testBit 31 then some (workKey (dscLevel d + 1) (fld p 15 0)) else none

/-- A slot of a level is Free. -/
def State.slotFree (s : State) (level i : Nat) : Bool := (s.workAt (workKey level i)).st == .free

/-- The slot that a descriptor takes (R368). -/
def State.chooseSlot (s : State) (level : Nat) (lt : Bool) : Option Nat :=
  let low := findFrom (s.slotFree level) 4096 0
  if level ≠ 0 then findFrom (s.slotFree level) (levelSlots level) 0
  else if lt then low
  else (findFrom (s.slotFree 0) (65536 - 4096) 4096).or low

/-- A reserved byte or bit of a descriptor is not zero (reason 1). -/
def dscReserved (d : List Byte) : Bool :=
  decide (4 ≤ numAt d 0 1) || decide (4 ≤ numAt d 1 1) || numAt d 2 2 != 0 || fld (numAt d 4 4) 30 16 != 0 || numAt d 0x14 4 != 0
    || (if dscLevel d = 0 then decide (2 ^ 40 ≤ dscCmask d) || !allZero (d.drop 0x4D)
        else numAt d 1 1 != 0 || !allZero (d.drop 0x18))

/-- The parent of a descriptor can take no child of an address space (reason 3). -/
def State.parentBad (s : State) (d : List Byte) (asid : Nat) : Bool :=
  match dscParent d with
  | none => false
  | some k =>
    let w := s.workAt k
    dscLevel d == 3 || decide (levelSlots (dscLevel d + 1) ≤ fld (numAt d 4 4) 15 0) || w.st != .running || w.asid != asid
      || decide (w.count ≤ w.accepted)

/-- A count or a mask of a descriptor is out of range (reason 4). -/
def dscRange (d : List Byte) : Bool :=
  dscCount d == 0 ||
    (if dscLevel d = 0 then
      dscCmask d % 2 ^ 40 == 0 ||
        (!dscLight d && (numAt d 0x48 2 == 0 || decide (512 < numAt d 0x48 2) || decide (16 < numAt d 0x4A 1) || decide (64 < numAt d 0x4B 1)))
     else decide (65535 < dscCount d))

/-- The lowest refusal reason of a descriptor (R384). -/
def State.krnRefusal (s : State) (d : List Byte) (asid : Nat) : Option Nat :=
  if dscReserved d then some 1
  else if (s.chooseSlot (dscLevel d) (dscLT d)).isNone then some 2
  else if s.parentBad d asid then some 3
  else if dscRange d then some 4
  else if dscSig d % 8 ≠ 0 then some 5
  else none

/-- A descriptor accepted: the entry it takes, and the state (R368, R370, R372). -/
def State.acceptWork (s : State) (d : List Byte) (ident : Ident) (satp : Word) (g : Nat) (tag : Option Nat) : State × Nat :=
  let l := dscLevel d
  let k := workKey l ((s.chooseSlot l (dscLT d)).getD 0)
  let s := match dscParent d with
    | some p => s.modWork p (fun w => { w with accepted := w.accepted + 1 })
    | none => s
  (s.modWork k (fun w =>
    { st := if l = 0 then .starting else .running, gen := w.gen + 1, asid := ident.asid, satp := satp, ident := ident, g := g,
      parent := dscParent d, sig := dscSig d, count := dscCount d, light := dscLight d, khdr := numAt d 0x18 8,
      a0base := numAt d 0x20 8, a0step := numAt d 0x28 8, a1 := w64 (numAt d 0x30 8), a2 := w64 (numAt d 0x38 8),
      cmask := dscCmask d, gsize := numAt d 0x48 2, segs := numAt d 0x4A 1, barn := numAt d 0x4B 1, key := numAt d 0x4C 1,
      issued := 2 ^ 63, rot := (clustersOf (dscCmask d)).headD 0, tag := tag }), k)

/-! ### Ends (R379, R381, R382) -/

/-- The dispatch core as an engine for a launch or level. -/
def Work.eng (w : Work) : Eng := { g := w.g, kind := 5, src := w.g / 64, ident := w.ident, satp := w.satp }

/-- Clusters that hold a group of a launch are told of its end (spec/11_group.md R308). -/
def State.noticeEnd (s : State) (k : Nat) : State :=
  let cls := (s.clusters.ents.filter (fun e => e.2.groups.ents.any (fun g => g.2.st != 0 && g.2.launch == k))).map (·.1)
  { s with ends := s.ends ++ cls.map (fun c => (c, k)) }

/-- The children of a level. -/
def State.children (s : State) (k : Nat) : List Nat := (s.work.ents.filter (fun e => e.2.parent == some k)).map (·.1)

/-- A launch or level is sent to Sweeping with a cause; a level takes its descendants with it, with cause 5 (R382). -/
def sweepWork : Nat → Nat → Nat → State → State
  | 0, _, _, s => s
  | n + 1, k, cause, s =>
    let w := s.workAt k
    if w.st ≠ .starting ∧ w.st ≠ .running then s
    else
      let s := s.setWork k { w with st := .sweeping, cause := cause, swept := false }
      if k < 2 ^ 16 then s else (s.children k).foldl (fun s c => sweepWork n c 5 s) s

/-- A launch or level cancelled or failed. -/
def State.sweepAt (s : State) (k cause : Nat) : State := sweepWork 4 k cause s

/-- A queue command or agent record has failed: ERR, and with STOPERR an Active queue stops (spec/17_queue.md R453, R459). -/
def State.queueFail (s : State) (q err : Nat) : State :=
  { s with queues := s.queues.put q (
      let x := s.queues.get {} q
      { x with err := err, st := if x.stoperr ∧ x.st = 1 then 2 else x.st }) }

/-- The LAUNCH command of a launch or level is told of its end (spec/17_queue.md R453). -/
def State.tellCmds (s : State) (k : Nat) (ok : Bool) : State :=
  let mine (c : Cmd) : Bool := c.work == some (k, (s.workAt k).gen) && c.result.isNone
  let qs := (s.cmds.filter mine).map (·.q)
  let s := { s with cmds := s.cmds.map (fun c => if mine c then { c with result := some (if ok then 0 else 5) } else c) }
  if ok then s else qs.foldl (fun s q => s.queueFail q 5) s

/-- A launch or level ends Complete: its signal, and the count of its parent, which may complete in turn (R379, R382). -/
def completeWork : Nat → Nat → EM Unit
  | 0, _ => return ()
  | n + 1, k => do
    let w := (← get).workAt k
    let _ ← signalE w.eng w.sig k decSignal
    modify (fun s => ((s.tellCmds k true).setWork k { w with st := .free, outcome := 3 }).noticeEnd k)
    match w.parent with
    | none => return ()
    | some p => do
      modify (fun s => s.modWork p (fun x => { x with done := x.done + 1 }))
      let x := (← get).workAt p
      if x.st = .running ∧ x.count ≤ x.done then completeWork n p else return ()

/-- What becomes of a Held launch (R379). -/
def Work.settle (w : Work) : Work :=
  if w.st ≠ .held then w
  else if w.lost then { w with st := .retired }
  else if w.returned = w.issued then { w with st := .free } else w

/-- A launch or level ends Failed or Cancelled: its signal, and its parent fails with cause 10. -/
def endWork (k : Nat) : EM Unit := do
  let w := (← get).workAt k
  let _ ← signalE w.eng w.sig k orSignal
  let w := { w with outcome := if w.cause = 4 ∨ w.cause = 5 then 5 else 4 }
  modify (fun s =>
    let s := s.tellCmds k false
    let s := s.setWork k (if k < 2 ^ 16 then { w with st := .held }.settle else { w with st := .free })
    let s := s.noticeEnd k
    match w.parent with
    | some p => s.sweepAt p 10
    | none => s)

/-! ### The collector (R372, R376, R379) -/

/-- A hart that waits in krn.borrow is answered. -/
def State.answerBorrow (s : State) (h : Hart) : State :=
  s.modSlot h (fun t => { t with wait := t.wait.map (fun w => if w.kind = .borrow then { w with kind := .borrowed } else w) })

/-- The collector after a return. -/
def collect (k : Nat) : EM Unit := do
  let w := (← get).workAt k
  match w.st with
  | .running =>
    if w.returned = w.issued then completeWork 4 k
    else if w.issued < w.returned then modify (fun s => s.sweepAt k 8)
    else return ()
  | .held => modify (fun s => s.modWork k Work.settle)
  | _ => return ()

/-- COLLECTOR_WEIGHT_MESSAGE: the oldest weight message reaches its collector and is added to issued or to returned. -/
def execCollectorWeightMessage (s : State) : Out :=
  event (fun s =>
    match s.wmsgs with
    | [] => none
    | m :: rest =>
      let s := { s with wmsgs := rest }
      let w := s.workAt m.slot
      let here := w.gen == m.gen && w.st != .free && w.st != .retired
      match m.borrow with
      | some h => some ((if here then s.modWork m.slot (fun w => { w with issued := w.issued + m.amount }) else s).answerBorrow h)
      | none =>
        if !here then some s
        else stepE (collect m.slot) (s.modWork m.slot (fun w => { w with returned := w.returned + m.amount }))) s

/-! ### Starting (R371 to R374) -/

/-- LAUNCH_HEADER_CHECK: a Starting launch reads its kernel header and has it checked; it starts, or sweeps. -/
def execLaunchHeaderCheck (slot : Nat) (s : State) : Out :=
  event (fun s =>
    let w := s.workAt slot
    if w.st ≠ .starting ∨ 2 ^ 16 ≤ slot then none
    else
      match readE w.eng w.khdr 96 s with
      | .error .later _ => none
      | .error _ s => some (s.sweepAt slot 1)
      | .ok bs s =>
        match headerOf w.khdr bs with
        | none => some (s.sweepAt slot 1)
        | some h =>
          if h.kind ≠ (if w.light then 1 else 0) then some (s.sweepAt slot 2)
          else
            some ((s.discardImage w.eng (clustersOf w.cmask) h.imgLo h.imgLen).modWork slot (fun w =>
              { w with st := .running, entry := h.entry.toNat, imgLo := h.imgLo, imgLen := h.imgLen }))) s

/-- Weight of unit i (R372). -/
def Work.unitWeight (w : Work) (i : Nat) : Nat := 2 ^ 63 / w.count + (if i = 0 then 2 ^ 63 % w.count else 0)
/-- a0 of unit i (R369). -/
def Work.unitA0 (w : Work) (i : Nat) : Word := w64 (w.a0base + i * w.a0step)

/-- The context of unit i of a heavy launch, in a group (R372). -/
def Work.unitCtx (w : Work) (slot i grp cid : Nat) : Ctx :=
  { cid := cid, pc := w64 w.entry
    x := [(10, w.unitA0 i), (11, w.a1), (12, w.a2), (13, w64 i)].foldl (fun t p => t.put p.1 p.2) Tab.empty
    uweight := w64 (w.unitWeight i), ulaunch := w64 slot, satp := w.satp, svault := w64 (w.key % 256 * 256 + 2 ^ 7 + grp) }

/-- Units of group j, and the units of it on core rank c. -/
def Work.groupUnits (w : Work) (j : Nat) : Nat := min w.gsize (w.count - j * w.gsize)
def unitsOn (n c : Nat) : Nat := (n + 63 - c) / 64

/-- Free Kennel entries of a core, lowest first. -/
def Core.freeKens (k : Core) : List Nat := (List.range 32).filter (fun i => (k.ken i).st == .empty)

/-- Segments of a core that no group owns, lowest first. -/
def Cluster.freeSegsOf (c : Cluster) (core_ : Nat) : List Nat :=
  (List.range 16).filter (fun i => let x := c.seg core_ i; !wbit x.val 6 && x.next.isNone)

/-- A barrier is free for a new group: it is Free, and in no group's range. -/
def Cluster.barFree (c : Cluster) (p : Nat) : Bool :=
  (c.bar p).st == 0 && !c.groups.ents.any (fun e => e.2.st != 0 && e.2.holds p)

/-- The lowest run of n free barriers. -/
def Cluster.barRun (c : Cluster) (n : Nat) : Option Nat :=
  if n = 0 then some 0
  else (List.range 64).find? (fun b => decide (b + n ≤ 64) && (List.range n).all (fun i => c.barFree (b + i)))

/-- A unit placed as a ready Kennel entry. -/
def State.placeUnit (s : State) (cl slot grp base k : Nat) : State :=
  let w := s.workAt slot
  let g := cl * 64 + k % 64
  let i := base + k
  let (cid, s) := s.newCid
  match (s.core g).freeKens with
  | [] => s
  | e :: _ =>
    (s.modCore g (fun c => c.setKen e { st := .ready, ctx := some (w.unitCtx slot i grp cid), since := s.tick })).tock

/-- The firmware of a cluster takes a group: its entry, barriers, segments and Kennel entries; none where it declines (R373). -/
def State.placeGroup (s : State) (cl slot j : Nat) : Option State :=
  let w := s.workAt slot
  let n := w.groupUnits j
  let m := min n 64
  let c := s.cluster cl
  match (List.range 64).find? (fun g => (c.group g).st == 0), c.barRun w.barn with
  | some grp, some b =>
    if (List.range m).any (fun r => decide ((c.freeSegsOf r).length < w.segs)
        || decide ((s.core (cl * 64 + r)).freeKens.length < unitsOn n r)) then none
    else
      let s := s.modCluster cl (fun c => c.setGroup grp
        { cores := 2 ^ m - 1, barn := w.barn, barb := b, launch := slot, asid := w.asid, st := 2 })
      let s := (List.range m).foldl (fun s r =>
        ((c.freeSegsOf r).take w.segs).foldl (fun s i =>
          (s.zeroSeg (cl * 64 + r) i).modCluster cl (·.setSeg r i { val := w64 (w.asid * 2 ^ 16 + 2 ^ 6 + grp) })) s) s
      some ((List.range n).foldl (fun s k => s.placeUnit cl slot grp (j * w.gsize) k) s)
  | _, _ => none

/-- Clusters of a mask in rotation from one of them. -/
def rotation (mask start : Nat) : List Nat :=
  let l := clustersOf mask
  l.filter (fun k => decide (start ≤ k)) ++ l.filter (fun k => decide (k < start))

/-- The cluster of a mask after another. -/
def nextCluster (mask k : Nat) : Nat := (rotation mask (k + 1)).headD k

/-- A group offered round from a cluster on: the state once a cluster has taken it; none where every cluster declines. The group after
it is offered first to the cluster after that one, so the rotation of the launch moves only with the last group offered; a group
whose predecessor still waits starts where that one did, which R373 leaves open (DESIGN CHOICE, log entry 50). -/
def State.offerGroup (s : State) (slot j from_ : Nat) : Option State :=
  let w := s.workAt slot
  (rotation w.cmask from_).foldl (fun r cl =>
    match r with
    | some s => some s
    | none => (s.placeGroup cl slot j).map (fun s =>
        s.modWork slot (fun w => { w with rot := if w.next ≤ j + 1 then nextCluster w.cmask cl else w.rot
                                          accepted := w.accepted + 1 }))) none

/-- GROUP_OFFER: the next group of a heavy launch is offered to the clusters of CMASK in rotation; one that all decline
waits. -/
def execGroupOffer (slot : Nat) (s : State) : Out :=
  event (fun s =>
    let w := s.workAt slot
    if w.st ≠ .running ∨ 2 ^ 16 ≤ slot ∨ w.light ∨ w.count ≤ w.next * w.gsize then none
    else
      let j := w.next
      some (((s.offerGroup slot j w.rot).getD (s.modWork slot (fun w => { w with waiting := w.waiting ++ [(j, w.rot)] }))).modWork slot
        (fun w => { w with next := j + 1 }))) s

/-- GROUP_REOFFER: the first waiting group that a cluster takes now, in the group's own rotation, is placed. -/
def execGroupReoffer (slot : Nat) (s : State) : Out :=
  event (fun s =>
    let w := s.workAt slot
    if w.st ≠ .running ∨ 2 ^ 16 ≤ slot then none
    else
      w.waiting.foldl (fun r j =>
        match r with
        | some s => some s
        | none => (s.offerGroup slot j.1 j.2).map (fun s => s.modWork slot (fun w => { w with waiting := w.waiting.filter (· ≠ j) }))) none) s

/-- The core that a unit's record goes to (R374). -/
def State.unitDest (s : State) (w : Work) (a0 : Nat) : Nat :=
  let cls := clustersOf w.cmask
  let owner := match winOf a0 with
    | some (.own _) => none
    | _ => ownerOf (cls.headD 0 * 64) a0
  match owner.filter (fun g => cls.contains (g / 64)) with
  | some g => g
  | none => s.fewest .dispatch (cls.flatMap coresOf)

/-- LIGHT_UNIT_SEND: the dispatch core sends the record of the next unit of a light launch. -/
def execLightUnitSend (slot : Nat) (s : State) : Out :=
  event (fun s =>
    let w := s.workAt slot
    if w.st ≠ .running ∨ 2 ^ 16 ≤ slot ∨ !w.light ∨ w.count ≤ w.next then none
    else
      let i := w.next
      let r : LightRec := { pc := w.entry % 2 ^ 48, lslot := slot, rx := false, fp := false, bh := false, bad := false,
                            weight := w.unitWeight i, a := [w.unitA0 i, w.a1, w.a2, w64 i, 0#64, 0#64] }
      some ((s.sendRecord (s.unitDest w (w.unitA0 i).toNat) .dispatch r).modWork slot (fun w => { w with next := i + 1 }))) s

/-! ### The sweep (R380) -/

/-- The context belongs to a launch. -/
def Ctx.ofLaunch (c : Ctx) (k : Nat) : Bool := wfld c.ulaunch 15 0 == k

/-- A hart that no slot has. -/
def noHart : Hart := 20480

/-- A woken cell's record that was refused is back in its cell as its thread is discarded; where the cell is no longer empty, it is on
its way to the cell's core again (spec/11_group.md R317; DEDUCED, log entry 24). -/
def State.restoreCell (s : State) (h : Hart) (m : WaitMark) : State :=
  let t : Target := { a := m.a, sram := isSram m.a, attr := m.attr }
  let e : Eng := { g := h.gcore, kind := 0, src := h.gcore, slot := h.slot, ident := {}, satp := 0#64 }
  let back := if s.peek8 h.cl t = 0 then s.engPut e t m.cell [] else (s, .error .later)
  match back with
  | (s, .ok _) => s
  | (_, .error _) => s.sendRecord (if rangeOf m.a = .scratch then (scratchAt m.a).1 else h.gcore) .intake (lightOf m.cell)

/-- The context of a slot discarded with the weight it still holds. A record that it has sent counts with it: a spawned child's
weight or its own thread's, once taken, has left the context; one on its way is dropped with it; a woken cell's record goes on
without it. A borrow under way is performed and counts (R380, R387). -/
def State.discardSlot (s : State) (h : Hart) : State :=
  match (s.slot h).ctx with
  | none => s
  | some c =>
    let u := c.uweight.toNat
    let (s, left) : State × Nat := match (s.slot h).wait with
      | none => (s, u)
      | some m =>
        match m.kind with
        | .recordSent =>
          if m.b ≥ 2 then
            ({ s with recs := s.recs.map (fun (x : Nat × RecSource × LightRec) => if x.2.1 = RecSource.thread h then (x.1, RecSource.intake, x.2.2) else x) }, u)
          else ((s.pullSent (fun src _ => src == RecSource.thread h)).1, u)
        | .recordRefused => (if m.b ≥ 2 then s.restoreCell h m else s, u)
        | .recordTaken => (s, if m.b = 0 then u - u / 2 else if m.b = 1 then 0 else u)
        | .borrow =>
          ({ s with wmsgs := s.wmsgs.map (fun (x : WMsg) => if x.borrow = some h then { x with borrow := some noHart } else x) }, u + 2 ^ 32)
        | .borrowed => (s, u + 2 ^ 32)
        | _ => (s, u)
    ((s.modCore h.gcore (·.forget c)).giveBack (wfld c.ulaunch 15 0) left).vacate h

/-- The contexts of a launch in slots and Kennels are discarded, one that loads among them (spec/07_context.md R200, R201). -/
def State.sweepContexts (s : State) (k : Nat) : State :=
  let s := ((s.slots.ents.filter (fun e => (e.2.ctx.map (·.ofLaunch k)).getD false)).map (·.1)).foldl (fun s h => s.discardSlot h) s
  (s.cores.ents.map (·.1)).foldl (fun s g =>
    ((s.core g).kennel.ents).foldl (fun s e =>
      match e.2.ctx, s.kenOwner g e.1 with
      | some c, some own =>
        if own.2.1 = k then ((s.modCore g (·.forget c)).giveBack k own.2.2).modCore g (fun x => x.setKen e.1 {}) else s
      | _, _ => s) s) s

/-- A barrier breaks with a launch: its own, or that of its group where it is a group's (spec/12_barrier.md R334). -/
def Cluster.barOf (c : Cluster) (b : Bar) (k : Nat) : Bool :=
  b.st != 0 && (b.launch == k || (b.g && (c.group b.grp).st != 0 && (c.group b.grp).launch == k))

/-- The barriers of a launch break (spec/12_barrier.md R334). -/
def State.sweepBarriers (s : State) (k : Nat) : State :=
  (s.clusters.ents.map (·.1)).foldl (fun s cl =>
    ((s.cluster cl).bars.ents.filter (fun e => (s.cluster cl).barOf e.2 k)).foldl (fun s e => s.breakBar cl e.1) s) s

/-- The Live groups of a cancelled launch drain (spec/11_group.md R308). -/
def Cluster.drainGroups (c : Cluster) (k : Nat) : Cluster :=
  { c with groups := c.groups.map (fun _ x => if x.st = 2 ∧ x.launch = k then { x with st := 3 } else x) }

/-- The groups of a launch drain in every cluster. -/
def State.sweepGroups (s : State) (k : Nat) : State :=
  { s with clusters := s.clusters.map (fun _ c => c.drainGroups k) }

/-- Operations in turn. -/
def eachE {α : Type} (f : α → EM Unit) : List α → EM Unit
  | [] => return ()
  | x :: xs => do
    f x
    eachE f xs

/-- The records, queries and frontier launches of a launch are cancelled (spec/13_task.md R354; spec/15_frontier.md R405;
spec/16_beam.md R438). -/
def sweepEngines (k cl : Nat) : EM Unit := do
  let c := (← get).cluster cl
  eachE (fun e => killTask cl e .cancelled 10) ((c.tasks.ents.filter (fun e => e.2.live && e.2.launch == k)).map (·.1))
  let c := (← get).cluster cl
  eachE (fun q => qryEnd cl q .cancelled 0 orSignal) ((c.qrys.ents.filter (fun e => e.2.active && e.2.launch == k)).map (·.1))
  let c := (← get).cluster cl
  eachE (fun (e : Nat × Trk) => fntKill e.2 .cancelled 4)
    (c.trks.ents.filter (fun e => e.2.gen != 0 && !e.2.ended && e.2.launch == k && e.2.first == (cl, e.1)))

/-- A channel of the context has become Faulted and still owes the OR of its signal (spec/10_transfer.md R290). -/
def Ctx.owesSignal (c : Ctx) : Bool :=
  (List.range 8).any (fun n => let x := c.chan n
    x.sig != 0 && ((x.st.faulted && !x.sigOr) || (x.st == .cancelling && x.owesOr)))

/-- A channel of a launch's contexts still owes its signal: the sweep discards them once it is written. -/
def State.owesSignals (s : State) (k : Nat) : Bool :=
  s.slots.ents.any (fun e => (e.2.ctx.map (fun c => c.ofLaunch k && c.owesSignal)).getD false) ||
  s.cores.ents.any (fun c => c.2.kennel.ents.any (fun e => (e.2.ctx.map (fun c => c.ofLaunch k && c.owesSignal)).getD false))

/-- Weight of the units that have not started: those that no group, no record has carried off (R372, R380). -/
def Work.unstarted (w : Work) : Nat :=
  let from_ := if w.light then w.next else min w.count (w.next * w.gsize)
  let held := w.waiting.foldl (fun n j => n + w.groupUnits j.1) 0
  let first := from_ = 0 || w.waiting.any (fun j => j.1 == 0)
  (w.count - from_ + held) * (2 ^ 63 / w.count) + (if first then 2 ^ 63 % w.count else 0)

/-- The whole sweep of a launch. -/
def sweepLaunch (k : Nat) : EM Unit := do
  let s ← get
  eachE (sweepEngines k) (s.clusters.ents.map (·.1))
  modify (fun s =>
    let s := ((s.sweepContexts k).sweepBarriers k).sweepGroups k
    let (s, l) := s.pullAll (fun r => r.lslot == k)
    let s := l.foldl (fun s r => s.giveBack k r.weight) s
    let s := s.giveBack k (s.workAt k).unstarted
    s.modWork k (fun w => { w with swept := true, waiting := [] }))

/-- SWEEP: every holder of a Sweeping launch's weight that the device can find is removed, the units not yet started among them. -/
def execSweep (slot : Nat) (s : State) : Out :=
  event (fun s =>
    let w := s.workAt slot
    if w.st ≠ .sweeping ∨ 2 ^ 16 ≤ slot ∨ w.swept ∨ s.owesSignals slot then none else stepE (sweepLaunch slot) s) s

/-- Work of a launch is still under way in an engine: a record that has not retired, a piece, a tile operation; or a remote
store of one of its threads has still to reach its scratchpad (spec/17_queue.md R458). -/
def State.sweeping (s : State) (k : Nat) : Bool :=
  s.cores.ents.any (fun c => c.2.portq.any (fun r => r.launch == k)) ||
  s.clusters.ents.any (fun c => c.2.hold.any (fun h => match h with
    | .port _ r => r.launch == k
    | _ => false)) ||
  s.clusters.ents.any (fun c => c.2.tasks.ents.any (fun e => e.2.held && e.2.launch == k)) ||
  s.cores.ents.any (fun c => c.2.pieces.any (fun p => p.launch == k) || c.2.tileq.any (fun o => o.launch == k))

/-- A level's descendants have all ended. -/
def State.childrenEnded (s : State) (k : Nat) : Bool :=
  (s.children k).all (fun c => match (s.workAt c).st with
    | .held | .retired | .free => true
    | _ => false)

/-- SWEEP_ACKNOWLEDGED: every cluster, engine and control core acknowledges the sweep of a launch, or every descendant of a
swept level has ended. -/
def execSweepAcknowledged (slot : Nat) (s : State) : Out :=
  event (fun s =>
    let w := s.workAt slot
    if w.st ≠ .sweeping then none
    else if slot < 2 ^ 16 then (if w.swept ∧ !s.sweeping slot then stepE (endWork slot) s else none)
    else if s.childrenEnded slot then stepE (endWork slot) s else none) s

/-! ### The krn instructions (R383 to R387) -/

/-- The entry that a handle names for an address space; none where it is gone (R367). -/
def State.workOf (s : State) (asid : Nat) (h : Word) : Option Nat :=
  let level := wfld h 17 16
  let slot := wfld h 15 0
  let w := s.workAt (workKey level slot)
  if wfld h 63 50 = 0 ∧ slot < levelSlots level ∧ w.gen ≠ 0 ∧ w.gen % 2 ^ 32 = wfld h 49 18 ∧ w.asid = asid then
    some (workKey level slot)
  else none

/-- STATE of R386. -/
def Work.code (w : Work) : Nat :=
  match w.st with
  | .starting => 0
  | .running => 1
  | .sweeping => 2
  | _ => w.outcome

/-- The state word. -/
def Work.word (w : Work) (k : Nat) : Word :=
  let upper := decide (2 ^ 16 ≤ k)
  let c := w.code
  w64 ((if upper then w.count else 0) * 2 ^ 48 + (if upper then w.done else w.accepted) % 2 ^ 32 * 2 ^ 16
    + (if c = 4 ∨ c = 5 then w.cause else 0) * 2 ^ 8 + c)

/-- Starting, Running or Sweeping. -/
def Work.busy (w : Work) : Bool :=
  match w.st with
  | .starting | .running | .sweeping => true
  | _ => false

/-- KRN_LAUNCH. -/
def execKrnLaunch (a d : BitVec 5) (s : State) : Out :=
  runThread (do
    let va ← getX a
    orTrap (va.toNat % 64 = 0) 4 va
    waitVecMem
    let bs ← loadBytes va 128
    probeSig (dscSig bs)
    let c ← ctx
    let s ← get
    match s.krnRefusal bs c.asid with
    | some r => refusal d r
    | none =>
      release 2
      let s ← get
      let (s, k) := s.acceptWork bs (identOf c c.priv s.cur) c.satp s.cur.gcore (s.workAt (wfld c.ulaunch 15 0)).tag
      set s
      setX d (w64 ((s.workAt k).handle k))) s

/-- KRN_CANCEL. The mark says that this instruction has cancelled the target. -/
def execKrnCancel (a d : BitVec 5) (s : State) : Out :=
  runThread (do
    let h ← getX a
    let s ← get
    let mine := (← waitKind) == some WaitKind.cancel
    match s.workOf (← ctx).asid h with
    | none => setX d (if mine then 0#64 else 3#64)
    | some k =>
      let w := s.workAt k
      if w.st = .starting ∨ w.st = .running then
        upd (fun s => s.sweepAt k 4)
        setWait (some { kind := .cancel })
        wait
      else
        waitUnless (!w.busy)
        setX d (if mine then 0#64 else if w.outcome = 3 then 1#64 else 2#64)) s

/-- The report on a handle; Complete acquires. -/
def krnReport (d : BitVec 5) (h : Word) : M Unit := do
  let s ← get
  match s.workOf (← ctx).asid h with
  | none => setX d 6#64
  | some k =>
    let w := s.workAt k
    if w.code = 3 then acquire else pure ()
    setX d (w.word k)

/-- KRN_COUNT. -/
def execKrnCount (a d : BitVec 5) (s : State) : Out := runThread (do krnReport d (← getX a)) s

/-- KRN_WAIT. -/
def execKrnWait (a d : BitVec 5) (s : State) : Out :=
  runThread (do
    let h ← getX a
    let s ← get
    match s.workOf (← ctx).asid h with
    | none => krnReport d h
    | some k =>
      waitUnless (!(s.workAt k).busy)
      krnReport d h) s

/-- KRN_BORROW: the addition reaches the collector before uweight changes. -/
def execKrnBorrow (d : BitVec 5) (s : State) : Out :=
  runThread (do
    let c ← ctx
    match ← waitKind with
    | some .borrowed =>
      modCtx (fun c => { c with uweight := c.uweight + w64 (2 ^ 32) })
      setX d (c.uweight + w64 (2 ^ 32))
    | some _ => wait
    | none =>
      orTrap (decide (c.uweight.toNat ≤ 2 ^ 64 - 1 - 2 ^ 32)) 29 c.uweight
      let k := wfld c.ulaunch 15 0
      let s ← get
      orTrap (decide ((s.workAt k).issued + 2 ^ 32 < 2 ^ 127)) 29 c.uweight
      upd (fun s => { s with wmsgs := s.wmsgs ++ [{ slot := k, gen := (s.workAt k).gen, borrow := some s.cur, amount := 2 ^ 32 }] })
      setWait (some { kind := .borrow })
      wait) s

end Sys2Proof.Machine
end

