-- ==== Sys2Proof/Machine/Queue.lean ====
section
/-! DEFINITION. Queues: registers and states, the intake core and its commands, resets, and the q instructions
(spec/17_queue.md R447 to R458, R466 to R472). -/

namespace Sys2Proof.Machine

open Sys2Proof

/-! ### Queues (R447 to R450, R456) -/

/-- Number of queues. -/
def nQueues : Nat := 16384
/-- STATE codes. -/
def qDisabled : Nat := 0
def qActive : Nat := 1
def qStopped : Nat := 2
def qResetting : Nat := 3

/-- A queue. -/
def State.queue (s : State) (q : Nat) : Queue := s.queues.get {} q
/-- The state with a queue replaced. -/
def State.setQueue (s : State) (q : Nat) (x : Queue) : State := { s with queues := s.queues.put q x }
/-- The state with a queue updated. -/
def State.modQueue (s : State) (q : Nat) (f : Queue → Queue) : State := s.setQueue q (f (s.queue q))

/-- Records that the ring holds. -/
def Queue.cap (x : Queue) : Nat := 2 ^ (x.size + 4)
/-- The queue's address space. -/
def Queue.asid (x : Queue) : Nat := wfld x.satp 59 44
/-- WR − RD. -/
def Queue.fill (x : Queue) : Nat := (x.wr + 2 ^ 32 - x.rd) % 2 ^ 32
/-- Address of record i of the ring (R450). -/
def Queue.ring (x : Queue) (i : Nat) : Nat := (x.base + 64 * (i % x.cap)) % 2 ^ 64
/-- CTL as it reads (R448). -/
def Queue.ctl (x : Queue) : Word :=
  w64 (b2n x.en + b2n (x.st == qResetting) * 2 ^ 2 + x.prio * 2 ^ 3 + b2n x.stoperr * 2 ^ 6 + b2n x.push * 2 ^ 7
    + x.server * 2 ^ 8 + x.agent * 2 ^ 16 + x.size * 2 ^ 24)

/-- Who acts for a queue's work: a light thread of the queue's address space in U-mode with vault key 0 (R453,
spec/11_group.md R525). -/
def Queue.ident (x : Queue) : Ident := { asid := x.asid, key := 0 }
/-- The intake core as an engine of a queue. -/
def Queue.eng (x : Queue) : Eng := { g := 0, kind := 5, src := 0, ident := x.ident, satp := x.satp }
/-- A thread's core as it accesses a ring, with the class of service of its slot for walks and Bare fills, and for data fills
where OVR says so (spec/04_memory.md R108, R114). -/
def Queue.engOf (x : Queue) (h : Hart) (c : Ctx) : Eng :=
  { g := h.gcore, kind := 0, src := h.gcore, slot := h.slot, ident := { x.ident with cos := wfld c.scos 3 0 }, satp := x.satp,
    cls := c.carries }

/-- Command slots that a queue holds, or all queues hold (R452). -/
def State.heldSlots (s : State) (q : Nat) : Nat := s.cmds.countP (fun c => c.q == q && !c.handed)
def State.allHeld (s : State) : Nat := s.cmds.countP (fun c => !c.handed)

/-- STAT, and the word of q.state (R472). -/
def State.queueWord (s : State) (q : Nat) : Word :=
  let x := s.queue q
  w64 (x.st + s.heldSlots q % 2 ^ 7 * 2 ^ 16 + x.err * 2 ^ 24 + x.fill % 2 ^ 17 * 2 ^ 32)

/-- A notify value is acceptable (R449). -/
def Queue.notifyOk (x : Queue) (n : Nat) : Bool :=
  (x.st == qActive || x.st == qStopped) && !x.push && decide ((n + 2 ^ 32 - x.rd) % 2 ^ 32 ≤ x.cap)
    && decide ((n + 2 ^ 32 - x.wr) % 2 ^ 32 < 2 ^ 31)

/-- A write of the notify register: discarded in Resetting; rejected with ERR 1 elsewhere than R449 accepts it. -/
def Queue.notify (x : Queue) (v : Word) : Queue :=
  let n := wfld v 31 0
  if x.st = qResetting then x
  else if x.notifyOk n then { x with wr := n } else { x with err := 1 }

/-- The configuration is one that a Disabled queue starts with (R456). -/
def Queue.legal (x : Queue) : Bool :=
  x.base % 64 == 0 && (wfld x.satp 63 60 == 0 || wfld x.satp 63 60 == 9) && decide (x.server ≤ 4)
    && !((x.server == 2 || x.server == 3) && decide (40 ≤ x.agent)) && !(x.server == 4 && decide (8 ≤ x.agent))

/-- CTL.EN written, by the state table. -/
def Queue.writeEn (x : Queue) (en : Bool) : Queue :=
  if x.st = qActive then (if en then x else { x with st := qStopped, en := false })
  else if x.st = qStopped then (if en then { x with st := qActive, en := true, err := 0 } else { x with en := false })
  else if x.st = qDisabled ∧ en then
    (if x.legal then { x with st := qActive, en := true, err := 0 } else { x with err := 7 })
  else x

/-- The fields of CTL written, SIZE, AGENT, SERVER and PUSH only while Disabled. -/
def Queue.writeFields (x : Queue) (v : Word) : Queue :=
  let x := { x with prio := wfld v 5 3, stoperr := wbit v 6 }
  if x.st = qDisabled then
    { x with push := wbit v 7, server := wfld v 11 8, agent := wfld v 23 16, size := min (wfld v 27 24) 12 }
  else x

/-! ### Resets (R456 to R458) -/

/-- Works of a queue's tag that are Starting or Running. -/
def State.tagged (s : State) (q : Nat) : List Nat :=
  (s.work.ents.filter (fun e => e.2.tag == some q && (e.2.st == .starting || e.2.st == .running))).map (·.1)

/-- Every such launch and level is cancelled with cause 4, the launches first. -/
def State.cancelTagged (s : State) (q : Nat) : State := (s.tagged q).foldl (fun s k => s.sweepAt k 4) s

/-- A reset starts: no further command is taken, held commands and the agents' records of the queue are dropped, and its
work is cancelled. -/
def State.resetQueue (s : State) (q : Nat) : State :=
  if (s.queue q).st = qResetting then s
  else
    let tickets := (s.agents.filter (fun a => a.q == q)).map (·.ticket)
    let s := s.modQueue q (fun x => { x with st := qResetting })
    let s := { s with cmds := s.cmds.filter (fun c => c.q != q || c.handed)
                      agents := s.agents.filter (fun a => a.q != q && !(a.draw.map tickets.contains).getD false) }
    s.cancelTagged q

/-- Every launch and level of the queue has ended; a launch ends once its sweep has drained the stores of its threads (R457,
R458). -/
def State.queueWorkEnded (s : State) (q : Nat) : Bool :=
  s.work.ents.all (fun e => e.2.tag != some q || (match e.2.st with
    | .held | .retired | .free => true
    | _ => false))

/-- QUEUE_RESET_COMPLETE: work of the queue that has come up since is cancelled too; once all of it has ended, what is left
of its commands is dropped and the queue is Disabled. -/
def execQueueResetComplete (q : Nat) (s : State) : Out :=
  event (fun s =>
    if (s.queue q).st ≠ qResetting then none
    else if !(s.tagged q).isEmpty then some (s.cancelTagged q)
    else if !s.queueWorkEnded q then none
    else
      let s := s.modQueue q (fun x => { x with st := qDisabled, en := false, rd := 0, wr := 0 })
      some { s with
        cmds := s.cmds.filter (fun c => c.q != q)
        slots := s.slots.map (fun _ t => { t with
          wait := t.wait.map (fun w => if w.kind = .reset ∧ w.a = q then { w with b := 1 } else w) }) }) s

/-- CTL written: RESET first, then the fields and EN (R448, R456). -/
def State.writeCtl (s : State) (q : Nat) (v : Word) : State :=
  let s := s.modQueue q (·.writeFields v)
  if wbit v 2 then s.resetQueue q else s.modQueue q (·.writeEn (wbit v 0))

/-- QUEUE_NOTIFY_WRITE. -/
def execQueueNotifyWrite (who : Party) (q : Nat) (value : Word) (s : State) : Out :=
  event (fun s => if s.mayWrite who none ∧ q < nQueues then some (s.modQueue q (·.notify value)) else none) s

/-- QUEUE_ENABLE: CTL is written with EN = 1 and RESET = 0 to a Disabled or Stopped queue. -/
def execQueueEnable (who : Party) (q : Nat) (ctl : Word) (s : State) : Out :=
  event (fun s =>
    if s.mayWrite who none ∧ q < nQueues ∧ wbit ctl 0 ∧ !wbit ctl 2 ∧ ((s.queue q).st = qDisabled ∨ (s.queue q).st = qStopped) then
      some (s.writeCtl q ctl)
    else none) s

/-- QUEUE_DISABLE: EN is written 0 to an Active queue, every other field as it stands. -/
def execQueueDisable (who : Party) (q : Nat) (s : State) : Out :=
  event (fun s =>
    if s.mayWrite who none ∧ q < nQueues ∧ (s.queue q).st = qActive then some (s.modQueue q (·.writeEn false)) else none) s

/-- QUEUE_RESET_WRITE: RESET is written 1, every other field as it stands. -/
def execQueueResetWrite (who : Party) (q : Nat) (s : State) : Out :=
  event (fun s =>
    if s.mayWrite who none ∧ q < nQueues ∧ (s.queue q).st ≠ qResetting then some (s.resetQueue q) else none) s

/-! ### Taking records (R450, R452, R455) -/

/-- A server reads the head record: its bytes, or the queue stops with ERR 3 or 4 and the record is not taken. The take is an
acquire that synchronises with the push or notify, so no older copy in a cluster's L2 serves the read (R452, R459, R469). -/
def readHead (e : Eng) (q : Nat) : EM (Option (List Byte)) := fun s =>
  let x := s.queue q
  match readE { e with fresh := true } (x.ring x.rd) 64 s with
  | .ok bs s => .ok (some bs) s
  | .error .later s => .error .later s
  | .error f s => .ok none (s.modQueue q (fun x => { x with st := qStopped, err := if f.isPoison then 4 else 3 }))

/-- The head record is consumed. -/
def Queue.next (x : Queue) : Queue := { x with rd := (x.rd + 1) % 2 ^ 32 }

/-- The queue of the highest priority among ready ones, from a pointer on: its level and number (R455). -/
def pickQueue (ready : List (Nat × Queue)) (ptr : Nat → Nat) : Option (Nat × Nat) :=
  match ready with
  | [] => none
  | r =>
    let l := r.foldl (fun m e => max m e.2.prio) 0
    let qs := (r.filter (fun e => e.2.prio == l)).map (·.1)
    some (l, ((qs.filter (fun q => decide (ptr l ≤ q))) ++ qs).headD 0)

/-- Field of a command record (R451). -/
def cmdOp (b : List Byte) : Nat := numAt b 0 1
def cmdFlags (b : List Byte) : Nat := numAt b 1 1
def cmdSig (b : List Byte) : Nat := numAt b 8 8
def cmdArg0 (b : List Byte) : Nat := numAt b 0x10 8
def cmdArg1 (b : List Byte) : Nat := numAt b 0x18 8
def cmdCond (b : List Byte) : Nat := numAt b 0x20 1
def cmdWake (b : List Byte) : Nat := numAt b 0x28 8

/-- A record breaks the command record table (R451; misaligned addresses break it too: log entry 20). -/
def cmdBad (b : List Byte) : Bool :=
  let op := cmdOp b
  decide (3 < op) || decide (4 ≤ cmdFlags b) || !allZero ((b.drop 2).take 6) || !allZero ((b.drop 0x21).take 7)
    || !allZero (b.drop 0x30) || (if op = 3 then decide (3 < cmdCond b) else cmdCond b != 0) || cmdSig b % 8 != 0
    || ((op == 2 || op == 3) && cmdArg0 b % 8 != 0)
    || ((cmdFlags b).testBit 1 && !(cmdWake b).testBit 63 && cmdWake b % 64 != 0)

/-- A queue is ready for the intake core: its next command may be taken (R452, R455). -/
def State.intakeReady (s : State) (q : Nat) (x : Queue) : Bool :=
  x.st == qActive && x.server == 0 && x.fill != 0 && s.heldSlots q == 0 &&
    (!s.cmds.any (fun c => c.q == q) ||
      (match readE x.eng (x.ring x.rd) 64 s with
       | .ok bs _ => !(cmdFlags bs).testBit 0
       | .error .later _ => false
       | .error _ _ => true))

/-- The chosen queue's next command is taken; one that breaks the table fails at once. -/
def takeCommand (q : Nat) : EM Unit := do
  let x := (← get).queue q
  match ← readHead x.eng q with
  | none => return ()
  | some bs =>
    let bad := cmdBad bs
    modify (fun s =>
      let s := s.modQueue q Queue.next
      let s := { s with cmds := s.cmds ++ [{ q := q, bytes := bs, handed := bad, result := if bad then some 2 else none }] }
      if bad then s.queueFail q 2 else s)

/-- INTAKE_TAKE: with a command slot free, the next command of the chosen ready queue is taken. -/
def execIntakeTake (s : State) : Out :=
  event (fun s =>
    if 64 ≤ s.allHeld then none
    else
      match pickQueue (s.queues.ents.filter (fun e => s.intakeReady e.1 e.2)) (fun l => s.iptr.get 0 l) with
      | none => none
      | some (l, q) => stepE (takeCommand q) { s with iptr := s.iptr.put l ((q + 1) % nQueues) }) s

/-! ### Commands (R453, R454) -/

/-- The state with a command replaced. -/
def State.setCmd (s : State) (i : Nat) (c : Cmd) : State := { s with cmds := setNth s.cmds i c }

/-- Command i is waiting to be carried out with an OP. -/
def State.cmdAt (s : State) (i op : Nat) : Option Cmd :=
  match s.cmds[i]? with
  | some c => if !c.handed ∧ cmdOp c.bytes = op then some c else none
  | none => none

/-- A command is handed off and completes, or fails with ERR 5. -/
def State.endCmd (s : State) (i : Nat) (c : Cmd) (ok : Bool) : State :=
  let s := s.setCmd i { c with handed := true, result := some (if ok then 0 else 5) }
  if ok then s else s.queueFail c.q 5

/-- An engine operation whose failure, but for one that is only for now, is a result. -/
def tryE {α : Type} (m : EM α) : EM (Option α) := fun s =>
  match m s with
  | .ok a s => .ok (some a) s
  | .error .later s => .error .later s
  | .error _ s => .ok none s

/-- CMD_NOP. -/
def execCmdNop (idx : Nat) (s : State) : Out :=
  event (fun s => (s.cmdAt idx 0).map (fun c => s.endCmd idx c true)) s

/-- The descriptor of a LAUNCH, read and its signal probed as krn.launch does (R384). -/
def readDescriptor (e : Eng) (va : Nat) : EM (List Byte) := do
  if va % 64 ≠ 0 then throw .access
  let bs ← readE e va 128
  if dscSig bs ≠ 0 ∧ dscSig bs % 8 = 0 then
    let _ ← eng (fun s => s.engTarget e .store (dscSig bs) 8)
  return bs

/-- CMD_LAUNCH: the launch or level takes the queue's identity, satp and tag. -/
def execCmdLaunch (idx : Nat) (s : State) : Out :=
  event (fun s =>
    match s.cmdAt idx 1 with
    | none => none
    | some c =>
      let x := s.queue c.q
      stepE (do
        match ← tryE (readDescriptor x.eng (cmdArg0 c.bytes)) with
        | none => modify (fun s => s.endCmd idx c false)
        | some bs =>
          modify (fun s =>
            match s.krnRefusal bs x.asid with
            | some _ => s.endCmd idx c false
            | none =>
              let (s, k) := s.acceptWork bs x.ident x.satp 0 (some c.q)
              s.setCmd idx { c with handed := true, work := some (k, (s.workAt k).gen) })) s) s

/-- CMD_SIGNAL: an atomic add of ARG1. -/
def execCmdSignal (idx : Nat) (s : State) : Out :=
  event (fun s =>
    match s.cmdAt idx 2 with
    | none => none
    | some c =>
      let e := (s.queue c.q).eng
      match s.engAtomic e (cmdArg0 c.bytes) 8 (fun v => some ((v + cmdArg1 c.bytes) % 2 ^ 64)) with
      | (s, .ok (_, p)) => some (s.endCmd idx c (!p))
      | (_, .error .later) => none
      | (s, .error _) => some (s.endCmd idx c false)) s

/-- COND of a WAIT. -/
def condHolds (cond v a : Nat) : Bool :=
  match cond with
  | 0 => v == a
  | 1 => v != a
  | 2 => decide (sint v 64 < sint a 64)
  | _ => decide (sint a 64 ≤ sint v 64)

/-- A WAIT reads its doubleword. -/
def pollWait (i : Nat) (c : Cmd) : EM Unit := do
  let e := ((← get).queue c.q).eng
  match ← tryE (readE e (cmdArg0 c.bytes) 8) with
  | none => modify (fun s => s.endCmd i c false)
  | some bs =>
    if condHolds (cmdCond c.bytes) (leNat bs) (cmdArg1 c.bytes) then modify (fun s => s.endCmd i c true)
    else modify (fun s => s.setCmd i { c with poll := true })

/-- CMD_WAIT: the read when the command is taken. -/
def execCmdWait (idx : Nat) (s : State) : Out :=
  event (fun s =>
    match s.cmdAt idx 3 with
    | none => none
    | some c => if c.poll then none else stepE (pollWait idx c) s) s

/-- CMD_WAIT_POLL: a later read, on a notify or within 1,024 intake-core cycles. -/
def execCmdWaitPoll (idx : Nat) (s : State) : Out :=
  event (fun s =>
    match s.cmdAt idx 3 with
    | none => none
    | some c => if c.poll then stepE (pollWait idx c) s else none) s

/-- A completion or failure signal of queue work; one that is misaligned cannot be written (R454). -/
def queueSignal (e : Eng) (sig : Nat) (ok : Bool) : EM Unit := do
  if sig % 8 ≠ 0 then modify (fun s => s.signalError e 0 0)
  else
    let _ ← signalE e sig 0 (if ok then decSignal else orSignal)
    return ()

/-- Where the record that a command's wake finds parked goes: the owner of a cell in the vault window, else the least-loaded
core of the lowest cluster of its launch. -/
def State.wakeDest (s : State) (va : Nat) (r : LightRec) : Nat :=
  match winOf va with
  | some (.vault _ _) => (ownerOf 0 va).getD 0
  | _ => s.fewest .intake (coresOf ((clustersOf (s.workAt r.lslot).cmask).headD 0))

/-- A record that a wake takes out of its cell is sent; with its launch slot not Running it is discarded
(spec/14_kernel.md R380). -/
def State.sendWoken (s : State) (va : Nat) (r : LightRec) : State :=
  let w := s.workAt r.lslot
  if w.st = .running then s.sendRecord (s.wakeDest va r) .intake r
  else if w.st = .retired then s else s.giveBack r.lslot r.weight

/-- The 64 bytes of a cell read at a target, or nothing where they are poisoned or cannot be read. -/
def cellBytes (e : Eng) (t : Target) : EM (Option (List Byte)) := do
  let (bs, ps) ← eng (fun s => s.engGet e t 64)
  return if ps.any id then none else some bs

/-- The wake of a cell by the intake core (spec/07_context.md R210). -/
def wakeCell (e : Eng) (va : Nat) : EM Unit := do
  let t ← eng (fun s => s.engTarget e .store va 64)
  match ← cellBytes e t with
  | none => return ()
  | some bs =>
    let parked := decide (2 ≤ dwAt bs 0)
    let _ ← eng (fun s => s.engAtomicAt e t 8 (fun _ => some (if parked then 0 else 1)))
    if parked then modify (fun s => s.sendWoken va (lightOf bs)) else return ()

/-- The delivery that follows a command's signal. -/
def deliverCmd (e : Eng) (c : Cmd) : EM Unit := do
  let wk := cmdWake c.bytes
  if !(cmdFlags c.bytes).testBit 1 then return ()
  else if wk.testBit 63 then
    modify (fun s => if s.owner < 8 then { s with msis := s.msis ++ [(s.owner, fld wk 10 0)] } else s)
  else if wk % 64 ≠ 0 then return ()
  else
    let _ ← tryE (wakeCell e wk)
    return ()

/-- COMMAND_COMPLETION: the signal of a command that has ended is written, the delivery follows, and the command is gone. -/
def execCommandCompletion (idx : Nat) (s : State) : Out :=
  event (fun s =>
    match s.cmds[idx]? with
    | none => none
    | some c =>
      match c.result with
      | none => none
      | some r =>
        let e := (s.queue c.q).eng
        stepE (do
          if cmdSig c.bytes ≠ 0 then queueSignal e (cmdSig c.bytes) (r == 0)
          deliverCmd e c
          modify (fun s => { s with cmds := s.cmds.eraseIdx idx })) s) s

/-! ### The q instructions (R466 to R472) -/

/-- Codes 1 and 2 as every q instruction meets them. -/
def qNamed (v : Word) (asid : Nat) (s : State) : Option Nat :=
  if nQueues ≤ v.toNat then some 1 else if (s.queue v.toNat).asid ≠ asid then some 2 else none

/-- Codes 1 to 4 of q.push. -/
def pushRefusal (v : Word) (asid : Nat) (s : State) : Option Nat :=
  let x := s.queue v.toNat
  (qNamed v asid s).or (
    if !x.push then some 2 else if x.st ≠ qActive then some 3 else if x.fill = x.cap then some 4 else none)

/-- A record added to a ring: its index, or none where the ring write faults and the queue stops (R468). -/
def pushRecord (e : Eng) (q : Nat) (bs : List Byte) : EM (Option Nat) := do
  let x := (← get).queue q
  match ← tryE (writeE e (x.ring x.wr) bs) with
  | none =>
    modify (fun s => s.modQueue q (fun x => { x with st := qStopped, err := 6 }))
    return none
  | some _ =>
    modify (fun s => s.modQueue q (fun x => { x with wr := (x.wr + 1) % 2 ^ 32 }))
    return some x.wr

/-- Q_PUSH. -/
def execQPush (b a d : BitVec 5) (s : State) : Out :=
  runThread (do
    let p ← getX b
    orTrap (p.toNat % 64 = 0) 4 p
    waitVecMem
    let bs ← loadBytes p 64
    let v ← getX a
    let c ← ctx
    match pushRefusal v c.asid (← get) with
    | some r => refusal d r
    | none =>
      release 2
      let s ← get
      match ← runE (pushRecord ((s.queue v.toNat).engOf s.cur c) v.toNat bs) with
      | .ok (some i) => setX d (w64 i)
      | _ => refusal d 5) s

/-- Codes 1 to 4 of q.pop and q.peek. -/
def popRefusal (v : Word) (asid : Nat) (s : State) : Option Nat :=
  let x := s.queue v.toNat
  (qNamed v asid s).or (
    if x.server ≠ 1 then some 2 else if x.st ≠ qActive then some 3 else if x.fill = 0 then some 4 else none)

/-- q.pop and q.peek. -/
def popOrPeek (pop : Bool) (b a d : BitVec 5) : M Unit := do
  let p ← getX b
  orTrap (p.toNat % 64 = 0) 4 p
  waitVecMem
  let ts ← translateParts .store p (pageParts p 64)
  let v ← getX a
  let q := v.toNat
  let c ← ctx
  match popRefusal v c.asid (← get) with
  | some r => refusal d r
  | none =>
    stallParts true ts
    let s ← get
    let x := s.queue q
    match ← runE (readHead (x.engOf s.cur c) q) with
    | .ok (some bs) =>
      storeParts ts bs
      if pop then upd (fun s => s.modQueue q Queue.next) else pure ()
      acquire
      setX d (w64 x.rd)
    | _ => refusal d 6

/-- Q_POP. -/
def execQPop (b a d : BitVec 5) (s : State) : Out := runThread (popOrPeek true b a d) s
/-- Q_PEEK. -/
def execQPeek (b a d : BitVec 5) (s : State) : Out := runThread (popOrPeek false b a d) s

/-- Q_NOTIFY. -/
def execQNotify (b a d : BitVec 5) (s : State) : Out :=
  runThread (do
    let v ← getX a
    let n ← getX b
    let c ← ctx
    let s ← get
    let x := s.queue v.toNat
    match (qNamed v c.asid s).or (
        if x.push then some 2 else if x.st ≠ qActive then some 3
        else if !x.notifyOk (wfld n 31 0) then some 4 else none) with
    | some r => refusal d r
    | none =>
      waitVecMem
      release 2
      upd (fun s => s.modQueue v.toNat (·.notify n))
      setX d 0#64) s

/-- Q_RESET: the mark names the queue whose reset it awaits. -/
def execQReset (a d : BitVec 5) (s : State) : Out :=
  runThread (do
    needS
    let v ← getX a
    let c ← ctx
    let s ← get
    match (← slot).wait with
    | some m => if m.b = 1 then setX d 0#64 else wait
    | none =>
      match qNamed v c.asid s with
      | some r => refusal d r
      | none =>
        if (s.queue v.toNat).st = qDisabled then setX d 0#64
        else
          upd (fun s => s.resetQueue v.toNat)
          setWait (some { kind := .reset, a := v.toNat })
          wait) s

/-- Q_STATE. -/
def execQState (a d : BitVec 5) (s : State) : Out :=
  runThread (do
    let v ← getX a
    let c ← ctx
    let s ← get
    match qNamed v c.asid s with
    | some r => refusal d r
    | none => setX d (s.queueWord v.toNat)) s

end Sys2Proof.Machine
end

