-- ==== Sys2Proof/Machine/Agents.lean ====
section
/-! DEFINITION. The graphics agents: rasteriser slices, mesh distributors and blend units (spec/17_queue.md R459 to R465). -/

namespace Sys2Proof.Machine

open Sys2Proof

/-! ### Records of an agent (R459) -/

/-- The agent exists. -/
def agentExists (a : Agent) : Bool :=
  ((a.server == 2 || a.server == 3) && decide (a.place < 40)) || (a.server == 4 && decide (a.place < 8))

/-- An agent's number among the rotating pointers. -/
def agentKey (a : Agent) (level : Nat) : Nat := (a.server * 64 + a.place) * 8 + level

/-- The agent as an engine of a queue: a slice or blend unit stands in its cluster, a distributor in none. What it reads for a
record it reads after the acquire of the take (R452, R459). -/
def agentEng (a : Agent) (x : Queue) : Eng :=
  if a.server = 4 then { g := a.place * 5 * 64, kind := 5, src := 0, ident := x.ident, satp := x.satp, fresh := true }
  else { g := a.place * 64, kind := 4, src := a.place, ident := x.ident, satp := x.satp, fresh := true }

/-- A queue that feeds the agent holds a record to take. -/
def Queue.feeds (x : Queue) (a : Agent) : Bool := x.st == qActive && x.fill != 0 && x.server == a.server && x.agent == a.place

/-- The next record of a queue is taken by an agent. -/
def takeRecord (a : Agent) (q : Nat) : EM Unit := do
  let x := (← get).queue q
  match ← readHead (agentEng a x) q with
  | none => return ()
  | some bs =>
    let tile := numAt bs 0x32 2
    modify (fun s =>
      let s := s.modQueue q Queue.next
      { s with tickets := s.tickets + 1
               agents := s.agents ++ [{ agent := a, q := q, bytes := bs, ticket := s.tickets + 1,
                                        n := max 1 (fld tile 7 0), r := fld tile 15 8, out := numAt bs 0x30 2 }] })

/-- AGENT_TAKE_RECORD: an agent that holds no record of a queue takes the next one of its chosen queue. -/
def execAgentTakeRecord (ag : Agent) (s : State) : Out :=
  event (fun s =>
    if !agentExists ag ∨ s.agents.any (fun r => r.agent == ag && r.draw.isNone) then none
    else
      match pickQueue (s.queues.ents.filter (fun e => e.2.feeds ag)) (fun l => s.aptr.get 0 (agentKey ag l)) with
      | none => none
      | some (l, q) => stepE (takeRecord ag q) { s with aptr := s.aptr.put (agentKey ag l) ((q + 1) % nQueues) }) s

/-- Record i of the agents, where it is the oldest of its agent. -/
def State.agentAt (s : State) (i server : Nat) : Option AgentRec :=
  match s.agents[i]? with
  | none => none
  | some r => if r.agent.server = server ∧ !(s.agents.take i).any (fun x => x.agent == r.agent) then some r else none

/-- A record replaced. -/
def State.setAgent (s : State) (i : Nat) (r : AgentRec) : State := { s with agents := setNth s.agents i r }

/-- Where SIG lies in an agent's record. -/
def agentSig (r : AgentRec) : Nat := numAt r.bytes (if r.agent.server = 2 then 0x38 else 0x18) 8

/-- A record of a queue ends: its signal, and with a failure the queue's ERR. A triangle of a draw has no signal; its failure
is the draw's. -/
def endRecord (i : Nat) (r : AgentRec) (err : Nat) : EM Unit := do
  let e := agentEng r.agent ((← get).queue r.q)
  match r.draw with
  | some t =>
    modify (fun s =>
      let s := { s with agents := s.agents.eraseIdx i }
      if err = 0 then s
      else { s with agents := s.agents.map (fun x => if x.ticket = t ∧ x.draw.isNone then { x with bad := true } else x) })
  | none =>
    if agentSig r ≠ 0 then queueSignal e (agentSig r) (err == 0)
    modify (fun s =>
      let s := { s with agents := s.agents.eraseIdx i }
      if err = 0 then s else s.queueFail r.q err)

/-! ### Triangles (R460, R461) -/

/-- A triangle record breaks its layout. -/
def triBad (b : List Byte) (draw : Bool) : Bool := !allZero ((b.drop 0x34).take 4) || (!draw && 2 ^ 14 ≤ numAt b 0x30 2)

/-- Coordinate j of vertex k. -/
def triCoord (b : List Byte) (k j : Nat) : FV := binary32.val (numAt b (12 * k + 4 * j) 4)

/-- A coordinate on the 1/256-pixel grid; none for NaN, infinity or a magnitude of 16,384 or more. -/
def gridOf (v : FV) : Option Int :=
  match v with
  | .num neg m e =>
    if (FV.num false m e).lt (.num false 1 14) then
      let q := (roundCut 0 false (cutAt m (-(e + 8))) false).1
      some (if neg then -(q : Int) else q)
    else none
  | _ => none

/-- The vertices of a triangle on the grid. -/
structure Tri where
  x : List Int
  y : List Int
deriving DecidableEq, Repr, Inhabited

def Tri.xs (t : Tri) (k : Nat) : Int := nth t.x k 0
def Tri.ys (t : Tri) (k : Nat) : Int := nth t.y k 0

/-- Twice the signed area. -/
def Tri.area (t : Tri) : Int :=
  (t.xs 1 - t.xs 0) * (t.ys 2 - t.ys 0) - (t.ys 1 - t.ys 0) * (t.xs 2 - t.xs 0)

/-- The triangle that a record gives; none where it emits nothing. -/
def triOf (b : List Byte) : Option Tri :=
  let xs := (List.range 3).filterMap (fun k => gridOf (triCoord b k 0))
  let ys := (List.range 3).filterMap (fun k => gridOf (triCoord b k 1))
  let t : Tri := { x := xs, y := ys }
  if xs.length = 3 ∧ ys.length = 3 ∧ t.area ≠ 0 then some t else none

/-- Edges in the order that makes the inside positive. -/
def Tri.edges (t : Tri) : List (Nat × Nat) := if 0 < t.area then [(0, 1), (1, 2), (2, 0)] else [(0, 2), (2, 1), (1, 0)]

/-- The edge function at a grid point. -/
def Tri.edgeFn (t : Tri) (e : Nat × Nat) (px py : Int) : Int :=
  (t.xs e.2 - t.xs e.1) * (py - t.ys e.1) - (t.ys e.2 - t.ys e.1) * (px - t.xs e.1)

/-- The triangle owns the points on an edge. -/
def Tri.owns (t : Tri) (e : Nat × Nat) : Bool :=
  let dy := t.ys e.2 - t.ys e.1
  decide (dy < 0) || (decide (dy = 0) && decide (0 < t.xs e.2 - t.xs e.1))

/-- A pixel centre lies in the triangle. -/
def Tri.inside (t : Tri) (px py : Nat) : Bool :=
  t.edges.all (fun e =>
    let f := t.edgeFn e (256 * px + 128) (256 * py + 128)
    decide (0 < f) || (decide (f = 0) && t.owns e))

/-- SCIS: xmin, ymin, xmax, ymax. -/
def scisOf (b : List Byte) : Nat × Nat × Nat × Nat := (numAt b 0x28 2, numAt b 0x2A 2, numAt b 0x2C 2, numAt b 0x2E 2)

/-- The pixel lies in SCIS and in a tile of the slice, and is covered. -/
def covered (b : List Byte) (t : Tri) (n r px py : Nat) : Bool :=
  let (x0, y0, x1, y1) := scisOf b
  decide (x0 ≤ px) && decide (px < x1) && decide (y0 ≤ py) && decide (py < y1)
    && (px / 64 + py / 64) % n == r && t.inside px py

/-- Pixels from the least to the greatest of three grid coordinates, cut to [lo, hi): first and one past the last. -/
def pixelSpan (cs : List Int) (lo hi : Nat) : Nat × Nat :=
  let mn := cs.foldl min (cs.headD 0)
  let mx := cs.foldl max (cs.headD 0)
  (max lo (mn / 256).toNat, min hi (mx / 256 + 1).toNat)

/-- MASK of a block. -/
def blockMask (b : List Byte) (t : Tri) (n r bx by_ : Nat) : Nat :=
  (List.range 16).foldl (fun m k => if covered b t n r (4 * bx + k % 4) (4 * by_ + k / 4) then m + 2 ^ k else m) 0

/-- The exact rational p / q rounded to binary32 (q not 0). -/
def rneRat (p q : Int) : Nat :=
  if p = 0 then 0
  else (binary32.roundRat 0 (decide (p < 0) != decide (q < 0)) p.natAbs 0 q.natAbs).1

/-- The plane coefficients of w1 and w2 over the area, times 256 where they multiply pixels: a, b, c of each. -/
def Tri.planes (t : Tri) : List Int × List Int :=
  let dx1 := t.xs 1 - t.xs 0
  let dy1 := t.ys 1 - t.ys 0
  let dx2 := t.xs 2 - t.xs 0
  let dy2 := t.ys 2 - t.ys 0
  ([256 * dy2, -(256 * dx2), t.ys 0 * dx2 - t.xs 0 * dy2], [-(256 * dy1), 256 * dx1, t.xs 0 * dy1 - t.ys 0 * dx1])

/-- A finite z as a multiple of 2^-149. -/
def zInt : FV → Int
  | .num neg m e => signedAt neg m e (-149)
  | _ => 0

/-- An exact value p / q * 2^-149 rounded to binary32. -/
def rneZ (p q : Int) : Nat :=
  if p = 0 then 0
  else (binary32.roundRat 0 (decide (p < 0) != decide (q < 0)) p.natAbs (-149) q.natAbs).1

/-- The coefficients of z. -/
def Tri.zPlane (t : Tri) (b : List Byte) : List Nat :=
  let z := (List.range 3).map (fun k => triCoord b k 2)
  let finite := z.all (fun v => match v with
    | .num _ _ _ => true
    | _ => false)
  if finite then
    let z0 := zInt (nth z 0 (.nan false))
    let d1 := zInt (nth z 1 (.nan false)) - z0
    let d2 := zInt (nth z 2 (.nan false)) - z0
    let (p1, p2) := t.planes
    (List.range 3).map (fun k =>
      rneZ (nth p1 k 0 * d1 + nth p2 k 0 * d2 + (if k = 2 then z0 * t.area else 0)) t.area)
  else
    match nth z 0 (.nan false) with
    | .inf n => if z.all (· == FV.inf n) then [0, 0, binary32.sgn n + binary32.inf] else [binary32.nan, binary32.nan, binary32.nan]
    | _ => [binary32.nan, binary32.nan, binary32.nan]

/-- A fragment-block record (R462). -/
def blockRecord (b : List Byte) (coef : List Nat) (bx by_ mask : Nat) : List Byte :=
  leBytes 2 bx ++ leBytes 2 by_ ++ leBytes 2 mask ++ leBytes 2 0 ++ ((b.drop 0x24).take 4) ++ leBytes 4 0
    ++ coef.flatMap (leBytes 4) ++ leBytes 12 0

/-- The blocks of a triangle, in ascending BY, then BX. -/
def blocksOf (b : List Byte) (n r : Nat) : List (List Byte) :=
  match triOf b with
  | none => []
  | some t =>
    let (x0, y0, x1, y1) := scisOf b
    let (xl, xh) := pixelSpan t.x x0 x1
    let (yl, yh) := pixelSpan t.y y0 y1
    let (p1, p2) := t.planes
    let coef := p1.map (fun p => rneRat p t.area) ++ p2.map (fun p => rneRat p t.area) ++ t.zPlane b
    let span (l h : Nat) : List Nat := if h ≤ l then [] else (List.range ((h - 1) / 4 - l / 4 + 1)).map (l / 4 + ·)
    (span yl yh).flatMap (fun by_ => (span xl xh).filterMap (fun bx =>
      let m := blockMask b t n r bx by_
      if m = 0 then none else some (blockRecord b coef bx by_ m)))

/-- TRIANGLE_RECORD: a slice decides the coverage of its oldest triangle; one without a block ends at once. -/
def execTriangleRecord (idx : Nat) (s : State) : Out :=
  event (fun s =>
    match s.agentAt idx 2 with
    | none => none
    | some r =>
      if r.step ≠ 0 then none
      else if triBad r.bytes r.draw.isSome then stepE (endRecord idx r 2) s
      else
        match blocksOf r.bytes r.n r.r with
        | [] => stepE (endRecord idx r 0) s
        | bs => some (s.setAgent idx { r with step := 1, sub := bs })) s

/-- OUT can take a record of an address space at all (R462). -/
def State.outOk (s : State) (out asid : Nat) : Bool :=
  let x := s.queue out
  decide (out < nQueues) && x.st == qActive && x.asid == asid && x.server == 1 && x.push

/-- The next block is pushed; the triangle's signal follows its last block. A full OUT makes the slice wait. -/
def pushBlock (i : Nat) (r : AgentRec) (bs : List Byte) (rest : List (List Byte)) : EM Unit := do
  let s ← get
  if !s.outOk r.out (s.queue r.q).asid then endRecord i r 5
  else if (s.queue r.out).fill = (s.queue r.out).cap then later
  else
    let e := agentEng r.agent (s.queue r.out)
    match ← pushRecord e r.out bs with
    | none => endRecord i r 5
    | some _ => if rest.isEmpty then endRecord i r 0 else modify (fun s => s.setAgent i { r with sub := rest })

/-- FRAGMENT_BLOCK_PUSH. -/
def execFragmentBlockPush (idx : Nat) (s : State) : Out :=
  event (fun s =>
    match s.agentAt idx 2 with
    | none => none
    | some r =>
      match r.sub with
      | [] => none
      | bs :: rest => stepE (pushBlock idx r bs rest) s) s

/-! ### Draws (R463) -/

/-- A draw record breaks its layout. -/
def drawBad (b : List Byte) : Bool :=
  let cm := numAt b 0x10 8
  numAt b 0 8 % 64 != 0 || cm == 0 || decide (2 ^ 40 ≤ cm) || !allZero ((b.drop 0x0E).take 2) || !allZero (b.drop 0x20)

/-- The intersection of the scissor and the triangle's bounding box touches a tile of slice number k of n. -/
def touches (b : List Byte) (n k : Nat) : Bool :=
  match triOf b with
  | none => false
  | some t =>
    let (x0, y0, x1, y1) := scisOf b
    let (xl, xh) := pixelSpan t.x x0 x1
    let (yl, yh) := pixelSpan t.y y0 y1
    decide (xl < xh) && decide (yl < yh) &&
      (List.range ((yh - 1) / 64 - yl / 64 + 1)).any (fun j =>
        (List.range ((xh - 1) / 64 - xl / 64 + 1)).any (fun i => (xl / 64 + i + (yl / 64 + j)) % n == k))

/-- The next triangle of a draw is read and sent to the slices whose tiles it touches. -/
def sendTriangle (i : Nat) (r : AgentRec) : EM Unit := do
  let e := agentEng r.agent ((← get).queue r.q)
  match ← tryE (readE e (numAt r.bytes 0 8 + 64 * r.step) 64) with
  | none => modify (fun s => s.setAgent i { r with bad := true })
  | some bs =>
    if triBad bs true then modify (fun s => s.setAgent i { r with bad := true })
    else
      let cls := clustersOf (numAt r.bytes 0x10 8)
      modify (fun s =>
        let s := s.setAgent i { r with step := r.step + 1 }
        let subs := (cls.zipIdx.filter (fun p => touches bs cls.length p.2)).map (fun p =>
          ({ agent := { server := 2, place := p.1 }, q := r.q, bytes := bs, draw := some r.ticket, n := cls.length, r := p.2,
             out := numAt r.bytes 0x0C 2 + p.2 } : AgentRec))
        { s with agents := s.agents ++ subs })

/-- DRAW_RECORD: a distributor's draw goes on by one triangle. -/
def execDrawRecord (idx : Nat) (s : State) : Out :=
  event (fun s =>
    match s.agentAt idx 4 with
    | none => none
    | some r =>
      if drawBad r.bytes then stepE (endRecord idx r 2) s
      else if r.bad ∨ numAt r.bytes 8 4 ≤ r.step then none
      else stepE (sendTriangle idx r) s) s

/-- DRAW_COMPLETE: every triangle has been sent, and every slice has pushed every block; or a triangle has failed, and the
draw fails once its triangles have ended. -/
def execDrawComplete (idx : Nat) (s : State) : Out :=
  event (fun s =>
    match s.agentAt idx 4 with
    | none => none
    | some r =>
      if drawBad r.bytes ∨ (!r.bad ∧ r.step < numAt r.bytes 8 4) ∨ s.agents.any (fun x => x.draw == some r.ticket) then none
      else stepE (endRecord idx r (if r.bad then 5 else 0)) s) s

/-! ### Pixel updates (R464, R465) -/

/-- A pixel-update record breaks its layout. -/
def pixelBad (b : List Byte) : Bool :=
  numAt b 0 8 % 4 != 0 || numAt b 8 4 % 4 != 0 || decide (numAt b 8 4 < 16) || decide (6 < numAt b 0x0E 1) || numAt b 0x0F 1 != 0
    || numAt b 0x10 8 % 4 != 0 || !allZero (b.drop 0x20)

/-- round(a * b / 255) as the blend unit computes it. -/
def mul255 (a b : Nat) : Nat :=
  let t := a * b + 128
  (t + t / 256) / 256

/-- Channel c of a blend: source and destination values, and their alphas. -/
def blendCh (op c s d sa da : Nat) : Nat :=
  match op with
  | 0 => s
  | 1 => min 255 (s + mul255 d (255 - sa))
  | 2 => min 255 (s + d)
  | 3 => mul255 s d
  | 4 => min s d
  | 5 => max s d
  | _ => if c = 3 then min 255 (sa + mul255 da (255 - sa)) else min 255 (mul255 s sa + mul255 d (255 - sa))

/-- A blended pixel: bytes in the order R, G, B, A. -/
def blend (op s d : Nat) : Nat :=
  let ch (v c : Nat) : Nat := fld v (8 * c + 7) (8 * c)
  (List.range 4).foldl (fun v c => v + blendCh op c (ch s c) (ch d c) (ch s 3) (ch d 3) * 256 ^ c) 0

/-- Address of pixel k = i + 4j of the target. -/
def pixelAddr (b : List Byte) (k : Nat) : Nat := numAt b 0 8 + k / 4 * numAt b 8 4 + 4 * (k % 4)

/-- One pixel updated by one atomic. -/
def updatePixel (e : Eng) (b : List Byte) (k : Nat) : EM Unit := do
  let src ← readE e (numAt b 0x10 8 + 4 * k) 4
  let (_, p) ← eng (fun s => s.engAtomic e (pixelAddr b k) 4 (fun d => some (blend (numAt b 0x0E 1) (leNat src) d)))
  if p then throw (.poison none) else return ()

/-- The first masked pixel from k on. -/
def nextPixel (b : List Byte) (k : Nat) : Option Nat := (List.range 16).find? (fun i => decide (k ≤ i) && (numAt b 0x0C 2).testBit i)

/-- PIXEL_UPDATE_RECORD: a blend unit updates the next masked pixel; the signal follows the last. -/
def execPixelUpdateRecord (idx : Nat) (s : State) : Out :=
  event (fun s =>
    match s.agentAt idx 3 with
    | none => none
    | some r =>
      if pixelBad r.bytes then stepE (endRecord idx r 2) s
      else
        match nextPixel r.bytes r.step with
        | none => stepE (endRecord idx r 0) s
        | some k =>
          stepE (do
            match ← tryE (updatePixel (agentEng r.agent (s.queue r.q)) r.bytes k) with
            | none => endRecord idx r 5
            | some _ =>
              if (nextPixel r.bytes (k + 1)).isSome then modify (fun s => s.setAgent idx { r with step := k + 1 })
              else endRecord idx r 0) s) s

end Sys2Proof.Machine
end

