-- ==== Sys2Proof/Machine/Link.lean ====
section
/-! DEFINITION. Physical accesses of control cores and hosts, device links, the route table, hosts, ownership and the supply
monitors (spec/18_link.md R473 to R481, R489). -/

namespace Sys2Proof.Machine

open Sys2Proof

/-! ### Physical accesses (spec/01_device.md R39) -/

/-- A control core or a host as it accesses memory by physical address. -/
def ctlEng : Eng := { g := 0, kind := 5, src := 0, ident := { priv := .m, light := false }, satp := 0#64 }

/-- Where n bytes at a physical address lie. Host memory is reached by the route of its bridging device: the access waits for
it, or fails with an error record (R476). -/
def physTarget (pa n : Nat) : EM Target := do
  let s ← get
  let at_ : Attr := { cache := 2, home := s.devid }
  if 2 ^ 52 < pa + n ∨ rangeOf pa ≠ rangeOf (pa + n - 1) then throw .access
  else
    match rangeOf pa with
    | .hbm => return { a := pa, sram := false, attr := at_ }
    | .vault | .scratch => return { a := pa, sram := true, attr := at_ }
    | .host =>
      match (s.homeOf s.devid pa).1 with
      | .yes => return { a := pa, sram := false, attr := at_ }
      | .later => throw .later
      | .no =>
        modify (·.undelivered s.devid pa 0 63)
        throw .access
    | _ => throw .access

/-- Bytes read at a physical address, with their poison. -/
def physRead (pa n : Nat) : EM (List Byte × Bool) := do
  let t ← physTarget pa n
  let (bs, ps) ← eng (fun s => s.engGet ctlEng t n)
  return (bs, ps.any id)

/-- Bytes read at a physical address; poison fails the read. -/
def physBytes (pa n : Nat) : EM (List Byte) := do
  let (bs, p) ← physRead pa n
  if p then throw (.poison none) else return bs

/-- Bytes written at a physical address, with their poison. -/
def physWrite (pa : Nat) (bs : List Byte) (ps : List Bool) : EM Unit := do
  let t ← physTarget pa bs.length
  eng (fun s => s.engPut ctlEng t bs ps)

/-! ### Links (R473 to R475) -/

/-- Number of device links. -/
def nLinks : Nat := 24

/-- A link. -/
def State.link (s : State) (l : Nat) : Link := s.links.get {} l
/-- The state with a link updated. -/
def State.modLink (s : State) (l : Nat) (f : Link → Link) : State := { s with links := s.links.put l (f (s.link l)) }

/-- STATE code of a link. -/
def LinkSt.code : LinkSt → Nat
  | .down => 0 | .training => 1 | .up => 2 | .degraded => 3 | .retraining => 4 | .failed => 5

/-- The link carries traffic. -/
def LinkSt.carries (x : LinkSt) : Bool := x == .up || x == .degraded

/-- The register of a link (R474). -/
def Link.word (x : Link) : Word :=
  w64 (b2n x.en + x.st.code * 2 ^ 5 + x.lanes * 2 ^ 12 + x.crcerr * 2 ^ 16 + x.retry * 2 ^ 32
    + (if x.st.carries then x.peer else 0) * 2 ^ 52)

/-- The device that an address of the model lies on, or whose host port leads to it. -/
def State.deviceOf (s : State) (a : Nat) : Nat :=
  if 2 ^ 52 ≤ a then a / 2 ^ 52 - 1
  else if rangeOf a = .host then (s.hosts.get none (fld a 50 48)).getD s.devid
  else s.devid

/-- A link in a state that carries nothing: its replay buffer is empty. -/
def Link.idle (x : Link) (st : LinkSt) : Link := { x with st := st, lanes := 0, peer := 0, replay := 0, held := 0 }

/-- A device that is reached by a link. -/
def State.byLink (s : State) (l dev : Nat) : Bool :=
  let v := (s.route.get {} dev).val
  dev != s.devid && v.getLsbD 7 && fld v.toNat 4 0 == l

/-- A read that has been sent over a link and is not answered. -/
def State.sentBy (s : State) (l : Nat) (m : Miss) : Bool := m.issued && s.byLink l (s.deviceOf m.addr)

/-- The requests that a link held and had not got acknowledged fail when it goes Down or Failed (R475, R476): each unacknowledged
store, and each prefetch, has its record; a load that waited issues again, finds the link so, and takes its access fault with its
record. What the far side has performed stays performed (log entry 32). -/
def State.dropFlits (s : State) (l : Nat) : State :=
  let lost := s.acks.filter (fun u => s.byLink l (s.deviceOf u.addr))
  let fails := s.clusters.ents.flatMap (fun e =>
    (e.2.misses.filter (fun m => s.sentBy l m && m.pref)).map (fun m =>
      ({ kind := 12, asid := m.asid, addr := paOf m.addr, cl := e.1, info := l } : ErrRec)))
  { s with
    acks := s.acks.filter (fun u => !s.byLink l (s.deviceOf u.addr))
    clusters := s.clusters.map (fun _ c => { c with misses := c.misses.filter (fun m => !s.sentBy l m) })
    errs := s.errs ++ lost.map (fun u => { kind := 12, asid := (s.ctx u.hart).asid, addr := paOf u.addr, cl := u.hart.cl, info := l })
      ++ fails }

/-- EN of a link written (R475). -/
def State.writeLink (s : State) (l : Nat) (en : Bool) : State :=
  let x := s.link l
  if en then
    if x.st = .down then s.modLink l (fun x => { x with en := true, st := .training })
    else s.modLink l (fun x => { x with en := true })
  else if x.st = .down then s.modLink l (fun x => { x with en := false })
  else (s.dropFlits l).modLink l (fun x => { x.idle .down with en := false })

/-- LINK_ENABLE. -/
def execLinkEnable (who : Party) (l : Nat) (s : State) : Out :=
  event (fun s => if s.mayWrite who none ∧ l < nLinks ∧ (s.link l).st = .down then some (s.writeLink l true) else none) s

/-- LINK_DISABLE. -/
def execLinkDisable (who : Party) (l : Nat) (s : State) : Out :=
  event (fun s => if s.mayWrite who none ∧ l < nLinks ∧ (s.link l).st ≠ .down then some (s.writeLink l false) else none) s

/-- Training or retraining ends: lanes 0 to 3 have trained or not, lanes 4 to 7 have or not. -/
def State.trainLink (s : State) (l : Nat) (low high : Bool) (peer : Nat) : State :=
  if low || high then
    s.modLink l (fun x => { x with st := if low && high then .up else .degraded, lanes := if low && high then 8 else 4,
                                   peer := peer % 4096, replay := 0 })
  else ((s.error { kind := 12, info := l }).dropFlits l).modLink l (·.idle .failed)

/-- LINK_TRAINING_COMPLETE. -/
def execLinkTrainingComplete (l : Nat) (low high : Bool) (peer : Nat) (s : State) : Out :=
  event (fun s =>
    if l < nLinks ∧ ((s.link l).st = .training ∨ (s.link l).st = .retraining) then some (s.trainLink l low high peer) else none) s

/-- Flits in the sender's replay buffer as one of them is checked: that one, those still there, and the newly sent. -/
def Link.inBuffer (x : Link) (sent : Nat) : Nat := min 128 (max 1 (x.held + sent))

/-- The oldest flit of the replay buffer checked: a good one is delivered in order and leaves the buffer; a bad one is replayed
with every flit sent after it; a flit replayed 16 times retrains the link, which keeps the buffer (R473 to R475). -/
def Link.flit (x : Link) (ok : Bool) (sent : Nat) : Link :=
  let n := x.inBuffer sent
  if ok then { x with replay := 0, held := n - 1 }
  else
    let x := { x with crcerr := min 65535 (x.crcerr + 1), retry := min (2 ^ 20 - 1) (x.retry + n), replay := x.replay + 1, held := n }
    if x.replay < 16 then x else { x with st := .retraining, lanes := 0, replay := 0 }

/-- FLIT_RECEIVE. -/
def execFlitReceive (l : Nat) (crcOk : Bool) (s : State) : Out :=
  event (fun s =>
    if l < nLinks ∧ (s.link l).st.carries then
      some ({ s with free := s.free + 1 }.modLink l (·.flit crcOk (Config.flitsSent s.free)))
    else none) s

/-! ### Routes (R476) -/

/-- Writable bits of a route entry: V and the link. -/
def routeMask : Byte := 0x9F#8

/-- A route entry written: the new value waits. -/
def State.writeRoute (s : State) (d : Nat) (v : Byte) : State :=
  { s with route := s.route.put d { (s.route.get {} d) with next := some (v &&& routeMask) } }

/-- ROUTE_TABLE_WRITE. -/
def execRouteTableWrite (who : Party) (d : Nat) (value : Byte) (s : State) : Out :=
  event (fun s => if s.mayWrite who none ∧ d < 4096 then some (s.writeRoute d value) else none) s

/-- A message sent to a device is not acknowledged yet: a store, or a read whose fill has not returned. -/
def State.unanswered (s : State) (d : Nat) : Bool :=
  s.acks.any (fun u => s.deviceOf u.addr == d) || s.clusters.ents.any (fun e => e.2.misses.any (fun m => m.issued && s.deviceOf m.addr == d))

/-- ROUTE_ENTRY_EFFECT: every message sent to the device under the old value has been acknowledged. -/
def execRouteEntryEffect (d : Nat) (s : State) : Out :=
  event (fun s =>
    match (s.route.get {} d).next with
    | none => none
    | some v =>
      if s.unanswered d && d != s.devid then none
      else some { s with route := s.route.put d { val := v } }) s

/-! ### Hosts and ownership (R478 to R481) -/

/-- The host number of a bridging device. -/
def State.hostOf (s : State) (dev : Nat) : Option Nat := (List.range 8).find? (fun h => s.hosts.get none h == some dev)

/-- A host's access: its number, a first access taking the lowest free entry; none for a ninth host (R479). -/
def State.hostEntry (s : State) (dev : Nat) : State × Option Nat :=
  match s.hostOf dev with
  | some h => (s, some h)
  | none =>
    match (List.range 8).find? (fun h => (s.hosts.get none h).isNone) with
    | some h => ({ s with hosts := s.hosts.put h (some dev) }, some h)
    | none => ({ s with hostUr := s.hostUr + 1 }.error { kind := 13, info := dev }, none)

/-- The owner register (R480). -/
def State.ownerWord (s : State) : Word := w64 (s.owner + s.epoch % 2 ^ 16 * 2 ^ 16)

/-- CLAIM written by a host. -/
def State.claim (s : State) (host : Nat) (v : Word) : State :=
  if s.owner = 15 ∧ wfld v 31 16 = s.epoch % 2 ^ 16 ∧ host < 8 then { s with owner := host, epoch := (s.epoch + 1) % 2 ^ 16 } else s

/-- HANDOFF written by a host. -/
def State.handoff (s : State) (host : Nat) (v : Word) : State :=
  let n := wfld v 3 0
  if s.owner = host ∧ host < 8 ∧ (n = 15 ∨ (n < 8 ∧ (s.hosts.get none n).isSome)) then
    { s with owner := n, epoch := (s.epoch + 1) % 2 ^ 16 }
  else s

/-- OWNERSHIP_CLAIM. -/
def execOwnershipClaim (host : Nat) (value : Word) (s : State) : Out :=
  event (fun s => if (s.hosts.get none host).isSome then some (s.claim host value) else none) s

/-- OWNERSHIP_HANDOFF. -/
def execOwnershipHandoff (host : Nat) (value : Word) (s : State) : Out :=
  event (fun s => if (s.hosts.get none host).isSome then some (s.handoff host value) else none) s

/-! ### Supply monitors (R489) -/

/-- The monitor of a cluster. -/
def State.monitor (s : State) (cl : Nat) : Supply := s.supply.get {} cl
/-- The state with a monitor updated. -/
def State.modMonitor (s : State) (cl : Nat) (f : Supply → Supply) : State := { s with supply := s.supply.put cl (f (s.monitor cl)) }

/-- The register of a monitor. -/
def Supply.word (x : Supply) : Word := w64 (x.thresh + b2n x.en * 2 ^ 15 + x.stretch * 2 ^ 24 + x.events * 2 ^ 32)

/-- The register written. -/
def Supply.write (x : Supply) (v : Word) : Supply :=
  let en := wbit v 15
  { x with thresh := wfld v 9 0, en := en, stretch := if en then x.stretch else 0 }

/-- STRETCH rises by one, up to 8, where stretching is on. -/
def Supply.rise (x : Supply) : Supply := if x.en then { x with stretch := min 8 (x.stretch + 1) } else x

/-- SUPPLY_THRESHOLD_CROSSING. -/
def execSupplyThresholdCrossing (cl : Nat) (s : State) : Out :=
  event (fun s =>
    if cl < 40 ∧ !(s.monitor cl).below then
      some (s.modMonitor cl (fun x => { x with below := true, events := min 65535 (x.events + 1) }.rise))
    else none) s

/-- STRETCH_RISE_TICK. -/
def execStretchRiseTick (cl : Nat) (s : State) : Out :=
  event (fun s => if cl < 40 ∧ (s.monitor cl).below then some (s.modMonitor cl Supply.rise) else none) s

/-- SUPPLY_ABOVE_THRESHOLD. -/
def execSupplyAboveThreshold (cl : Nat) (s : State) : Out :=
  event (fun s => if cl < 40 ∧ (s.monitor cl).below then some (s.modMonitor cl (fun x => { x with below := false })) else none) s

/-- STRETCH_FALL_TICK. -/
def execStretchFallTick (cl : Nat) (s : State) : Out :=
  event (fun s =>
    if cl < 40 ∧ !(s.monitor cl).below then some (s.modMonitor cl (fun x => { x with stretch := x.stretch - 1 })) else none) s

/-- SUPPLY_MONITOR_DISABLE: EN is written 0, THRESH as it stands. -/
def execSupplyMonitorDisable (who : Party) (cl : Nat) (s : State) : Out :=
  event (fun s =>
    if s.mayWrite who none ∧ cl < 40 then some (s.modMonitor cl (fun x => { x with en := false, stretch := 0 })) else none) s

end Sys2Proof.Machine
end

