-- ==== Sys2Proof/Machine/Control.lean ====
section
/-! DEFINITION. The control cores: mailboxes, requests, firmware hand-over, attestation and the error log (spec/18_link.md R482
to R488, R490 to R492). -/

namespace Sys2Proof.Machine

open Sys2Proof

/-! ### Mailboxes (R483) -/

/-- Requests in the mailbox of a control core, oldest first. -/
def State.mailbox (s : State) (n : Nat) : List MailReq := s.mail.get [] n
/-- The state with a mailbox replaced. -/
def State.setMailbox (s : State) (n : Nat) (l : List MailReq) : State := { s with mail := s.mail.put n l }

/-- Mailbox status: entries held and doorbells dropped. -/
def State.mailWord (s : State) (n : Nat) : Word := w64 ((s.mailbox n).length + s.maildrop.get 0 n % 2 ^ 16 * 2 ^ 16)

/-- Fields of a request. -/
def reqOp (b : List Byte) : Nat := numAt b 0 2
def reqFunc (b : List Byte) : Nat := numAt b 2 1
def reqTag (b : List Byte) : Nat := numAt b 8 8
def reqReply (b : List Byte) : Nat := numAt b 0x10 8
def reqArg (b : List Byte) (i : Nat) : Nat := numAt b (0x18 + 8 * i) 8

/-- Control cores by number. -/
def coreDispatch : Nat := 1
def coreMemory : Nat := 2
def coreError : Nat := 3
def coreSecurity : Nat := 4
def corePower : Nat := 5
def coreLink : Nat := 6
def coreDebug : Nat := 7

/-- The operations that a control core lists (R483, R485). -/
def coreOps (n : Nat) : List Nat :=
  0 :: (match n with
    | 1 => [16, 17]
    | 2 => [16]
    | 3 => [16]
    | 4 => [1, 2, 3, 4, 5, 6, 7]
    | 5 => [16]
    | 6 => [16]
    | 7 => [16, 17, 18]
    | _ => [])

/-- A doorbell rung: a full mailbox drops and counts it, and reads nothing; otherwise the request is read and queued; a
non-owner's is dropped unless it asks for an attestation; one whose request cannot be read is dropped. None while the way to the
request is not ready. -/
def State.doorbell (s : State) (who : Party) (n : Nat) (v : Word) : Option State :=
  if 16 ≤ (s.mailbox n).length then some { s with maildrop := s.maildrop.put n ((s.maildrop.get 0 n + 1) % 2 ^ 16) }
  else
  match physBytes (wfld v 51 6 * 64) 64 s with
  | .error .later _ => none
  | .error _ s => some s
  | .ok bs s =>
    some (if !s.mayWrite who none && !(n == coreSecurity && reqOp bs == 1) then s
      else s.setMailbox n (s.mailbox n ++ [{ bytes := bs }]))

/-- MAILBOX_DOORBELL. -/
def execMailboxDoorbell (who : Party) (n : Nat) (value : Word) (s : State) : Out :=
  event (fun s => if n < 8 then s.doorbell who n value else none) s

/-- A function of the control cores. -/
def State.func (s : State) (f : Nat) : Func := s.funcs.get {} f
/-- The state with a function updated. -/
def State.modFunc (s : State) (f : Nat) (g : Func → Func) : State := { s with funcs := s.funcs.put f (g (s.func f)) }

/-- Idle, Staged, Transferring. -/
def fnIdle : Nat := 0
def fnStaged : Nat := 1
def fnTransferring : Nat := 2

/-- The request at the head of a mailbox, where its core serves requests now: a function in hand-over holds them (R486). -/
def State.headReq (s : State) (n : Nat) : Option MailReq :=
  if (s.func n).st = fnTransferring then none else (s.mailbox n).head?

/-- A reply written: TAG, status and results; one that cannot be written is lost. -/
def reply (b : List Byte) (status : Nat) (results : List Nat) : EM Unit := do
  let bs := leBytes 8 (reqTag b) ++ leBytes 8 status ++ (results ++ List.replicate (6 - results.length) 0).flatMap (leBytes 8)
  if reqReply b % 64 ≠ 0 then return ()
  else
    let _ ← tryE (physWrite (reqReply b) bs [])
    return ()

/-- What a request comes to: done with results, or refused. -/
inductive Served where
  | done (results : List Nat)
  | refused
deriving DecidableEq, Repr

/-- The head request of a core is served where its operation is the one named, and leaves the mailbox. -/
def serve (n op : Nat) (f : List Byte → EM Served) (s : State) : Out :=
  event (fun s =>
    match s.headReq n with
    | none => none
    | some m =>
      if reqOp m.bytes ≠ op then none
      else
        stepE (do
          modify (fun s => s.setMailbox n ((s.mailbox n).drop 1))
          match ← f m.bytes with
          | .done l => reply m.bytes 0 l
          | .refused => reply m.bytes 1 []) s) s

/-- The first control core whose head request satisfies a test. -/
def State.firstReq (s : State) (p : Nat → Nat → Bool) : Option (Nat × MailReq) :=
  (List.range 8).foldl (fun r n =>
    match r with
    | some x => some x
    | none => (s.headReq n).bind (fun m => if p n (reqOp m.bytes) then some (n, m) else none)) none

/-- REQ_PING: function number and running version. -/
def execReqPing (s : State) : Out :=
  event (fun s =>
    match s.firstReq (fun _ op => op == 0) with
    | none => none
    | some (n, m) =>
      stepE (do
        modify (fun s => s.setMailbox n ((s.mailbox n).drop 1))
        reply m.bytes 0 [n, ((← get).func n).version]) s) s

/-- REQ_UNKNOWN_OP. -/
def execReqUnknownOp (s : State) : Out :=
  event (fun s =>
    match s.firstReq (fun n op => !(coreOps n).contains op) with
    | none => none
    | some (n, m) =>
      stepE (do
        modify (fun s => s.setMailbox n ((s.mailbox n).drop 1))
        reply m.bytes 2 []) s) s

/-! ### Security: images, attestation, keys (R483, R484, R486 to R488) -/

/-- Bytes of a 512-bit digest or signature. -/
def bytes64 (v : BitVec 512) : List Byte := leBytes 64 v.toNat

/-- The attestation report but for its signature (R488). -/
def State.reportBody (s : State) (f : Nat) (nonce : List Byte) : List Byte :=
  let x := s.func f
  let pend := x.st != fnIdle
  leBytes 4 0x4B5A4154 ++ leBytes 2 1 ++ leBytes 1 f ++ leBytes 1 (b2n pend) ++ leBytes 8 s.hseq ++ nonce
    ++ leBytes 8 x.version ++ leBytes 8 (if pend then x.sver else 0) ++ bytes64 x.meas ++ bytes64 (if pend then x.smeas else 0#512)

/-- REQ_ATTEST: the report is fixed at the answer; it names a function 0 to 7. -/
def execReqAttest (s : State) : Out :=
  event (fun s =>
    match s.headReq coreSecurity with
    | none => none
    | some m =>
      if reqOp m.bytes ≠ 1 then none
      else
        stepE (do
          modify (fun s => s.setMailbox coreSecurity ((s.mailbox coreSecurity).drop 1))
          if 8 ≤ reqFunc m.bytes ∨ reqReply m.bytes % 64 ≠ 0 then return ()
          else
            let body := (← get).reportBody (reqFunc m.bytes) ((m.bytes.drop 0x18).take 32)
            let _ ← tryE (physWrite (reqReply m.bytes) (body ++ bytes64 (Config.deviceSign body)) [])
            return ()) s) s

/-- An image is one that STAGE accepts for a function. -/
def State.imageOk (s : State) (f : Nat) (img : List Byte) : Bool :=
  let (fn, ver, cnt) := Config.imageFields img
  Config.vendorSigned (Config.sha512 img) img && fn == f && decide (s.minver.get 0 f ≤ ver) && decide (s.fuses.get 0 f ≤ cnt)

/-- REQ_STAGE. -/
def execReqStage (s : State) : Out :=
  serve coreSecurity 2 (fun b => do
    let f := reqFunc b
    if 8 ≤ f ∨ ((← get).func f).st = fnTransferring then return .refused
    else
      match ← tryE (physBytes (reqArg b 0) (reqArg b 1)) with
      | none => return .refused
      | some img =>
        if !(← get).imageOk f img then return .refused
        else
          let (_, ver, cnt) := Config.imageFields img
          modify (fun s => s.modFunc f (fun x => { x with st := fnStaged, sver := ver, smeas := Config.sha512 img, scnt := cnt }))
          return .done []) s

/-- A function without a staged image. -/
def Func.unstage (x : Func) : Func := { x with st := fnIdle, sver := 0, smeas := 0#512, scnt := 0 }

/-- REQ_COMMIT: the hand-over of a Staged function begins. -/
def execReqCommit (s : State) : Out :=
  serve coreSecurity 3 (fun b => do
    let f := reqFunc b
    if f < 8 ∧ ((← get).func f).st = fnStaged then
      modify (fun s => s.modFunc f (fun x => { x with st := fnTransferring }))
      return .done []
    else return .refused) s

/-- REQ_ABORT. -/
def execReqAbort (s : State) : Out :=
  serve coreSecurity 4 (fun b => do
    let f := reqFunc b
    if f < 8 ∧ ((← get).func f).st = fnStaged then
      modify (fun s => s.modFunc f Func.unstage)
      return .done []
    else return .refused) s

/-- HANDOVER_COMMIT_POINT: the incoming image runs; HSEQ counts it, and the counter fuse rises to its counter if higher. -/
def execHandoverCommitPoint (f : Nat) (s : State) : Out :=
  event (fun s =>
    let x := s.func f
    if 8 ≤ f ∨ x.st ≠ fnTransferring then none
    else
      some { s.modFunc f (fun x => { x.unstage with version := x.sver, meas := x.smeas }) with
        hseq := s.hseq + 1, fuses := s.fuses.put f (max (s.fuses.get 0 f) x.scnt) }) s

/-- HANDOVER_FAILURE: the outgoing image resumes and the staged image is discarded. -/
def execHandoverFailure (f : Nat) (s : State) : Out :=
  event (fun s => if 8 ≤ f ∨ (s.func f).st ≠ fnTransferring then none else some (s.modFunc f Func.unstage)) s

/-- A key slot's number is one that the requests name. -/
def keySlotOk (n : Nat) : Bool := decide (1 ≤ n) && decide (n < 2048)

/-- REQ_KEYLOAD. -/
def execReqKeyload (s : State) : Out :=
  serve coreSecurity 5 (fun b => do
    let n := reqArg b 0
    let s ← get
    match s.tkey with
    | none => return .refused
    | some tk =>
      if !keySlotOk n || (s.keys.get none n).isSome then return .refused
      else
        match ← tryE (physBytes (reqArg b 1) 40) with
        | none => return .refused
        | some w =>
          match Config.keyUnwrap tk w with
          | none => return .refused
          | some k =>
            modify (fun s => { s with keys := s.keys.put n (some k) })
            return .done []) s

/-- Every L2 line tagged with a key index is written back and leaves. -/
def State.flushKey (s : State) (n : Nat) : State :=
  s.clusters.ents.foldl (fun s e =>
    let s := (e.2.l2.filter (fun l => l.key == n)).foldl (fun s l => s.writeBack e.1 l) s
    s.modCluster e.1 (fun c => { c with l2 := c.l2.filter (fun l => l.key != n) })) s

/-- REQ_KEYCLEAR. -/
def execReqKeyclear (s : State) : Out :=
  serve coreSecurity 6 (fun b => do
    let n := reqArg b 0
    if !keySlotOk n then return .refused
    else
      modify (fun s => { s.flushKey n with keys := s.keys.put n none })
      return .done []) s

/-- REQ_TKSET: once per package reset. -/
def execReqTkset (s : State) : Out :=
  serve coreSecurity 7 (fun b => do
    if (← get).tkey.isSome then return .refused
    else
      match ← tryE (physBytes (reqArg b 0) 32) with
      | none => return .refused
      | some k =>
        modify (fun s => { s with tkey := some (BitVec.ofNat 256 (leNat k)) })
        return .done []) s

/-! ### Dispatch (R485) -/

/-- REQ_KSTATE. -/
def execReqKstate (s : State) : Out :=
  serve coreDispatch 16 (fun b => do
    let s ← get
    match s.workOf (reqArg b 1 % 2 ^ 16) (w64 (reqArg b 0)) with
    | none => return .done [6]
    | some k => return .done [((s.workAt k).word k).toNat]) s

/-- The head request of a mailbox marked as begun. -/
def State.beginReq (s : State) (n : Nat) : State :=
  s.setMailbox n (match s.mailbox n with
    | [] => []
    | m :: r => { m with begun := true } :: r)

/-- REQ_KCANCEL: the target is cancelled with cause 4; the reply follows once it has ended. -/
def execReqKcancel (s : State) : Out :=
  event (fun s =>
    match s.headReq coreDispatch with
    | none => none
    | some m =>
      if reqOp m.bytes ≠ 17 then none
      else
        let done (v : Nat) : Option State := stepE (do
          modify (fun s => s.setMailbox coreDispatch ((s.mailbox coreDispatch).drop 1))
          reply m.bytes 0 [v]) s
        match s.workOf (reqArg m.bytes 1 % 2 ^ 16) (w64 (reqArg m.bytes 0)) with
        | none => done (if m.begun then 0 else 3)
        | some k =>
          let w := s.workAt k
          if w.st = .starting ∨ w.st = .running then some ((s.sweepAt k 4).beginReq coreDispatch)
          else if w.busy then none
          else done (if m.begun then 0 else if w.outcome = 3 then 1 else 2)) s

/-! ### Memory, error, power, link (R485) -/

/-- REQ_SCRUB: single-bit errors of the range are corrected and counted; uncorrectable blocks stay poisoned and are logged. -/
def execReqScrub (s : State) : Out :=
  serve coreMemory 16 (fun b => do
    let a := reqArg b 0
    let n := reqArg b 1
    if a % 32 ≠ 0 ∨ n % 32 ≠ 0 ∨ 0x10000000000 < a + n then return .refused
    else
      let inside (x : Nat) : Bool := decide (a ≤ x) && decide (x < a + n)
      let bad := sortBy id ((← get).poison.filter inside)
      modify (fun s =>
        let hit := (s.soft.filter inside).length
        let s := { s with soft := s.soft.filter (fun x => !inside x), corrected := s.corrected + w64 hit }
        s.errors (bad.map (fun x => { kind := 15, sev := 1, addr := x, inj := s.injected.contains x })))
      return .done [bad.length]) s

/-- REQ_ECOUNT. -/
def execReqEcount (s : State) : Out :=
  serve coreError 16 (fun _ => do
    let s ← get
    return .done [s.corrected.toNat, s.eseq, s.edropped]) s

/-- REQ_MONREAD. -/
def execReqMonread (s : State) : Out :=
  serve corePower 16 (fun b => do
    let s ← get
    if 40 ≤ reqArg b 0 then return .refused else return .done [(s.monitor (reqArg b 0)).word.toNat]) s

/-- REQ_RETRAIN. -/
def execReqRetrain (s : State) : Out :=
  serve coreLink 16 (fun b => do
    let l := reqArg b 0
    if l < nLinks ∧ ((← get).link l).st.carries then
      modify (fun s => s.modLink l (fun x => { x with st := .retraining, lanes := 0, replay := 0 }))
      return .done []
    else return .refused) s

/-! ### Debug (R485, R492) -/

/-- The global core rank that ARG0 of a debug request names. -/
def debugCore (b : List Byte) : Option Nat :=
  let v := reqArg b 0
  if fld v 11 6 < 40 then some (fld v 11 6 * 64 + fld v 5 0) else none

/-- REQ_HALT. -/
def execReqHalt (s : State) : Out :=
  serve coreDebug 16 (fun b => do
    match debugCore b with
    | none => return .refused
    | some g =>
      modify (fun s => if (s.core g).halted then s else s.haltCore g)
      return .done [((← get).core g).haltWord.toNat]) s

/-- REQ_RESUME. -/
def execReqResume (s : State) : Out :=
  serve coreDebug 17 (fun b => do
    match debugCore b with
    | none => return .refused
    | some g =>
      modify (fun s => if (s.core g).halted then s.resumeCore g else s)
      return .done []) s

/-- The heavy image of a context of a core, block by block with its poison. -/
def State.debugImage (s : State) (g : Nat) (h : Hart) (c : Ctx) : List (List Byte × Bool) :=
  let k := s.core g
  let vset := match s.peekCode g (identOf c c.priv h) c.satp c.pc.toNat with
    | some w => isVset w
    | none => false
  (c.header (c.flags false vset + b2n (k.imagePois c) * 2 ^ 14), false) :: k.imageBlocks c

/-- A control core that reads the scratchpad of a core through its port (spec/07_context.md R206). -/
def debugEng (g : Nat) : Eng := { ctlEng with g := g / 64 * 64, src := g / 64 }

/-- Blocks of a core's scratchpad from block i on. -/
def debugScratch (g : Nat) : Nat → Nat → EM (List (List Byte × Bool))
  | 0, _ => return []
  | n + 1, i => do
    let (bs, p) ← eng (fun s => s.engGet (debugEng g) { a := scratchPa g (32 * i), sram := true, attr := {} } 32)
    let r ← debugScratch g n (i + 1)
    return (bs, p.any id) :: r

/-- What HREAD copies of a halted core. -/
def debugPart (g part idx : Nat) : EM (Option (List (List Byte × Bool))) := do
  let s ← get
  match part with
  | 0 => return if idx < 8 then (s.slot (g * 8 + idx)).ctx.map (s.debugImage g (g * 8 + idx)) else none
  | 1 => return ((s.core g).ken idx).ctx.map (s.debugImage g (g * 8))
  | 2 => return some (← debugScratch g 8192 0)
  | 3 => return some [(leBytes 8 (s.core g).haltWord.toNat ++ leBytes 8 (s.srankView g).toNat
      ++ (List.range 8).flatMap (fun i => leBytes 8 (skennelView (s.slot (g * 8 + i)) (s.core g)).toNat), false)]
  | _ => return none

/-- Blocks written at a physical address. -/
def physBlocks : Nat → List (List Byte × Bool) → EM Unit
  | _, [] => return ()
  | pa, (bs, p) :: r => do
    physWrite pa bs (List.replicate bs.length p)
    physBlocks (pa + bs.length) r

/-- REQ_HREAD. -/
def execReqHread (s : State) : Out :=
  serve coreDebug 18 (fun b => do
    let s ← get
    match debugCore b with
    | none => return .refused
    | some g =>
      if !(s.core g).halted ∨ reqArg b 2 % 64 ≠ 0 then return .refused
      else
        match ← debugPart g (fld (reqArg b 1) 7 0) (fld (reqArg b 1) 12 8) with
        | none => return .refused
        | some l =>
          match ← tryE (physBlocks (reqArg b 2) l) with
          | none => return .refused
          | some _ => return .done [l.foldl (fun n x => n + x.1.length) 0, b2n ((← get).core g).stale]) s

/-! ### The error log (R490, R491) -/

/-- The 32 bytes of an error record. -/
def ErrRec.bytes (e : ErrRec) (seq : Nat) : List Byte :=
  leBytes 32 (seq % 2 ^ 32 + e.kind % 2 ^ 8 * 2 ^ 32 + e.sev % 4 * 2 ^ 40 + b2n e.inj * 2 ^ 42 + b2n e.lost * 2 ^ 43
    + e.asid % 2 ^ 16 * 2 ^ 48 + e.addr % 2 ^ 52 * 2 ^ 64 + e.cl % 64 * 2 ^ 116 + e.launch % 2 ^ 16 * 2 ^ 128
    + e.info % 2 ^ 112 * 2 ^ 144)

/-- Records that the log holds. -/
def logSize (elog : Word) : Nat := 2 ^ (wfld elog 11 8 + 6)

/-- The log takes another record: logging is on and a record is free. -/
def State.logRoom (s : State) : Bool := wbit s.elog 0 && decide ((s.eseq + 2 ^ 32 - s.ehead) % 2 ^ 32 < logSize s.elog)

/-- ELOGS as it reads. -/
def State.elogsWord (s : State) : Word := w64 (s.eseq % 2 ^ 32 + s.edropped * 2 ^ 32 + s.evec * 2 ^ 48)

/-- A record appended, or counted as dropped. -/
def State.logError (s : State) (e : ErrRec) : State :=
  if s.logRoom then
    let s := s.directWrite 0 (wfld s.elog 51 12 * 4096 + 32 * (s.eseq % logSize s.elog)) 0 (e.bytes s.eseq) none {}
    { s with eseq := s.eseq + 1 }
  else { s with edropped := min 65535 (s.edropped + 1) }

/-- ERROR_RECORD: the oldest record under way is logged or counted, and the owner is interrupted. -/
def execErrorRecord (s : State) : Out :=
  event (fun s =>
    match s.errs with
    | [] => none
    | e :: rest =>
      let s := { s with errs := rest }.logError e
      some (if s.owner < 8 then { s with msis := s.msis ++ [(s.owner, s.evec)] } else s)) s

end Sys2Proof.Machine
end

