-- ==== Sys2Proof/Machine/Device.lean ====
section
/-! DEFINITION. The device-register range as a map of doublewords, and what hosts do over it (spec/00_scope.md R4, R5;
spec/01_device.md R37, R39; spec/04_memory.md R112; spec/11_group.md R307 to R312, R319; spec/12_barrier.md R329, R330;
spec/17_queue.md R447 to R449; spec/18_link.md R473 to R491). -/

namespace Sys2Proof.Machine

open Sys2Proof

/-! ### Queue registers (spec/17_queue.md R447) -/

/-- A configuration register of a queue, by its doubleword. -/
def State.queueReg (s : State) (q i : Nat) : Word :=
  let x := s.queue q
  match i with
  | 0 => w64 x.base
  | 1 => x.satp
  | 2 => x.ctl
  | 3 => w64 x.rd
  | 4 => w64 x.wr
  | 5 => s.queueWord q
  | _ => 0#64

/-- It written: BASE and SATP only while Disabled, CTL by the state table. -/
def State.writeQueueReg (s : State) (q i : Nat) (v : Word) : State :=
  match i with
  | 0 => s.modQueue q (fun x => if x.st = qDisabled then { x with base := v.toNat } else x)
  | 1 => s.modQueue q (fun x => if x.st = qDisabled then { x with satp := v } else x)
  | 2 => s.writeCtl q v
  | _ => s

/-! ### Cluster blocks (spec/04_memory.md R112; spec/11_group.md; spec/12_barrier.md) -/

/-- Writable bits of a vault grant register (spec/11_group.md R312). -/
def grantMask : Word := 0xFFFFFFFFFFF03#64

/-- A barrier entry's doubleword (spec/12_barrier.md R329). -/
def Bar.word (b : Bar) (i : Nat) : Word :=
  if i = 0 then w64 (b.count + b.arrived * 2 ^ 24 + b.grp * 2 ^ 52 + b2n b.g * 2 ^ 61 + b.st * 2 ^ 62)
  else w64 (b.launch + b.asid * 2 ^ 16 + b.phase * 2 ^ 32)

/-- Lines of a class in all slices. -/
def Cluster.occupancySum (c : Cluster) (cls : Nat) : Nat := c.l2.countP (fun l => l.cls == cls)

/-- A rank-table entry (spec/11_group.md R319). -/
def State.rankWord (s : State) (cl c : Nat) : Word := w64 (s.physOf (cl * 64 + c) + b2n (s.inTransit (cl * 64 + c)) * 2 ^ 8)

/-- A register of a cluster's block at an offset, or none where no register stands; the broadcast fill masks are write-only and
read 0 (spec/00_scope.md R4). -/
def State.clusterReg (s : State) (cl o : Nat) : Option Word :=
  let c := s.cluster cl
  if o < 0x80 then some 0#64
  else if o < 0x1000 then none
  else if o < 0x3000 then some (w64 (c.mask ((o - 0x1000) / 0x80) (o % 0x80 / 8)))
  else if 0x4000 ≤ o ∧ o < 0x6000 then some (w64 (c.occupancy ((o - 0x4000) / 0x80) (o % 0x80 / 8)))
  else if 0x8000 ≤ o ∧ o < 0x8080 then some (w64 (c.occupancySum ((o - 0x8000) / 8)))
  else if 0x10000 ≤ o ∧ o < 0x10400 then
    let g := c.group ((o - 0x10000) / 16)
    some (w64 (if o % 16 = 0 then g.cores else g.word))
  else if 0x11000 ≤ o ∧ o < 0x11200 then some (s.rankWord cl ((o - 0x11000) / 8))
  else if o = 0x11200 then some (w64 (s.spareMask cl % 2 ^ 64))
  else if o = 0x11208 then some (w64 (s.spareMask cl / 2 ^ 64))
  else if o = 0x11210 then some (w64 (c.retired % 2 ^ 64))
  else if o = 0x11218 then some (w64 (c.retired / 2 ^ 64))
  else if 0x12000 ≤ o ∧ o < 0x14000 then some (c.seg ((o - 0x12000) / 0x80) (o % 0x80 / 8)).val
  else if 0x14000 ≤ o ∧ o < 0x14080 then some (c.grants.get 0#64 ((o - 0x14000) / 8))
  else if 0x15000 ≤ o ∧ o < 0x15400 then some ((c.bar ((o - 0x15000) / 16)).word (o / 8 % 2))
  else if o = 0x15400 then some (w64 c.park.length)
  else none

/-- It written; none while the write waits for a segment that is being zeroed. -/
def Cluster.writeReg (c : Cluster) (o : Nat) (v : Word) : Option Cluster :=
  if o < 0x80 then some (c.castMask (o / 8) (wfld v 15 0))
  else if 0x1000 ≤ o ∧ o < 0x3000 then
    some { c with fmask := c.fmask.put ((o - 0x1000) / 0x80 * 16 + o % 0x80 / 8) (wfld v 15 0) }
  else if 0x10000 ≤ o ∧ o < 0x10400 then
    let g := (o - 0x10000) / 16
    some (if o % 16 = 0 then c.writeCores g v.toNat else c.writeGroup g v.toNat)
  else if 0x12000 ≤ o ∧ o < 0x14000 then
    let k := (o - 0x12000) / 0x80
    let i := o % 0x80 / 8
    if (c.seg k i).next.isSome then none else some (c.setSeg k i ((c.seg k i).write v))
  else if 0x14000 ≤ o ∧ o < 0x14080 then some { c with grants := c.grants.put ((o - 0x14000) / 8) (v &&& grantMask) }
  else some c

/-! ### The control block (spec/18_link.md) -/

/-- A host-table entry (R479). -/
def State.hostWord (s : State) (h : Nat) : Word :=
  match s.hosts.get none h with
  | some d => w64 (2 ^ 63 + d)
  | none => 0#64

/-- Eight route entries from an even place. -/
def State.routeWord (s : State) (d : Nat) : Word :=
  w64 (leNat ((List.range 8).map (fun i => (s.route.get {} (d + i)).val)))

/-- Writable bits of ELOG (R490). -/
def elogMask : Word := 0xFFFFFFFFFFF01#64

/-- A register of the control block at an offset, or none where no register stands; CLAIM, HANDOFF and the doorbells are
write-only and read 0 (spec/00_scope.md R4). -/
def State.controlReg (s : State) (o : Nat) : Option Word :=
  if o < 8 * nLinks then some (s.link (o / 8)).word
  else if 0x2000 ≤ o ∧ o < 0x3000 then some (s.routeWord (o - 0x2000))
  else if o = 0x10000 then some s.ownerWord
  else if o = 0x10008 ∨ o = 0x10010 then some 0#64
  else if o = 0x10018 then some (w64 s.devid)
  else if 0x10100 ≤ o ∧ o < 0x10140 then some (s.hostWord ((o - 0x10100) / 8))
  else if 0x20000 ≤ o ∧ o < 0x28000 ∧ o % 0x1000 = 0 then some 0#64
  else if 0x20000 ≤ o ∧ o < 0x28000 ∧ o % 0x1000 = 8 then some (s.mailWord ((o - 0x20000) / 0x1000))
  else if o = 0x30000 then some s.elog
  else if o = 0x30008 then some s.elogsWord
  else if o = 0x30010 then some s.corrected
  else if 0x40000 ≤ o ∧ o < 0x40140 then some (s.monitor ((o - 0x40000) / 8)).word
  else none

/-- DEVID written: ignored while any link is not Down (R477). -/
def State.writeDevid (s : State) (v : Word) : State :=
  if (List.range nLinks).all (fun l => (s.link l).st == .down) then { s with devid := wfld v 11 0 } else s

/-- A register of the control block written by a party that may write. -/
def State.writeControl (s : State) (o : Nat) (v : Word) : State :=
  if o < 8 * nLinks then s.writeLink (o / 8) (wbit v 0)
  else if 0x2000 ≤ o ∧ o < 0x3000 then
    (List.range 8).foldl (fun s i => s.writeRoute (o - 0x2000 + i) (v.extractLsb' (8 * i) 8)) s
  else if o = 0x10018 then s.writeDevid v
  else if o = 0x30000 then { s with elog := v &&& elogMask }
  else if o = 0x30008 then { s with evec := wfld v 58 48, ehead := wfld v 31 0 }
  else if 0x40000 ≤ o ∧ o < 0x40140 then s.modMonitor ((o - 0x40000) / 8) (·.write v)
  else s

/-! ### The whole range (spec/01_device.md R37) -/

/-- Offsets of the parts of the range. -/
def queueBlock : Nat := 0x40000000
def clusterBlock : Nat := 0x80000000
def controlBlock : Nat := 0xC0000000

/-- The address is a doubleword of the range. -/
def isReg (a : Nat) : Bool := rangeOf a = .regs && a % 8 == 0

/-- The register at an address, or none where no register stands. -/
def State.regRead (s : State) (a : Nat) : Option Word :=
  let o := a - regsBase
  if o < queueBlock then (if o % 4096 = 0 ∧ o / 4096 < nQueues then some (w64 (s.queue (o / 4096)).wr) else none)
  else if o < queueBlock + 64 * nQueues then some (s.queueReg ((o - queueBlock) / 64) (o % 64 / 8))
  else if clusterBlock ≤ o ∧ o < clusterBlock + 40 * 2 ^ 20 then s.clusterReg ((o - clusterBlock) / 2 ^ 20) (o % 2 ^ 20)
  else if controlBlock ≤ o then s.controlReg (o - controlBlock)
  else none

/-- A register written by a party. A write that the party may not make is ignored; every host may write CLAIM and HANDOFF,
and ring a doorbell, which judges for itself (spec/18_link.md R480, R481, R483). None while the write waits. -/
def State.regWrite (s : State) (who : Party) (a : Nat) (v : Word) : Option State :=
  let o := a - regsBase
  let may (cl : Option Nat) (f : State → Option State) : Option State := if s.mayWrite who cl then f s else some s
  if o < queueBlock then may none (fun s => some (if o % 4096 = 0 ∧ o / 4096 < nQueues then s.modQueue (o / 4096) (·.notify v) else s))
  else if o < queueBlock + 64 * nQueues then may none (fun s => some (s.writeQueueReg ((o - queueBlock) / 64) (o % 64 / 8) v))
  else if clusterBlock ≤ o ∧ o < clusterBlock + 40 * 2 ^ 20 then
    let k := (o - clusterBlock) / 2 ^ 20
    may (some k) (fun s => ((s.cluster k).writeReg (o % 2 ^ 20) v).map (s.setCluster k))
  else if controlBlock ≤ o then
    let c := o - controlBlock
    if 0x20000 ≤ c ∧ c < 0x28000 ∧ c % 0x1000 = 0 then s.doorbell who ((c - 0x20000) / 0x1000) v
    else if c = 0x10008 ∨ c = 0x10010 then
      some (match who with
        | .host h => if c = 0x10008 then s.claim h v else s.handoff h v
        | _ => s)
    else may none (fun s => some (s.writeControl c v))
  else some s

/-- A party that exists: a host of the table, a control core, the firmware of a cluster. -/
def State.partyOk (s : State) (who : Party) : Bool :=
  match who with
  | .host h => (s.hosts.get none h).isSome
  | .control n => decide (n < 8)
  | .firmware k => decide (k < 40)

/-- REGISTER_WRITE: a CSR instruction, or a write to a device register. -/
def execRegisterWrite (r : RegWrite) (s : State) : Out :=
  match r with
  | .csr op immForm rd src csr => runThread (csrWriteInstr op immForm rd src csr.toNat) s
  | .dev who a v => event (fun s => if isReg a ∧ s.partyOk who then s.regWrite who a v else none) s

/-! ### Hosts (spec/18_link.md R478 to R481) -/

/-- A word that the spec leaves open, as an answer to a host. -/
def State.openAnswer (s : State) : State :=
  let (n, s) := s.draw
  { s with hostData := Config.freeWord n :: s.hostData }

/-- A device register answered to a host. -/
def State.answerReg (s : State) (a : Nat) : State :=
  match s.regRead a with
  | some v => { s with hostData := v :: s.hostData }
  | none => s.openAnswer

/-- A doubleword of HBM answered to a host; poison gives no value. -/
def State.answerMem (s : State) (a : Nat) : State :=
  match physRead a 8 s with
  | .ok (bs, p) s => if p then s.openAnswer else { s with hostData := w64 (leNat bs) :: s.hostData }
  | .error _ s => s.openAnswer

/-- A doubleword of HBM written by a host: a write by a non-owner is dropped with an error record (R481). -/
def State.hostStore (s : State) (h a : Nat) (v : Word) : State :=
  if s.mayWrite (.host h) none then
    match physWrite a (leBytes 8 v.toNat) [] s with
    | .ok _ s => s
    | .error _ s => s
  else s.error { kind := 13, addr := a, info := h }

/-- The address is a doubleword of BAR2: HBM. -/
def isBar2 (a : Nat) : Bool := localHbm a && a % 8 == 0

/-- A doubleword of on-package SRAM that a control core, or the firmware of a cluster in its own vault and scratchpads, reaches by
physical address (spec/01_device.md R39), with the party as an engine. -/
def partySram (who : Party) (a : Nat) : Option Eng :=
  if a % 8 ≠ 0 then none
  else
    match who, rangeOf a with
    | .control n, .vault | .control n, .scratch => if n < 8 then some ctlEng else none
    | .firmware k, .vault => if k < 40 ∧ (a - vaultBase) / 2 ^ 26 = k then some { ctlEng with g := k * 64, src := k } else none
    | .firmware k, .scratch => if k < 40 ∧ (scratchAt a).1 / 64 = k then some { ctlEng with g := k * 64, src := k } else none
    | _, _ => none

/-- It read or written; none while its port does not serve it. -/
def State.sramAccess (s : State) (e : Eng) (a : Nat) (v : Option Word) : Option State :=
  let t : Target := { a := a, sram := true, attr := {} }
  match v with
  | some v =>
    match s.engPut e t (leBytes 8 v.toNat) [] with
    | (s, .ok _) => some s
    | (_, .error _) => none
  | none =>
    match s.engGet e t 8 with
    | (s, .ok (bs, ps)) => some (if ps.any id then s.openAnswer else { s with hostData := w64 (leNat bs) :: s.hostData })
    | (_, .error _) => none

/-- A doubleword reached by physical address by a control core, or by the firmware of a cluster: a register of the device range, or
on-package SRAM (spec/01_device.md R39; spec/04_memory.md R112). None while it must wait, and for a party that has no such way. -/
def State.physAccess (s : State) (who : Party) (a : Nat) (v : Option Word) : Option State :=
  if isReg a then
    match who with
    | .host _ => none
    | _ => if s.partyOk who then (match v with | some v => s.regWrite who a v | none => some (s.answerReg a)) else none
  else (partySram who a).bind (fun e => s.sramAccess e a v)

/-- A host's access by its bridging device: a first access takes an entry of the host table, a ninth host's is refused. -/
def State.byHost (s : State) (dev : Nat) (f : State → Nat → Option State) : Option State :=
  if 4096 ≤ dev then none
  else
    match s.hostEntry dev with
    | (s, some h) => f s h
    | (s, none) => some s

/-- HOST_REQUEST. -/
def execHostRequest (r : HostReq) (s : State) : Out :=
  event (fun s =>
    match r with
    | .readReg dev a => if isReg a then s.byHost dev (fun s _ => some (s.answerReg a)) else none
    | .writeReg dev a v => if isReg a then s.byHost dev (fun s h => s.regWrite (.host h) a v) else none
    | .readMem dev a => if isBar2 a then s.byHost dev (fun s _ => some (s.answerMem a)) else none
    | .writeMem dev a v => if isBar2 a then s.byHost dev (fun s h => some (s.hostStore h a v)) else none
    | .ownMem h a v =>
      if h < 8 ∧ a + 8 ≤ 2 ^ 48 then some (s.putBytes (hostBase + h * 2 ^ 48 + a) (leBytes 8 v.toNat) none) else none
    | .peerMem home a v =>
      if home < 4096 ∧ home ≠ s.devid ∧ a + 8 ≤ 2 ^ 40 then
        some (s.putBytes ((home + 1) * 2 ^ 52 + a) (leBytes 8 v.toNat) none)
      else none
    | .phys who a v => s.physAccess who a v) s

end Sys2Proof.Machine
end

