-- ==== Sys2Proof/Machine/Fail.lean ====
section
/-! DEFINITION. Uncorrectable errors, package reset and power-on (spec/00_scope.md R6; spec/06_page.md R165, R167;
spec/07_context.md R199; spec/09_tile.md R257; spec/12_barrier.md R334; spec/13_task.md R357, R358; spec/14_kernel.md R377,
R379; spec/15_frontier.md R403; spec/16_beam.md R438; spec/10_transfer.md R295). -/

namespace Sys2Proof.Machine

open Sys2Proof

/-! ### Uncorrectable errors -/

/-- A block of memory struck (R165). -/
def State.strikeBlock (s : State) (a : Nat) : Option State :=
  match rangeOf (paOf a) with
  | .regs | .reserved => none
  | _ => some (s.setPoison (blk a) true)

/-- A valid sector of an L2 line struck; a zero line holds no data (spec/04_memory.md R105). -/
def State.strikeL2 (s : State) (cl a : Nat) : Option State :=
  match (s.cluster cl).l2.find? (fun l => l.addr == down a 256) with
  | none => none
  | some l =>
    if l.valid.getLsbD (sectorOf a) && !l.zero then
      some (s.modCluster cl (·.putLine { l with poison := setB8 l.poison (sectorOf a) true }))
    else none

/-- A line of an L1D struck. -/
def State.strikeL1d (s : State) (g a : Nat) : Option State :=
  if (s.core g).l1d.any (fun l => l.addr == blk a) then
    some (s.modCore g (fun c => { c with l1d := c.l1d.map (fun l => if l.addr = blk a then { l with poison := true } else l) }))
  else none

/-- A block of a line of an L1I struck. -/
def State.strikeL1i (s : State) (g a : Nat) : Option State :=
  if (s.core g).l1i.any (fun l => l.addr == down a 64) then
    some (s.modCore g (fun c => { c with l1i := c.l1i.map (fun l =>
      if l.addr = down a 64 then { l with poison := BitVec.ofNat 2 (nput l.poison.toNat (a / 32 % 2) (a / 32 % 2) 1) } else l) }))
  else none

/-- A Kennel entry that holds a context is struck: it is Failed, its context lost with what it held, and its launch fails with
cause 7 (R199, R377). While an image loads, the image names the context's launch. -/
def State.strikeKennel (s : State) (g ent : Nat) : Option State :=
  let en := (s.core g).ken ent
  match en.st, en.ctx with
  | .empty, _ | .failed, _ | _, none => none
  | _, some c =>
    let own := s.kenOwner g ent
    let s := s.modCore g (fun k => (k.forget c).setKen ent { st := .failed })
    let id := own.getD (wfld en.satp 59 44, 0, 0)
    let s := s.error { kind := 9, lost := own.isSome, asid := id.1, cl := g / 64, launch := id.2.1 }
    some (if own.isSome then s.loseWeight id.2.1 else s)

/-- The address space of the context on a core that has claimed an accumulator. -/
def State.accAsid (s : State) (g p : Nat) : Nat :=
  let holds (c : Ctx) : Bool := c.claimed.any (fun n => c.acc n == some p)
  let cs := (List.range 8).filterMap (fun i => (s.slot (g * 8 + i)).ctx) ++ ((s.core g).kennel.ents.filterMap (fun e => e.2.ctx))
  ((cs.find? holds).map (·.asid)).getD 0

/-- The ASID and the launch of whoever holds an accumulator: a Herder task, or a context of the core. -/
def State.accHolder (s : State) (g p : Nat) : Nat × Nat :=
  match ((s.cluster (g / 64)).tasks.ents.find? (fun e =>
      e.2.st == .running && recKind e.2.bytes == 0 && g / 64 * 64 + e.2.place == g && e.2.acc == p)) with
  | some e => if ((s.core g).acc p).st = .taskHeld then (e.2.ident.asid, e.2.launch) else (s.accAsid g p, 0)
  | none => (s.accAsid g p, 0)

/-- An accumulator struck: its ERR bit is set and a record is charged to its holder (R256). A Claimed one is Failed, with error
address 0 (R257, R273); what a Herder task does with a struck one is in `State.tileFinish` (DEDUCED, log entry 49). -/
def State.strikeAcc (s : State) (g p : Nat) : State :=
  let a := (s.core g).acc p
  let own := s.accHolder g p
  (s.modCore g (·.setAcc p (if a.st = .claimed then a.fail 0#64 else { a with bad := true }))).error
    { kind := 6, asid := own.1, launch := own.2, cl := g / 64, info := p }

/-- A barrier entry struck: Broken, its waiters and parked records released with status 1 (R334). -/
def State.strikeBar (s : State) (cl p : Nat) : Option State :=
  let b := (s.cluster cl).bar p
  if b.st = barFreeSt then none
  else some ((s.error { kind := 6, asid := b.asid, cl := cl, launch := b.launch, info := p }).modBar cl p
    (fun b => { b with st := barBroken }))

/-- A window entry struck: its record fails alone with reason 5 (R357). -/
def strikeEntry (cl ent : Nat) (sigLost weightLost : Bool) : EM Unit := do
  let t := (← get).task cl ent
  let lost := weightLost && t.returns != 0
  modify (fun s => s.modTask cl ent (fun t => { t with noSig := sigLost, lostW := lost }))
  killTask cl ent .failed 5
  if lost then modify (fun s => s.loseWeight t.launch) else pure ()

/-- A live dependence counter struck: every record of the stream in the window fails with reason 6, the stream is STOPPED with
FAIL, and the struck record's launch fails with cause 6 (R358). -/
def strikeCounter (cl ent : Nat) : EM Unit := do
  let s ← get
  let t := s.task cl ent
  let n := recStream t.bytes
  let all := ((s.cluster cl).tasks.ents.filter (fun e => e.2.live && recStream e.2.bytes == n)).map (·.1)
  endTasks cl (windowSize * windowSize) (all.map (fun e => (e, TaskSt.failed, 6)))
  modify (fun s => ((s.modStream cl n (fun x => { x with stopped := true, fail := true })).failLaunch t.launch 6).pool cl)

/-- A launch-table entry struck: Sweeping with cause 11, and LOST (R379). -/
def State.strikeLaunch (s : State) (k : Nat) : Option State :=
  let w := s.workAt k
  match w.st with
  | .free | .retired => none
  | _ =>
    if 2 ^ 16 ≤ k then none
    else some ((s.error { kind := 6, asid := w.asid, launch := k, info := 11 }).setWork k
      { w with st := .sweeping, cause := 11, lost := true, swept := false })

/-- UNCORRECTABLE_ERROR. -/
def execUncorrectableError (site : ErrSite) (s : State) : Out :=
  event (fun s =>
    match site with
    | .block a => s.strikeBlock a
    | .l2Line cl a => s.strikeL2 cl a
    | .l1dLine cl core_ a => s.strikeL1d (cl * 64 + core_) a
    | .l1iLine cl core_ a => s.strikeL1i (cl * 64 + core_) a
    | .kennel cl core_ ent => s.strikeKennel (cl * 64 + core_) ent
    | .accumulator cl core_ p => if p < 8 then some (s.strikeAcc (cl * 64 + core_) p) else none
    | .barrier cl p => s.strikeBar cl p
    | .windowEntry cl ent sigLost weightLost =>
      if (s.task cl ent).live then stepE (strikeEntry cl ent sigLost weightLost) s else none
    | .depCounter cl ent => if (s.task cl ent).live then stepE (strikeCounter cl ent) s else none
    | .launchEntry k => s.strikeLaunch k
    | .tracker cl ent =>
      let t := s.trk cl ent
      if t.gen = 0 ∨ t.ended then none
      else
        let band0 := s.trk t.first.1 t.first.2
        stepE (fntFail band0 2 none) s
    | .terrier cl q => if (s.qry cl q).active then stepE (qryFail cl q 4 none) s else none
    | .retriever cl core_ i =>
      let g := cl * 64 + core_
      match (s.core g).pieces[i]? with
      | none => none
      | some p =>
        if p.done ∨ p.fail.isSome then none
        else some (s.modCore g (fun c => { c with pieces := setNth c.pieces i { p with pois := true } }))) s

/-! ### Package reset and power-on (R6) -/

/-- The address is outside the package's SRAM, whose contents package reset clears (spec/04_memory.md R94). -/
def survives (a : Nat) : Bool := !isSram a

/-- The address is outside the device: host memory or a peer. -/
def offDevice (a : Nat) : Bool := decide (hostBase ≤ a)

/-- What the control cores keep of a function: the last committed image (spec/18_link.md R486). -/
def Func.restart (x : Func) : Func := { version := x.version, meas := x.meas }

/-- The device as package reset leaves it. HBM, host and peer memory keep their bytes; fuses, the cores that failed test and
the committed images stay, and the control cores start again from what stands in their SRAM (R486). The schedule, the counters of names and of free values, and what hosts have been sent are the
model's own or outside the device. -/
def State.resetPackage (s : State) : State :=
  { State.reset with
    cur := s.cur
    agenda := s.agenda
    turnNo := s.turnNo
    free := s.free
    tick := s.tick
    cids := s.cids
    tickets := s.tickets
    mem := s.mem.filter (fun c => survives c.1)
    poison := s.poison.filter survives
    injected := s.injected.filter survives
    soft := s.soft.filter survives
    sealed := s.sealed
    failed := s.failed
    funcs := s.funcs.map (fun _ x => x.restart)
    ctl := s.ctl.map (fun _ h => { sram := h.sram })
    fuses := s.fuses
    minver := s.minver
    msis := s.msis
    hostData := s.hostData
    hostUr := s.hostUr }

/-- PACKAGE_RESET. -/
def execPackageReset (s : State) : Out := event (fun s => some s.resetPackage) s

/-- POWER_ON: every field holds its reset value, and one that package reset leaves unchanged holds 0; memory of the device
holds what the model says of memory that nothing has written (log entry 3). -/
def execPowerOn (s : State) : Out :=
  event (fun s => some { s.resetPackage with
    mem := s.mem.filter (fun c => offDevice c.1)
    poison := s.poison.filter offDevice
    injected := s.injected.filter offDevice
    soft := s.soft.filter offDevice
    sealed := Tab.empty }) s

end Sys2Proof.Machine
end

