-- ==== Sys2Proof/Machine/Sched.lean ====
section
/-! DEFINITION. The turns that are open to the machine where the schedule is empty: the model's own choice among the orders that
spec/00_scope.md R528 allows (log entry 1). They are taken in rotation, and one that cannot happen leaves the state as it is.
Every other order is a schedule in State.agenda. -/

namespace Sys2Proof.Machine

open Sys2Proof

/-- The positions of a list. -/
def positions {α : Type} (l : List α) : List Nat := List.range l.length

/-! ### What a cluster may do next -/

/-- Events of a Herder entry. -/
def taskTurns (k e : Nat) (t : Task) : List Instr :=
  match t.st with
  | .free | .blocked | .ready => []
  | .pooled => [.priorityAging k e]
  | .running => [.taskEngineFinish k e, .taskEngineFailure k e, .spawnChildSend k e, .transferTaskPieceCut k e]
  | .done | .failed | .cancelled => if t.retired then [] else [.taskRetire k e]

/-- Events of a tracker entry. -/
def trkTurns (k e : Nat) (t : Trk) : List Instr :=
  if t.gen = 0 ∨ t.ended then []
  else [.frontierFire k e, .frontierMessage k e, .boundaryCountSend k e, .frontierStopped k e, .frontierArrayFault k e]

/-- Events of a cluster. -/
def clusterTurns (s : State) (k : Nat) (c : Cluster) : List Instr :=
  (positions c.walks).map (.walkComplete k)
  ++ (c.misses.zipIdx).map (fun m => if m.1.issued then .l2FillReturn k m.2 else .missHoldExpiry k m.2)
  ++ (c.segs.ents.filter (fun e => e.2.next.isSome)).map (fun e => .segmentZeroingDone k (e.1 / 16) (e.1 % 16))
  ++ (c.groups.ents.filter (fun e => e.2.st != 0 && s.ends.contains (k, e.2.launch))).map (fun e => .launchEndNotice k e.1)
  ++ (if c.held.isEmpty then [] else [.recordReoffer k])
  ++ (if c.moving.isNone then [] else [.rankMoveComplete k])
  ++ (if c.tasks.ents.any (fun e => e.2.st == .pooled) then [.herderDispatch k] else [])
  ++ c.tasks.ents.flatMap (fun e => taskTurns k e.1 e.2)
  ++ c.trks.ents.flatMap (fun e => trkTurns k e.1 e.2)
  ++ (c.qrys.ents.filter (fun e => e.2.st == .running || (e.2.st == .faulted && e.2.owe != 0))).flatMap (fun e => [.terrierItemStep k e.1, .terrierAccessFault k e.1])

/-! ### What a core may do next -/

/-- The requests that the running operation of a core makes by multicast. -/
def castTurns (g : Nat) (c : Core) : List Instr :=
  match c.tileq with
  | [] => []
  | o :: _ =>
    if !o.running then []
    else
      (o.castPieces.filter (fun a => !o.got.any (fun q => q.1 == a))).map (fun a =>
        .multicastRequest (g / 64) ((scratchAt a).1 % 64) (g % 64) (wfld o.mxcast 15 0) (a / 64)
          (if wfld o.mxcast 22 16 > 64 then 0 else wfld o.mxcast 22 16))

/-- Events of a context's channels and strips. -/
def ctxTurns (g : Nat) (c : Ctx) : List Instr :=
  c.chans.ents.flatMap (fun e =>
    match e.2.st with
    | .closed => []
    | .openGet | .openPut => [.channelPieceSend (g / 64) (g % 64) c.cid e.1]
    | .faultGet | .faultPut => [.channelFaultSignal (g / 64) (g % 64) c.cid e.1]
    | .cancelling => [.channelCancelDrained (g / 64) (g % 64) c.cid e.1])
  ++ (c.strips.ents.filter (fun e => e.2.v)).flatMap (fun e =>
    (e.2.groups.map (.stripElementLand (g / 64) (g % 64) c.cid e.1)) ++ [.stripElementFail (g / 64) (g % 64) c.cid e.1])

/-- Events of a Kennel entry. -/
def kenTurns (g ent : Nat) (k : Ken) : List Instr :=
  match k.st with
  | .saving => [.kennelSaveComplete (g / 64) (g % 64) ent, .kennelSaveFault (g / 64) (g % 64) ent]
  | .loading => [.kennelLoadComplete (g / 64) (g % 64) ent, .kennelLoadFault (g / 64) (g % 64) ent]
  | _ => (k.ctx.map (ctxTurns g)).getD []

/-- Events of a core. -/
def coreTurns (s : State) (g : Nat) (c : Core) : List Instr :=
  (if c.portq.isEmpty then [] else [.remoteScratchpadRequest (g / 64) (g % 64)])
  ++ (if (s.freeSlot g).isSome && (!c.queue.isEmpty || c.readyEntry.isSome) then [.slotFill (g / 64) (g % 64)] else [])
  ++ (if c.halted && !c.quiet then [.haltQuiescent (g / 64) (g % 64)] else [])
  ++ (match c.tileq with
      | [] => []
      | o :: _ => [if o.running then .tileOpComplete (g / 64) (g % 64) else .tileOpStart (g / 64) (g % 64)])
  ++ castTurns g c
  ++ (positions c.comb).map (.multicastEntryTimeout (g / 64) (g % 64))
  ++ (c.pieces.zipIdx).map (fun p =>
      if p.1.fail.isSome then .pieceFails (g / 64) (g % 64) p.2
      else if p.1.done then .pieceLands (g / 64) (g % 64) p.2
      else .retrieverPiece (g / 64) (g % 64) p.2)
  ++ c.kennel.ents.flatMap (fun e => kenTurns g e.1 e.2)

/-! ### What a slot may do next -/

/-- Events and the issue turn of a slot. -/
def slotTurns (h : Hart) (t : Slot) : List Turn :=
  match t.ctx with
  | none => []
  | some c =>
    ((ctxTurns h.gcore c).map .event)
    ++ (if c.seq.isEmpty then [] else [.event (.sequencerHeadExecute h)])
    ++ (if t.pass = 0 then [] else [.event (.issuePassExpiry h)])
    ++ (match t.wait.map (·.kind) with
        | some .woken => [.event (.sleeperWake h)]
        | some .barrier => [.event (.parkStoreEntryFree h)]
        | some .wrs => [.event (.wrsTimeout h)]
        | _ => [])
    ++ (if (t.irq c).isSome && !t.halted && !t.noIrq then [.event (.trapOrInterrupt (.interrupt h))] else [])
    ++ [.issue h]

/-! ### What the package may do next -/

/-- Events of a work-table entry. -/
def workTurns (k : Nat) (w : Work) : List Instr :=
  match w.st with
  | .starting => [.launchHeaderCheck k]
  | .running => if 2 ^ 16 ≤ k then [] else if w.light then [.lightUnitSend k] else [.groupOffer k, .groupReoffer k]
  | .sweeping => [.sweep k, .sweepAcknowledged k]
  | _ => []

/-- Events of a command. -/
def cmdTurns (i : Nat) (c : Cmd) : List Instr :=
  if c.result.isSome then [.commandCompletion i]
  else [.cmdNop i, .cmdLaunch i, .cmdSignal i, if c.poll then .cmdWaitPoll i else .cmdWait i]

/-- The agents that queues name. -/
def State.fedAgents (s : State) : List Agent :=
  (s.queues.ents.filter (fun e => e.2.st == qActive && decide (2 ≤ e.2.server))).map (fun e => ⟨e.2.server, e.2.agent⟩)

/-- The requests of the control cores. -/
def reqTurns : List Instr :=
  [.reqPing, .reqUnknownOp, .reqAttest, .reqStage, .reqCommit, .reqAbort, .reqKeyload, .reqKeyclear, .reqTkset, .reqKstate,
   .reqKcancel, .reqScrub, .reqEcount, .reqMonread, .reqRetrain, .reqHalt, .reqResume, .reqHread]

/-- Events of the package. -/
def State.packageTurns (s : State) : List Instr :=
  (if s.acks.isEmpty then [] else [.memoryAcknowledgement 0])
  ++ s.recs.map (fun r => .lightRecordArrival (r.1 / 64) (r.1 % 64) r.2.1 r.2.2)
  ++ (if s.wmsgs.isEmpty then [] else [.collectorWeightMessage])
  ++ s.work.ents.flatMap (fun e => workTurns e.1 e.2)
  ++ (if s.queues.ents.isEmpty then [] else [.intakeTake])
  ++ (s.queues.ents.filter (fun e => e.2.st == qResetting)).map (fun e => .queueResetComplete e.1)
  ++ (s.cmds.zipIdx).flatMap (fun c => cmdTurns c.2 c.1)
  ++ s.fedAgents.map .agentTakeRecord
  ++ (positions s.agents).flatMap (fun i =>
      [.triangleRecord i, .fragmentBlockPush i, .drawRecord i, .drawComplete i, .pixelUpdateRecord i])
  ++ (if s.mail.ents.all (fun e => e.2.isEmpty) then [] else reqTurns)
  ++ (s.funcs.ents.filter (fun e => e.2.st == fnTransferring)).map (fun e => .handoverCommitPoint e.1)
  ++ (s.route.ents.filter (fun e => e.2.next.isSome)).map (fun e => .routeEntryEffect e.1)
  ++ (if s.errs.isEmpty then [] else [.errorRecord])
  ++ s.supply.ents.map (fun e => if e.2.below then .stretchRiseTick e.1 else .stretchFallTick e.1)

/-- The control cores whose SRAM holds a program. -/
def State.ctlTurns (s : State) : List Turn := (s.ctl.ents.filter (fun e => !e.2.sram.isEmpty)).map (fun e => .control e.1)

/-- Every turn open to the machine. -/
def State.turns (s : State) : List Turn :=
  ((s.packageTurns ++ s.clusters.ents.flatMap (fun e => clusterTurns s e.1 e.2)
    ++ s.cores.ents.flatMap (fun e => coreTurns s e.1 e.2)).map .event)
  ++ s.slots.ents.flatMap (fun e => slotTurns e.1 e.2) ++ s.ctlTurns

/-- The turn taken where none is scheduled: the open ones in rotation. -/
def State.defaultTurn (s : State) : Option Turn :=
  let l := s.turns
  l[s.turnNo % l.length]?

end Sys2Proof.Machine
end

