-- ==== Sys2Proof/Machine/Ctl.lean ====
section
/-! DEFINITION. The control cores as RV64IMAC harts that run M-mode firmware from their own SRAM (spec/18_link.md R482). The services
that the manual gives them are events of the opcode table; the programs are the vendor's and come from outside the model (log entry
46). -/

namespace Sys2Proof.Machine

open Sys2Proof

/-- How an instruction of a control core ends early: a trap, or it waits and does not happen. -/
inductive CtlExit where
  | trap (cause : Nat) (tval : Word)
  | later
deriving DecidableEq, Repr

/-- A control core at work: its number, its hart, the machine. -/
structure CtlRun where
  n : Nat
  h : CtlHart
  s : State

/-- Steps of a control core. -/
abbrev CM := EStateM CtlExit CtlRun

/-- The hart updated. -/
def ctlMod (f : CtlHart → CtlHart) : CM Unit := modify (fun r => { r with h := f r.h })
/-- An illegal instruction. -/
def ctlIllegal {α : Type} (bits : IWord) : CM α := throw (.trap 2 (bits.setWidth 64))

/-- Bytes of a control core's own SRAM. -/
def ctlSram : Nat := 2 ^ 18

/-- A register of the hart; x0 reads 0. -/
def CtlHart.get (h : CtlHart) (r : Reg) : Word := if r = 0#5 then 0#64 else h.x.get 0#64 r.toNat
/-- The hart with a register written; a write of x0 is discarded. -/
def CtlHart.set (h : CtlHart) (r : Reg) (v : Word) : CtlHart := if r = 0#5 then h else { h with x := h.x.put r.toNat v }
/-- A register read. -/
def ctlX (r : Reg) : CM Word := return (← get).h.get r
/-- A register written. -/
def ctlSetX (r : Reg) (v : Word) : CM Unit := ctlMod (·.set r v)

/-! ### Accesses: its own SRAM below 2^18, and past it the physical addresses of spec/01_device.md R37 and R39 (the address of its SRAM
is DESIGN CHOICE, log entry 46) -/

/-- An engine's step for the control core: a failure is an access fault, poison a hardware error. -/
def ctlEng1 {α : Type} (cause : Nat) (va : Word) (m : EM α) : CM α := fun r =>
  match m r.s with
  | .ok a s => .ok a { r with s := s }
  | .error .later _ => .error .later r
  | .error (.poison _) s => .error (.trap 19 va) { r with s := s }
  | .error _ s => .error (.trap cause va) { r with s := s }

/-- Bytes loaded. -/
def ctlLoad (va : Word) (n : Nat) : CM (List Byte) := do
  let r ← get
  let a := va.toNat
  if a + n ≤ ctlSram then return r.h.sram.readN a n
  else if isReg a ∨ isReg (a + n - 1) then
    if n = 8 ∧ a % 8 = 0 then
      let s := r.s.answerReg a
      set { r with s := s }
      return leBytes 8 (s.hostData.headD 0#64).toNat
    else throw (.trap 5 va)
  else ctlEng1 5 va (physBytes a n)

/-- Bytes stored. -/
def ctlStore (va : Word) (bs : List Byte) : CM Unit := do
  let r ← get
  let a := va.toNat
  let n := bs.length
  if a + n ≤ ctlSram then ctlMod (fun h => { h with sram := h.sram.writeN a bs })
  else if isReg a ∨ isReg (a + n - 1) then
    if n = 8 ∧ a % 8 = 0 then
      match r.s.regWrite (.control r.n) a (w64 (leNat bs)) with
      | some s => set { r with s := s }
      | none => throw .later
    else throw (.trap 7 va)
  else ctlEng1 7 va (physWrite a bs [])

/-- An indivisible update of n bytes, aligned. -/
def ctlAtomic (va : Word) (n : Nat) (f : List Byte → List Byte) : CM (List Byte) := do
  let r ← get
  let a := va.toNat
  if a % n ≠ 0 ∨ isReg a then throw (.trap 7 va)
  else if a + n ≤ ctlSram then
    let old := r.h.sram.readN a n
    ctlMod (fun h => { h with sram := h.sram.writeN a (f old) })
    return old
  else
    ctlEng1 7 va (do
      let t ← physTarget a n
      let (old, p) ← eng (fun s => s.engAtomicAt ctlEng t n (fun v => some (leNat (f (leBytes n v)))))
      if p then throw (.poison none) else return leBytes n old)

/-! ### Machine-mode registers (standard; PRESUMED, log entry 46) -/

/-- The CSRs that software of the hart reads, each with the bits that a write changes and the bits that always read 1. -/
def ctlCsr (n : Nat) (k : Nat) : Option (Word × Word) :=
  match k with
  | 0x300 => some (0x88#64, 0x1800#64)                     -- mstatus: MIE, MPIE; MPP reads M
  | 0x301 => some (0#64, 0x8000000000001105#64)            -- misa: RV64IMAC
  | 0x304 => some (0x888#64, 0#64)                         -- mie
  | 0x305 => some (0xFFFFFFFFFFFFFFFC#64, 0#64)            -- mtvec, direct
  | 0x340 | 0x342 | 0x343 => some (0xFFFFFFFFFFFFFFFF#64, 0#64)  -- mscratch, mcause, mtval
  | 0x341 => some (0xFFFFFFFFFFFFFFFE#64, 0#64)            -- mepc
  | 0x344 | 0xF11 | 0xF12 | 0xF13 => some (0#64, 0#64)     -- mip, mvendorid, marchid, mimpid
  | 0xF14 => some (0#64, w64 n)                            -- mhartid
  | _ => none

/-- A CSR of the hart as it reads. -/
def CtlHart.csrGet (h : CtlHart) (k : Nat) (ones : Word) : Word := h.csr.get 0#64 k ||| ones

/-- A CSR instruction: the old value to rd, the new one written where it writes. -/
def ctlCsrOp (bits : IWord) (op : CsrOp) (rd : Reg) (src : Word) (writes : Bool) (csr : BitVec 12) : CM Unit := do
  let r ← get
  match ctlCsr r.n csr.toNat with
  | none => ctlIllegal bits
  | some (mask, ones) =>
    if writes ∧ csr.extractLsb' 10 2 = 3#2 then ctlIllegal bits
    else
      let old := r.h.csrGet csr.toNat ones
      let v := match op with
        | .rw => src
        | .rs => old ||| src
        | .rc => old &&& ~~~src
      if writes then ctlMod (fun h => { h with csr := h.csr.put csr.toNat (v &&& mask) }) else pure ()
      ctlSetX rd old

/-- A trap taken: mepc, mcause, mtval, MPIE from MIE, MIE 0, and on at mtvec. -/
def CtlHart.trap (h : CtlHart) (cause : Nat) (tval : Word) : CtlHart :=
  let ms := h.csr.get 0#64 0x300
  { h with
    pc := h.csr.get 0#64 0x305
    resv := none
    csr := (((h.csr.put 0x341 h.pc).put 0x342 (w64 cause)).put 0x343 tval).put 0x300 (wputb (wputb ms 7 (wbit ms 3)) 3 false) }

/-- mret: MIE from MPIE, MPIE 1, on at mepc. -/
def CtlHart.mret (h : CtlHart) : CtlHart :=
  let ms := h.csr.get 0#64 0x300
  { h with pc := h.csr.get 0#64 0x341, csr := h.csr.put 0x300 (wputb (wputb ms 3 (wbit ms 7)) 7 true) }

/-! ### Instructions of RV64IMAC -/

/-- Register instructions of I and M. -/
def aluBase : AluOp → Bool
  | .add | .sub | .sll | .slt | .sltu | .xor | .srl | .sra | .or | .and
  | .mul | .mulh | .mulhsu | .mulhu | .div | .divu | .rem | .remu
  | .addw | .subw | .sllw | .srlw | .sraw | .mulw | .divw | .divuw | .remw | .remuw => true
  | _ => false

/-- Immediate shifts of I. -/
def shBase : ShOp → Bool
  | .slli | .srli | .srai | .slliw | .srliw | .sraiw => true
  | _ => false

/-- A compressed word of Zcb, which C does not hold. -/
def zcb (bits : IWord) : Bool :=
  let q := (bits.extractLsb' 0 2).toNat
  let f3 := (bits.extractLsb' 13 3).toNat
  (q == 0 && f3 == 4) || (q == 1 && f3 == 4 && (bits.extractLsb' 10 3) == 7#3 && (bits.extractLsb' 6 1) == 1#1)

/-- The next pc set. -/
def ctlPc (v : Word) : CM Unit := ctlMod (fun h => { h with pc := v })

/-- A jump: rd takes the address past the instruction. -/
def ctlJump (rd : Reg) (next target : Word) : CM Unit := do
  ctlSetX rd next
  ctlPc target

/-- An integer instruction; pc is that of the instruction, whose length the hart's pc has already passed. -/
def ctlScalar (bits : IWord) (pc : Word) (op : ScalarOp) : CM Unit := do
  let next := (← get).h.pc
  match op with
  | .lui rd imm => ctlSetX rd (upperImm imm)
  | .auipc rd imm => ctlSetX rd (pc + upperImm imm)
  | .jal rd imm => ctlJump rd next (pc + jalOff imm)
  | .jalr rd rs1 imm => ctlJump rd next (wputb (effAddr (← ctlX rs1) imm) 0 false)
  | .branch k rs1 rs2 imm => if brFn k (← ctlX rs1) (← ctlX rs2) then ctlPc (pc + brOff imm) else pure ()
  | .imm k rd rs1 imm => ctlSetX rd (immFn k (← ctlX rs1) imm)
  | .sh k rd rs1 amt => if shBase k then ctlSetX rd (shFn k (← ctlX rs1) amt) else ctlIllegal bits
  | .alu k rd rs1 rs2 => if aluBase k then ctlSetX rd (aluFn k (← ctlX rs1) (← ctlX rs2)) else ctlIllegal bits
  | .ecall => throw (.trap 11 0#64)
  | .ebreak => throw (.trap 3 pc)
  | .wfi => pure ()
  | .csrRead op _ rd csr => ctlCsrOp bits op rd 0#64 false csr
  | _ => ctlIllegal bits

/-- LR, SC and the AMOs; a reservation is held on a place of the hart's own SRAM alone. -/
def ctlAmo (op : AmoOp) (n : Nat) (rd rs1 rs2 : Reg) : CM Unit := do
  let va ← ctlX rs1
  let v ← ctlX rs2
  let a := va.toNat
  let own := decide (a % n = 0 ∧ a + n ≤ ctlSram)
  match op with
  | .lr =>
    if own then
      ctlSetX rd (regOf n (← ctlLoad va n))
      ctlMod (fun h => { h with resv := some a })
    else throw (.trap 5 va)
  | .sc =>
    if own then
      let held := (← get).h.resv == some a
      if held then ctlStore va (leBytes n v.toNat) else pure ()
      ctlMod (fun h => { h with resv := none })
      ctlSetX rd (b2w (!held))
    else throw (.trap 7 va)
  | op =>
    let old ← ctlAtomic va n (amoBytes op n v)
    ctlSetX rd (regOf n old)

/-- An instruction of a control core; one of another extension is illegal. -/
def ctlInstr (bits : IWord) (pc : Word) (i : Instr) : CM Unit := do
  match i with
  | .standardScalarInstruction op => ctlScalar bits pc op
  | .scalarLoad k rd rs1 imm =>
    let (n, sg, fmt) := loadShape k
    if fmt.isSome then ctlIllegal bits
    else
      let v := leNat (← ctlLoad (effAddr (← ctlX rs1) imm) n)
      ctlSetX rd (if sg then sextW v (8 * n) else w64 v)
  | .scalarStore k rs1 rs2 imm =>
    let (n, fp) := storeShape k
    if fp then ctlIllegal bits
    else
      let va := effAddr (← ctlX rs1) imm
      ctlStore va (leBytes n (← ctlX rs2).toNat)
  | .atomicAmo op wd _ _ rd rs1 rs2 => ctlAmo op (amoWidth wd) rd rs1 rs2
  | .fence _ _ _ _ _ | .fenceTso _ _ => pure ()
  | .registerWrite (.csr op immForm rd src csr) =>
    let v ← if immForm then pure (src.setWidth 64) else ctlX src
    ctlCsrOp bits op rd v true csr
  | .xret .mret => ctlMod (·.mret)
  | _ => ctlIllegal bits

/-- The instruction at the pc, in the hart's own SRAM: fetched, decoded, executed. -/
def ctlIssue : CM Unit := do
  let pc := (← get).h.pc
  let lo ← ctlFetch pc
  let bs ← if lengthOf (lo.headD 0#8) = 2 then pure lo else do
    let hi ← ctlFetch (pc + 2#64)
    pure (lo ++ hi)
  let bits : IWord := BitVec.ofNat 32 (leNat bs)
  match decode bs with
  | .ok (i, _) =>
    if bs.length = 2 ∧ zcb bits then ctlIllegal bits
    else
      ctlPc (pc + w64 bs.length)
      ctlInstr bits pc i
  | .error _ => ctlIllegal bits
where
  /-- Two bytes of its SRAM; elsewhere the fetch faults. -/
  ctlFetch (va : Word) : CM (List Byte) := do
    if va.toNat + 2 ≤ ctlSram then return (← get).h.sram.readN va.toNat 2 else throw (.trap 1 va)

/-- The hart of a control core. -/
def State.ctlHart (s : State) (n : Nat) : CtlHart := s.ctl.get {} n

/-- A turn of a control core: one instruction, or the trap that takes its place; one that waits has not happened. -/
def State.ctlTurn (s : State) (n : Nat) : State :=
  if 8 ≤ n then s
  else
    let h := s.ctlHart n
    match ctlIssue { n := n, h := h, s := s } with
    | .ok _ r => { r.s with ctl := r.s.ctl.put n r.h }
    | .error (.trap c v) r => { r.s with ctl := r.s.ctl.put n ({ r.h with pc := h.pc }.trap c v) }
    | .error .later _ => s

end Sys2Proof.Machine
end

