-- ==== Sys2Proof/Machine/Packed.lean ====
section
/-! DEFINITION. The packed instructions on 8-bit and 16-bit lanes of x registers (spec/08_vector.md R231, R232). -/

namespace Sys2Proof.Machine

open Sys2Proof

/-- a - b modulo 2^w on unsigned lanes. -/
def subWrap (w a b : Nat) : Nat := a + 2 ^ w - b
/-- Logical left shift by bits 7:0 of the amount lane; an amount of the lane width or more leaves 0 in the lane. -/
def laneSll (a b : Nat) : Nat := a * 2 ^ (b % 256)
/-- Logical right shift by bits 7:0 of the amount lane. -/
def laneSrl (a b : Nat) : Nat := a / 2 ^ (b % 256)
/-- Arithmetic right shift; an amount past the lane width acts as the lane width. -/
def laneSra (w a b : Nat) : Nat := uint (sint a w / ((2 ^ min (b % 256) w : Nat) : Int)) w
/-- Bits 15:8 of the signed product of two 8-bit lanes. -/
def laneMulh (a b : Nat) : Nat := uint (sint a 8 * sint b 8 / 256) 8

/-- A packed instruction: it reads two x registers and writes one, in every mode. -/
def packed (f : Word → Word → Word) (b a d : BitVec 5) : M Unit := do
  setX d (f (← getX a) (← getX b))

def execPkAdd8 (b a d : BitVec 5) (s : State) : Out := runThread (packed (lanewise 8 (· + ·)) b a d) s
def execPkAdd16 (b a d : BitVec 5) (s : State) : Out := runThread (packed (lanewise 16 (· + ·)) b a d) s
def execPkSub8 (b a d : BitVec 5) (s : State) : Out := runThread (packed (lanewise 8 (subWrap 8)) b a d) s
def execPkSub16 (b a d : BitVec 5) (s : State) : Out := runThread (packed (lanewise 16 (subWrap 16)) b a d) s
def execPkAdds8n (b a d : BitVec 5) (s : State) : Out := runThread (packed (lanewise 8 (fun x y => min (x + y) 255)) b a d) s
def execPkSubs8n (b a d : BitVec 5) (s : State) : Out := runThread (packed (lanewise 8 (fun x y => x - y)) b a d) s
def execPkSll8 (b a d : BitVec 5) (s : State) : Out := runThread (packed (lanewise 8 laneSll) b a d) s
def execPkSll16 (b a d : BitVec 5) (s : State) : Out := runThread (packed (lanewise 16 laneSll) b a d) s
def execPkSrl8 (b a d : BitVec 5) (s : State) : Out := runThread (packed (lanewise 8 laneSrl) b a d) s
def execPkSrl16 (b a d : BitVec 5) (s : State) : Out := runThread (packed (lanewise 16 laneSrl) b a d) s
def execPkSra8 (b a d : BitVec 5) (s : State) : Out := runThread (packed (lanewise 8 (laneSra 8)) b a d) s
def execPkSra16 (b a d : BitVec 5) (s : State) : Out := runThread (packed (lanewise 16 (laneSra 16)) b a d) s
def execPkMul8h (b a d : BitVec 5) (s : State) : Out := runThread (packed (lanewise 8 laneMulh) b a d) s
def execPkAvg8 (b a d : BitVec 5) (s : State) : Out := runThread (packed (lanewise 8 (fun x y => (x + y + 1) / 2)) b a d) s
def execPkMax8n (b a d : BitVec 5) (s : State) : Out := runThread (packed (lanewise 8 max) b a d) s
def execPkMin8n (b a d : BitVec 5) (s : State) : Out := runThread (packed (lanewise 8 min) b a d) s

end Sys2Proof.Machine
end

