-- ==== Sys2Proof/Machine/Page.lean ====
section
/-! DEFINITION. Line maintenance and the hints (spec/06_page.md R168 to R171; spec/03_encoding.md R77, R78). -/

namespace Sys2Proof.Machine

open Sys2Proof

/-! ### pg.zero, pg.clean, pg.inval, pg.flush -/

/-- The line's own address: bits 7:0 cleared. -/
def pageLine (va : Word) : Word := va &&& ~~~0xFF#64

/-- The R-or-W check; a failure raises the load's cause (R170). In a window of R31 it is a load, and where a load is not
permitted a store. On a page it is a load: the walker and the PMP refuse W without R, so W adds nothing to R there. It reads no
data, so poison is no failing check of it (R150, R170). -/
def translateRW (va : Word) : M Target :=
  if inWinRange va.toNat then
    tryCatch (translate .clean va va 256) (fun e =>
      match e with
      | .trap cause tval =>
        tryCatch (translate .store va va 256) (fun e' =>
          match e' with
          | .trap _ _ => trap cause tval
          | e' => throw e')
      | e => throw e)
  else translate .clean va va 256

/-- Every L1D copy of a 256-byte line leaves the cores of a cluster. -/
def State.l1dDropLineAll (s : State) (k a : Nat) : State :=
  { s with cores := s.cores.map (fun g c => if g / 64 = k then c.l1dDropLine a else c) }

/-- 256 zero bytes. -/
def zeros256 : List Byte := List.replicate 256 0#8

/-- An L2 line made all valid, dirty and zero; with zero lines enabled it is a zero line (R105, R106). -/
def L2Line.zeroFill (l : L2Line) (zl : Bool) : L2Line :=
  { l with valid := 255#8, dirty := 255#8, zero := zl, poison := 0#8, data := zeroLine }

/-- pg.zero on a line of global memory (R169). -/
def State.zeroGlobal (s : State) (h : Hart) (t : Target) (cls asid : Nat) : State :=
  let k := h.cl
  let s :=
    if t.attr.cache = 2 ∨ !localHbm t.a then s.directWrite k t.a t.attr.key zeros256 (some h) { asid := asid, cl := k }
    else
      let s := s.snoop k t.a true
      let hit := ((s.cluster k).line t.a t.attr.key).isSome
      let r := match (s.cluster k).line t.a t.attr.key with
        | some l => (s, some l)
        | none => s.allocate k t.a t.attr cls asid
      match r with
      | (s, some l) => (s.keepLine k (l.zeroFill t.attr.zl) hit).touch t.a 256 (some h)
      | (s, none) => s.directWrite k t.a t.attr.key zeros256 (some h) { asid := asid, cl := k }
  let s := s.l1dDropLineAll k t.a
  if localHbm t.a then s else { s with acks := s.acks ++ [{ hart := h, addr := t.a }] }

/-- 64 zero bytes, the most that one access of a scratchpad port holds (spec/05_ordering.md R139). -/
def zeros64 : List Byte := List.replicate 64 0#8

/-- A 64-byte store at the own port, where an imposed log lets it through. -/
def State.zeroOwn (s : State) (g off : Nat) (h : Hart) : Option State :=
  (s.imposed g true g h.slot 0 0 6 off).map (fun s => (s.portStore g off zeros64 (some h)).logScent g true g h.slot 0 0 6 off)

/-- 256 zero bytes stored by a thread to on-package SRAM: through the port for a scratchpad, in four accesses. -/
def zeroSram (t : Target) : M Unit := do
  stallSram t.a 256 true
  let s ← get
  if rangeOf t.a = .scratch then
    let (g, off) := scratchAt t.a
    if g = s.cur.gcore then
      match [0, 64, 128, 192].foldl (fun (r : Option State) d => r.bind (fun s => s.zeroOwn g (off + d) s.cur)) (some s) with
      | some s => set s
      | none => wait
    else
      waitUnless (s.sendable g 4)
      [0, 64, 128, 192].forM (fun d => storeScratch (t.a + d) zeros64)
  else upd (fun s => s.putBytes t.a zeros256 (some s.cur))

/-- PG_ZERO. -/
def execPgZero (a : BitVec 5) (s : State) : Out :=
  runThread (do
    waitVecMem
    let va := pageLine (← getX a)
    let t ← translate .store va va 256
    if t.sram then zeroSram t
    else
      let s ← get
      let c ← ctx
      waitUnless (t.attr.cache = 2 || !(s.cluster s.cur.cl).filling t.a t.attr.key)
      upd (fun s => s.zeroGlobal s.cur t (fillClass c t.attr) c.asid)) s

/-- Memory's acknowledgements of written-back sectors to come, one for each dirty sector (R171). -/
def L2Line.acksFor (l : L2Line) (h : Hart) : List Unacked :=
  ((List.range 8).filter (fun i => l.dirty.getLsbD i)).map (fun i => { hart := h, addr := l.addr + 32 * i })

/-- pg.clean: the dirty sectors of the line in this cluster's L2 are written back; the line stays, valid and clean. -/
def State.cleanLine (s : State) (h : Hart) (a key : Nat) : State :=
  match (s.cluster h.cl).line a key with
  | none => s
  | some l =>
    let s := (s.writeBack h.cl l).modCluster h.cl (·.putLine l.clean)
    { s with acks := s.acks ++ l.acksFor h }

/-- The line leaves every L2 of the device and every L1D of the cluster, dirty sectors included. -/
def State.discardLine (s : State) (h : Hart) (a : Nat) : State :=
  { s with clusters := s.clusters.map (fun _ c => c.dropLine a) }.l1dDropLineAll h.cl a

/-- What the three maintenance instructions do to a line of global memory that is not uncached. -/
def maintain (va : Word) (t : Target) (f : State → State) : M Unit := do
  let _ := va
  if t.sram ∨ t.attr.cache = 2 then pure ()
  else
    let s ← get
    waitUnless (!(s.cluster s.cur.cl).filling t.a t.attr.key)
    upd f

/-- pg.flush: the dirty sectors of the line in every L2 of the device are written back, and the line leaves as by pg.inval. -/
def State.flushLine (s : State) (h : Hart) (a : Nat) : State :=
  let ls := s.clusters.ents.flatMap (fun e => (e.2.l2.filter (fun (l : L2Line) => l.addr == down a 256)).map (fun l => ((e.1 : Nat), l)))
  let s := ls.foldl (fun (s : State) (p : Nat × L2Line) => s.writeBack p.1 p.2) s
  { s with acks := s.acks ++ ls.flatMap (fun (p : Nat × L2Line) => p.2.acksFor h) }.discardLine h a

/-- PG_CLEAN. -/
def execPgClean (a : BitVec 5) (s : State) : Out :=
  runThread (do
    waitVecMem
    let va := pageLine (← getX a)
    let t ← translateRW va
    maintain va t (fun s => s.cleanLine s.cur t.a t.attr.key)) s

/-- PG_INVAL. -/
def execPgInval (a : BitVec 5) (s : State) : Out :=
  runThread (do
    waitVecMem
    let va := pageLine (← getX a)
    let t ← translate .inval va va 256
    maintain va t (fun s => s.discardLine s.cur t.a)) s

/-- PG_FLUSH. -/
def execPgFlush (a : BitVec 5) (s : State) : Out :=
  runThread (do
    waitVecMem
    let va := pageLine (← getX a)
    let t ← translateRW va
    maintain va t (fun s => s.flushLine s.cur t.a)) s

/-! ### Hints (spec/03_encoding.md R77) -/

/-- Where a prefetch goes: a page of global memory that a TLB or a walk which would not fault gives; none drops it. It joins
the page's walk that is under way; its own sets neither A nor D, and where it succeeds it releases the page's fault-pending
entry (spec/06_page.md R150, R157, R161). -/
def prefTarget (va : Word) (s : State) : State × Option Target :=
  let h := s.cur
  let t := s.slot h
  let c := s.ctx h
  let p := effPriv t c
  let a := va.toNat
  let finish (s : State) (pa : Nat) (at_ : Attr) : State × Option Target :=
    if rangeOf pa ≠ .hbm ∧ rangeOf pa ≠ .host then (s, none)
    else if !t.pmpOk pa 1 .load p then (s, none)
    else
      match s.homeOf at_.home pa with
      | (.yes, m) => (s, some { a := m, sram := false, attr := s.attrAt at_ pa })
      | (.later, _) => (s, none)
      | (.no, _) => (s.undelivered at_.home pa c.asid h.cl, none)
  if inWinRange a then (s, none)
  else if p = .m ∨ wfld c.satp 63 60 = 0 then
    if a < 2 ^ 52 then finish s a { cos := wfld c.scos 3 0, home := s.devid } else (s, none)
  else if !canonical a then (s, none)
  else
    let sum := wbit c.sstatus stSUM
    let mxr := wbit c.sstatus stMXR
    let vpn := a / 4096 % 2 ^ 36
    let held (s : State) : Option TlbEnt :=
      (s.cluster h.cl).l2tlb.find? (fun e => e.covers vpn c.asid && e.permits .load p sum mxr)
    match held s with
    | some e => finish s (e.pa (a % 2 ^ 48)) e.attr
    | none =>
      match s.joinPending h.cl vpn c.asid with
      | .busy => (s, none)
      | .done s =>
        match held s with
        | some e => finish s (e.pa (a % 2 ^ 48)) e.attr
        | none =>
          match s.walkPage h.cl (some t) c.satp (wfld c.scos 3 0)
              { va := a % 2 ^ 48, acc := .load, priv := p, sum := sum, mxr := mxr, setAD := false } with
          | (s, .ok e) => finish (s.release h.cl (fun f => f.vpn == vpn && f.asid == c.asid)) (e.pa (a % 2 ^ 48)) e.attr
          | (s, _) => (s, none)

/-- The miss entry of a prefetch: it joins a request of its line that is still held; one that has issued leaves the hint with
nothing to do (spec/04_memory.md R104; spec/03_encoding.md R77). -/
def Cluster.addPref (k : Cluster) (t : Target) (secs : BitVec 8) (cls asid : Nat) (l1 : Option (Nat × Nat)) : Cluster :=
  if k.filling t.a t.attr.key then
    { k with misses := k.misses.map (fun m =>
        if m.addr = down t.a 256 ∧ m.attr.key = t.attr.key ∧ !m.issued then
          { m with sectors := m.sectors ||| secs, l1 := m.l1 <|> l1 } else m) }
  else { k with misses := k.misses ++ [{ addr := down t.a 256, attr := t.attr, cls := cls, asid := asid, sectors := secs,
                                          issued := false, pref := true, l1 := l1 }] }

/-- Sectors of a line asked for by a prefetch, as a miss that no load waits on; with lvl 1 the L1D line is filled too, at
once where the L2 holds its sector. -/
def State.prefetch (s : State) (t : Target) (secs : BitVec 8) (va : Nat) (lvl1 : Bool) : State :=
  let h := s.cur
  let c := s.ctx h
  let cls := fillClass c t.attr
  let i := sectorOf t.a
  let l1 : Option (Nat × Nat) := if lvl1 ∧ t.attr.cache = 0 then some (h.gcore, fld va 13 5) else none
  if t.attr.cache = 2 ∨ (s.cluster h.cl).mask (l2Slice t.a) cls = 0 then s
  else
    match (s.cluster h.cl).line t.a t.attr.key with
    | some l =>
      if l.valid &&& secs = secs then
        match l1 with
        | none => s
        | some (g, set) =>
          -- a poisoned line that a prefetch fills is latent (spec/06_page.md R167)
          let s := s.errors (s.latentCode l.asid h.cl (blk t.a) (l.poison.getLsbD i))
          s.modCore g (fun k => k.l1dFill
            { addr := blk t.a, key := t.attr.key, set := set, poison := l.poison.getLsbD i, data := l.sector i, used := s.tick })
      else s.modCluster h.cl (fun k => k.addPref t secs cls c.asid l1)
    | none => s.modCluster h.cl (fun k => k.addPref t secs cls c.asid l1)
/-- PG_PREF: the L2 line, and for lvl 1 the L1D line. -/
def execPgPref (l a : BitVec 5) (s : State) : Out :=
  runThread (do
    let va ← getX a
    let s ← get
    match prefTarget va s with
    | (s', some t) => set (s'.prefetch t 255#8 va.toNat (l == 1#5))
    | (s', none) => set s') s

/-- BM_PREF: 128 bytes, half of an L2 line. -/
def execBmPref (a : BitVec 5) (s : State) : Out :=
  runThread (do
    let va := (← getX a) &&& ~~~0x7F#64
    let s ← get
    match prefTarget va s with
    | (s', some t) => set (s'.prefetch t (if t.a % 256 < 128 then 0x0F#8 else 0xF0#8) va.toNat false)
    | (s', none) => set s') s

/-- CTX_SPIN: the slot passes its turns for the next 32 core cycles. -/
def execCtxSpin (s : State) : Out := runThread (modSlot (fun t => { t with pass := 32 })) s

/-- UNASSIGNED_HINT: a no-op. -/
def execUnassignedHint (_w : IWord) (s : State) : Out := runThread (pure ()) s

end Sys2Proof.Machine
end

