-- ==== Sys2Proof/Machine/Dispatch.lean ====
section
/-! DEFINITION. The dispatch of every instruction and event to its meaning. -/

namespace Sys2Proof.Machine

open Sys2Proof

def exec (i : Instr) (s : State) : Host.Outcome State Fault Refusal :=
  match i with
  | .supplyThresholdCrossing cl => Sys2Proof.Machine.execSupplyThresholdCrossing cl s
  | .stretchRiseTick cl => Sys2Proof.Machine.execStretchRiseTick cl s
  | .stretchFallTick cl => Sys2Proof.Machine.execStretchFallTick cl s
  | .singleBitCorrection addr => Sys2Proof.Machine.execSingleBitCorrection addr s
  | .uncorrectableError site => Sys2Proof.Machine.execUncorrectableError site s
  | .registerWrite r => Sys2Proof.Machine.execRegisterWrite r s
  | .scalarLoad k rd rs1 imm => Sys2Proof.Machine.execScalarLoad k rd rs1 imm s
  | .scalarStore k rs1 rs2 imm => Sys2Proof.Machine.execScalarStore k rs1 rs2 imm s
  | .atomicAmo op wd aq rl rd rs1 rs2 => Sys2Proof.Machine.execAtomicAmo op wd aq rl rd rs1 rs2 s
  | .amocas wd aq rl rd rs1 rs2 => Sys2Proof.Machine.execAmocas wd aq rl rd rs1 rs2 s
  | .fence fm pred succ rs1 rd => Sys2Proof.Machine.execFence fm pred succ rs1 rd s
  | .fenceTso rs1 rd => Sys2Proof.Machine.execFenceTso rs1 rd s
  | .fenceI imm rs1 rd => Sys2Proof.Machine.execFenceI imm rs1 rd s
  | .sfenceVma rs1 rs2 => Sys2Proof.Machine.execSfenceVma rs1 rs2 s
  | .xret k => Sys2Proof.Machine.execXret k s
  | .wrsTimeout h => Sys2Proof.Machine.execWrsTimeout h s
  | .vectorIssue wd => Sys2Proof.Machine.execVectorIssue wd s
  | .sequencerHeadExecute h => Sys2Proof.Machine.execSequencerHeadExecute h s
  | .loopIteration h => Sys2Proof.Machine.execLoopIteration h s
  | .trapOrInterrupt k => Sys2Proof.Machine.execTrapOrInterrupt k s
  | .issuePassExpiry h => Sys2Proof.Machine.execIssuePassExpiry h s
  | .slotFill cl core => Sys2Proof.Machine.execSlotFill cl core s
  | .lightRecordArrival cl core src rec => Sys2Proof.Machine.execLightRecordArrival cl core src rec s
  | .recordReoffer cl => Sys2Proof.Machine.execRecordReoffer cl s
  | .sleeperWake h => Sys2Proof.Machine.execSleeperWake h s
  | .remoteScratchpadRequest cl core => Sys2Proof.Machine.execRemoteScratchpadRequest cl core s
  | .scentDivergenceTimeout cl core => Sys2Proof.Machine.execScentDivergenceTimeout cl core s
  | .scentEnable value => Sys2Proof.Machine.execScentEnable value s
  | .missHoldExpiry cl idx => Sys2Proof.Machine.execMissHoldExpiry cl idx s
  | .l2FillReturn cl idx => Sys2Proof.Machine.execL2FillReturn cl idx s
  | .broadcastFillMaskWrite who cl cls mask => Sys2Proof.Machine.execBroadcastFillMaskWrite who cl cls mask s
  | .walkComplete cl idx => Sys2Proof.Machine.execWalkComplete cl idx s
  | .segmentRegisterWrite who cl core seg value => Sys2Proof.Machine.execSegmentRegisterWrite who cl core seg value s
  | .segmentZeroingDone cl core seg => Sys2Proof.Machine.execSegmentZeroingDone cl core seg s
  | .groupForm who cl g cores dw1 => Sys2Proof.Machine.execGroupForm who cl g cores dw1 s
  | .groupGoLive who cl g => Sys2Proof.Machine.execGroupGoLive who cl g s
  | .groupDrain who cl g => Sys2Proof.Machine.execGroupDrain who cl g s
  | .groupFree who cl g => Sys2Proof.Machine.execGroupFree who cl g s
  | .launchEndNotice cl g => Sys2Proof.Machine.execLaunchEndNotice cl g s
  | .skennelPark ent => Sys2Proof.Machine.execSkennelPark ent s
  | .skennelReady ent => Sys2Proof.Machine.execSkennelReady ent s
  | .skennelEmptyFailed ent => Sys2Proof.Machine.execSkennelEmptyFailed ent s
  | .uweightWrite launch value => Sys2Proof.Machine.execUweightWrite launch value s
  | .kennelSaveComplete cl core ent => Sys2Proof.Machine.execKennelSaveComplete cl core ent s
  | .kennelSaveFault cl core ent => Sys2Proof.Machine.execKennelSaveFault cl core ent s
  | .kennelLoadComplete cl core ent => Sys2Proof.Machine.execKennelLoadComplete cl core ent s
  | .kennelLoadFault cl core ent => Sys2Proof.Machine.execKennelLoadFault cl core ent s
  | .haltQuiescent cl core => Sys2Proof.Machine.execHaltQuiescent cl core s
  | .rankMoveComplete cl => Sys2Proof.Machine.execRankMoveComplete cl s
  | .tileOpStart cl core => Sys2Proof.Machine.execTileOpStart cl core s
  | .tileOpComplete cl core => Sys2Proof.Machine.execTileOpComplete cl core s
  | .multicastRequest cl core src tag piece cnt => Sys2Proof.Machine.execMulticastRequest cl core src tag piece cnt s
  | .multicastEntryTimeout cl core idx => Sys2Proof.Machine.execMulticastEntryTimeout cl core idx s
  | .channelPieceSend cl core cid ch => Sys2Proof.Machine.execChannelPieceSend cl core cid ch s
  | .retrieverPiece cl core idx => Sys2Proof.Machine.execRetrieverPiece cl core idx s
  | .pieceLands cl core idx => Sys2Proof.Machine.execPieceLands cl core idx s
  | .pieceFails cl core idx => Sys2Proof.Machine.execPieceFails cl core idx s
  | .channelFaultSignal cl core cid ch => Sys2Proof.Machine.execChannelFaultSignal cl core cid ch s
  | .channelCancelDrained cl core cid ch => Sys2Proof.Machine.execChannelCancelDrained cl core cid ch s
  | .stripElementLand cl core cid strip group => Sys2Proof.Machine.execStripElementLand cl core cid strip group s
  | .stripElementFail cl core cid strip => Sys2Proof.Machine.execStripElementFail cl core cid strip s
  | .herderDispatch cl => Sys2Proof.Machine.execHerderDispatch cl s
  | .priorityAging cl ent => Sys2Proof.Machine.execPriorityAging cl ent s
  | .taskEngineFinish cl ent => Sys2Proof.Machine.execTaskEngineFinish cl ent s
  | .taskEngineFailure cl ent => Sys2Proof.Machine.execTaskEngineFailure cl ent s
  | .taskRetire cl ent => Sys2Proof.Machine.execTaskRetire cl ent s
  | .spawnChildSend cl ent => Sys2Proof.Machine.execSpawnChildSend cl ent s
  | .transferTaskPieceCut cl ent => Sys2Proof.Machine.execTransferTaskPieceCut cl ent s
  | .frontierFire cl ent => Sys2Proof.Machine.execFrontierFire cl ent s
  | .frontierMessage cl ent => Sys2Proof.Machine.execFrontierMessage cl ent s
  | .boundaryCountSend cl ent => Sys2Proof.Machine.execBoundaryCountSend cl ent s
  | .frontierStopped cl ent => Sys2Proof.Machine.execFrontierStopped cl ent s
  | .frontierArrayFault cl ent => Sys2Proof.Machine.execFrontierArrayFault cl ent s
  | .terrierItemStep cl q => Sys2Proof.Machine.execTerrierItemStep cl q s
  | .terrierAccessFault cl q => Sys2Proof.Machine.execTerrierAccessFault cl q s
  | .launchHeaderCheck slot => Sys2Proof.Machine.execLaunchHeaderCheck slot s
  | .groupOffer slot => Sys2Proof.Machine.execGroupOffer slot s
  | .groupReoffer slot => Sys2Proof.Machine.execGroupReoffer slot s
  | .lightUnitSend slot => Sys2Proof.Machine.execLightUnitSend slot s
  | .sweep slot => Sys2Proof.Machine.execSweep slot s
  | .sweepAcknowledged slot => Sys2Proof.Machine.execSweepAcknowledged slot s
  | .cmdNop idx => Sys2Proof.Machine.execCmdNop idx s
  | .cmdLaunch idx => Sys2Proof.Machine.execCmdLaunch idx s
  | .cmdSignal idx => Sys2Proof.Machine.execCmdSignal idx s
  | .cmdWait idx => Sys2Proof.Machine.execCmdWait idx s
  | .cmdWaitPoll idx => Sys2Proof.Machine.execCmdWaitPoll idx s
  | .commandCompletion idx => Sys2Proof.Machine.execCommandCompletion idx s
  | .queueNotifyWrite who q value => Sys2Proof.Machine.execQueueNotifyWrite who q value s
  | .queueEnable who q ctl => Sys2Proof.Machine.execQueueEnable who q ctl s
  | .queueDisable who q => Sys2Proof.Machine.execQueueDisable who q s
  | .queueResetWrite who q => Sys2Proof.Machine.execQueueResetWrite who q s
  | .queueResetComplete q => Sys2Proof.Machine.execQueueResetComplete q s
  | .agentTakeRecord ag => Sys2Proof.Machine.execAgentTakeRecord ag s
  | .triangleRecord idx => Sys2Proof.Machine.execTriangleRecord idx s
  | .fragmentBlockPush idx => Sys2Proof.Machine.execFragmentBlockPush idx s
  | .drawRecord idx => Sys2Proof.Machine.execDrawRecord idx s
  | .drawComplete idx => Sys2Proof.Machine.execDrawComplete idx s
  | .pixelUpdateRecord idx => Sys2Proof.Machine.execPixelUpdateRecord idx s
  | .linkEnable who l => Sys2Proof.Machine.execLinkEnable who l s
  | .linkDisable who l => Sys2Proof.Machine.execLinkDisable who l s
  | .linkTrainingComplete l low high peer => Sys2Proof.Machine.execLinkTrainingComplete l low high peer s
  | .flitReceive l crcOk => Sys2Proof.Machine.execFlitReceive l crcOk s
  | .routeTableWrite who d value => Sys2Proof.Machine.execRouteTableWrite who d value s
  | .routeEntryEffect d => Sys2Proof.Machine.execRouteEntryEffect d s
  | .hostRequest r => Sys2Proof.Machine.execHostRequest r s
  | .ownershipClaim host value => Sys2Proof.Machine.execOwnershipClaim host value s
  | .ownershipHandoff host value => Sys2Proof.Machine.execOwnershipHandoff host value s
  | .mailboxDoorbell who n value => Sys2Proof.Machine.execMailboxDoorbell who n value s
  | .handoverCommitPoint f => Sys2Proof.Machine.execHandoverCommitPoint f s
  | .handoverFailure f => Sys2Proof.Machine.execHandoverFailure f s
  | .supplyMonitorDisable who cl => Sys2Proof.Machine.execSupplyMonitorDisable who cl s
  | .pgPref l a => Sys2Proof.Machine.execPgPref l a s
  | .bmPref a => Sys2Proof.Machine.execBmPref a s
  | .unassignedHint wd => Sys2Proof.Machine.execUnassignedHint wd s
  | .mfFence q p sc => Sys2Proof.Machine.execMfFence q p sc s
  | .pgZero a => Sys2Proof.Machine.execPgZero a s
  | .pgClean a => Sys2Proof.Machine.execPgClean a s
  | .pgInval a => Sys2Proof.Machine.execPgInval a s
  | .pgFlush a => Sys2Proof.Machine.execPgFlush a s
  | .ctxSleep a => Sys2Proof.Machine.execCtxSleep a s
  | .ctxWake a d => Sys2Proof.Machine.execCtxWake a d s
  | .ctxSelf d => Sys2Proof.Machine.execCtxSelf d s
  | .ctxCkpt a d => Sys2Proof.Machine.execCtxCkpt a d s
  | .ctxPrio a d => Sys2Proof.Machine.execCtxPrio a d s
  | .grpSpawn b a => Sys2Proof.Machine.execGrpSpawn b a s
  | .grpSpawnat b a => Sys2Proof.Machine.execGrpSpawnat b a s
  | .grpGo a => Sys2Proof.Machine.execGrpGo a s
  | .grpOwner a d => Sys2Proof.Machine.execGrpOwner a d s
  | .grpHere a d => Sys2Proof.Machine.execGrpHere a d s
  | .barInit b a d => Sys2Proof.Machine.execBarInit b a d s
  | .barArrive a d => Sys2Proof.Machine.execBarArrive a d s
  | .barWait b a d => Sys2Proof.Machine.execBarWait b a d s
  | .parkStoreEntryFree h => Sys2Proof.Machine.execParkStoreEntryFree h s
  | .barSync a d => Sys2Proof.Machine.execBarSync a d s
  | .barDrop a => Sys2Proof.Machine.execBarDrop a s
  | .barTest b a d => Sys2Proof.Machine.execBarTest b a d s
  | .barFree a d => Sys2Proof.Machine.execBarFree a d s
  | .krnLaunch a d => Sys2Proof.Machine.execKrnLaunch a d s
  | .krnCancel a d => Sys2Proof.Machine.execKrnCancel a d s
  | .krnCount a d => Sys2Proof.Machine.execKrnCount a d s
  | .krnBorrow d => Sys2Proof.Machine.execKrnBorrow d s
  | .krnWait a d => Sys2Proof.Machine.execKrnWait a d s
  | .qPush b a d => Sys2Proof.Machine.execQPush b a d s
  | .qPop b a d => Sys2Proof.Machine.execQPop b a d s
  | .qPeek b a d => Sys2Proof.Machine.execQPeek b a d s
  | .qNotify b a d => Sys2Proof.Machine.execQNotify b a d s
  | .qReset a d => Sys2Proof.Machine.execQReset a d s
  | .qState a d => Sys2Proof.Machine.execQState a d s
  | .sysKsave d => Sys2Proof.Machine.execSysKsave d s
  | .sysKload a d => Sys2Proof.Machine.execSysKload a d s
  | .sysRankset b a d => Sys2Proof.Machine.execSysRankset b a d s
  | .sysScent b a d => Sys2Proof.Machine.execSysScent b a d s
  | .sysHalt a d => Sys2Proof.Machine.execSysHalt a d s
  | .sysResume a => Sys2Proof.Machine.execSysResume a s
  | .sysTlbinv b a => Sys2Proof.Machine.execSysTlbinv b a s
  | .sysPoison b a => Sys2Proof.Machine.execSysPoison b a s
  | .vxSshl m b a d => Sys2Proof.Machine.execVxSshl m b a d s
  | .vxSrl m b a d => Sys2Proof.Machine.execVxSrl m b a d s
  | .vxSra m b a d => Sys2Proof.Machine.execVxSra m b a d s
  | .vxRsra m b a d => Sys2Proof.Machine.execVxRsra m b a d s
  | .vxAbsd m b a d => Sys2Proof.Machine.execVxAbsd m b a d s
  | .vxAvgr m b a d => Sys2Proof.Machine.execVxAvgr m b a d s
  | .vxFredtsum m b a d => Sys2Proof.Machine.execVxFredtsum m b a d s
  | .vxFdott m b a d => Sys2Proof.Machine.execVxFdott m b a d s
  | .vxMif b => Sys2Proof.Machine.execVxMif b s
  | .vxScanadd m b a d => Sys2Proof.Machine.execVxScanadd m b a d s
  | .vxScanmin m b a d => Sys2Proof.Machine.execVxScanmin m b a d s
  | .vxScanmax m b a d => Sys2Proof.Machine.execVxScanmax m b a d s
  | .vxScanminn m b a d => Sys2Proof.Machine.execVxScanminn m b a d s
  | .vxScanmaxn m b a d => Sys2Proof.Machine.execVxScanmaxn m b a d s
  | .vxFscanadd m b a d => Sys2Proof.Machine.execVxFscanadd m b a d s
  | .vxEscanadd m b a d => Sys2Proof.Machine.execVxEscanadd m b a d s
  | .vxTex m b a d => Sys2Proof.Machine.execVxTex m b a d s
  | .vxTexg m b a d => Sys2Proof.Machine.execVxTexg m b a d s
  | .vxSshlx m b a d => Sys2Proof.Machine.execVxSshlx m b a d s
  | .vxSrlx m b a d => Sys2Proof.Machine.execVxSrlx m b a d s
  | .vxSrax m b a d => Sys2Proof.Machine.execVxSrax m b a d s
  | .vxLwait a d => Sys2Proof.Machine.execVxLwait a d s
  | .vxLoop n a => Sys2Proof.Machine.execVxLoop n a s
  | .pkAdd8 b a d => Sys2Proof.Machine.execPkAdd8 b a d s
  | .pkAdd16 b a d => Sys2Proof.Machine.execPkAdd16 b a d s
  | .pkSub8 b a d => Sys2Proof.Machine.execPkSub8 b a d s
  | .pkSub16 b a d => Sys2Proof.Machine.execPkSub16 b a d s
  | .pkAdds8n b a d => Sys2Proof.Machine.execPkAdds8n b a d s
  | .pkSubs8n b a d => Sys2Proof.Machine.execPkSubs8n b a d s
  | .pkSll8 b a d => Sys2Proof.Machine.execPkSll8 b a d s
  | .pkSll16 b a d => Sys2Proof.Machine.execPkSll16 b a d s
  | .pkSrl8 b a d => Sys2Proof.Machine.execPkSrl8 b a d s
  | .pkSrl16 b a d => Sys2Proof.Machine.execPkSrl16 b a d s
  | .pkSra8 b a d => Sys2Proof.Machine.execPkSra8 b a d s
  | .pkSra16 b a d => Sys2Proof.Machine.execPkSra16 b a d s
  | .pkMul8h b a d => Sys2Proof.Machine.execPkMul8h b a d s
  | .pkAvg8 b a d => Sys2Proof.Machine.execPkAvg8 b a d s
  | .pkMax8n b a d => Sys2Proof.Machine.execPkMax8n b a d s
  | .pkMin8n b a d => Sys2Proof.Machine.execPkMin8n b a d s
  | .vxCvtm8 m b sc d => Sys2Proof.Machine.execVxCvtm8 m b sc d s
  | .vxCvtfm8 m b d => Sys2Proof.Machine.execVxCvtfm8 m b d s
  | .vxBsdec m b a d => Sys2Proof.Machine.execVxBsdec m b a d s
  | .vxBsenc m b a d => Sys2Proof.Machine.execVxBsenc m b a d s
  | .vxBsfind m b d => Sys2Proof.Machine.execVxBsfind m b d s
  | .tlZero d => Sys2Proof.Machine.execTlZero d s
  | .tlMma b a d => Sys2Proof.Machine.execTlMma b a d s
  | .tlMmas b a d => Sys2Proof.Machine.execTlMmas b a d s
  | .tlLd a d => Sys2Proof.Machine.execTlLd a d s
  | .tlSt a d => Sys2Proof.Machine.execTlSt a d s
  | .tlStc a d => Sys2Proof.Machine.execTlStc a d s
  | .tlAdd a d => Sys2Proof.Machine.execTlAdd a d s
  | .tlClaim a d => Sys2Proof.Machine.execTlClaim a d s
  | .tlFree a => Sys2Proof.Machine.execTlFree a s
  | .tlWait a => Sys2Proof.Machine.execTlWait a s
  | .tlState d => Sys2Proof.Machine.execTlState d s
  | .tlRowv b a d => Sys2Proof.Machine.execTlRowv b a d s
  | .tlVrow b a d => Sys2Proof.Machine.execTlVrow b a d s
  | .xfOpen a d => Sys2Proof.Machine.execXfOpen a d s
  | .xfClose d => Sys2Proof.Machine.execXfClose d s
  | .xfWm a d => Sys2Proof.Machine.execXfWm a d s
  | .xfWait d => Sys2Proof.Machine.execXfWait d s
  | .xfCancel d => Sys2Proof.Machine.execXfCancel d s
  | .xfGet b a d => Sys2Proof.Machine.execXfGet b a d s
  | .xfPut b a d => Sys2Proof.Machine.execXfPut b a d s
  | .xfVget b a d => Sys2Proof.Machine.execXfVget b a d s
  | .xfVwait d => Sys2Proof.Machine.execXfVwait d s
  | .tskPut a d => Sys2Proof.Machine.execTskPut a d s
  | .tskWait a d => Sys2Proof.Machine.execTskWait a d s
  | .tskPoll a d => Sys2Proof.Machine.execTskPoll a d s
  | .tskCancel a d => Sys2Proof.Machine.execTskCancel a d s
  | .tskFence a d => Sys2Proof.Machine.execTskFence a d s
  | .tskStream b a d => Sys2Proof.Machine.execTskStream b a d s
  | .bmQuery a d => Sys2Proof.Machine.execBmQuery a d s
  | .bmWait a d => Sys2Proof.Machine.execBmWait a d s
  | .bmPoll a d => Sys2Proof.Machine.execBmPoll a d s
  | .bmSplit a d => Sys2Proof.Machine.execBmSplit a d s
  | .bmResume b a d => Sys2Proof.Machine.execBmResume b a d s
  | .bmCancel a d => Sys2Proof.Machine.execBmCancel a d s
  | .fntLaunch a d => Sys2Proof.Machine.execFntLaunch a d s
  | .fntDone b a => Sys2Proof.Machine.execFntDone b a s
  | .fntSave b a d => Sys2Proof.Machine.execFntSave b a d s
  | .fntLoad b a d => Sys2Proof.Machine.execFntLoad b a d s
  | .fntQuery a d => Sys2Proof.Machine.execFntQuery a d s
  | .fntCancel a d => Sys2Proof.Machine.execFntCancel a d s
  | .fntWait a d => Sys2Proof.Machine.execFntWait a d s
  | .standardScalarInstruction op => Sys2Proof.Machine.execStandardScalarInstruction op s
  | .supplyAboveThreshold cl => Sys2Proof.Machine.execSupplyAboveThreshold cl s
  | .memoryAcknowledgement idx => Sys2Proof.Machine.execMemoryAcknowledgement idx s
  | .powerOn => Sys2Proof.Machine.execPowerOn s
  | .packageReset => Sys2Proof.Machine.execPackageReset s
  | .wrsNto => Sys2Proof.Machine.execWrsNto s
  | .wrsSto => Sys2Proof.Machine.execWrsSto s
  | .collectorWeightMessage => Sys2Proof.Machine.execCollectorWeightMessage s
  | .intakeTake => Sys2Proof.Machine.execIntakeTake s
  | .reqAttest => Sys2Proof.Machine.execReqAttest s
  | .reqStage => Sys2Proof.Machine.execReqStage s
  | .reqCommit => Sys2Proof.Machine.execReqCommit s
  | .reqAbort => Sys2Proof.Machine.execReqAbort s
  | .reqKeyload => Sys2Proof.Machine.execReqKeyload s
  | .reqKeyclear => Sys2Proof.Machine.execReqKeyclear s
  | .reqTkset => Sys2Proof.Machine.execReqTkset s
  | .reqPing => Sys2Proof.Machine.execReqPing s
  | .reqKstate => Sys2Proof.Machine.execReqKstate s
  | .reqKcancel => Sys2Proof.Machine.execReqKcancel s
  | .reqScrub => Sys2Proof.Machine.execReqScrub s
  | .reqEcount => Sys2Proof.Machine.execReqEcount s
  | .reqMonread => Sys2Proof.Machine.execReqMonread s
  | .reqRetrain => Sys2Proof.Machine.execReqRetrain s
  | .reqHalt => Sys2Proof.Machine.execReqHalt s
  | .reqResume => Sys2Proof.Machine.execReqResume s
  | .reqHread => Sys2Proof.Machine.execReqHread s
  | .reqUnknownOp => Sys2Proof.Machine.execReqUnknownOp s
  | .errorRecord => Sys2Proof.Machine.execErrorRecord s
  | .ctxSpin => Sys2Proof.Machine.execCtxSpin s
  | .ctxYield => Sys2Proof.Machine.execCtxYield s
  | .ctxExit => Sys2Proof.Machine.execCtxExit s
  | .grpExit => Sys2Proof.Machine.execGrpExit s
  | .sysKswap => Sys2Proof.Machine.execSysKswap s
  | .vxMelse => Sys2Proof.Machine.execVxMelse s
  | .vxMpop => Sys2Proof.Machine.execVxMpop s

end Sys2Proof.Machine
end

