-- ==== Sys2Proof/Machine/Fetch.lean ====
section
/-! DEFINITION. Fetching an instruction, and placing one where it is fetched next (spec/03_encoding.md R67, R76;
spec/04_memory.md R99; spec/07_context.md R175; log entry 1). -/

namespace Sys2Proof.Machine

open Sys2Proof

/-- The bytes of the instruction at the pc: two, or four where the low bits ask for more. -/
def fetchBytes : M (List Byte) := do
  let c ← ctx
  let lo ← fetchHalf c.pc
  if lengthOf (lo.headD 0#8) = 2 then return lo
  else return lo ++ (← fetchHalf (c.pc + 2#64))

/-- What an issue turn has fetched. -/
inductive Fetched where
  | run (i : Instr)      -- an instruction, or the trap that takes its place
  | waits                -- the fetch waits for a walk or a fill
deriving DecidableEq, Repr

/-- The bits of the bytes, as a trap value holds them. -/
def bitsOf (bs : List Byte) : IWord := BitVec.ofNat 32 (leNat bs)

/-- An instruction whose wait left a mark is in flight: it is not fetched again (spec/07_context.md R195). -/
def State.refetch (s : State) (w : WaitMark) : State × Fetched :=
  let s := { s with ibits := w.bits, ilen := w.len }
  match decode (leBytes w.len w.bits.toNat) with
  | .ok (i, _) => (s, .run i)
  | .error _ => (s, .run (.trapOrInterrupt (.illegal w.bits)))

/-- The fetch and the decoding of one instruction of the hart whose turn it is. -/
def State.fetchNew (s : State) : State × Fetched :=
  match fetchBytes s with
  | .ok bs s =>
    let s := { s with ibits := bitsOf bs, ilen := bs.length }
    match decode bs with
    | .ok (i, _) => (s, .run i)
    | .error _ => (s, .run (.trapOrInterrupt (.illegal (bitsOf bs))))
  | .error (.trap c v) s => (s, .run (.trapOrInterrupt (.fetchTrap c v)))
  | .error _ s => (s, .waits)

/-- The instruction of an issue turn: the one in flight, or the one at the pc. -/
def State.fetch (s : State) : State × Fetched :=
  match (s.slot s.cur).wait with
  | some w => s.refetch w
  | none => s.fetchNew

/-- The slot of a hart takes an issue turn: it holds a context, is not halted, passes no turns and has no interrupt to take
first (R175, R209). -/
def State.canIssue (s : State) (h : Hart) : Bool := s.running h && (s.slot h).pass == 0 && !(s.slot h).irqDue

/-- Address at which withFetchWord places an instruction. -/
def placeAt : Nat := 0x1000

/-- The context that runs a placed instruction: that of the slot, or a fresh one, in M-mode at the address. -/
def placedCtx (t : Slot) : Ctx := { (t.ctx.getD {}) with pc := w64 placeAt, priv := .m }

/-- Every cache copy of the placed line leaves, and memory holds the bytes in plaintext. -/
def State.placeBytes (s : State) (bs : List Byte) : State :=
  { s with
    mem := s.mem.writeN placeAt bs
    poison := s.poison.filter (fun b => b != placeAt)
    sealed := if s.sealed.ents.isEmpty then s.sealed else s.sealed.put (placeAt / 32) none
    clusters := s.clusters.map (fun _ c => c.dropLine placeAt)
    cores := s.cores.map (fun _ c => { c with l1i := c.l1i.filter (fun l => l.addr != placeAt) }) }

/-- s with an instruction placed where the current hart fetches its next one: the schedule is its own turn, its slot runs
in M-mode at the address with no wait and no interrupt enabled, and PMP does not deny it. -/
def State.placeInstr (s : State) (bs : List Byte) : State :=
  let s := { s with agenda := [.issue s.cur] }
  (s.placeBytes bs).modSlot s.cur (fun t => { t with
    ctx := some (placedCtx t), halted := false, pass := 0, wait := none, marks := [], mie := 0#64, pmpcfg := Tab.empty })

end Sys2Proof.Machine
end

