-- ==== Sys2Proof/Machine/Turn.lean ====
section
/-! DEFINITION. A turn of the schedule: an issue turn of a hart (spec/07_context.md R175), an event, or an instruction of a control
core (spec/18_link.md R482), and what a port that imposes a scent log holds of it (R220). -/

namespace Sys2Proof.Machine

open Sys2Proof

/-- A hart that cannot issue passes its turn; the cycle is one in which no slot of its core issues where no other could
(R175; spec/03_encoding.md R68 event 2). -/
def State.passTurn (s : State) (h : Hart) : State := if s.othersIdle h then s.waitCycles h else s

/-- An issue turn: the instruction at the pc of the current hart is fetched and executed. -/
def issue (s : State) : Host.Outcome State Fault Refusal :=
  if s.canIssue s.cur then
    match s.fetch with
    | (s, .run i) => exec i s
    | (s, .waits) => .next (s.waitCycles s.cur)
  else .next (s.passTurn s.cur)

/-- What a turn does. -/
def act (t : Turn) (s : State) : Host.Outcome State Fault Refusal :=
  match t with
  | .issue h => issue { s with cur := h }
  | .event i => exec i s
  | .control n => .next (s.ctlTurn n)

/-! ### Ports with an imposed log (spec/07_context.md R220) -/

/-- A port imposes a scent log. -/
def State.imposing (s : State) : Bool := s.cores.ents.any (fun e => e.2.impose.left != 0)

/-- The state in which a turn is tried without the imposed logs: each port lists the accesses that the turn makes. -/
def State.probing (s : State) : State :=
  { s with cores := s.cores.map (fun _ c =>
      if c.impose.left = 0 then c else { c with impose := { c.impose with probe := some [] } }) }

/-- The first of the accesses of a turn that does not match its record of a log, of which n records remain from an address on. -/
def State.firstMiss (s : State) : Nat → Nat → List PortSig → Option PortSig
  | 0, _, _ => none
  | _, _, [] => none
  | n + 1, a, x :: xs => if s.scentAt a = x then s.firstMiss n (a + 16) xs else some x

/-- A turn that an imposed log holds at an access keeps its place among those held, or takes the last; one that it holds no more
leaves. -/
def Impose.note (i : Impose) (t : Turn) (x : Option PortSig) : Impose :=
  match x with
  | none => { i with held := i.held.filter (fun p => p.1 ≠ t) }
  | some x =>
    { i with held := if i.held.any (fun p => p.1 == t) then i.held.map (fun p => if p.1 = t then (t, x) else p)
                     else i.held ++ [(t, x)] }

/-- The turn serves the queue of a port, whose requests the port holds one by one. -/
def Turn.servesPort : Turn → Bool
  | .event (.remoteScratchpadRequest _ _) => true
  | _ => false

/-- What a turn leaves at the ports that held, before it, a log: whether they hold it (R220). -/
def State.noteHeld (s' : State) (t : Turn) (s : State) : State :=
  match act t s.probing with
  | .next v =>
    (s.cores.ents.filter (fun e => e.2.impose.left != 0)).foldl (fun (s' : State) (e : Nat × Core) =>
      let x := s.firstMiss e.2.impose.left e.2.impose.next ((v.core e.1).impose.probe.getD [])
      s'.modCore e.1 (fun c => if c.impose.left = 0 then c else { c with impose := c.impose.note t x })) s'
  | _ => s'

/-- Where imposition has ended, the accesses that the port held are served next, in arrival order (R220, spec/04_memory.md R92). -/
def State.serveHeld (s : State) : State :=
  (s.cores.ents.filter (fun e => decide (e.2.impose.left = 0) && !e.2.impose.held.isEmpty)).foldl
    (fun (s : State) (e : Nat × Core) =>
      ({ s with agenda := e.2.impose.held.map (fun x : Turn × PortSig => x.1) ++ s.agenda } : State).modCore e.1
        (fun c => { c with impose := { c.impose with held := [] } })) s

/-- What a turn leaves where a port imposed a log before it. -/
def State.scentTurn (s' : State) (t : Turn) (s : State) : State :=
  (if t.servesPort then s' else s'.noteHeld t s).serveHeld

/-- A turn taken. -/
def turn (t : Turn) (s : State) : Host.Outcome State Fault Refusal :=
  match act t s with
  | .next s' => .next (if s.imposing then s'.scentTurn t s else s')
  | r => r

end Sys2Proof.Machine
end

