-- ==== Sys2Proof/Machine/Step.lean ====
section
/-! DEFINITION. One step of the machine: the next turn of the schedule, or the model's own choice (spec/00_scope.md R10, R528;
log entry 1). -/

namespace Sys2Proof.Machine

open Sys2Proof

/-- One step. -/
def step (s : State) : Host.Outcome State Fault Refusal :=
  match s.agenda with
  | t :: rest => turn t { s with agenda := rest }
  | [] =>
    match s.defaultTurn with
    | some t => turn t { s with turnNo := s.turnNo + 1 }
    | none => .next s

/-- s with the instruction of an opcode-table word placed where the next step fetches it. -/
def State.withFetchWord (s : State) (nbits w : Nat) : State := s.placeInstr (leBytes (max 4 (nbits / 8)) w)

end Sys2Proof.Machine
end

