-- ==== Sys2Proof/Safety.lean ====
section
/-! DEFINITION. What counts as a safe state and a safe run, and the words that claims are stated in. -/

namespace Sys2Proof.Machine

open Sys2Proof

/-- A state is well formed when its memory keeps the canonical form. -/
def State.Inv (s : State) : Prop := s.mem.wf = true

/-- The outcome of a step is a next state: no step of this model faults, and none may be refused. -/
def Completes (o : Host.Outcome State Fault Refusal) : Prop := ∃ t, o = .next t

/-- Every one of the first n steps from s answers a next state. -/
def SafeRun : Nat → State → Prop
  | 0, _ => True
  | n + 1, s => ∃ t, step s = .next t ∧ SafeRun n t

/-- The current hart has a thread that can run: a context in its slot, not halted. -/
def State.Runs (s : State) : Prop := s.running s.cur = true

/-- The state in which the instruction in flight is executed: the next pc is the address after it. -/
def State.begun (s : State) : State := { s with npc := (s.ctx s.cur).pc + w64 s.ilen }

/-- Register r of the current hart's thread. -/
def State.xr (s : State) (r : Reg) : Word := (s.ctx s.cur).getX r.toNat

/-- The state with a register of the current hart's thread written; a write to x0 is discarded. -/
def State.putX (s : State) (r : Reg) (v : Word) : State := s.modCtx s.cur (·.setX r.toNat v)

/-- The state after the instruction in flight raises an exception. -/
def State.trapped (s : State) (cause : Nat) (tval : Word) : State :=
  (s.begun.takeTrap s.cur false cause tval).passCycles s.cur.gcore

/-- The state after an issue turn in which the instruction in flight waits. -/
def State.waited (s : State) : State := s.begun.waitCycles s.cur

/-- The address after the instruction in flight. -/
def State.nextPc (s : State) : Word := (s.ctx s.cur).pc + w64 s.ilen

/-- What retirement adds to instret: nothing where mcountinhibit stops it (spec/03_encoding.md R68). -/
def State.counted (s : State) : Word := if wbit (s.core s.cur.gcore).inhibit 2 then 0#64 else 1#64

/-- The current hart's thread retired an instruction that changed its context by f and went on at pc, and changed nothing
else: no byte of memory, no other slot, no other core, nothing of its own core but the cycle and event counters, nothing of
its own slot but an instruction's wait and what walks have left for it, and nothing of the rest of the machine. -/
def Retired (s t : State) (f : Ctx → Ctx) (pc : Word) : Prop :=
  (∀ a, t.mem.read a = s.mem.read a) ∧
  t.ctx s.cur = { f (s.ctx s.cur) with pc := pc, instret := (f (s.ctx s.cur)).instret + s.counted } ∧
  t.slot s.cur = { s.slot s.cur with ctx := some (t.ctx s.cur), wait := none, marks := (t.slot s.cur).marks } ∧
  (∀ h, h ≠ s.cur → t.slot h = s.slot h) ∧
  t.core s.cur.gcore = { s.core s.cur.gcore with cycle := (t.core s.cur.gcore).cycle, hpm := (t.core s.cur.gcore).hpm } ∧
  (∀ g, g ≠ s.cur.gcore → t.core g = s.core g) ∧
  t = { s with slots := t.slots, cores := t.cores, npc := t.npc, free := t.free }

/-- The thread of the current hart may reach n bytes of its own scratchpad at an offset, within a page, and nothing makes
the access wait: no tile operand, no channel, no imposed or running scent log, no planted error, no poison. -/
def ownScratchFree (s : State) (off n : Nat) (store : Bool) : Prop :=
  let pa := scratchPa s.cur.gcore off
  off % 4096 + n ≤ 4096 ∧ off + n ≤ 0x40000 ∧ 0 < n ∧
  s.permits pa n store (identOf (s.ctx s.cur) (effPriv (s.slot s.cur) (s.ctx s.cur)) s.cur) = .yes ∧
  (s.core s.cur.gcore).tileStall pa n store = false ∧ (s.ctx s.cur).stallingChan s.cur.gcore pa n store = none ∧
  (s.core s.cur.gcore).impose.left = 0 ∧ (s.core s.cur.gcore).sscent.getLsbD 0 = false ∧ s.soft = [] ∧ s.poison = []

/-- Memory differs by bytes written at an address, and by nothing else. -/
def Wrote (s t : State) (pa : Nat) (bs : List Byte) : Prop :=
  (∀ i, i < bs.length → t.mem.read (pa + i) = bs.getD i 0#8) ∧
  ∀ p, p < pa ∨ pa + bs.length ≤ p → t.mem.read p = s.mem.read p

/-- The current hart's thread retired an access that changed its context by f: every other thread keeps all but a reservation
that the access touched, and every other core and every cluster stay as they were. -/
def WentOn (s t : State) (f : Ctx → Ctx) : Prop :=
  t.ctx s.cur = { f (s.ctx s.cur) with pc := s.nextPc, instret := (f (s.ctx s.cur)).instret + s.counted } ∧
  (∀ h, h ≠ s.cur → t.ctx h = { s.ctx h with resv := (t.ctx h).resv }) ∧
  (∀ g, g ≠ s.cur.gcore → t.core g = s.core g)

/-- The effect of the aq bit at the end of an atomic: an acquire at device scope. -/
def State.aqEnd (s : State) (aq : BitVec 1) : State := if aq = 1#1 then s.acquire s.cur.gcore else s

/-- An access of n bytes that the instruction in flight makes has completed: the marks that it had for its pages are gone. -/
def State.accessEnd (s : State) (va : Word) (n : Nat) : State :=
  s.modSlot s.cur (·.clearMarks (if seqAccess s.ibits then .vector else .scalar) va.toNat n)

/-- A pair of registers, as amocas.q takes it. -/
def State.xPair (s : State) (r : Reg) : Nat := if r = 0#5 then 0 else (s.xr r).toNat + (s.xr (r + 1#5)).toNat * 2 ^ 64

/-- Lane i of width w of a register. -/
def lane (w i : Nat) (v : Word) : Nat := wfld v (w * i + w - 1) (w * i)

/-- A packed instruction: it retires and writes rd, each lane of width w the function f of the lanes of rs1 and rs2. -/
def PackedAs (w : Nat) (i : Reg → Reg → Reg → Instr) (f : Nat → Nat → Nat) : Prop :=
  ∀ (s : State) (b a d : Reg), s.Runs → ∃ (t : State) (v : Word), exec (i b a d) s = .next t ∧
    Retired s t (·.setX d.toNat v) s.nextPc ∧ ∀ k, k < 64 / w → lane w k v = f (lane w k (s.xr a)) (lane w k (s.xr b))

/-- The instruction enters the sequencer when it issues: the vector instructions of custom-1 but for the loop group, and the
standard ones that write no x or f register. -/
def queuesVec : Instr → Bool
  | .vectorIssue w => !writesScalar w
  | .vxSshl _ _ _ _ | .vxSrl _ _ _ _ | .vxSra _ _ _ _ | .vxRsra _ _ _ _ | .vxAbsd _ _ _ _ | .vxAvgr _ _ _ _ => true
  | .vxFredtsum _ _ _ _ | .vxFdott _ _ _ _ | .vxMif _ | .vxMelse | .vxMpop => true
  | .vxScanadd _ _ _ _ | .vxScanmin _ _ _ _ | .vxScanmax _ _ _ _ | .vxScanminn _ _ _ _ | .vxScanmaxn _ _ _ _ => true
  | .vxFscanadd _ _ _ _ | .vxEscanadd _ _ _ _ | .vxTex _ _ _ _ | .vxTexg _ _ _ _ => true
  | .vxSshlx _ _ _ _ | .vxSrlx _ _ _ _ | .vxSrax _ _ _ _ => true
  | .vxCvtm8 _ _ _ _ | .vxCvtfm8 _ _ _ | .vxBsdec _ _ _ _ | .vxBsenc _ _ _ _ | .vxBsfind _ _ _ => true
  | _ => false

/-- The head of a hart's sequencer is a vector instruction of custom-1 in the VV group, unmasked, with a register group of one
register at element width 8 * 2^q, and nothing holds it up: the sequencer runs, vstart is 0, no strip is pending or poisoned. -/
def HeadVV (s : State) (h : Hart) (e : SeqEnt) (rest : List SeqEnt) (k q : Nat) (b a d : Reg) : Prop :=
  s.seqReady h = true ∧ (s.ctx h).seq = e :: rest ∧ e.l = false ∧ e.bits = rvWord (BitVec.ofNat 6 k) 1#1 b a 0#3 d ∧
  q < 4 ∧ e.vtype = w64 (8 * q) ∧ e.vl ≤ 512 / (8 * 2 ^ q) ∧ (s.ctx h).vstart = 0#64 ∧
  (∀ n, n < 4 → ((s.ctx h).strip n).v = false) ∧ (s.ctx h).vpoison = []

/-- An entry is the head of a hart's sequencer and nothing holds it up: the sequencer runs, vstart is 0, no strip is pending or
poisoned. -/
def HeadRuns (s : State) (h : Hart) (e : SeqEnt) (rest : List SeqEnt) : Prop :=
  s.seqReady h = true ∧ (s.ctx h).seq = e :: rest ∧ e.l = false ∧ (s.ctx h).vstart = 0#64 ∧
  (∀ n, n < 4 → ((s.ctx h).strip n).v = false) ∧ (s.ctx h).vpoison = []

/-- The captured vtype of an entry is a supported one of element width 8 * 2^q whose groups have g registers, and vl is at most its
VLMAX. -/
def VTyped (e : SeqEnt) (q g : Nat) : Prop :=
  ∃ m, vlmaxOf e.vtype = some m ∧ e.vl ≤ m ∧ q = wfld e.vtype 5 3 ∧
    g = (if wfld e.vtype 2 0 < 4 then 2 ^ wfld e.vtype 2 0 else 1)

/-- What a vector instruction at the head of a sequencer leaves whose destination are n registers from d up at element width w: the
entry is gone and vstart is 0; below vl an active element holds f, an inactive one follows vtype.vma, and the tail vtype.vta: each
keeps its value or, where the policy is agnostic, may hold ones. No other v register, no x or f register and no memory changes. -/
def VecResult (s t : State) (h : Hart) (e : SeqEnt) (rest : List SeqEnt) (d n w : Nat) (act : Nat → Bool) (f : Nat → Nat) : Prop :=
  (t.ctx h).seq = rest ∧ (t.ctx h).vstart = 0#64 ∧ (t.ctx h).x = (s.ctx h).x ∧ (t.ctx h).f = (s.ctx h).f ∧
  (t.ctx h).vl = (s.ctx h).vl ∧ (t.ctx h).vtype = (s.ctx h).vtype ∧ (∀ p, t.mem.read p = s.mem.read p) ∧
  (∀ r, r < d ∨ d + n ≤ r → (t.ctx h).getV r = (s.ctx h).getV r) ∧
  ∀ i, i < n * 512 / w →
    let old := (s.ctx h).elem d w i
    let new := (t.ctx h).elem d w i
    (i < e.vl → act i = true → new = f i) ∧
    (i < e.vl → act i = false → new = old ∨ (e.vtype.getLsbD 7 = true ∧ new = 2 ^ w - 1)) ∧
    (e.vl ≤ i → new = old ∨ (e.vtype.getLsbD 6 = true ∧ new = 2 ^ w - 1))

/-- What one leaves that writes element 0 of register d, the rest being tail; with vl = 0 it writes nothing. -/
def VecScalar (s t : State) (h : Hart) (e : SeqEnt) (rest : List SeqEnt) (d w v : Nat) : Prop :=
  (t.ctx h).seq = rest ∧ (t.ctx h).vstart = 0#64 ∧ (t.ctx h).x = (s.ctx h).x ∧ (∀ p, t.mem.read p = s.mem.read p) ∧
  (∀ r, r ≠ d → (t.ctx h).getV r = (s.ctx h).getV r) ∧
  (e.vl = 0 → (t.ctx h).getV d = (s.ctx h).getV d) ∧
  (e.vl ≠ 0 → (t.ctx h).elem d w 0 = v ∧ ∀ i, 0 < i → i < 512 / w →
    (t.ctx h).elem d w i = (s.ctx h).elem d w i ∨ (e.vtype.getLsbD 6 = true ∧ (t.ctx h).elem d w i = 2 ^ w - 1))

/-- The value of a chain over the elements below n: each active one updates it. -/
def chainOf (f : Nat → Nat → Nat) (act : Nat → Bool) (el : Nat → Nat) (init : Nat) : Nat → Nat
  | 0 => init
  | n + 1 => if act n then f (chainOf f act el init n) (el n) else chainOf f act el init n

/-- The increment that vxrm gives an n-bit right shift of a (spec/08_vector.md R230). -/
def rinc (vxrm a n : Nat) : Int :=
  match vxrm with
  | 0 => if a.testBit (n - 1) then 1 else 0
  | 1 => if a.testBit (n - 1) && (a % 2 ^ (n - 1) != 0 || a.testBit n) then 1 else 0
  | 2 => 0
  | _ => if !a.testBit n && a % 2 ^ n != 0 then 1 else 0

/-- What vx.tex and vx.texg make of one element's coordinates, with rd the four bytes at an address (spec/08_vector.md R251 to R254). -/
def texValue (d : TexDesc) (gather : Bool) (sel l u v : Nat) (rd : Word → List Byte) : Nat :=
  let size := d.size l
  let half := d.filt || gather
  let (x0, fx) := texPlace (binary32.val u) size.1 half
  let (y0, fy) := texPlace (binary32.val v) size.2 half
  let at_ (i j : Int) : List Byte := rd (d.texel l (texFit (x0 + i) size.1 d.clampX) (texFit (y0 + j) size.2 d.clampY))
  let ts := [at_ 0 0, at_ 1 0, at_ 0 1, at_ 1 1]
  if !half then leNat (at_ 0 0)
  else if gather then leNat (ts.map (fun t => nth t sel 0#8))
  else
    let rest (f : FV) : FV := rne32 ((FV.num false 1 0).add 0 f.neg)
    let ws := [rne32 ((rest fx).mul (rest fy)), rne32 (fx.mul (rest fy)), rne32 ((rest fx).mul fy), rne32 (fx.mul fy)]
    leNat ((List.range 4).map (fun ch => BitVec.ofNat 8 (texBlend ws (ts.map (fun t => FV.ofInt (chan t ch) 0)))))

/-- The tile operation that an instruction starts: its kind, the names in its rd and rs1 fields, and the addresses of its operands. -/
def tileForm (s : State) : Instr → Option (TileKind × Nat × Nat × Word × Word)
  | .tlZero d => some (.zero, d.toNat, 0, 0#64, 0#64)
  | .tlMma b a d => some (.mma, d.toNat, 0, s.xr a, s.xr b)
  | .tlMmas b a d => some (.mmas, d.toNat, 0, s.xr a, s.xr b)
  | .tlLd a d => some (.ld, d.toNat, 0, s.xr a, 0#64)
  | .tlSt a d => some (.st, d.toNat, 0, s.xr a, 0#64)
  | .tlStc a d => some (.stc, d.toNat, 0, s.xr a, 0#64)
  | .tlAdd a d => some (.add, d.toNat, a.toNat, 0#64, 0#64)
  | _ => none

/-- The operation that the current hart's thread would queue on the accumulators p and, for tl.add, q. -/
def State.tileOpAt (s : State) (kind : TileKind) (va vb : Word) (p q : Nat) : TileOp :=
  { tileOpOf kind s.cur.gcore (s.ctx s.cur) (identOf (s.ctx s.cur) (s.ctx s.cur).priv s.cur) p q
      ((s.core s.cur.gcore).acc p).gen va vb with sgen := ((s.core s.cur.gcore).acc q).gen }

/-- The names of a tile operation are bound to p and, for tl.add, q, and neither has Failed unless the operation writes it whole. -/
def State.tileNames (s : State) (kind : TileKind) (d n p q : Nat) : Prop :=
  (s.ctx s.cur).acc d = some p ∧ (if kind = .add then (s.ctx s.cur).acc n = some q else q = p) ∧
  (kind = .zero ∨ kind = .ld ∨
    ((s.core s.cur.gcore).acc p).st ≠ .failed ∧ ((s.core s.cur.gcore).acc q).st ≠ .failed)

/-- The instruction queues a tile operation and retires: nothing but the queue changes, and the Failed state that tl.zero and
tl.ld clear. -/
def TileQueued (s : State) (i : Instr) (kind : TileKind) (p : Nat) (o : TileOp) : Prop :=
  ∃ t, exec i s = .next t ∧ Retired (s.modCore s.cur.gcore (fun k =>
    let a := k.acc p
    let j := if kind = .zero ∨ kind = .ld
      then k.setAcc p { a with st := if a.st = .failed then .claimed else a.st, err := 0, bad := false } else k
    { j with tileq := k.tileq ++ [o], winMat := s.cur.slot })) t id s.nextPc

end Sys2Proof.Machine
end

