-- ==== Sys2Proof/Certificates/Slice0/Obligations.lean ====
section
/-! DEFINITION. The statements of the slice, each from the numbered rules of the spec that it names. -/

open Sys2Proof Sys2Proof.Machine

/-- R175, R195, R220: the turn at the head of the agenda is taken; the agenda itself, one turn after another, is the
model's choice of an order among the harts and the engines (DESIGN CHOICE, log entry 1). An issue turn of a slot that
can issue and has no instruction in flight executes the instruction decoded from the bytes at its pc. One whose wait
left an instruction in flight executes that one without a new fetch, which is the model's reading of a wait that
resumes (DEDUCED, log entry 24). A slot that cannot issue changes nothing but the counters of its core's cycles; an
event turn executes its event; the turn of a control core runs its hart. Where a port imposes a scent log, the step
also notes what the port holds of the turn. -/
def Obligations.StepRunsDecoded : Prop :=
  (∀ (s : State) (t : Turn) (rest : List Turn), s.agenda = t :: rest →
    step s = (match act t { s with agenda := rest } with
      | .next u => .next (if s.imposing then u.scentTurn t { s with agenda := rest } else u)
      | o => o)) ∧
  (∀ (s : State) (h : Hart) (bs tail : List Byte) (u : State) (i : Instr),
    s.canIssue h = true → (s.slot h).wait = none → fetchBytes { s with cur := h } = .ok bs u → decode bs = .ok (i, tail) →
    act (.issue h) s = exec i { u with ibits := bitsOf bs, ilen := bs.length }) ∧
  (∀ (s : State) (h : Hart) (rest : List Turn) (bs tail : List Byte) (u : State) (i : Instr),
    s.agenda = .issue h :: rest → s.imposing = false → s.canIssue h = true → (s.slot h).wait = none →
    fetchBytes { s with cur := h, agenda := rest } = .ok bs u → decode bs = .ok (i, tail) →
    step s = exec i { u with ibits := bitsOf bs, ilen := bs.length }) ∧
  (∀ (s : State) (h : Hart) (w : WaitMark) (i : Instr) (tail : List Byte),
    s.canIssue h = true → (s.slot h).wait = some w → decode (leBytes w.len w.bits.toNat) = .ok (i, tail) →
    act (.issue h) s = exec i { s with cur := h, ibits := w.bits, ilen := w.len }) ∧
  (∀ (s : State) (h : Hart), s.canIssue h = false →
    ∃ t, act (.issue h) s = .next t ∧ t = { s with cur := h, cores := t.cores, free := t.free } ∧
      (∀ g, g ≠ h.gcore → t.core g = s.core g) ∧
      t.core h.gcore = { s.core h.gcore with cycle := (t.core h.gcore).cycle, hpm := (t.core h.gcore).hpm }) ∧
  (∀ (s : State) (i : Instr), act (.event i) s = exec i s) ∧
  (∀ (s : State) (n : Nat), act (.control n) s = .next (s.ctlTurn n))

/-- R69 to R79: the bytes of the encoder's word of a well-formed instruction decode to that instruction, whatever
follows. -/
def Obligations.DecodeEncode : Prop :=
  ∀ (i : Instr) (w : IWord) (rest : List Byte), i.wf = true → encode i = some w →
    decode (leBytes 4 w.toNat ++ rest) = .ok (i, rest)

/-- R69 to R79: a 32-bit word that decodes has one meaning: the decoded instruction is well formed, and its word is
that word, so that no bit of an encoding is ignored. -/
def Obligations.EncodeDecode : Prop :=
  ∀ (w : IWord) (i : Instr), decode32 w = .ok i → i.wf = true ∧ encode i = some w

/-- R69, R74: words written out field by field from the encodings of spec/03 to spec/17 decode to the instructions
they stand for. -/
def Obligations.DecodeWords : Prop :=
  decode [0x8B#8, 0xD0#8, 0x11#8, 0x08#8] = .ok (.mfFence 1#4 3#4 1#2, []) ∧
  decode [0x2B#8, 0xD5#8, 0xC5#8, 0x00#8] = .ok (.pkAdd8 12#5 11#5 10#5, []) ∧
  decode [0x2B#8, 0x04#8, 0x46#8, 0x12#8] = .ok (.vxAbsd 1#1 4#5 12#5 8#5, []) ∧
  decode [0x5B#8, 0x01#8, 0xB5#8, 0x02#8] = .ok (.tlMma 11#5 10#5 2#3, []) ∧
  decode [0x5B#8, 0x21#8, 0x05#8, 0x00#8] = .ok (.xfOpen 10#5 2#3, []) ∧
  decode [0x0B#8, 0xB5#8, 0x05#8, 0x00#8] = .ok (.krnLaunch 11#5 10#5, []) ∧
  decode [0x13#8, 0x05#8, 0xF5#8, 0xFF#8] = .ok (.standardScalarInstruction (.imm .addi 10#5 10#5 0xFFF#12), []) ∧
  decode [0x05#8, 0x15#8] = .ok (.standardScalarInstruction (.imm .addi 10#5 10#5 0xFE1#12), [])

/-- R65, R67, R69 and the standard (log entry 13): a 16-bit word, one whose low bits are not 11, decodes as the C
extension's encoding has it to the instruction that it abbreviates, whatever follows its two bytes: a three-bit
register field names x8 to x15 or f8 to f15, and each offset comes from its scattered bits. The all-zero word, and the
other reserved forms, have no meaning. -/
def Obligations.CompressedDecode : Prop :=
  ∀ rest : List Byte,
    let is (h : BitVec 16) (i : Instr) : Prop := decode (leBytes 2 h.toNat ++ rest) = .ok (i, rest)
    let no (h : BitVec 16) : Prop := ∃ e, decode (leBytes 2 h.toNat ++ rest) = .error e
    let p (r : BitVec 3) : Reg := 1#2 ++ r
    let s (i : ScalarOp) : Instr := .standardScalarInstruction i
    (∀ (d : BitVec 3) (u : BitVec 8), u ≠ 0#8 →
      is (0#3 ++ u.extractLsb' 2 2 ++ u.extractLsb' 4 4 ++ u.extractLsb' 0 1 ++ u.extractLsb' 1 1 ++ d ++ 0#2)
        (s (.imm .addi (p d) 2#5 (0#2 ++ u ++ 0#2)))) ∧
    (∀ (d a : BitVec 3) (u : BitVec 5),
      is (1#3 ++ u.extractLsb' 0 3 ++ a ++ u.extractLsb' 3 2 ++ d ++ 0#2) (.scalarLoad .fld (p d) (p a) (0#4 ++ u ++ 0#3)) ∧
      is (2#3 ++ u.extractLsb' 1 3 ++ a ++ u.extractLsb' 0 1 ++ u.extractLsb' 4 1 ++ d ++ 0#2)
        (.scalarLoad .lw (p d) (p a) (0#5 ++ u ++ 0#2)) ∧
      is (3#3 ++ u.extractLsb' 0 3 ++ a ++ u.extractLsb' 3 2 ++ d ++ 0#2) (.scalarLoad .ld (p d) (p a) (0#4 ++ u ++ 0#3)) ∧
      is (5#3 ++ u.extractLsb' 0 3 ++ a ++ u.extractLsb' 3 2 ++ d ++ 0#2) (.scalarStore .fsd (p a) (p d) (0#4 ++ u ++ 0#3)) ∧
      is (6#3 ++ u.extractLsb' 1 3 ++ a ++ u.extractLsb' 0 1 ++ u.extractLsb' 4 1 ++ d ++ 0#2)
        (.scalarStore .sw (p a) (p d) (0#5 ++ u ++ 0#2)) ∧
      is (7#3 ++ u.extractLsb' 0 3 ++ a ++ u.extractLsb' 3 2 ++ d ++ 0#2) (.scalarStore .sd (p a) (p d) (0#4 ++ u ++ 0#3))) ∧
    (∀ (d : Reg) (i : BitVec 6),
      let w (f3 : BitVec 3) : BitVec 16 := f3 ++ i.extractLsb' 5 1 ++ d ++ i.extractLsb' 0 5 ++ 1#2
      is (w 0#3) (s (.imm .addi d d (i.signExtend 12))) ∧ is (w 2#3) (s (.imm .addi d 0#5 (i.signExtend 12))) ∧
      (if d = 0#5 then no (w 1#3) else is (w 1#3) (s (.imm .addiw d d (i.signExtend 12)))) ∧
      (i = 0#6 → no (w 3#3)) ∧ (i ≠ 0#6 → d ≠ 2#5 → is (w 3#3) (s (.lui d (i.signExtend 20)))) ∧
      is (0#3 ++ i.extractLsb' 5 1 ++ d ++ i.extractLsb' 0 5 ++ 2#2) (s (.sh .slli d d i))) ∧
    (∀ u : BitVec 6, u ≠ 0#6 →
      is (3#3 ++ u.extractLsb' 5 1 ++ 2#5 ++ u.extractLsb' 0 1 ++ u.extractLsb' 2 1 ++ u.extractLsb' 3 2 ++ u.extractLsb' 1 1 ++ 1#2)
        (s (.imm .addi 2#5 2#5 ((u ++ 0#4).signExtend 12)))) ∧
    (∀ (d : BitVec 3) (i : BitVec 6),
      let w (f2 : BitVec 2) : BitVec 16 := 4#3 ++ i.extractLsb' 5 1 ++ f2 ++ d ++ i.extractLsb' 0 5 ++ 1#2
      is (w 0#2) (s (.sh .srli (p d) (p d) i)) ∧ is (w 1#2) (s (.sh .srai (p d) (p d) i)) ∧
      is (w 2#2) (s (.imm .andi (p d) (p d) (i.signExtend 12)))) ∧
    (∀ d b : BitVec 3,
      let w (x : BitVec 1) (f2 : BitVec 2) : BitVec 16 := 4#3 ++ x ++ 3#2 ++ d ++ f2 ++ b ++ 1#2
      is (w 0#1 0#2) (s (.alu .sub (p d) (p d) (p b))) ∧ is (w 0#1 1#2) (s (.alu .xor (p d) (p d) (p b))) ∧
      is (w 0#1 2#2) (s (.alu .or (p d) (p d) (p b))) ∧ is (w 0#1 3#2) (s (.alu .and (p d) (p d) (p b))) ∧
      is (w 1#1 0#2) (s (.alu .subw (p d) (p d) (p b))) ∧ is (w 1#1 1#2) (s (.alu .addw (p d) (p d) (p b))) ∧
      no (w 1#1 2#2) ∧ no (w 1#1 3#2)) ∧
    (∀ o : BitVec 11,
      is (5#3 ++ o.extractLsb' 10 1 ++ o.extractLsb' 3 1 ++ o.extractLsb' 7 2 ++ o.extractLsb' 9 1 ++ o.extractLsb' 5 1 ++
          o.extractLsb' 6 1 ++ o.extractLsb' 0 3 ++ o.extractLsb' 4 1 ++ 1#2)
        (s (.jal 0#5 (o.signExtend 20)))) ∧
    (∀ (a : BitVec 3) (o : BitVec 8),
      let w (f3 : BitVec 3) : BitVec 16 := f3 ++ o.extractLsb' 7 1 ++ o.extractLsb' 2 2 ++ a ++ o.extractLsb' 5 2 ++ o.extractLsb' 0 2 ++
        o.extractLsb' 4 1 ++ 1#2
      is (w 6#3) (s (.branch .beq (p a) 0#5 (o.signExtend 12))) ∧ is (w 7#3) (s (.branch .bne (p a) 0#5 (o.signExtend 12)))) ∧
    (∀ (d : Reg) (u : BitVec 6),
      is (1#3 ++ u.extractLsb' 2 1 ++ d ++ u.extractLsb' 0 2 ++ u.extractLsb' 3 3 ++ 2#2) (.scalarLoad .fld d 2#5 (0#3 ++ u ++ 0#3)) ∧
      (let w : BitVec 16 := 2#3 ++ u.extractLsb' 3 1 ++ d ++ u.extractLsb' 0 3 ++ u.extractLsb' 4 2 ++ 2#2
       if d = 0#5 then no w else is w (.scalarLoad .lw d 2#5 (0#4 ++ u ++ 0#2))) ∧
      (let w : BitVec 16 := 3#3 ++ u.extractLsb' 2 1 ++ d ++ u.extractLsb' 0 2 ++ u.extractLsb' 3 3 ++ 2#2
       if d = 0#5 then no w else is w (.scalarLoad .ld d 2#5 (0#3 ++ u ++ 0#3))) ∧
      is (5#3 ++ u.extractLsb' 0 3 ++ u.extractLsb' 3 3 ++ d ++ 2#2) (.scalarStore .fsd 2#5 d (0#3 ++ u ++ 0#3)) ∧
      is (6#3 ++ u.extractLsb' 0 4 ++ u.extractLsb' 4 2 ++ d ++ 2#2) (.scalarStore .sw 2#5 d (0#4 ++ u ++ 0#2)) ∧
      is (7#3 ++ u.extractLsb' 0 3 ++ u.extractLsb' 3 3 ++ d ++ 2#2) (.scalarStore .sd 2#5 d (0#3 ++ u ++ 0#3))) ∧
    (∀ d b : Reg,
      let w (x : BitVec 1) : BitVec 16 := 4#3 ++ x ++ d ++ b ++ 2#2
      (b ≠ 0#5 → is (w 0#1) (s (.alu .add d 0#5 b)) ∧ is (w 1#1) (s (.alu .add d d b))) ∧
      (b = 0#5 → d ≠ 0#5 → is (w 0#1) (s (.jalr 0#5 d 0#12)) ∧ is (w 1#1) (s (.jalr 1#5 d 0#12))) ∧
      (b = 0#5 → d = 0#5 → no (w 0#1) ∧ is (w 1#1) (s .ebreak))) ∧
    (∀ u : BitVec 11, no (4#3 ++ u ++ 0#2)) ∧ no 0#16

/-- R76, R195: an issue turn whose bytes decode to nothing raises illegal instruction, cause 2, with the instruction's
bits as trap value, as R76 has it for the part's own encodings and the model, of the choices that the standard leaves,
for every other undecodable word, 16-bit ones too (PRESUMED, log entry 13); a fetch that traps raises its own trap. -/
def Obligations.IllegalEncodingTraps : Prop :=
  (∀ (s : State) (h : Hart) (bs : List Byte) (u : State) (e : Reject),
    s.canIssue h = true → (s.slot h).wait = none → fetchBytes { s with cur := h } = .ok bs u → u.Runs → decode bs = .error e →
    act (.issue h) s = .next ({ u with ibits := bitsOf bs, ilen := bs.length }.trapped 2 ((bitsOf bs).setWidth 64))) ∧
  (∀ (s : State) (h : Hart) (c : Nat) (v : Word) (u : State),
    s.canIssue h = true → (s.slot h).wait = none → fetchBytes { s with cur := h } = .error (.trap c v) u → u.Runs →
    act (.issue h) s = .next (u.trapped c v)) ∧
  (∀ (s : State) (h : Hart) (rest : List Turn), s.agenda = .issue h :: rest → s.imposing = false →
    step s = act (.issue h) { s with agenda := rest })

/-- The memory of every state keeps the canonical form: every step that starts from it ends in it. -/
def Obligations.MemoryCanonicalKept : Prop := ∀ s t : State, s.Inv → step s = .next t → t.Inv

/-- The memory after package reset has the canonical form. R6, R316, R480, R490, R456, R475: what package reset
leaves: no owner, an empty error log, every queue Disabled with RD and WR 0, every link Down, no work of any kind, no
context in any slot, and srank of core rank r of cluster k with ROFF 0x300 + 4 r and RVAULT k. -/
def Obligations.ResetState : Prop :=
  (State.reset.Inv) ∧
  (State.reset.owner = 15 ∧ State.reset.epoch = 0 ∧ State.reset.errs = [] ∧ State.reset.eseq = 0 ∧
   (∀ q, State.reset.queues.get {} q = {}) ∧ ({} : Queue).st = 0 ∧ ({} : Queue).rd = 0 ∧ ({} : Queue).wr = 0 ∧
   (∀ l, (State.reset.links.get {} l).st = .down) ∧ State.reset.cmds = [] ∧ State.reset.agents = [] ∧
   (∀ k, (State.reset.work.get {} k).st = .free) ∧ (∀ h, (State.reset.slot h).ctx = none) ∧
   (∀ k r, k < 40 → r < 64 → (State.reset.core (64 * k + r)).roff = 0x300 + 4 * r ∧ (State.reset.core (64 * k + r)).rvault = k))

/-- R191, R207, R67 and the standard's status layout (log entry 13): what taking a trap or interrupt leaves. The
handler's mode is S where the cause is delegated and the thread was below M, else M. That mode's saved pc, cause and
trap value are written, its interrupt enable is saved and cleared, the previous mode is saved, the pc goes to its
vector; the thread's reservation is lost, its sequencer keeps its entries and is frozen with the mode it ran in; the
x, f and v registers and memory keep their values, and the other mode's saved registers keep theirs. R207, R67: a
cause is delegated exactly when the thread runs below M-mode and its bit of medeleg, or of mideleg for an interrupt,
is 1; so the consumption of poison, cause 19, goes to S-mode from U-mode and S-mode where medeleg bit 19 is 1. -/
def Obligations.TrapEntryAndDelegation : Prop :=
  (∀ (s : State) (h : Hart) (c : Ctx) (intr : Bool) (cause : Nat) (tval : Word), (s.slot h).ctx = some c →
     let t := s.takeTrap h intr cause tval
     let d := (s.slot h).delegates c.priv intr cause
     (∀ a, t.mem.read a = s.mem.read a) ∧ (∀ j, j ≠ h → t.slot j = s.slot j) ∧ (∀ g, t.core g = s.core g) ∧
     (t.ctx h).x = c.x ∧ (t.ctx h).f = c.f ∧ (t.ctx h).v = c.v ∧ (t.ctx h).resv = none ∧ (t.ctx h).seq = c.seq ∧
     (t.ctx h).frozen = (if c.seq = [] then c.frozen else some (c.frozen.getD c.priv)) ∧
     (d = true →
       (t.ctx h).priv = .s ∧ (t.ctx h).sepc = c.pc ∧ (t.ctx h).scause = causeWord intr cause ∧ (t.ctx h).stval = tval ∧
       (t.ctx h).pc = vectorPc (s.slot h).stvec intr cause ∧ (t.ctx h).sstatus =
         wputb (wputb (wputb c.sstatus 5 (wbit c.sstatus 1)) 1 false) 8 (c.priv == .s) ∧
       (t.slot h).mepc = (s.slot h).mepc ∧ (t.slot h).mcause = (s.slot h).mcause ∧ (t.slot h).mtval = (s.slot h).mtval ∧
       (t.slot h).mstatus = (s.slot h).mstatus) ∧
     (d = false →
       (t.ctx h).priv = .m ∧ (t.slot h).mepc = c.pc ∧ (t.slot h).mcause = causeWord intr cause ∧ (t.slot h).mtval = tval ∧
       (t.ctx h).pc = vectorPc (s.slot h).mtvec intr cause ∧ (t.slot h).mstatus =
         wput (wputb (wputb (s.slot h).mstatus 7 (wbit (s.slot h).mstatus 3)) 3 false) 12 11 c.priv.code ∧
       (t.ctx h).sepc = c.sepc ∧ (t.ctx h).scause = c.scause ∧ (t.ctx h).stval = c.stval ∧ (t.ctx h).sstatus = c.sstatus)) ∧
  ((∀ (t : Slot) (cause : Nat), t.delegates .m false cause = false ∧ t.delegates .m true cause = false) ∧
   (∀ (t : Slot) (p : Priv) (cause : Nat), p ≠ .m →
     t.delegates p false cause = t.medeleg.getLsbD cause ∧ t.delegates p true cause = t.mideleg.getLsbD cause) ∧
   (∀ t : Slot, t.medeleg.getLsbD 19 = true → t.delegates .u false 19 = true ∧ t.delegates .s false 19 = true) ∧
   (∀ h, (State.reset.slot h).delegates .u false 19 = false))

/-- R207, R191, R195: an interrupt that is pending and enabled is taken by a slot that is neither halted nor in a wait
that lets none in, with ktval as trap value for cause 31 and 0 otherwise; that the slot issues no instruction before
it is the model's reading (DEDUCED, log entry 33). An interrupt line raised sets its bit of mip; that bit 31 is no
line, since mip bit 31 is read-only, is the model's choice (PRESUMED, log entry 13). -/
def Obligations.InterruptTaken : Prop :=
  (∀ (s : State) (h : Hart) (c : Ctx) (i : Nat), (s.slot h).ctx = some c → (s.slot h).halted = false →
    (s.slot h).noIrq = false → (s.slot h).irq c = some i →
    exec (.trapOrInterrupt (.interrupt h)) s =
      .next (s.takeTrap h true i (if i = 31 then (s.slot h).ktval else 0#64)) ∧ s.canIssue h = false) ∧
  (∀ (s : State) (h : Hart) (b : Nat), mieMask.getLsbD b = true → b ≠ 31 →
    exec (.trapOrInterrupt (.raise h b)) s =
      .next (s.setSlot h { s.slot h with mip := wputb (s.slot h).mip b true })) ∧
  (∀ (s : State) (h : Hart), exec (.trapOrInterrupt (.raise h 31)) s = .next s)

/-- R65 and the standard: ecall raises cause 8, 9 or 11 by mode, ebreak raises cause 3, and an encoding with no
meaning raises cause 2. That the trap value is the pc for ebreak and the word's bits for one with no meaning is the
model's choice where the standard leaves one (PRESUMED, log entry 13). R194, R161 and the standard: sret, from S-mode
or M-mode and not with TSR in S-mode, returns to sepc in the mode SPP with SIE taken from SPIE; mret, from M-mode,
returns to mepc in the mode MPP with MIE taken from MPIE. A frozen sequencer runs again where the new mode is the
recorded one or lower. Elsewhere both raise illegal instruction. -/
def Obligations.SoftwareTrapsAndReturns : Prop :=
  (∀ s : State, s.Runs →
     exec (.standardScalarInstruction .ecall) s =
       .next (s.trapped (match (s.ctx s.cur).priv with | .u => 8 | .s => 9 | .m => 11) 0#64) ∧
     exec (.standardScalarInstruction .ebreak) s = .next (s.trapped 3 (s.ctx s.cur).pc) ∧
     ∀ w : IWord, exec (.trapOrInterrupt (.illegal w)) s = .next (s.trapped 2 (w.setWidth 64))) ∧
  ((∀ s : State, s.Runs → (s.ctx s.cur).priv ≠ .u → ((s.ctx s.cur).priv = .s → (s.slot s.cur).mstatus.getLsbD 22 = false) →
     ∃ t, exec (.xret .sret) s = .next t ∧ (t.ctx s.cur).pc = (s.ctx s.cur).sepc ∧
       (t.ctx s.cur).priv = (if (s.ctx s.cur).sstatus.getLsbD 8 then .s else .u) ∧
       (t.ctx s.cur).sstatus = wputb (wputb (wputb (s.ctx s.cur).sstatus 1 ((s.ctx s.cur).sstatus.getLsbD 5)) 5 true) 8 false ∧
       (t.ctx s.cur).x = (s.ctx s.cur).x ∧ (∀ a, t.mem.read a = s.mem.read a) ∧
       (∀ p, (s.ctx s.cur).frozen = some p →
         (t.ctx s.cur).frozen = (if (t.ctx s.cur).priv.le p then none else some p))) ∧
   (∀ s : State, s.Runs → (s.ctx s.cur).priv = .m →
     ∃ t, exec (.xret .mret) s = .next t ∧ (t.ctx s.cur).pc = (s.slot s.cur).mepc ∧
       (t.ctx s.cur).priv = Priv.ofCode (wfld (s.slot s.cur).mstatus 12 11) ∧
       (t.slot s.cur).mstatus.getLsbD 3 = (s.slot s.cur).mstatus.getLsbD 7 ∧
       (t.ctx s.cur).x = (s.ctx s.cur).x ∧ (∀ a, t.mem.read a = s.mem.read a)) ∧
   (∀ s : State, s.Runs → (s.ctx s.cur).priv = .u →
     exec (.xret .sret) s = .next (s.trapped 2 (s.ibits.setWidth 64)) ∧
     exec (.xret .mret) s = .next (s.trapped 2 (s.ibits.setWidth 64))))

/-- R65, R7 and the standard (log entry 13): an integer instruction writes its result to rd and nothing else; a write
to x0 is discarded. Sums, differences and products are modulo 2^64, mulh, mulhsu and mulhu give the high half of the
product; shift amounts use their low six bits, sra rounds towards minus infinity; a quotient is rounded towards zero
and a remainder has the dividend's sign, a division by zero gives all ones and its remainder the dividend, and the
overflow of a signed division gives the dividend and remainder 0. Zba adds a shifted operand, Zbb counts, extends,
rotates and takes extremes, Zbs sets, clears, inverts and extracts the bit that the low six bits name, Zicond clears
on a condition. The 32-bit forms act on the low words, their shift amounts are five bits, and their result is
sign-extended; an immediate form is the register form with its sign-extended immediate or its shift amount. -/
def Obligations.IntegerResults : Prop :=
  (∀ (s : State), s.Runs → ∀ (d : Reg),
    (∀ imm, ∃ t, exec (.standardScalarInstruction (.lui d imm)) s = .next t ∧
      Retired s t (·.setX d.toNat ((imm ++ 0#12).signExtend 64)) s.nextPc) ∧
    (∀ imm, ∃ t, exec (.standardScalarInstruction (.auipc d imm)) s = .next t ∧
      Retired s t (·.setX d.toNat ((s.ctx s.cur).pc + (imm ++ 0#12).signExtend 64)) s.nextPc) ∧
    (∀ k a imm, ∃ t, exec (.standardScalarInstruction (.imm k d a imm)) s = .next t ∧
      Retired s t (·.setX d.toNat (immFn k (s.xr a) imm)) s.nextPc) ∧
    (∀ k a amt, ∃ t, exec (.standardScalarInstruction (.sh k d a amt)) s = .next t ∧
      Retired s t (·.setX d.toNat (shFn k (s.xr a) amt)) s.nextPc) ∧
    (∀ k a b, ∃ t, exec (.standardScalarInstruction (.alu k d a b)) s = .next t ∧
      Retired s t (·.setX d.toNat (aluFn k (s.xr a) (s.xr b))) s.nextPc) ∧
    (∀ k a, ∃ t, exec (.standardScalarInstruction (.un k d a)) s = .next t ∧
      Retired s t (·.setX d.toNat (unFn k (s.xr a))) s.nextPc)) ∧
  -- the base operations and products
  (∀ a b : Word,
    aluFn .add a b = a + b ∧ aluFn .sub a b = a - b ∧ aluFn .mul a b = a * b ∧ aluFn .xor a b = a ^^^ b ∧
    aluFn .or a b = a ||| b ∧ aluFn .and a b = a &&& b ∧
    aluFn .sll a b = a <<< (b.toNat % 64) ∧ aluFn .srl a b = a >>> (b.toNat % 64) ∧
    (aluFn .sra a b).toInt = a.toInt / 2 ^ (b.toNat % 64) ∧
    aluFn .sltu a b = (if a < b then 1#64 else 0#64) ∧ aluFn .slt a b = (if a.toInt < b.toInt then 1#64 else 0#64) ∧
    aluFn .mulh a b = BitVec.ofInt 64 (a.toInt * b.toInt / 2 ^ 64) ∧
    aluFn .mulhsu a b = BitVec.ofInt 64 (a.toInt * b.toNat / 2 ^ 64) ∧
    (aluFn .mulhu a b).toNat = a.toNat * b.toNat / 2 ^ 64) ∧
  -- division
  (∀ a b : Word, b ≠ 0#64 →
    (aluFn .divu a b).toNat = a.toNat / b.toNat ∧ (aluFn .remu a b).toNat = a.toNat % b.toNat ∧
    (a ≠ 0x8000000000000000#64 ∨ b ≠ 0xFFFFFFFFFFFFFFFF#64 → (aluFn .div a b).toInt = a.toInt.tdiv b.toInt) ∧
    (aluFn .rem a b).toInt = a.toInt.tmod b.toInt) ∧
  (∀ a : Word,
    aluFn .divu a 0#64 = 0xFFFFFFFFFFFFFFFF#64 ∧ aluFn .remu a 0#64 = a ∧ aluFn .div a 0#64 = 0xFFFFFFFFFFFFFFFF#64 ∧
    aluFn .rem a 0#64 = a) ∧
  aluFn .div 0x8000000000000000#64 0xFFFFFFFFFFFFFFFF#64 = 0x8000000000000000#64 ∧
  aluFn .rem 0x8000000000000000#64 0xFFFFFFFFFFFFFFFF#64 = 0#64 ∧
  -- Zba
  (∀ a b : Word,
    aluFn .sh1add a b = a * 2#64 + b ∧ aluFn .sh2add a b = a * 4#64 + b ∧ aluFn .sh3add a b = a * 8#64 + b ∧
    (aluFn .addUw a b).toNat = (a.toNat % 2 ^ 32 + b.toNat) % 2 ^ 64 ∧
    (aluFn .sh1addUw a b).toNat = (a.toNat % 2 ^ 32 * 2 + b.toNat) % 2 ^ 64 ∧
    (aluFn .sh2addUw a b).toNat = (a.toNat % 2 ^ 32 * 4 + b.toNat) % 2 ^ 64 ∧
    (aluFn .sh3addUw a b).toNat = (a.toNat % 2 ^ 32 * 8 + b.toNat) % 2 ^ 64) ∧
  -- Zbb, Zbs, Zicond
  (∀ (a b : Word) (i : Nat), i < 64 →
    (aluFn .andn a b).getLsbD i = (a.getLsbD i && !b.getLsbD i) ∧ (aluFn .orn a b).getLsbD i = (a.getLsbD i || !b.getLsbD i) ∧
    (aluFn .xnor a b).getLsbD i = (a.getLsbD i == b.getLsbD i) ∧
    (aluFn .rol a b).getLsbD i = a.getLsbD ((i + (64 - b.toNat % 64)) % 64) ∧
    (aluFn .ror a b).getLsbD i = a.getLsbD ((i + b.toNat) % 64) ∧
    (aluFn .bset a b).getLsbD i = (a.getLsbD i || i == b.toNat % 64) ∧
    (aluFn .bclr a b).getLsbD i = (a.getLsbD i && i != b.toNat % 64) ∧
    (aluFn .binv a b).getLsbD i = (a.getLsbD i != (i == b.toNat % 64))) ∧
  (∀ a b : Word,
    (aluFn .max a b).toInt = max a.toInt b.toInt ∧ (aluFn .min a b).toInt = min a.toInt b.toInt ∧
    (aluFn .maxu a b).toNat = max a.toNat b.toNat ∧ (aluFn .minu a b).toNat = min a.toNat b.toNat ∧
    aluFn .bext a b = (if a.getLsbD (b.toNat % 64) then 1#64 else 0#64) ∧
    aluFn .czeroEqz a b = (if b = 0#64 then 0#64 else a) ∧ aluFn .czeroNez a b = (if b = 0#64 then a else 0#64)) ∧
  (∀ a : Word,
    (a = 0#64 → unFn .clz a = 64#64 ∧ unFn .ctz a = 64#64) ∧
    (a ≠ 0#64 → a.toNat / 2 ^ (63 - (unFn .clz a).toNat) = 1 ∧ (unFn .clz a).toNat < 64 ∧
      a.getLsbD (unFn .ctz a).toNat = true ∧ ∀ j, j < (unFn .ctz a).toNat → a.getLsbD j = false) ∧
    (unFn .cpop a).toNat = ((List.range 64).filter (fun i => a.getLsbD i)).length ∧
    (unFn .sextb a).toInt = (a.toNat : Int).bmod 256 ∧ (unFn .sexth a).toInt = (a.toNat : Int).bmod 65536 ∧
    (unFn .zexth a).toNat = a.toNat % 65536 ∧
    (∀ i, i < 8 → lane 8 i (unFn .orcb a) = (if lane 8 i a = 0 then 0 else 255) ∧ lane 8 i (unFn .rev8 a) = lane 8 (7 - i) a) ∧
    (a.toNat % 2 ^ 32 = 0 → unFn .clzw a = 32#64 ∧ unFn .ctzw a = 32#64) ∧
    (a.toNat % 2 ^ 32 ≠ 0 → a.toNat % 2 ^ 32 / 2 ^ (31 - (unFn .clzw a).toNat) = 1 ∧ (unFn .clzw a).toNat < 32 ∧
      a.getLsbD (unFn .ctzw a).toNat = true ∧ ∀ j, j < (unFn .ctzw a).toNat → a.getLsbD j = false) ∧
    (unFn .cpopw a).toNat = ((List.range 32).filter (fun i => a.getLsbD i)).length) ∧
  -- the 32-bit forms
  (∀ a b : Word,
    let lo (v : Word) : Int := (v.toNat : Int).bmod (2 ^ 32)
    let n := b.toNat % 32
    (aluFn .addw a b).toInt = (lo a + lo b).bmod (2 ^ 32) ∧ (aluFn .subw a b).toInt = (lo a - lo b).bmod (2 ^ 32) ∧
    (aluFn .mulw a b).toInt = (lo a * lo b).bmod (2 ^ 32) ∧
    (aluFn .sllw a b).toInt = ((a.toNat * 2 ^ n : Nat) : Int).bmod (2 ^ 32) ∧
    (aluFn .srlw a b).toInt = ((a.toNat % 2 ^ 32 / 2 ^ n : Nat) : Int).bmod (2 ^ 32) ∧
    (aluFn .sraw a b).toInt = lo a / 2 ^ n ∧
    (lo b ≠ 0 → (aluFn .divw a b).toInt = ((lo a).tdiv (lo b)).bmod (2 ^ 32) ∧ (aluFn .remw a b).toInt = (lo a).tmod (lo b) ∧
      (aluFn .divuw a b).toInt = ((a.toNat % 2 ^ 32 / (b.toNat % 2 ^ 32) : Nat) : Int).bmod (2 ^ 32) ∧
      (aluFn .remuw a b).toInt = ((a.toNat % 2 ^ 32 % (b.toNat % 2 ^ 32) : Nat) : Int).bmod (2 ^ 32)) ∧
    (lo b = 0 → (aluFn .divw a b).toInt = -1 ∧ (aluFn .remw a b).toInt = lo a ∧ (aluFn .divuw a b).toInt = -1 ∧
      (aluFn .remuw a b).toInt = lo a) ∧
    (∀ i, i < 64 → (aluFn .rolw a b).getLsbD i = a.getLsbD ((min i 31 + (32 - n)) % 32) ∧
      (aluFn .rorw a b).getLsbD i = a.getLsbD ((min i 31 + n) % 32))) ∧
  -- the immediate forms
  (∀ (a : Word) (i : BitVec 12), let b := i.signExtend 64
    immFn .addi a i = aluFn .add a b ∧ immFn .slti a i = aluFn .slt a b ∧ immFn .sltiu a i = aluFn .sltu a b ∧
    immFn .xori a i = aluFn .xor a b ∧ immFn .ori a i = aluFn .or a b ∧ immFn .andi a i = aluFn .and a b ∧
    immFn .addiw a i = aluFn .addw a b) ∧
  (∀ (a : Word) (n : BitVec 6), let b := n.setWidth 64
    shFn .slli a n = aluFn .sll a b ∧ shFn .srli a n = aluFn .srl a b ∧ shFn .srai a n = aluFn .sra a b ∧
    shFn .rori a n = aluFn .ror a b ∧ shFn .bseti a n = aluFn .bset a b ∧ shFn .bclri a n = aluFn .bclr a b ∧
    shFn .binvi a n = aluFn .binv a b ∧ shFn .bexti a n = aluFn .bext a b ∧
    (shFn .slliUw a n).toNat = a.toNat % 2 ^ 32 * 2 ^ n.toNat % 2 ^ 64 ∧
    shFn .slliw a n = aluFn .sllw a b ∧ shFn .srliw a n = aluFn .srlw a b ∧ shFn .sraiw a n = aluFn .sraw a b ∧
    shFn .roriw a n = aluFn .rorw a b)

/-- R65 and the standard: a branch goes to its target exactly when its condition holds, and to the next instruction
otherwise; jal and jalr write the address of the next instruction to rd and go to their target, with bit 0 of a jalr
target clear. wfi is allowed in M-mode, and below it where TW is 0; it is illegal below M-mode with TW 1. That it then
goes on at once, and waits for nothing, is the model's choice where the standard leaves one (PRESUMED, log entry 13).
-/
def Obligations.ControlFlow : Prop :=
  ∀ (s : State), s.Runs →
    (∀ k a b off, ∃ t, exec (.standardScalarInstruction (.branch k a b off)) s = .next t ∧
      Retired s t id (if brFn k (s.xr a) (s.xr b) then (s.ctx s.cur).pc + off.signExtend 64 <<< 1 else s.nextPc)) ∧
    (∀ d off, ∃ t, exec (.standardScalarInstruction (.jal d off)) s = .next t ∧
      Retired s t (·.setX d.toNat s.nextPc) ((s.ctx s.cur).pc + off.signExtend 64 <<< 1)) ∧
    (∀ d a imm, ∃ t, exec (.standardScalarInstruction (.jalr d a imm)) s = .next t ∧
      Retired s t (·.setX d.toNat s.nextPc) (wputb (s.xr a + imm.signExtend 64) 0 false)) ∧
    ((s.ctx s.cur).priv = .m ∨ (s.slot s.cur).mstatus.getLsbD 21 = false →
      ∃ t, exec (.standardScalarInstruction .wfi) s = .next t ∧ Retired s t id s.nextPc) ∧
    ((s.ctx s.cur).priv ≠ .m → (s.slot s.cur).mstatus.getLsbD 21 = true →
      exec (.standardScalarInstruction .wfi) s = .next (s.trapped 2 (s.ibits.setWidth 64))) ∧
    (∀ a b : Word, brFn .beq a b = (a == b) ∧ brFn .bltu a b = decide (a < b) ∧ brFn .blt a b = decide (a.toInt < b.toInt) ∧
      brFn .bne a b = !brFn .beq a b ∧ brFn .bgeu a b = !brFn .bltu a b ∧ brFn .bge a b = !brFn .blt a b)

/-- R43 to R45, R73 and the standard (log entry 13): with FS not Off and a rounding mode that is not reserved, static
or through rm 7 the one of frm, an arithmetic instruction of F, D or Zfh writes its boxed result to f[rd], makes FS
Dirty and accrues its flags: sum, difference, product, quotient, square root, and the fused multiply-adds with one
rounding, whose product or addend is negated by kind; so does a conversion to a format. Sign injection copies, inverts
or combines the sign bit and raises nothing; minimum and maximum choose an operand, a NaN losing against a number. A
comparison, a classification, a conversion to an integer and a move write x[rd], a 32-bit integer sign-extended, and a
move looks at no box. A reserved rounding mode is illegal instruction, and with FS Off every one of them is. -/
def Obligations.FloatResults : Prop :=
  (∀ (s : State) (rm : BitVec 3) (fmt : FpFmt) (d a : Reg), s.Runs → (s.ctx s.cur).fs ≠ 0 →
    let r := if rm = 7#3 then wfld (s.ctx s.cur).fcsr 7 5 else rm.toNat
    let v (fmt : FpFmt) (x : Reg) : Nat := unbox fmt ((s.ctx s.cur).getF x.toNat)
    let b := binOf fmt
    let writes (i : ScalarOp) (fmt : FpFmt) (z : Nat × FFlags) : Prop :=
      (r ≤ 4 → ∃ t, exec (.standardScalarInstruction i) s = .next t ∧
        Retired s t (fun c => (c.setF d.toNat (boxF fmt z.1)).accrue z.2) s.nextPc) ∧
      (4 < r → exec (.standardScalarInstruction i) s = .next (s.trapped 2 (s.ibits.setWidth 64)))
    (∀ k y, writes (.fp2 k fmt rm d a y) fmt (match k with
      | .add => b.add r (v fmt a) (v fmt y)
      | .sub => b.sub r (v fmt a) (v fmt y)
      | .mul => b.mul r (v fmt a) (v fmt y)
      | .div => b.div r (v fmt a) (v fmt y))) ∧
    writes (.fsqrt fmt rm d a) fmt (b.sqrt r (v fmt a)) ∧
    (∀ k y z, writes (.fma k fmt rm d a y z) fmt
      (let p := b.val (v fmt a)
       let q := b.val (v fmt y)
       let u := b.val (v fmt z)
       match k with
       | .madd => b.fma r p q u
       | .msub => b.fma r p q u.neg
       | .nmsub => b.fma r p.neg q u
       | .nmadd => b.fma r p.neg q u.neg)) ∧
    (∀ src, writes (.fcvtFF fmt src rm d a) fmt (b.conv (binOf src) r (v src a))) ∧
    (∀ t : IntFmt, writes (.fcvtFI fmt t rm d a) fmt (b.ofInt r (match t with
      | .w => ((s.xr a).setWidth 32).toInt
      | .wu => ((s.xr a).toNat % 2 ^ 32 : Nat)
      | .l => (s.xr a).toInt
      | .lu => ((s.xr a).toNat : Nat)))) ∧
    (∀ t : IntFmt, let z := (b.val (v fmt a)).toIntSat r (t = .w ∨ t = .l) (if t = .w ∨ t = .wu then 32 else 64)
      (r ≤ 4 → ∃ u, exec (.standardScalarInstruction (.fcvtIF t fmt rm d a)) s = .next u ∧
        Retired s u (fun c => (c.setX d.toNat
          (if t = .w ∨ t = .wu then (BitVec.ofNat 32 z.1).signExtend 64 else w64 z.1)).accrue z.2) s.nextPc) ∧
      (4 < r → exec (.standardScalarInstruction (.fcvtIF t fmt rm d a)) s = .next (s.trapped 2 (s.ibits.setWidth 64))))) ∧
  (∀ (s : State) (fmt : FpFmt) (d a y : Reg), s.Runs → (s.ctx s.cur).fs ≠ 0 →
    let v (x : Reg) : Nat := unbox fmt ((s.ctx s.cur).getF x.toNat)
    let b := binOf fmt
    (∀ k : FpCmp, let z := b.cmp k (v a) (v y)
      ∃ t, exec (.standardScalarInstruction (.fcmp k fmt d a y)) s = .next t ∧
        Retired s t (fun c => (c.setX d.toNat (if z.1 then 1#64 else 0#64)).accrue z.2) s.nextPc) ∧
    (∀ k : FpOp2n, let z : Nat × FFlags := (match k with
        | .min => b.minmax false (v a) (v y)
        | .max => b.minmax true (v a) (v y)
        | .sgnj => (v a % 2 ^ (fmtWidth fmt - 1) + (if (v y).testBit (fmtWidth fmt - 1) then 2 ^ (fmtWidth fmt - 1) else 0), {})
        | .sgnjn => (v a % 2 ^ (fmtWidth fmt - 1) + (if (v y).testBit (fmtWidth fmt - 1) then 0 else 2 ^ (fmtWidth fmt - 1)), {})
        | .sgnjx => (v a % 2 ^ (fmtWidth fmt - 1) +
            (if (v y).testBit (fmtWidth fmt - 1) ≠ (v a).testBit (fmtWidth fmt - 1) then 2 ^ (fmtWidth fmt - 1) else 0), {}))
      ∃ t, exec (.standardScalarInstruction (.fp2n k fmt d a y)) s = .next t ∧
        Retired s t (fun c => (c.setF d.toNat (boxF fmt z.1)).accrue z.2) s.nextPc) ∧
    (∃ t, exec (.standardScalarInstruction (.fclass fmt d a)) s = .next t ∧
      Retired s t (·.setX d.toNat (w64 (b.cls (v a)))) s.nextPc) ∧
    (∃ t, exec (.standardScalarInstruction (.fmvFX fmt d a)) s = .next t ∧
      Retired s t (·.setF d.toNat (boxF fmt (s.xr a).toNat)) s.nextPc) ∧
    (∃ t, exec (.standardScalarInstruction (.fmvXF fmt d a)) s = .next t ∧
      Retired s t (·.setX d.toNat (sextW ((s.ctx s.cur).getF a.toNat).toNat (fmtWidth fmt))) s.nextPc)) ∧
  (∀ (f : BinFmt) (x y : Nat), f ∈ [binary16, binary32, binary64] → ∀ m : Bool,
    ((f.val x).isNan = true → (f.val y).isNan = false → (f.minmax m x y).1 = y) ∧
    ((f.val x).isNan = false → (f.val y).isNan = true → (f.minmax m x y).1 = x) ∧
    ((f.val x).isNan = true → (f.val y).isNan = true → (f.minmax m x y).1 = f.nan) ∧
    ((f.val x).lt (f.val y) = true → (f.minmax m x y).1 = if m then y else x)) ∧
  (∀ (s : State) (rm : BitVec 3) (fmt : FpFmt) (d a y z : Reg), s.Runs → (s.ctx s.cur).fs = 0 → ∀ i : ScalarOp,
    (∃ k, i = .fp2 k fmt rm d a y) ∨ (∃ k, i = .fp2n k fmt d a y) ∨ (∃ k, i = .fcmp k fmt d a y) ∨ i = .fsqrt fmt rm d a ∨
    (∃ k, i = .fma k fmt rm d a y z) ∨ i = .fclass fmt d a ∨ i = .fmvXF fmt d a ∨ i = .fmvFX fmt d a ∨
    (∃ t, i = .fcvtIF t fmt rm d a) ∨ (∃ t, i = .fcvtFI fmt t rm d a) ∨ (∃ src, i = .fcvtFF fmt src rm d a) →
    exec (.standardScalarInstruction i) s = .next (s.trapped 2 (s.ibits.setWidth 64)))

/-- R57, R67, R190, R524 and the standard: with VS not Off, vsetivli, vsetvli and vsetvl set vtype and vl and write vl
to rd, or set vill and vl = 0 for an unsupported type; VLMAX is 512 LMUL / SEW. They ask for the immediate, for
x[rs1], with rs1 = x0 and another rd for VLMAX, and with both x0 for the present vl, which stays where VLMAX does and
else sets vill. That vl is the lesser of what is asked for and VLMAX, where the standard leaves a range, and that vill
follows a VLMAX which does not stay, are the model's choices (PRESUMED, log entry 13). They enter no sequencer entry:
vstart goes to 0 where nothing is queued, a queued fault-only-first load makes them wait, and they are illegal with VS
Off or over a frozen sequencer with entries. -/
def Obligations.VectorLength : Prop :=
  (∀ (s : State) (d : Reg) (i : ScalarOp) (vt : Word) (avl : Option Nat), s.Runs →
    let c := s.ctx s.cur
    let asks (a : Reg) : Option Nat := if a ≠ 0#5 then some (s.xr a).toNat else if d ≠ 0#5 then some 512 else none
    ((∃ u imm, i = .vsetivli d u imm ∧ vt = imm.setWidth 64 ∧ avl = some u.toNat) ∨
     (∃ a imm, i = .vsetvli d a imm ∧ vt = imm.setWidth 64 ∧ avl = asks a) ∨
     (∃ a b, i = .vsetvl d a b ∧ vt = s.xr b ∧ avl = asks a)) →
    (c.vs ≠ 0 → c.frozen = none ∨ c.seq = [] → c.seq.any (fun e => isFof e.bits) = false →
      ∃ t, exec (.standardScalarInstruction i) s = .next t ∧
        ((t.ctx s.cur).vl, (t.ctx s.cur).vtype) =
          (match vlmaxOf vt, avl with
           | none, _ => (0, 0x8000000000000000#64)
           | some m, some n => (min n m, vt)
           | some m, none => if vlmaxOf c.vtype = some m then (c.vl, vt) else (0, 0x8000000000000000#64)) ∧
        (t.ctx s.cur).getX d.toNat = (if d = 0#5 then 0#64 else w64 (t.ctx s.cur).vl) ∧
        (∀ r, r ≠ d → t.xr r = s.xr r) ∧ (t.ctx s.cur).f = c.f ∧ (t.ctx s.cur).v = c.v ∧ (t.ctx s.cur).seq = c.seq ∧
        (t.ctx s.cur).vstart = (if c.seq = [] then 0#64 else c.vstart) ∧ (t.ctx s.cur).pc = s.nextPc ∧
        ∀ p, t.mem.read p = s.mem.read p) ∧
    (c.vs = 0 ∨ (c.frozen ≠ none ∧ c.seq ≠ []) →
      exec (.standardScalarInstruction i) s = .next (s.trapped 2 (s.ibits.setWidth 64))) ∧
    (c.vs ≠ 0 → c.frozen = none → c.seq.any (fun e => isFof e.bits) = true →
      exec (.standardScalarInstruction i) s = .next s.waited)) ∧
  (∀ sew lmul : Nat, sew < 4 → lmul < 4 →
    vlmaxOf (w64 (8 * sew + lmul)) = some (512 * 2 ^ lmul / (8 * 2 ^ sew))) ∧
  (∀ sew k : Nat, sew < 4 → 0 < k → k < 4 →
    vlmaxOf (w64 (8 * sew + 8 - k)) = if 8 * 2 ^ sew * 2 ^ k ≤ 64 then some (512 / 2 ^ k / (8 * 2 ^ sew)) else none) ∧
  (∀ sew : Nat, sew < 4 → vlmaxOf (w64 (8 * sew + 4)) = none) ∧ vlmaxOf 0x20#64 = none ∧
  (∀ vbs : Nat, vbs < 5 → vlmaxOf (w64 (256 * vbs)) = some 64) ∧ vlmaxOf 0x500#64 = none ∧ vlmaxOf 0x800#64 = none

/-- R65, R80 and the standard: a CSR instruction that its privilege, its unit and its wait allow reads the old value
into rd and writes the new one; one whose register asks for a higher mode, or that writes a read-only register, raises
illegal instruction; of the read-only registers the identification ones ignore a write in M-mode, as R66 says against
the general word of R80 (the model's reading, DEDUCED, log entry 43). -/
def Obligations.CsrAccess : Prop :=
  (∀ (s : State) (im : Bool) (op : CsrOp) (d : Reg) (n : BitVec 12), s.Runs →
    csrCheck n.toNat false s.begun = .ok () s.begun → csrWait n.toNat s.begun = .ok () s.begun →
    ∃ t, exec (.standardScalarInstruction (.csrRead op im d n)) s = .next t ∧
      Retired s t (·.setX d.toNat (csrValue s s.cur n.toNat)) s.nextPc) ∧
  (∀ (s : State) (im : Bool) (op : CsrOp) (d a : Reg) (n : BitVec 12), s.Runs →
    csrCheck n.toNat true s.begun = .ok () s.begun → csrWait n.toNat s.begun = .ok () s.begun →
    let v := if im then a.setWidth 64 else s.xr a
    exec (.registerWrite (.csr op im d a n)) s =
      .next ((s.begun.writeCsr s.cur n.toNat (csrNew op (csrValue s s.cur n.toNat) v)).putX d
        (csrValue s s.cur n.toNat)).retire) ∧
  (∀ (s : State) (im : Bool) (op : CsrOp) (d a : Reg) (n : BitVec 12), s.Runs →
    csrUnit n.toNat = none ∨ (s.ctx s.cur).priv.code < fld n.toNat 9 8 ∨ (fld n.toNat 11 10 = 3 ∧ isIdCsr n.toNat = false) →
    exec (.registerWrite (.csr op im d a n)) s = .next (s.trapped 2 (s.ibits.setWidth 64))) ∧
  (∀ (s : State) (im : Bool) (op : CsrOp) (d a : Reg) (n : BitVec 12), s.Runs → (s.ctx s.cur).priv = .m →
    isIdCsr n.toNat = true → ∃ t, exec (.registerWrite (.csr op im d a n)) s = .next t ∧
      Retired s t (·.setX d.toNat (csrValue s s.cur n.toNat)) s.nextPc) ∧
  (∀ (s : State) (v : Word), s.Runs → (s.ctx s.cur).priv = .m →
    csrCheck 0x340 true s.begun = .ok () s.begun ∧ (s.begun.writeCsr s.cur 0x340 v).slot s.cur =
      { s.slot s.cur with mscratch := v })

/-- R67, R155, R166, R190: a scalar load whose access answers bytes and whose slot has no queued vector memory
instruction writes them to its register, sign-extended for lb, lh and lw, boxed for the floating-point loads; a store
whose access is performed goes on; a queued vector memory instruction makes both wait. -/
def Obligations.LoadsAndStores : Prop :=
  (∀ (s u : State) (k : LoadKind) (d a : Reg) (imm : BitVec 12) (bs : List Byte), s.Runs →
    (s.ctx s.cur).queuedMem true true = false → ((loadShape k).2.2.isSome → (s.ctx s.cur).fs ≠ 0) →
    loadBytes (s.xr a + imm.signExtend 64) (loadShape k).1 s.begun = .ok bs u →
    exec (.scalarLoad k d a imm) s = .next (State.retire (match (loadShape k).2.2 with
      | some f => u.modCtx u.cur (·.setF d.toNat (boxF f (leNat bs)))
      | none => u.putX d (if (loadShape k).2.1 then sextW (leNat bs) (8 * (loadShape k).1) else w64 (leNat bs))))) ∧
  (∀ (s u : State) (k : StoreKind) (a b : Reg) (imm : BitVec 12), s.Runs →
    (s.ctx s.cur).queuedMem true true = false → ((storeShape k).2 = true → (s.ctx s.cur).fs ≠ 0) →
    storeBytes (s.xr a + imm.signExtend 64)
      (leBytes (storeShape k).1 (if (storeShape k).2 then (s.ctx s.cur).getF b.toNat else s.xr b).toNat) s.begun = .ok () u →
    exec (.scalarStore k a b imm) s = .next u.retire) ∧
  (∀ (s : State) (a b : Reg) (imm : BitVec 12), s.Runs → (s.ctx s.cur).queuedMem true true = true →
    exec (.scalarLoad .ld b a imm) s = .next s.waited ∧ exec (.scalarStore .sd a b imm) s = .next s.waited)

/-- R31, R33, R92, R131: a store through the own window writes exactly its bytes to the core's own scratchpad, byte i
of the register at the address plus i: every other byte of memory, every register of the thread, every other context
and every core's registers stay. A load through the window reads those bytes and changes no byte. R92, R129, R131,
R137, R311: a scratchpad's port, where no imposed log holds it back and no log runs, performs the first request of its
queue that reaches no segment being zeroed: the request's bytes, and no others, are written at its offset, and it
leaves the queue. A request to a segment being zeroed stays, and a later one of the same thread stays behind it, while
one of another thread is performed. A request that has waited for a zeroing and whose segment now denies it leaves
with nothing written (the model's choice of its end, DESIGN CHOICE, log entry 40). -/
def Obligations.ScratchpadAccesses : Prop :=
  ((∀ (s : State) (k : StoreKind) (a b : Reg) (imm : BitVec 12) (off : Nat), s.Runs → s.cur < 20480 →
     (s.ctx s.cur).queuedMem true true = false → (storeShape k).2 = false →
     s.xr a + imm.signExtend 64 = w64 (0x7F8000000000 + off) → ownScratchFree s off (storeShape k).1 true →
     ∃ t, exec (.scalarStore k a b imm) s = .next t ∧
       (∀ i, i < (storeShape k).1 → t.mem.read (scratchPa s.cur.gcore off + i) = BitVec.ofNat 8 ((s.xr b).toNat / 256 ^ i)) ∧
       (∀ p, p < scratchPa s.cur.gcore off ∨ scratchPa s.cur.gcore off + (storeShape k).1 ≤ p → t.mem.read p = s.mem.read p) ∧
       (∀ r, t.xr r = s.xr r) ∧ (t.ctx s.cur).pc = s.nextPc ∧ t.clusters = s.clusters ∧
       (∀ g, g ≠ s.cur.gcore → t.core g = s.core g) ∧
       (∀ h, h ≠ s.cur → t.ctx h = { s.ctx h with resv := (t.ctx h).resv })) ∧
   (∀ (s : State) (k : LoadKind) (d a : Reg) (imm : BitVec 12) (off : Nat), s.Runs → s.cur < 20480 →
     (s.ctx s.cur).queuedMem true true = false → (loadShape k).2.2 = none →
     s.xr a + imm.signExtend 64 = w64 (0x7F8000000000 + off) → ownScratchFree s off (loadShape k).1 false →
     ∃ t, exec (.scalarLoad k d a imm) s = .next t ∧
       t.xr d = (if d = 0#5 then 0#64 else
         let v := leNat (s.mem.readN (scratchPa s.cur.gcore off) (loadShape k).1)
         if (loadShape k).2.1 then sextW v (8 * (loadShape k).1) else w64 v) ∧
       (∀ r, r ≠ d → t.xr r = s.xr r) ∧ (∀ p, t.mem.read p = s.mem.read p) ∧ (t.ctx s.cur).pc = s.nextPc)) ∧
  ((∀ (s : State) (cl core : Nat) (r : PortReq) (rest : List PortReq), core < 64 → s.inTransit (cl * 64 + core) = false →
     (s.core (cl * 64 + core)).portq = r :: rest → (s.core (cl * 64 + core)).impose.left = 0 →
     (s.core (cl * 64 + core)).sscent.getLsbD 0 = false → s.zeroing (cl * 64 + core) r.off = false →
     (r.pois = false → r.again = false ∨ r.permitted s (cl * 64 + core) = true →
       ∃ t, exec (.remoteScratchpadRequest cl core) s = .next t ∧ (t.core (cl * 64 + core)).portq = rest ∧
         Wrote s t (scratchPa (cl * 64 + core) r.off) r.bytes ∧
         (∀ g, g ≠ cl * 64 + core → t.core g = s.core g) ∧ t.clusters = s.clusters) ∧
     (r.again = true → r.permitted s (cl * 64 + core) = false →
       exec (.remoteScratchpadRequest cl core) s =
         .next (s.setCore (cl * 64 + core) ((s.core (cl * 64 + core)).depart (cl * 64 + core) r rest)))) ∧
   (∀ (s : State) (cl core : Nat) (r q : PortReq), core < 64 → s.inTransit (cl * 64 + core) = false →
     (s.core (cl * 64 + core)).portq = [r, q] → (s.core (cl * 64 + core)).impose.left = 0 →
     (s.core (cl * 64 + core)).sscent.getLsbD 0 = false → s.zeroing (cl * 64 + core) r.off = true → r.kind = 0 → q.kind = 0 →
     (q.hart = r.hart → exec (.remoteScratchpadRequest cl core) s = .next s) ∧
     (q.hart ≠ r.hart → s.zeroing (cl * 64 + core) q.off = false → q.pois = false → q.again = false →
       ∃ t, exec (.remoteScratchpadRequest cl core) s = .next t ∧ (t.core (cl * 64 + core)).portq = [r] ∧
         Wrote s t (scratchPa (cl * 64 + core) q.off) q.bytes)))

/-- R67, R121, R128, R130, R135: an AMO gives the old value, sign-extended from a word, to rd and stores its result;
amocas gives the old value and stores rs2 where the old value equals rd, amocas.q with pairs of registers, illegal for
an odd rd or rs2; LR sets the reservation on the 32-byte granule of its address and loads; SC stores and gives 0 where
the reservation was held, and gives 1 and stores nothing where it was not, and the reservation is gone. rl waits for
the earlier accesses and aq makes the core acquire, both at device scope. An address that is not a multiple of the
width raises cause 5 for LR and cause 7 otherwise. On the own scratchpad each of them completes; at any other address
where its translation and its access answer. -/
def Obligations.Atomics : Prop :=
  (∀ (s : State) (aq rl : BitVec 1) (d a b : Reg) (off n : Nat), s.Runs → s.cur < 20480 → (s.ctx s.cur).queuedMem true true = false →
    (rl = 1#1 → s.performed s.cur true true 2 = true) → s.xr a = w64 (0x7F8000000000 + off) → off % n = 0 →
    let pa := scratchPa s.cur.gcore off
    let old := s.mem.readN pa n
    let acquired (t : State) : Prop :=
      (aq = 1#1 → (t.core s.cur.gcore).l1d = [] ∧ ∀ k, k ≠ s.cur.cl → t.cluster k = s.cluster k) ∧ (aq = 0#1 → t.clusters = s.clusters)
    (ownScratchFree s off n true →
      (∀ op wd, amoWidth wd = n → op ≠ .lr → op ≠ .sc → ∃ t, exec (.atomicAmo op wd aq rl d a b) s = .next t ∧
        Wrote s t pa (amoBytes op n (s.xr b) old) ∧ WentOn s t (·.setX d.toNat (regOf n old)) ∧ acquired t) ∧
      (∀ wd, amoWidth wd = n → (s.ctx s.cur).resv = some (blk pa) → ∃ t, exec (.atomicAmo .sc wd aq rl d a b) s = .next t ∧
        Wrote s t pa (leBytes n (s.xr b).toNat) ∧ WentOn s t (fun c => { c.setX d.toNat 0#64 with resv := none }) ∧ acquired t) ∧
      (∀ wd, amoWidth wd = n → (s.ctx s.cur).resv ≠ some (blk pa) → ∃ t, exec (.atomicAmo .sc wd aq rl d a b) s = .next t ∧
        (∀ p, t.mem.read p = s.mem.read p) ∧ WentOn s t (fun c => { c.setX d.toNat 1#64 with resv := none }) ∧ acquired t) ∧
      (∀ wd, wd = .w ∧ n = 4 ∨ wd = .d ∧ n = 8 → ∃ t, exec (.amocas wd aq rl d a b) s = .next t ∧
        WentOn s t (·.setX d.toNat (regOf n old)) ∧ acquired t ∧
        (leNat old = (s.xr d).toNat % 2 ^ (8 * n) → Wrote s t pa (leBytes n (s.xr b).toNat)) ∧
        (leNat old ≠ (s.xr d).toNat % 2 ^ (8 * n) → ∀ p, t.mem.read p = s.mem.read p)) ∧
      (n = 16 → d.getLsbD 0 = false → b.getLsbD 0 = false → ∃ t, exec (.amocas .q aq rl d a b) s = .next t ∧ acquired t ∧
        WentOn s t (fun c => if d = 0#5 then c else
          (c.setX d.toNat (w64 (leNat old))).setX (d + 1#5).toNat (w64 (leNat old / 2 ^ 64))) ∧
        (leNat old = s.xPair d → Wrote s t pa (leBytes 16 (s.xPair b))) ∧
        (leNat old ≠ s.xPair d → ∀ p, t.mem.read p = s.mem.read p))) ∧
    (ownScratchFree s off n false → ∀ wd, amoWidth wd = n → ∃ t, exec (.atomicAmo .lr wd aq rl d a 0#5) s = .next t ∧
      (∀ p, t.mem.read p = s.mem.read p) ∧ WentOn s t (fun c => { c.setX d.toNat (regOf n old) with resv := some (blk pa) }) ∧
      acquired t)) ∧
  (∀ (s : State) (aq rl : BitVec 1) (d a b : Reg), s.Runs → (s.ctx s.cur).queuedMem true true = false →
    (rl = 1#1 → s.performed s.cur true true 2 = true) →
    (∀ op wd old u, op ≠ .lr → op ≠ .sc →
      atomicAt (s.xr a) (amoWidth wd) opAmo 7 .amo (fun o => some (amoBytes op (amoWidth wd) (s.xr b) o)) s.begun = .ok old u →
      exec (.atomicAmo op wd aq rl d a b) s = .next ((u.putX d (regOf (amoWidth wd) old)).aqEnd aq).retire) ∧
    (∀ wd n old u, wd = .w ∧ n = 4 ∨ wd = .d ∧ n = 8 →
      atomicAt (s.xr a) n opCas 7 .amo
        (fun o => if leNat o = (s.xr d).toNat % 2 ^ (8 * n) then some (leBytes n (s.xr b).toNat) else none) s.begun = .ok old u →
      exec (.amocas wd aq rl d a b) s = .next ((u.putX d (regOf n old)).aqEnd aq).retire) ∧
    (∀ wd tg bs u v, (s.xr a).toNat % amoWidth wd = 0 → translate .load (s.xr a) (s.xr a) (amoWidth wd) s.begun = .ok tg u →
      atomicTarget tg (amoWidth wd) opAmo .lr (fun _ => none) u = .ok (bs, none) v →
      exec (.atomicAmo .lr wd aq rl d a 0#5) s = .next ((((v.accessEnd (s.xr a) (amoWidth wd)).modCtx v.cur
        (fun c => { c with resv := some (blk tg.a) })).putX d (regOf (amoWidth wd) bs)).aqEnd aq).retire) ∧
    (∀ wd tg u, (s.xr a).toNat % amoWidth wd = 0 → translate .store (s.xr a) (s.xr a) (amoWidth wd) s.begun = .ok tg u →
      let done (v : State) (r : Word) : Out := .next ((((v.accessEnd (s.xr a) (amoWidth wd)).modCtx v.cur
        (fun c => { c with resv := none })).putX d r).aqEnd aq).retire
      ((u.ctx u.cur).resv ≠ some (blk tg.a) → exec (.atomicAmo .sc wd aq rl d a b) s = done u 1#64) ∧
      (∀ x v, (u.ctx u.cur).resv = some (blk tg.a) →
        atomicTarget tg (amoWidth wd) opAmo .sc (fun _ => some (leBytes (amoWidth wd) (s.xr b).toNat)) u = .ok x v →
        exec (.atomicAmo .sc wd aq rl d a b) s = done v 0#64)) ∧
    (∀ op wd, (s.xr a).toNat % amoWidth wd ≠ 0 →
      exec (.atomicAmo op wd aq rl d a b) s = .next (s.trapped (if op = .lr then 5 else 7) (s.xr a))) ∧
    (∀ wd n, wd = .w ∧ n = 4 ∨ wd = .d ∧ n = 8 ∨ wd = .q ∧ n = 16 ∧ d.getLsbD 0 = false ∧ b.getLsbD 0 = false →
      (s.xr a).toNat % n ≠ 0 → exec (.amocas wd aq rl d a b) s = .next (s.trapped 7 (s.xr a))) ∧
    (d.getLsbD 0 = true ∨ b.getLsbD 0 = true → exec (.amocas .q aq rl d a b) s = .next (s.trapped 2 (s.ibits.setWidth 64)))) ∧
  (∀ (s : State) (op : AmoOp) (wd : AmoWidth) (cw : CasWidth) (aq : BitVec 1) (d a b : Reg), s.Runs →
    (s.ctx s.cur).queuedMem true true = false → s.performed s.cur true true 2 = false →
    exec (.atomicAmo op wd aq 1#1 d a b) s = .next s.waited ∧ exec (.amocas cw aq 1#1 d a b) s = .next s.waited)

/-- R125, R128, R133, R135, R158, R99: a fence with an empty set orders nothing; any other goes on once the earlier
accesses of its first set are performed at its scope, makes the core acquire where both sets hold reads at device or
system scope, and waits until then. fence is the one of device scope with its own sets in every mode, I and O counting
as R and W where FIOM of the environment says so; fence.tso that with rw and rw. fence.i waits as a release does and
empties the core's L1 instruction cache. sfence.vma, illegal in U-mode and in S-mode with TVM, waits for the earlier
stores and removes the matching entries of the core's L1 TLBs and the cluster's L2 TLB. -/
def Obligations.Fences : Prop :=
  (∀ (s : State) (q p : BitVec 4) (sc : BitVec 2), s.Runs →
    (p = 0#4 ∨ q = 0#4 → ∃ t, exec (.mfFence q p sc) s = .next t ∧ Retired s t id s.nextPc) ∧
    (p ≠ 0#4 → q ≠ 0#4 → s.performed s.cur (p.getLsbD 1) (p.getLsbD 0) sc.toNat = true →
      exec (.mfFence q p sc) s = .next (State.retire
        (if p.getLsbD 1 ∧ q.getLsbD 1 ∧ 2 ≤ sc.toNat then s.begun.acquire s.cur.gcore else s.begun))) ∧
    (p ≠ 0#4 → q ≠ 0#4 → s.performed s.cur (p.getLsbD 1) (p.getLsbD 0) sc.toNat = false →
      exec (.mfFence q p sc) s = .next s.waited)) ∧
  (∀ (s : State) (fm p q : BitVec 4) (a d : Reg), s.Runs →
    let on := ((s.ctx s.cur).priv ≠ .m ∧ (s.slot s.cur).menvcfg.getLsbD 0) ∨ ((s.ctx s.cur).priv = .u ∧ (s.slot s.cur).senvcfg.getLsbD 0)
    let rd (v : BitVec 4) : Prop := v.getLsbD 1 ∨ (on ∧ v.getLsbD 3)
    let wr (v : BitVec 4) : Prop := v.getLsbD 0 ∨ (on ∧ v.getLsbD 2)
    (p = 0#4 ∨ q = 0#4 → ∃ t, exec (.fence fm p q a d) s = .next t ∧ Retired s t id s.nextPc) ∧
    (p ≠ 0#4 → q ≠ 0#4 → ∀ r w : Bool, (r = true ↔ rd p) → (w = true ↔ wr p) →
      (s.performed s.cur r w 2 = true →
        (r = true → rd q → exec (.fence fm p q a d) s = .next (s.begun.acquire s.cur.gcore).retire) ∧
        (¬ (r = true ∧ rd q) → exec (.fence fm p q a d) s = .next s.begun.retire)) ∧
      (s.performed s.cur r w 2 = false → exec (.fence fm p q a d) s = .next s.waited))) ∧
  (∀ (s : State) (a d : Reg), s.Runs →
    (s.performed s.cur true true 2 = true →
      exec (.fenceTso a d) s = .next (s.begun.acquire s.cur.gcore).retire ∧
      ∀ imm, exec (.fenceI imm a d) s = .next (s.begun.modCore s.cur.gcore (fun c => { c with l1i := [] })).retire) ∧
    (s.performed s.cur true true 2 = false →
      exec (.fenceTso a d) s = .next s.waited ∧ ∀ imm, exec (.fenceI imm a d) s = .next s.waited)) ∧
  (∀ (s : State) (a b : Reg), s.Runs →
    let allowed := (s.ctx s.cur).priv = .m ∨ ((s.ctx s.cur).priv = .s ∧ (s.slot s.cur).mstatus.getLsbD 20 = false)
    let v := if a = 0#5 then none else some (s.xr a).toNat
    let i := if b = 0#5 then none else some (wfld (s.xr b) 15 0)
    (allowed → s.performed s.cur false true 2 = true →
      exec (.sfenceVma a b) s = .next ((s.begun.invalL1tlb s.cur.gcore v i).invalL2tlb s.cur.cl v i).retire) ∧
    (allowed → s.performed s.cur false true 2 = false → exec (.sfenceVma a b) s = .next s.waited) ∧
    (¬ allowed → exec (.sfenceVma a b) s = .next (s.trapped 2 (s.ibits.setWidth 64))))

/-- R77, R78: the hints change no register of the thread. A hint that nothing assigns only goes on; ctx.spin makes the
slot pass its turns for 32 core cycles; a prefetch asks for the L2 line, or for 128 bytes of it, where its address has
a place in global memory, and asks for nothing where it has none, as a window address. R67: wrs.nto and wrs.sto go on
where no reservation is held or an enabled interrupt is pending, and otherwise wait with a mark on the slot that tells
one from the other; the time of a waiting wrs.sto runs out, and it then goes on; that of a waiting wrs.nto runs out
below M-mode with TW 1, and it is then illegal. R150, R169, R170, R171: line maintenance takes the 256-byte line of
its address with bits 7:0 ignored. On global memory that is not uncached, with no fill of the line under way, pg.zero
makes a line of zeros, pg.clean writes back the line's dirty sectors and leaves it valid and clean, pg.inval discards
the line from every L2 of the device and every L1D of the cluster, and pg.flush writes it back and discards it; a fill
under way makes each wait. On an uncached page, and on on-package SRAM, clean, inval and flush only go on, and pg.zero
stores 256 zero bytes. pg.inval needs the permission W, and neither needs nor sets D (the model's reading of R150,
DEDUCED, log entry 27). -/
def Obligations.HintsWaitsAndLines : Prop :=
  ((∀ (s : State) (w : IWord), s.Runs → ∃ t, exec (.unassignedHint w) s = .next t ∧ Retired s t id s.nextPc) ∧
   (∀ s : State, s.Runs → ∃ t, exec .ctxSpin s = .next t ∧ (t.slot s.cur).pass = 32 ∧ (∀ r, t.xr r = s.xr r) ∧
     (t.ctx s.cur).pc = s.nextPc ∧ (∀ a, t.mem.read a = s.mem.read a) ∧ ∀ h, h ≠ s.cur → t.slot h = s.slot h) ∧
   (∀ (s u : State) (l a : Reg), s.Runs →
     (∀ tg, prefTarget (s.xr a) s.begun = (u, some tg) →
       exec (.pgPref l a) s = .next (u.prefetch tg 255#8 (s.xr a).toNat (l == 1#5)).retire) ∧
     (prefTarget (s.xr a) s.begun = (u, none) → exec (.pgPref l a) s = .next u.retire)) ∧
   (∀ (s u : State) (a : Reg), s.Runs → let va := s.xr a &&& ~~~0x7F#64
     (∀ tg, prefTarget va s.begun = (u, some tg) →
       exec (.bmPref a) s = .next (u.prefetch tg (if tg.a % 256 < 128 then 0x0F#8 else 0xF0#8) va.toNat false).retire) ∧
     (prefTarget va s.begun = (u, none) → exec (.bmPref a) s = .next u.retire)) ∧
   (∀ (s : State) (l a : Reg), s.Runs →
     (inWinRange (s.xr a).toNat = true → ∃ t, exec (.pgPref l a) s = .next t ∧ Retired s t id s.nextPc) ∧
     (inWinRange (s.xr a &&& ~~~0x7F#64).toNat = true → ∃ t, exec (.bmPref a) s = .next t ∧ Retired s t id s.nextPc))) ∧
  ((∀ s : State, s.Runs → (s.ctx s.cur).resv = none ∨ (s.slot s.cur).pending = true →
     (∃ t, exec .wrsNto s = .next t ∧ Retired s t id s.nextPc) ∧ ∃ t, exec .wrsSto s = .next t ∧ Retired s t id s.nextPc) ∧
   (∀ (s : State) (a : Nat), s.Runs → (s.ctx s.cur).resv = some a → (s.slot s.cur).pending = false → (s.slot s.cur).wait = none →
     (∃ t, exec .wrsSto s = .next t ∧ (t.slot s.cur).wait = some { kind := .wrs, a := 0, bits := s.ibits, len := s.ilen } ∧
       t.ctx s.cur = s.ctx s.cur ∧ (∀ p, t.mem.read p = s.mem.read p) ∧ ∀ h, h ≠ s.cur → t.slot h = s.slot h) ∧
     (∃ t, exec .wrsNto s = .next t ∧ (t.slot s.cur).wait = some { kind := .wrs, a := 1, bits := s.ibits, len := s.ilen } ∧
       t.ctx s.cur = s.ctx s.cur ∧ (∀ p, t.mem.read p = s.mem.read p) ∧ ∀ h, h ≠ s.cur → t.slot h = s.slot h)) ∧
   (∀ (s : State) (h : Hart) (w : WaitMark), (s.slot h).wait = some w → w.kind = .wrs →
     w.a = 0 ∨ ((s.ctx h).priv ≠ .m ∧ (s.slot h).mstatus.getLsbD 21 = true) →
     exec (.wrsTimeout h) s = .next (s.setSlot h { s.slot h with wait := some { w with kind := .wrsOver } })) ∧
   (∀ (s : State) (w : WaitMark), s.Runs → (s.slot s.cur).wait = some w → w.kind = .wrsOver →
     (∃ t, exec .wrsSto s = .next t ∧ Retired s t id s.nextPc) ∧
     ((s.ctx s.cur).resv ≠ none → (s.slot s.cur).pending = false →
       exec .wrsNto s = .next (s.trapped 2 (s.ibits.setWidth 64))))) ∧
  ((∀ (s u : State) (a : Reg) (tg : Target), s.Runs → (s.ctx s.cur).queuedMem true true = false →
     translate .store (s.xr a &&& ~~~0xFF#64) (s.xr a &&& ~~~0xFF#64) 256 s.begun = .ok tg u → tg.sram = false →
     (tg.attr.cache = 2 ∨ (u.cluster u.cur.cl).filling tg.a tg.attr.key = false →
       exec (.pgZero a) s = .next (u.zeroGlobal u.cur tg (fillClass (u.ctx u.cur) tg.attr) (u.ctx u.cur).asid).retire) ∧
     (tg.attr.cache ≠ 2 → (u.cluster u.cur.cl).filling tg.a tg.attr.key = true →
       exec (.pgZero a) s = .next (u.waitCycles u.cur))) ∧
   (∀ (s u : State) (a : Reg) (tg : Target), s.Runs → (s.ctx s.cur).queuedMem true true = false →
     translate .inval (s.xr a &&& ~~~0xFF#64) (s.xr a &&& ~~~0xFF#64) 256 s.begun = .ok tg u →
     (tg.sram = true ∨ tg.attr.cache = 2 → exec (.pgInval a) s = .next u.retire) ∧
     (tg.sram = false → tg.attr.cache ≠ 2 → (u.cluster u.cur.cl).filling tg.a tg.attr.key = false →
       exec (.pgInval a) s = .next (u.discardLine u.cur tg.a).retire) ∧
     (tg.sram = false → tg.attr.cache ≠ 2 → (u.cluster u.cur.cl).filling tg.a tg.attr.key = true →
       exec (.pgInval a) s = .next (u.waitCycles u.cur))) ∧
   (∀ (s u : State) (a : Reg) (tg : Target), s.Runs → (s.ctx s.cur).queuedMem true true = false →
     translateRW (s.xr a &&& ~~~0xFF#64) s.begun = .ok tg u →
     (tg.sram = true ∨ tg.attr.cache = 2 → exec (.pgClean a) s = .next u.retire ∧ exec (.pgFlush a) s = .next u.retire) ∧
     (tg.sram = false → tg.attr.cache ≠ 2 → (u.cluster u.cur.cl).filling tg.a tg.attr.key = false →
       exec (.pgClean a) s = .next (u.cleanLine u.cur tg.a tg.attr.key).retire ∧
       exec (.pgFlush a) s = .next (u.flushLine u.cur tg.a).retire) ∧
     (tg.sram = false → tg.attr.cache ≠ 2 → (u.cluster u.cur.cl).filling tg.a tg.attr.key = true →
       exec (.pgClean a) s = .next (u.waitCycles u.cur) ∧ exec (.pgFlush a) s = .next (u.waitCycles u.cur))) ∧
   (∀ (s : State) (a : Reg) (off : Nat), s.Runs → s.cur < 20480 → (s.ctx s.cur).queuedMem true true = false →
     s.xr a &&& ~~~0xFF#64 = w64 (0x7F8000000000 + off) →
     (ownScratchFree s off 256 true → ∃ t, exec (.pgZero a) s = .next t ∧
       Wrote s t (scratchPa s.cur.gcore off) (List.replicate 256 0#8) ∧ WentOn s t id ∧ t.clusters = s.clusters) ∧
     (ownScratchFree s off 256 false → ∀ i ∈ [Instr.pgClean a, .pgInval a, .pgFlush a], ∃ t, exec i s = .next t ∧
       (∀ p, t.mem.read p = s.mem.read p) ∧ WentOn s t id ∧ t.clusters = s.clusters)) ∧
   (∀ (s : State) (h : Hart) (a k : Nat),
     ((s.discardLine h a).cluster k).l2 = (s.cluster k).l2.filter (fun l => l.addr != down a 256) ∧
     ((s.flushLine h a).cluster k).l2 = (s.cluster k).l2.filter (fun l => l.addr != down a 256)) ∧
   (∀ (s : State) (h : Hart) (a key : Nat) (l : L2Line), (s.cluster h.cl).line a key = some l →
     ((s.cleanLine h a key).cluster h.cl).line a key = some { l with dirty := 0#8 } ∧
     (key = 0 → ∀ i j, i < 8 → l.dirty.getLsbD i = true → j < 32 →
       (s.cleanLine h a key).mem.read (l.addr + 32 * i + j) = (l.sector i).extractLsb' (8 * j) 8)) ∧
   (∀ e : TlbEnt, e.a = true → e.marked .inval = true ∧ (e.d = false → e.marked .store = false)) ∧
   (∀ (s : State) (k pa pte cos asid : Nat), pte.testBit 6 = true → s.setAD k pa pte cos asid Acc.inval.dirties = s))

/-- R231: the packed instructions act lane by lane on eight lanes of 8 bits or four of 16 and write rd: the wrapping
sums and differences, the unsigned saturating ones, the unsigned rounded average, maximum and minimum. They change
nothing else and raise no exception in any mode. R232: the packed shifts take the whole amount lane, so that an amount
of the lane width or more shifts every bit out, to 0 or to the sign; pk.mul8h gives bits 15:8 of the signed product.
-/
def Obligations.PackedLanes : Prop :=
  (PackedAs 8 .pkAdd8 (fun a b => (a + b) % 256) ∧ PackedAs 16 .pkAdd16 (fun a b => (a + b) % 65536) ∧
   PackedAs 8 .pkSub8 (fun a b => (a + 256 - b) % 256) ∧ PackedAs 16 .pkSub16 (fun a b => (a + 65536 - b) % 65536) ∧
   PackedAs 8 .pkAdds8n (fun a b => min (a + b) 255) ∧ PackedAs 8 .pkSubs8n (fun a b => if a ≤ b then 0 else a - b) ∧
   PackedAs 8 .pkAvg8 (fun a b => (a + b + 1) / 2) ∧ PackedAs 8 .pkMax8n (fun a b => if a < b then b else a) ∧
   PackedAs 8 .pkMin8n (fun a b => if a < b then a else b)) ∧
  (PackedAs 8 .pkSll8 (fun a n => if 8 ≤ n then 0 else a * 2 ^ n % 256) ∧
   PackedAs 16 .pkSll16 (fun a b => if 16 ≤ b % 256 then 0 else a * 2 ^ (b % 256) % 65536) ∧
   PackedAs 8 .pkSrl8 (fun a n => if 8 ≤ n then 0 else a / 2 ^ n) ∧
   PackedAs 16 .pkSrl16 (fun a b => if 16 ≤ b % 256 then 0 else a / 2 ^ (b % 256)) ∧
   PackedAs 8 .pkSra8 (fun a n => uint (sint a 8 / (2 ^ min n 8 : Nat)) 8) ∧
   PackedAs 16 .pkSra16 (fun a b => uint (sint a 16 / (2 ^ min (b % 256) 16 : Nat)) 16) ∧
   PackedAs 8 .pkMul8h (fun a b => uint (sint a 8 * sint b 8 / 256) 8))

/-- R190, R193, R225, R73, R76: a vector instruction that is legal, or belongs to the mask stack, issues into the tail
of a sequencer that is not frozen and holds fewer than 16 entries, with vl, vtype and its scalar operands captured,
and changes nothing else of its thread; a full sequencer makes it wait; with VS Off it raises illegal instruction.
vmv.x.s, which enters no sequencer, writes element 0 of its source, sign-extended, to rd once the sequencer is empty.
That legality is judged at issue is the model's reading (DEDUCED, log entry 17). R226, R241 to R246: vx.loop takes the
next n + 1 words, which must be legal body instructions, as the body of a loop of x[rs1] iterations: with a count of 0
it only skips them; otherwise they enter the sequencer as body entries, vlpcnt is the count, vlpidx is 0 and the pc
goes behind the body. When every body entry has run, vlpidx rises by one, and with the last iteration the body leaves
the sequencer. vx.lwait reads vlpidx once no loop is live or the index has been reached, and waits before; a vstart
that applies to it is illegal (R226). -/
def Obligations.VectorIssueAndLoops : Prop :=
  ((∀ (s : State) (i : Instr) (w : IWord) (a b : Word), s.Runs → queuesVec i = true → encode i = some w →
     (s.ctx s.cur).vs ≠ 0 → (s.ctx s.cur).frozen = none → (s.ctx s.cur).seq.any (fun e => isFof e.bits) = false →
     (isMaskStack w || vecLegal w s.begun) = true → (s.ctx s.cur).seq.length < 16 → captured w s.begun = .ok (a, b) s.begun →
     ∃ t, exec i s = .next t ∧ Retired s t (fun c => { c with seq := c.seq ++
       [{ bits := w, vl := c.vl, v := true, l := false, vtype := c.vtype, op1 := a, op2 := b }] }) s.nextPc) ∧
   (∀ (s : State) (i : Instr) (w : IWord) (a b : Word), s.Runs → queuesVec i = true → encode i = some w →
     (s.ctx s.cur).vs ≠ 0 → (s.ctx s.cur).frozen = none → (s.ctx s.cur).seq.any (fun e => isFof e.bits) = false →
     (isMaskStack w || vecLegal w s.begun) = true → 16 ≤ (s.ctx s.cur).seq.length → captured w s.begun = .ok (a, b) s.begun →
     exec i s = .next s.waited) ∧
   (∀ (s : State) (i : Instr), s.Runs → queuesVec i = true → (s.ctx s.cur).vs = 0 →
     exec i s = .next (s.trapped 2 (s.ibits.setWidth 64))) ∧
   (∀ (s : State) (w : IWord), s.Runs → writesScalar w = true → fF3 w = 2#3 → fRs1 w = 0#5 → (s.ctx s.cur).vs ≠ 0 →
     (s.ctx s.cur).frozen = none → (s.ctx s.cur).seq = [] → (∀ n, n < 4 → ((s.ctx s.cur).strip n).v = false) →
     (s.ctx s.cur).vpoison = [] →
     let x : VI := { w := w, vl := (s.ctx s.cur).vl, vt := (s.ctx s.cur).vtype, op1 := 0#64, op2 := 0#64,
                     vs := (s.ctx s.cur).vstart.toNat }
     x.ill = false → ∃ t, exec (.vectorIssue w) s = .next t ∧ Retired s t (fun c =>
       { c.setX (fRd w).toNat (sextW (c.elem (fRs2 w).toNat x.sew 0) x.sew) with vstart := 0#64 }) s.nextPc)) ∧
  ((∀ (s u : State) (n : BitVec 4) (a : Reg) (ws : List IWord) (es : List SeqEnt), s.Runs → (s.ctx s.cur).vs ≠ 0 →
     (s.ctx s.cur).frozen = none → (s.ctx s.cur).seq.any (fun e => isFof e.bits) = false →
     (s.ctx s.cur).vtype.getLsbD 63 = false → ((s.ctx s.cur).seq = [] → (s.ctx s.cur).vstart = 0#64) →
     fetchWords (n.toNat + 1) ((s.ctx s.cur).pc + 4#64) s.begun = .ok ws u → ws.all (fun w => bodyWord w && vecLegal w u) = true →
     (s.ctx s.cur).loopLive = false → (s.ctx s.cur).seq.length + (n.toNat + 1) ≤ 16 →
     let v := u.modCtx u.cur (fun c => { c with vlpcnt := w64 (wfld (u.xr a) 31 0), vlpidx := 0#64 }.dirtyV)
     let pc := (s.ctx s.cur).pc + w64 (4 + 4 * (n.toNat + 1))
     (wfld (u.xr a) 31 0 = 0 → exec (.vxLoop n a) s = .next (State.retire { v with npc := pc })) ∧
     (wfld (u.xr a) 31 0 ≠ 0 → bodyEntries (s.ctx s.cur) ws v = .ok es v → exec (.vxLoop n a) s =
       .next (State.retire { v.modCtx v.cur (fun c => { c with seq := c.seq ++ es }) with npc := pc }))) ∧
   (∀ (s : State) (h : Hart) (e : SeqEnt) (rest : List SeqEnt), (s.ctx h).seq = e :: rest → e.l = true → s.seqReady h = true →
     exec (.loopIteration h) s = .next (State.loopPass h (s.ctx h).vlpidx 16 s)) ∧
   (∀ c : Ctx, (∀ e ∈ c.seq, e.l = true → e.v = false) →
     c.loopTurn.vlpidx = c.vlpidx + 1#64 ∧ (c.vlpidx + 1#64 = c.vlpcnt → c.loopTurn.seq = c.seq.filter (fun e => !e.l)) ∧
     (c.vlpidx + 1#64 ≠ c.vlpcnt → ∀ e ∈ c.loopTurn.seq, e.l = true → e.v = true)) ∧
   (∀ (s : State) (a d : Reg), s.Runs → (s.ctx s.cur).vs ≠ 0 → (s.ctx s.cur).frozen = none →
     ((s.ctx s.cur).seq = [] → (s.ctx s.cur).vstart ≠ 0#64 → exec (.vxLwait a d) s = .next (s.trapped 2 (s.ibits.setWidth 64))) ∧
     (((s.ctx s.cur).seq = [] → (s.ctx s.cur).vstart = 0#64) →
       ((s.ctx s.cur).loopLive = false ∨ wfld (s.xr a) 31 0 ≤ (s.ctx s.cur).vlpidx.toNat →
         ∃ t, exec (.vxLwait a d) s = .next t ∧ Retired s t (·.setX d.toNat (s.ctx s.cur).vlpidx) s.nextPc) ∧
       ((s.ctx s.cur).loopLive = true → (s.ctx s.cur).vlpidx.toNat < wfld (s.xr a) 31 0 →
         exec (.vxLwait a d) s = .next s.waited))))

/-- R190, R191, R195, R524: the entry that a running sequencer takes next either completes, and the sequencer goes on
behind it with vstart 0, or raises its trap, which freezes the sequencer with its entries in place, or waits at its
place, and the entries stay. An element shift, difference or average whose registers no strip holds completes; one
whose source register a pending strip holds waits, and one whose source register a Faulted strip holds raises cause
25, with no register written. -/
def Obligations.SequencerHead : Prop :=
  (∀ (s t : State) (h : Hart) (p : Nat) (e : SeqEnt), s.seqReady h = true → (s.ctx h).seqNext = some (p, e) →
    (e.instr (s.ctx h)).run { s with cur := h, ibits := e.bits } = .ok () t →
    exec (.sequencerHeadExecute h) s =
      .next ((((t.modCtx h (fun c => c.seqDone p e)).modSlot h Slot.seqClear).perfCycles h.gcore 7).wonVec h)) ∧
  (∀ (s t : State) (h : Hart) (p cause : Nat) (v : Word) (e : SeqEnt) (c : Ctx), s.seqReady h = true →
    (s.ctx h).seqNext = some (p, e) → (e.instr (s.ctx h)).run { s with cur := h, ibits := e.bits } = .error (.trap cause v) t →
    (t.slot h).ctx = some c → ∃ u, exec (.sequencerHeadExecute h) s = .next u ∧ u = (t.keepSeq h (s.ctx h).seq).takeTrap h false cause v ∧
      (u.ctx h).seq = (s.ctx h).seq ∧ (u.ctx h).frozen = some (c.frozen.getD c.priv)) ∧
  (∀ (s t : State) (h : Hart) (p : Nat) (e : SeqEnt) (c : Ctx), s.seqReady h = true →
    (s.ctx h).seqNext = some (p, e) → (e.instr (s.ctx h)).run { s with cur := h, ibits := e.bits } = .error .wait t →
    (t.slot h).ctx = some c → ∃ u, exec (.sequencerHeadExecute h) s = .next u ∧ u.ctx h = { c with seq := (s.ctx h).seq } ∧
      u.mem = t.mem ∧ u.cores = t.cores ∧ u.clusters = t.clusters ∧ ∀ j, j ≠ h → u.slot j = t.slot j) ∧
  (∀ (s : State) (h : Hart) (e : SeqEnt) (rest : List SeqEnt) (k q : Nat) (b a d : Reg), k < 6 → HeadVV s h e rest k q b a d →
    ∃ t, exec (.sequencerHeadExecute h) s = .next t ∧ (t.ctx h).seq = rest ∧ (t.ctx h).vstart = 0#64 ∧
      ∀ p, t.mem.read p = s.mem.read p) ∧
  (∀ (s : State) (h : Hart) (e : SeqEnt) (rest : List SeqEnt) (k q : Nat) (b a d : Reg), k < 6 → s.seqReady h = true →
    (s.ctx h).seq = e :: rest → e.l = false → e.bits = rvWord (BitVec.ofNat 6 k) 1#1 b a 0#3 d → q < 4 → e.vtype = w64 (8 * q) →
    (s.ctx h).vstart = 0#64 → ((s.ctx h).strip 0).v = true → ((s.ctx h).strip 0).vd = b.toNat →
    (((s.ctx h).strip 0).fault = none → ∃ t, exec (.sequencerHeadExecute h) s = .next t ∧ t.ctx h = s.ctx h ∧ t.mem = s.mem ∧
      t.cores = s.cores ∧ t.clusters = s.clusters) ∧
    (∀ r, ((s.ctx h).strip 0).fault = some r → ∃ t, exec (.sequencerHeadExecute h) s = .next t ∧ (t.ctx h).v = (s.ctx h).v ∧
      (t.ctx h).seq = (s.ctx h).seq ∧ t.mem = s.mem ∧ ((s.slot h).delegates (s.ctx h).priv false 25 = true →
        (t.ctx h).scause = 25#64 ∧ (t.ctx h).stval = chanTval r true 0 ((s.ctx h).strip 0).src))) ∧
  (∀ (c : Ctx) (e : SeqEnt) (rest : List SeqEnt), c.seq = e :: rest → e.l = false →
    c.seqNext = some (0, e) ∧ (c.seqDone 0 e).seq = rest ∧ (c.seqDone 0 e).vstart = 0#64)

/-- R63, R64, R228 to R230, R233 to R235: at the head of the sequencer, at every SEW and LMUL, masked or not, with
registers aligned to the group and a masked vd other than v0. vx.srl, vx.sra, vx.rsra, vx.absd, vx.avgr and vx.sshl
give the results of the elements of vs2 and vs1; vx.sshlx, vx.srlx and vx.srax take x[rs1] as every amount. The shifts
never mask their amount, bits 7:0; vx.rsra rounds by vxrm; vx.sshl saturates to the signed range and then sets vxsat,
which no other sets. The scans give the running sum, minimum or maximum of the active elements from element 0 of vs1
on, vx.escanadd the one before its element; an inactive element stays. vx.fredtsum and vx.fdott put the tree sum of
the live leaves, added to their scalar, into element 0 of vd: a lone leaf passes unrounded, two are added with one
rounding. vx.fscanadd and the trees accrue the flags of their additions. What the pseudocode gives where no leaf is
live is canonical by R44 (the model's reading, DEDUCED, log entry 37). -/
def Obligations.VectorElementResults : Prop :=
  (∀ (s : State) (h : Hart) (e : SeqEnt) (rest : List SeqEnt) (k q g : Nat) (x : Bool) (m : BitVec 1) (b a d : Reg),
    HeadRuns s h e rest → VTyped e q g →
    (x = false ∧ k < 6 ∧ e.bits = rvWord (BitVec.ofNat 6 k) m b a 0#3 d ∧ a.toNat % g = 0 ∨
     x = true ∧ k < 3 ∧ e.bits = rvWord (BitVec.ofNat 6 (k + 2)) m b a 3#3 d) →
    b.toNat % g = 0 → d.toNat % g = 0 → m = 1#1 ∨ d ≠ 0#5 →
    let c := s.ctx h
    let w := 8 * 2 ^ q
    let act (i : Nat) : Bool := m == 1#1 || c.maskBit 0 i
    let el (i : Nat) : Nat := c.elem b.toNat w i
    let y (i : Nat) : Nat := if x then e.op1.toNat else c.elem a.toNat w i
    let n (i : Nat) : Nat := y i % 256
    let big (i : Nat) : Int := sint (el i) w * (2 ^ min (n i) w : Nat)
    let hi : Int := (2 ^ (w - 1) : Nat) - 1
    let lo : Int := -((2 ^ (w - 1) : Nat) : Int)
    ∃ t, exec (.sequencerHeadExecute h) s = .next t ∧
      VecResult s t h e rest d.toNat g w act (fun i => match k with
        | 0 => uint (max lo (min hi (big i))) w
        | 1 => el i / 2 ^ n i
        | 2 => uint (sint (el i) w / (2 ^ min (n i) w : Nat)) w
        | 3 => uint (if n i = 0 then sint (el i) w else if w ≤ n i then sint (el i) w / (2 ^ w : Nat)
                     else sint (el i) w / (2 ^ n i : Nat) + rinc c.vxrm.toNat (el i) (n i)) w
        | 4 => (sint (el i) w - sint (y i) w).natAbs
        | _ => uint ((sint (el i) w + sint (y i) w + 1) / 2) w) ∧
      (t.ctx h).fcsr = c.fcsr ∧
      (k = 0 → (∃ i, i < e.vl ∧ act i = true ∧ (hi < big i ∨ big i < lo)) → (t.ctx h).vxsat = 1#64) ∧
      ((k = 0 → ∀ i, i < e.vl → act i = true → lo ≤ big i ∧ big i ≤ hi) → (t.ctx h).vxsat = c.vxsat)) ∧
  (∀ (s : State) (h : Hart) (e : SeqEnt) (rest : List SeqEnt) (k q g : Nat) (m : BitVec 1) (b a d : Reg),
    HeadRuns s h e rest → VTyped e q g → 3 ≤ k → k ≤ 9 → e.bits = rvWord (BitVec.ofNat 6 k) m b a 2#3 d →
    b.toNat % g = 0 → d.toNat % g = 0 → m = 1#1 ∨ d ≠ 0#5 →
    let c := s.ctx h
    (k = 8 → 2 ≤ q ∧ c.fs ≠ 0 ∧ wfld c.fcsr 7 5 ≤ 4) →
    let w := 8 * 2 ^ q
    let act (i : Nat) : Bool := m == 1#1 || c.maskBit 0 i
    let el (i : Nat) : Nat := c.elem b.toNat w i
    let sum (r v : Nat) : Nat × FFlags := (if q = 3 then binary64 else binary32).add (wfld c.fcsr 7 5) r v
    let chain (n : Nat) : Nat := chainOf (fun r v => match k with
      | 4 => uint (min (sint r w) (sint v w)) w
      | 5 => uint (max (sint r w) (sint v w)) w
      | 6 => min r v
      | 7 => max r v
      | 8 => (sum r v).1
      | _ => (r + v) % 2 ^ w) act el (c.elem a.toNat w 0) n
    ∃ t, exec (.sequencerHeadExecute h) s = .next t ∧
      VecResult s t h e rest d.toNat g w act (fun i => if k = 9 then chain i else chain (i + 1)) ∧
      (∀ i, i < e.vl → act i = false → (t.ctx h).elem d.toNat w i = c.elem d.toNat w i) ∧
      (k ≠ 8 → (t.ctx h).fcsr = c.fcsr) ∧ (t.ctx h).fcsr &&& c.fcsr = c.fcsr ∧
      (k = 8 → ∀ i, i < e.vl → act i = true →
        let fl := w64 (sum (chain i) (el i)).2.bits
        (t.ctx h).fcsr &&& fl = fl)) ∧
  (∀ (s : State) (h : Hart) (e : SeqEnt) (rest : List SeqEnt) (q g : Nat) (dot : Bool) (m : BitVec 1) (b a d : Reg),
    HeadRuns s h e rest → VTyped e q g → 2 ≤ q → e.bits = rvWord (if dot then 1#6 else 0#6) m b a 1#3 d →
    b.toNat % g = 0 → (dot = true → a.toNat % g = 0) → m = 1#1 ∨ d ≠ 0#5 →
    let c := s.ctx h
    c.fs ≠ 0 → wfld c.fcsr 7 5 ≤ 4 →
    let w := 8 * 2 ^ q
    let f := if q = 3 then binary64 else binary32
    let leaf (i : Nat) : Option FV :=
      if m == 1#1 || c.maskBit 0 i then
        some (if dot then (f.val (c.elem b.toNat w i)).mul (f.val (c.elem a.toNat w i)) else f.val (c.elem b.toNat w i))
      else none
    let z := treeReduce f (wfld c.fcsr 7 5) (c.elem (if dot then d else a).toNat w 0) ((List.range e.vl).map leaf)
    ∃ t, exec (.sequencerHeadExecute h) s = .next t ∧ VecScalar s t h e rest d.toNat w z.1 ∧
      (t.ctx h).fcsr = if e.vl = 0 then c.fcsr else c.fcsr ||| w64 z.2.bits) ∧
  (∀ (f : BinFmt) (rm init : Nat) (u v x y : FV),
    treeReduce f rm init [some v] = f.out rm ((f.val init).add rm v) ∧
    treeReduce f rm init [some v, none] = f.out rm ((f.val init).add rm v) ∧
    treeReduce f rm init [none, some v] = f.out rm ((f.val init).add rm v) ∧
    (treeReduce f rm init [some u, some v]).1 = (f.out rm ((f.val init).add rm (f.addV rm u v).1)).1 ∧
    (treeReduce f rm init [some u, some v, some x]).1 =
      (f.out rm ((f.val init).add rm (f.addV rm (f.addV rm u v).1 x).1)).1 ∧
    (treeReduce f rm init [some u, some v, some x, some y]).1 =
      (f.out rm ((f.val init).add rm (f.addV rm (f.addV rm u v).1 (f.addV rm x y).1).1)).1)

/-- The standard (log entry 13), R67, R131, R191, R229: at the head of the sequencer, at every SEW and LMUL, masked or
not. The elementwise integer instructions of V 1.0, with a vector, an x register or a five-bit immediate as second
operand, give sums, differences, extremes, logic and shifts whose amounts are masked; the multiplications, divisions
and multiply-adds their products, quotients and accumulations; the floating-point ones at SEW 32 and 64 the rounded
result and its flags. A comparison writes one mask bit an element, a reduction folds the active elements onto element
0 of vs1, a slide moves elements, a widening sum or product has twice the width. A unit-stride, strided or indexed
load of the own scratchpad gives each active element the bytes at its address, and a store writes those bytes and no
others, the later element prevailing. -/
def Obligations.StandardVectorResults : Prop :=
  (∀ (s : State) (h : Hart) (e : SeqEnt) (rest : List SeqEnt) (q g : Nat) (f6 : BitVec 6) (m : BitVec 1) (b a : Reg) (f3 : BitVec 3)
      (d : Reg), HeadRuns s h e rest → VTyped e q g → e.bits = f6 ++ m ++ b ++ a ++ f3 ++ d ++ 0x57#7 → vecKnown e.bits = true →
    b.toNat % g = 0 →
    let c := s.ctx h
    let w := 8 * 2 ^ q
    let act (i : Nat) : Bool := m == 1#1 || c.maskBit 0 i
    let x (i : Nat) : Nat := c.elem b.toNat w i
    let old (i : Nat) : Nat := c.elem d.toNat w i
    let frm := wfld c.fcsr 7 5
    let y (i : Nat) : Nat :=
      match f3.toNat with
      | 3 => if 0x25 ≤ f6.toNat then a.toNat else uint (sint a.toNat 5) w
      | 4 | 6 => e.op1.toNat % 2 ^ w
      | 5 => if q = 3 then e.op1.toNat else unbox .s e.op1
      | _ => c.elem a.toNat w i
    let free := m = 1#1 ∨ d ≠ 0#5      -- a masked destination other than v0
    (f3.toNat < 3 → a.toNat % g = 0) →
    -- integer
    ((f3 = 0#3 ∨ f3 = 3#3 ∨ f3 = 4#3) → free → d.toNat % g = 0 →
      f6.toNat ∈ [0x00, 0x02, 0x03, 0x04, 0x05, 0x06, 0x07, 0x09, 0x0a, 0x0b, 0x25, 0x28, 0x29] →
      ∃ t, exec (.sequencerHeadExecute h) s = .next t ∧
        VecResult s t h e rest d.toNat g w act (fun i => match f6.toNat with
          | 0x00 => (x i + y i) % 2 ^ w
          | 0x02 => (x i + 2 ^ w - y i) % 2 ^ w
          | 0x03 => (y i + 2 ^ w - x i) % 2 ^ w
          | 0x04 => min (x i) (y i)
          | 0x05 => uint (min (sint (x i) w) (sint (y i) w)) w
          | 0x06 => max (x i) (y i)
          | 0x07 => uint (max (sint (x i) w) (sint (y i) w)) w
          | 0x09 => x i &&& y i
          | 0x0a => x i ||| y i
          | 0x0b => x i ^^^ y i
          | 0x25 => x i * 2 ^ (y i % w) % 2 ^ w
          | 0x28 => x i / 2 ^ (y i % w)
          | _ => uint (sint (x i) w / (2 ^ (y i % w) : Nat)) w)) ∧
    ((f3 = 2#3 ∨ f3 = 6#3) → free → d.toNat % g = 0 →
      f6.toNat ∈ [0x20, 0x21, 0x22, 0x23, 0x24, 0x25, 0x26, 0x27, 0x29, 0x2b, 0x2d, 0x2f] →
      ∃ t, exec (.sequencerHeadExecute h) s = .next t ∧
        VecResult s t h e rest d.toNat g w act (fun i => match f6.toNat with
          | 0x20 => if y i = 0 then 2 ^ w - 1 else x i / y i
          | 0x21 => if y i = 0 then 2 ^ w - 1 else uint ((sint (x i) w).tdiv (sint (y i) w)) w
          | 0x22 => if y i = 0 then x i else x i % y i
          | 0x23 => if y i = 0 then x i else uint ((sint (x i) w).tmod (sint (y i) w)) w
          | 0x24 => x i * y i / 2 ^ w
          | 0x25 => x i * y i % 2 ^ w
          | 0x26 => uint (sint (x i) w * (y i : Nat) / (2 ^ w : Nat)) w
          | 0x27 => uint (sint (x i) w * sint (y i) w / (2 ^ w : Nat)) w
          | 0x29 => (y i * old i + x i) % 2 ^ w
          | 0x2b => uint ((x i : Int) - y i * old i) w
          | 0x2d => (y i * x i + old i) % 2 ^ w
          | _ => uint ((old i : Int) - y i * x i) w)) ∧
    -- comparisons, one bit an element
    ((f3 = 0#3 ∨ f3 = 3#3 ∨ f3 = 4#3) → 0x18 ≤ f6.toNat → f6.toNat ≤ 0x1f →
      (d = b ∨ ¬ (b.toNat ≤ d.toNat ∧ d.toNat < b.toNat + g)) → (f3 = 0#3 → d = a ∨ ¬ (a.toNat ≤ d.toNat ∧ d.toNat < a.toNat + g)) →
      ∃ t, exec (.sequencerHeadExecute h) s = .next t ∧ (t.ctx h).seq = rest ∧ (t.ctx h).x = c.x ∧
        (∀ p, t.mem.read p = s.mem.read p) ∧ (∀ r, r ≠ d.toNat → (t.ctx h).getV r = c.getV r) ∧
        ∀ i, i < e.vl → act i = true → (t.ctx h).maskBit d.toNat i = (match f6.toNat with
          | 0x18 => x i == y i
          | 0x19 => x i != y i
          | 0x1a => decide (x i < y i)
          | 0x1b => decide (sint (x i) w < sint (y i) w)
          | 0x1c => decide (x i ≤ y i)
          | 0x1d => decide (sint (x i) w ≤ sint (y i) w)
          | 0x1e => decide (y i < x i)
          | _ => decide (sint (y i) w < sint (x i) w))) ∧
    -- floating point
    ((f3 = 1#3 ∨ f3 = 5#3) → free → d.toNat % g = 0 → 2 ≤ q → c.fs ≠ 0 → frm ≤ 4 →
      f6.toNat ∈ [0x00, 0x02, 0x04, 0x06, 0x20, 0x24, 0x2c] →
      let f := if q = 3 then binary64 else binary32
      let z (i : Nat) : Nat × FFlags := match f6.toNat with
        | 0x00 => f.add frm (x i) (y i)
        | 0x02 => f.sub frm (x i) (y i)
        | 0x04 => f.minmax false (x i) (y i)
        | 0x06 => f.minmax true (x i) (y i)
        | 0x20 => f.div frm (x i) (y i)
        | 0x24 => f.mul frm (x i) (y i)
        | _ => f.fma frm (f.val (y i)) (f.val (x i)) (f.val (old i))
      ∃ t, exec (.sequencerHeadExecute h) s = .next t ∧ VecResult s t h e rest d.toNat g w act (fun i => (z i).1) ∧
        (t.ctx h).fcsr &&& c.fcsr = c.fcsr ∧
        ∀ i, i < e.vl → act i = true → (t.ctx h).fcsr &&& w64 (z i).2.bits = w64 (z i).2.bits) ∧
    -- slides by x[rs1] or an immediate
    ((f3 = 3#3 ∨ f3 = 4#3) → free → d.toNat % g = 0 →
      let k := if f3 = 3#3 then a.toNat else e.op1.toNat
      (f6 = 0x0f#6 → ∀ mx, vlmaxOf e.vtype = some mx → ∃ t, exec (.sequencerHeadExecute h) s = .next t ∧
        VecResult s t h e rest d.toNat g w act (fun i => if i + k < mx then x (i + k) else 0)) ∧
      (f6 = 0x0e#6 → d ≠ b → ∃ t, exec (.sequencerHeadExecute h) s = .next t ∧
        VecResult s t h e rest d.toNat g w act (fun i => if i < k then old i else x (i - k)))) ∧
    -- widening, into registers apart from the sources
    ((f3 = 2#3 ∨ f3 = 6#3) → free → f6.toNat ∈ [0x30, 0x31, 0x32, 0x33, 0x38, 0x3b] → q < 3 → wfld e.vtype 2 0 ≠ 3 →
      let n := if wfld e.vtype 2 0 < 3 then 2 * g else 1
      d.toNat % n = 0 → (d.toNat + n ≤ b.toNat ∨ b.toNat + g ≤ d.toNat) →
      (f3 = 2#3 → d.toNat + n ≤ a.toNat ∨ a.toNat + g ≤ d.toNat) →
      ∃ t, exec (.sequencerHeadExecute h) s = .next t ∧
        VecResult s t h e rest d.toNat n (2 * w) act (fun i => match f6.toNat with
          | 0x30 => x i + y i
          | 0x31 => uint (sint (x i) w + sint (y i) w) (2 * w)
          | 0x32 => uint ((x i : Int) - y i) (2 * w)
          | 0x33 => uint (sint (x i) w - sint (y i) w) (2 * w)
          | 0x38 => x i * y i
          | _ => uint (sint (x i) w * sint (y i) w) (2 * w)))) ∧
  -- integer reductions
  (∀ (s : State) (h : Hart) (e : SeqEnt) (rest : List SeqEnt) (q g k : Nat) (m : BitVec 1) (b a d : Reg), HeadRuns s h e rest →
    VTyped e q g → k < 8 → e.bits = BitVec.ofNat 6 k ++ m ++ b ++ a ++ 2#3 ++ d ++ 0x57#7 → b.toNat % g = 0 →
    let c := s.ctx h
    let w := 8 * 2 ^ q
    let z := chainOf (fun r v => match k with
      | 0 => (r + v) % 2 ^ w
      | 1 => r &&& v
      | 2 => r ||| v
      | 3 => r ^^^ v
      | 4 => min r v
      | 5 => uint (min (sint r w) (sint v w)) w
      | 6 => max r v
      | _ => uint (max (sint r w) (sint v w)) w) (fun i => m == 1#1 || c.maskBit 0 i) (fun i => c.elem b.toNat w i) (c.elem a.toNat w 0) e.vl
    ∃ t, exec (.sequencerHeadExecute h) s = .next t ∧ VecScalar s t h e rest d.toNat w z) ∧
  -- loads and stores of the own scratchpad
  (∀ (s : State) (h : Hart) (e : SeqEnt) (rest : List SeqEnt) (q g : Nat) (st : Bool) (mop : BitVec 2) (m : BitVec 1) (b a : Reg)
      (f3 : BitVec 3) (d : Reg) (off : Nat → Nat), h < 20480 → HeadRuns s h e rest → VTyped e q g →
    (q, f3) ∈ [(0, 0#3), (1, 5#3), (2, 6#3), (3, 7#3)] →
    e.bits = 0#3 ++ 0#1 ++ mop ++ m ++ b ++ a ++ f3 ++ d ++ (if st then 0x27#7 else 0x07#7) →
    d.toNat % g = 0 → (mop = 0#2 → b = 0#5) → (mop.getLsbD 0 = true → b.toNat % g = 0) → st = true ∨ m = 1#1 ∨ d ≠ 0#5 →
    let c := s.ctx h
    let n := 2 ^ q
    let act (i : Nat) : Bool := m == 1#1 || c.maskBit 0 i
    let pa (i : Nat) : Nat := scratchPa h.gcore (off i)
    (∀ i, i < e.vl → act i = true →
      (if mop = 0#2 then e.op1 + w64 (i * n) else if mop = 2#2 then e.op1 + w64 i * e.op2 else e.op1 + w64 (c.elem b.toNat (8 * n) i)) =
        w64 (0x7F8000000000 + off i) ∧ ownScratchFree { s with cur := h } (off i) n st) →
    ∃ t, exec (.sequencerHeadExecute h) s = .next t ∧
      (st = false → VecResult s t h e rest d.toNat g (8 * n) act (fun i => leNat (s.mem.readN (pa i) n))) ∧
      (st = true → (t.ctx h).seq = rest ∧ (t.ctx h).vstart = 0#64 ∧ (t.ctx h).x = c.x ∧ (∀ r, (t.ctx h).getV r = c.getV r) ∧
        (∀ i, i < e.vl → act i = true → (∀ j, i < j → j < e.vl → act j = true → pa j + n ≤ pa i ∨ pa i + n ≤ pa j) →
          ∀ k, k < n → t.mem.read (pa i + k) = BitVec.ofNat 8 (c.elem d.toNat (8 * n) i / 256 ^ k)) ∧
        ∀ p, (∀ i, i < e.vl → act i = true → p < pa i ∨ pa i + n ≤ p) → t.mem.read p = s.mem.read p))

/-- R236 to R240, R247 to R254, R48 to R58: at the head of the sequencer. vx.mif pushes v0 and narrows it by vs2,
vx.melse takes what the top level holds and v0 does not, vx.mpop puts the top level back; past 8 levels the lowest
entry goes to, or comes from, its place at vmsbase; at depth 0, and vx.mif at 65,535, they raise cause 24 and change
nothing. vx.cvtm8 and vx.cvtfm8 convert between binary32 and M8D; vx.bsdec and vx.bsenc scale by the code of the
element's block; vx.bsfind writes one code a block, and the codes of R248 and R249 hold. vx.tex and vx.texg read their
descriptor and texels and write each active element of vd, with cause 4 for a descriptor that is not aligned to 64
bytes and cause 5 for one that R250 does not allow. -/
def Obligations.VectorStackAndConversions : Prop :=
  (∀ (s : State) (h : Hart) (e : SeqEnt) (rest : List SeqEnt) (b : Reg), h < 20480 → HeadRuns s h e rest →
    let c := s.ctx h
    let dp := c.vmsp.toNat
    let moved (t : State) : Prop := (t.ctx h).seq = rest ∧ (t.ctx h).x = c.x ∧ ∀ r, r ≠ 0 → (t.ctx h).getV r = c.getV r
    let stops : Prop := ∃ t, exec (.sequencerHeadExecute h) s = .next t ∧ (t.ctx h).seq = c.seq ∧ (t.ctx h).v = c.v ∧
      (t.ctx h).hw = c.hw ∧ (t.ctx h).vmsp = c.vmsp ∧ (t.ctx h).frozen = some c.priv ∧ t.mem = s.mem ∧
      ((s.slot h).delegates c.priv false 24 = true → (t.ctx h).scause = 24#64 ∧ (t.ctx h).stval = 0#64)
    (e.bits = rvWord 0#6 1#1 b 0#5 2#3 0#5 →
      (dp < 8 → ∃ t, exec (.sequencerHeadExecute h) s = .next t ∧ moved t ∧ (t.ctx h).vmsp = w64 (dp + 1) ∧
        (t.ctx h).getV 0 = c.getV 0 &&& c.getV b.toNat ∧ (t.ctx h).hwAt dp = c.getV 0 ∧
        (∀ i, i ≠ dp → (t.ctx h).hwAt i = c.hwAt i) ∧ ∀ p, t.mem.read p = s.mem.read p) ∧
      (∀ off, 8 ≤ dp → dp < 65535 → c.vmsbase + w64 (64 * (dp - 8)) = w64 (0x7F8000000000 + off) →
        ownScratchFree { s with cur := h } off 64 true → ∃ t, exec (.sequencerHeadExecute h) s = .next t ∧ moved t ∧
        (t.ctx h).vmsp = w64 (dp + 1) ∧ (t.ctx h).getV 0 = c.getV 0 &&& c.getV b.toNat ∧ (t.ctx h).hwAt 7 = c.getV 0 ∧
        (∀ i, i < 7 → (t.ctx h).hwAt i = c.hwAt (i + 1)) ∧ Wrote s t (scratchPa h.gcore off) (leBytes 64 (c.hwAt 0).toNat)) ∧
      (dp = 65535 → stops)) ∧
    (e.bits = rvWord 1#6 1#1 0#5 0#5 2#3 0#5 →
      (dp ≠ 0 → ∃ t, exec (.sequencerHeadExecute h) s = .next t ∧ moved t ∧ (t.ctx h).vmsp = c.vmsp ∧ (t.ctx h).hw = c.hw ∧
        (t.ctx h).getV 0 = c.hwAt (min dp 8 - 1) &&& ~~~ (c.getV 0) ∧ ∀ p, t.mem.read p = s.mem.read p) ∧
      (dp = 0 → stops)) ∧
    (e.bits = rvWord 2#6 1#1 0#5 0#5 2#3 0#5 →
      (0 < dp → dp ≤ 8 → ∃ t, exec (.sequencerHeadExecute h) s = .next t ∧ moved t ∧ (t.ctx h).vmsp = w64 (dp - 1) ∧
        (t.ctx h).hw = c.hw ∧ (t.ctx h).getV 0 = c.hwAt (dp - 1) ∧ ∀ p, t.mem.read p = s.mem.read p) ∧
      (∀ off, 8 < dp → c.vmsbase + w64 (64 * (dp - 9)) = w64 (0x7F8000000000 + off) →
        ownScratchFree { s with cur := h } off 64 false → ∃ t, exec (.sequencerHeadExecute h) s = .next t ∧ moved t ∧
        (t.ctx h).vmsp = w64 (dp - 1) ∧ (t.ctx h).getV 0 = c.hwAt 7 ∧ (∀ i, i < 7 → (t.ctx h).hwAt (i + 1) = c.hwAt i) ∧
        (t.ctx h).hwAt 0 = BitVec.ofNat 512 (leNat (s.mem.readN (scratchPa h.gcore off) 64)) ∧ ∀ p, t.mem.read p = s.mem.read p) ∧
      (dp = 0 → stops))) ∧
  (∀ (s : State) (h : Hart) (e : SeqEnt) (rest : List SeqEnt) (g : Nat) (m : BitVec 1) (b a d : Reg), HeadRuns s h e rest →
    VTyped e 2 g → (wfld e.vtype 2 0 < 4 ∨ wfld e.vtype 2 0 = 7) → m = 1#1 ∨ d ≠ 0#5 →
    let c := s.ctx h
    let n := if wfld e.vtype 2 0 < 2 ∨ wfld e.vtype 2 0 = 7 then 1 else g / 4
    let act (i : Nat) : Bool := m == 1#1 || c.maskBit 0 i
    let blk := vbsSize (wfld e.vtype 10 8)
    let sc (i : Nat) : Nat := c.elem a.toNat 8 (i / blk)
    let down (w8 : IWord) (f : Nat → VRes) : Prop := e.bits = w8 → b.toNat % g = 0 → d.toNat % n = 0 → c.fs ≠ 0 →
      ∃ t, exec (.sequencerHeadExecute h) s = .next t ∧ VecResult s t h e rest d.toNat n 8 act (fun i => (f i).v) ∧
        (t.ctx h).fcsr &&& c.fcsr = c.fcsr ∧
        ∀ i, i < e.vl → act i = true → (t.ctx h).fcsr &&& w64 (f i).fl.bits = w64 (f i).fl.bits
    (∀ sat : BitVec 1, down (rvWord 0#6 m b (0#4 ++ sat) 6#3 d) (fun i =>
      let z := m8Encode (sat == 1#1) (binary32.val (c.elem b.toNat 32 i))
      { v := z.1, fl := z.2 })) ∧
    (blk ≠ 0 → down (rvWord 3#6 m b a 6#3 d) (fun i => bsenc (sc i) (c.elem b.toNat 32 i))) ∧
    (e.bits = rvWord 1#6 m b 0#5 6#3 d → b.toNat % n = 0 → d.toNat % g = 0 → ∃ t, exec (.sequencerHeadExecute h) s = .next t ∧
      VecResult s t h e rest d.toNat g 32 act (fun i => m8Decode (c.elem b.toNat 8 i)) ∧ (t.ctx h).fcsr = c.fcsr) ∧
    (blk ≠ 0 → e.bits = rvWord 2#6 m b a 6#3 d → b.toNat % n = 0 → d.toNat % g = 0 → c.fs ≠ 0 →
      ∃ t, exec (.sequencerHeadExecute h) s = .next t ∧
        VecResult s t h e rest d.toNat g 32 act (fun i => (bsdec (sc i) (c.elem b.toNat 8 i)).v) ∧ (t.ctx h).fcsr &&& c.fcsr = c.fcsr ∧
        ∀ i, i < e.vl → act i = true →
          let fl := w64 (bsdec (sc i) (c.elem b.toNat 8 i)).fl.bits
          (t.ctx h).fcsr &&& fl = fl) ∧
    (blk ≠ 0 → e.bits = rvWord 4#6 m b 0#5 6#3 d → b.toNat % g = 0 → ∃ t, exec (.sequencerHeadExecute h) s = .next t ∧
      (t.ctx h).seq = rest ∧ (t.ctx h).x = c.x ∧ (t.ctx h).fcsr = c.fcsr ∧ (∀ r, r ≠ d.toNat → (t.ctx h).getV r = c.getV r) ∧
      (∀ p, t.mem.read p = s.mem.read p) ∧ ∀ k, k < 64 →
        if k * blk < e.vl then (t.ctx h).elem d.toNat 8 k =
          bsfind (((List.range e.vl).filter (fun i => i / blk == k && act i)).map (fun i => binary32.val (c.elem b.toNat 32 i)))
        else (t.ctx h).elem d.toNat 8 k = c.elem d.toNat 8 k ∨
          (e.vtype.getLsbD 6 = true ∧ (t.ctx h).elem d.toNat 8 k = 255))) ∧
  (∀ x : Nat, x < 256 → (bsdec 0 x).v = 0 ∧ (bsdec 255 x).v = 0x7FC00000 ∧ (bsdec 127 x).v = m8Decode x) ∧
  (bsdec 127 0x80).v = 0x7FC00000 ∧ (bsdec 1 0x7F).v = 0x7F800000 ∧ (bsdec 254 0xFF).v = 0xFF800000 ∧
  (∀ y : Nat, y < 2 ^ 32 → (bsenc 0 y).v = 0 ∧ (bsenc 255 y).v = 0x80 ∧ (bsenc 127 y).v = (m8Encode true (binary32.val y)).1) ∧
  (∀ ys : List FV,
    (FV.nan false ∈ ys → bsfind ys = 255) ∧ bsfind [] = 0 ∧
    (∀ n, .inf n ∈ ys → (∀ y ∈ ys, y.isNan = false) → bsfind ys = 254) ∧
    (∀ n mm ee, ys = [.num n mm ee] → 0 < mm → 1 ≤ bsfind ys ∧ bsfind ys ≤ 254 ∧
      (bsfind ys < 254 → within mm ee (s8Exp (bsfind ys)) = true) ∧
      (1 < bsfind ys → within mm ee (s8Exp (bsfind ys - 1)) = false))) ∧
  (∀ (s : State) (h : Hart) (e : SeqEnt) (rest : List SeqEnt) (gather : Bool) (m : BitVec 1) (b a d : Reg), h < 20480 →
    HeadRuns s h e rest → VTyped e 2 1 → wfld e.vtype 2 0 = 0 → e.bits = rvWord (if gather then 1#6 else 0#6) m b a 3#3 d →
    d.toNat ≤ 30 → m = 1#1 ∨ d ≠ 0#5 →
    let c := s.ctx h
    let own (v : Word) (n : Nat) : Prop :=
      ∃ off, v = w64 (0x7F8000000000 + off) ∧ ownScratchFree { s with cur := h } off n false
    let rd (n : Nat) (v : Word) : List Byte := s.mem.readN (scratchPa h.gcore (v.toNat - 0x7F8000000000)) n
    let stops (cause : Nat) : Prop := ∃ t, exec (.sequencerHeadExecute h) s = .next t ∧ (t.ctx h).seq = c.seq ∧ (t.ctx h).v = c.v ∧
      (∀ p, t.mem.read p = s.mem.read p) ∧
      ((s.slot h).delegates c.priv false cause = true → (t.ctx h).scause = w64 cause ∧ (t.ctx h).stval = e.op1)
    (e.op1.toNat % 64 ≠ 0 → stops 4) ∧
    (e.op1.toNat % 64 = 0 → own e.op1 64 → texDesc (rd 64 e.op1) = none → stops 5) ∧
    (∀ t : TexDesc, e.op1.toNat % 64 = 0 → own e.op1 64 → texDesc (rd 64 e.op1) = some t →
      let l := min (wfld e.op2 3 0) (t.levels - 1)
      (∀ x y, x < (t.size l).1 → y < (t.size l).2 → own (t.texel l x y) 4) →
      ∃ u, exec (.sequencerHeadExecute h) s = .next u ∧
        VecResult s u h e rest d.toNat 1 32 (fun i => m == 1#1 || c.maskBit 0 i) (fun i =>
          texValue t gather (wfld e.op2 9 8) l (c.elem d.toNat 32 i) (c.elem (d.toNat + 1) 32 i) (rd 4))))

/-- R103, R104, R109, R125, R171: a held miss issues when its hold expires; an issued miss that memory answers leaves
the miss buffer and fills the one sector asked for, or all eight where two or more were, with the bytes that memory
holds there, marked poisoned where memory is. One whose party was answered within its own event and that nobody joined
brings nothing more (that such a party is answered at once is the model's choice, log entry 34). A memory
acknowledgement removes the access it answers. Nothing else of the state changes by an expiry or an acknowledgement.
R156, R159, R161, R162, R166: a walk that has one of its die's 64 walkers ends, and leaves the cluster's walk list.
One that ends well puts its translation into the cluster's L2 TLB and the L1 TLB of the access that started it, and
releases the page's fault-pending entry: every access that waited on it is marked released. One that ends in a fault
marks the access that started it, of its slot's fetch, scalar or vector access, with that access's page-fault or
access-fault cause and trap value; where it was not released it opens a fault-pending entry of the page, on which the
accesses that had joined it wait, or, where none of the 256 is free, those trap too. One that reads poison marks every
access that waits for it with cause 19. One that nobody waits for any more only leaves, and one that has no walker, or
whose read must wait, stays as it is. -/
def Obligations.FillsAndWalks : Prop :=
  ((∀ (s : State) (cl idx : Nat) (m : Miss), (s.cluster cl).misses[idx]? = some m → m.issued = false →
     exec (.missHoldExpiry cl idx) s = .next (s.setCluster cl { s.cluster cl with
       misses := setNth (s.cluster cl).misses idx { m with issued := true } })) ∧
   (∀ (s : State) (cl idx : Nat) (m : Miss), (s.cluster cl).misses[idx]? = some m → m.issued = true →
     exec (.l2FillReturn cl idx) s = .next ((s.setCluster cl { s.cluster cl with
       misses := (s.cluster cl).misses.eraseIdx idx }).fillReturn cl m)) ∧
   (∀ (s : State) (cl idx i : Nat) (m : Miss), (s.cluster cl).misses[idx]? = some m → m.issued = true → m.addr % 256 = 0 →
     m.served = false →
     m.attr.key = 0 → m.attr.zl = false → (∀ e ∈ s.clusters.ents, e.2.l2 = []) →
     ((s.cluster cl).mask (l2Slice m.addr) m.cls).testBit 0 = true → i ∈ m.brings →
     s.sealed.get none ((m.addr + 32 * i) / 32) = none →
     ∃ t l, exec (.l2FillReturn cl idx) s = .next t ∧ (t.cluster cl).line m.addr 0 = some l ∧ l.valid.getLsbD i = true ∧
       l.sector i = BitVec.ofNat 256 (leNat (s.mem.readN (m.addr + 32 * i) 32)) ∧
       l.poison.getLsbD i = s.isPoison (m.addr + 32 * i) ∧
       (t.cluster cl).misses = (s.cluster cl).misses.eraseIdx idx ∧ t.mem = s.mem ∧ t.slots = s.slots) ∧
   (∀ (s : State) (cl idx : Nat) (m : Miss), (s.cluster cl).misses[idx]? = some m → m.issued = true → m.harts = [] → m.pref = false →
     m.l1 = none → popCount 8 m.sectors.toNat ≤ 1 → exec (.l2FillReturn cl idx) s = .next (s.setCluster cl { s.cluster cl with
       misses := (s.cluster cl).misses.eraseIdx idx })) ∧
   (∀ (s : State) (k i : Nat) (l : L2Line), i < 8 → l.data.length = 8 → l.zero = false → l.key = 0 →
     s.sealed.get none ((l.addr + 32 * i) / 32) = none → l.valid.getLsbD i = false →
     (s.fillSector k l i).2.sector i = BitVec.ofNat 256 (leNat (s.mem.readN (l.addr + 32 * i) 32))) ∧
   (∀ (m : Miss) (i : Nat), i < 8 → m.sectors = 1#8 <<< i → m.brings = [i]) ∧
   (∀ (m : Miss) (i j : Nat), i < 8 → j < 8 → i ≠ j → m.sectors.getLsbD i = true → m.sectors.getLsbD j = true →
     m.brings = [0, 1, 2, 3, 4, 5, 6, 7]) ∧
   (∀ (s : State) (idx : Nat), idx < s.acks.length →
     exec (.memoryAcknowledgement idx) s = .next { s with acks := s.acks.eraseIdx idx })) ∧
  ((∀ (s u : State) (cl idx : Nat) (w : Walk) (st : Waiter) (rest : List Waiter) (r : WalkRes),
     (s.cluster cl).walks[idx]? = some w → s.hasWalker cl w = true → w.waiters = st :: rest →
     s.walkPage cl (some (s.slot st.hart)) w.satp w.cos
       { va := st.va.toNat % 2 ^ 48, acc := st.acc, priv := st.priv, sum := st.sum, mxr := st.mxr, n := st.n,
         who := some st.hart } = (u, r) →
     let gone (t : State) : Prop := ∀ x ∈ (t.cluster cl).walks, ¬(x.vpn = w.vpn ∧ x.asid = w.asid)
     let alone (x : Waiter) : Prop := ∀ y ∈ st :: rest, y.hart = x.hart → y.part = x.part → y = x
     let cause (x : Waiter) : Nat := if r = .pageFault
       then (match x.acc with | .fetch => 12 | .load | .clean => 13 | .store | .amo | .inval => 15)
       else (match x.acc with | .fetch => 1 | .load | .clean => 5 | .store | .amo | .inval => 7)
     (∀ e, r = .ok e → ∃ t, exec (.walkComplete cl idx) s = .next t ∧ gone t ∧
       (t.cluster cl).l2tlb = l2tlbAdd (u.cluster cl).l2tlb e ∧ t.mem = u.mem ∧
       (∀ f ∈ (t.cluster cl).fpend, ¬(f.vpn = w.vpn ∧ f.asid = w.asid)) ∧
       (∀ f h part, (u.cluster cl).fpend = [f] → f.vpn = w.vpn → f.asid = w.asid → f.waiters = [(h, part)] →
         (t.slot h).markFor w.vpn w.asid part = some .released) ∧
       (rest = [] → if st.acc = .fetch then (t.core st.hart.gcore).itlb = tlbAdd 32 (u.core st.hart.gcore).itlb e
         else (t.core st.hart.gcore).dtlb = tlbAdd 64 (u.core st.hart.gcore).dtlb e)) ∧
     (r = .pageFault ∨ r = .accessFault → ∃ t, exec (.walkComplete cl idx) s = .next t ∧ gone t ∧ t.mem = u.mem ∧
       (alone st → (t.slot st.hart).markFor w.vpn w.asid st.part = some (.trap (cause st) st.tv)) ∧
       (st.released = true → (t.cluster cl).fpend = (u.cluster cl).fpend) ∧
       (st.released = false → (u.cluster cl).fpend.length < 256 → (∀ x ∈ rest, x.released = false) →
         (t.cluster cl).fpend = (u.cluster cl).fpend ++
           [{ vpn := w.vpn, asid := w.asid, slot := st.hart, waiters := rest.map (fun x => (x.hart, x.part)) }]) ∧
       (st.released = false → 256 ≤ (u.cluster cl).fpend.length → ∀ x ∈ rest, alone x →
         (t.slot x.hart).markFor w.vpn w.asid x.part = some (.trap (cause x) x.tv))) ∧
     (r = .poison → ∃ t, exec (.walkComplete cl idx) s = .next t ∧ gone t ∧ t.mem = u.mem ∧ ∀ x ∈ st :: rest, alone x →
       (t.slot x.hart).markFor w.vpn w.asid x.part =
         some (.trap 19 (if x.acc = .fetch then (u.ctx x.hart).pc else x.tv))) ∧
     (r = .later → exec (.walkComplete cl idx) s = .next s)) ∧
   (∀ (s : State) (cl idx : Nat) (w : Walk), (s.cluster cl).walks[idx]? = some w →
     (s.hasWalker cl w = true → w.waiters = [] → exec (.walkComplete cl idx) s = .next (s.setCluster cl { s.cluster cl with
       walks := (s.cluster cl).walks.filter (fun x => !(x.vpn == w.vpn && x.asid == w.asid)) })) ∧
     (s.hasWalker cl w = false → exec (.walkComplete cl idx) s = .next s)))

/-- R112, R113, R310, R311: a broadcast write sets a class's fill mask in all 64 slices and leaves the other classes';
a write of a segment register takes effect at once, or, where it gives the segment a new owner, starts the zeroing of
its 16 KiB, at whose end every byte of the segment is 0, no other byte has changed and the written value stands. R307,
R308: STATE 1 written to a Free group forms it with the written ASID, launch, barrier range and cores; STATE 2 makes a
Forming group Live and STATE 3 a Live one Draining; STATE 0 frees a Draining group, and is ignored for one that still
owns a segment or a barrier that is not Free; the end of a launch drains and frees a group that owns nothing. No other
group changes. -/
def Obligations.FirmwareTables : Prop :=
  ((∀ (s : State) (who : Party) (cl cls : Nat) (m : Word), s.mayWrite who (some cl) = true → cl < 40 → cls < 16 →
     ∃ t, exec (.broadcastFillMaskWrite who cl cls m) s = .next t ∧
       (∀ i, i < 64 → (t.cluster cl).mask i cls = wfld m 15 0) ∧
       (∀ i c, c < 16 → c ≠ cls → (t.cluster cl).mask i c = (s.cluster cl).mask i c) ∧
       (∀ k, k ≠ cl → t.cluster k = s.cluster k)) ∧
   (∀ (s : State) (who : Party) (cl core seg : Nat) (v : Word), s.mayWrite who (some cl) = true → cl < 40 → core < 64 → seg < 16 →
     ((s.cluster cl).seg core seg).next = none →
     ∃ t, exec (.segmentRegisterWrite who cl core seg v) s = .next t ∧ (t.cluster cl).seg core seg =
       (if segZeroes ((s.cluster cl).seg core seg).val (v &&& 0xFFFF00FF#64)
         then { val := ((s.cluster cl).seg core seg).val, next := some (v &&& 0xFFFF00FF#64) }
         else { val := v &&& 0xFFFF00FF#64, next := none })) ∧
   (∀ (s : State) (cl core seg : Nat) (v : Word), ((s.cluster cl).seg core seg).next = some v →
     ∃ t, exec (.segmentZeroingDone cl core seg) s = .next t ∧ (t.cluster cl).seg core seg = { val := v, next := none } ∧
       (∀ i, i < 16384 → t.mem.read (scratchPa (cl * 64 + core) (seg * 16384) + i) = 0#8) ∧
       (∀ a, a < scratchPa (cl * 64 + core) (seg * 16384) ∨ scratchPa (cl * 64 + core) (seg * 16384) + 16384 ≤ a →
         t.mem.read a = s.mem.read a)) ∧
   (∀ (s : State) (who : Party) (cl cls core seg : Nat) (v : Word), s.mayWrite who (some cl) = false →
     exec (.broadcastFillMaskWrite who cl cls v) s = .next s ∧ exec (.segmentRegisterWrite who cl core seg v) s = .next s)) ∧
  ((∀ (s : State) (who : Party) (cl g : Nat) (cores v : Word), s.mayWrite who (some cl) = true → cl < 40 → g < 64 →
     ((s.cluster cl).group g).st = 0 → wfld v 2 0 = 1 →
     ∃ t, exec (.groupForm who cl g cores v) s = .next t ∧ (t.cluster cl).group g =
       { cores := cores.toNat, barn := wfld v 60 54, barb := wfld v 53 48, launch := wfld v 47 32, asid := wfld v 31 16, st := 1 } ∧
       ∀ j, j ≠ g → (t.cluster cl).group j = (s.cluster cl).group j) ∧
   (∀ (s : State) (who : Party) (cl g : Nat), s.mayWrite who (some cl) = true → cl < 40 → g < 64 →
     (((s.cluster cl).group g).st = 1 → ∃ t, exec (.groupGoLive who cl g) s = .next t ∧
       (t.cluster cl).group g = { (s.cluster cl).group g with st := 2 } ∧
       ∀ j, j ≠ g → (t.cluster cl).group j = (s.cluster cl).group j) ∧
     (((s.cluster cl).group g).st = 2 → ∃ t, exec (.groupDrain who cl g) s = .next t ∧
       (t.cluster cl).group g = { (s.cluster cl).group g with st := 3 } ∧
       ∀ j, j ≠ g → (t.cluster cl).group j = (s.cluster cl).group j) ∧
     (((s.cluster cl).group g).st = 3 → (s.cluster cl).ownsSeg g = false →
       (∀ p, p < 64 → ((s.cluster cl).group g).holds p = true → ((s.cluster cl).bar p).st = 0) →
       ∃ t, exec (.groupFree who cl g) s = .next t ∧ (t.cluster cl).group g = { (s.cluster cl).group g with st := 0 } ∧
         ∀ j, j ≠ g → (t.cluster cl).group j = (s.cluster cl).group j) ∧
     (((s.cluster cl).group g).st = 3 → (s.cluster cl).ownsSeg g = true ∨
         (∃ p, p < 64 ∧ ((s.cluster cl).group g).holds p = true ∧ ((s.cluster cl).bar p).st ≠ 0) →
       ∃ t, exec (.groupFree who cl g) s = .next t ∧ ∀ j, (t.cluster cl).group j = (s.cluster cl).group j)) ∧
   (∀ (s : State) (cl g : Nat), ((s.cluster cl).group g).st = 2 → ((s.cluster cl).group g).barn = 0 →
     (s.cluster cl).segs = Tab.empty → s.ends.contains (cl, ((s.cluster cl).group g).launch) = true →
     ∃ t, exec (.launchEndNotice cl g) s = .next t ∧ (t.cluster cl).group g = { (s.cluster cl).group g with st := 0 } ∧
       ∀ j, j ≠ g → (t.cluster cl).group j = (s.cluster cl).group j))

/-- R209, R211, R213, R313, R325: ctx.self, ctx.prio, grp.owner and grp.here write what the rules say to rd and raise
no trap; ctx.prio also sets the priority, at most 3; the owner of a scratchpad window address is the core whose
scratchpad it names, of a vault window address the core of bits 13:8 xor bits 15:14 in the vault's cluster, and other
addresses have none. ctx.yield passes the slot's turns for 8 cycles, raises the software interrupt where YIE is 1, and
changes no register and no byte; the end of a pass lets the slot issue. R137, R138, R179, R199, R378: a thread above
U-mode parks a ready Kennel entry, makes a parked one ready and empties a Failed one by a write of skennel, writes
uweight and ulaunch, and starts a scent log by a write of sscent with EN set, whose sequence numbers start from 0
where EN was clear; a thread in U-mode does none of it. -/
def Obligations.ContextRegisters : Prop :=
  ((∀ (s : State), s.Runs →
     (∀ d, ∃ t, exec (.ctxSelf d) s = .next t ∧ Retired s t (·.setX d.toNat (w64 (s.cur.slot + s.cur.core * 2 ^ 3 +
       s.cur.cl * 2 ^ 9 + s.devid * 2 ^ 15 + (if (s.ctx s.cur).light then 2 ^ 27 else 0)))) s.nextPc ∧
       (s.cur < 20480 → s.devid < 4096 → (t.xr d).toNat < 2 ^ 28)) ∧
     (∀ a d, ∃ t, exec (.ctxPrio a d) s = .next t ∧ Retired s t (fun c =>
       { c.setX d.toNat (w64 c.prio) with prio := min (s.xr a).toNat 3 }) s.nextPc) ∧
     (∀ a d, ∃ t, exec (.grpOwner a d) s = .next t ∧ Retired s t (·.setX d.toNat
       (match ownerOf s.cur.gcore (s.xr a).toNat with | some o => w64 o | none => BitVec.allOnes 64)) s.nextPc) ∧
     (∀ a d, ∃ t, exec (.grpHere a d) s = .next t ∧ Retired s t (·.setX d.toNat
       (match ownerOf s.cur.gcore (s.xr a).toNat with
         | some o => if o = s.cur.gcore then 1#64 else 0#64
         | none => 1#64)) s.nextPc) ∧
     (∃ t, exec .ctxYield s = .next t ∧ (t.slot s.cur).pass = 8 ∧ WentOn s t id ∧ (∀ p, t.mem.read p = s.mem.read p) ∧
       (∀ h, h ≠ s.cur → t.slot h = s.slot h) ∧ t.clusters = s.clusters ∧
       (t.slot s.cur).mip = (if (s.slot s.cur).skennel.getLsbD 12 then wputb (s.slot s.cur).mip 1 true else (s.slot s.cur).mip))) ∧
   (∀ (g off : Nat), (off < 0x40000 → ownerOf g (0x7F8000000000 + off) = some g ∧
       ∀ c, c < 64 → ownerOf g (0x7F0000000000 + c * 0x40000 + off) = some (g / 64 * 64 + c)) ∧
     (∀ k, k < 40 → off < 0x4000000 → ownerOf g (0x7E0000000000 + k * 0x4000000 + off) =
       some (k * 64 + (off / 2 ^ 8 % 64 ^^^ off / 2 ^ 14 % 4))) ∧
     (off < 0x7E0000000000 ∨ 0x800000000000 ≤ off → ownerOf g off = none)) ∧
   (∀ (s : State) (h : Hart), (s.slot h).pass ≠ 0 →
     exec (.issuePassExpiry h) s = .next (s.setSlot h { s.slot h with pass := 0 }))) ∧
  ((∀ (s : State), s.Runs → (s.ctx s.cur).priv ≠ .u →
     (∀ e, e < 32 → ((s.core s.cur.gcore).ken e).st = .ready → ∃ t, exec (.skennelPark e) s = .next t ∧
       (t.core s.cur.gcore).ken e = { (s.core s.cur.gcore).ken e with st := .parked } ∧
       ∀ j, j ≠ e → (t.core s.cur.gcore).ken j = (s.core s.cur.gcore).ken j) ∧
     (∀ e, e < 32 → ((s.core s.cur.gcore).ken e).st = .parked → ∃ t, exec (.skennelReady e) s = .next t ∧
       ((t.core s.cur.gcore).ken e).st = .ready ∧ ((t.core s.cur.gcore).ken e).ctx = ((s.core s.cur.gcore).ken e).ctx) ∧
     (∀ e, e < 32 → ((s.core s.cur.gcore).ken e).st = .failed → ∃ t, exec (.skennelEmptyFailed e) s = .next t ∧
       (t.core s.cur.gcore).ken e = {}) ∧
     (∀ v, ∃ t, exec (.uweightWrite false v) s = .next t ∧ t.ctx s.cur = { s.ctx s.cur with uweight := v }) ∧
     (∀ v, ∃ t, exec (.uweightWrite true v) s = .next t ∧ t.ctx s.cur = { s.ctx s.cur with ulaunch := v &&& 0xFFFF#64 }) ∧
     (∀ v, v.getLsbD 0 = true → ∃ t, exec (.scentEnable v) s = .next t ∧
       (t.core s.cur.gcore).sscent.getLsbD 0 = true ∧
       ((s.core s.cur.gcore).sscent.getLsbD 0 = false → (t.core s.cur.gcore).scentSeq = 0))) ∧
   (∀ (s : State) (e : Nat) (b : Bool) (v : Word), (s.ctx s.cur).priv = .u →
     exec (.skennelPark e) s = .next s ∧ exec (.skennelReady e) s = .next s ∧ exec (.skennelEmptyFailed e) s = .next s ∧
     exec (.uweightWrite b v) s = .next s ∧ exec (.scentEnable v) s = .next s))

/-- R315, R317, R320, R404: a light record under way, one of a frontier point (FP) like any other, reaches the arrival
unit of its core unless its frontier launch withdraws it: while the rank is in transit it goes into the hold buffer,
which keeps 256 messages, and waits in the network where that is full; else it is appended to the queue where the ring
is empty and the queue holds fewer than 32, is written at the next slot of the ring where the ring holds records or
the queue is full and the ring has room within its vault, and is refused otherwise: its thread is told, and an
engine's record is held for its core. Its sender is told when it is taken. A record that its frontier launch withdraws
goes to its band's tracker while the launch is Stopping or Stopped, with its weight. A record held for a core is
offered again and, where it is taken, leaves the held list. R172, R173, R178, R315, R372: an empty slot of a core that
is neither halted nor in transit takes the ready Kennel entry, which leaves the Kennel, where only a Kennel entry has
work, or both have and the arrival queue went last, and the head of the arrival queue where only the queue has, or
both have and the Kennel went last; the core notes which it was. The light thread starts at its record's pc in U-mode
with a0 to a5, weight, launch, FP and BH from the record and every other x register 0; a record with bit 63 set is
discarded and the slot stays empty. As the head leaves, the ring's oldest record moves to the queue's tail. -/
def Obligations.RecordsReachSlots : Prop :=
  ((∀ (s : State) (cl core : Nat) (src : RecSource) (r : LightRec) (rest : List (Nat × RecSource × LightRec)), core < 64 →
     s.recs = (cl * 64 + core, src, r) :: rest → s.inTransit (cl * 64 + core) = true →
     (s.withdrawal r = .keep →
       ((s.cluster cl).hold.length < 256 → ∃ t, exec (.lightRecordArrival cl core src r) s = .next t ∧ t.recs = rest ∧
         (t.cluster cl).hold = (s.cluster cl).hold ++ [.record core src r] ∧ t.mem = s.mem ∧ t.slots = s.slots ∧
         t.cores = s.cores) ∧
       (256 ≤ (s.cluster cl).hold.length → exec (.lightRecordArrival cl core src r) s = .next s))) ∧
   (∀ (s : State) (cl core : Nat) (h : Hart) (r : LightRec) (rest : List (Nat × RecSource × LightRec)), core < 64 →
     s.recs = (cl * 64 + core, .thread h, r) :: rest → s.inTransit (cl * 64 + core) = false → (s.cluster cl).held = [] →
     (s.workAt r.lslot).st.discards = false →
     let g := cl * 64 + core
     let k := s.core g
     let off := k.roff * 65536 + 64 * ((k.ringHead + k.ringCnt) % 2 ^ (k.rsize + 8))
     let fits := k.ringCnt < 2 ^ (k.rsize + 8) ∧ off + 64 ≤ 2 ^ 26
     (s.withdrawal r = .keep → k.ringCnt = 0 → k.queue.length < 32 →
       ∃ t, exec (.lightRecordArrival cl core (.thread h) r) s = .next t ∧ t.recs = rest ∧
         (t.core g).queue = k.queue ++ [r] ∧ t.mem = s.mem ∧
         (∀ w, (s.slot h).wait = some w → w.kind = .recordSent → (t.slot h).wait = some { w with kind := .recordTaken })) ∧
     (s.withdrawal r = .keep → k.ringCnt ≠ 0 ∨ 32 ≤ k.queue.length → fits →
       ∃ t, exec (.lightRecordArrival cl core (.thread h) r) s = .next t ∧ t.recs = rest ∧ (t.core g).queue = k.queue ∧
         (t.core g).ringCnt = k.ringCnt + 1 ∧ Wrote s t (vaultPa k.rvault off) (recBytes r)) ∧
     (s.withdrawal r = .keep → k.ringCnt ≠ 0 ∨ 32 ≤ k.queue.length → ¬fits →
       ∃ t, exec (.lightRecordArrival cl core (.thread h) r) s = .next t ∧ t.recs = rest ∧ t.mem = s.mem ∧ t.cores = s.cores ∧
         (∀ w, (s.slot h).wait = some w → w.kind = .recordSent → (t.slot h).wait = some { w with kind := .recordRefused })) ∧
     (∀ c e, s.withdrawal r = .hold c e → ∃ t, exec (.lightRecordArrival cl core (.thread h) r) s = .next t ∧ t.recs = rest ∧
       (t.trk c e).withdrawn = (s.trk c e).withdrawn ++ [r] ∧ (t.trk c e).weight = (s.trk c e).weight + r.weight ∧
       t.cores = s.cores ∧ t.mem = s.mem)) ∧
   (∀ (s : State) (cl core u : Nat) (r : LightRec) (rest : List (Nat × RecSource × LightRec)), core < 64 →
     s.recs = (cl * 64 + core, .engine cl u, r) :: rest → s.inTransit (cl * 64 + core) = false → (s.cluster cl).held = [] →
     (s.workAt r.lslot).st.discards = false → s.withdrawal r = .keep →
     (s.core (cl * 64 + core)).ringCnt = 2 ^ ((s.core (cl * 64 + core)).rsize + 8) →
     ∃ t, exec (.lightRecordArrival cl core (.engine cl u) r) s = .next t ∧ t.recs = rest ∧
       (t.cluster cl).held = [(core, .engine cl u, r)] ∧ t.cores = s.cores ∧ t.mem = s.mem) ∧
   (∀ (s : State) (cl core : Nat) (r : LightRec), core < 64 → (s.cluster cl).held = [(core, .dispatch, r)] →
     s.inTransit (cl * 64 + core) = false → (s.workAt r.lslot).st.discards = false → s.withdrawal r = .keep →
     (s.core (cl * 64 + core)).ringCnt = 0 → (s.core (cl * 64 + core)).queue.length < 32 →
     ∃ t, exec (.recordReoffer cl) s = .next t ∧ (t.cluster cl).held = [] ∧
       (t.core (cl * 64 + core)).queue = (s.core (cl * 64 + core)).queue ++ [r] ∧ t.mem = s.mem)) ∧
  ((∀ (s : State) (cl core i : Nat) (h : Hart), (s.core (cl * 64 + core)).halted = false → s.inTransit (cl * 64 + core) = false →
     s.freeSlot (cl * 64 + core) = some h → (s.core (cl * 64 + core)).readyEntry = some i →
     (s.core (cl * 64 + core)).queue = [] ∨ (s.core (cl * 64 + core)).fromQueue = true →
     ∃ t, exec (.slotFill cl core) s = .next t ∧
       (t.slot h).ctx = some (((s.core (cl * 64 + core)).ken i).ctx.getD {}).enter ∧ (t.core (cl * 64 + core)).ken i = {} ∧
       (t.core (cl * 64 + core)).queue = (s.core (cl * 64 + core)).queue ∧ (t.core (cl * 64 + core)).fromQueue = false ∧
       t.mem = s.mem ∧ ∀ j, j ≠ h → t.slot j = s.slot j) ∧
   (∀ (s : State) (cl core : Nat) (h : Hart) (r : LightRec) (rest : List LightRec),
     let g := cl * 64 + core
     let k := s.core g
     let a := vaultPa k.rvault (k.roff * 65536 + 64 * (k.ringHead % 2 ^ (k.rsize + 8)))
     k.halted = false → s.inTransit g = false → s.freeSlot g = some h →
     k.readyEntry = none ∨ k.fromQueue = false → k.queue = r :: rest → s.soft = [] →
     (r.bad = false →
       ∃ t c, exec (.slotFill cl core) s = .next t ∧ (t.slot h).ctx = some c ∧ (t.core g).fromQueue = true ∧
         (∀ j, (t.core g).ken j = k.ken j) ∧ t.mem = s.mem ∧
         (k.ringCnt = 0 → (t.core g).queue = rest) ∧
         (k.ringCnt ≠ 0 → rest.length = 31 → s.poisonIn a 64 = none →
           (t.core g).queue = rest ++ [lightOf (s.mem.readN a 64)] ∧ (t.core g).ringCnt = k.ringCnt - 1 ∧
           (t.core g).ringHead = (k.ringHead + 1) % 2 ^ (k.rsize + 8)) ∧
         c.pc = sextW r.pc 48 ∧ c.priv = .u ∧ c.light = true ∧ c.fp = r.fp ∧ c.bh = r.bh ∧ c.uweight = w64 r.weight ∧
         c.ulaunch = w64 r.lslot ∧ c.satp = (s.workAt r.lslot).satp ∧ (∀ i, i < 6 → c.getX (10 + i) = nth r.a i 0#64) ∧
         (∀ i, i < 10 ∨ 16 ≤ i → c.getX i = 0#64)) ∧
     (r.bad = true → k.ringCnt = 0 →
       ∃ t, exec (.slotFill cl core) s = .next t ∧ t.slots = s.slots ∧ (t.core g).queue = rest ∧ t.mem = s.mem)))

/-- R314, R317, R322: grp.spawn and grp.spawnat, with an entry point that is not null, canonical and even, a launch
slot below 4,096 and weight to halve, release and send a record with half the weight to this core or to the owner of
x[rs2]; an accepted record takes half of uweight and the instruction retires, and a refused one raises cause 48 with
x[rs2]. A null or non-canonical entry point raises cause 1 and an odd one cause 0, each with it; a launch slot of
4,096 or more raises cause 30 with code 5, and too little weight cause 29 with uweight. R210, R317, R323, R324, R214:
grp.go of a heavy thread, or to the own core, only releases; of a light thread it sends the thread's record to the
owner, and when that is taken the slot is empty, and when it is refused the thread takes cause 48 with x[rs1].
ctx.exit and grp.exit of a light thread whose suspension waits no more, and of a heavy one whose waits are over, empty
the slot and return the thread's weight to its launch's collector. -/
def Obligations.SpawnMoveAndExit : Prop :=
  ((∀ (s : State) (b a : Reg), s.Runs → (s.slot s.cur).wait = none → s.xr a ≠ 0#64 → canonical (s.xr a).toNat = true →
     (s.xr a).getLsbD 0 = false → (s.ctx s.cur).ulaunch.toNat < 4096 → 2 ≤ (s.ctx s.cur).uweight.toNat →
     s.performed s.cur true true 2 = true →
     let r : LightRec := { pc := wfld (s.xr a) 47 0, lslot := wfld (s.ctx s.cur).ulaunch 11 0, rx := false, fp := false, bh := false,
                           bad := false, weight := (s.ctx s.cur).uweight.toNat / 2,
                           a := s.xr b :: (List.range 5).map (fun i => (s.ctx s.cur).getX (11 + i)) }
     (∃ t, exec (.grpSpawn b a) s = .next t ∧ t.recs = s.recs ++ [(s.cur.gcore, .thread s.cur, r)] ∧ t.ctx s.cur = s.ctx s.cur ∧
       (t.slot s.cur).wait.map (·.kind) = some .recordSent) ∧
     (∃ t, exec (.grpSpawnat b a) s = .next t ∧
       t.recs = s.recs ++ [((ownerOf s.cur.gcore (s.xr b).toNat).getD s.cur.gcore, .thread s.cur, r)] ∧
       t.ctx s.cur = s.ctx s.cur ∧ (t.slot s.cur).wait.map (·.kind) = some .recordSent)) ∧
   (∀ (s : State) (b a : Reg) (m : WaitMark) (i : Instr), i = .grpSpawn b a ∨ i = .grpSpawnat b a → s.Runs →
     (s.slot s.cur).wait = some m →
     (m.kind = .recordTaken → ∃ t, exec i s = .next t ∧ Retired s t (fun c =>
       { c with uweight := c.uweight - w64 (c.uweight.toNat / 2) }) s.nextPc) ∧
     (m.kind = .recordRefused → exec i s = .next (s.trapped 48 (s.xr b)))) ∧
   (∀ (s : State) (b a : Reg) (i : Instr), i = .grpSpawn b a ∨ i = .grpSpawnat b a → s.Runs → (s.slot s.cur).wait = none →
     (s.xr a = 0#64 ∨ canonical (s.xr a).toNat = false → exec i s = .next (s.trapped 1 (s.xr a))) ∧
     (s.xr a ≠ 0#64 → canonical (s.xr a).toNat = true →
       ((s.xr a).getLsbD 0 = true → exec i s = .next (s.trapped 0 (s.xr a))) ∧
       ((s.xr a).getLsbD 0 = false → 4096 ≤ (s.ctx s.cur).ulaunch.toNat → exec i s = .next (s.trapped 30 5#64)) ∧
       ((s.xr a).getLsbD 0 = false → (s.ctx s.cur).ulaunch.toNat < 4096 → (s.ctx s.cur).uweight.toNat < 2 →
         exec i s = .next (s.trapped 29 (s.ctx s.cur).uweight))))) ∧
  ((∀ (s : State) (a : Reg), s.Runs → (s.slot s.cur).wait = none → s.performed s.cur true true 2 = true →
     (s.ctx s.cur).light = false ∨ ownerOf s.cur.gcore (s.xr a).toNat = some s.cur.gcore ∨
       ownerOf s.cur.gcore (s.xr a).toNat = none →
     ∃ t, exec (.grpGo a) s = .next t ∧ Retired s t id s.nextPc) ∧
   (∀ (s u : State) (a : Reg) (o : Nat), s.Runs → (s.slot s.cur).wait = none → (s.ctx s.cur).light = true →
     ownerOf s.cur.gcore (s.xr a).toNat = some o → o ≠ s.cur.gcore → suspend s.begun = .ok () u →
     ∃ t, exec (.grpGo a) s = .next t ∧
       t.recs = u.recs ++ [(o, .thread u.cur, (u.ctx u.cur).record ((u.ctx u.cur).pc + 4#64) true)]) ∧
   (∀ (s : State) (a : Reg) (m : WaitMark), s.Runs → (s.slot s.cur).wait = some m →
     (m.kind = .recordTaken → ∃ t, exec (.grpGo a) s = .next t ∧ (t.slot s.cur).ctx = none ∧ (t.slot s.cur).wait = none) ∧
     (m.kind = .recordRefused → exec (.grpGo a) s = .next (s.trapped 48 (s.xr a)))) ∧
   (∀ (s u : State) (i : Instr), s.Runs → i = .ctxExit ∨ i = .grpExit →
     ((s.ctx s.cur).light = true ∧ suspend s.begun = .ok () u ∨ (s.ctx s.cur).light = false ∧
       (settleAll >>= fun _ => readyChans (List.range 8) >>= fun _ => suspendNow) s.begun = .ok () u) →
     ∃ t, exec i s = .next t ∧ (t.slot u.cur).ctx = none ∧
       t.wmsgs = u.wmsgs ++ [{ slot := wfld (u.ctx u.cur).ulaunch 15 0,
                               gen := (u.workAt (wfld (u.ctx u.cur).ulaunch 15 0)).gen, amount := (u.ctx u.cur).uweight.toNat }]))

/-- R326 to R334, R338: on a barrier that the thread names and owns, with nobody waiting at it, bar.init arms a Free
one and writes 0, and writes 1 for one that is not Free; bar.arrive counts the thread and writes the phase before;
bar.drop counts it out; bar.test writes the phase, Broken and whether the token has passed; bar.free frees it and
writes 0, and writes 1 and changes nothing where the barrier is Armed and busy. The phase completes with the last
arrival, or with a drop that leaves as many parties as have arrived, and a barrier whose last party drops is Drained.
Nothing else of the machine changes. R326 to R328, R334, R337, R338: a bar instruction on a number outside the group's
range traps with cause 30 and value 6; one on a Free barrier, and an arrival or a drop on a Drained or Broken one,
with value 7; one on a barrier of another owner with value 8; and bar.init with a count of 0 with value 9. An arrival
is bar.arrive, and bar.sync with bit 63 of x[rd] clear. A bar.sync whose rd field is 0 is an illegal instruction. -/
def Obligations.Barriers : Prop :=
  ((∀ (s : State) (a b d : Reg) (p : Nat), s.Runs →
     (s.cluster s.cur.cl).physBar (s.ctx s.cur).svault (wfld (s.xr a) 5 0) = some p →
     let x := (s.cluster s.cur.cl).bar p
     let wr (y : Bar) : State := s.modCluster s.cur.cl (·.setBar p y)
     (wfld (s.xr b) 23 0 ≠ 0 → x.st = barFreeSt → ∃ t, exec (.barInit b a d) s = .next t ∧
       Retired (wr { st := barArmed, g := wbit (s.ctx s.cur).svault 7, grp := wfld (s.ctx s.cur).svault 5 0,
                     count := wfld (s.xr b) 23 0, asid := (s.ctx s.cur).asid,
                     launch := wfld (s.ctx s.cur).ulaunch 15 0 }) t (·.setX d.toNat 0#64) s.nextPc) ∧
     (wfld (s.xr b) 23 0 ≠ 0 → x.st ≠ barFreeSt → ∃ t, exec (.barInit b a d) s = .next t ∧
       Retired s t (·.setX d.toNat 1#64) s.nextPc) ∧
     (x.st = barArmed → x.owned (s.ctx s.cur) = true → s.performed s.cur true true 1 = true → s.barBusy s.cur.cl p = false →
       (∃ t, exec (.barArrive a d) s = .next t ∧ Retired (wr x.arrive) t (·.setX d.toNat (w64 x.phase)) s.nextPc) ∧
       (∃ t, exec (.barDrop a) s = .next t ∧ Retired (wr x.drop) t id s.nextPc)) ∧
     (x.st ≠ barFreeSt → x.owned (s.ctx s.cur) = true →
       (∃ t, exec (.barTest b a d) s = .next t ∧ Retired s t (·.setX d.toNat (w64 (x.phase * 2 ^ 32 +
         (if x.st = barBroken then 2 else 0) + (if x.passed (wfld (s.xr b) 31 0) then 1 else 0)))) s.nextPc) ∧
       (¬(x.st = barArmed ∧ s.barBusy s.cur.cl p = true) →
         ∃ t, exec (.barFree a d) s = .next t ∧ Retired (wr { x with st := barFreeSt }) t (·.setX d.toNat 0#64) s.nextPc) ∧
       (x.st = barArmed → s.barBusy s.cur.cl p = true →
         ∃ t, exec (.barFree a d) s = .next t ∧ Retired s t (·.setX d.toNat 1#64) s.nextPc))) ∧
   (∀ x : Bar, x.arrived + 1 = x.count → x.arrive = { x with arrived := 0, phase := (x.phase + 1) % 2 ^ 32 }) ∧
   (∀ x : Bar, x.arrived + 1 ≠ x.count → x.arrive = { x with arrived := x.arrived + 1 }) ∧
   (∀ x : Bar, x.count = 1 → x.drop = { x with st := barDrained, count := 0, arrived := 0, phase := (x.phase + 1) % 2 ^ 32 }) ∧
   (∀ x : Bar, 1 < x.count → x.arrived + 1 < x.count → x.drop = { x with count := x.count - 1 }) ∧
   (∀ x : Bar, 1 < x.count → x.count ≤ x.arrived + 1 →
     x.drop = { x with count := x.count - 1, arrived := 0, phase := (x.phase + 1) % 2 ^ 32 })) ∧
  (∀ (s : State) (a b d : Reg), s.Runs →
     let fresh (i : Instr) : Prop := (i = .barWait b a d ∨ i = .barSync a d ∧ d ≠ 0#5) ∧ (s.slot s.cur).wait = none
     let arrives (i : Instr) : Prop := i = .barArrive a d ∨ i = .barDrop a ∨ (i = .barSync a d ∧ fresh i ∧ (s.xr d).getLsbD 63 = false)
     ((s.cluster s.cur.cl).physBar (s.ctx s.cur).svault (wfld (s.xr a) 5 0) = none →
       (∀ i ∈ [Instr.barInit b a d, .barArrive a d, .barDrop a, .barTest b a d, .barFree a d], exec i s = .next (s.trapped 30 6#64)) ∧
       (∀ i, fresh i → exec i s = .next (s.trapped 30 6#64))) ∧
     (∀ p, (s.cluster s.cur.cl).physBar (s.ctx s.cur).svault (wfld (s.xr a) 5 0) = some p →
       (wfld (s.xr b) 23 0 = 0 → exec (.barInit b a d) s = .next (s.trapped 30 9#64)) ∧
       (∀ i, i = .barTest b a d ∨ i = .barFree a d ∨ arrives i ∨ fresh i →
         (((s.cluster s.cur.cl).bar p).st = barFreeSt → exec i s = .next (s.trapped 30 7#64)) ∧
         (((s.cluster s.cur.cl).bar p).st = barArmed → ((s.cluster s.cur.cl).bar p).owned (s.ctx s.cur) = false →
           exec i s = .next (s.trapped 30 8#64))) ∧
       (((s.cluster s.cur.cl).bar p).st = barDrained ∨ ((s.cluster s.cur.cl).bar p).st = barBroken →
         (∀ i, arrives i → exec i s = .next (s.trapped 30 7#64)) ∧
         (∀ i, i = .barTest b a d ∨ i = .barFree a d ∨ (fresh i ∧ ¬arrives i) →
           ((s.cluster s.cur.cl).bar p).owned (s.ctx s.cur) = false → exec i s = .next (s.trapped 30 8#64)))) ∧
     exec (.barSync a 0#5) s = .next (s.trapped 2 (s.ibits.setWidth 64)))

/-- R331, R335 to R338: bar.wait and a bar.sync that has arrived write 0 for a token that has passed, 1 for one that
has not at a Broken barrier and 2 at a Drained one; a bar.sync whose arrival completes the phase goes on with 0, and
any other arrival of bar.sync counts the thread and leaves 2^63 plus the phase in rd. Where the token has not passed,
a heavy thread, and a light one while the park store is full, waits in its slot on the barrier and the token recorded,
at a later turn too; a light one for which the park store has room frees, closes and drops as grp.go does, parks its
record with RX 0 and leaves its slot, at once or when an entry becomes free. The arrival, or the drop, that completes
a phase tells every waiting slot of its cluster. -/
def Obligations.BarrierWaits : Prop :=
  (∀ (s : State) (a b d : Reg) (p : Nat), s.Runs → (s.slot s.cur).wait = none →
    (s.cluster s.cur.cl).physBar (s.ctx s.cur).svault (wfld (s.xr a) 5 0) = some p →
    let x := (s.cluster s.cur.cl).bar p
    let parked (c : Ctx) (tok : Nat) : Parked :=
      { bar := p, core := s.cur.core, tok := tok, rd := d.toNat, light := c.record (c.pc + 4#64) false }
    x.st ≠ barFreeSt → x.owned (s.ctx s.cur) = true →
    (∀ i tok, (i = .barWait b a d ∧ tok = wfld (s.xr b) 31 0) ∨
        (i = .barSync a d ∧ d ≠ 0#5 ∧ (s.xr d).getLsbD 63 = true ∧ tok = wfld (s.xr d) 31 0) →
      (∀ st, x.status tok = some st → ∃ t, exec i s = .next t ∧ Retired s t (·.setX d.toNat (w64 st)) s.nextPc) ∧
      (x.status tok = none → (s.ctx s.cur).light = false ∨ 256 ≤ (s.cluster s.cur.cl).park.length →
        ∃ t, exec i s = .next t ∧ t.ctx s.cur = s.ctx s.cur ∧ t.clusters = s.clusters ∧ (∀ q, t.mem.read q = s.mem.read q) ∧
          (∀ h, h ≠ s.cur → t.slot h = s.slot h) ∧
          (t.slot s.cur).wait.map (fun w => (w.kind, w.a, w.b)) = some (.barrier, p, tok)) ∧
      (∀ u, x.status tok = none → (s.ctx s.cur).light = true → (s.cluster s.cur.cl).park.length < 256 →
        (setWait (some { kind := .barrier, a := p, b := tok }) >>= fun _ => suspend) s.begun = .ok () u →
        ∃ t, exec i s = .next t ∧ (t.slot u.cur).ctx = none ∧ t.mem = u.mem ∧
          (t.cluster u.cur.cl).park = (u.cluster u.cur.cl).park ++ [{ parked (s.ctx s.cur) tok with core := u.cur.core }])) ∧
    (d ≠ 0#5 → (s.xr d).getLsbD 63 = false → x.st = barArmed → s.performed s.cur true true 1 = true →
      s.barBusy s.cur.cl p = false →
      (x.arrived + 1 = x.count → ∃ t, exec (.barSync a d) s = .next t ∧
        Retired (s.modCluster s.cur.cl (·.setBar p x.arrive)) t (·.setX d.toNat 0#64) s.nextPc) ∧
      (x.arrived + 1 ≠ x.count → (s.ctx s.cur).light = false ∨ 256 ≤ (s.cluster s.cur.cl).park.length →
        ∃ t, exec (.barSync a d) s = .next t ∧ t.ctx s.cur = (s.ctx s.cur).setX d.toNat (w64 (2 ^ 63 + x.phase)) ∧
          (t.cluster s.cur.cl).bar p = x.arrive ∧ (∀ q, q ≠ p → (t.cluster s.cur.cl).bar q = (s.cluster s.cur.cl).bar q) ∧
          (∀ q, t.mem.read q = s.mem.read q) ∧
          (t.slot s.cur).wait.map (fun w => (w.kind, w.a, w.b)) = some (.barrier, p, x.phase % 2 ^ 32)) ∧
      (x.arrived + 1 ≠ x.count → (s.ctx s.cur).light = true → (s.cluster s.cur.cl).park.length < 256 →
        (s.ctx s.cur).seq = [] → (s.ctx s.cur).claimed = [] → (∀ n, n < 8 → ((s.ctx s.cur).chan n).st = .closed) →
        s.performed s.cur true true 2 = true →
        ∃ t, exec (.barSync a d) s = .next t ∧ (t.slot s.cur).ctx = none ∧ (t.cluster s.cur.cl).bar p = x.arrive ∧
          (∀ q, t.mem.read q = s.mem.read q) ∧ (∀ h, h ≠ s.cur → t.ctx h = s.ctx h) ∧
          (t.cluster s.cur.cl).park = (s.cluster s.cur.cl).park ++
            [parked ((s.ctx s.cur).setX d.toNat (w64 (2 ^ 63 + x.phase))) (x.phase % 2 ^ 32)]))) ∧
  (∀ (s : State) (a b d : Reg) (m : WaitMark) (i : Instr), s.Runs → (s.slot s.cur).wait = some m →
    i = .barWait b a d ∨ i = .barSync a d ∧ d ≠ 0#5 →
    (m.kind = .barDone → ∃ t, exec i s = .next t ∧ Retired s t (·.setX d.toNat (w64 m.b)) s.nextPc) ∧
    (m.kind = .barrier → ((s.cluster s.cur.cl).bar m.a).status m.b = none →
      (s.ctx s.cur).light = false ∨ 256 ≤ (s.cluster s.cur.cl).park.length →
      ∃ t, exec i s = .next t ∧ t.ctx s.cur = s.ctx s.cur ∧ t.clusters = s.clusters ∧ (∀ q, t.mem.read q = s.mem.read q) ∧
        (t.slot s.cur).wait.map (fun w => (w.kind, w.a, w.b)) = some (.barrier, m.a, m.b))) ∧
  (∀ (s : State) (h : Hart) (m : WaitMark), (s.slot h).wait = some m → m.kind = .barrier → s.running h = true →
    (s.ctx h).light = true → (s.cluster h.cl).park.length < 256 → ((s.cluster h.cl).bar m.a).status m.b = none →
    (s.ctx h).seq = [] → (s.ctx h).claimed = [] → (∀ n, n < 8 → ((s.ctx h).chan n).st = .closed) →
    s.performed h true true 2 = true →
    ∃ t, exec (.parkStoreEntryFree h) s = .next t ∧ (t.slot h).ctx = none ∧ (∀ q, t.mem.read q = s.mem.read q) ∧
      (t.cluster h.cl).park = (s.cluster h.cl).park ++
        [{ bar := m.a, core := h.core, tok := m.b, rd := (fRd m.bits).toNat, light := (s.ctx h).record ((s.ctx h).pc + 4#64) false }]) ∧
  (∀ (s : State) (a d : Reg) (p : Nat) (h : Hart) (w : WaitMark) (i : Instr), s.Runs →
    (s.cluster s.cur.cl).physBar (s.ctx s.cur).svault (wfld (s.xr a) 5 0) = some p →
    ((s.cluster s.cur.cl).bar p).st = barArmed → ((s.cluster s.cur.cl).bar p).owned (s.ctx s.cur) = true →
    s.performed s.cur true true 1 = true →
    (i = .barArrive a d ∧ ((s.cluster s.cur.cl).bar p).arrived + 1 = ((s.cluster s.cur.cl).bar p).count) ∨
      (i = .barDrop a ∧ ((s.cluster s.cur.cl).bar p).count ≤ ((s.cluster s.cur.cl).bar p).arrived + 1) →
    ((s.cluster s.cur.cl).bar p).phase < 2 ^ 32 →
    h ≠ s.cur → h / 512 = s.cur.cl → (s.slot h).wait = some w → w.kind = .barrier → w.a = p →
    w.b = ((s.cluster s.cur.cl).bar p).phase →
    ∃ t, exec i s = .next t ∧ (t.slot h).wait = some { w with kind := .barDone, b := 0 })

/-- R210, R317: on a 64-byte aligned cell of the own scratchpad, ctx.sleep consumes a pending wake and goes on, goes
on past a cell that holds a record, waits in its slot with a heavy thread and leaves the cell alone, and with a light
one writes the thread's record to the cell and empties the slot. ctx.wake leaves 1 in a cell that holds no record and
gives 0; it takes a parked record out of the cell and sends it, and gives 1 once it is accepted; where it is refused
the record is back in the cell, once that is empty, and the instruction raises cause 48 (that the cell is emptied when
the record is sent and the record put back when it is refused is the model's reading, DEDUCED, log entry 24). A heavy
sleeper that was touched goes on. A cell that is not aligned raises cause 7. R202, R212: ctx.ckpt stores the thread's
image at a 64-byte aligned address with the header last, and when its stores are performed writes the next checkpoint
number to rd and to the thread's checkpoint register; an address that is not aligned raises cause 6. -/
def Obligations.SleepAndCheckpoint : Prop :=
  ((∀ (s : State) (a d : Reg) (off : Nat), s.Runs → s.cur < 20480 → (s.slot s.cur).wait = none →
     (s.ctx s.cur).queuedMem true true = false → s.xr a = w64 (0x7F8000000000 + off) → off % 64 = 0 →
     ownScratchFree s off 64 true →
     let pa := scratchPa s.cur.gcore off
     let cell := leNat (s.mem.readN pa 8)
     (cell = 1 → ∃ t, exec (.ctxSleep a) s = .next t ∧ (∀ i, i < 8 → t.mem.read (pa + i) = 0#8) ∧
       (∀ p, p < pa ∨ pa + 8 ≤ p → t.mem.read p = s.mem.read p) ∧ (∀ r, t.xr r = s.xr r) ∧ (t.ctx s.cur).pc = s.nextPc) ∧
     (2 ≤ cell → ∃ t, exec (.ctxSleep a) s = .next t ∧ WentOn s t id ∧ (∀ p, t.mem.read p = s.mem.read p) ∧
       t.clusters = s.clusters) ∧
     (cell = 0 → (s.ctx s.cur).light = false → ∃ t, exec (.ctxSleep a) s = .next t ∧ t.ctx s.cur = s.ctx s.cur ∧
       (∀ p, t.mem.read p = s.mem.read p) ∧ (t.slot s.cur).wait.map (fun w => (w.kind, w.a)) = some (.sleeping, pa)) ∧
     (cell = 0 → (s.ctx s.cur).light = true → suspendReady s.begun = .ok () s.begun →
       ∃ t, exec (.ctxSleep a) s = .next t ∧ (t.slot s.cur).ctx = none ∧
         (∀ i, i < 64 → t.mem.read (pa + i) =
           (recBytes ((s.ctx s.cur).record ((s.ctx s.cur).pc + 4#64) false)).getD i 0#8) ∧
         (∀ p, p < pa ∨ pa + 64 ≤ p → t.mem.read p = s.mem.read p)) ∧
     (s.performed s.cur true true 2 = true →
       (cell < 2 → ∃ t, exec (.ctxWake a d) s = .next t ∧ t.mem.read pa = 1#8 ∧ (∀ i, 1 ≤ i → i < 8 → t.mem.read (pa + i) = 0#8) ∧
         (∀ p, p < pa ∨ pa + 8 ≤ p → t.mem.read p = s.mem.read p) ∧ t.xr d = 0#64 ∧ (∀ r, r ≠ d → t.xr r = s.xr r)) ∧
       (2 ≤ cell → ∃ t, exec (.ctxWake a d) s = .next t ∧ (∀ i, i < 8 → t.mem.read (pa + i) = 0#8) ∧
         (∀ p, p < pa ∨ pa + 8 ≤ p → t.mem.read p = s.mem.read p) ∧ t.ctx s.cur = s.ctx s.cur ∧
         t.recs = s.recs ++ [(s.cur.gcore, .thread s.cur, lightOf (s.mem.readN pa 64))] ∧
         (t.slot s.cur).wait.map (fun w => (w.kind, w.a, w.cell)) = some (.recordSent, pa, s.mem.readN pa 64)))) ∧
   (∀ (s : State) (a d : Reg) (m : WaitMark), s.Runs → (s.slot s.cur).wait = some m → m.kind = .recordTaken →
     ∃ t, exec (.ctxWake a d) s = .next t ∧ Retired s t (·.setX d.toNat 1#64) s.nextPc) ∧
   (∀ (s u : State) (a d : Reg) (m : WaitMark) (bs : List Byte), s.Runs → (s.slot s.cur).wait = some m → m.kind = .recordRefused →
     let cell : Target := { a := m.a, sram := isSram m.a, attr := m.attr }
     (s.peek8 s.cur.cl cell = 0 → cellAtomic (s.xr a) cell 64 (fun _ => some m.cell) s.begun = .ok bs u →
       exec (.ctxWake a d) s = .next ((u.takeTrap u.cur false 48 (s.xr a)).passCycles u.cur.gcore)) ∧
     (s.peek8 s.cur.cl cell ≠ 0 → exec (.ctxWake a d) s = .next s.waited)) ∧
   (∀ (s : State) (h : Hart) (m : WaitMark), (s.slot h).wait = some m → m.kind = .woken → s.running h = true →
     s.peek8 h.cl { a := m.a, sram := isSram m.a, attr := m.attr } ≠ 1 →
     ∃ t, exec (.sleeperWake h) s = .next t ∧
       Retired { s with cur := h, ilen := m.len } t id { s with cur := h, ilen := m.len }.nextPc) ∧
   (∀ (s : State) (a d : Reg), s.Runs → (s.slot s.cur).wait = none → (s.ctx s.cur).queuedMem true true = false →
     (s.xr a).toNat % 64 ≠ 0 →
     exec (.ctxSleep a) s = .next (s.trapped 7 (s.xr a)) ∧ exec (.ctxWake a d) s = .next (s.trapped 7 (s.xr a)))) ∧
  ((∀ (s : State) (a d : Reg) (m : WaitMark), s.Runs → (s.slot s.cur).wait = some m → m.kind = .posted →
     s.performed s.cur true true 2 = true →
     ∃ t, exec (.ctxCkpt a d) s = .next t ∧ Retired s t (fun c =>
       { c with ckpt := c.ckpt + 1#64 }.setX d.toNat (c.ckpt + 1#64)) s.nextPc) ∧
   (∀ (s u v : State) (a d : Reg) (vset : Bool), s.Runs → (s.slot s.cur).wait = none → (s.xr a).toNat % 64 = 0 →
     settleAll s.begun = .ok () s.begun →
     let c := s.ctx s.cur
     let img := { c with pc := c.pc + 4#64, ckpt := c.ckpt + 1#64 }.setX d.toNat (c.ckpt + 1#64)
     let k := s.core s.cur.gcore
     vset = (match s.begun.peekCode s.cur.gcore (identOf c c.priv s.cur) c.satp (c.pc + 4#64).toNat with
       | some w => isVset w
       | none => false) →
     storeBlocks (c.blockInj s.injected) 0 (s.xr a + 64#64) (k.imageBlocks img) s.begun = .ok () u →
     storeBytes (s.xr a) (img.header (img.flags true vset + b2n (k.imagePois c) * 2 ^ 14)) u = .ok () v →
     v.performed v.cur true true 2 = true →
     ∃ t, exec (.ctxCkpt a d) s = .next t ∧ (∀ p, t.mem.read p = v.mem.read p) ∧ (t.ctx v.cur).ckpt = c.ckpt + 1#64) ∧
   (∀ (s : State) (a d : Reg), s.Runs → (s.slot s.cur).wait = none → (s.xr a).toNat % 64 ≠ 0 →
     exec (.ctxCkpt a d) s = .next (s.trapped 6 (s.xr a))))

/-- R367, R383 to R387: krn.launch of a 64-byte aligned descriptor that is refused writes 2^63 plus the lowest reason,
and of one accepted the handle of the entry it took; krn.cancel gives 3 for a handle that names nothing, starts the
sweep of a Starting or Running launch with cause 4 and gives 0 when it has ended, though its slot has been taken
again, and gives 1 or 2 for one that had ended; krn.count and krn.wait give 6 for a handle that names nothing and else
the state word, krn.wait once the launch has ended, and acquire where it is Complete; krn.borrow sends its addition
and, when that is performed, adds 2^32 to uweight. -/
def Obligations.KernelInstructions : Prop :=
  (∀ (s : State) (a d : Reg), s.Runs → (s.xr a).toNat % 64 ≠ 0 → exec (.krnLaunch a d) s = .next (s.trapped 4 (s.xr a))) ∧
  (∀ (s u v : State) (a d : Reg) (bs : List Byte), s.Runs → (s.xr a).toNat % 64 = 0 →
    (s.ctx s.cur).queuedMem true true = false → loadBytes (s.xr a) 128 s.begun = .ok bs u →
    probeSig (dscSig bs) u = .ok () v →
    (∀ r, v.krnRefusal bs (v.ctx v.cur).asid = some r →
      exec (.krnLaunch a d) s = .next (v.putX d (w64 (2 ^ 63 + r))).retire) ∧
    (∀ k w, v.krnRefusal bs (v.ctx v.cur).asid = none → v.performed v.cur true true 2 = true →
      v.acceptWork bs (identOf (v.ctx v.cur) (v.ctx v.cur).priv v.cur) (v.ctx v.cur).satp v.cur.gcore
        (v.workAt (wfld (v.ctx v.cur).ulaunch 15 0)).tag = (w, k) →
      exec (.krnLaunch a d) s = .next (w.putX d (w64 ((w.workAt k).handle k))).retire)) ∧
  (∀ (s w : State) (bs : List Byte) (i : Ident) (satp : Word) (g k n : Nat) (tag : Option Nat),
    dscLevel bs = 0 → dscParent bs = none → s.chooseSlot 0 (dscLT bs) = some n → s.acceptWork bs i satp g tag = (w, k) →
    k = n ∧ (w.workAt k).st = .starting ∧ (w.workAt k).gen = (s.workAt k).gen + 1 ∧ (w.workAt k).asid = i.asid ∧
    (w.workAt k).count = dscCount bs ∧ (w.workAt k).issued = 2 ^ 63 ∧ (∀ j, j ≠ k → w.workAt j = s.workAt j) ∧
    w = { s with work := w.work }) ∧
  (∀ (s : State) (a d : Reg), s.Runs →
    (s.workOf (s.ctx s.cur).asid (s.xr a) = none →
      (∃ t, exec (.krnCancel a d) s = .next t ∧ Retired s t (·.setX d.toNat
        (if (s.slot s.cur).wait.map (·.kind) = some .cancel then 0#64 else 3#64)) s.nextPc) ∧
      (∃ t, exec (.krnCount a d) s = .next t ∧ Retired s t (·.setX d.toNat 6#64) s.nextPc) ∧
      (∃ t, exec (.krnWait a d) s = .next t ∧ Retired s t (·.setX d.toNat 6#64) s.nextPc)) ∧
    (∀ k, s.workOf (s.ctx s.cur).asid (s.xr a) = some k →
      let w := s.workAt k
      let u := if w.code = 3 then s.acquire s.cur.gcore else s
      (∃ t, exec (.krnCount a d) s = .next t ∧ Retired u t (·.setX d.toNat (w.word k)) s.nextPc) ∧
      (w.busy = false →
        (∃ t, exec (.krnWait a d) s = .next t ∧ Retired u t (·.setX d.toNat (w.word k)) s.nextPc) ∧
        (∃ t, exec (.krnCancel a d) s = .next t ∧ Retired s t (·.setX d.toNat
          (if (s.slot s.cur).wait.map (·.kind) = some .cancel then 0#64 else if w.outcome = 3 then 1#64 else 2#64)) s.nextPc)) ∧
      (w.busy = true → exec (.krnWait a d) s = .next s.waited ∧
        (w.st ≠ .starting → w.st ≠ .running → exec (.krnCancel a d) s = .next s.waited)) ∧
      (k < 2 ^ 16 → w.st = .starting ∨ w.st = .running →
        ∃ t, exec (.krnCancel a d) s = .next t ∧ t.workAt k = { w with st := .sweeping, cause := 4, swept := false } ∧
          (∀ j, j ≠ k → t.workAt j = s.workAt j) ∧ t.ctx s.cur = s.ctx s.cur ∧
          (t.slot s.cur).wait.map (·.kind) = some .cancel))) ∧
  (∀ (s : State) (d : Reg), s.Runs →
    ((s.slot s.cur).wait.map (·.kind) = some .borrowed → ∃ t, exec (.krnBorrow d) s = .next t ∧ Retired s t (fun c =>
      { c with uweight := c.uweight + w64 (2 ^ 32) }.setX d.toNat (c.uweight + w64 (2 ^ 32))) s.nextPc) ∧
    ((s.slot s.cur).wait = none → (s.ctx s.cur).uweight.toNat ≤ 2 ^ 64 - 1 - 2 ^ 32 →
      (s.workAt (wfld (s.ctx s.cur).ulaunch 15 0)).issued + 2 ^ 32 < 2 ^ 127 →
      ∃ t, exec (.krnBorrow d) s = .next t ∧ t.ctx s.cur = s.ctx s.cur ∧
        t.wmsgs = s.wmsgs ++ [{ slot := wfld (s.ctx s.cur).ulaunch 15 0,
                                gen := (s.workAt (wfld (s.ctx s.cur).ulaunch 15 0)).gen, borrow := some s.cur, amount := 2 ^ 32 }]) ∧
    ((s.slot s.cur).wait = none → 2 ^ 64 - 1 - 2 ^ 32 < (s.ctx s.cur).uweight.toNat →
      exec (.krnBorrow d) s = .next (s.trapped 29 (s.ctx s.cur).uweight)))

/-- R366, R372, R376, R379: a weight message leaves the list of messages and is added to what its launch has issued or
had returned; a Running launch whose returned weight equals the issued is Complete and Free, and one with more
returned than issued is swept with cause 8. A message for an entry of another generation, or for one that is Free or
Retired, adds nothing, and a borrow that it carries is answered (the model's reading, DEDUCED, log entry 26). -/
def Obligations.Collector : Prop :=
  (∀ (s : State) (m : WMsg) (rest : List WMsg) (h : Hart), s.wmsgs = m :: rest → m.borrow = some h →
    (s.workAt m.slot).gen = m.gen → (s.workAt m.slot).st ≠ .free → (s.workAt m.slot).st ≠ .retired →
    ∃ t, exec .collectorWeightMessage s = .next t ∧ t.wmsgs = rest ∧
      t.workAt m.slot = { s.workAt m.slot with issued := (s.workAt m.slot).issued + m.amount } ∧
      (∀ w, (s.slot h).wait = some w → w.kind = .borrow → (t.slot h).wait = some { w with kind := .borrowed }) ∧
      (∀ j, j ≠ m.slot → t.workAt j = s.workAt j) ∧ (∀ i, i ≠ h → t.slot i = s.slot i) ∧ t.mem = s.mem) ∧
  (∀ (s : State) (m : WMsg) (rest : List WMsg) (h : Hart), s.wmsgs = m :: rest → m.borrow = some h →
    (s.workAt m.slot).gen ≠ m.gen ∨ (s.workAt m.slot).st = .free ∨ (s.workAt m.slot).st = .retired →
    exec .collectorWeightMessage s = .next ({ s with wmsgs := rest }.answerBorrow h)) ∧
  (∀ (s : State) (m : WMsg) (rest : List WMsg), s.wmsgs = m :: rest → m.borrow = none →
    let w := s.workAt m.slot
    (w.gen ≠ m.gen ∨ w.st = .free ∨ w.st = .retired → exec .collectorWeightMessage s = .next { s with wmsgs := rest }) ∧
    (w.gen = m.gen → w.st = .running → w.returned + m.amount < w.issued →
      exec .collectorWeightMessage s =
        .next ({ s with wmsgs := rest }.setWork m.slot { w with returned := w.returned + m.amount })) ∧
    (w.gen = m.gen → w.st = .running → w.returned + m.amount = w.issued → w.sig = 0 → w.parent = none →
      ∃ t, exec .collectorWeightMessage s = .next t ∧
        t.workAt m.slot = { w with returned := w.returned + m.amount, st := .free, outcome := 3 } ∧
        (∀ j, j ≠ m.slot → t.workAt j = s.workAt j) ∧ t.wmsgs = rest ∧ t.slots = s.slots ∧ t.mem = s.mem) ∧
    (w.gen = m.gen → w.st = .running → w.issued < w.returned + m.amount → m.slot < 2 ^ 16 →
      ∃ t, exec .collectorWeightMessage s = .next t ∧
        t.workAt m.slot = { w with returned := w.returned + m.amount, st := .sweeping, cause := 8, swept := false } ∧
        t.wmsgs = rest ∧ t.slots = s.slots ∧ t.mem = s.mem))

/-- R371 to R374: a Starting launch whose header is well formed and of its kind runs at the header's entry point, and
is swept with cause 1 or 2 otherwise; the next group of a heavy launch goes to the first cluster of the launch's
rotation that takes it, and the next rotation starts at the cluster after that one; a group that all decline waits
with its rotation, and is placed when a cluster of it takes it, which moves the rotation only where no group was
offered after it (that a group whose predecessor still waits starts where that one did is the model's choice, DESIGN
CHOICE, log entry 50). A group of one thread becomes a Live group and a ready Kennel entry with the unit's context
(that a group is Live as soon as its threads are placed, and that the free barriers are those in no group's range, are
the model's reading, DEDUCED, log entry 26); the next unit of a light launch becomes a record on its way. -/
def Obligations.LaunchStart : Prop :=
  (∀ (s u : State) (slot : Nat) (bs : List Byte), slot < 2 ^ 16 → (s.workAt slot).st = .starting →
    readE (s.workAt slot).eng (s.workAt slot).khdr 96 s = .ok bs u → u.workAt slot = s.workAt slot →
    let w := s.workAt slot
    (∀ h, headerOf w.khdr bs = some h → h.kind = (if w.light then 1 else 0) →
      ∃ t, exec (.launchHeaderCheck slot) s = .next t ∧
        t.workAt slot = { w with st := .running, entry := h.entry.toNat, imgLo := h.imgLo, imgLen := h.imgLen }) ∧
    (∀ h, headerOf w.khdr bs = some h → h.kind ≠ (if w.light then 1 else 0) →
      ∃ t, exec (.launchHeaderCheck slot) s = .next t ∧
        t.workAt slot = { w with st := .sweeping, cause := 2, swept := false }) ∧
    (headerOf w.khdr bs = none → ∃ t, exec (.launchHeaderCheck slot) s = .next t ∧
        t.workAt slot = { w with st := .sweeping, cause := 1, swept := false })) ∧
  (∀ (s : State) (slot : Nat), slot < 2 ^ 16 → (s.workAt slot).st = .running → (s.workAt slot).light = false →
    (s.workAt slot).next * (s.workAt slot).gsize < (s.workAt slot).count →
    let w := s.workAt slot
    (s.offerGroup slot w.next w.rot = none → exec (.groupOffer slot) s =
      .next (s.setWork slot { w with waiting := w.waiting ++ [(w.next, w.rot)], next := w.next + 1 })) ∧
    (∀ u, s.offerGroup slot w.next w.rot = some u →
      exec (.groupOffer slot) s = .next (u.modWork slot (fun x => { x with next := w.next + 1 })))) ∧
  (∀ (s u : State) (slot j from_ cl : Nat) (before after : List Nat),
    rotation (s.workAt slot).cmask from_ = before ++ cl :: after → (∀ k ∈ before, s.placeGroup k slot j = none) →
    s.placeGroup cl slot j = some u →
    s.offerGroup slot j from_ = some (u.modWork slot (fun w =>
      { w with rot := if w.next ≤ j + 1 then nextCluster w.cmask cl else w.rot, accepted := w.accepted + 1 }))) ∧
  (∀ (s : State) (slot j from_ : Nat), (∀ k ∈ rotation (s.workAt slot).cmask from_, s.placeGroup k slot j = none) →
    s.offerGroup slot j from_ = none) ∧
  (∀ (mask from_ k : Nat), (k ∈ rotation mask from_ ↔ k < 40 ∧ mask.testBit k = true)) ∧
  (∀ (s : State) (slot cl j grp b e : Nat) (es : List Nat), cl < 40 → (s.workAt slot).groupUnits j = 1 → (s.workAt slot).segs = 0 →
    (List.range 64).find? (fun g => ((s.cluster cl).group g).st == 0) = some grp →
    (s.cluster cl).barRun (s.workAt slot).barn = some b → (s.core (cl * 64)).freeKens = e :: es →
    ∃ u, s.placeGroup cl slot j = some u ∧
      (u.cluster cl).group grp = { cores := 1, barn := (s.workAt slot).barn, barb := b, launch := slot,
                                   asid := (s.workAt slot).asid, st := 2 } ∧
      ((u.core (cl * 64)).ken e).st = .ready ∧
      (((u.core (cl * 64)).ken e).ctx.map (fun c => (c.pc, c.getX 10, c.getX 13))) =
        some (w64 (s.workAt slot).entry, (s.workAt slot).unitA0 (j * (s.workAt slot).gsize),
          w64 (j * (s.workAt slot).gsize))) ∧
  (∀ (s u : State) (slot j from_ : Nat) (rest : List (Nat × Nat)), slot < 2 ^ 16 → (s.workAt slot).st = .running →
    (s.workAt slot).waiting = (j, from_) :: rest → s.offerGroup slot j from_ = some u →
    exec (.groupReoffer slot) s = .next (u.modWork slot (fun w => { w with waiting := w.waiting.filter (· ≠ (j, from_)) }))) ∧
  (∀ (s : State) (slot : Nat), slot < 2 ^ 16 → (s.workAt slot).st = .running → (s.workAt slot).light = true →
    (s.workAt slot).next < (s.workAt slot).count →
    let w := s.workAt slot
    ∃ t, exec (.lightUnitSend slot) s = .next t ∧ t.workAt slot = { w with next := w.next + 1 } ∧
      t.recs = s.recs ++ [(s.unitDest w (w.unitA0 w.next).toNat, .dispatch,
        { pc := w.entry % 2 ^ 48, lslot := slot, rx := false, fp := false, bh := false, bad := false,
          weight := w.unitWeight w.next, a := [w.unitA0 w.next, w.a1, w.a2, w64 w.next, 0#64, 0#64] })] ∧
      t.slots = s.slots ∧ t.mem = s.mem) ∧
  (∀ w : Work, 0 < w.count → ((List.range w.count).map w.unitWeight).sum = 2 ^ 63)

/-- R379 to R382: a sweep of a launch that owes no channel's signal, once it has gone round, is marked so, and returns
the weight of the units that had not started; one that owes a signal waits for it; when every holder has acknowledged
it, a launch with no signal and no parent is Free where all its weight is back, Retired where weight is lost, and else
Held, with outcome Cancelled for causes 4 and 5 and Failed otherwise; a swept level whose descendants have ended is
Free. -/
def Obligations.Sweeps : Prop :=
  (∀ (s u : State) (slot : Nat), slot < 2 ^ 16 → (s.workAt slot).st = .sweeping → (s.workAt slot).swept = false →
    (s.owesSignals slot = true → exec (.sweep slot) s = .next s) ∧
    (s.owesSignals slot = false → sweepLaunch slot s = .ok () u →
      exec (.sweep slot) s = .next u ∧ (u.workAt slot).swept = true ∧ (u.workAt slot).waiting = [])) ∧
  (∀ (s : State) (slot : Nat), slot < 2 ^ 16 → (s.workAt slot).st = .sweeping → (s.workAt slot).swept = false →
    s.slots = Tab.empty → s.cores = Tab.empty → s.clusters = Tab.empty → s.recs = [] →
    ∃ t, exec (.sweep slot) s = .next t ∧ t.wmsgs = s.wmsgs ++
      [{ slot := slot, gen := (s.workAt slot).gen, amount := (s.workAt slot).unstarted }]) ∧
  (∀ w : Work, w.waiting = [] → w.light = true → 0 < w.count → w.next ≤ w.count →
    w.unstarted = ((List.range (w.count - w.next)).map (fun i => w.unitWeight (w.next + i))).sum) ∧
  (∀ (s : State) (slot : Nat), (s.workAt slot).st = .sweeping → (s.workAt slot).sig = 0 → (s.workAt slot).parent = none →
    let w := s.workAt slot
    let out := if w.cause = 4 ∨ w.cause = 5 then 5 else 4
    (slot < 2 ^ 16 → w.swept = true → s.sweeping slot = false →
      ∃ t, exec (.sweepAcknowledged slot) s = .next t ∧ t.workAt slot =
        { w with outcome := out, st := if w.lost then .retired else if w.returned = w.issued then .free else .held } ∧
        (∀ j, j ≠ slot → t.workAt j = s.workAt j) ∧ t.slots = s.slots ∧ t.mem = s.mem) ∧
    (2 ^ 16 ≤ slot → s.childrenEnded slot = true →
      ∃ t, exec (.sweepAcknowledged slot) s = .next t ∧ t.workAt slot = { w with outcome := out, st := .free } ∧
        (∀ j, j ≠ slot → t.workAt j = s.workAt j) ∧ t.slots = s.slots ∧ t.mem = s.mem)) ∧
  (∀ (s : State) (k c : Nat), 2 ^ 16 ≤ k → (s.workAt k).st = .running → (s.workAt c).parent = some k → c < 2 ^ 16 →
    (s.workAt c).st = .running → s.children k = [c] →
    ((s.sweepAt k 4).workAt k).st = .sweeping ∧ ((s.sweepAt k 4).workAt c).st = .sweeping ∧ ((s.sweepAt k 4).workAt c).cause = 5)

/-- R257, R259, R260, R263 to R267, R273: a tile operation whose names, format, pitches, spans and permissions hold
joins its core's queue with its operands resolved, and the instruction goes on; a tl.zero or tl.ld that is accepted
clears the Failed state (that it does so when it is accepted is the model's reading, DEDUCED, log entry 22). The first
failing check, in that order, decides the trap: cause 26 with value 1 for a name that is not claimed; cause 19 with
the error address for a Failed accumulator, but for tl.zero and tl.ld (rd's before rs1's, DESIGN CHOICE, log entry
49); cause 26 with value 2 for the format, 3 for a pitch and the operand's base for a span; cause 5, or 7 for a
written operand, with its base, where a permission is denied. One that finds eight operations queued waits. R256,
R267, R273, R278 to R280: tl.claim gives 2 for a name already held, 1 where too few accumulators are free, and else 0
with the names bound to the lowest free ones; tl.free frees the names once nothing pending names them; tl.wait waits
for pending operations and raises cause 19 for a Failed accumulator; tl.state gives the state word; tl.rowv and
tl.vrow enter the sequencer with row and format captured, and wait while a queued one of their slot names their
accumulator. At the head of the sequencer tl.rowv copies the row of C to its registers, the tail by vta, and tl.vrow
copies its registers to the row and no other element; each waits there for pending operations, and traps for a name
that is not claimed, a Failed accumulator, a reserved format, and a row or a vl out of range. -/
def Obligations.TileInstructions : Prop :=
  ((∀ (s : State) (i : Instr) (kind : TileKind) (d n : Nat) (va vb : Word), s.Runs → (s.ctx s.cur).seq = [] →
     tileForm s i = some (kind, d, n, va, vb) →
     let c := s.ctx s.cur
     let k := s.core s.cur.gcore
     ((c.acc d = none ∨ kind = .add ∧ c.acc n = none) → exec i s = .next (s.trapped 26 1#64)) ∧
     (∀ p q, c.acc d = some p → (if kind = .add then c.acc n = some q else q = p) → kind ≠ .zero → kind ≠ .ld →
       ((k.acc p).st = .failed → exec i s = .next (s.trapped 19 (k.acc p).err)) ∧
       ((k.acc p).st ≠ .failed → (k.acc q).st = .failed → exec i s = .next (s.trapped 19 (k.acc q).err))) ∧
     (∀ p q, s.tileNames kind d n p q →
       let o := s.tileOpAt kind va vb p q
       let may (x : Operand) : Permit := s.permits x.span.base x.span.extent x.span.write o.ident
       (tileFormatOk kind c.mxfmt = false → exec i s = .next (s.trapped 26 2#64)) ∧
       (tileFormatOk kind c.mxfmt = true → (∃ x ∈ o.operands, x.pitchOk = false) → exec i s = .next (s.trapped 26 3#64)) ∧
       (tileFormatOk kind c.mxfmt = true → (∀ x ∈ o.operands, x.pitchOk = true) →
         (∀ before x after, o.operands = before ++ x :: after → (∀ y ∈ before, y.spanOk s.cur.gcore = true) →
           x.spanOk s.cur.gcore = false → exec i s = .next (s.trapped 26 x.va)) ∧
         ((∀ x ∈ o.operands, x.spanOk s.cur.gcore = true) →
           (∀ before x after, o.operands = before ++ x :: after → (∀ y ∈ before, may y = .yes) → may x = .no →
             exec i s = .next (s.trapped (if x.span.write then 7 else 5) x.va)) ∧
           ((∀ x ∈ o.operands, may x = .yes ∧ c.stallingChan s.cur.gcore x.span.base x.span.extent x.span.write = none) →
             s.performed s.cur true true 1 = true →
             (k.tileq.length < 8 → TileQueued s i kind p o) ∧
             (8 ≤ k.tileq.length → exec i s = .next s.waited)))))) ∧
   (∀ f : Word,
     (tileFormatOk .zero f = true) ∧
     (∀ kind, kind = .mma ∨ kind = .ld ∨ kind = .st ∨ kind = .add → (tileFormatOk kind f = true ↔ wfld f 3 0 ≤ 6)) ∧
     (tileFormatOk .mmas f = true ↔ wfld f 3 0 = 1 ∨ wfld f 3 0 = 2) ∧
     (tileFormatOk .stc f = true ↔
       (1 ≤ wfld f 3 0 ∧ wfld f 3 0 ≤ 5 ∧ wfld f 9 8 ≤ 2) ∨ (wfld f 3 0 = 0 ∧ wfld f 9 8 = 3))) ∧
   (∀ (o : TileOp) (m k n e ce : Nat), tileShape (wfld o.mxfmt 3 0) = some (m, k, n, e, ce) →
     let at_ (va : Word) (base rows pitch len elem : Nat) (w : Bool) : Operand :=
       ⟨va, elem, { base := base, rows := rows, pitch := if pitch = 0 then len else pitch, len := len, write := w }⟩
     let mul := [at_ o.va o.a m (wfld o.mxld 15 0) (k * e) e false, at_ o.vb o.b k (wfld o.mxld 31 16) (n * e) e false]
     (o.kind = .mma → o.operands = mul) ∧
     (o.kind = .mmas → o.operands = mul ++ (if o.mxfmt.getLsbD 4 then [at_ o.va2 o.sa 1 64 64 1 false] else []) ++
       (if o.mxfmt.getLsbD 5 then [at_ o.vb2 o.sb 1 64 64 1 false] else [])) ∧
     (o.kind = .ld → o.operands = [at_ o.va o.a m (wfld o.mxld 47 32) (m * ce) ce false]) ∧
     (o.kind = .st → o.operands = [at_ o.va o.a m (wfld o.mxld 47 32) (m * ce) ce true]) ∧
     (o.kind = .stc → ∀ b, stcBytes (wfld o.mxfmt 3 0) (wfld o.mxfmt 9 8) = some b →
       o.operands = [at_ o.va o.a m (wfld o.mxld 47 32) (m * b) b true]) ∧
     (o.kind = .zero ∨ o.kind = .add → o.operands = [])) ∧
   ([0, 1, 2, 3, 4, 5, 6].map tileShape = [some (32, 64, 32, 1, 4), some (32, 64, 32, 1, 4), some (32, 64, 32, 1, 4),
     some (32, 32, 32, 2, 4), some (32, 32, 32, 2, 4), some (32, 16, 32, 4, 4), some (16, 16, 16, 8, 8)]) ∧
   (∀ (x : Operand) (g : Nat),
     (x.pitchOk = true ↔ x.span.len ≤ x.span.pitch ∧ x.span.pitch % x.elem = 0) ∧
     (x.spanOk g = true ↔ ∃ a, tilePa g x.va = some a ∧
       (scratchAt a).2 + (x.span.rows - 1) * x.span.pitch + x.span.len ≤ 2 ^ 18 ∧ x.va.toNat % x.elem = 0))) ∧
  ((∀ (s : State) (a d : Reg), s.Runs → (s.ctx s.cur).seq = [] →
     let c := s.ctx s.cur
     let k := s.core s.cur.gcore
     let m := wfld (s.xr a) 7 0
     let wr (j : Core) : State := s.modCore s.cur.gcore (fun _ => j)
     (m &&& maskOf c.claimed ≠ 0 → ∃ t, exec (.tlClaim a d) s = .next t ∧ Retired s t (·.setX d.toNat 2#64) s.nextPc) ∧
     (m &&& maskOf c.claimed = 0 → k.freeAccs.length < (bitsOf8 m).length →
       ∃ t, exec (.tlClaim a d) s = .next t ∧ Retired s t (·.setX d.toNat 1#64) s.nextPc) ∧
     (m &&& maskOf c.claimed = 0 → (bitsOf8 m).length ≤ k.freeAccs.length → ∃ t, exec (.tlClaim a d) s = .next t ∧
       Retired (wr (bindNames c k (bitsOf8 m)).2) t (fun _ => (bindNames c k (bitsOf8 m)).1.setX d.toNat 0#64) s.nextPc) ∧
     (let names := (bitsOf8 m).filter (fun n => (c.acc n).isSome)
      (∀ n ∈ names, ∀ p, c.acc n = some p → k.pnd p = false) → ∃ t, exec (.tlFree a) s = .next t ∧
       Retired (wr (freeNames c k names).2) t (fun _ => (freeNames c k names).1) s.nextPc) ∧
     (let names := c.claimed.filter (fun n => m == 0 || m.testBit n)
      ((∀ n ∈ names, ∀ p, c.acc n = some p → k.pnd p = false ∧ (k.acc p).st ≠ .failed) →
         ∃ t, exec (.tlWait a) s = .next t ∧ Retired s t id s.nextPc) ∧
      (∀ n p, n ∈ names → c.acc n = some p → k.pnd p = true → exec (.tlWait a) s = .next s.waited) ∧
      (∀ n p, names = [n] → c.acc n = some p → k.pnd p = false → (k.acc p).st = .failed →
         exec (.tlWait a) s = .next (s.trapped 19 (k.acc p).err))) ∧
     (∃ t, exec (.tlState d) s = .next t ∧ Retired s t (·.setX d.toNat (tileStateWord c k)) s.nextPc)) ∧
   (∀ (c : Ctx) (k : Core) (n p : Nat) (ps : List Nat), k.freeAccs = p :: ps → (bindNames c k [n]).1.acc n = some p ∧
     (bindNames c k [n]).2.acc p = { st := .claimed, gen := (k.acc p).gen + 1 }) ∧
   (∀ (c : Ctx) (k : Core) (n p : Nat), c.acc n = some p → (freeNames c k [n]).1.acc n = none ∧
     (freeNames c k [n]).2.acc p = { k.acc p with st := .free }) ∧
   (∀ (s : State) (w : IWord) (v a : Reg) (n : BitVec 3) (i : Instr), s.Runs →
     (w = rowWord 0#7 (0#2 ++ n) a v ∧ i = .tlRowv n a v ∨ w = rowWord 1#7 v a (0#2 ++ n) ∧ i = .tlVrow v a n) →
     (s.ctx s.cur).vs ≠ 0 → (s.ctx s.cur).frozen = none → (s.ctx s.cur).seq.any (fun e => isFof e.bits) = false →
     let c := s.ctx s.cur
     let x : VI := { w := w, vl := c.vl, vt := c.vtype, op1 := 0#64, op2 := 0#64, vs := 0 }
     (!x.ill && (decide (wfld c.mxfmt 3 0 > 6) || x.sew == accWidth c.mxfmt) && x.groupOk v.toNat x.sew) = true →
     ((∀ e ∈ c.seq, e.namesRow n.toNat = false) → c.seq.length < 16 →
       ∃ t, exec i s = .next t ∧ Retired s t (fun c => { c with seq := c.seq ++
         [{ bits := w, vl := c.vl, v := true, l := false, vtype := c.vtype, op1 := s.xr a,
            op2 := w64 (wfld c.mxfmt 7 0) }] }) s.nextPc) ∧
     ((∃ e ∈ c.seq, e.namesRow n.toNat = true) → exec i s = .next s.waited)) ∧
   (∀ (s : State) (h : Hart) (e : SeqEnt) (rest : List SeqEnt) (q g : Nat) (w : IWord) (v a : Reg) (n : BitVec 3),
     HeadRuns s h e rest → VTyped e q g → w = e.bits → w = rowWord 0#7 (0#2 ++ n) a v ∨ w = rowWord 1#7 v a (0#2 ++ n) →
     let c := s.ctx h
     let k := s.core h.gcore
     let i := e.op1.toNat
     let dim := if wfld e.op2 3 0 = 6 then 16 else 32
     let trap (cause : Nat) (tv : Word) : Prop := exec (.sequencerHeadExecute h) s =
       .next (({ s with cur := h, ibits := w }.keepSeq h c.seq).takeTrap h false cause tv)
     (c.acc n.toNat = none → trap 26 1#64) ∧
     (∀ p, c.acc n.toNat = some p →
       (k.pnd p = true → ∃ t, exec (.sequencerHeadExecute h) s = .next t ∧ t.ctx h = c ∧ t.cores = s.cores ∧ t.mem = s.mem) ∧
       (k.pnd p = false → (k.acc p).st = .failed → trap 19 (k.acc p).err) ∧
       (k.pnd p = false → (k.acc p).st ≠ .failed → 6 < wfld e.op2 3 0 → trap 26 2#64) ∧
       (k.pnd p = false → (k.acc p).st ≠ .failed → wfld e.op2 3 0 ≤ 6 → dim ≤ i ∨ dim < e.vl → trap 26 4#64) ∧
       (k.pnd p = false → (k.acc p).st ≠ .failed → wfld e.op2 3 0 ≤ 6 → i < dim → e.vl ≤ dim →
         8 * 2 ^ q = (if wfld e.op2 3 0 = 6 then 64 else 32) → v.toNat % g = 0 →
         (w = rowWord 0#7 (0#2 ++ n) a v → ∃ t, exec (.sequencerHeadExecute h) s = .next t ∧
           VecResult s t h e rest v.toNat g (8 * 2 ^ q) (fun _ => true) (fun j => accGet e.op2 (k.acc p).bits i j)) ∧
         (w = rowWord 1#7 v a (0#2 ++ n) → ∃ t, exec (.sequencerHeadExecute h) s = .next t ∧ (t.ctx h).seq = rest ∧
           (∀ r, (t.ctx h).getV r = c.getV r) ∧ (∀ x, t.mem.read x = s.mem.read x) ∧
           (∀ y, y ≠ p → (t.core h.gcore).acc y = k.acc y) ∧
           (t.core h.gcore).acc p = { k.acc p with bits := ((t.core h.gcore).acc p).bits } ∧
           ∀ y z, y < dim → z < dim → accGet e.op2 ((t.core h.gcore).acc p).bits y z =
             (if y = i ∧ z < e.vl then c.elem v.toNat (8 * 2 ^ q) z else accGet e.op2 (k.acc p).bits y z))))) ∧
   (∀ (f : Word) (v : AccBits) (i j : Nat), accGet f v i j = if wfld f 3 0 = 6
     then (v.extractLsb' (8 * (2048 * wfld f 7 7 + 8 * (16 * i + j))) 64).toNat
     else (v.extractLsb' (8 * (4 * (32 * i + j))) 32).toNat))

/-- R44, R59 to R61, R256, R257, R259, R266 to R270, R273, R275 to R277: the matrix unit starts the oldest operation
of a core that is not halted, or that completes its operations before it moves (the model's reading, DEDUCED, log
entry 39), and reads its operands, but for those that multicast reads bring; one that completes leaves the queue with
its result in the accumulator of the binding it was accepted for, which tl.zero and tl.ld leave without an error,
Claimed where it had Failed (again when they end: DEDUCED, log entry 22), or, where it met a poisoned operand, with
that accumulator Failed at the operand's address; tl.st and tl.stc store their rows and leave the accumulator. A
multicast request opens an entry or joins one; an entry that has as many cores as its count closes, and its one read
goes to every joined operation. tl.mma and tl.mmas add the products of A and B to C: int8 into int32 wraps, and every
other format adds, block by block in ascending K, the exact sum of the block's products, scaled by its two codes, with
one rounding. tl.zero gives zeros, tl.ld the elements in memory, and tl.add the sums of two accumulators; tl.st writes
C row by row and tl.stc each element narrowed. -/
def Obligations.MatrixUnit : Prop :=
  (∀ (s u : State) (cl core : Nat) (o : TileOp) (rest : List TileOp), (s.core (cl * 64 + core)).tileq = o :: rest →
    o.running = false → (s.core (cl * 64 + core)).halted = false ∧ s.inTransit (cl * 64 + core) = false ∨
      s.drains (cl * 64 + core) = true → s.tilePieces (cl * 64 + core) o.plainPieces = some u →
    exec (.tileOpStart cl core) s = .next (u.modCore (cl * 64 + core) (·.setHead
      { o with running := true, bad := u.tilePoison o.plain (fun _ => true)
               kept := if o.casts then o.plainPieces.map (fun a => (a, u.getBytes a 64)) else []
               res := if o.casts then none else some (u.tileResult (cl * 64 + core) o) }))) ∧
  (∀ (s : State) (cl core : Nat) (o : TileOp) (rest : List TileOp), (s.core (cl * 64 + core)).tileq = o :: rest →
    o.running = true → o.castPieces = [] → o.task = none →
    (o.kind ≠ .st → o.kind ≠ .stc → o.bad = none → o.again = false → ∀ v, o.res = some (v, []) →
      ∃ t, exec (.tileOpComplete cl core) s = .next t ∧ (t.core (cl * 64 + core)).tileq = rest ∧
        (t.core (cl * 64 + core)).acc o.dst = (if ((s.core (cl * 64 + core)).acc o.dst).gen = o.gen
          then (if o.kind = .zero ∨ o.kind = .ld
            then { (s.core (cl * 64 + core)).acc o.dst with
              bits := v
              err := 0
              bad := false
              st := (if ((s.core (cl * 64 + core)).acc o.dst).st = .failed then .claimed
                else ((s.core (cl * 64 + core)).acc o.dst).st) }
            else { (s.core (cl * 64 + core)).acc o.dst with bits := v })
          else (s.core (cl * 64 + core)).acc o.dst) ∧
        (∀ p, p ≠ o.dst → (t.core (cl * 64 + core)).acc p = (s.core (cl * 64 + core)).acc p) ∧
        t.mem = s.mem ∧ t.slots = s.slots) ∧
    (∀ va b, o.bad = some (va, b) → ((s.core (cl * 64 + core)).acc o.dst).gen = o.gen →
      ∃ t, exec (.tileOpComplete cl core) s = .next t ∧ (t.core (cl * 64 + core)).tileq = rest ∧
        (t.core (cl * 64 + core)).acc o.dst = { (s.core (cl * 64 + core)).acc o.dst with st := .failed, err := va, bad := true } ∧
        t.mem = s.mem ∧ t.slots = s.slots) ∧
    (o.kind = .st ∨ o.kind = .stc → o.bad = none → o.again = false → ∀ v ws u, o.res = some (v, ws) →
      s.tileStores (cl * 64 + core) ws = some u → ∃ t, exec (.tileOpComplete cl core) s = .next t ∧
        (t.core (cl * 64 + core)).tileq = (u.core (cl * 64 + core)).tileq.drop 1 ∧ t.mem = u.mem ∧
        ∀ p, (t.core (cl * 64 + core)).acc p = (u.core (cl * 64 + core)).acc p)) ∧
  (∀ (s u : State) (g off : Nat) (bs : List Byte), off + bs.length ≤ 2 ^ 18 → s.tileStores g [(scratchPa g off, bs)] = some u →
    Wrote s u (scratchPa g off) bs) ∧
  (∀ (s : State) (cl core src tag piece cnt : Nat) (o : TileOp) (rest : List TileOp),
    (s.core (cl * 64 + src)).tileq = o :: rest → o.running = true → o.castPieces.contains (piece * 64) = true →
    o.got.any (fun q => q.1 == piece * 64) = false → (scratchAt (piece * 64)).1 = cl * 64 + core → wfld o.mxcast 15 0 = tag →
    (if wfld o.mxcast 22 16 > 64 then 0 else wfld o.mxcast 22 16) = cnt → src = core ∨ s.inTransit (cl * 64 + core) = false →
    let k := s.core (cl * 64 + core)
    let w := if src = core then s else s.perf (cl * 64 + src) 10 1
    (k.comb.find? (fun x => x.tag == tag && x.piece == piece * 64) = none → cnt ≠ 1 → k.comb.length < 16 →
      exec (.multicastRequest cl core src tag piece cnt) s = .next (w.modCore (cl * 64 + core) (fun k => { k with
        comb := k.comb ++ [{ tag := tag, piece := piece * 64, cnt := cnt, cores := [cl * 64 + src] }] }))) ∧
    (∀ e, k.comb.find? (fun x => x.tag == tag && x.piece == piece * 64) = some e → e.cores.contains (cl * 64 + src) = false →
      let j : Comb := { e with cores := e.cores ++ [cl * 64 + src] }
      (e.cnt = 0 ∨ e.cores.length + 1 < e.cnt → exec (.multicastRequest cl core src tag piece cnt) s = .next (w.modCore
        (cl * 64 + core) (fun k => { k with
          comb := k.comb.map (fun x => if x.tag = tag ∧ x.piece = piece * 64 then j else x) }))) ∧
      (∀ u, e.cnt = e.cores.length + 1 → w.closeComb (cl * 64 + core) j = some u →
        exec (.multicastRequest cl core src tag piece cnt) s = .next u))) ∧
  (∀ (s u : State) (g r : Nat) (e : Comb) (o : TileOp) (rest : List TileOp), s.closeComb g e = some u → r ∈ e.cores →
    (s.core (scratchAt e.piece).1).sscent.getLsbD 0 = false →
    (s.core r).tileq = o :: rest → o.running = true → o.castPieces.contains e.piece = true →
    o.got.any (fun q => q.1 == e.piece) = false →
    ∃ p, (u.core r).tileq = p :: rest ∧ p.got = o.got ++ [(e.piece, s.mem.readN e.piece 64)]) ∧
  (∀ (s u : State) (cl core idx : Nat) (e : Comb), (s.core (cl * 64 + core)).comb[idx]? = some e →
    s.closeComb (cl * 64 + core) e = some u → exec (.multicastEntryTimeout cl core idx) s = .next u) ∧
  (∀ (s : State) (g : Nat) (o : TileOp), o.kind = .zero → s.tileResult g o = (0#32768, [])) ∧
  (∀ (s : State) (g i j : Nat) (o : TileOp), o.kind = .add → wfld o.mxfmt 3 0 = 0 → i < 32 → j < 32 →
    accGet o.mxfmt (s.tileResult g o).1 i j =
      (accGet o.mxfmt ((s.core g).acc o.dst).bits i j + accGet o.mxfmt ((s.core g).acc o.src).bits i j) % 2 ^ 32) ∧
  (∀ (s : State) (g i j : Nat) (o : TileOp), o.kind = .add → 1 ≤ wfld o.mxfmt 3 0 → wfld o.mxfmt 3 0 ≤ 6 → i < accDim o.mxfmt →
    j < accDim o.mxfmt → accGet o.mxfmt (s.tileResult g o).1 i j =
      ((if wfld o.mxfmt 3 0 = 6 then binary64 else binary32).add 0 (accGet o.mxfmt ((s.core g).acc o.dst).bits i j)
        (accGet o.mxfmt ((s.core g).acc o.src).bits i j)).1) ∧
  (∀ (s : State) (g i j m k n e ce : Nat) (o : TileOp), o.casts = false →
    tileShape (wfld o.mxfmt 3 0) = some (m, k, n, e, ce) → i < m → j < n →
    let fmt := wfld o.mxfmt 3 0
    let pitch (p len : Nat) : Nat := if p = 0 then len else p
    let ldc (b : Nat) : Nat := pitch (wfld o.mxld 47 32) (m * b)
    let v := ((s.core g).acc o.dst).bits
    (o.kind = .ld → accGet o.mxfmt (s.tileResult g o).1 i j = leNat (s.mem.readN (o.a + i * ldc ce + j * ce) ce)) ∧
    (o.kind = .st → (s.tileResult g o).2 = (List.range m).map (fun i => (o.a + i * ldc ce,
      (List.range m).flatMap (fun j => leBytes ce (accGet o.mxfmt v i j))))) ∧
    (o.kind = .stc → ∀ b, stcBytes fmt (wfld o.mxfmt 9 8) = some b →
      (s.tileResult g o).2 = (List.range m).map (fun i => (o.a + i * ldc b,
        (List.range m).flatMap (fun j => leBytes b (
          let x := accGet o.mxfmt v i j
          match wfld o.mxfmt 9 8 with
          | 0 => (bfloat16.conv binary32 0 x).1
          | 1 => (binary16.conv binary32 0 x).1
          | 2 => (m8Encode (o.mxfmt.getLsbD 10) (binary32.val x)).1
          | _ => uint (max (-128) (min 127 (sint x 32))) 8))))) ∧
    (o.kind = .mma ∨ o.kind = .mmas ∧ (fmt = 1 ∨ fmt = 2) →
      let A (q : Nat) : Nat := leNat (s.mem.readN (o.a + i * pitch (wfld o.mxld 15 0) (k * e) + q * e) e)
      let B (q : Nat) : Nat := leNat (s.mem.readN (o.b + q * pitch (wfld o.mxld 31 16) (n * e) + j * e) e)
      let sa (blk : Nat) : Nat :=
        if o.kind = .mmas ∧ o.mxfmt.getLsbD 4 = true then (s.mem.read (o.sa + 2 * i + blk)).toNat else 127
      let sb (blk : Nat) : Nat :=
        if o.kind = .mmas ∧ o.mxfmt.getLsbD 5 = true then (s.mem.read (o.sb + 32 * blk + j)).toNat else 127
      let ua := o.mxfmt.getLsbD 11
      let ub := o.mxfmt.getLsbD 12
      let int (u : Bool) (x : Nat) : Int := if u then x else sint x 8
      let bk := match fmt with | 1 | 2 | 3 | 4 => 32 | 5 => 16 | _ => 1
      (fmt = 0 → accGet o.mxfmt (s.tileResult g o).1 i j =
        uint (sint (accGet o.mxfmt v i j) 32 + ((List.range k).map (fun q => int ua (A q) * int ub (B q))).sum) 32) ∧
      (fmt ≠ 0 → accGet o.mxfmt (s.tileResult g o).1 i j =
        (List.range (k / bk)).foldl (fun x blk => blockUpdate (if fmt = 6 then binary64 else binary32)
          (if fmt = 2 then 5 ^ 12 else 1) x
          ((List.range bk).map (fun q => operandMul fmt (operandVal fmt ua (A (blk * bk + q))) (operandVal fmt ub (B (blk * bk + q)))))
          (sa blk) (sb blk)) (accGet o.mxfmt v i j)))) ∧
  (∀ (f : BinFmt) (d c sa sb : Nat) (ps : List FV),
    (sa = 0 ∨ sb = 0 → blockUpdate f d c ps sa sb =
      if (f.val c).isNan then f.nan else match f.val c with | .num _ 0 _ => 0 | _ => c) ∧
    (sa ≠ 0 → sb ≠ 0 → sa = 255 ∨ sb = 255 → blockUpdate f d c ps sa sb = f.nan) ∧
    (sa = 127 → sb = 127 → blockUpdate f 1 c ps sa sb = f.encRat 0 ((f.val c).add 0 (exactSum ps)) 1))

/-- R286, R287, R292 to R294, R297, R303 to R305: xf.open of a 32-byte aligned descriptor whose fields hold opens a
Closed channel at its base, and raises cause 25 with reason 1 for one that is not Closed and cause 4 for a descriptor
that is not aligned; xf.get and xf.put append a request at the issue pointer, which moves by its bytes; xf.wm and
xf.wait go on once the watermark has reached the level asked for and wait before, xf.close also closes; xf.wm raises
cause 25 for a Faulted channel that it would wait for, xf.wait and xf.close for any Faulted channel, even where the
watermark has reached the issue pointer (the model's reading, DEDUCED, log entry 23), and xf.put for a Faulted channel
that its accesses would stall on (DEDUCED, log entry 38); xf.cancel sends an open channel to cancelling and waits
until it is Closed. -/
def Obligations.ChannelInstructions : Prop :=
  (∀ (s : State) (a : Reg) (d : BitVec 3), s.Runs →
    let ch := (s.ctx s.cur).chan d.toNat
    let fault := chanTval ch.reason false d.toNat ch.faddr
    ((s.xr a).toNat % 32 ≠ 0 → exec (.xfOpen a d) s = .next (s.trapped 4 (s.xr a))) ∧
    (ch.st = .closed ∨ min (s.xr a).toNat ch.ip ≤ ch.wm.toNat →
      ∃ t, exec (.xfWm a d) s = .next t ∧ Retired s t id s.nextPc) ∧
    (ch.st ≠ .closed → ch.wm.toNat < min (s.xr a).toNat ch.ip →
      (ch.st.faulted = false → exec (.xfWm a d) s = .next s.waited) ∧
      (ch.st.faulted = true → exec (.xfWm a d) s = .next (s.trapped 25 fault))) ∧
    (ch.st = .closed ∨ ch.st.faulted = false ∧ ch.ip ≤ ch.wm.toNat →
      (∃ t, exec (.xfWait d) s = .next t ∧ Retired s t id s.nextPc) ∧
      (ch.st ≠ .cancelling → ∃ t, exec (.xfClose d) s = .next t ∧
        Retired s t (fun c => c.setChan d.toNat ch.close) s.nextPc)) ∧
    (ch.st ≠ .closed → ch.st.faulted = false → ch.wm.toNat < ch.ip →
      exec (.xfWait d) s = .next s.waited ∧ exec (.xfClose d) s = .next s.waited) ∧
    (ch.st.faulted = true →
      exec (.xfWait d) s = .next (s.trapped 25 fault) ∧ exec (.xfClose d) s = .next (s.trapped 25 fault)) ∧
    (ch.st = .closed → ∃ t, exec (.xfCancel d) s = .next t ∧ Retired s t (fun c => c.setChan d.toNat ch) s.nextPc) ∧
    (ch.st ≠ .closed → ∃ t, exec (.xfCancel d) s = .next t ∧
      t.ctx s.cur = (s.ctx s.cur).setChan d.toNat
        { ch with st := .cancelling, owesOr := ch.owesOr || (ch.st.faulted && !ch.sigOr && ch.sig != 0) })) ∧
  (∀ (s u : State) (a : Reg) (d : BitVec 3) (bs : List Byte) (r : Nat), s.Runs → (s.xr a).toNat % 32 = 0 →
    (s.ctx s.cur).queuedMem true true = false → loadBytes (s.xr a) 32 s.begun = .ok bs u →
    let c := u.ctx u.cur
    let f (o k : Nat) : Nat := leNat ((bs.drop o).take k)
    let dir := (f 12 1).testBit 0
    let ch : Chan := { st := if dir then .openPut else .openGet, base := r, len := f 8 4, wm := w64 r, ip := r,
                       mask := 0, sig := 0, satp := c.satp, ident := identOf c c.priv u.cur }
    ((c.chan d.toNat).st ≠ .closed → exec (.xfOpen a d) s =
      .next ((u.takeTrap u.cur false 25 (chanTval 1 false d.toNat 0)).passCycles u.cur.gcore)) ∧
    ((c.chan d.toNat).st = .closed → chanBase u.cur.core (f 0 8) (f 8 4) = some r → f 12 1 ≤ 1 → f 13 3 = 0 → f 16 8 = 0 →
      f 24 8 = 0 → c.chanFree u.cur.gcore d.toNat ch = true →
      (∀ x ∈ ch.starts u.cur.gcore, u.permits x (f 8 4) (!dir) ch.ident = .yes) →
      exec (.xfOpen a d) s = .next (u.modCtx u.cur (·.setChan d.toNat ch)).retire)) ∧
  (∀ (s w : State) (get : Bool) (b a : Reg) (d : BitVec 3), s.Runs → (s.ctx s.cur).vs ≠ 0 → (s.ctx s.cur).seq = [] →
    (s.ctx s.cur).vstart = 0#64 →
    let c := s.ctx s.cur
    let n := d.toNat
    let ch := c.chan n
    let x : VI := { w := 0x0200005B#32, vl := c.vl, vt := c.vtype, op1 := 0#64, op2 := 0#64, vs := 0 }
    let dims := layoutOf c b.toNat c.vl
    (!x.ill && x.sew == 64 && x.groupOk b.toNat 64) = true → x.use b.toNat 64 s.begun = .ok () s.begun →
    ch.st = (if get then .openGet else .openPut) → layoutOk dims = true → layoutTotal dims ≤ ch.base + ch.len - ch.ip →
    s.performed s.cur true true 2 = true →
    let r : ChanReq := { far := (s.xr a).toNat, dims := dims, at_ := ch.ip, total := layoutTotal dims, sent := 0,
                         cls := if wbit c.scos 4 then some (wfld c.scos 3 0) else none, home := none, since := s.tick + 1 }
    (get = false → c.putMeets s.cur.gcore r = none) →
    (s.begun.tock.modCtx s.cur (·.setChan n { ch with reqs := ch.reqs ++ [r], ip := ch.ip + layoutTotal dims })).settleChan
      s.cur.gcore c.cid n = some w →
    exec (if get then .xfGet b a d else .xfPut b a d) s = .next w.retire) ∧
  (∀ (s : State) (b a : Reg) (d : BitVec 3) (i : Nat), s.Runs → (s.ctx s.cur).vs ≠ 0 → (s.ctx s.cur).seq = [] →
    (s.ctx s.cur).vstart = 0#64 →
    let c := s.ctx s.cur
    let ch := c.chan d.toNat
    let x : VI := { w := 0x0200005B#32, vl := c.vl, vt := c.vtype, op1 := 0#64, op2 := 0#64, vs := 0 }
    let dims := layoutOf c b.toNat c.vl
    (!x.ill && x.sew == 64 && x.groupOk b.toNat 64) = true → x.use b.toNat 64 s.begun = .ok () s.begun →
    ch.st = .openPut → layoutOk dims = true → layoutTotal dims ≤ ch.base + ch.len - ch.ip →
    let r : ChanReq := { far := (s.xr a).toNat, dims := dims, at_ := ch.ip, total := layoutTotal dims, sent := 0,
                         cls := if wbit c.scos 4 then some (wfld c.scos 3 0) else none, home := none, since := s.tick + 1 }
    c.putMeets s.cur.gcore r = some i →
    exec (.xfPut b a d) s = .next (s.trapped 25 (chanTval (c.chan i).reason false i (c.chan i).faddr)))

/-- R145, R282, R285, R288 to R290, R293, R297: the channel unit cuts the next piece of a channel, and the Retriever
moves its bytes or finds that it fails; a landed piece moves the watermark, and the issuing core's L1D copies of the
global lines that it passes leave; a failed one makes an open channel Faulted with its reason and address, reason 6
where an end leaves the Sv48 range; a Faulted channel with nothing under way sets bit 63 of its signal once, and so
does one that was cancelled before it had, as it closes. A put's piece that stalls on a Faulted channel makes the
context's thread take cause 25 (the model's reading of when, DEDUCED, log entry 38). R189, R284, R298 to R302, R306,
R525: xf.vget with vl 0 only goes on, or is illegal where vstart is not 0 and no earlier vector instruction is queued,
and else, with source and stride multiples of the element width and a strip free, enters the sequencer with both
captured, and with the identity, the address space and the class of its thread; a misaligned source raises cause 4;
xf.vwait enters the sequencer. An element group of a pending strip lands in its registers, and a strip all of whose
groups have landed is free; an element that fails leaves the strip Faulted at it; a poisoned one gives its register
back the value it had when the strip started, which then keeps it. A strip that is cut back for a save starts at its
first group that has not landed, and the data and the poison of the groups behind it are gone from its registers. -/
def Obligations.ChannelsAndStrips : Prop :=
  ((∀ (s : State) (cl core cid n : Nat) (c : Ctx) (ch : Chan) (p : Piece), s.findCid (cl * 64 + core) cid = some c →
     c.nextPiece (cl * 64 + core) n = some (ch, p) → exec (.channelPieceSend cl core cid n) s =
       .next ((s.modCid (cl * 64 + core) cid (·.setChan n ch)).modCore (cl * 64 + core)
         (fun k => { k with pieces := k.pieces ++ [p] }))) ∧
   (∀ (c : Ctx) (g n e : Nat) (r : ChanReq), (c.chan n).st = .openGet → (c.chan n).reqs = [r] → r.dims = [(e, 0)] → r.sent = 0 →
     r.total = e → 0 < e → r.far < 2 ^ 64 → r.far % 4096 + e ≤ 4096 → r.at_ % 4096 + e ≤ 4096 →
     ∃ ch p, c.nextPiece g n = some (ch, p) ∧ p.read = w64 r.far ∧ p.write = w64 r.at_ ∧ p.len = e ∧
       ch.reqs = [{ r with sent := e }]) ∧
   (∀ (s u : State) (cl core idx : Nat) (p q : Piece), (s.core (cl * 64 + core)).pieces[idx]? = some p → p.done = false →
     p.fail = none → s.runPiece (cl * 64 + core) p = some (u, q) → exec (.retrieverPiece cl core idx) s =
       .next (u.modCore (cl * 64 + core) (fun k => { k with pieces := setNth k.pieces idx q }))) ∧
   (∀ (s : State) (cl core idx cid n : Nat) (p : Piece), (s.core (cl * 64 + core)).pieces[idx]? = some p →
     p.owner = .chan cid n →
     let u := s.modCore (cl * 64 + core) (fun k => { k with pieces := k.pieces.eraseIdx idx })
     (∀ c w, p.done = true → u.findCid (cl * 64 + core) cid = some c →
       ((u.modCore (cl * 64 + core) (fun k => ((c.chan n).passed p).foldl (fun k l => k.l1dDropLine l) k)).modCid
         (cl * 64 + core) cid (fun c => c.setChan n ((c.chan n).land p))).settleChan (cl * 64 + core) cid n = some w →
       exec (.pieceLands cl core idx) s = .next w) ∧
     (∀ r a, p.fail = some (r, a) → exec (.pieceFails cl core idx) s =
       .next (u.modCid (cl * 64 + core) cid (fun c => c.setChan n ((c.chan n).fault r a))))) ∧
   (∀ (ch : Chan) (p : Piece), ch.st ≠ .cancelling → ch.whole = [] → p.near = ch.wm.toNat →
     (ch.land p).wm = w64 (p.near + p.len) ∧ (ch.land p).whole = [] ∧ ch.passed p = p.lines) ∧
   (∀ (ch : Chan) (r a : Nat), ch.st = .openGet → ch.fault r a = { ch with st := .faultGet, reason := r, faddr := a }) ∧
   (∀ (s : State) (cl core cid n : Nat) (c : Ctx), s.findCid (cl * 64 + core) cid = some c →
     (s.core (cl * 64 + core)).inFlight cid n = false →
     ((c.chan n).st.faulted = true → (c.chan n).sigOr = false → (c.chan n).sig = 0 → exec (.channelFaultSignal cl core cid n) s =
       .next (s.modCid (cl * 64 + core) cid (·.setChan n { c.chan n with sigOr := true }))) ∧
     (∀ u, (c.chan n).st.faulted = true → (c.chan n).sigOr = false → (c.chan n).sig ≠ 0 →
       s.signal ((c.chan n).eng (cl * 64 + core) (c.chan n).sig) (c.chan n).sig (wfld c.ulaunch 15 0) orSignal = (u, .done) →
       exec (.channelFaultSignal cl core cid n) s =
         .next (u.modCid (cl * 64 + core) cid (·.setChan n { c.chan n with sigOr := true }))) ∧
     ((c.chan n).st = .cancelling → (c.chan n).owesOr = false ∨ (c.chan n).sig = 0 → exec (.channelCancelDrained cl core cid n) s =
       .next (s.modCid (cl * 64 + core) cid (·.setChan n (c.chan n).close))) ∧
     (∀ u, (c.chan n).st = .cancelling → (c.chan n).owesOr = true → (c.chan n).sig ≠ 0 →
       s.signal ((c.chan n).eng (cl * 64 + core) (c.chan n).sig) (c.chan n).sig (wfld c.ulaunch 15 0) orSignal = (u, .done) →
       exec (.channelCancelDrained cl core cid n) s =
         .next (u.modCid (cl * 64 + core) cid (·.setChan n (c.chan n).close)))) ∧
   (∀ (s : State) (g : Nat) (p : Piece), wfld p.satp 63 60 ≠ 0 →
     canonical p.read.toNat = false ∨ canonical p.write.toNat = false →
     s.runPiece g p = some (s, { p with fail := some (6, if p.get then p.read.toNat else p.write.toNat) })) ∧
   (∀ (s : State) (cl core cid n i : Nat) (c : Ctx) (h : Hart), s.findCid (cl * 64 + core) cid = some c →
     c.nextPiece (cl * 64 + core) n = none → c.pieceMeets (cl * 64 + core) n = some i →
     s.hartOfCid (cl * 64 + core) cid = some h → s.running h = true → (s.slot h).noIrq = false →
     (s.ctx h).priv = ((s.ctx h).chan n).ident.priv → exec (.channelPieceSend cl core cid n) s = .next (s.takeTrap h false 25
       (chanTval ((s.ctx h).chan i).reason false i ((s.ctx h).chan i).faddr)))) ∧
  ((∀ (s : State) (b a d : Reg), s.Runs → (s.ctx s.cur).vs ≠ 0 → (s.ctx s.cur).frozen = none →
     (s.ctx s.cur).seq.any (fun e => isFof e.bits) = false → (s.ctx s.cur).seq.length < 16 →
     let c := s.ctx s.cur
     let w : IWord := 2#6 ++ 1#1 ++ b ++ a ++ 3#3 ++ d ++ 0x5b#7
     let x : VI := { w := w, vl := c.vl, vt := c.vtype, op1 := 0#64, op2 := 0#64, vs := 0 }
     let st := sextW (wfld (s.xr b) 31 0) 32
     (!x.ill && x.groupOk d.toNat x.sew) = true →
     (c.vl = 0 → c.seq ≠ [] ∨ c.vstart = 0#64 → ∃ t, exec (.xfVget b a d) s = .next t ∧ Retired s t id s.nextPc) ∧
     (c.vl = 0 → c.seq = [] → c.vstart ≠ 0#64 → exec (.xfVget b a d) s = .next (s.trapped 2 (s.ibits.setWidth 64))) ∧
     (c.vl ≠ 0 → (s.xr a).toNat % (x.sew / 8) = 0 → st.toNat % (x.sew / 8) = 0 → c.freeStrip.isSome = true →
       ∃ t, exec (.xfVget b a d) s = .next t ∧ Retired s t (fun c => { c with seq := c.seq ++
         [{ bits := w, vl := c.vl, v := true, l := false, vtype := c.vtype, op1 := s.xr a, op2 := st,
            ident := identOf (s.ctx s.cur) (s.ctx s.cur).priv s.cur, satp := c.satp,
            cls := if wbit c.scos 4 then some (wfld c.scos 3 0) else none }] }) s.nextPc) ∧
     (c.vl ≠ 0 → (s.xr a).toNat % (x.sew / 8) ≠ 0 → exec (.xfVget b a d) s = .next (s.trapped 4 (s.xr a)))) ∧
   (∀ (s : State) (d : Reg), s.Runs → (s.ctx s.cur).vs ≠ 0 → (s.ctx s.cur).frozen = none → (s.ctx s.cur).seq.length < 16 →
     ∃ t, exec (.xfVwait d) s = .next t ∧ Retired s t (fun c => { c with seq := c.seq ++
       [{ bits := 3#6 ++ 1#1 ++ 0#5 ++ 0#5 ++ 3#3 ++ d ++ 0x5b#7, vl := c.vl, v := true, l := false, vtype := c.vtype,
          op1 := 0#64, op2 := 0#64 }] }) s.nextPc) ∧
   (∀ (s u : State) (cl core cid n grp : Nat) (h : Hart), s.hartOfCid (cl * 64 + core) cid = some h →
     let t := (s.ctx h).strip n
     t.v = true → t.fault = none → t.groups.contains grp = true → s.landElems h n t (t.groupElems grp) = (u, none) →
     let l : Strip := { (u.ctx h).strip n with landed := grp :: t.landed }
     exec (.stripElementLand cl core cid n grp) s = .next (u.modCtx h (·.setStrip n (if l.groups.isEmpty then {} else l)))) ∧
   (∀ (s u : State) (cl core cid n grp i : Nat) (rest : List Nat) (f : EngFail) (h : Hart),
     s.hartOfCid (cl * 64 + core) cid = some h →
     let t := (s.ctx h).strip n
     t.v = true → t.fault = none → t.groups = grp :: rest → s.landElems h n t (t.groupElems grp) = (u, some (i, f)) → f ≠ .later →
     exec (.stripElementFail cl core cid n) s = .next (u.modCtx h (fun c => c.setStrip n
       { c.strip n with start := i, src := t.addr i, landed := [], fault := some f.reason }))) ∧
   (∀ (s u : State) (h : Hart) (n : Nat) (t : Strip) (i : Nat) (bs : List Byte) (ps : List Bool),
     s.engRead (t.eng h.gcore i) (t.addr i) (t.width / 8) = (u, .ok (bs, ps)) →
     (ps.any id = false → (u.ctx h).vpoison = [] →
       s.landElem h n t i = (u.modCtx h (fun c => (c.landClean t i (leNat bs)).setStrip n
         (((c.landClean t i (leNat bs)).strip n).note i (some (leNat bs)))), .ok ()) ∧
       (u.ctx h).landClean t i (leNat bs) = (u.ctx h).setElem t.vd t.width i (leNat bs)) ∧
     (ps.any id = true → ∃ pa, s.landElem h n t i = (u.modCtx h (fun c => (c.landPoison t i pa).setStrip n
       (((c.landPoison t i pa).strip n).note i none)), .ok ()))) ∧
   (∀ (c : Ctx) (t : Strip) (i v pa : Nat),
     (c.landPoison t i pa).getV (t.regOf i) = t.old.getD (t.regOf i - t.vd) (c.getV (t.regOf i)) ∧
     (c.landPoison t i pa).landClean t i v = c.landPoison t i pa) ∧
   (∀ (c : Ctx) (n r : Nat), (c.strip n).v = true → (c.strip n).sew ≤ 3 → (c.strip n).regs.1 ≤ r → r < (c.strip n).regs.1 + (c.strip n).regs.2 →
     (∀ x ∈ (c.strip n).data, (c.strip n).regOf x.1 = r → (c.strip n).cutAt ≤ x.1) →
     (∀ j ∈ (c.strip n).bad, (c.strip n).regOf j = r → (c.strip n).cutAt ≤ j) →
     (c.cutStrip n).getV r = (c.strip n).old.getD (r - (c.strip n).vd) (c.getV r) ∧ ∀ x ∈ (c.cutStrip n).vpoison, x.1 ≠ r) ∧
   (∀ (t : Strip), t.v = true → t.groups ≠ [] → t.cutBack.start = t.cutAt ∧ t.cutBack.src = t.addr t.cutAt ∧
     t.cutBack.landed = [] ∧ t.cutBack.fault = none))

/-- R322, R360 to R365: tsk.put of a 64-byte aligned record raises cause 29 without weight to halve, or for a spawn
record of more children than half the weight, and cause 30 with code 5 for one in a launch slot of 4,096 or more; else
it writes 2^63 plus the lowest refusal reason, waits while the window is full, or puts the record into a free window
entry, the lowest (DESIGN CHOICE, log entry 9), with half the weight, and writes its handle; tsk.poll and tsk.wait
give 3 for a handle that names nothing and else the status word, tsk.wait once the record has ended, and acquire where
it is Done; tsk.cancel gives 3, 1 or 2 for a record that had ended and 0 for one it has cancelled itself; tsk.fence
gives whether a record it waited for failed, once none of them is held, where it waits for the records accepted before
it issued (the model's reading, DEDUCED, log entry 30); tsk.stream changes a stream that is the thread's or idle, and
reads it. -/
def Obligations.TaskInstructions : Prop :=
  (∀ (s : State) (a d : Reg), s.Runs → (s.xr a).toNat % 64 ≠ 0 → exec (.tskPut a d) s = .next (s.trapped 4 (s.xr a))) ∧
  (∀ (s u v : State) (a d : Reg) (bs : List Byte), s.Runs → (s.xr a).toNat % 64 = 0 →
    (s.ctx s.cur).queuedMem true true = false → loadBytes (s.xr a) 128 s.begun = .ok bs u →
    let c := v.ctx v.cur
    let fps := footprints bs v.cur.core
    let trap (cause : Nat) (tv : Word) : Prop :=
      exec (.tskPut a d) s = .next ((u.takeTrap u.cur false cause tv).passCycles u.cur.gcore)
    ((u.ctx u.cur).uweight.toNat < 2 ∨ recKind bs = 2 ∧ (u.ctx u.cur).uweight.toNat / 2 < recN bs →
      trap 29 (u.ctx u.cur).uweight) ∧
    (2 ≤ (u.ctx u.cur).uweight.toNat → recKind bs = 2 → recN bs ≤ (u.ctx u.cur).uweight.toNat / 2 →
      4096 ≤ (u.ctx u.cur).ulaunch.toNat → trap 30 5#64) ∧
    (2 ≤ (u.ctx u.cur).uweight.toNat → (recKind bs = 2 → recN bs ≤ (u.ctx u.cur).uweight.toNat / 2 ∧
      (u.ctx u.cur).ulaunch.toNat < 4096) → probeSig (recSig bs) u = .ok () v → c = u.ctx u.cur →
    (∀ r, v.recRefusal v.cur.cl c.asid bs fps = some r →
      exec (.tskPut a d) s = .next (v.putX d (w64 (2 ^ 63 + r))).retire) ∧
    (∀ e, v.recRefusal v.cur.cl c.asid bs fps = none → v.freeEntry v.cur.cl = some e → v.performed v.cur true true 2 = true →
      let w := c.uweight.toNat / 2
      let p : FntParty := { ident := identOf c c.priv v.cur, satp := c.satp, cls := recClass bs c.scos,
                            launch := wfld c.ulaunch 15 0, g := v.cur.gcore, weight := w }
      let h := e + (v.cluster v.cur.cl).taskSeq % 2 ^ 32 * 2 ^ 9 + v.cur.cl * 2 ^ 41
      exec (.tskPut a d) s = .next ((v.putTask v.cur.cl e bs fps p).modCtx v.cur (fun c =>
        { c with uweight := c.uweight - w64 w }.setX d.toNat (w64 h))).retire) ∧
    (v.recRefusal v.cur.cl c.asid bs fps = none → v.freeEntry v.cur.cl = none →
      exec (.tskPut a d) s = .next (v.waitCycles v.cur)))) ∧
  (∀ (s : State) (a d : Reg), s.Runs →
    (s.taskOf (s.ctx s.cur).asid (s.xr a) = none →
      (∃ t, exec (.tskPoll a d) s = .next t ∧ Retired s t (·.setX d.toNat 3#64) s.nextPc) ∧
      (∃ t, exec (.tskWait a d) s = .next t ∧ Retired s t (·.setX d.toNat 3#64) s.nextPc) ∧
      (∃ t, exec (.tskCancel a d) s = .next t ∧ Retired s t (·.setX d.toNat
        (if (s.slot s.cur).wait.map (·.kind) = some .cancel then 0#64 else 3#64)) s.nextPc)) ∧
    (∀ cl e, s.taskOf (s.ctx s.cur).asid (s.xr a) = some (cl, e) →
      let t := s.task cl e
      let u := if t.st = .done then s.acquire s.cur.gcore else s
      (∃ w, exec (.tskPoll a d) s = .next w ∧ Retired u w (·.setX d.toNat t.word) s.nextPc) ∧
      (t.live = false → ∃ w, exec (.tskWait a d) s = .next w ∧ Retired u w (·.setX d.toNat t.word) s.nextPc) ∧
      (t.live = true → exec (.tskWait a d) s = .next s.waited) ∧
      (t.live = false → t.retired = true → ∃ w, exec (.tskCancel a d) s = .next w ∧ Retired s w (·.setX d.toNat
        (if (s.slot s.cur).wait.map (·.kind) = some .cancel then 0#64 else if t.st = .done then 1#64 else 2#64)) s.nextPc) ∧
      (∀ u, t.live = true → killTask cl e .cancelled 9 s.begun = .ok () u → ∃ w, exec (.tskCancel a d) s = .next w ∧
        w.task cl e = u.task cl e ∧ w.ctx u.cur = u.ctx u.cur ∧
        ((u.task cl e).st = .cancelled → (w.slot u.cur).wait.map (·.kind) = some .cancel)))) ∧
  (∀ (s : State) (a d : Reg), s.Runs →
    let c := s.ctx s.cur
    let pick := if wbit (s.xr a) 63 then 64 else wfld (s.xr a) 5 0
    let open_ (m : Nat) : Prop := ∃ e ∈ (s.cluster s.cur.cl).tasks.ents, e.2.held = true ∧ e.2.ident.asid = c.asid ∧
      e.2.seq < m ∧ (pick = 64 ∨ recStream e.2.bytes = pick)
    ((s.slot s.cur).wait = none → ¬open_ (s.cluster s.cur.cl).taskSeq →
      ∃ t, exec (.tskFence a d) s = .next t ∧ Retired (s.acquire s.cur.gcore) t (·.setX d.toNat 0#64) s.nextPc) ∧
    ((s.slot s.cur).wait = none → open_ (s.cluster s.cur.cl).taskSeq →
      ∃ t, exec (.tskFence a d) s = .next t ∧ t.ctx s.cur = c ∧
        (t.slot s.cur).wait.map (fun m => (m.kind, m.a, m.b)) = some (.fence, (s.cluster s.cur.cl).taskSeq, pick)) ∧
    (∀ m, (s.slot s.cur).wait = some m → ¬open_ m.a → ∃ t, exec (.tskFence a d) s = .next t ∧
      Retired (s.acquire s.cur.gcore) t (·.setX d.toNat (if 128 ≤ m.b then 1#64 else 0#64)) s.nextPc)) ∧
  (∀ (s : State) (b a d : Reg), s.Runs →
    let n := wfld (s.xr a) 5 0
    let mine := s.streamCount s.cur.cl n = 0 ∨ (s.stream s.cur.cl n).asid = (s.ctx s.cur).asid
    (mine → let u := s.modStream s.cur.cl n (fun x => match wfld (s.xr b) 1 0 with
        | 1 => { x with fail := false }
        | 2 => { x with stopped := true }
        | 3 => { x with stopped := false }
        | _ => x)
      ∃ t, exec (.tskStream b a d) s = .next t ∧ Retired u t (·.setX d.toNat (u.streamWord s.cur.cl n)) s.nextPc) ∧
    (¬mine → ∃ t, exec (.tskStream b a d) s = .next t ∧
      Retired s t (·.setX d.toNat (s.streamWord s.cur.cl n)) s.nextPc))

/-- R343, R344, R347 to R354: the Herder starts the pooled record it chooses, the one of the highest effective
priority and among equals the earliest accepted, a signal-only one is Done at once, and the others start on their
engines; one whose start must wait holds back no record of another kind; a pooled record ages by one span; the spawn
unit sends the next child with its share of the weight; a transfer task cuts its next piece, in ascending order of
source, each within one page of both sides and together the bytes of the record's rows; a running record whose engine
has finished is Done, and a blocked record that waited for it alone is Ready or Pooled; a cancel finds a record whose
engine has finished Done, and one whose engine has failed Failed; a Done record with no signal retires and returns its
weight. Two footprints make an edge exactly when they share a byte and one of them writes. -/
def Obligations.HerderEvents : Prop :=
  (∀ (s u : State) (cl e p : Nat), s.nextTask cl (List.range 6) = some (e, p) →
    (s.startRecord cl e p = some u → exec (.herderDispatch cl) s = .next (u.pool cl)) ∧
    (∀ a b, s.startRecord cl e p = none →
      s.nextTask cl ((List.range 6).filter (· ≠ recKind (s.task cl e).bytes)) = some (a, b) → s.startRecord cl a b = some u →
      exec (.herderDispatch cl) s = .next (u.pool cl))) ∧
  (∀ (s u : State) (cl e p : Nat),
    (recKind (s.task cl e).bytes = 4 → s.startRecord cl e p = some ((s.startTask cl e 0).taskDone cl e)) ∧
    (recKind (s.task cl e).bytes = 1 ∨ recKind (s.task cl e).bytes = 2 → s.startRecord cl e p = some (s.startTask cl e p)) ∧
    (recKind (s.task cl e).bytes = 0 → startTile cl e p s = .ok () u → s.startRecord cl e p = some u) ∧
    (recKind (s.task cl e).bytes = 3 → startBeam cl e p s = .ok () u → s.startRecord cl e p = some u) ∧
    (recKind (s.task cl e).bytes = 5 → startFnt cl e s = .ok () u → s.startRecord cl e p = some u)) ∧
  (∀ (s : State) (cl e p : Nat) (t : Task) (kinds : List Nat), (s.cluster cl).tasks = ⟨[(e, t)]⟩ → t.st = .pooled →
    recKind t.bytes < 6 → recKind t.bytes ∈ kinds → s.freeEngine cl (recKind t.bytes) = some p →
    s.nextTask cl kinds = some (e, p)) ∧
  (∀ (s : State) (cl a b p q : Nat) (t u : Task), (s.cluster cl).tasks = ⟨[(a, t), (b, u)]⟩ → t.st = .pooled → u.st = .pooled →
    recKind t.bytes < 6 → recKind u.bytes < 6 → s.freeEngine cl (recKind t.bytes) = some p →
    s.freeEngine cl (recKind u.bytes) = some q →
    s.nextTask cl (List.range 6) = if t.effective < u.effective ∨ (t.effective = u.effective ∧ u.seq < t.seq)
      then some (b, q) else some (a, p)) ∧
  (∀ (s : State) (cl e : Nat), (s.task cl e).st = .pooled → (s.task cl e).effective < 3 →
    exec (.priorityAging cl e) s = .next (s.modTask cl e (fun t => { t with age := t.age + 1 }))) ∧
  (∀ (s : State) (cl e : Nat), (s.task cl e).st = .running → recKind (s.task cl e).bytes = 2 →
    (s.task cl e).sent < recN (s.task cl e).bytes → numAt (s.task cl e).bytes 0x7C 4 = 0 →
    let t := s.task cl e
    let n := recN t.bytes
    ∃ u, exec (.spawnChildSend cl e) s = .next u ∧ u.task cl e = { t with sent := t.sent + 1 } ∧
      u.recs = s.recs ++ [(s.fewest (.engine cl (16 + e)) (coresOf cl), .engine cl (16 + e),
        { pc := numAt t.bytes 0x50 8 % 2 ^ 48, lslot := t.launch % 4096, rx := false, fp := false, bh := false, bad := false,
          weight := t.weight / n + (if t.sent + 1 = n then t.weight % n else 0),
          a := [w64 (numAt t.bytes 0x58 8 + t.sent * numAt t.bytes 0x60 8), w64 (numAt t.bytes 0x68 8),
                w64 (numAt t.bytes 0x70 8), 0#64, 0#64, 0#64] })]) ∧
  (∀ (s : State) (cl e : Nat) (x : Nat × Nat × Nat), (s.task cl e).st = .running → recKind (s.task cl e).bytes = 1 →
    (xferPieces (s.task cl e).bytes)[(s.task cl e).sent]? = some x → (s.cluster cl).engFail = [] →
    let t := s.task cl e
    ∃ u p, exec (.transferTaskPieceCut cl e) s = .next u ∧ u.task cl e = { t with sent := t.sent + 1 } ∧
      (u.core t.g).pieces = (s.core t.g).pieces ++ [p] ∧ p.owner = .task cl e ∧ p.read = w64 x.1 ∧ p.write = w64 x.2.1 ∧
      p.len = x.2.2 ∧ u.mem = s.mem ∧ u.slots = s.slots) ∧
  (∀ b : List Byte, (xferPieces b).Pairwise (fun x y => x.1 ≤ y.1) ∧
    ((xferPieces b).map (·.2.2)).sum = numAt b 0x60 4 * max 1 (numAt b 0x64 4) * max 1 (numAt b 0x68 4) ∧
    ∀ x ∈ xferPieces b, 0 < x.2.2 ∧ x.1 % 4096 + x.2.2 ≤ 4096 ∧ x.2.1 % 4096 + x.2.2 ≤ 4096) ∧
  (∀ (s : State) (cl e : Nat), (s.task cl e).st = .running → s.engineDone cl e = true →
    exec (.taskEngineFinish cl e) s = .next (((s.freeTaskAcc cl (s.task cl e)).modCluster cl
      (fun c => { c with engDone := c.engDone.filter (· ≠ e) })).taskDone cl e)) ∧
  (∀ (s : State) (cl e r : Nat), (s.cluster cl).engFail = [(e, r)] →
    let u := s.modCluster cl (fun c => { c with engFail := [] })
    ((s.task cl e).st ≠ .running → exec (.taskEngineFailure cl e) s = .next u) ∧
    (∀ v, (s.task cl e).st = .running → killTask cl e .failed r u = .ok () v → exec (.taskEngineFailure cl e) s = .next v)) ∧
  (∀ (s : State) (cl e : Nat), (s.task cl e).st = .running →
    (s.engineDone cl e = true → killTask cl e .cancelled 9 s = .ok () ((s.engineEnds cl e).pool cl)) ∧
    (∀ r v, recKind (s.task cl e).bytes = 1 → (s.cluster cl).engFail = [(e, r)] → killTask cl e .cancelled 9 s = .ok () v →
      (v.task cl e).st = .failed ∧ (v.task cl e).reason = r) ∧
    (∀ v, recKind (s.task cl e).bytes = 1 → (s.cluster cl).engFail = [] → s.engineDone cl e = false →
      killTask cl e .cancelled 9 s = .ok () v → (v.task cl e).st = .cancelled ∧ (v.task cl e).reason = 9)) ∧
  (∀ t : Task, t.lostW = false →
    (recKind t.bytes = 2 → t.returns = if t.st = .done then 0 else t.weight - t.passed) ∧
    (recKind t.bytes = 0 ∨ recKind t.bytes = 1 ∨ recKind t.bytes = 4 → t.returns = t.weight)) ∧
  (∀ (s : State) (cl e d : Nat), d ≠ e → (s.task cl d).st = .blocked → (s.task cl d).preds = [e] →
    ((s.taskDone cl e).task cl d).preds = [] ∧
    (((s.taskDone cl e).task cl d).st = .ready ∨ ((s.taskDone cl e).task cl d).st = .pooled)) ∧
  (∀ (s : State) (cl e : Nat), (s.task cl e).st = .done → (s.task cl e).retired = false → s.taskPieces cl e = false →
    recKind (s.task cl e).bytes = 4 → recSig (s.task cl e).bytes = 0 → (s.task cl e).lostW = false → (s.task cl e).weight ≠ 0 →
    ∃ u, exec (.taskRetire cl e) s = .next u ∧ u.task cl e = { s.task cl e with retired := true, preds := [], after := [] } ∧
      u.wmsgs = s.wmsgs ++ [{ slot := (s.task cl e).launch, gen := (s.workAt (s.task cl e).launch).gen,
                              amount := (s.task cl e).weight }] ∧ u.mem = s.mem ∧ u.slots = s.slots) ∧
  (∀ e n : Nat × Nat × Nat, fpEdge e n = true ↔
    (∃ x, e.1 ≤ x ∧ x < e.1 + e.2.1 ∧ n.1 ≤ x ∧ x < n.1 + n.2.1) ∧ (e.2.2.testBit 1 = true ∨ n.2.2.testBit 1 = true))

/-- R401, R409 to R413: fnt.launch and fnt.load of a 64-byte aligned descriptor write 2^63 plus the lowest refusal
reason, or the handle of an accepted frontier launch, which takes half of uweight; fnt.done of a point in flight
completes it, of a frontier launch that has ended only goes on, and of a handle that names nothing raises cause 28;
fnt.save refuses with 3, 1 and 2, stops a running one and waits, and of a stopped one stores the body 32 bytes above
its address and then the header, and writes the record's length; one whose counts it cannot read fails, and fnt.save
gives 2; fnt.query and fnt.wait give 7 for a handle that names nothing and else the state word; fnt.cancel gives 3, 1,
2, or cancels and gives 0. The model's choices in it: the lowest free entry of each tracker is taken (log entry 9),
the counts of boundary lines are in the array before the signal of a cancel, and INFL reads 0 after an end (log entry
28). -/
def Obligations.FrontierInstructions : Prop :=
  (∀ (s : State) (a b d : Reg), s.Runs →
    ((s.xr a).toNat % 64 ≠ 0 → exec (.fntLaunch a d) s = .next (s.trapped 4 (s.xr a)) ∧
      exec (.fntLoad b a d) s = .next (s.trapped 4 (s.xr a))) ∧
    ((s.xr b).toNat % 8 ≠ 0 → exec (.fntSave b a d) s = .next (s.trapped 4 (s.xr b)))) ∧
  (∀ (s u v w : State) (a d : Reg) (bs hb : List Byte), s.Runs → (s.xr a).toNat % 64 = 0 →
    (s.ctx s.cur).queuedMem true true = false → loadBytes (s.xr a) 64 s.begun = .ok bs u →
    let k := fntDesc bs
    loadBytes (w64 k.khdr) 96 u = .ok hb v → 2 ≤ (v.ctx v.cur).uweight.toNat → probeSig k.sig v = .ok () w →
    w.ctx w.cur = v.ctx v.cur →
    let c := w.ctx w.cur
    let n := c.uweight.toNat / 2
    let p : FntParty := { ident := identOf c c.priv w.cur, satp := c.satp, cls := none, launch := wfld c.ulaunch 15 0,
                          g := w.cur.gcore, weight := n }
    (∀ r, w.fntRefusal k (headerOf k.khdr hb) c.ulaunch.toNat = some r →
      exec (.fntLaunch a d) s = .next (w.putX d (w64 (2 ^ 63 + r))).retire) ∧
    (∀ hd h z, w.fntRefusal k (headerOf k.khdr hb) c.ulaunch.toNat = none → headerOf k.khdr hb = some hd →
      w.performed w.cur true true 2 = true → fntAccept k hd {} p w = .ok h z →
      exec (.fntLaunch a d) s = .next (z.modCtx z.cur (fun c =>
        { c with uweight := c.uweight - w64 n }.setX d.toNat (w64 h))).retire)) ∧
  (∀ (s u v y w : State) (a b d : Reg) (bs hb rh : List Byte), s.Runs → (s.xr a).toNat % 64 = 0 → (v.xr b).toNat % 8 = 0 →
    (s.ctx s.cur).queuedMem true true = false → loadBytes (s.xr a) 64 s.begun = .ok bs u →
    let k := fntDesc bs
    loadBytes (w64 k.khdr) 96 u = .ok hb v → loadBytes (v.xr b) 32 v = .ok rh y → 2 ≤ (y.ctx y.cur).uweight.toNat →
    probeSig k.sig y = .ok () w → w.ctx w.cur = y.ctx y.cur →
    (∀ r, w.fntRefusal k (headerOf k.khdr hb) (w.ctx w.cur).ulaunch.toNat = some r →
      exec (.fntLoad b a d) s = .next (w.putX d (w64 (2 ^ 63 + r))).retire) ∧
    (∀ hd, w.fntRefusal k (headerOf k.khdr hb) (w.ctx w.cur).ulaunch.toNat = none → headerOf k.khdr hb = some hd →
      (fntHeaderBad k rh = true → exec (.fntLoad b a d) s = .next (w.putX d (w64 (2 ^ 63 + 7))).retire) ∧
      (∀ rb z h t, fntHeaderBad k rh = false →
        let n := fntLen (numAt rh 0x10 4) (numAt rh 0x14 4) (numAt rh 0x18 4)
        n ≤ 32 + 24 * k.lines + 80 * 256 * k.nb → loadBytes (v.xr b) n w = .ok rb z →
        let body := fntBody (numAt rh 0x10 4) (numAt rh 0x14 4) (numAt rh 0x18 4) (rb.drop 32)
        (body.ok k = false → exec (.fntLoad b a d) s = .next (z.putX d (w64 (2 ^ 63 + 8))).retire) ∧
        (body.ok k = true → z.performed z.cur true true 2 = true →
          let c := z.ctx z.cur
          let p : FntParty := { ident := identOf c c.priv z.cur, satp := c.satp, cls := none, launch := wfld c.ulaunch 15 0,
                                g := z.cur.gcore, weight := c.uweight.toNat / 2 }
          fntAccept k hd body p z = .ok h t → exec (.fntLoad b a d) s = .next (t.modCtx t.cur (fun x =>
            { x with uweight := x.uweight - w64 (c.uweight.toNat / 2) }.setX d.toNat (w64 h))).retire)))) ∧
  (∀ (s : State) (b a : Reg), s.Runs → s.performed s.cur true true 2 = true →
    (s.fntOf (s.ctx s.cur).asid (s.xr a) = none → exec (.fntDone b a) s = .next (s.trapped 28 (s.xr a))) ∧
    (∀ cl e, s.fntOf (s.ctx s.cur).asid (s.xr a) = some (cl, e) →
      (s.trk cl e).launch = wfld (s.ctx s.cur).ulaunch 15 0 →
      ((s.trk cl e).ended = true → ∃ t, exec (.fntDone b a) s = .next t ∧ Retired s t id s.nextPc) ∧
      (∀ x u, (s.trk cl e).ended = false → (s.trk cl e).owns (wfld (s.xr b) 63 32) = true →
        (s.trk cl e).held.look (wfld (s.xr b) 63 32) = some x →
        (x.inFlight (wfld (s.xr b) 31 0) = true → fntPoint cl e (wfld (s.xr b) 63 32) (wfld (s.xr b) 31 0) s.begun = .ok () u →
          exec (.fntDone b a) s = .next u.retire) ∧
        (x.inFlight (wfld (s.xr b) 31 0) = false → exec (.fntDone b a) s = .next (s.trapped 28 (s.xr a)))))) ∧
  (∀ (s : State) (b a d : Reg), s.Runs → (s.xr b).toNat % 8 = 0 → (s.ctx s.cur).queuedMem true true = false →
    (s.fntOf (s.ctx s.cur).asid (s.xr a) = none →
      ∃ t, exec (.fntSave b a d) s = .next t ∧ Retired s t (·.setX d.toNat (w64 (2 ^ 63 + 3))) s.nextPc) ∧
    (∀ cl e, s.fntOf (s.ctx s.cur).asid (s.xr a) = some (cl, e) →
      let t := s.trk cl e
      (s.fntState t = .complete →
        ∃ w, exec (.fntSave b a d) s = .next w ∧ Retired s w (·.setX d.toNat (w64 (2 ^ 63 + 1))) s.nextPc) ∧
      (s.fntState t = .failed ∨ s.fntState t = .cancelled ∨ s.fntState t = .saved →
        ∃ w, exec (.fntSave b a d) s = .next w ∧ Retired s w (·.setX d.toNat (w64 (2 ^ 63 + 2))) s.nextPc) ∧
      (s.fntState t = .running → let u := (s.begun.modTrk t.first.1 t.first.2 (fun x => { x with st := .stopping })).fntPull t
        exec (.fntSave b a d) s = .next (u.waitCycles u.cur)) ∧
      (s.fntState t = .stopping → exec (.fntSave b a d) s = .next s.waited) ∧
      (∀ body u w, s.fntState t = .stopped → (s.slot s.cur).wait.map (·.kind) ≠ some .posted →
        saveBody s.begun t s.begun = .ok body u →
        (storeEach (pageParts (s.xr b + 32#64) body.bytes.length ++ pageParts (s.xr b) 32)
          (body.bytes ++ body.header t.ndim (spaceLines t.ndim t.ext)) >>= fun _ => setWait (some { kind := .posted })) u = .ok () w →
        (u.slot u.cur).wait = (s.slot s.cur).wait → w.performed w.cur true true 2 = true →
        exec (.fntSave b a d) s = .next
          (((w.fntClose t .saved 0).acquire (w.fntClose t .saved 0).cur.gcore).putX d (w64 (32 + body.bytes.length))).retire) ∧
      (∀ body u, s.fntState t = .stopped → (s.slot s.cur).wait.map (·.kind) = some .posted →
        saveBody s.begun t s.begun = .ok body u → u.performed u.cur true true 2 = true →
        (u.slot u.cur).wait.map (·.kind) = some .posted →
        exec (.fntSave b a d) s = .next
          (((u.fntClose t .saved 0).acquire (u.fntClose t .saved 0).cur.gcore).putX d (w64 (32 + body.bytes.length))).retire) ∧
      (∀ f u w, s.fntState t = .stopped → saveBody s.begun t s.begun = .error f u → f ≠ .later →
        fntFail t f.fnt f.block u = .ok () w → exec (.fntSave b a d) s = .next (w.putX d (w64 (2 ^ 63 + 2))).retire))) ∧
  (∀ (s : State) (a d : Reg), s.Runs →
    (s.fntOf (s.ctx s.cur).asid (s.xr a) = none →
      (∃ t, exec (.fntQuery a d) s = .next t ∧ Retired s t (·.setX d.toNat 7#64) s.nextPc) ∧
      (∃ t, exec (.fntWait a d) s = .next t ∧ Retired s t (·.setX d.toNat 7#64) s.nextPc) ∧
      (∃ t, exec (.fntCancel a d) s = .next t ∧ Retired s t (·.setX d.toNat 3#64) s.nextPc)) ∧
    (∀ cl e, s.fntOf (s.ctx s.cur).asid (s.xr a) = some (cl, e) →
      let t := s.trk cl e
      let st := s.fntState t
      let u := if st = .complete ∨ st = .saved then s.acquire s.cur.gcore else s
      (∃ w, exec (.fntQuery a d) s = .next w ∧ Retired u w (·.setX d.toNat (s.fntWord t)) s.nextPc) ∧
      (st ≠ .running → st ≠ .stopping →
        ∃ w, exec (.fntWait a d) s = .next w ∧ Retired u w (·.setX d.toNat (s.fntWord t)) s.nextPc) ∧
      (st = .running ∨ st = .stopping → exec (.fntWait a d) s = .next s.waited) ∧
      (st = .complete ∨ st = .saved → ∃ w, exec (.fntCancel a d) s = .next w ∧ Retired s w (·.setX d.toNat 1#64) s.nextPc) ∧
      (st = .failed ∨ st = .cancelled → ∃ w, exec (.fntCancel a d) s = .next w ∧ Retired s w (·.setX d.toNat 2#64) s.nextPc) ∧
      (∀ w, st = .running ∨ st = .stopping ∨ st = .stopped → fntKill t .cancelled 3 s.begun = .ok () w →
        exec (.fntCancel a d) s = .next (w.putX d 0#64).retire)))

/-- R393 to R399, R403: a tracker fires the ready point it finds; a count waiting to be sent is written to the array
and sent to the next band; a message raises a ghost copy and never lowers it; a failed array access fails the frontier
launch. A point completed at the count of a line moves the count on by one, and a later point waits in the window.
R403 makes a frontier launch Stopped when no point runs or is parked: that this is so once the records of as many
points as are in flight have been withdrawn from each band, and the advanced counts are written, is the model's choice
(log entries 28 and 45), as is that a band with a count for the array and a ready point fires first where both fail
(log entry 45). -/
def Obligations.FrontierEvents : Prop :=
  (∀ (s u : State) (cl e : Nat), fireBand cl e s = .ok true u → exec (.frontierFire cl e) s = .next u) ∧
  (∀ (s : State) (cl e : Nat) (t : Trk) (x : Line), s.trk cl e = t → t.ended = false → s.fntState t = .running →
    t.inFlight < t.infl → t.ndim = 1 → t.lo = 0 → t.hi = 1 → t.held.look 0 = some x → x.comp = 0#64 → x.fired = 0#64 →
    x.count < t.last → t.vecs = [[1, 0, 0]] → t.ext = [t.last] → 2 ≤ t.weight →
    ∃ u, exec (.frontierFire cl e) s = .next u ∧
      u.recs = s.recs ++ [(s.fewest (.engine cl 1) (coresOf cl), .engine cl 1, t.record cl e 0 x.count)] ∧
      ((u.trk cl e).held.look 0).map (·.fired) = some 1#64 ∧ (u.trk cl e).weight = t.weight - 1 ∧ u.mem = s.mem) ∧
  (∀ (s u : State) (cl e l n : Nat) (rest : List (Nat × Nat)), (s.trk cl e).outbox = (l, n) :: rest →
    writeCount ((s.trk cl e).eng cl) (s.trk cl e) l n s = .ok () u →
    let v := u.modTrk cl e (fun t => { t with outbox := rest })
    ((s.trk cl e).bands[(s.trk cl e).band + 1]? = none → exec (.boundaryCountSend cl e) s = .next v) ∧
    (∀ c f, (s.trk cl e).bands[(s.trk cl e).band + 1]? = some (c, f) → exec (.boundaryCountSend cl e) s =
      .next (v.modTrk c f (fun x => { x with inbox := x.inbox ++ [(l, n)] })))) ∧
  (∀ (s : State) (cl e l n : Nat) (rest : List (Nat × Nat)), (s.trk cl e).inbox = (l, n) :: rest →
    exec (.frontierMessage cl e) s = .next (s.modTrk cl e (fun t => { t with inbox := rest }.takeMessage l n))) ∧
  (∀ (t : Trk) (l m n : Nat), t.ghost.look l = some m → (t.takeMessage l n).ghost.look l = some (max m n)) ∧
  (∀ (s : State) (cl e : Nat), (s.trk cl e).ended = false → (s.trk cl e).first = (cl, e) → (s.trk cl e).st = .stopping →
    (∀ b ∈ (s.trk cl e).bands, (s.trk b.1 b.2).outbox = [] ∧
      (s.trk b.1 b.2).flying.length ≤ (s.trk b.1 b.2).withdrawn.length) →
    exec (.frontierStopped cl e) s = .next (s.modTrk cl e (fun t => { t with st := .stopped }))) ∧
  (∀ (s u v : State) (cl e : Nat) (f : EngFail), (s.trk cl e).ended = false → (s.trk cl e).gen ≠ 0 →
    fireBand cl e s = .error f v ∨ (∃ b w, fireBand cl e s = .ok b w ∧ sendBoundary cl e w = .error f v) → f ≠ .later →
    fntFail (s.trk cl e) f.fnt f.block (s.keepErrs v) = .ok () u → exec (.frontierArrayFault cl e) s = .next u) ∧
  (∀ (x : Line), x.comp = 0#64 → x.finish 0 = { count := x.count + 1, comp := 0#64, fired := wputb x.fired 0 false >>> 1 }) ∧
  (∀ (x : Line) (k : Nat), x.comp = 0#64 → 0 < k → k < 64 →
    x.finish k = { count := x.count, comp := wputb 0#64 k true, fired := wputb x.fired k false })

/-- R428, R432, R437 to R446: bm.query of a 128-byte aligned block writes 2^63 plus the lowest refusal reason, or
starts the query in the lowest free slot with half of uweight and writes its handle; bm.poll gives 5 for a handle that
names nothing and else the status word; bm.wait gives it too once the query has ended, starts a Faulted one again,
once, and raises cause 27 for a query that stays Faulted; bm.split and bm.resume act on a record of an active query
with room for what they hand over, bm.resume handing the record's item over, releasing its slot, whose most recently
placed residual is then spawned, or both; bm.cancel gives 3, 1, 2, or cancels and gives 0. The Terrier places what is
to be placed or moves its item on; a Faulted query spawns the residuals owed to freed slots; a query with nothing left
is Complete; a failed access makes it Faulted, and the error records that it sent stay sent. R442 gives the lowest
Terrier with a free slot: that it is the lowest free slot of it is the model's choice (log entry 9). That a cancelled
query holds no reason, and the order in which handed-over items are placed, are the model's readings (log entry 29).
-/
def Obligations.BeamQueries : Prop :=
  (∀ (s : State) (a b d : Reg), s.Runs → (s.xr a).toNat % 128 ≠ 0 → exec (.bmQuery a d) s = .next (s.trapped 4 (s.xr a)) ∧
    exec (.bmSplit a d) s = .next (s.trapped 4 (s.xr a)) ∧ exec (.bmResume b a d) s = .next (s.trapped 4 (s.xr a))) ∧
  (∀ (s u v : State) (a d : Reg) (bs : List Byte), s.Runs → (s.xr a).toNat % 128 = 0 →
    (s.ctx s.cur).queuedMem true true = false → loadBytes (s.xr a) 128 s.begun = .ok bs u →
    2 ≤ (u.ctx u.cur).uweight.toNat → numAt bs 0x74 1 = 0 ∨ (u.ctx u.cur).ulaunch.toNat < 4096 →
    probeSig (blkSig bs) u = .ok () v →
    (∀ r, blkRefusal bs = some r → exec (.bmQuery a d) s = .next (v.putX d (w64 (2 ^ 63 + r))).retire) ∧
    (∀ k w, blkRefusal bs = none → v.freeQry v.cur.cl = some k → v.performed v.cur true true 2 = true →
      let c := v.ctx v.cur
      let n := c.uweight.toNat / 2
      let p : FntParty := { ident := identOf c c.priv v.cur, satp := c.satp, cls := none,
                            launch := wfld c.ulaunch 15 0, g := v.cur.gcore, weight := n }
      v.startQry v.cur.cl k bs (s.xr a).toNat p none = w →
      exec (.bmQuery a d) s = .next (w.modCtx w.cur (fun c =>
        { c with uweight := c.uweight - w64 n }.setX d.toNat (w64 ((w.qry w.cur.cl k).handle w.cur.cl k)))).retire)) ∧
  (∀ (s : State) (a d : Reg), s.Runs →
    (s.qryOf (s.ctx s.cur).asid (s.xr a).toNat = none →
      (∃ t, exec (.bmPoll a d) s = .next t ∧ Retired s t (·.setX d.toNat 5#64) s.nextPc) ∧
      (∃ t, exec (.bmWait a d) s = .next t ∧ Retired s t (·.setX d.toNat 5#64) s.nextPc) ∧
      (∃ t, exec (.bmCancel a d) s = .next t ∧ Retired s t (·.setX d.toNat 3#64) s.nextPc)) ∧
    (∀ cl k, s.qryOf (s.ctx s.cur).asid (s.xr a).toNat = some (cl, k) →
      let q := s.qry cl k
      let u := if q.st = .complete then s.acquire s.cur.gcore else s
      (∃ w, exec (.bmPoll a d) s = .next w ∧ Retired u w (·.setX d.toNat q.word) s.nextPc) ∧
      (q.st = .complete ∨ q.st = .failed ∨ q.st = .cancelled →
        ∃ w, exec (.bmWait a d) s = .next w ∧ Retired u w (·.setX d.toNat q.word) s.nextPc) ∧
      (q.st = .running → ∃ w, exec (.bmWait a d) s = .next w ∧ w.ctx s.cur = s.ctx s.cur ∧
        (w.slot s.cur).wait.map (·.kind) = some .beam) ∧
      (∀ w, q.st = .faulted → (s.slot s.cur).wait.map (·.kind) ≠ some .beam → restartQry cl k s.begun = .ok () w →
        (w.qry cl k).st = .running → ∃ v, exec (.bmWait a d) s = .next v ∧ v.qry cl k = w.qry cl k ∧ v.mem = w.mem ∧
          (v.slot w.cur).wait.map (·.kind) = some .beam) ∧
      (q.st = .faulted → (s.slot s.cur).wait.map (·.kind) = some .beam →
        exec (.bmWait a d) s = .next (s.trapped 27 (w64 q.faddr))) ∧
      (q.st = .complete → ∃ w, exec (.bmCancel a d) s = .next w ∧ Retired s w (·.setX d.toNat 1#64) s.nextPc) ∧
      (q.st = .failed ∨ q.st = .cancelled →
        ∃ w, exec (.bmCancel a d) s = .next w ∧ Retired s w (·.setX d.toNat 2#64) s.nextPc) ∧
      (∀ w, q.active = true → qryEnd cl k .cancelled 0 orSignal s.begun = .ok () w →
        exec (.bmCancel a d) s = .next (w.putX d 0#64).retire))) ∧
  (∀ (s u : State) (a b d : Reg) (bs : List Byte), s.Runs → (s.xr a).toNat % 128 = 0 →
    (s.ctx s.cur).queuedMem true true = false → loadBytes (s.xr a) 128 s.begun = .ok bs u →
    (u.qryOf (u.ctx u.cur).asid (numAt bs 0x50 8) = none →
      exec (.bmSplit a d) s = .next (u.putX d (w64 (2 ^ 63 + 2))).retire ∧
      exec (.bmResume b a d) s = .next (u.putX d 2#64).retire) ∧
    (∀ cl k, u.qryOf (u.ctx u.cur).asid (numAt bs 0x50 8) = some (cl, k) → (u.qry cl k).active = true →
      (u.qry cl k).recordOk bs = true →
      let q := u.qry cl k
      let ch := q.children (itemOf bs)
      (numAt bs 0x58 8 = q.addr →
        (q.unsplittable (itemOf bs) = true → exec (.bmSplit a d) s = .next (u.putX d 0#64).retire) ∧
        (q.unsplittable (itemOf bs) = false → q.room (ch.length - 1) = false →
          exec (.bmSplit a d) s = .next (u.putX d (w64 (2 ^ 63 + 1))).retire) ∧
        (∀ v w, q.unsplittable (itemOf bs) = false → q.room (ch.length - 1) = true → u.performed u.cur true true 2 = true →
          storeBytes (s.xr a) (q.recordOf cl k (ch.headD default)) u = .ok () v → handOver cl k (ch.drop 1) v = .ok () w →
          exec (.bmSplit a d) s = .next (w.putX d (w64 ch.length)).retire)) ∧
      let hand := (u.xr b).getLsbD 0
      let rel := (u.xr b).getLsbD 1
      (u.xr b = s.xr b →
        (rel = true → q.slotOf (s.xr a).toNat = none →
          exec (.bmResume b a d) s = .next ((u.takeTrap u.cur false 27 (s.xr a)).passCycles u.cur.gcore)) ∧
        (rel = false ∨ (q.slotOf (s.xr a).toNat).isSome = true → hand = true → q.room 1 = false →
          exec (.bmResume b a d) s = .next (u.putX d 1#64).retire) ∧
        (hand = false ∨ q.room 1 = true → u.performed u.cur true true 2 = true →
          let v := if hand then u.handItems cl k [itemOf bs] else u
          (rel = false → exec (.bmResume b a d) s = .next (v.putX d 0#64).retire) ∧
          (∀ slot, rel = true → q.slotOf (s.xr a).toNat = some slot →
            exec (.bmResume b a d) s = .next ((v.endHandler cl k slot).putX d 0#64).retire))))) ∧
  (∀ (s : State) (cl k : Nat), (s.qry cl k).st = .running →
    ((s.qry cl k).todo ≠ [] → exec (.terrierItemStep cl k) s = .next (s.placeAll cl k)) ∧
    (∀ u, (s.qry cl k).owe = 0 → (s.qry cl k).todo = [] → itemStep cl k s = .ok true u →
      exec (.terrierItemStep cl k) s = .next (u.placeAll cl k)) ∧
    (∀ e u v, (s.qry cl k).owe = 0 → (s.qry cl k).todo = [] → itemStep cl k s = .error e u → qryErr cl k e (s.keepErrs u) = .ok () v →
      exec (.terrierAccessFault cl k) s = .next v) ∧
    ((s.qry cl k).owe = 0 → (s.qry cl k).todo = [] → (s.qry cl k).item = none → (s.qry cl k).stack = [] →
      (s.qry cl k).spill = [] → (s.qry cl k).out = [] → blkMode (s.qry cl k).block ≠ 2 → blkSig (s.qry cl k).block = 0 →
      (s.qry cl k).task = none →
      ∃ t, exec (.terrierItemStep cl k) s = .next t ∧ (t.qry cl k).st = .complete ∧ (t.qry cl k).weight = 0 ∧ t.mem = s.mem)) ∧
  (∀ (s u : State) (cl k : Nat) (b : Bool), (s.qry cl k).st = .faulted → 0 < (s.qry cl k).owe → spawnResidual cl k s = .ok b u →
    exec (.terrierItemStep cl k) s = .next (u.spawnAll cl k)) ∧
  (∀ (s : State) (cl k va : Nat) (f : EngFail), (s.qry cl k).st = .running → (s.qry cl k).task = none →
    f = .page ∨ f = .access → ∃ t, qryErr cl k (.eng f va) s = .ok () t ∧ (t.qry cl k).st = .faulted ∧
      (t.qry cl k).reason = (if f = .page then 1 else 2) ∧ (t.qry cl k).faddr = va) ∧
  (∀ q : Qry, q.coverage = (if (0, 0) ∈ q.blocked then 2 else if q.anyBlk = false ∧ q.resid = 0 then 1 else 3))

/-- R75, R195 to R202, R206, R215 to R223: below S-mode every sys instruction raises illegal instruction. Above it,
sys.kswap exchanges the context of the slot it names with the Kennel entry's, of its own slot as an sret into the
incoming one; sys.ksave gives 1 where there is nothing to save, 2 for an entry that is loading, saving or Failed, 3
where it should move a slot's context into an entry that is taken, or starts the save and gives 0, and goes on with a
stalled one from where it stopped (that it looks for these in the order of their numbers is the model's reading,
DEDUCED, log entry 24); sys.kload of a 64-byte aligned image gives 1, 2 or 3, or starts the load and gives 0; sys.halt
stops another core and gives its status, sys.resume lets it run; sys.rankset of a spare core marks the rank in transit
and gives 0 when the move is done; a rank of the issuing core raises cause 30 code 1, a target of 66 or above code 2,
one that is no spare code 3; sys.scent reads the status and imposes a log; sys.tlbinv invalidates in every TLB;
sys.poison plants an error, and drops the cluster's L1D copies of the block. The model's choices in it (DESIGN CHOICE,
log entry 21): the count of a log is bits 31:0 of x[rs2], its address is rounded down to 16 bytes, and sys.poison
drops those copies; (log entry 47): the store check of sys.poison walks as a store. -/
def Obligations.SystemInstructions : Prop :=
  (∀ (s : State) (a b d : Reg), s.Runs → (s.ctx s.cur).priv = .u →
    ∀ i ∈ [Instr.sysKswap, .sysKsave d, .sysKload a d, .sysRankset b a d, .sysScent b a d, .sysHalt a d, .sysResume a,
        .sysTlbinv b a, .sysPoison b a],
      exec i s = .next (s.trapped 2 (s.ibits.setWidth 64))) ∧
  (∀ (s : State), s.Runs → (s.ctx s.cur).priv ≠ .u →
    let g := s.cur.gcore
    let k := (s.slot s.cur).skennel
    let n := wfld k 4 0
    let h := g * 8 + wfld k 10 8
    let e := (s.core g).ken n
    (e.st.swaps = true → h ≠ s.cur → (s.slot h).ctx = none ∨ s.movable h = true →
      exec .sysKswap s = .next (s.begun.swap h n ((s.slot h).ctx.map (·.captured)) (wbit k 11)).retire) ∧
    (e.st.swaps = true → h = s.cur → s.movable h = true → ∃ t, exec .sysKswap s = .next t ∧
      (t.slot h).ctx = e.ctx.map (·.enter.sretStatus) ∧ ((t.core g).ken n).ctx = some (s.ctx h).captured.swapSelf ∧
      ((t.core g).ken n).st = (if wbit k 11 then .ready else .parked)) ∧
    (e.st.swaps = false → exec .sysKswap s = .next (s.trapped 30 4#64)) ∧
    (∀ d, wbit k 13 = false →
      (e.st = .empty → ∃ t, exec (.sysKsave d) s = .next t ∧ Retired s t (·.setX d.toNat 1#64) s.nextPc) ∧
      (e.st.busy = true → ∃ t, exec (.sysKsave d) s = .next t ∧ Retired s t (·.setX d.toNat 2#64) s.nextPc) ∧
      (e.st = .parked ∨ e.st = .ready → ∃ t, exec (.sysKsave d) s = .next t ∧ Retired (s.modCore g (fun k =>
        k.setKen n { e with st := .saving, by_ := s.cur, off := 0, cos := wfld (s.ctx s.cur).scos 3 0, cls := (s.ctx s.cur).carries })) t (·.setX d.toNat 0#64) s.nextPc) ∧
      (e.st = .stalled → ∃ t, exec (.sysKsave d) s = .next t ∧ Retired (s.modCore g (fun k =>
        k.setKen n { e with st := .saving, by_ := s.cur, cos := wfld (s.ctx s.cur).scos 3 0, cls := (s.ctx s.cur).carries })) t (·.setX d.toNat 0#64) s.nextPc)) ∧
    (∀ d, wbit k 13 = true → (h = s.cur → exec (.sysKsave d) s = .next (s.trapped 30 10#64)) ∧
      (h ≠ s.cur → (s.slot h).ctx = none → ∃ t, exec (.sysKsave d) s = .next t ∧
        Retired s t (·.setX d.toNat 1#64) s.nextPc) ∧
      (h ≠ s.cur → (s.slot h).ctx.isSome = true → e.st.busy = true → ∃ t, exec (.sysKsave d) s = .next t ∧
        Retired s t (·.setX d.toNat 2#64) s.nextPc) ∧
      (h ≠ s.cur → (s.slot h).ctx.isSome = true → e.st ≠ .empty → e.st.busy = false → ∃ t, exec (.sysKsave d) s = .next t ∧
        Retired s t (·.setX d.toNat 3#64) s.nextPc) ∧
      (h ≠ s.cur → (s.slot h).ctx.isSome = true → e.st = .empty → s.movable h = false →
        exec (.sysKsave d) s = .next s.waited) ∧
      (∀ c, h ≠ s.cur → (s.slot h).ctx = some c → e.st = .empty → s.movable h = true →
        ∃ t, exec (.sysKsave d) s = .next t ∧ (t.slot h).ctx = none ∧ t.xr d = 0#64 ∧
          (t.core g).ken n = { st := .saving, ctx := some c.captured, by_ := s.cur, cos := wfld (s.ctx s.cur).scos 3 0,
                               cls := (s.ctx s.cur).carries }))) ∧
  (∀ (s : State) (h : Hart) (n : Nat) (out : Option Ctx) (rdy : Bool), n < 32 →
    ((s.swap h n out rdy).slot h).ctx = ((s.core h.gcore).ken n).ctx.map (·.enter) ∧
    (((s.swap h n out rdy).core h.gcore).ken n).ctx = out ∧
    (∀ i, i ≠ h → ((s.swap h n out rdy).slot i).ctx = (s.slot i).ctx) ∧ (s.swap h n out rdy).mem = s.mem) ∧
  (∀ (s : State) (a d : Reg), s.Runs → (s.ctx s.cur).priv ≠ .u → (s.xr a).toNat % 64 ≠ 0 →
    exec (.sysKload a d) s = .next (s.trapped 4 (s.xr a))) ∧
  (∀ (s u : State) (a d : Reg) (bs : List Byte), s.Runs → (s.ctx s.cur).priv ≠ .u → (s.xr a).toNat % 64 = 0 →
    (s.ctx s.cur).queuedMem true true = false → loadHeader (s.xr a) s.begun = .ok bs u →
    let k := u.core u.cur.gcore
    let n := wfld (u.slot u.cur).skennel 4 0
    let names := bitsOf8 (numAt bs 8 1)
    ((k.ken n).st ≠ .empty → exec (.sysKload a d) s = .next (u.putX d 1#64).retire) ∧
    ((k.ken n).st = .empty → headerOk bs = false → exec (.sysKload a d) s = .next (u.putX d 2#64).retire) ∧
    ((k.ken n).st = .empty → headerOk bs = true → k.freeAccs.length < names.length →
      exec (.sysKload a d) s = .next (u.putX d 3#64).retire) ∧
    ((k.ken n).st = .empty → headerOk bs = true → names.length ≤ k.freeAccs.length →
      ∃ t, exec (.sysKload a d) s = .next t ∧ ((t.core u.cur.gcore).ken n).st = .loading ∧
        ((t.core u.cur.gcore).ken n).image = (s.xr a).toNat ∧ ((t.core u.cur.gcore).ken n).satp = (u.ctx u.cur).satp ∧
        t.mem = u.mem)) ∧
  (∀ (s : State) (a b d : Reg), s.Runs → (s.ctx s.cur).priv ≠ .u →
    let g := s.cur.cl * 64 + wfld (s.xr a) 5 0
    (g = s.cur.gcore → exec (.sysHalt a d) s = .next (s.trapped 30 1#64) ∧ exec (.sysResume a) s = .next (s.trapped 30 1#64)) ∧
    (g ≠ s.cur.gcore →
      (let u := if (s.core g).halted then s else s.haltCore g
       ∃ t, exec (.sysHalt a d) s = .next t ∧ Retired u t (·.setX d.toNat (u.core g).haltWord) s.nextPc) ∧
      (let u := if (s.core g).halted then s.resumeCore g else s
       ∃ t, exec (.sysResume a) s = .next t ∧ Retired u t id s.nextPc)) ∧
    ((s.slot s.cur).wait.map (·.kind) = some .rankMoved →
      ∃ t, exec (.sysRankset b a d) s = .next t ∧ Retired s t (·.setX d.toNat 0#64) s.nextPc) ∧
    ((s.slot s.cur).wait = none → g ≠ s.cur.gcore → wfld (s.xr b) 6 0 < 66 →
      (s.spareMask s.cur.cl).testBit (wfld (s.xr b) 6 0) = true → (s.cluster s.cur.cl).moving = none →
      ∃ t, exec (.sysRankset b a d) s = .next t ∧ t.ctx s.cur = s.ctx s.cur ∧ t.inTransit g = true ∧
        (t.cluster s.cur.cl).moving = some { rank := g % 64, target := wfld (s.xr b) 6 0, retire := wbit (s.xr b) 8,
                                             wasHalted := (s.core g).halted, by_ := s.cur }) ∧
    ((s.slot s.cur).wait = none → g = s.cur.gcore → exec (.sysRankset b a d) s = .next (s.trapped 30 1#64)) ∧
    ((s.slot s.cur).wait = none → g ≠ s.cur.gcore → 66 ≤ wfld (s.xr b) 6 0 →
      exec (.sysRankset b a d) s = .next (s.trapped 30 2#64)) ∧
    ((s.slot s.cur).wait = none → g ≠ s.cur.gcore → wfld (s.xr b) 6 0 < 66 →
      (s.spareMask s.cur.cl).testBit (wfld (s.xr b) 6 0) = false →
      exec (.sysRankset b a d) s = .next (s.trapped 30 3#64)) ∧
    (∃ t, exec (.sysScent b 0#5 d) s = .next t ∧
      Retired s t (·.setX d.toNat (s.core s.cur.gcore).impose.word) s.nextPc) ∧
    (a ≠ 0#5 → down (s.xr a).toNat 16 + 16 * wfld (s.xr b) 31 0 ≤ 0x10000000000 → down (s.xr a).toNat 16 < 0x10000000000 →
      ∃ t, exec (.sysScent b a d) s = .next t ∧ Retired (s.modCore s.cur.gcore (fun k => { k with
        impose := { next := down (s.xr a).toNat 16, left := wfld (s.xr b) 31 0, diverged := false,
                    held := if k.impose.left = 0 then k.portq.map (·.sig s.cur.gcore) else k.impose.held } })) t
          (·.setX d.toNat (s.core s.cur.gcore).impose.word) s.nextPc) ∧
    (s.performed s.cur false true 2 = true → ∃ t, exec (.sysTlbinv b a) s = .next t ∧
      Retired (s.invalAll (if a = 0#5 then none else some (s.xr a).toNat)
        (if b = 0#5 then none else some (wfld (s.xr b) 15 0))) t id s.nextPc) ∧
    (∀ tg u, translate .store (s.xr a) (s.xr a) 1 s.begun = .ok tg u →
      (wfld (s.xr b) 1 0 = 0 → exec (.sysPoison b a) s = .next (State.retire { u.poisonCurrent u.cur.cl (blk tg.a) tg.attr.key with
        injected := if u.injected.contains (blk tg.a) then u.injected else blk tg.a :: u.injected })) ∧
      (wfld (s.xr b) 1 0 = 1 → exec (.sysPoison b a) s = .next (State.retire { u.l1dInvalidate u.cur.cl none (blk tg.a) with
        soft := if u.soft.contains (blk tg.a) then u.soft else blk tg.a :: u.soft })) ∧
      (2 ≤ wfld (s.xr b) 1 0 → exec (.sysPoison b a) s = .next u.retire)))

/-- R196 to R198, R206, R218 to R220: the Kennel unit's save writes the image and empties the entry, or stalls at the
store that fails and raises interrupt 31; its load fills the entry, or empties it where a read fails, with interrupt
31 or, for poison, an error record; a halted core at whose scratchpad nothing aims is quiescent; a rank move that is
ready puts the rank on its new core; imposition whose next record matches none of the accesses that it holds ends with
DIVERGED (that no record counts as remaining then is the model's choice, DESIGN CHOICE, log entry 21). -/
def Obligations.KennelEvents : Prop :=
  (∀ (s u : State) (cl core n : Nat), s.saving (cl * 64 + core) n = true →
    (s.runSave (cl * 64 + core) n = (u, none) → exec (.kennelSaveComplete cl core n) s = .next (u.modCore (cl * 64 + core)
      (fun k => (k.forget ((k.ken n).ctx.getD {})).setKen n {}))) ∧
    (∀ va f, s.runSave (cl * 64 + core) n = (u, some (va, f)) → f ≠ .later → ((s.core (cl * 64 + core)).ken n).by_ / 8 = cl * 64 + core →
      ((u.core (cl * 64 + core)).ken n) = ((s.core (cl * 64 + core)).ken n) → n < 32 →
      ∃ t, exec (.kennelSaveFault cl core n) s = .next t ∧ ((t.core (cl * 64 + core)).ken n).st = .stalled ∧
        (t.slot ((s.core (cl * 64 + core)).ken n).by_).mip.getLsbD 31 = true ∧
        (t.slot ((s.core (cl * 64 + core)).ken n).by_).ktval = w64 va ∧
        wfld (t.slot ((s.core (cl * 64 + core)).ken n).by_).skennel 4 0 = n)) ∧
  (∀ (s u : State) (cl core n : Nat), ((s.core (cl * 64 + core)).ken n).st = .loading →
    (∀ bs, s.runLoad (cl * 64 + core) n = (u, .ok bs) →
      let en := (s.core (cl * 64 + core)).ken n
      ∃ t, exec (.kennelLoadComplete cl core n) s = .next t ∧
        ((t.core (cl * 64 + core)).ken n).st = (if en.rdy then .ready else .parked) ∧
        ((t.core (cl * 64 + core)).ken n).ctx = some (loadCtx (en.ctx.getD {}) bs en.vlenb en.flags.toNat en.by_) ∧
        t.mem = u.mem) ∧
    (∀ va f, s.runLoad (cl * 64 + core) n = (u, .error (va, f)) → f = .page ∨ f = .access →
      ∃ t, exec (.kennelLoadFault cl core n) s = .next t ∧ (t.core (cl * 64 + core)).ken n = {} ∧
        (t.slot ((s.core (cl * 64 + core)).ken n).by_).mip.getLsbD 31 = true ∧
        (t.slot ((s.core (cl * 64 + core)).ken n).by_).ktval = w64 va) ∧
    (∀ va b, s.runLoad (cl * 64 + core) n = (u, .error (va, .poison b)) →
      exec (.kennelLoadFault cl core n) s = .next ((u.modCore (cl * 64 + core) (fun k =>
        (k.forget (((s.core (cl * 64 + core)).ken n).ctx.getD {})).setKen n {})).error (u.loadError (cl * 64 + core) n va)))) ∧
  (∀ (s : State) (cl core : Nat), (s.core (cl * 64 + core)).halted = true → (s.core (cl * 64 + core)).quiet = false →
    s.aimed (cl * 64 + core) anyTime = false →
    exec (.haltQuiescent cl core) s = .next (s.modCore (cl * 64 + core) (fun k => { k with quiet := true }))) ∧
  (∀ (s : State) (cl : Nat) (m : Move), (s.cluster cl).moving = some m → s.moveReady (cl * 64 + m.rank) = true → m.rank < 64 →
    (s.cluster cl).hold = [] → ∃ t, exec (.rankMoveComplete cl) s = .next t ∧ (t.cluster cl).moving = none ∧
      t.inTransit (cl * 64 + m.rank) = false ∧ t.physOf (cl * 64 + m.rank) = m.target ∧ t.mem = s.mem ∧
      (∀ w, (s.slot m.by_).wait = some w → w.kind = .rankMove → (t.slot m.by_).wait = some { w with kind := .rankMoved })) ∧
  (∀ (s : State) (cl core : Nat), (s.core (cl * 64 + core)).impose.left ≠ 0 → (s.core (cl * 64 + core)).impose.held ≠ [] →
    s.heldMatches (cl * 64 + core) = false → s.servePort (cl * 64 + core) [] (s.core (cl * 64 + core)).portq = none →
    exec (.scentDivergenceTimeout cl core) s = .next (s.modCore (cl * 64 + core) (fun k =>
      { k with impose := { k.impose with left := 0, diverged := true } })))

/-- R466 to R472: q.push copies a 64-byte record into the ring of an Active push queue of the thread's address space
with room and gives its index; q.pop and q.peek give the index of the head record of an Active queue of the second
server kind, and q.pop consumes it; q.notify writes the write index; q.reset waits until the queue is Disabled and
gives 0; q.state gives the queue's word; each gives 2^63 plus the lowest code that applies where the queue is not so:
1 for no queue, 2 for one of another address space or kind, 3 for one that is not Active, 4 for a full or empty ring
or a rejected index, and 5 or 6 where the ring cannot be written or read, which stops the queue with ERR 6, 3 or 4. An
address that is not aligned raises cause 4. -/
def Obligations.QueueInstructions : Prop :=
  (∀ (s : State) (a b d : Reg), s.Runs → (s.xr b).toNat % 64 ≠ 0 → exec (.qPush b a d) s = .next (s.trapped 4 (s.xr b)) ∧
    exec (.qPop b a d) s = .next (s.trapped 4 (s.xr b)) ∧ exec (.qPeek b a d) s = .next (s.trapped 4 (s.xr b))) ∧
  (∀ (s u : State) (a b d : Reg) (bs : List Byte), s.Runs → (s.xr b).toNat % 64 = 0 →
    (s.ctx s.cur).queuedMem true true = false → loadBytes (s.xr b) 64 s.begun = .ok bs u →
    let q := (u.xr a).toNat
    let x := u.queue q
    (∀ r, pushRefusal (u.xr a) (u.ctx u.cur).asid u = some r →
      exec (.qPush b a d) s = .next (u.putX d (w64 (2 ^ 63 + r))).retire) ∧
    (∀ v, pushRefusal (u.xr a) (u.ctx u.cur).asid u = none → u.performed u.cur true true 2 = true →
      writeE (x.engOf u.cur (u.ctx u.cur)) (x.ring x.wr) bs u = .ok () v → v.queue q = x →
      exec (.qPush b a d) s =
        .next ((v.setQueue q { x with wr := (x.wr + 1) % 2 ^ 32 }).putX d (w64 x.wr)).retire) ∧
    (∀ f v, pushRefusal (u.xr a) (u.ctx u.cur).asid u = none → u.performed u.cur true true 2 = true →
      writeE (x.engOf u.cur (u.ctx u.cur)) (x.ring x.wr) bs u = .error f v → f ≠ .later → exec (.qPush b a d) s =
        .next ((v.setQueue q { v.queue q with st := qStopped, err := 6 }).putX d (w64 (2 ^ 63 + 5))).retire)) ∧
  (∀ (s u : State) (a b d : Reg) (pop : Bool) (ts : List (Target × Word × Nat)), s.Runs → (s.xr b).toNat % 64 = 0 →
    (s.ctx s.cur).queuedMem true true = false → translateParts .store (s.xr b) (pageParts (s.xr b) 64) s.begun = .ok ts u →
    let q := (u.xr a).toNat
    let x := u.queue q
    (∀ r, popRefusal (u.xr a) (u.ctx u.cur).asid u = some r →
      exec (if pop then .qPop b a d else .qPeek b a d) s = .next (u.putX d (w64 (2 ^ 63 + r))).retire) ∧
    (∀ bs v w, popRefusal (u.xr a) (u.ctx u.cur).asid u = none → stallParts true ts u = .ok () u →
      readE { x.engOf u.cur (u.ctx u.cur) with fresh := true } (x.ring x.rd) 64 u = .ok bs v → storeParts ts bs v = .ok () w →
      let y := if pop then w.modQueue q Queue.next else w
      exec (if pop then .qPop b a d else .qPeek b a d) s = .next ((y.acquire y.cur.gcore).putX d (w64 x.rd)).retire) ∧
    (∀ f v, popRefusal (u.xr a) (u.ctx u.cur).asid u = none → stallParts true ts u = .ok () u →
      readE { x.engOf u.cur (u.ctx u.cur) with fresh := true } (x.ring x.rd) 64 u = .error f v → f ≠ .later →
      exec (if pop then .qPop b a d else .qPeek b a d) s = .next ((v.setQueue q { v.queue q with
        st := qStopped, err := (if f.isPoison then 4 else 3) }).putX d (w64 (2 ^ 63 + 6))).retire)) ∧
  (∀ x : Queue, x.next = { x with rd := (x.rd + 1) % 2 ^ 32 }) ∧
  (∀ (s : State) (a b d : Reg), s.Runs →
    let v := s.xr a
    let asid := (s.ctx s.cur).asid
    let x := s.queue v.toNat
    (∀ r, qNamed v asid s = some r →
      (∃ t, exec (.qNotify b a d) s = .next t ∧ Retired s t (·.setX d.toNat (w64 (2 ^ 63 + r))) s.nextPc) ∧
      (∃ t, exec (.qState a d) s = .next t ∧ Retired s t (·.setX d.toNat (w64 (2 ^ 63 + r))) s.nextPc)) ∧
    (qNamed v asid s = none →
      (∃ t, exec (.qState a d) s = .next t ∧ Retired s t (·.setX d.toNat (s.queueWord v.toNat)) s.nextPc) ∧
      (x.push = false → x.st = qActive → x.notifyOk (wfld (s.xr b) 31 0) = true → s.performed s.cur true true 2 = true →
        ∃ t, exec (.qNotify b a d) s = .next t ∧
          Retired (s.setQueue v.toNat { x with wr := wfld (s.xr b) 31 0 }) t (·.setX d.toNat 0#64) s.nextPc) ∧
      (∀ r, r = (if x.push = true then 2 else if x.st ≠ qActive then 3 else 4) →
        x.push = true ∨ x.st ≠ qActive ∨ x.notifyOk (wfld (s.xr b) 31 0) = false →
        ∃ t, exec (.qNotify b a d) s = .next t ∧ Retired s t (·.setX d.toNat (w64 (2 ^ 63 + r))) s.nextPc)) ∧
    ((s.ctx s.cur).priv ≠ .u →
      ((s.slot s.cur).wait = none → qNamed v asid s = none →
        (x.st = qDisabled → ∃ t, exec (.qReset a d) s = .next t ∧ Retired s t (·.setX d.toNat 0#64) s.nextPc) ∧
        (x.st = qActive ∨ x.st = qStopped ∨ x.st = qResetting → ∃ t, exec (.qReset a d) s = .next t ∧
          (t.queue v.toNat).st = qResetting ∧ t.ctx s.cur = s.ctx s.cur ∧
          (t.slot s.cur).wait.map (fun w => (w.kind, w.a, w.b)) = some (.reset, v.toNat, 0))) ∧
      (∀ r, (s.slot s.cur).wait = none → qNamed v asid s = some r →
        ∃ t, exec (.qReset a d) s = .next t ∧ Retired s t (·.setX d.toNat (w64 (2 ^ 63 + r))) s.nextPc) ∧
      (∀ m, (s.slot s.cur).wait = some m → m.b ≠ 1 → exec (.qReset a d) s = .next s.waited) ∧
      (∀ m, (s.slot s.cur).wait = some m → m.b = 1 →
        ∃ t, exec (.qReset a d) s = .next t ∧ Retired s t (·.setX d.toNat 0#64) s.nextPc)) ∧
    ((s.ctx s.cur).priv = .u → exec (.qReset a d) s = .next (s.trapped 2 (s.ibits.setWidth 64)))) ∧
  (∀ (v : Word) (asid : Nat) (s : State), (nQueues ≤ v.toNat → qNamed v asid s = some 1) ∧
    (v.toNat < nQueues → (s.queue v.toNat).asid ≠ asid → qNamed v asid s = some 2) ∧
    (v.toNat < nQueues → (s.queue v.toNat).asid = asid → qNamed v asid s = none) ∧
    (∀ r, qNamed v asid s = some r → pushRefusal v asid s = some r ∧ popRefusal v asid s = some r) ∧
    (qNamed v asid s = none → let x := s.queue v.toNat
      (x.push = false → pushRefusal v asid s = some 2) ∧
      (x.push = true → x.st ≠ qActive → pushRefusal v asid s = some 3) ∧
      (x.push = true → x.st = qActive → x.fill = x.cap → pushRefusal v asid s = some 4) ∧
      (x.push = true → x.st = qActive → x.fill ≠ x.cap → pushRefusal v asid s = none) ∧
      (x.server ≠ 1 → popRefusal v asid s = some 2) ∧
      (x.server = 1 → x.st ≠ qActive → popRefusal v asid s = some 3) ∧
      (x.server = 1 → x.st = qActive → x.fill = 0 → popRefusal v asid s = some 4) ∧
      (x.server = 1 → x.st = qActive → x.fill ≠ 0 → popRefusal v asid s = none)))

/-- R448, R449, R456, R457: the owner of the registers writes a queue's write index where the rules accept it and ERR
1 where not; EN of a Disabled queue of a legal configuration makes it Active, of one that is not gives ERR 7, and of a
Stopped queue makes it Active again; clearing EN of an Active queue stops it; RESET makes a queue Resetting, and once
its work has ended it is Disabled with both indexes 0. A party that does not own them changes nothing. R450 to R455:
the intake core takes the next command of the ready queue it chooses, reading it after the acquire of the take, and
moves the read index; a record that breaks the command table fails at once with ERR 2 (a misaligned address breaks it
too: log entry 20, the model's choice); a NOP completes; a LAUNCH that is accepted is handed off with the entry it
took, and one that is refused fails with ERR 5; a SIGNAL completes when its addition is performed; a WAIT completes at
the first read at which its condition holds, and polls until then; a command that has ended, with no signal and no
delivery, is gone. -/
def Obligations.QueueRegistersAndCommands : Prop :=
  ((∀ (s : State) (who : Party) (q : Nat) (v : Word), s.mayWrite who none = true → q < nQueues →
     let x := s.queue q
     (exec (.queueNotifyWrite who q v) s = .next (s.setQueue q (
       if x.st = qResetting then x else if x.notifyOk (wfld v 31 0) then { x with wr := wfld v 31 0 } else { x with err := 1 }))) ∧
     (v.getLsbD 0 = true → v.getLsbD 2 = false → x.st = qDisabled →
       ∃ t, exec (.queueEnable who q v) s = .next t ∧ t = { s with queues := t.queues } ∧
         (t.queue q).st = (if (x.writeFields v).legal then qActive else qDisabled) ∧
         (t.queue q).err = (if (x.writeFields v).legal then 0 else 7) ∧ ∀ j, j ≠ q → t.queue j = s.queue j) ∧
     (v.getLsbD 0 = true → v.getLsbD 2 = false → x.st = qStopped →
       ∃ t, exec (.queueEnable who q v) s = .next t ∧ (t.queue q).st = qActive ∧ (t.queue q).err = 0 ∧
         (t.queue q).size = x.size ∧ (t.queue q).rd = x.rd ∧ (t.queue q).wr = x.wr) ∧
     (x.st = qActive → exec (.queueDisable who q) s = .next (s.setQueue q { x with st := qStopped, en := false })) ∧
     (x.st ≠ qResetting → ∃ t, exec (.queueResetWrite who q) s = .next t ∧ t.queue q = { x with st := qResetting } ∧
       (∀ c ∈ t.cmds, c.q = q → c.handed = true) ∧ (∀ j, j ≠ q → t.queue j = s.queue j) ∧ t.mem = s.mem)) ∧
   (∀ (s : State) (q : Nat), (s.queue q).st = qResetting → s.tagged q = [] → s.queueWorkEnded q = true →
     ∃ t, exec (.queueResetComplete q) s = .next t ∧
       t.queue q = { s.queue q with st := qDisabled, en := false, rd := 0, wr := 0 } ∧
       t.cmds = s.cmds.filter (fun c => c.q != q) ∧
       (∀ h w, (s.slot h).wait = some w → w.kind = .reset → w.a = q → (t.slot h).wait = some { w with b := 1 }) ∧
       t.mem = s.mem) ∧
   (∀ (s : State) (who : Party) (q : Nat) (v : Word), s.mayWrite who none = false →
     exec (.queueNotifyWrite who q v) s = .next s ∧ exec (.queueEnable who q v) s = .next s ∧
     exec (.queueDisable who q) s = .next s ∧ exec (.queueResetWrite who q) s = .next s)) ∧
  ((∀ (s u : State) (l q : Nat) (bs : List Byte), s.allHeld < 64 →
     pickQueue (s.queues.ents.filter (fun e => s.intakeReady e.1 e.2)) (fun l => s.iptr.get 0 l) = some (l, q) →
     readE { (s.queue q).eng with fresh := true } ((s.queue q).ring (s.queue q).rd) 64
       { s with iptr := s.iptr.put l ((q + 1) % nQueues) } = .ok bs u →
     u.queue q = s.queue q →
     (cmdBad bs = false → exec .intakeTake s = .next { u.setQueue q (s.queue q).next with
       cmds := u.cmds ++ [{ q := q, bytes := bs, handed := false, result := none }] }) ∧
     (cmdBad bs = true → exec .intakeTake s = .next (State.queueFail { u.setQueue q (s.queue q).next with
       cmds := u.cmds ++ [{ q := q, bytes := bs, handed := true, result := some 2 }] } q 2))) ∧
   (∀ (s : State) (i : Nat) (c : Cmd), s.cmds[i]? = some c → c.handed = false →
     let done (ok : Bool) : Cmd := { c with handed := true, result := some (if ok then 0 else 5) }
     (cmdOp c.bytes = 0 → exec (.cmdNop i) s = .next (s.setCmd i (done true))) ∧
     (∀ bs u, cmdOp c.bytes = 1 → readDescriptor (s.queue c.q).eng (cmdArg0 c.bytes) s = .ok bs u →
       (∀ r, u.krnRefusal bs (s.queue c.q).asid = some r →
         exec (.cmdLaunch i) s = .next ((u.setCmd i (done false)).queueFail c.q 5)) ∧
       (∀ v k, u.krnRefusal bs (s.queue c.q).asid = none →
         u.acceptWork bs (s.queue c.q).ident (s.queue c.q).satp 0 (some c.q) = (v, k) →
         exec (.cmdLaunch i) s = .next (v.setCmd i { c with handed := true, work := some (k, (v.workAt k).gen) }))) ∧
     (∀ u old, cmdOp c.bytes = 2 →
       s.engAtomic (s.queue c.q).eng (cmdArg0 c.bytes) 8 (fun v => some ((v + cmdArg1 c.bytes) % 2 ^ 64)) = (u, .ok (old, false)) →
       exec (.cmdSignal i) s = .next (u.setCmd i (done true))) ∧
     (∀ bs u, cmdOp c.bytes = 3 → readE (s.queue c.q).eng (cmdArg0 c.bytes) 8 s = .ok bs u →
       let w := if condHolds (cmdCond c.bytes) (leNat bs) (cmdArg1 c.bytes) then u.setCmd i (done true)
         else u.setCmd i { c with poll := true }
       (c.poll = false → exec (.cmdWait i) s = .next w) ∧ (c.poll = true → exec (.cmdWaitPoll i) s = .next w))) ∧
   (∀ (s : State) (i r : Nat) (c : Cmd), s.cmds[i]? = some c → c.result = some r → cmdSig c.bytes = 0 →
     (cmdFlags c.bytes).testBit 1 = false → exec (.commandCompletion i) s = .next { s with cmds := s.cmds.eraseIdx i }) ∧
   (∀ v a : Nat, condHolds 0 v a = (v == a) ∧ condHolds 1 v a = (v != a) ∧
     condHolds 2 v a = decide (sint v 64 < sint a 64) ∧ condHolds 3 v a = decide (sint a 64 ≤ sint v 64)))

/-- R459 to R465: an agent that holds no record takes the next one of the queue it chooses; a triangle without a
covered pixel ends, one with blocks holds them until each is pushed to its queue; a draw sends its next triangle to
the slices it touches and ends when all have ended; a blend unit updates the next masked pixel and ends after the
last. With no signal a record that ends only leaves. The blend unit's products are rounded to nearest. What an agent
reads for a record it reads after the acquire of the take. That an agent holds one record of a queue at a time, and
that the triangles of a draw are records of their own in the slices, is the model's reading (DEDUCED, log entry 31).
-/
def Obligations.AgentRecords : Prop :=
  (∀ (s u : State) (ag : Agent) (l q : Nat) (bs : List Byte), agentExists ag = true →
    s.agents.any (fun r => r.agent == ag && r.draw.isNone) = false →
    pickQueue (s.queues.ents.filter (fun e => e.2.feeds ag)) (fun l => s.aptr.get 0 (agentKey ag l)) = some (l, q) →
    let x := s.queue q
    readE (agentEng ag x) (x.ring x.rd) 64 { s with aptr := s.aptr.put (agentKey ag l) ((q + 1) % nQueues) } = .ok bs u →
    u.queue q = x →
    ∃ t r, exec (.agentTakeRecord ag) s = .next t ∧ t.queue q = x.next ∧ t.agents = u.agents ++ [r] ∧ r.agent = ag ∧ r.q = q ∧
      r.bytes = bs ∧ t.mem = u.mem) ∧
  (∀ (s : State) (i : Nat) (r : AgentRec), s.agentAt i 2 = some r → agentSig r = 0 → r.draw = none →
    (r.step = 0 → triBad r.bytes false = false →
      (blocksOf r.bytes r.n r.r = [] → exec (.triangleRecord i) s = .next { s with agents := s.agents.eraseIdx i }) ∧
      (∀ b l, blocksOf r.bytes r.n r.r = b :: l →
        exec (.triangleRecord i) s = .next (s.setAgent i { r with step := 1, sub := b :: l }))) ∧
    (∀ u b l, r.sub = b :: l → s.outOk r.out (s.queue r.q).asid = true → (s.queue r.out).fill ≠ (s.queue r.out).cap →
      writeE (agentEng r.agent (s.queue r.out)) ((s.queue r.out).ring (s.queue r.out).wr) b s = .ok () u →
      let v := u.modQueue r.out (fun x => { x with wr := (x.wr + 1) % 2 ^ 32 })
      exec (.fragmentBlockPush i) s =
        .next (if l = [] then { v with agents := v.agents.eraseIdx i } else v.setAgent i { r with sub := l }))) ∧
  (∀ (s : State) (i : Nat) (r : AgentRec), s.agentAt i 4 = some r → drawBad r.bytes = false → r.bad = false →
    (∀ u bs, r.step < numAt r.bytes 8 4 →
      readE (agentEng r.agent (s.queue r.q)) (numAt r.bytes 0 8 + 64 * r.step) 64 s = .ok bs u → triBad bs true = false →
      ∃ t subs, exec (.drawRecord i) s = .next t ∧ t = { u.setAgent i { r with step := r.step + 1 } with agents := t.agents } ∧
        t.agents = (u.setAgent i { r with step := r.step + 1 }).agents ++ subs ∧
        ∀ x ∈ subs, x.bytes = bs ∧ x.draw = some r.ticket ∧ x.agent.server = 2) ∧
    (numAt r.bytes 8 4 ≤ r.step → s.agents.any (fun x => x.draw == some r.ticket) = false → agentSig r = 0 → r.draw = none →
      exec (.drawComplete i) s = .next { s with agents := s.agents.eraseIdx i })) ∧
  (∀ (s u : State) (i k : Nat) (r : AgentRec), s.agentAt i 3 = some r → pixelBad r.bytes = false →
    nextPixel r.bytes r.step = some k → updatePixel (agentEng r.agent (s.queue r.q)) r.bytes k s = .ok () u →
    ((nextPixel r.bytes (k + 1)).isSome = true →
      exec (.pixelUpdateRecord i) s = .next (u.setAgent i { r with step := k + 1 })) ∧
    (nextPixel r.bytes (k + 1) = none → agentSig r = 0 → r.draw = none →
      exec (.pixelUpdateRecord i) s = .next { u with agents := u.agents.eraseIdx i })) ∧
  (∀ a b : Nat, a < 256 → b < 256 → mul255 a b = (2 * a * b + 255) / 510) ∧
  (∀ (c s d sa da : Nat), blendCh 0 c s d sa da = s ∧ blendCh 1 c s d sa da = min 255 (s + mul255 d (255 - sa)) ∧
    blendCh 2 c s d sa da = min 255 (s + d) ∧ blendCh 3 c s d sa da = mul255 s d ∧ blendCh 4 c s d sa da = min s d ∧
    blendCh 5 c s d sa da = max s d)

/-- R473 to R477, R480, R489: the owner enables a Down link, which trains, and disables one that is not, which is
Down; training with both halves is Up with eight lanes, with one Degraded with four, with none Failed; a good flit
leaves the replay buffer of at most 128, a bad one is counted and replayed with every flit sent after it, and the
sixteenth in a row retrains (how many flits are sent between two checks is a free value, log entry 44); a link that
goes Down or Failed fails the stores that it had not got acknowledged, each with a record of kind 12; a route entry
written keeps bits 7 and 4 to 0 of the value (the model's reading, DEDUCED, log entry 32) and waits until no store or
read sent under the old value is unanswered. A claim with the present epoch takes a device that has no owner, a
hand-off by the owner gives it away, and each moves the epoch. A supply monitor counts each crossing and stretches by
at most 8. -/
def Obligations.LinksAndSupply : Prop :=
  (∀ (s : State) (who : Party) (l : Nat), s.mayWrite who none = true → l < 24 →
    ((s.link l).st = .down → exec (.linkEnable who l) s = .next (s.modLink l (fun x => { x with en := true, st := .training }))) ∧
    ((s.link l).st ≠ .down → ∃ t, exec (.linkDisable who l) s = .next t ∧
      t.link l = { s.link l with en := false, st := .down, lanes := 0, peer := 0, replay := 0, held := 0 } ∧
      (∀ k, k ≠ l → t.link k = s.link k) ∧ t.mem = s.mem ∧ t.slots = s.slots ∧
      ∀ u ∈ s.acks, (s.byLink l (s.deviceOf u.addr) = false → u ∈ t.acks) ∧ (s.byLink l (s.deviceOf u.addr) = true → u ∉ t.acks ∧
        ({ kind := 12, asid := (s.ctx u.hart).asid, addr := paOf u.addr, cl := u.hart.cl, info := l } : ErrRec) ∈ t.errs))) ∧
  (∀ (s : State) (l peer : Nat), l < 24 → (s.link l).st = .training ∨ (s.link l).st = .retraining →
    exec (.linkTrainingComplete l true true peer) s = .next (s.modLink l (fun x =>
      { x with st := .up, lanes := 8, peer := peer % 4096, replay := 0 })) ∧
    exec (.linkTrainingComplete l true false peer) s = .next (s.modLink l (fun x =>
      { x with st := .degraded, lanes := 4, peer := peer % 4096, replay := 0 })) ∧
    ∃ t, exec (.linkTrainingComplete l false false peer) s = .next t ∧ (t.link l).st = .failed ∧ (t.link l).lanes = 0 ∧
      ({ kind := 12, info := l } : ErrRec) ∈ t.errs ∧ t.mem = s.mem) ∧
  (∀ (s : State) (l : Nat) (ok : Bool), l < 24 → (s.link l).st = .up ∨ (s.link l).st = .degraded →
    ∃ n, exec (.flitReceive l ok) s = .next ({ s with free := s.free + 1 }.modLink l (fun x => x.flit ok n))) ∧
  (∀ (x : Link) (n : Nat), let m := min 128 (max 1 (x.held + n))
    x.flit true n = { x with replay := 0, held := m - 1 } ∧
    (x.replay < 15 → x.flit false n = { x with replay := x.replay + 1, held := m, crcerr := min 65535 (x.crcerr + 1)
                                               retry := min 1048575 (x.retry + m) }) ∧
    (x.replay = 15 → x.flit false n = { x with st := .retraining, lanes := 0, replay := 0, held := m
                                               crcerr := min 65535 (x.crcerr + 1), retry := min 1048575 (x.retry + m) })) ∧
  (∀ (s : State) (who : Party) (d : Nat) (v : Byte), s.mayWrite who none = true → d < 4096 →
    exec (.routeTableWrite who d v) s =
      .next { s with route := s.route.put d { s.route.get {} d with next := some (v &&& 0x9F#8) } }) ∧
  (∀ (s : State) (d : Nat) (v : Byte), (s.route.get {} d).next = some v →
    (s.unanswered d = false ∨ d = s.devid → exec (.routeEntryEffect d) s = .next { s with route := s.route.put d { val := v } }) ∧
    (s.unanswered d = true → d ≠ s.devid → exec (.routeEntryEffect d) s = .next s)) ∧
  (∀ (s : State) (d : Nat), s.unanswered d = true ↔ (∃ u ∈ s.acks, s.deviceOf u.addr = d) ∨
    ∃ e ∈ s.clusters.ents, ∃ m ∈ e.2.misses, m.issued = true ∧ s.deviceOf m.addr = d) ∧
  (∀ (s : State) (h : Nat) (v : Word), h < 8 → (s.hosts.get none h).isSome = true →
    (s.owner = 15 → wfld v 31 16 = s.epoch % 2 ^ 16 →
      exec (.ownershipClaim h v) s = .next { s with owner := h, epoch := (s.epoch + 1) % 2 ^ 16 }) ∧
    (s.owner ≠ 15 ∨ wfld v 31 16 ≠ s.epoch % 2 ^ 16 → exec (.ownershipClaim h v) s = .next s) ∧
    (s.owner = h → wfld v 3 0 = 15 ∨ (wfld v 3 0 < 8 ∧ (s.hosts.get none (wfld v 3 0)).isSome = true) →
      exec (.ownershipHandoff h v) s = .next { s with owner := wfld v 3 0, epoch := (s.epoch + 1) % 2 ^ 16 }) ∧
    (s.owner ≠ h → exec (.ownershipHandoff h v) s = .next s)) ∧
  (∀ (s : State) (cl : Nat), cl < 40 →
    let x := s.monitor cl
    let wr (y : Supply) : State := s.modMonitor cl (fun _ => y)
    (x.below = false → exec (.supplyThresholdCrossing cl) s =
      .next (wr { x with below := true, events := min 65535 (x.events + 1),
                         stretch := if x.en then min 8 (x.stretch + 1) else x.stretch })) ∧
    (x.below = true → exec (.stretchRiseTick cl) s = .next (wr { x with
      stretch := if x.en then min 8 (x.stretch + 1) else x.stretch })) ∧
    (x.below = true → exec (.supplyAboveThreshold cl) s = .next (wr { x with below := false })) ∧
    (x.below = false → exec (.stretchFallTick cl) s = .next (wr { x with stretch := x.stretch - 1 })) ∧
    (∀ who, s.mayWrite who none = true → exec (.supplyMonitorDisable who cl) s = .next (wr { x with en := false, stretch := 0 })))

/-- R482 to R488, R492: the oldest request of a mailbox whose core serves it leaves the mailbox, has its effect and is
answered with its TAG, a status of 0 and its results, 1 for an image or a wrapped key that does not pass, or 2 for an
operation that the core does not list: PING, ATTEST, STAGE, COMMIT, ABORT, KEYLOAD, KEYCLEAR, TKSET, KSTATE, KCANCEL,
SCRUB, ECOUNT, MONREAD, RETRAIN, HALT, RESUME and HREAD. At its commit point a function runs its staged image, and a
hand-over that fails discards it. That COMMIT is answered at once, before its commit point, is the model's reading
(DEDUCED, log entry 32). -/
def Obligations.ControlRequests : Prop :=
  (∀ (s v : State) (n : Nat) (m : MailReq),
    let u := s.setMailbox n ((s.mailbox n).drop 1)
    (s.firstReq (fun _ op => op == 0) = some (n, m) → reply m.bytes 0 [n, (u.func n).version] u = .ok () v →
      exec .reqPing s = .next v) ∧
    (s.firstReq (fun k op => !(coreOps k).contains op) = some (n, m) → reply m.bytes 2 [] u = .ok () v →
      exec .reqUnknownOp s = .next v)) ∧
  (∀ (s v w : State) (m : MailReq), s.headReq 4 = some m →
    let b := m.bytes
    let u := s.setMailbox 4 ((s.mailbox 4).drop 1)
    let f := reqFunc b
    (reqOp b = 1 → f < 8 → reqReply b % 64 = 0 →
      physWrite (reqReply b) (u.reportBody f ((b.drop 0x18).take 32) ++
        bytes64 (Config.deviceSign (u.reportBody f ((b.drop 0x18).take 32)))) [] u = .ok () v → exec .reqAttest s = .next v) ∧
    (∀ img, reqOp b = 2 → f < 8 → (u.func f).st ≠ fnTransferring → physBytes (reqArg b 0) (reqArg b 1) u = .ok img w →
      (if w.imageOk f img = true then
        reply b 0 [] (w.modFunc f (fun x => { x with st := fnStaged, sver := (Config.imageFields img).2.1,
                                                     smeas := Config.sha512 img, scnt := (Config.imageFields img).2.2 }))
       else reply b 1 [] w) = .ok () v → exec .reqStage s = .next v) ∧
    (reqOp b = 3 → f < 8 → (u.func f).st = fnStaged →
      reply b 0 [] (u.modFunc f (fun x => { x with st := fnTransferring })) = .ok () v → exec .reqCommit s = .next v) ∧
    (reqOp b = 4 → f < 8 → (u.func f).st = fnStaged → reply b 0 [] (u.modFunc f Func.unstage) = .ok () v →
      exec .reqAbort s = .next v) ∧
    (∀ tk bs, reqOp b = 5 → u.tkey = some tk → keySlotOk (reqArg b 0) = true → u.keys.get none (reqArg b 0) = none →
      physBytes (reqArg b 1) 40 u = .ok bs w →
      (match Config.keyUnwrap tk bs with
       | some k => reply b 0 [] { w with keys := w.keys.put (reqArg b 0) (some k) }
       | none => reply b 1 [] w) = .ok () v → exec .reqKeyload s = .next v) ∧
    (reqOp b = 6 → keySlotOk (reqArg b 0) = true →
      reply b 0 [] { u.flushKey (reqArg b 0) with keys := u.keys.put (reqArg b 0) none } = .ok () v →
      exec .reqKeyclear s = .next v) ∧
    (∀ bs, reqOp b = 7 → u.tkey = none → physBytes (reqArg b 0) 32 u = .ok bs w →
      reply b 0 [] { w with tkey := some (BitVec.ofNat 256 (leNat bs)) } = .ok () v → exec .reqTkset s = .next v)) ∧
  (∀ (s v : State) (m : MailReq), s.headReq 1 = some m →
    let b := m.bytes
    let u := s.setMailbox 1 ((s.mailbox 1).drop 1)
    let k := s.workOf (reqArg b 1 % 2 ^ 16) (w64 (reqArg b 0))
    (reqOp b = 16 → reply b 0 [match k with | none => 6 | some k => ((s.workAt k).word k).toNat] u = .ok () v →
      exec .reqKstate s = .next v) ∧
    (reqOp b = 17 → k = none → reply b 0 [if m.begun then 0 else 3] u = .ok () v → exec .reqKcancel s = .next v) ∧
    (∀ j, reqOp b = 17 → k = some j →
      ((s.workAt j).busy = false →
        reply b 0 [if m.begun then 0 else if (s.workAt j).outcome = 3 then 1 else 2] u = .ok () v → exec .reqKcancel s = .next v) ∧
      ((s.workAt j).st = .running → exec .reqKcancel s = .next ((s.sweepAt j 4).beginReq 1)))) ∧
  (∀ (s v : State) (n : Nat) (m : MailReq), s.headReq n = some m →
    let b := m.bytes
    let u := s.setMailbox n ((s.mailbox n).drop 1)
    let inside (x : Nat) : Bool := decide (reqArg b 0 ≤ x) && decide (x < reqArg b 0 + reqArg b 1)
    (n = 2 → reqOp b = 16 → reqArg b 0 % 32 = 0 → reqArg b 1 % 32 = 0 → reqArg b 0 + reqArg b 1 ≤ 0x10000000000 →
      u.soft = [] → u.poison.filter inside = [] → reply b 0 [0] u = .ok () v → exec .reqScrub s = .next v) ∧
    (n = 3 → reqOp b = 16 → reply b 0 [u.corrected.toNat, u.eseq, u.edropped] u = .ok () v → exec .reqEcount s = .next v) ∧
    (n = 5 → reqOp b = 16 → reqArg b 0 < 40 → reply b 0 [(u.monitor (reqArg b 0)).word.toNat] u = .ok () v →
      exec .reqMonread s = .next v) ∧
    (n = 6 → reqOp b = 16 → reqArg b 0 < 24 → (u.link (reqArg b 0)).st.carries = true →
      reply b 0 [] (u.modLink (reqArg b 0) (fun x => { x with st := .retraining, lanes := 0, replay := 0 })) = .ok () v →
      exec .reqRetrain s = .next v) ∧
    (∀ g, n = 7 → debugCore b = some g →
      (let w := if (u.core g).halted then u else u.haltCore g
       reqOp b = 16 → reply b 0 [(w.core g).haltWord.toNat] w = .ok () v → exec .reqHalt s = .next v) ∧
      (reqOp b = 17 → reply b 0 [] (if (u.core g).halted then u.resumeCore g else u) = .ok () v → exec .reqResume s = .next v) ∧
      (∀ l y w, reqOp b = 18 → (u.core g).halted = true → reqArg b 2 % 64 = 0 →
        debugPart g (fld (reqArg b 1) 7 0) (fld (reqArg b 1) 12 8) u = .ok (some l) y → physBlocks (reqArg b 2) l y = .ok () w →
        reply b 0 [l.foldl (fun n x => n + x.1.length) 0, if (w.core g).stale then 1 else 0] w = .ok () v →
        exec .reqHread s = .next v))) ∧
  (∀ (s : State) (f : Nat), f < 8 → (s.func f).st = fnTransferring →
    exec (.handoverFailure f) s = .next (s.modFunc f (fun x => { x with st := fnIdle, sver := 0, smeas := 0#512, scnt := 0 })) ∧
    ∃ t, exec (.handoverCommitPoint f) s = .next t ∧ (t.func f).version = (s.func f).sver ∧ (t.func f).meas = (s.func f).smeas ∧
      (t.func f).st = fnIdle ∧ t.hseq = s.hseq + 1 ∧ t.fuses.get 0 f = max (s.fuses.get 0 f) (s.func f).scnt) ∧
  (∀ (b : List Byte) (st : Nat) (r : List Nat) (s u : State) (x : List Byte), reqReply b % 64 = 0 →
    x = leBytes 8 (reqTag b) ++ leBytes 8 st ++ (r ++ List.replicate (6 - r.length) 0).flatMap (leBytes 8) →
    physWrite (reqReply b) x [] s = .ok () u → reply b st r s = .ok () u)

/-- R482: a control core is an RV64IMAC hart that runs M-mode firmware from its own SRAM. At its turn of the schedule
it executes the instruction at its pc: the register, upper-immediate and immediate forms, branches, jumps, loads and
stores have the standard's effect on its own registers and SRAM and on nothing else; ecall, ebreak and an instruction
of another extension take their trap. Where its SRAM lies in its address space, and what its machine-mode registers
hold, is the model's choice (DESIGN CHOICE and PRESUMED, log entry 46). -/
def Obligations.ControlCoreHarts : Prop :=
  (∀ (s : State) (n : Nat) (rest : List Turn), s.agenda = .control n :: rest → s.imposing = false →
    step s = .next (State.ctlTurn { s with agenda := rest } n)) ∧
  (∀ (s : State) (n : Nat) (i : Instr) (l : List Byte), n < 8 →
    let h := s.ctlHart n
    let p := h.pc
    let bs := h.sram.readN p.toNat 2 ++ h.sram.readN (p.toNat + 2) 2
    let put (h : CtlHart) : State := { s with ctl := s.ctl.put n h }
    let h1 : CtlHart := { h with pc := p + 4#64 }
    let bad : CtlHart := h.trap 2 ((BitVec.ofNat 32 (leNat bs)).setWidth 64)
    p.toNat + 4 ≤ 2 ^ 18 → lengthOf (bs.headD 0#8) ≠ 2 → decode bs = .ok (i, l) →
    (∀ k rd rs1 imm, i = .standardScalarInstruction (.imm k rd rs1 imm) →
      s.ctlTurn n = put (h1.set rd (immFn k (h.get rs1) imm))) ∧
    (∀ rd imm, (i = .standardScalarInstruction (.lui rd imm) → s.ctlTurn n = put (h1.set rd (upperImm imm))) ∧
      (i = .standardScalarInstruction (.auipc rd imm) → s.ctlTurn n = put (h1.set rd (p + upperImm imm))) ∧
      (i = .standardScalarInstruction (.jal rd imm) →
        s.ctlTurn n = put { h1.set rd (p + 4#64) with pc := p + jalOff imm })) ∧
    (∀ rd rs1 imm, i = .standardScalarInstruction (.jalr rd rs1 imm) →
      s.ctlTurn n = put { h1.set rd (p + 4#64) with pc := wputb (effAddr (h.get rs1) imm) 0 false }) ∧
    (∀ k rs1 rs2 imm, i = .standardScalarInstruction (.branch k rs1 rs2 imm) →
      s.ctlTurn n = put (if brFn k (h.get rs1) (h.get rs2) then { h with pc := p + brOff imm } else h1)) ∧
    (∀ k rd rs1 rs2, i = .standardScalarInstruction (.alu k rd rs1 rs2) →
      s.ctlTurn n = put (if aluBase k then h1.set rd (aluFn k (h.get rs1) (h.get rs2)) else bad)) ∧
    (∀ k rd rs1 amt, i = .standardScalarInstruction (.sh k rd rs1 amt) →
      s.ctlTurn n = put (if shBase k then h1.set rd (shFn k (h.get rs1) amt) else bad)) ∧
    (∀ k rd rs1 imm b sg, i = .scalarLoad k rd rs1 imm → loadShape k = (b, sg, none) →
      (effAddr (h.get rs1) imm).toNat + b ≤ 2 ^ 18 →
      let v := leNat (h.sram.readN (effAddr (h.get rs1) imm).toNat b)
      s.ctlTurn n = put (h1.set rd (if sg then sextW v (8 * b) else w64 v))) ∧
    (∀ k rs1 rs2 imm b, i = .scalarStore k rs1 rs2 imm → storeShape k = (b, false) →
      (effAddr (h.get rs1) imm).toNat + b ≤ 2 ^ 18 → s.ctlTurn n = put { h1 with
        sram := h.sram.writeN (effAddr (h.get rs1) imm).toNat (leBytes b (h.get rs2).toNat) }) ∧
    (i = .standardScalarInstruction .ecall → s.ctlTurn n = put (h.trap 11 0#64)) ∧
    (i = .standardScalarInstruction .ebreak → s.ctlTurn n = put (h.trap 3 p)) ∧
    (∀ a d, i = .sysHalt a d → s.ctlTurn n = put bad)) ∧
  (∀ (h : CtlHart) (c : Nat) (v : Word), let t := h.trap c v
    t.pc = h.csr.get 0#64 0x305 ∧ t.csr.get 0#64 0x341 = h.pc ∧ t.csr.get 0#64 0x342 = w64 c ∧ t.csr.get 0#64 0x343 = v ∧
    (t.csr.get 0#64 0x300).getLsbD 3 = false ∧ (t.csr.get 0#64 0x300).getLsbD 7 = (h.csr.get 0#64 0x300).getLsbD 3 ∧
    t.x = h.x ∧ t.sram = h.sram)

/-- R4, R37, R39, R112, R447, R478, R479, R481, R483: a doorbell queues the owner's request in a mailbox with room,
drops another party's unless it asks for an attestation, and in a full mailbox is counted as dropped, its request
unread (one whose request cannot be read is dropped: the model's reading, DEDUCED, log entry 32); a host's access
takes an entry of the host table at its first; a register read answers its value, a write of a register has its effect
for a party that may write; HBM is written by the owner only, and a write by another host is dropped with an error
record of kind 13; a host's own memory and a peer's change when they write it, in the written bytes alone; a control
core reads and writes on-package SRAM by physical address, and firmware of a cluster its own vault and scratchpads,
and no others, and both read and write device registers (that they do it by an event of the schedule is the model's,
DESIGN CHOICE, log entry 46); a register that only takes writes reads 0; each of the 16,384 queues has one notify
register, and no other page has. -/
def Obligations.HostAccesses : Prop :=
  (∀ (s : State) (who : Party) (n : Nat) (v : Word), n < 8 →
    (16 ≤ (s.mailbox n).length → exec (.mailboxDoorbell who n v) s =
      .next { s with maildrop := s.maildrop.put n ((s.maildrop.get 0 n + 1) % 2 ^ 16) }) ∧
    ∀ u, (s.mailbox n).length < 16 →
      (∀ bs, physBytes (wfld v 51 6 * 64) 64 s = .ok bs u →
        (u.mayWrite who none = true ∨ (n = 4 ∧ reqOp bs = 1) →
          exec (.mailboxDoorbell who n v) s = .next (u.setMailbox n (u.mailbox n ++ [{ bytes := bs }]))) ∧
        (u.mayWrite who none = false → n ≠ 4 ∨ reqOp bs ≠ 1 → exec (.mailboxDoorbell who n v) s = .next u)) ∧
      (∀ f, f ≠ .later → physBytes (wfld v 51 6 * 64) 64 s = .error f u → exec (.mailboxDoorbell who n v) s = .next u)) ∧
  (∀ (s : State) (dev h a : Nat), dev < 4096 → s.hostOf dev = some h →
    (∀ v, isReg a = true → s.regRead a = some v →
      exec (.hostRequest (.readReg dev a)) s = .next { s with hostData := v :: s.hostData }) ∧
    (∀ v u, isReg a = true → s.regWrite (.host h) a v = some u → exec (.hostRequest (.writeReg dev a v)) s = .next u) ∧
    (∀ u bs, isBar2 a = true → physRead a 8 s = .ok (bs, false) u →
      exec (.hostRequest (.readMem dev a)) s = .next { u with hostData := w64 (leNat bs) :: u.hostData }) ∧
    (∀ v u, isBar2 a = true → s.mayWrite (.host h) none = true → physWrite a (leBytes 8 v.toNat) [] s = .ok () u →
      exec (.hostRequest (.writeMem dev a v)) s = .next u) ∧
    (∀ v, isBar2 a = true → s.mayWrite (.host h) none = false → exec (.hostRequest (.writeMem dev a v)) s =
      .next (s.error { kind := 13, addr := a, info := h }))) ∧
  (∀ (s : State) (dev a h : Nat) (v : Word), dev < 4096 → isReg a = true → s.hostOf dev = none →
    (List.range 8).find? (fun h => (s.hosts.get none h).isNone) = some h →
    { s with hosts := s.hosts.put h (some dev) }.regRead a = some v →
    exec (.hostRequest (.readReg dev a)) s = .next { s with hosts := s.hosts.put h (some dev), hostData := v :: s.hostData }) ∧
  (∀ (s : State) (h a : Nat) (v : Word), h < 8 → a + 8 ≤ 2 ^ 48 →
    ∃ t, exec (.hostRequest (.ownMem h a v)) s = .next t ∧
      (∀ i, i < 8 → t.mem.read (hostBase + h * 2 ^ 48 + a + i) = v.extractLsb' (8 * i) 8) ∧
      ∀ p, p < hostBase + h * 2 ^ 48 + a ∨ hostBase + h * 2 ^ 48 + a + 8 ≤ p → t.mem.read p = s.mem.read p) ∧
  (∀ (s : State) (home a : Nat) (v : Word), home < 4096 → home ≠ s.devid → a + 8 ≤ 2 ^ 40 →
    ∃ t, exec (.hostRequest (.peerMem home a v)) s = .next t ∧ Wrote s t ((home + 1) * 2 ^ 52 + a) (leBytes 8 v.toNat) ∧
      t.clusters = s.clusters ∧ t.cores = s.cores) ∧
  (∀ (s : State) (who : Party) (a : Nat) (v : Option Word), isReg a = false →
    (partySram who a = none → exec (.hostRequest (.phys who a v)) s = .next s) ∧
    (∀ e w u, partySram who a = some e → v = some w →
      s.engPut e { a := a, sram := true, attr := {} } (leBytes 8 w.toNat) [] = (u, .ok ()) →
      exec (.hostRequest (.phys who a v)) s = .next u) ∧
    (∀ e bs ps u, partySram who a = some e → v = none → s.engGet e { a := a, sram := true, attr := {} } 8 = (u, .ok (bs, ps)) →
      ps.any id = false → exec (.hostRequest (.phys who a v)) s = .next { u with hostData := w64 (leNat bs) :: u.hostData })) ∧
  (∀ (s : State) (who : Party) (a : Nat), isReg a = true → (∃ k, k < 40 ∧ who = .firmware k) ∨ (∃ n, n < 8 ∧ who = .control n) →
    (∀ x, s.regRead a = some x → exec (.hostRequest (.phys who a none)) s = .next { s with hostData := x :: s.hostData }) ∧
    (∀ w u, s.regWrite who a w = some u → exec (.hostRequest (.phys who a (some w))) s = .next u)) ∧
  (∀ (s : State) (q : Nat), (q < nQueues → s.regRead (regsBase + 4096 * q) = some (w64 (s.queue q).wr)) ∧
    (nQueues ≤ q → q < 2 ^ 18 → s.regRead (regsBase + 4096 * q) = none)) ∧
  (∀ k a : Nat, k < 40 → a % 8 = 0 → rangeOf a = .vault →
    ((partySram (.firmware k) a).isSome = true ↔ (a - vaultBase) / 2 ^ 26 = k) ∧
    ∀ n, n < 8 → (partySram (.control n) a).isSome = true) ∧
  (∀ s : State, s.regRead (regsBase + controlBlock + 0x10008) = some 0#64 ∧
    s.regRead (regsBase + controlBlock + 0x10010) = some 0#64 ∧
    (∀ n, n < 8 → s.regRead (regsBase + controlBlock + 0x20000 + 0x1000 * n) = some 0#64) ∧
    ∀ cl c, cl < 40 → c < 16 → s.regRead (regsBase + clusterBlock + cl * 2 ^ 20 + 8 * c) = some 0#64) ∧
  (∀ (s u : State) (who : Party) (a : Nat) (v : Word), isReg a = true → s.partyOk who = true → s.regWrite who a v = some u →
    exec (.registerWrite (.dev who a v)) s = .next u) ∧
  (∀ (s : State) (h a : Nat) (v : Word), s.mayWrite (.host h) none = false → regsBase ≤ a → a < regsBase + 0x40000000 →
    s.regWrite (.host h) a v = some s)

/-- R164, R165, R167, R199, R257, R334, R357, R358, R379, R403, R490, R491: a single-bit error is corrected and
counted. An uncorrectable error poisons the memory block, the valid L2 sector or the L1 line that it strikes, and
nothing else; it fails a Claimed accumulator, makes a Kennel entry that holds a context Failed and its launch lose its
weight, breaks a barrier that is not Free, fails a window entry's record or its stream's records, a frontier launch or
a query, marks the piece of a Retriever poisoned, and sweeps a launch with cause 11; where it strikes nothing that
holds state, nothing happens. An error record is written at its place in the log where the log is on and has room, and
counted as dropped where not, and the owner is interrupted. An accumulator that is not Claimed has its ERR bit set.
The model's readings in it (DEDUCED): which launch a loading Kennel entry holds (log entry 42), what becomes of an
accumulator that a Herder task holds (log entry 49), that the interrupt is sent for a dropped record too and that SEQ
counts appended records only (log entry 32), and that an error of the tracker's storage names no address (log entry
28). -/
def Obligations.ErrorsAndLog : Prop :=
  (∀ (s : State) (a : Nat), exec (.singleBitCorrection a) s =
    .next { s with soft := s.soft.filter (· ≠ blk a), corrected := s.corrected + 1#64 }) ∧
  (∀ (s : State) (a : Nat), (rangeOf (paOf a) ≠ .regs → rangeOf (paOf a) ≠ .reserved →
      exec (.uncorrectableError (.block a)) s = .next (s.setPoison (blk a) true)) ∧
    (rangeOf (paOf a) = .regs ∨ rangeOf (paOf a) = .reserved → exec (.uncorrectableError (.block a)) s = .next s)) ∧
  (∀ (s : State) (a : Nat), (s.setPoison a true).isPoison a = true ∧
    ∀ b, b ≠ a → (s.setPoison a true).isPoison b = s.isPoison b) ∧
  (∀ (s : State) (cl a : Nat),
    (∀ l, (s.cluster cl).l2.find? (fun x => x.addr == down a 256) = some l → l.valid.getLsbD (sectorOf a) = true → l.zero = false →
      exec (.uncorrectableError (.l2Line cl a)) s = .next (s.setCluster cl ((s.cluster cl).putLine
        { l with poison := setB8 l.poison (sectorOf a) true }))) ∧
    ((s.cluster cl).l2.find? (fun x => x.addr == down a 256) = none → exec (.uncorrectableError (.l2Line cl a)) s = .next s)) ∧
  (∀ (v : BitVec 8) (i j : Nat), i < 8 → j < 8 → (setB8 v i true).getLsbD j = (decide (j = i) || v.getLsbD j)) ∧
  (∀ (s : State) (cl core a : Nat), let g := cl * 64 + core
    ((∃ l ∈ (s.core g).l1d, l.addr = blk a) → exec (.uncorrectableError (.l1dLine cl core a)) s = .next (s.setCore g { s.core g with
      l1d := (s.core g).l1d.map (fun l => if l.addr = blk a then { l with poison := true } else l) })) ∧
    ((∀ l ∈ (s.core g).l1d, l.addr ≠ blk a) → exec (.uncorrectableError (.l1dLine cl core a)) s = .next s) ∧
    ((∃ l ∈ (s.core g).l1i, l.addr = down a 64) → ∃ t, exec (.uncorrectableError (.l1iLine cl core a)) s = .next t ∧
      t.mem = s.mem ∧ t.slots = s.slots ∧ ∀ l ∈ (t.core g).l1i, l.addr = down a 64 → l.poison.getLsbD (a / 32 % 2) = true) ∧
    ((∀ l ∈ (s.core g).l1i, l.addr ≠ down a 64) → exec (.uncorrectableError (.l1iLine cl core a)) s = .next s)) ∧
  (∀ (s : State) (cl core p : Nat), let g := cl * 64 + core
    core < 64 → p < 8 → ∃ t e, exec (.uncorrectableError (.accumulator cl core p)) s = .next t ∧
      (t.core g).acc p = (if ((s.core g).acc p).st = .claimed then
        { (s.core g).acc p with st := .failed, err := 0, bad := true } else { (s.core g).acc p with bad := true }) ∧
      (∀ q, q ≠ p → (t.core g).acc q = (s.core g).acc q) ∧ t.mem = s.mem ∧ t.slots = s.slots ∧ t.errs = s.errs ++ [e] ∧
      e.kind = 6 ∧ e.info = p ∧ e.cl = cl) ∧
  (∀ (s : State) (cl core e : Nat) (c : Ctx), let g := cl * 64 + core
    ((s.core g).ken e).st ≠ .empty → ((s.core g).ken e).st ≠ .failed → ((s.core g).ken e).ctx = some c → e < 32 →
    (((s.core g).ken e).st ≠ .loading → ∃ t, exec (.uncorrectableError (.kennel cl core e)) s = .next t ∧
      (t.core g).ken e = { st := .failed } ∧
      t.workAt (wfld c.ulaunch 15 0) = (s.workAt (wfld c.ulaunch 15 0)).loseWeight ∧ t.mem = s.mem) ∧
    (∀ i k w, ((s.core g).ken e).st = .loading → s.loadingOwner g e = some (i, k, w) →
      ∃ t, exec (.uncorrectableError (.kennel cl core e)) s = .next t ∧ (t.core g).ken e = { st := .failed } ∧
        t.workAt k = (s.workAt k).loseWeight ∧ t.mem = s.mem)) ∧
  (∀ (s : State) (cl p : Nat),
    (((s.cluster cl).bar p).st ≠ barFreeSt → ∃ t, exec (.uncorrectableError (.barrier cl p)) s = .next t ∧
      (t.cluster cl).bar p = { (s.cluster cl).bar p with st := barBroken } ∧
      ∀ q, q ≠ p → (t.cluster cl).bar q = (s.cluster cl).bar q) ∧
    (((s.cluster cl).bar p).st = barFreeSt → exec (.uncorrectableError (.barrier cl p)) s = .next s)) ∧
  (∀ (s u : State) (cl e : Nat),
    (∀ a b, (s.task cl e).live = true → strikeEntry cl e a b s = .ok () u →
      exec (.uncorrectableError (.windowEntry cl e a b)) s = .next u) ∧
    ((s.task cl e).live = true → strikeCounter cl e s = .ok () u → exec (.uncorrectableError (.depCounter cl e)) s = .next u) ∧
    ((s.trk cl e).gen ≠ 0 → (s.trk cl e).ended = false →
      fntFail (s.trk (s.trk cl e).first.1 (s.trk cl e).first.2) 2 none s = .ok () u →
      exec (.uncorrectableError (.tracker cl e)) s = .next u) ∧
    ((s.qry cl e).active = true → qryFail cl e 4 none s = .ok () u → exec (.uncorrectableError (.terrier cl e)) s = .next u) ∧
    ((s.task cl e).live = false → (∀ a b, exec (.uncorrectableError (.windowEntry cl e a b)) s = .next s) ∧
      exec (.uncorrectableError (.depCounter cl e)) s = .next s) ∧
    ((s.trk cl e).ended = true → exec (.uncorrectableError (.tracker cl e)) s = .next s) ∧
    ((s.qry cl e).active = false → exec (.uncorrectableError (.terrier cl e)) s = .next s)) ∧
  (∀ (s : State) (cl core i : Nat) (p : Piece), (s.core (cl * 64 + core)).pieces[i]? = some p →
    (p.done = false → p.fail = none → exec (.uncorrectableError (.retriever cl core i)) s = .next (s.setCore (cl * 64 + core)
      { s.core (cl * 64 + core) with pieces := setNth (s.core (cl * 64 + core)).pieces i { p with pois := true } })) ∧
    (p.done = true → exec (.uncorrectableError (.retriever cl core i)) s = .next s)) ∧
  (∀ (s : State) (k : Nat), k < 2 ^ 16 →
    ((s.workAt k).st ≠ .free → (s.workAt k).st ≠ .retired → ∃ t, exec (.uncorrectableError (.launchEntry k)) s = .next t ∧
      t.workAt k = { s.workAt k with st := .sweeping, cause := 11, lost := true, swept := false } ∧
      (∀ j, j ≠ k → t.workAt j = s.workAt j) ∧ t.mem = s.mem ∧ t.slots = s.slots) ∧
    ((s.workAt k).st = .free ∨ (s.workAt k).st = .retired → exec (.uncorrectableError (.launchEntry k)) s = .next s)) ∧
  (∀ (s : State) (e : ErrRec) (rest : List ErrRec), s.errs = e :: rest →
    let told := if s.owner < 8 then s.msis ++ [(s.owner, s.evec)] else s.msis
    (s.logRoom = false →
      exec .errorRecord s = .next { s with errs := rest, edropped := min 65535 (s.edropped + 1), msis := told }) ∧
    (s.logRoom = true → ∃ t l, exec .errorRecord s = .next t ∧ t.errs = rest ++ l ∧ t.eseq = s.eseq + 1 ∧
      t.edropped = s.edropped ∧ t.msis = told) ∧
    (let a := wfld s.elog 51 12 * 4096 + 32 * (s.eseq % logSize s.elog)
     s.logRoom = true → rangeOf a = .hbm → (∀ c ∈ s.clusters.ents, c.2.l2 = []) →
      ∃ t, exec .errorRecord s = .next t ∧ Wrote s t a (e.bytes s.eseq) ∧ t.errs = rest ∧ t.eseq = s.eseq + 1 ∧
        t.slots.ents.length = s.slots.ents.length ∧ t.cores = s.cores ∧ t.work = s.work)) ∧
  (∀ s : State, s.errs = [] → exec .errorRecord s = .next s)

/-- R94: every byte of every scratchpad and every vault holds 0 after package reset. -/
def Obligations.SramAfterReset : Prop :=
  ∀ (s : State) (a : Nat), rangeOf a = .scratch ∨ rangeOf a = .vault →
    ∃ t, exec .packageReset s = .next t ∧ t.mem.read a = 0#8 ∧ t.isPoison (blk a) = false

/-- R6, R94, R486: package reset leaves every field at its reset value but what R6 keeps: memory outside the package's
SRAM reads as before and keeps its poison, and every byte of SRAM reads 0; the fuses, the key under which each block
was written and the cores that failed test stay, and each function of the control cores restarts from its last
committed image. Power-on also loses what the device's HBM held: that its bytes then read 0 is the model's choice
(DESIGN CHOICE, log entry 3). Which of the model's own counters and which records of what hosts were sent stay, and
that a control core's SRAM does, is the model's choice too (log entries 19 and 46). -/
def Obligations.PackageReset : Prop :=
  ∀ s : State,
    (∃ t, exec .packageReset s = .next t ∧
      t = { State.reset with
        cur := s.cur, agenda := s.agenda, turnNo := s.turnNo, free := s.free, tick := s.tick, cids := s.cids, tickets := s.tickets,
        mem := t.mem, poison := t.poison, injected := t.injected, soft := t.soft, sealed := s.sealed, failed := s.failed,
        funcs := t.funcs, ctl := t.ctl, fuses := s.fuses, minver := s.minver, msis := s.msis, hostData := s.hostData,
        hostUr := s.hostUr } ∧
      (∀ a, isSram a = false → t.mem.read a = s.mem.read a) ∧ (∀ a, isSram a = true → t.mem.read a = 0#8) ∧
      (∀ b, (b ∈ t.poison ↔ b ∈ s.poison ∧ isSram b = false) ∧ (b ∈ t.injected ↔ b ∈ s.injected ∧ isSram b = false) ∧
        (b ∈ t.soft ↔ b ∈ s.soft ∧ isSram b = false)) ∧
      (∀ f, t.func f = { version := (s.func f).version, meas := (s.func f).meas }) ∧
      ∀ n, t.ctlHart n = { sram := (s.ctlHart n).sram }) ∧
    (∃ t, exec .powerOn s = .next t ∧
      t = { State.reset with
        cur := s.cur, agenda := s.agenda, turnNo := s.turnNo, free := s.free, tick := s.tick, cids := s.cids, tickets := s.tickets,
        mem := t.mem, poison := t.poison, injected := t.injected, soft := t.soft, failed := s.failed,
        funcs := t.funcs, ctl := t.ctl, fuses := s.fuses, minver := s.minver, msis := s.msis, hostData := s.hostData,
        hostUr := s.hostUr } ∧
      (∀ a, a < hostBase → t.mem.read a = 0#8) ∧ (∀ a, hostBase ≤ a → t.mem.read a = s.mem.read a) ∧
      (∀ b, (b ∈ t.poison ↔ b ∈ s.poison ∧ hostBase ≤ b) ∧ (b ∈ t.injected ↔ b ∈ s.injected ∧ hostBase ≤ b) ∧
        (b ∈ t.soft ↔ b ∈ s.soft ∧ hostBase ≤ b)) ∧
      (∀ f, t.func f = { version := (s.func f).version, meas := (s.func f).meas }) ∧
      ∀ n, t.ctlHart n = { sram := (s.ctlHart n).sram })
end

