-- ==== Sys2Proof/Laws/Decode.lean ====
section
/-! SUPPORT. The fields of a 32-bit word put together by rzWord, and the decoding of such a word: one lemma per field. -/

namespace Sys2Proof

open Sys2Proof.Machine

section Fields

variable (a : BitVec 7) (b c : Reg) (f : BitVec 3) (d : Reg) (o : BitVec 7)

theorem fOp_rzWord : fOp (rzWord a b c f d o) = o := by
  unfold fOp rzWord
  rw [BitVec.extractLsb'_append_eq_of_add_le (by omega)]; simp

theorem fRd_rzWord : fRd (rzWord a b c f d o) = d := by
  unfold fRd rzWord
  rw [BitVec.extractLsb'_append_eq_of_le (by omega), BitVec.extractLsb'_append_eq_of_add_le (by omega)]; simp

theorem fF3_rzWord : fF3 (rzWord a b c f d o) = f := by
  unfold fF3 rzWord
  rw [BitVec.extractLsb'_append_eq_of_le (by omega), BitVec.extractLsb'_append_eq_of_le (by omega),
    BitVec.extractLsb'_append_eq_of_add_le (by omega)]; simp

theorem fRs1_rzWord : fRs1 (rzWord a b c f d o) = c := by
  unfold fRs1 rzWord
  rw [BitVec.extractLsb'_append_eq_of_le (by omega), BitVec.extractLsb'_append_eq_of_le (by omega),
    BitVec.extractLsb'_append_eq_of_le (by omega), BitVec.extractLsb'_append_eq_of_add_le (by omega)]; simp

theorem fRs2_rzWord : fRs2 (rzWord a b c f d o) = b := by
  unfold fRs2 rzWord
  rw [BitVec.extractLsb'_append_eq_of_le (by omega), BitVec.extractLsb'_append_eq_of_le (by omega),
    BitVec.extractLsb'_append_eq_of_le (by omega), BitVec.extractLsb'_append_eq_of_le (by omega),
    BitVec.extractLsb'_append_eq_of_add_le (by omega)]; simp

theorem fF7_rzWord : fF7 (rzWord a b c f d o) = a := by
  unfold fF7 rzWord
  rw [BitVec.extractLsb'_append_eq_of_le (by omega), BitVec.extractLsb'_append_eq_of_le (by omega),
    BitVec.extractLsb'_append_eq_of_le (by omega), BitVec.extractLsb'_append_eq_of_le (by omega),
    BitVec.extractLsb'_append_eq_of_le (by omega)]; simp

/-- The decoder reads exactly the six fields of a word put together from them. -/
theorem decode32_rzWord : decode32 (rzWord a b c f d o) = decodeFields (rzWord a b c f d o) a b c f d o := by
  unfold decode32
  rw [fOp_rzWord, fRd_rzWord, fF3_rzWord, fRs1_rzWord, fRs2_rzWord, fF7_rzWord]

end Fields

/-! ### Immediates cut in two -/

theorem halves_append (i : BitVec 12) : i.extractLsb' 5 7 ++ i.extractLsb' 0 5 = i := by
  revert i; decide +kernel

theorem iWord_eq_rzWord (imm : BitVec 12) (rs1 : Reg) (f3 : BitVec 3) (rd : Reg) (op : BitVec 7) :
    iWord imm rs1 f3 rd op = rzWord (imm.extractLsb' 5 7) (imm.extractLsb' 0 5) rs1 f3 rd op := by
  unfold iWord rzWord; rw [halves_append]

theorem decode32_iWord (imm : BitVec 12) (rs1 : Reg) (f3 : BitVec 3) (rd : Reg) (op : BitVec 7) :
    decode32 (iWord imm rs1 f3 rd op) =
      decodeFields (iWord imm rs1 f3 rd op) (imm.extractLsb' 5 7) (imm.extractLsb' 0 5) rs1 f3 rd op := by
  rw [iWord_eq_rzWord, decode32_rzWord]

theorem sWord_eq_rzWord (imm : BitVec 12) (rs2 rs1 : Reg) (f3 : BitVec 3) (op : BitVec 7) :
    sWord imm rs2 rs1 f3 op = rzWord (imm.extractLsb' 5 7) rs2 rs1 f3 (imm.extractLsb' 0 5) op := rfl

theorem brImm_brHi_brLo (i : BitVec 12) : brImm (brHi i) (brLo i) = i := by revert i; decide +kernel

/-! ### Fields of immediates -/

theorem fence_fields (fm p s : BitVec 4) :
    (fm ++ p ++ s).extractLsb' 8 4 = fm ∧ (fm ++ p ++ s).extractLsb' 4 4 = p ∧ (fm ++ p ++ s).extractLsb' 0 4 = s := by
  revert fm p s; decide +kernel

theorem amo_fields (o : BitVec 5) (a b : BitVec 1) :
    (o ++ a ++ b).extractLsb' 2 5 = o ∧ (o ++ a ++ b).extractLsb' 1 1 = a ∧ (o ++ a ++ b).extractLsb' 0 1 = b := by
  revert o a b; decide +kernel

theorem fma_fields (o : BitVec 5) (a : BitVec 2) : (o ++ a).extractLsb' 2 5 = o ∧ (o ++ a).setWidth 2 = a := by
  revert o a; decide +kernel

theorem shift_fields (o a : BitVec 6) : (o ++ a).extractLsb' 6 6 = o ∧ (o ++ a).setWidth 6 = a := by
  revert o a; decide +kernel

/-! ### Operands narrower than a register field -/

theorem setWidth5_high3 : ∀ d : BitVec 3, (d.setWidth 5).extractLsb' 3 2 = 0#2 := by decide
theorem setWidth5_low3 : ∀ d : BitVec 3, (d.setWidth 5).setWidth 3 = d := by decide
theorem setWidth5_high4 : ∀ d : BitVec 4, (d.setWidth 5).extractLsb' 4 1 = 0#1 := by decide
theorem setWidth5_low4 : ∀ d : BitVec 4, (d.setWidth 5).setWidth 4 = d := by decide
theorem setWidth5_high2 : ∀ d : BitVec 2, (d.setWidth 5).extractLsb' 2 3 = 0#3 := by decide
theorem setWidth5_low2 : ∀ d : BitVec 2, (d.setWidth 5).setWidth 2 = d := by decide
theorem setWidth5_high1 : ∀ d : BitVec 1, (d.setWidth 5).extractLsb' 1 4 = 0#4 := by decide
theorem setWidth5_low1 : ∀ d : BitVec 1, (d.setWidth 5).setWidth 1 = d := by decide

theorem bit_cases : ∀ m : BitVec 1, m = 0#1 ∨ m = 1#1 := by decide

end Sys2Proof
end

