-- ==== Sys2Proof/Laws/Tab.lean ====
section
/-! SUPPORT. Laws of the sparse tables and of byte memory: a read after a write, and the canonical form that every memory
operation keeps. -/

namespace Sys2Proof.Machine

/-! ### Tables -/

theorem lookup_insertAt_same {α : Type} (d v : α) (k : Nat) (l : List (Nat × α)) : lookup d k (insertAt k v l) = v := by
  induction l with
  | nil => simp [insertAt, lookup]
  | cons e r ih =>
    obtain ⟨j, w⟩ := e
    simp only [insertAt]
    split
    · simp [lookup]
    · split
      · simp [lookup]
      · simp [lookup, *]

theorem lookup_insertAt_other {α : Type} (d v : α) {k j : Nat} (h : j ≠ k) (l : List (Nat × α)) :
    lookup d j (insertAt k v l) = lookup d j l := by
  induction l with
  | nil => simp [insertAt, lookup, Ne.symm h]
  | cons e r ih =>
    obtain ⟨i, w⟩ := e
    simp only [insertAt]
    split
    · subst i; simp [lookup, Ne.symm h]
    · split
      · simp [lookup, Ne.symm h]
      · simp [lookup, ih]

@[simp] theorem Tab.get_empty {α : Type} (d : α) (k : Nat) : (Tab.empty : Tab α).get d k = d := rfl

@[simp] theorem Tab.get_put_same {α : Type} (t : Tab α) (d v : α) (k : Nat) : (t.put k v).get d k = v :=
  lookup_insertAt_same d v k t.ents

theorem Tab.get_put_other {α : Type} (t : Tab α) (d v : α) {k j : Nat} (h : j ≠ k) : (t.put k v).get d j = t.get d j :=
  lookup_insertAt_other d v h t.ents

theorem Tab.get_put {α : Type} (t : Tab α) (d v : α) (k j : Nat) :
    (t.put k v).get d j = if j = k then v else t.get d j := by
  split
  · subst j; simp
  · exact Tab.get_put_other t d v ‹_›

/-! ### Memory: a read after a write -/

theorem lookup_eraseCell_same (a : Nat) (m : Memory) : lookup unlisted a (eraseCell a m) = unlisted := by
  induction m with
  | nil => rfl
  | cons e r ih =>
    obtain ⟨j, w⟩ := e
    simp only [eraseCell]
    split
    · exact ih
    · simp [lookup, *]

theorem lookup_eraseCell_other {a b : Nat} (h : b ≠ a) (m : Memory) :
    lookup unlisted b (eraseCell a m) = lookup unlisted b m := by
  induction m with
  | nil => rfl
  | cons e r ih =>
    obtain ⟨j, w⟩ := e
    simp only [eraseCell]
    split
    · subst j; simp [lookup, Ne.symm h, ih]
    · simp [lookup, ih]

theorem Memory.read_write_same (m : Memory) (a : Nat) (v : Byte) : (m.write a v).read a = v := by
  unfold Memory.write Memory.read
  split
  · subst v; exact lookup_eraseCell_same a m
  · exact lookup_insertAt_same _ v a m

theorem Memory.read_write_other (m : Memory) {a b : Nat} (v : Byte) (h : b ≠ a) : (m.write a v).read b = m.read b := by
  unfold Memory.write Memory.read
  split
  · exact lookup_eraseCell_other h m
  · exact lookup_insertAt_other _ v h m

/-- A byte outside the written ones is as it was. -/
theorem Memory.read_writeN_outside (bs : List Byte) (m : Memory) (a b : Nat) (h : b < a ∨ a + bs.length ≤ b) :
    (m.writeN a bs).read b = m.read b := by
  induction bs generalizing m a with
  | nil => rfl
  | cons x xs ih =>
    simp only [Memory.writeN, List.length_cons] at *
    rw [ih _ _ (by omega)]
    exact m.read_write_other x (by omega)

/-- A written byte reads as written. -/
theorem Memory.read_writeN_inside (bs : List Byte) (m : Memory) (a i : Nat) (h : i < bs.length) :
    (m.writeN a bs).read (a + i) = bs[i] := by
  induction bs generalizing m a i with
  | nil => simp at h
  | cons x xs ih =>
    simp only [Memory.writeN]
    cases i with
    | zero =>
      rw [Memory.read_writeN_outside xs _ _ _ (by omega)]
      exact m.read_write_same a x
    | succ k =>
      have := ih (m.write a x) (a + 1) k (by simpa using h)
      rw [show a + (k + 1) = a + 1 + k by omega, this]
      simp

theorem Memory.length_readN (m : Memory) (a n : Nat) : (m.readN a n).length = n := by
  induction n generalizing a with
  | zero => rfl
  | succ k ih => simp [Memory.readN, ih]

/-- Bytes read back are the bytes written. -/
theorem Memory.readN_writeN (bs : List Byte) (m : Memory) (a : Nat) : (m.writeN a bs).readN a bs.length = bs := by
  induction bs generalizing m a with
  | nil => rfl
  | cons x xs ih =>
    simp only [List.length_cons, Memory.readN, Memory.writeN]
    rw [Memory.read_writeN_outside xs _ _ _ (by omega), m.read_write_same, ih]

/-! ### Memory: the canonical form -/

theorem cellsFrom_mono {lo hi : Nat} (h : lo ≤ hi) (m : Memory) (w : cellsFrom hi m = true) : cellsFrom lo m = true := by
  cases m with
  | nil => rfl
  | cons e r =>
    obtain ⟨a, b⟩ := e
    simp only [cellsFrom, Bool.and_eq_true, decide_eq_true_eq] at *
    exact ⟨⟨by omega, w.1.2⟩, w.2⟩

theorem cellsFrom_eraseCell (a : Nat) (m : Memory) (lo : Nat) (w : cellsFrom lo m = true) :
    cellsFrom lo (eraseCell a m) = true := by
  induction m generalizing lo with
  | nil => rfl
  | cons e r ih =>
    obtain ⟨j, v⟩ := e
    simp only [cellsFrom, Bool.and_eq_true, decide_eq_true_eq] at w
    simp only [eraseCell]
    split
    · exact cellsFrom_mono (by omega) _ (ih _ w.2)
    · simp only [cellsFrom, Bool.and_eq_true, decide_eq_true_eq]
      exact ⟨w.1, ih _ w.2⟩

theorem cellsFrom_insertAt (a : Nat) (v : Byte) (hv : v ≠ unlisted) (m : Memory) (lo : Nat) (hlo : lo ≤ a)
    (w : cellsFrom lo m = true) : cellsFrom lo (insertAt a v m) = true := by
  induction m generalizing lo with
  | nil => simp [insertAt, cellsFrom, hlo, hv]
  | cons e r ih =>
    obtain ⟨j, x⟩ := e
    simp only [cellsFrom, Bool.and_eq_true, decide_eq_true_eq] at w
    simp only [insertAt]
    split
    · subst j
      simp only [cellsFrom, Bool.and_eq_true, decide_eq_true_eq]
      exact ⟨⟨hlo, hv⟩, w.2⟩
    · split
      · simp only [cellsFrom, Bool.and_eq_true, decide_eq_true_eq]
        exact ⟨⟨hlo, hv⟩, ⟨by omega, w.1.2⟩, w.2⟩
      · simp only [cellsFrom, Bool.and_eq_true, decide_eq_true_eq]
        exact ⟨w.1, ih _ (by omega) w.2⟩

theorem Memory.wf_nil : Memory.wf [] = true := rfl

theorem Memory.wf_write (m : Memory) (a : Nat) (v : Byte) (w : m.wf = true) : (m.write a v).wf = true := by
  unfold Memory.write
  split
  · exact cellsFrom_eraseCell a m 0 w
  · exact cellsFrom_insertAt a v ‹_› m 0 (by omega) w

theorem Memory.wf_writeN (bs : List Byte) (m : Memory) (a : Nat) (w : m.wf = true) : (m.writeN a bs).wf = true := by
  induction bs generalizing m a with
  | nil => exact w
  | cons x xs ih => exact ih _ _ (m.wf_write a x w)

theorem Memory.wf_writeLE (m : Memory) (a n v : Nat) (w : m.wf = true) : (m.writeLE a n v).wf = true :=
  m.wf_writeN _ a w

theorem cellsFrom_filter (p : Host.Cell → Bool) (m : Memory) (lo : Nat) (w : cellsFrom lo m = true) :
    cellsFrom lo (m.filter p) = true := by
  induction m generalizing lo with
  | nil => rfl
  | cons e r ih =>
    obtain ⟨j, v⟩ := e
    simp only [cellsFrom, Bool.and_eq_true, decide_eq_true_eq] at w
    simp only [List.filter_cons]
    split
    · simp only [cellsFrom, Bool.and_eq_true, decide_eq_true_eq]
      exact ⟨w.1, ih _ w.2⟩
    · exact cellsFrom_mono (by omega) _ (ih _ w.2)

theorem Memory.wf_filter (p : Host.Cell → Bool) (m : Memory) (w : m.wf = true) : Memory.wf (m.filter p) = true :=
  cellsFrom_filter p m 0 w

/-! ### Little-endian numbers -/

theorem length_leBytes (n v : Nat) : (leBytes n v).length = n := by
  induction n generalizing v with
  | zero => rfl
  | succ k ih => simp [leBytes, ih]

theorem leNat_leBytes (n v : Nat) : leNat (leBytes n v) = v % 256 ^ n := by
  induction n generalizing v with
  | zero => simp [leBytes, leNat, Nat.mod_one]
  | succ k ih =>
    simp only [leBytes, leNat, ih, BitVec.toNat_ofNat]
    rw [show 2 ^ 8 = 256 from rfl, Nat.pow_succ, Nat.mul_comm (256 ^ k) 256, Nat.mod_mul]

/-- Equal memories are equal lists: two canonical memories that read alike at every address are one. -/
theorem lookup_below (m : Memory) (lo a : Nat) (h : a < lo) (w : cellsFrom lo m = true) : lookup unlisted a m = unlisted := by
  induction m generalizing lo with
  | nil => rfl
  | cons e r ih =>
    obtain ⟨j, v⟩ := e
    simp only [cellsFrom, Bool.and_eq_true, decide_eq_true_eq] at w
    have : j ≠ a := by omega
    simp only [lookup, if_neg this]
    exact ih (j + 1) (by omega) w.2

end Sys2Proof.Machine
end

