-- ==== Sys2Proof/Laws/State.lean ====
section
/-! SUPPORT. One lemma for each part of the state and each update of it. -/

namespace Sys2Proof.Machine

open Sys2Proof

section
variable (s : State) (h j : Hart) (g i k : Nat)

@[simp] theorem State.slot_setSlot_same (v : Slot) : (s.setSlot h v).slot h = v := by
  simp [State.slot, State.setSlot]
theorem State.slot_setSlot_other (v : Slot) (n : j ≠ h) : (s.setSlot h v).slot j = s.slot j := by
  simp [State.slot, State.setSlot, Tab.get_put_other _ _ _ n]
@[simp] theorem State.slot_modSlot_same (m : Slot → Slot) : (s.modSlot h m).slot h = m (s.slot h) := by
  simp [State.modSlot]
theorem State.slot_modSlot_other (m : Slot → Slot) (n : j ≠ h) : (s.modSlot h m).slot j = s.slot j := by
  simp [State.modSlot, State.slot_setSlot_other s _ _ _ n]
@[simp] theorem State.core_setSlot (v : Slot) : (s.setSlot h v).core i = s.core i := rfl
@[simp] theorem State.core_modSlot (m : Slot → Slot) : (s.modSlot h m).core i = s.core i := rfl
@[simp] theorem State.cluster_setSlot (v : Slot) : (s.setSlot h v).cluster i = s.cluster i := rfl
@[simp] theorem State.cluster_modSlot (m : Slot → Slot) : (s.modSlot h m).cluster i = s.cluster i := rfl
@[simp] theorem State.mem_setSlot (v : Slot) : (s.setSlot h v).mem = s.mem := rfl
@[simp] theorem State.mem_modSlot (m : Slot → Slot) : (s.modSlot h m).mem = s.mem := rfl
@[simp] theorem State.cur_setSlot (v : Slot) : (s.setSlot h v).cur = s.cur := rfl
@[simp] theorem State.cur_modSlot (m : Slot → Slot) : (s.modSlot h m).cur = s.cur := rfl
@[simp] theorem State.npc_setSlot (v : Slot) : (s.setSlot h v).npc = s.npc := rfl
@[simp] theorem State.npc_modSlot (m : Slot → Slot) : (s.modSlot h m).npc = s.npc := rfl
@[simp] theorem State.ibits_setSlot (v : Slot) : (s.setSlot h v).ibits = s.ibits := rfl
@[simp] theorem State.ibits_modSlot (m : Slot → Slot) : (s.modSlot h m).ibits = s.ibits := rfl
@[simp] theorem State.ilen_setSlot (v : Slot) : (s.setSlot h v).ilen = s.ilen := rfl
@[simp] theorem State.ilen_modSlot (m : Slot → Slot) : (s.modSlot h m).ilen = s.ilen := rfl
@[simp] theorem State.free_setSlot (v : Slot) : (s.setSlot h v).free = s.free := rfl
@[simp] theorem State.free_modSlot (m : Slot → Slot) : (s.modSlot h m).free = s.free := rfl
@[simp] theorem State.poison_setSlot (v : Slot) : (s.setSlot h v).poison = s.poison := rfl
@[simp] theorem State.poison_modSlot (m : Slot → Slot) : (s.modSlot h m).poison = s.poison := rfl
@[simp] theorem State.errs_setSlot (v : Slot) : (s.setSlot h v).errs = s.errs := rfl
@[simp] theorem State.errs_modSlot (m : Slot → Slot) : (s.modSlot h m).errs = s.errs := rfl
@[simp] theorem State.acks_setSlot (v : Slot) : (s.setSlot h v).acks = s.acks := rfl
@[simp] theorem State.acks_modSlot (m : Slot → Slot) : (s.modSlot h m).acks = s.acks := rfl
@[simp] theorem State.recs_setSlot (v : Slot) : (s.setSlot h v).recs = s.recs := rfl
@[simp] theorem State.recs_modSlot (m : Slot → Slot) : (s.modSlot h m).recs = s.recs := rfl
@[simp] theorem State.agenda_setSlot (v : Slot) : (s.setSlot h v).agenda = s.agenda := rfl
@[simp] theorem State.agenda_modSlot (m : Slot → Slot) : (s.modSlot h m).agenda = s.agenda := rfl
@[simp] theorem State.work_setSlot (v : Slot) : (s.setSlot h v).work = s.work := rfl
@[simp] theorem State.ctl_setSlot (v : Slot) : (s.setSlot h v).ctl = s.ctl := rfl
@[simp] theorem State.work_modSlot (m : Slot → Slot) : (s.modSlot h m).work = s.work := rfl
@[simp] theorem State.ctl_modSlot (m : Slot → Slot) : (s.modSlot h m).ctl = s.ctl := rfl
@[simp] theorem State.queues_setSlot (v : Slot) : (s.setSlot h v).queues = s.queues := rfl
@[simp] theorem State.queues_modSlot (m : Slot → Slot) : (s.modSlot h m).queues = s.queues := rfl
@[simp] theorem State.core_setCore_same (v : Core) : (s.setCore g v).core g = v := by
  simp [State.core, State.setCore]
theorem State.core_setCore_other (v : Core) (n : i ≠ g) : (s.setCore g v).core i = s.core i := by
  simp [State.core, State.setCore, Tab.get_put_other _ _ _ n]
@[simp] theorem State.core_modCore_same (m : Core → Core) : (s.modCore g m).core g = m (s.core g) := by
  simp [State.modCore]
theorem State.core_modCore_other (m : Core → Core) (n : i ≠ g) : (s.modCore g m).core i = s.core i := by
  simp [State.modCore, State.core_setCore_other s _ _ _ n]
@[simp] theorem State.slot_setCore (v : Core) : (s.setCore g v).slot j = s.slot j := rfl
@[simp] theorem State.slot_modCore (m : Core → Core) : (s.modCore g m).slot j = s.slot j := rfl
@[simp] theorem State.cluster_setCore (v : Core) : (s.setCore g v).cluster i = s.cluster i := rfl
@[simp] theorem State.cluster_modCore (m : Core → Core) : (s.modCore g m).cluster i = s.cluster i := rfl
@[simp] theorem State.ctx_setCore (v : Core) : (s.setCore g v).ctx j = s.ctx j := rfl
@[simp] theorem State.ctx_modCore (m : Core → Core) : (s.modCore g m).ctx j = s.ctx j := rfl
@[simp] theorem State.mem_setCore (v : Core) : (s.setCore g v).mem = s.mem := rfl
@[simp] theorem State.mem_modCore (m : Core → Core) : (s.modCore g m).mem = s.mem := rfl
@[simp] theorem State.cur_setCore (v : Core) : (s.setCore g v).cur = s.cur := rfl
@[simp] theorem State.cur_modCore (m : Core → Core) : (s.modCore g m).cur = s.cur := rfl
@[simp] theorem State.npc_setCore (v : Core) : (s.setCore g v).npc = s.npc := rfl
@[simp] theorem State.npc_modCore (m : Core → Core) : (s.modCore g m).npc = s.npc := rfl
@[simp] theorem State.ibits_setCore (v : Core) : (s.setCore g v).ibits = s.ibits := rfl
@[simp] theorem State.ibits_modCore (m : Core → Core) : (s.modCore g m).ibits = s.ibits := rfl
@[simp] theorem State.ilen_setCore (v : Core) : (s.setCore g v).ilen = s.ilen := rfl
@[simp] theorem State.ilen_modCore (m : Core → Core) : (s.modCore g m).ilen = s.ilen := rfl
@[simp] theorem State.free_setCore (v : Core) : (s.setCore g v).free = s.free := rfl
@[simp] theorem State.free_modCore (m : Core → Core) : (s.modCore g m).free = s.free := rfl
@[simp] theorem State.poison_setCore (v : Core) : (s.setCore g v).poison = s.poison := rfl
@[simp] theorem State.poison_modCore (m : Core → Core) : (s.modCore g m).poison = s.poison := rfl
@[simp] theorem State.errs_setCore (v : Core) : (s.setCore g v).errs = s.errs := rfl
@[simp] theorem State.errs_modCore (m : Core → Core) : (s.modCore g m).errs = s.errs := rfl
@[simp] theorem State.acks_setCore (v : Core) : (s.setCore g v).acks = s.acks := rfl
@[simp] theorem State.acks_modCore (m : Core → Core) : (s.modCore g m).acks = s.acks := rfl
@[simp] theorem State.recs_setCore (v : Core) : (s.setCore g v).recs = s.recs := rfl
@[simp] theorem State.recs_modCore (m : Core → Core) : (s.modCore g m).recs = s.recs := rfl
@[simp] theorem State.agenda_setCore (v : Core) : (s.setCore g v).agenda = s.agenda := rfl
@[simp] theorem State.agenda_modCore (m : Core → Core) : (s.modCore g m).agenda = s.agenda := rfl
@[simp] theorem State.work_setCore (v : Core) : (s.setCore g v).work = s.work := rfl
@[simp] theorem State.ctl_setCore (v : Core) : (s.setCore g v).ctl = s.ctl := rfl
@[simp] theorem State.work_modCore (m : Core → Core) : (s.modCore g m).work = s.work := rfl
@[simp] theorem State.ctl_modCore (m : Core → Core) : (s.modCore g m).ctl = s.ctl := rfl
@[simp] theorem State.queues_setCore (v : Core) : (s.setCore g v).queues = s.queues := rfl
@[simp] theorem State.queues_modCore (m : Core → Core) : (s.modCore g m).queues = s.queues := rfl
@[simp] theorem State.cluster_setCluster_same (v : Cluster) : (s.setCluster k v).cluster k = v := by
  simp [State.cluster, State.setCluster]
theorem State.cluster_setCluster_other (v : Cluster) (n : i ≠ k) : (s.setCluster k v).cluster i = s.cluster i := by
  simp [State.cluster, State.setCluster, Tab.get_put_other _ _ _ n]
@[simp] theorem State.cluster_modCluster_same (m : Cluster → Cluster) : (s.modCluster k m).cluster k = m (s.cluster k) := by
  simp [State.modCluster]
theorem State.cluster_modCluster_other (m : Cluster → Cluster) (n : i ≠ k) : (s.modCluster k m).cluster i = s.cluster i := by
  simp [State.modCluster, State.cluster_setCluster_other s _ _ _ n]
@[simp] theorem State.slot_setCluster (v : Cluster) : (s.setCluster k v).slot j = s.slot j := rfl
@[simp] theorem State.slot_modCluster (m : Cluster → Cluster) : (s.modCluster k m).slot j = s.slot j := rfl
@[simp] theorem State.core_setCluster (v : Cluster) : (s.setCluster k v).core i = s.core i := rfl
@[simp] theorem State.core_modCluster (m : Cluster → Cluster) : (s.modCluster k m).core i = s.core i := rfl
@[simp] theorem State.ctx_setCluster (v : Cluster) : (s.setCluster k v).ctx j = s.ctx j := rfl
@[simp] theorem State.ctx_modCluster (m : Cluster → Cluster) : (s.modCluster k m).ctx j = s.ctx j := rfl
@[simp] theorem State.mem_setCluster (v : Cluster) : (s.setCluster k v).mem = s.mem := rfl
@[simp] theorem State.mem_modCluster (m : Cluster → Cluster) : (s.modCluster k m).mem = s.mem := rfl
@[simp] theorem State.cur_setCluster (v : Cluster) : (s.setCluster k v).cur = s.cur := rfl
@[simp] theorem State.cur_modCluster (m : Cluster → Cluster) : (s.modCluster k m).cur = s.cur := rfl
@[simp] theorem State.npc_setCluster (v : Cluster) : (s.setCluster k v).npc = s.npc := rfl
@[simp] theorem State.npc_modCluster (m : Cluster → Cluster) : (s.modCluster k m).npc = s.npc := rfl
@[simp] theorem State.ibits_setCluster (v : Cluster) : (s.setCluster k v).ibits = s.ibits := rfl
@[simp] theorem State.ibits_modCluster (m : Cluster → Cluster) : (s.modCluster k m).ibits = s.ibits := rfl
@[simp] theorem State.ilen_setCluster (v : Cluster) : (s.setCluster k v).ilen = s.ilen := rfl
@[simp] theorem State.ilen_modCluster (m : Cluster → Cluster) : (s.modCluster k m).ilen = s.ilen := rfl
@[simp] theorem State.free_setCluster (v : Cluster) : (s.setCluster k v).free = s.free := rfl
@[simp] theorem State.free_modCluster (m : Cluster → Cluster) : (s.modCluster k m).free = s.free := rfl
@[simp] theorem State.poison_setCluster (v : Cluster) : (s.setCluster k v).poison = s.poison := rfl
@[simp] theorem State.poison_modCluster (m : Cluster → Cluster) : (s.modCluster k m).poison = s.poison := rfl
@[simp] theorem State.errs_setCluster (v : Cluster) : (s.setCluster k v).errs = s.errs := rfl
@[simp] theorem State.errs_modCluster (m : Cluster → Cluster) : (s.modCluster k m).errs = s.errs := rfl
@[simp] theorem State.acks_setCluster (v : Cluster) : (s.setCluster k v).acks = s.acks := rfl
@[simp] theorem State.acks_modCluster (m : Cluster → Cluster) : (s.modCluster k m).acks = s.acks := rfl
@[simp] theorem State.recs_setCluster (v : Cluster) : (s.setCluster k v).recs = s.recs := rfl
@[simp] theorem State.recs_modCluster (m : Cluster → Cluster) : (s.modCluster k m).recs = s.recs := rfl
@[simp] theorem State.agenda_setCluster (v : Cluster) : (s.setCluster k v).agenda = s.agenda := rfl
@[simp] theorem State.agenda_modCluster (m : Cluster → Cluster) : (s.modCluster k m).agenda = s.agenda := rfl
@[simp] theorem State.work_setCluster (v : Cluster) : (s.setCluster k v).work = s.work := rfl
@[simp] theorem State.ctl_setCluster (v : Cluster) : (s.setCluster k v).ctl = s.ctl := rfl
@[simp] theorem State.work_modCluster (m : Cluster → Cluster) : (s.modCluster k m).work = s.work := rfl
@[simp] theorem State.ctl_modCluster (m : Cluster → Cluster) : (s.modCluster k m).ctl = s.ctl := rfl
@[simp] theorem State.queues_setCluster (v : Cluster) : (s.setCluster k v).queues = s.queues := rfl
@[simp] theorem State.queues_modCluster (m : Cluster → Cluster) : (s.modCluster k m).queues = s.queues := rfl

@[simp] theorem State.core_modCtx (f : Ctx → Ctx) : (s.modCtx h f).core g = s.core g := rfl
@[simp] theorem State.cluster_modCtx (f : Ctx → Ctx) : (s.modCtx h f).cluster k = s.cluster k := rfl
@[simp] theorem State.slot_modCtx_same (f : Ctx → Ctx) :
    (s.modCtx h f).slot h = { s.slot h with ctx := (s.slot h).ctx.map f } := by
  simp [State.modCtx]
theorem State.slot_modCtx_other (f : Ctx → Ctx) (n : j ≠ h) : (s.modCtx h f).slot j = s.slot j := by
  simp [State.modCtx, State.slot_modSlot_other s h j _ n]
/-- A slot that holds a context holds the updated one. -/
theorem State.ctx_modCtx_same (f : Ctx → Ctx) (c : (s.slot h).ctx.isSome) : (s.modCtx h f).ctx h = f (s.ctx h) := by
  obtain ⟨x, e⟩ := Option.isSome_iff_exists.mp c
  simp [State.ctx, e]
theorem State.ctx_modCtx_other (f : Ctx → Ctx) (n : j ≠ h) : (s.modCtx h f).ctx j = s.ctx j := by
  simp [State.ctx, State.slot_modCtx_other s h j f n]
@[simp] theorem State.mem_modCtx (f : Ctx → Ctx) : (s.modCtx h f).mem = s.mem := rfl
@[simp] theorem State.cur_modCtx (f : Ctx → Ctx) : (s.modCtx h f).cur = s.cur := rfl
@[simp] theorem State.npc_modCtx (f : Ctx → Ctx) : (s.modCtx h f).npc = s.npc := rfl
@[simp] theorem State.ibits_modCtx (f : Ctx → Ctx) : (s.modCtx h f).ibits = s.ibits := rfl
@[simp] theorem State.ilen_modCtx (f : Ctx → Ctx) : (s.modCtx h f).ilen = s.ilen := rfl
@[simp] theorem State.free_modCtx (f : Ctx → Ctx) : (s.modCtx h f).free = s.free := rfl
@[simp] theorem State.poison_modCtx (f : Ctx → Ctx) : (s.modCtx h f).poison = s.poison := rfl
@[simp] theorem State.errs_modCtx (f : Ctx → Ctx) : (s.modCtx h f).errs = s.errs := rfl
@[simp] theorem State.acks_modCtx (f : Ctx → Ctx) : (s.modCtx h f).acks = s.acks := rfl
@[simp] theorem State.recs_modCtx (f : Ctx → Ctx) : (s.modCtx h f).recs = s.recs := rfl
@[simp] theorem State.agenda_modCtx (f : Ctx → Ctx) : (s.modCtx h f).agenda = s.agenda := rfl
@[simp] theorem State.work_modCtx (f : Ctx → Ctx) : (s.modCtx h f).work = s.work := rfl
@[simp] theorem State.ctl_modCtx (f : Ctx → Ctx) : (s.modCtx h f).ctl = s.ctl := rfl
@[simp] theorem State.queues_modCtx (f : Ctx → Ctx) : (s.modCtx h f).queues = s.queues := rfl

@[simp] theorem State.slot_begun : s.begun.slot j = s.slot j := rfl
@[simp] theorem State.ctx_begun : s.begun.ctx j = s.ctx j := rfl
@[simp] theorem State.core_begun : s.begun.core i = s.core i := rfl
@[simp] theorem State.cluster_begun : s.begun.cluster i = s.cluster i := rfl
@[simp] theorem State.mem_begun : s.begun.mem = s.mem := rfl
@[simp] theorem State.cur_begun : s.begun.cur = s.cur := rfl
@[simp] theorem State.ibits_begun : s.begun.ibits = s.ibits := rfl
@[simp] theorem State.ilen_begun : s.begun.ilen = s.ilen := rfl
@[simp] theorem State.free_begun : s.begun.free = s.free := rfl
@[simp] theorem State.poison_begun : s.begun.poison = s.poison := rfl
@[simp] theorem State.errs_begun : s.begun.errs = s.errs := rfl
@[simp] theorem State.acks_begun : s.begun.acks = s.acks := rfl
@[simp] theorem State.recs_begun : s.begun.recs = s.recs := rfl
@[simp] theorem State.agenda_begun : s.begun.agenda = s.agenda := rfl
@[simp] theorem State.work_begun : s.begun.work = s.work := rfl
@[simp] theorem State.queues_begun : s.begun.queues = s.queues := rfl
@[simp] theorem State.npc_begun : s.begun.npc = (s.ctx s.cur).pc + w64 s.ilen := rfl

/-- A thread that runs has a context in its slot. -/
theorem State.Runs.isSome {s : State} (r : s.Runs) : (s.slot s.cur).ctx.isSome := by
  have := r
  simp only [State.Runs, State.running, Bool.and_eq_true] at this
  exact this.1
/-- The slot of a thread that runs holds its context. -/
theorem State.Runs.slot_ctx {s : State} (r : s.Runs) : (s.slot s.cur).ctx = some (s.ctx s.cur) := by
  obtain ⟨x, e⟩ := Option.isSome_iff_exists.mp r.isSome
  simp [State.ctx, e]
end

section
variable (c : Ctx) (r q : Nat) (v : Word)
@[simp] theorem Ctx.getX_zero : c.getX 0 = 0#64 := rfl
theorem Ctx.getX_setX : (c.setX r v).getX q = if q = r ∧ r ≠ 0 then v else c.getX q := by
  unfold Ctx.getX Ctx.setX
  by_cases hr : r = 0
  · simp [hr]
  · by_cases hq : q = 0
    · subst hq; simp [hr, Ne.symm hr]
    · by_cases e : q = r <;> simp [hr, hq, Tab.get_put, e]
@[simp] theorem Ctx.setX_pc : (c.setX r v).pc = c.pc := by unfold Ctx.setX; split <;> rfl
@[simp] theorem Ctx.setX_instret : (c.setX r v).instret = c.instret := by unfold Ctx.setX; split <;> rfl
end

end Sys2Proof.Machine
end

