-- ==== Sys2Proof/Laws/Run.lean ====
section
/-! SUPPORT. How a thread's instruction runs: the sequencing of its operations, and what its turn leaves for each way it
can end. -/

namespace Sys2Proof.Machine

open Sys2Proof

/-! ### Sequencing -/

section
variable {ε α β : Type}
@[simp] theorem estate_bind (x : EStateM ε State α) (f : α → EStateM ε State β) (s : State) :
    (x >>= f) s = match x s with
      | .ok a t => f a t
      | .error e t => .error e t := by
  cases h : x s <;> simp [bind, EStateM.bind, h]
@[simp] theorem estate_map (x : EStateM ε State α) (f : α → β) (s : State) :
    (f <$> x) s = match x s with
      | .ok a t => .ok (f a) t
      | .error e t => .error e t := by
  cases h : x s <;> simp [Functor.map, EStateM.map, h]
@[simp] theorem estate_pure (a : α) (s : State) : (pure a : EStateM ε State α) s = .ok a s := rfl
@[simp] theorem estate_get (s : State) : (get : EStateM ε State State) s = .ok s s := rfl
@[simp] theorem estate_set (s t : State) : (set t : EStateM ε State PUnit) s = .ok () t := rfl
@[simp] theorem estate_modify (f : State → State) (s : State) : (modify f : EStateM ε State PUnit) s = .ok () (f s) := rfl
@[simp] theorem estate_throw (e : ε) (s : State) : (throw e : EStateM ε State α) s = .error e s := rfl
@[simp] theorem estate_ite (p : Prop) [Decidable p] (x y : EStateM ε State α) (s : State) :
    (if p then x else y) s = if p then x s else y s := by split <;> rfl
end

/-! ### The named operations -/

section
variable (s : State)
@[simp] theorem upd_apply (f : State → State) : upd f s = .ok () (f s) := rfl
@[simp] theorem me_apply : me s = .ok s.cur s := rfl
@[simp] theorem myCore_apply : myCore s = .ok s.cur.gcore s := rfl
@[simp] theorem myCluster_apply : myCluster s = .ok s.cur.cl s := rfl
@[simp] theorem ctx_apply : ctx s = .ok (s.ctx s.cur) s := rfl
@[simp] theorem slot_apply : slot s = .ok (s.slot s.cur) s := rfl
@[simp] theorem core_apply : core s = .ok (s.core s.cur.gcore) s := rfl
@[simp] theorem cluster_apply : cluster s = .ok (s.cluster s.cur.cl) s := rfl
@[simp] theorem modCtx_apply (f : Ctx → Ctx) : modCtx f s = .ok () (s.modCtx s.cur f) := rfl
@[simp] theorem modSlot_apply (f : Slot → Slot) : modSlot f s = .ok () (s.modSlot s.cur f) := rfl
@[simp] theorem modCore_apply (f : Core → Core) : modCore f s = .ok () (s.modCore s.cur.gcore f) := rfl
@[simp] theorem modCluster_apply (f : Cluster → Cluster) : modCluster f s = .ok () (s.modCluster s.cur.cl f) := rfl
@[simp] theorem getX_apply (r : Reg) : getX r s = .ok (s.xr r) s := rfl
@[simp] theorem setX_apply (r : Reg) (v : Word) : setX r v s = .ok () (s.putX r v) := rfl
@[simp] theorem setPc_apply (v : Word) : setPc v s = .ok () { s with npc := v } := rfl
@[simp] theorem trap_apply {α : Type} (c : Nat) (v : Word) : (trap c v : M α) s = .error (.trap c v) s := rfl
@[simp] theorem wait_apply {α : Type} : (wait : M α) s = .error .wait s := rfl
@[simp] theorem gone_apply {α : Type} : (gone : M α) s = .error .gone s := rfl
@[simp] theorem illegal_apply {α : Type} : (illegal : M α) s = .error (.trap 2 (s.ibits.setWidth 64)) s := rfl
@[simp] theorem require_true : require true = pure () := rfl
@[simp] theorem waitUnless_true : waitUnless true = pure () := rfl
theorem require_apply (b : Bool) :
    require b s = if b then .ok () s else .error (.trap 2 (s.ibits.setWidth 64)) s := by cases b <;> rfl
theorem waitUnless_apply (b : Bool) : waitUnless b s = if b then .ok () s else .error .wait s := by cases b <;> rfl
theorem orTrap_apply (b : Bool) (c : Nat) (v : Word) :
    orTrap b c v s = if b then .ok () s else .error (.trap c v) s := by cases b <;> rfl
@[simp] theorem State.xr_begun (r : Reg) : s.begun.xr r = s.xr r := rfl
@[simp] theorem State.cur_putX (r : Reg) (v : Word) : (s.putX r v).cur = s.cur := rfl
end

/-! ### The end of a thread's turn -/

section
variable {s t : State} {m : M Unit}

theorem runThread_ok (r : s.Runs) (h : m s.begun = .ok () t) : runThread m s = .next t.retire := by
  have e : m { s with npc := (s.ctx s.cur).pc + w64 s.ilen } = .ok () t := h
  simp only [runThread, show s.running s.cur = true from r, if_true, e]

theorem runThread_trap {c : Nat} {v : Word} (r : s.Runs) (h : m s.begun = .error (.trap c v) t) :
    runThread m s = .next ((t.takeTrap t.cur false c v).passCycles t.cur.gcore) := by
  have e : m { s with npc := (s.ctx s.cur).pc + w64 s.ilen } = .error (.trap c v) t := h
  simp only [runThread, show s.running s.cur = true from r, if_true, e]

theorem runThread_wait (r : s.Runs) (h : m s.begun = .error .wait t) :
    runThread m s = .next (t.waitCycles t.cur) := by
  have e : m { s with npc := (s.ctx s.cur).pc + w64 s.ilen } = .error .wait t := h
  simp only [runThread, show s.running s.cur = true from r, if_true, e]

theorem runThread_gone (r : s.Runs) (h : m s.begun = .error .gone t) :
    runThread m s = .next (t.passCycles t.cur.gcore) := by
  have e : m { s with npc := (s.ctx s.cur).pc + w64 s.ilen } = .error .gone t := h
  simp only [runThread, show s.running s.cur = true from r, if_true, e]

theorem runThread_trapped {c : Nat} {v : Word} (r : s.Runs) (h : m s.begun = .error (.trap c v) s.begun) :
    runThread m s = .next (s.trapped c v) := runThread_trap r h

theorem runThread_waited (r : s.Runs) (h : m s.begun = .error .wait s.begun) : runThread m s = .next s.waited :=
  runThread_wait r h
end

/-! ### Retirement -/

section
variable (s : State)

/-- Counting an event changes a core's counters only. -/
theorem Core.count_frame (c : Core) (ev n : Nat) : c.count ev n = { c with hpm := (c.count ev n).hpm } := rfl

theorem State.spend_slot (g : Nat) (idle : Bool) (h : Hart) : (s.spend g idle).slot h = s.slot h := rfl
theorem State.passCycles_mem (g : Nat) : (s.passCycles g).mem = s.mem := rfl
theorem State.passCycles_slot (g : Nat) (h : Hart) : (s.passCycles g).slot h = s.slot h := rfl
theorem State.waitCycles_slot (g h : Hart) : (s.waitCycles g).slot h = s.slot h := rfl

/-- Cycles of a core change its counters only. -/
theorem Core.cycles_frame (c : Core) (n : Nat) (idle stretched : Bool) :
    c.cycles n idle stretched = { c with cycle := (c.cycles n idle stretched).cycle, hpm := (c.cycles n idle stretched).hpm } := by
  unfold Core.cycles
  cases idle <;> cases stretched <;> dsimp only [Core.count] <;> (try simp only [Bool.false_eq_true, if_false, if_true]) <;>
    split <;> rfl

/-- What retirement leaves in the slot of the current hart. -/
theorem State.retire_slot : s.retire.slot s.cur =
    { s.slot s.cur with
      wait := none
      marks := (s.slot s.cur).marks.filter (fun m => m.part = .vector)
      ctx := (s.slot s.cur).ctx.map (fun x => { x with
        pc := s.npc
        instret := if wbit (s.core s.cur.gcore).inhibit 2 then x.instret else x.instret + 1#64 }) } := by
  simp [State.retire, State.perf, State.passCycles_slot] <;> rfl

theorem State.retire_slot_other {h : Hart} (n : h ≠ s.cur) : s.retire.slot h = s.slot h := by
  simp [State.retire, State.perf, State.passCycles_slot, State.slot_modSlot_other _ _ _ _ n]

theorem State.spend_core_other {g i : Nat} (idle : Bool) (n : i ≠ g) : (s.spend g idle).core i = s.core i :=
  State.core_modCore_other { s with free := s.free + 1 } g i _ n
theorem State.passCycles_core_other {g i : Nat} (n : i ≠ g) : (s.passCycles g).core i = s.core i := s.spend_core_other false n

theorem State.retire_core_other {g : Nat} (n : g ≠ s.cur.gcore) : s.retire.core g = s.core g := by
  simp [State.retire, State.perf, State.passCycles_core_other _ n, State.core_modCore_other _ _ _ _ n]

theorem State.spend_core_frame (g : Nat) (idle : Bool) :
    (s.spend g idle).core g =
      { s.core g with cycle := ((s.spend g idle).core g).cycle, hpm := ((s.spend g idle).core g).hpm } := by
  have e : (s.spend g idle).core g = (s.core g).cycles (1 + Config.extraCycles s.free) idle (s.stretched g) :=
    State.core_modCore_same { s with free := s.free + 1 } g _
  rw [e]
  exact Core.cycles_frame _ _ _ _

theorem State.retire_core : s.retire.core s.cur.gcore =
    { s.core s.cur.gcore with
      cycle := (s.retire.core s.cur.gcore).cycle, hpm := (s.retire.core s.cur.gcore).hpm } := by
  unfold State.retire
  dsimp only
  unfold State.passCycles
  rw [State.spend_core_frame]
  simp [State.perf, Core.count]

/-- Retirement changes slots, cores and the counter of free values only. -/
theorem State.retire_frame : s.retire = { s with slots := s.retire.slots, cores := s.retire.cores, free := s.retire.free } :=
  rfl

end

/-- What the retirement of a state that differs from s in its thread's context and next pc only leaves. -/
theorem retired_of {s : State} (f : Ctx → Ctx) (pc : Word) (u : State)
    (same : u.slot s.cur = { s.slot s.cur with ctx := some (f (s.ctx s.cur)) })
    (out : ∀ h, h ≠ s.cur → u.slot h = s.slot h) (e : u = { s with slots := u.slots, npc := pc }) :
    Retired s u.retire f pc := by
  have cur : u.cur = s.cur := by rw [e]
  have npc : u.npc = pc := by rw [e]
  have core (g : Nat) : u.core g = s.core g := by rw [e]; rfl
  have slot := u.retire_slot
  rw [cur, same, npc, core] at slot
  have ctx : u.retire.ctx s.cur = { f (s.ctx s.cur) with pc := pc, instret := (f (s.ctx s.cur)).instret + s.counted } := by
    unfold State.ctx State.counted at *
    rw [slot]
    simp only [Option.map_some, Option.getD_some]
    split <;> simp
  refine ⟨fun a => by rw [u.retire_frame, e], ctx, ?_, ?_, ?_, ?_, ?_⟩
  · rw [ctx, slot]
    simp only [Option.map_some, State.counted]
    split <;> simp
  · intro h n
    rw [State.retire_slot_other u (by rwa [cur]), out h n]
  · have := u.retire_core
    rw [cur] at this
    rw [this, core]
  · intro g n
    rw [State.retire_core_other u (by rwa [cur]), core]
  · rw [u.retire_frame, e]

/-- An instruction that only updates its thread's context. -/
theorem retires_ctx {s : State} {m : M Unit} {f : Ctx → Ctx} {pc : Word} (r : s.Runs)
    (h : m s.begun = .ok () { s.modCtx s.cur f with npc := pc }) :
    ∃ t, runThread m s = .next t ∧ Retired s t f pc := by
  refine ⟨_, runThread_ok r h, retired_of f pc _ ?_ (fun j n => State.slot_modCtx_other s s.cur j f n) rfl⟩
  exact (State.slot_modCtx_same s s.cur f).trans (by rw [r.slot_ctx]; rfl)

/-- An instruction that writes one x register and goes on. -/
theorem retires_setX {s : State} {m : M Unit} {d : Reg} {v : Word} (r : s.Runs) (h : m s.begun = .ok () (s.begun.putX d v)) :
    ∃ t, runThread m s = .next t ∧ Retired s t (·.setX d.toNat v) s.nextPc :=
  retires_ctx r h

/-- An instruction that only goes on, at a pc of its own. -/
theorem retires_id {s : State} {m : M Unit} {pc : Word} (r : s.Runs) (h : m s.begun = .ok () { s with npc := pc }) :
    ∃ t, runThread m s = .next t ∧ Retired s t id pc := by
  refine ⟨_, runThread_ok r h, retired_of id pc _ ?_ (fun _ _ => rfl) rfl⟩
  simp only [id, ← r.slot_ctx]
  rfl

end Sys2Proof.Machine
end

