-- ==== Sys2Proof/Laws/Keeps.lean ====
section
/-! SUPPORT. Computations that keep the canonical form of memory: how the property passes through the sequencing of an
instruction or an engine, and from the meanings to a step. Memory is written in State.rawPut, State.placeBytes and the two
resets, and nowhere else. -/

namespace Sys2Proof.Machine

open Sys2Proof

/-- Run from any state whose memory is canonical, the computation ends in one, however it ends. -/
def Keeps {ε α : Type} (m : EStateM ε State α) : Prop :=
  ∀ s : State, s.Inv → match m s with
    | .ok _ t => t.Inv
    | .error _ t => t.Inv

section
variable {ε α β : Type}

theorem Keeps.ok {m : EStateM ε State α} {s t : State} {a : α} (k : Keeps m) (i : s.Inv) (h : m s = .ok a t) : t.Inv := by
  have := k s i; rwa [h] at this

theorem Keeps.error {m : EStateM ε State α} {s t : State} {e : ε} (k : Keeps m) (i : s.Inv) (h : m s = .error e t) :
    t.Inv := by
  have := k s i; rwa [h] at this

theorem keeps_pure (a : α) : Keeps (pure a : EStateM ε State α) := fun _ i => i
theorem keeps_throw (e : ε) : Keeps (throw e : EStateM ε State α) := fun _ i => i
theorem keeps_get : Keeps (get : EStateM ε State State) := fun _ i => i

theorem keeps_modify {f : State → State} (h : ∀ s : State, s.Inv → (f s).Inv) : Keeps (modify f : EStateM ε State PUnit) :=
  fun s i => h s i

theorem Keeps.bind {m : EStateM ε State α} {f : α → EStateM ε State β} (k : Keeps m) (l : ∀ a, Keeps (f a)) :
    Keeps (m >>= f) := by
  intro s i
  rw [estate_bind]
  cases h : m s with
  | ok a t => exact l a t (k.ok i h)
  | error e t => exact k.error i h

theorem keeps_ite {p : Prop} [Decidable p] {x y : EStateM ε State α} (k : Keeps x) (l : Keeps y) :
    Keeps (if p then x else y) := by
  split <;> assumption

/-- A change that leaves memory as it is keeps its form. -/
theorem State.Inv.of_mem {s t : State} (i : s.Inv) (h : t.mem = s.mem) : t.Inv := by
  unfold State.Inv at *; rwa [h]
end

/-! ### Parts of the state -/

section
variable {s : State} (i : s.Inv)
include i

theorem State.Inv.setSlot (h : Hart) (v : Slot) : (s.setSlot h v).Inv := i
theorem State.Inv.setCore (g : Nat) (v : Core) : (s.setCore g v).Inv := i
theorem State.Inv.setCluster (k : Nat) (v : Cluster) : (s.setCluster k v).Inv := i
theorem State.Inv.modSlot (h : Hart) (f : Slot → Slot) : (s.modSlot h f).Inv := i
theorem State.Inv.modCtx (h : Hart) (f : Ctx → Ctx) : (s.modCtx h f).Inv := i
theorem State.Inv.modCore (g : Nat) (f : Core → Core) : (s.modCore g f).Inv := i
theorem State.Inv.modCluster (k : Nat) (f : Cluster → Cluster) : (s.modCluster k f).Inv := i
theorem State.Inv.error (e : ErrRec) : (s.error e).Inv := i
theorem State.Inv.spend (g : Nat) (idle : Bool) : (s.spend g idle).Inv := i
theorem State.Inv.passCycles (g : Nat) : (s.passCycles g).Inv := i
theorem State.Inv.waitCycles (h : Hart) : (s.waitCycles h).Inv := i
theorem State.Inv.takeTrap (h : Hart) (b : Bool) (c : Nat) (v : Word) : (s.takeTrap h b c v).Inv := i
theorem State.Inv.retire : s.retire.Inv := i

/-- Bytes put into storage keep the form. -/
theorem State.Inv.rawPut (a : Nat) (bs : List Byte) : (s.rawPut a bs).Inv := Memory.wf_writeN bs s.mem a i
theorem State.Inv.setPoison (b : Nat) (p : Bool) : (s.setPoison b p).Inv := by
  unfold State.setPoison; split <;> exact i
theorem State.Inv.emptyKey (b : Nat) (e : ErrRec) : (s.emptyKey b e).Inv := by
  unfold State.emptyKey; split <;> exact i

/-- A block put into a device's memory keeps the form, whichever key seals it. -/
theorem State.Inv.memPut (b key : Nat) (d : BitVec 256) (p : Bool) (e : ErrRec) : (s.memPut b key d p e).Inv := by
  unfold State.memPut
  split
  · exact i.emptyKey b e
  · apply State.Inv.setPoison
    split <;> exact i.rawPut b _

/-- Bytes written by a party keep the form. -/
theorem State.Inv.putBytes (a : Nat) (bs : List Byte) (h : Option Hart) : (s.putBytes a bs h).Inv :=
  Memory.wf_writeN bs s.mem a i
end

/-! ### Operations -/

theorem keeps_upd {f : State → State} (h : ∀ s : State, s.Inv → (f s).Inv) : Keeps (upd f) := fun s i => h s i
theorem keeps_ctx : Keeps ctx := fun _ i => i
theorem keeps_slot : Keeps slot := fun _ i => i
theorem keeps_core : Keeps core := fun _ i => i
theorem keeps_cluster : Keeps cluster := fun _ i => i
theorem keeps_getX (r : Reg) : Keeps (getX r) := fun _ i => i
theorem keeps_setX (r : Reg) (v : Word) : Keeps (setX r v) := fun _ i => i
theorem keeps_modCtx (f : Ctx → Ctx) : Keeps (Machine.modCtx f) := fun _ i => i
theorem keeps_modSlot (f : Slot → Slot) : Keeps (Machine.modSlot f) := fun _ i => i
theorem keeps_modCore (f : Core → Core) : Keeps (Machine.modCore f) := fun _ i => i
theorem keeps_modCluster (f : Cluster → Cluster) : Keeps (Machine.modCluster f) := fun _ i => i
theorem keeps_trap {α : Type} (c : Nat) (v : Word) : Keeps (trap c v : M α) := fun _ i => i
theorem keeps_wait {α : Type} : Keeps (wait : M α) := fun _ i => i
theorem keeps_gone {α : Type} : Keeps (gone : M α) := fun _ i => i
theorem keeps_require (b : Bool) : Keeps (require b) := fun s i => by rw [require_apply]; cases b <;> exact i
theorem keeps_waitUnless (b : Bool) : Keeps (waitUnless b) := fun s i => by rw [waitUnless_apply]; cases b <;> exact i
theorem keeps_orTrap (b : Bool) (c : Nat) (v : Word) : Keeps (orTrap b c v) := fun s i => by
  rw [orTrap_apply]; cases b <;> exact i

/-! ### From a meaning to a step -/

/-- Memory after the turn of an instruction that keeps it is canonical. -/
theorem runThread_inv {m : M Unit} {s t : State} (k : Keeps m) (i : s.Inv) (h : runThread m s = .next t) : t.Inv := by
  have i' : State.Inv { s with npc := (s.ctx s.cur).pc + w64 s.ilen } := i
  unfold runThread at h
  split at h
  · split at h <;> cases h
    · next e => exact (k.ok i' e).retire
    · next e => exact ((k.error i' e).takeTrap _ _ _ _).passCycles _
    · next e => exact (k.error i' e).waitCycles _
    · next e => exact (k.error i' e).passCycles _
  · cases h; exact i

/-- Memory after an event whose change keeps it is canonical. -/
theorem event_inv {f : State → Option State} {s t : State} (k : ∀ u, f s = some u → u.Inv) (i : s.Inv)
    (h : event f s = .next t) : t.Inv := by
  unfold event at h
  cases h
  cases e : f s with
  | none => simpa [e] using i
  | some u => simpa [e] using k u e

/-- Memory after an engine's step is canonical where the step keeps it. -/
theorem stepE_inv {m : EM Unit} {s t : State} (k : Keeps m) (i : s.Inv) (h : stepE m s = some t) : t.Inv := by
  unfold stepE at h
  split at h
  · next e => cases h; exact k.ok i e
  · cases h

end Sys2Proof.Machine
end

