-- ==== Sys2Proof/Tests/Slice0.lean ====
section
/-! SUPPORT. Tests: ill-formed terms refused, words written out from the spec's encodings and examples, single steps whose
results the spec gives, and for every statement of Certificates/Slice0/Obligations.lean with hypotheses a state and operands
that meet them. -/

namespace Sys2Proof.Machine

open Sys2Proof

set_option Elab.async false

/-! ### Ill-formed terms -/

/-- Each operand check of the standard instructions refuses a term. -/
theorem test_wf_refuses_operands : [
    Instr.registerWrite (.csr .rs false 5#5 0#5 0x340#12),                 -- csrrs with x0 does not write
    .standardScalarInstruction (.csrRead .rw false 5#5 0x340#12),          -- csrrw always writes
    .atomicAmo .lr .d 0#1 0#1 5#5 6#5 7#5,                                 -- lr with rs2 other than x0
    .amocas .q 0#1 0#1 5#5 6#5 8#5, .amocas .q 0#1 0#1 4#5 6#5 9#5,        -- an odd register of a pair
    .fence 8#4 3#4 3#4 0#5 0#5,                                            -- the word of fence.tso
    .vectorIssue 0#32, .unassignedHint 0x0400600B#32,                      -- no vector word; the word of ctx.spin
    .standardScalarInstruction (.sh .slliw 5#5 6#5 32#6),                  -- six bits of amount
    .standardScalarInstruction (.fp2 .add .d 5#3 1#5 2#5 3#5),             -- a reserved rounding mode
    .standardScalarInstruction (.fsqrt .s 6#3 1#5 2#5),
    .standardScalarInstruction (.fcvtFF .d .d 0#3 1#5 2#5)].all (fun i => !i.wf) = true := by decide

/-- Each number check of the events refuses a term. -/
theorem test_wf_refuses_numbers : [
    Instr.registerWrite (.dev (.control 8) 0xC00000000000 0#64), .wrsTimeout 20480, .sequencerHeadExecute 20480,
    .loopIteration 20480, .issuePassExpiry 20480, .sleeperWake 20480, .parkStoreEntryFree 20480,
    .supplyThresholdCrossing 40, .stretchRiseTick 40, .stretchFallTick 40, .supplyAboveThreshold 40, .recordReoffer 40,
    .rankMoveComplete 40, .herderDispatch 40, .slotFill 40 0, .slotFill 0 64, .remoteScratchpadRequest 0 64,
    .scentDivergenceTimeout 40 0, .haltQuiescent 0 64, .tileOpStart 40 0, .tileOpComplete 0 64,
    .queueNotifyWrite (.host 0) 16384 0#64, .queueEnable (.firmware 40) 0 0#64, .queueDisable (.host 0) 16384,
    .queueResetWrite (.control 8) 0, .queueResetComplete 16384, .linkEnable (.host 0) 24, .linkDisable (.host 0) 24,
    .linkTrainingComplete 24 true true 0, .flitReceive 24 true, .skennelPark 32, .skennelReady 32,
    .skennelEmptyFailed 32].all (fun i => !i.wf) = true := by decide

/-! ### Words of the spec -/

/-- The instruction of a 32-bit word. -/
def word (w : IWord) : Option Instr := (decode32 w).toOption

/-- The words of the examples of spec/05, 06, 07, 08 and 11. -/
theorem test_decode_core_words :
    word 0x0811D08B#32 = some (.mfFence 1#4 3#4 1#2) ∧ word 0x0400600B#32 = some .ctxSpin ∧
    word 0x0600050B#32 = some (.ctxSelf 10#5) ∧ word 0x0805850B#32 = some (.ctxCkpt 11#5 10#5) ∧
    word 0x0200728B#32 = some (.sysKsave 5#5) ∧ word 0x0405100B#32 = some (.grpGo 10#5) ∧
    word 0x02B2900B#32 = some (.grpSpawnat 11#5 5#5) ∧ word 0x0605A28B#32 = some (.barSync 11#5 5#5) ∧
    word 0x00C5A50B#32 = some (.barInit 12#5 11#5 10#5) ∧ word 0x04A5A50B#32 = some (.barWait 10#5 11#5 10#5) ∧
    word 0x0805950B#32 = some (.grpOwner 11#5 10#5) ∧
    word 0x0005B50B#32 = some (.krnLaunch 11#5 10#5) ∧ word 0x0805350B#32 = some (.krnWait 10#5 10#5) ∧
    word 0x0600328B#32 = some (.krnBorrow 5#5) ∧ word 0x00C5C50B#32 = some (.qPush 12#5 11#5 10#5) ∧
    word 0x0805428B#32 = some (.qReset 10#5 5#5) ∧ word 0x0A05C50B#32 = some (.qState 11#5 10#5) := by decide

/-- The words of the examples of spec/08: packed and vector instructions. -/
theorem test_decode_vector_words :
    word 0x00C5D52B#32 = some (.pkAdd8 12#5 11#5 10#5) ∧ word 0x16C5D52B#32 = some (.pkSra16 12#5 11#5 10#5) ∧
    word 0x1246042B#32 = some (.vxAbsd 1#1 4#5 12#5 8#5) ∧ word 0x0E80A22B#32 = some (.vxScanadd 1#1 8#5 1#5 4#5) ∧
    word 0x0022C02B#32 = some (.vxLoop 2#4 5#5) := by decide

/-- The words of the examples of spec/09, 10, 13, 15 and 16: the engines. -/
theorem test_decode_engine_words :
    word 0x02B5015B#32 = some (.tlMma 11#5 10#5 2#3) ∧ word 0x0285B15B#32 = some (.xfGet 8#5 11#5 2#3) ∧
    word 0x0005215B#32 = some (.xfOpen 10#5 2#3) ∧ word 0x0402A15B#32 = some (.xfWm 5#5 2#3) ∧
    word 0x0005C55B#32 = some (.tskPut 11#5 10#5) ∧ word 0x0205455B#32 = some (.tskWait 10#5 10#5) ∧
    word 0x0805C2DB#32 = some (.tskFence 11#5 5#5) ∧ word 0x0005957B#32 = some (.fntLaunch 11#5 10#5) ∧
    word 0x02D7907B#32 = some (.fntDone 13#5 15#5) ∧ word 0x04C5957B#32 = some (.fntSave 12#5 11#5 10#5) ∧
    word 0x0C05157B#32 = some (.fntWait 10#5 10#5) ∧ word 0x0005857B#32 = some (.bmQuery 11#5 10#5) ∧
    word 0x0205057B#32 = some (.bmWait 10#5 10#5) ∧ word 0x060505FB#32 = some (.bmSplit 10#5 11#5) ∧
    word 0x08B502FB#32 = some (.bmResume 11#5 10#5 5#5) := by decide

/-- Standard words: addi a0, a0, -1; sw a1, 4(a0); amoadd.w a2, a1, (a0); sret; a reserved word decodes to nothing. -/
theorem test_decode_standard_words :
    word 0xFFF50513#32 = some (.standardScalarInstruction (.imm .addi 10#5 10#5 0xFFF#12)) ∧
    word 0x00B52223#32 = some (.scalarStore .sw 10#5 11#5 4#12) ∧
    word 0x00B5262F#32 = some (.atomicAmo .add .w 0#1 0#1 12#5 10#5 11#5) ∧
    word 0x10200073#32 = some (.xret .sret) ∧ word 0xFFFFFFFF#32 = none := by decide

/-! ### Single steps -/

/-- A thread in M-mode with nothing queued on hart 0, every floating-point and vector register usable. -/
def base : State := { State.reset.setSlot 0 { ctx := some { priv := .m, sstatus := 0x2200#64 } } with ilen := 4 }

/-- The state with x[r] of hart 0. -/
def State.x0 (s : State) (r : Nat) (v : Word) : State := s.modCtx 0 (·.setX r v)

/-- The next state satisfies a test. -/
def nextIs (o : Out) (p : State → Bool) : Bool :=
  match o with
  | .next t => p t
  | _ => false

/-- A computation ends well and satisfies a test. -/
def okIs {ε α : Type} (r : EStateM.Result ε State α) (p : α → State → Bool) : Bool :=
  match r with
  | .ok a t => p a t
  | .error _ _ => false

/-- A computation fails in a way that satisfies a test. -/
def errIs {ε α : Type} (r : EStateM.Result ε State α) (p : ε → State → Bool) : Bool :=
  match r with
  | .ok _ _ => false
  | .error e t => p e t

/-- A computation that only looks: it ends well with the state it began with. -/
def looks {ε α : Type} (m : EStateM ε State α) (s : State) : Bool := okIs (m s) (fun _ t => decide (t = s))

/-- The word placed where hart 0 fetches runs: li x5, 7. -/
theorem test_step_placed_word :
    nextIs (step (base.withFetchWord 32 0x00700293)) (fun t => t.xr 5#5 == 7#64 && (t.ctx 0).pc == 0x1004#64) = true := by
  decide +kernel

/-- addi wraps: all ones and 1 give 0 (standard). -/
theorem test_addi_wraps : nextIs (exec (.standardScalarInstruction (.imm .addi 5#5 6#5 1#12))
    (State.x0 base 6 0xFFFFFFFFFFFFFFFF#64)) (fun t => t.xr 5#5 == 0#64) = true := by decide +kernel

/-- The example of R232: pk.sra8 of 0x90 by 3 is 0xF2. -/
theorem test_sra8_by_3 : nextIs (exec (.pkSra8 7#5 6#5 5#5) (State.x0 (State.x0 base 6 0x90#64) 7 3#64))
    (fun t => t.xr 5#5 == 0xF2#64) = true := by decide +kernel

/-- The example of R232: pk.sra8 of 0x90 by 0x80 is 0xFF. -/
theorem test_sra8_by_128 : nextIs (exec (.pkSra8 7#5 6#5 5#5) (State.x0 (State.x0 base 6 0x90#64) 7 0x80#64))
    (fun t => t.xr 5#5 == 0xFF#64) = true := by decide +kernel

/-- The example of R232: pk.mul8h of 0x90 and 0x40 is 0xE4. -/
theorem test_mul8h : nextIs (exec (.pkMul8h 7#5 6#5 5#5) (State.x0 (State.x0 base 6 0x90#64) 7 0x40#64))
    (fun t => t.xr 5#5 == 0xE4#64) = true := by decide +kernel

/-- The example of R325: on core rank 3 of cluster 1 the owner of 0x7E000400A500 is 103. -/
theorem test_grp_owner : ownerOf 67 0x7E000400A500 = some 103 := by decide

/-- The byte order of R3: sd of 0x0102030405060708 to the own scratchpad leaves 8 at the lowest address. -/
theorem test_store_order : nextIs (exec (.scalarStore .sd 6#5 7#5 0#12)
    (State.x0 (State.x0 base 6 0x7F8000000010#64) 7 0x0102030405060708#64))
    (fun t => t.mem.read (scratchPa 0 16) == 8#8 && t.mem.read (scratchPa 0 23) == 1#8) = true := by decide +kernel

/-- lb sign-extends the byte stored before it. -/
theorem test_load_sign : nextIs (exec (.scalarLoad .lb 5#5 6#5 0#12)
    (State.x0 { base with mem := [(scratchPa 0 16, 0x80#8)] } 6 0x7F8000000010#64))
    (fun t => t.xr 5#5 == 0xFFFFFFFFFFFFFF80#64) = true := by decide +kernel

/-- ecall in M-mode: cause 11, the pc saved (standard). -/
theorem test_ecall : nextIs (exec (.standardScalarInstruction .ecall) base)
    (fun t => (t.slot 0).mcause == 11#64 && (t.slot 0).mepc == 0#64) = true := by decide +kernel

/-- ctx.self of hart 0 is 0 in a heavy thread (R211). -/
theorem test_ctx_self : nextIs (exec (.ctxSelf 5#5) (State.x0 base 5 1#64)) (fun t => t.xr 5#5 == 0#64) = true := by
  decide +kernel

/-- 1.5 + 2.5 = 4 in binary64. -/
theorem test_fadd : nextIs (exec (.standardScalarInstruction (.fp2 .add .d 0#3 1#5 2#5 3#5))
    (base.modCtx 0 (fun c => (c.setF 2 0x3FF8000000000000#64).setF 3 0x4004000000000000#64)))
    (fun t => (t.ctx 0).getF 1 == 0x4010000000000000#64) = true := by decide +kernel

/-- The example of R465: OP 1 with (128, 0, 0, 128) over (0, 0, 255, 255) is (128, 0, 127, 255). -/
theorem test_blend : blend 1 0x80000080 0xFFFF0000 = 0xFF7F0080 := by decide

/-- The examples of spec/02_numbers.md: M8D codes and what they decode to. -/
theorem test_m8d_decode : [0x40, 0x5A, 0x3F, 0xB4, 0x7D, 0x7E, 0x02, 0x01, 0x80, 0xFF].map m8Decode =
    [0x3F800000, 0x41050000, 0x3F78CCCD, 0xBF29999A, 0x4756D800, 0x47C35000, 0x3727C5AC, 0x358637BD, 0x7FC00000,
     0xFF800000] := by decide +kernel

/-- The example of spec/02_numbers.md: 3.0 encodes to the M8D code 0x47. -/
theorem test_m8d_encode : (m8Encode false (FV.ofInt 3 0)).1 = 0x47 := by decide +kernel

/-- Element i of v[r] at SEW 32. -/
def putElems (s : State) (r : Nat) (l : List Nat) : State :=
  l.zipIdx.foldl (fun s p => s.modCtx 0 (fun c => c.setElem r 32 p.2 p.1)) s

/-- The sequencer of hart 0 holds one masked instruction at SEW 32 with vl 6. -/
def oneVec (w : IWord) (s : State) : State := s.modCtx 0 (fun c =>
  { c with vtype := 0x10#64, vl := 6,
           seq := [{ bits := w, vl := 6, v := true, l := false, vtype := 0x10#64, op1 := 0#64, op2 := 0#64 }] })

/-- The operands of the example of R233. -/
def scanState (w : IWord) : State :=
  oneVec w (putElems (putElems (putElems (putElems base 4 [99, 99, 99, 99, 99, 99]) 8 [5, 1, 7, 2, 4, 3]) 1 [10]) 0 [0x35])

/-- The first six elements of v4 at SEW 32. -/
def v4 (t : State) : List Nat := (List.range 6).map (fun i => (t.ctx 0).elem 4 32 i)

/-- The example of R233: vx.scanadd with elements 1 and 3 inactive. -/
theorem test_scanadd : nextIs (exec (.sequencerHeadExecute 0) (scanState (rvWord 3#6 0#1 8#5 1#5 2#3 4#5)))
    (fun t => v4 t == [15, 99, 22, 99, 26, 29]) = true := by decide +kernel

/-- The example of R233: vx.escanadd on the same operands. -/
theorem test_escanadd : nextIs (exec (.sequencerHeadExecute 0) (scanState (rvWord 9#6 0#1 8#5 1#5 2#3 4#5)))
    (fun t => v4 t == [10, 99, 15, 99, 22, 26]) = true := by decide +kernel

/-- The example of R417: the direction of ray (1, 2) of the 4 by 4 frustum is (-0.25, 0.25, 1). -/
theorem test_ray : rayDir (leBytes 16 0x303 ++ ([0xBF800000, 0xBF800000, 0x3F800000, 0x3F800000, 0xBF800000, 0x3F800000,
    0xBF800000, 0x3F800000, 0x3F800000, 0x3F800000, 0x3F800000, 0x3F800000].flatMap (leBytes 4))) 1 2 =
    [0xBE800000, 0x3E800000, 0x3F800000] := by decide +kernel

/-- The example of spec/18: hosts 2 and 5 claim with EPOCH 4; host 2 becomes owner and EPOCH is 5, and host 5 then fails. -/
theorem test_claim : (let s := { State.reset with epoch := 4 }
    let t := (s.claim 2 0x40000#64).claim 5 0x40000#64
    t.owner == 2 && t.epoch == 5) = true := by decide

/-! ### Witnesses: turns, decoding, exceptions -/

/-- The thread of hart 0 changed. -/
def State.c0 (s : State) (f : Ctx → Ctx) : State := s.modCtx 0 f
/-- The thread of hart 0 in a mode. -/
def State.mode (s : State) (p : Priv) : State := s.modCtx 0 (fun c => { c with priv := p })
/-- Hart 0 with a wait mark. -/
def State.marked (s : State) (k : WaitKind) (a b : Nat) : State :=
  s.modSlot 0 (fun t => { t with wait := some { kind := k, a := a, b := b } })
/-- Hart 0 at its issue turn. -/
def State.turn0 (s : State) : State := { s with agenda := [.issue 0] }
/-- base in M-mode with the pc at an address of which fetching traps. -/
def badPc : State := (base.modCtx 0 (fun c => { c with pc := 0x7F8000000000#64 })).turn0

theorem witness_StepRunsDecoded :
    (let s := base.withFetchWord 32 0x00700293
     s.agenda = [.issue 0] ∧ s.imposing = false ∧ s.canIssue 0 = true ∧ (s.slot 0).wait = none ∧
     okIs (fetchBytes { s with cur := 0 }) (fun bs _ => (decode bs).toOption.isSome) = true ∧
     okIs (fetchBytes { s with cur := 0, agenda := [] }) (fun bs _ => (decode bs).toOption.isSome) = true) ∧
    (let s := base.modSlot 0 (fun t => { t with wait := some { kind := .wrs, bits := 0x00D00073#32, len := 4 } })
     s.canIssue 0 = true ∧ (s.slot 0).wait.map (fun w => (w.bits, w.len)) = some (0x00D00073#32, 4) ∧
     (decode (leBytes 4 0x00D00073)).toOption.isSome = true) ∧
    State.reset.canIssue 0 = false := by decide +kernel

theorem witness_DecodeEncode : (Instr.pkAdd8 31#5 0#5 31#5).wf = true ∧ (encode (.pkAdd8 31#5 0#5 31#5)).isSome = true := by
  decide

theorem witness_EncodeDecode : (word 0x00C5D52B#32).isSome = true := by decide

/-- The words that the standard's tools print for addi sp, sp, -16 and -64; sd ra, 8(sp); ld ra, 8(sp); ret; mv a0, a1; lw a5, 0(a0);
addi a0, sp, 16; addi a0, a0, 1; ebreak. -/
theorem test_decode_compressed :
    [0x1141, 0x7139, 0xE406, 0x60A2, 0x8082, 0x852E, 0x411C, 0x0808, 0x0505, 0x9002].map
      (fun h => ((decode (leBytes 2 h)).toOption.map (·.1))) =
    [.standardScalarInstruction (.imm .addi 2#5 2#5 0xFF0#12), .standardScalarInstruction (.imm .addi 2#5 2#5 0xFC0#12),
     .scalarStore .sd 2#5 1#5 8#12, .scalarLoad .ld 1#5 2#5 8#12, .standardScalarInstruction (.jalr 0#5 1#5 0#12),
     .standardScalarInstruction (.alu .add 10#5 0#5 11#5), .scalarLoad .lw 15#5 10#5 0#12,
     .standardScalarInstruction (.imm .addi 10#5 2#5 16#12), .standardScalarInstruction (.imm .addi 10#5 10#5 1#12),
     .standardScalarInstruction .ebreak].map some := by decide

theorem witness_CompressedDecode : (0xFF#8) ≠ 0#8 ∧ (0x3F#6) ≠ 0#6 ∧ (31#5) ≠ 0#5 ∧ (31#5) ≠ 2#5 := by decide

theorem witness_IllegalEncodingTraps :
    (let s := base.withFetchWord 32 0xFFFFFFFF
     s.agenda = [.issue 0] ∧ s.imposing = false ∧ s.canIssue 0 = true ∧ (s.slot 0).wait = none ∧
     okIs (fetchBytes { s with cur := 0 }) (fun bs u => (decode bs).toOption.isNone && u.running u.cur) = true) ∧
    (badPc.canIssue 0 = true ∧ (badPc.slot 0).wait = none ∧ errIs (fetchBytes { badPc with cur := 0 }) (fun e u =>
      u.running u.cur && (match e with | .trap _ _ => true | _ => false)) = true) := by decide +kernel

theorem witness_MemoryCanonicalKept :
    (let s := base.withFetchWord 32 0x00700293
     s.mem.wf = true ∧ s.mem ≠ [] ∧ nextIs (step s) (fun _ => true) = true) := by decide +kernel

theorem witness_TrapEntryAndDelegation :
    (base.slot 0).ctx.isSome = true ∧ ((base.slot 0).delegates .m false 8 = false) ∧
    (({ base.slot 0 with medeleg := 0x80000#64 } : Slot).delegates .u false 19 = true) := by decide

/-- base with an interrupt line raised, enabled, and its thread in a mode. -/
def pendingState (i : Nat) : State := (base.mode .u).modSlot 0 (fun t =>
  { t with mip := wputb 0#64 i true, mie := wputb 0#64 i true })

theorem witness_InterruptTaken :
    (let s := pendingState 7
     (s.slot 0).ctx.isSome = true ∧ (s.slot 0).halted = false ∧ (s.slot 0).noIrq = false ∧ (s.slot 0).irq (s.ctx 0) = some 7) ∧
    (let s := pendingState 31
     (s.slot 0).irq (s.ctx 0) = some 31) ∧
    (mieMask.getLsbD 1 = true ∧ mieMask.getLsbD 11 = true) := by decide

theorem witness_SoftwareTrapsAndReturns :
    base.running 0 = true ∧ (base.ctx 0).priv = .m ∧
    (let s := (base.mode .s).modCtx 0 (fun c => { c with frozen := some .u })
     s.running 0 = true ∧ (s.ctx 0).priv = .s ∧ (s.slot 0).mstatus.getLsbD 22 = false ∧ (s.ctx 0).frozen = some .u) ∧
    (base.mode .u).running 0 = true := by decide

/-! ### Witnesses: standard scalar instructions -/

theorem witness_IntegerResults : base.running base.cur = true ∧ (5#64) ≠ 0#64 ∧ (5#64 : Word).toNat % 2 ^ 32 ≠ 0 := by decide

/-- The overflow of a signed division, and mulhsu of -1 and 2^64 - 1 (standard). -/
theorem test_div_overflow : aluFn .div 0x8000000000000000#64 0xFFFFFFFFFFFFFFFF#64 = 0x8000000000000000#64 ∧
    aluFn .mulhsu 0xFFFFFFFFFFFFFFFF#64 0xFFFFFFFFFFFFFFFF#64 = 0xFFFFFFFFFFFFFFFF#64 := by decide +kernel
theorem witness_ControlFlow : base.running base.cur = true ∧ (base.ctx base.cur).priv = .m ∧
    (let s := (base.mode .u).modSlot 0 (fun t => { t with mstatus := 0x200000#64 })
     s.running 0 = true ∧ (s.ctx 0).priv ≠ .m ∧ (s.slot 0).mstatus.getLsbD 21 = true) := by decide

theorem witness_FloatResults : base.running base.cur = true ∧ (base.ctx base.cur).fs ≠ 0 ∧ (4#3).toNat ≤ 4 ∧ 4 < (5#3).toNat ∧
    (let c := (base.c0 (fun c => { c with fcsr := 0xA0#64 })).ctx 0
     4 < wfld c.fcsr 7 5 ∧ c.fs ≠ 0) ∧
    (binary32.val 0x7FC00000).isNan = true ∧ (binary32.val 0x3F800000).isNan = false ∧
    (binary32.val 0x3F800000).lt (binary32.val 0x40000000) = true ∧
    (base.c0 (fun c => { c with sstatus := 0#64 })).running 0 = true ∧
    ((base.c0 (fun c => { c with sstatus := 0#64 })).ctx 0).fs = 0 := by decide

/-- A queued vector load. -/
def queuedLoad : SeqEnt := { bits := 0x02006007#32, vl := 1, v := true, l := false, vtype := 0x10#64, op1 := 0#64, op2 := 0#64 }
/-- A queued fault-only-first load. -/
def queuedFof : SeqEnt := { queuedLoad with bits := 0x03006007#32 }

theorem witness_VectorLength : base.running base.cur = true ∧ (base.ctx base.cur).vs ≠ 0 ∧ (base.ctx base.cur).seq = [] ∧
    (base.ctx base.cur).frozen = none ∧ (vlmaxOf ((0x10#10).setWidth 64)).isSome = true ∧ vlmaxOf ((0x3FF#10).setWidth 64) = none ∧
    (let c := (base.c0 (fun c => { c with seq := [queuedFof] })).ctx 0
     c.vs ≠ 0 ∧ c.frozen = none ∧ c.seq.any (fun e => isFof e.bits) = true) ∧
    (let c := (base.c0 (fun c => { c with seq := [queuedLoad], frozen := some .u })).ctx 0
     c.frozen ≠ none ∧ c.seq ≠ [] ∧ c.seq.any (fun e => isFof e.bits) = false) ∧
    ((base.c0 (fun c => { c with sstatus := 0#64 })).ctx 0).vs = 0 := by decide

theorem witness_CsrAccess :
    looks (csrCheck 0x340 false) base.begun = true ∧ looks (csrWait 0x340) base.begun = true ∧
    looks (csrCheck 0x340 true) base.begun = true ∧
    (csrUnit 0x7FF = none ∧ ((base.mode .u).ctx 0).priv.code < fld 0x340 9 8 ∧ fld 0xC00 11 10 = 3) := by decide +kernel

/-! ### Witnesses: memory -/

/-- base with the own window's address of an offset in x6. -/
def atOwn (off : Nat) : State := State.x0 base 6 (w64 (0x7F8000000000 + off))

theorem witness_LoadsAndStores :
    ((atOwn 0).ctx 0).queuedMem true true = false ∧ ((atOwn 0).ctx 0).fs ≠ 0 ∧
    okIs (loadBytes ((atOwn 0).xr 6#5 + (0xFF8#12).signExtend 64 + 8#64) 8 (atOwn 0).begun) (fun _ _ => true) = true ∧
    okIs (loadBytes ((atOwn 0).xr 6#5 + (0#12).signExtend 64) (loadShape .fld).1 (atOwn 0).begun) (fun _ _ => true) = true ∧
    okIs (storeBytes ((atOwn 0).xr 6#5 + (0#12).signExtend 64) (leBytes (storeShape .sd).1 5) (atOwn 0).begun)
      (fun _ _ => true) = true ∧
    ((base.c0 (fun c => { c with seq := [queuedLoad] })).ctx 0).queuedMem true true = true := by decide +kernel

theorem witness_ScratchpadAccesses :
    (let s := atOwn 0x3FFF8
     s.running s.cur = true ∧ s.cur < 20480 ∧ (s.ctx s.cur).queuedMem true true = false ∧ (storeShape .sd).2 = false ∧
     s.xr 6#5 + (0#12).signExtend 64 = w64 (0x7F8000000000 + 0x3FFF8) ∧ ownScratchFree s 0x3FFF8 (storeShape .sd).1 true) ∧
    (let s := atOwn 1
     s.xr 6#5 + (0xFFF#12).signExtend 64 = w64 (0x7F8000000000 + 0) ∧ (loadShape .lw).2.2 = none ∧
     ownScratchFree s 0 (loadShape .lw).1 false) := by
  unfold ownScratchFree; decide +kernel

/-- base with an access of hart 0 not yet acknowledged. -/
def unacked : State := { base with acks := [{ hart := 0, addr := 0x1000 }] }
/-- base with an address of HBM in x6. -/
def atHbm : State := State.x0 base 6 0x1000#64

/-- A line of HBM that the L2 holds whole. -/
def hbmLine : L2Line :=
  { addr := 0x1000, home := 0, key := 0, cls := 0, asid := 0, way := 0, valid := 255#8, dirty := 0#8, zero := false, poison := 0#8
    data := List.replicate 8 5#256, used := 0 }
/-- atHbm with that line in the L2 of its cluster. -/
def cached : State := atHbm.modCluster 0 (fun c => { c with l2 := [hbmLine] })

/-- The hypotheses of an atomic on the own scratchpad hold at an offset for a width. -/
def atomicFree (off n : Nat) : Prop :=
  let s := atOwn off
  s.running s.cur = true ∧ s.cur < 20480 ∧ (s.ctx s.cur).queuedMem true true = false ∧ s.performed s.cur true true 2 = true ∧
  s.xr 6#5 = w64 (0x7F8000000000 + off) ∧ off % n = 0 ∧ ownScratchFree s off n true ∧ ownScratchFree s off n false

theorem witness_Atomics :
    atomicFree 0x3FFFC 4 ∧ atomicFree 0x3FFF8 8 ∧ atomicFree 0x3FFF0 16 ∧
    (let s := (atOwn 8).c0 (fun c => { c with resv := some (blk (scratchPa 0 8)) })
     (s.ctx s.cur).resv = some (blk (scratchPa s.cur.gcore 8)) ∧ ownScratchFree s 8 8 true) ∧
    ((atOwn 8).ctx 0).resv ≠ some (blk (scratchPa 0 8)) ∧ amoWidth .w = 4 ∧ amoWidth .d = 8 ∧
    (10#5).getLsbD 0 = false ∧ (11#5).getLsbD 0 = true ∧
    (let s := cached
     s.running s.cur = true ∧ (s.ctx s.cur).queuedMem true true = false ∧ s.performed s.cur true true 2 = true ∧
     okIs (atomicAt (s.xr 6#5) (amoWidth .d) opAmo 7 .amo (fun o => some (amoBytes .add (amoWidth .d) 1#64 o)) s.begun)
       (fun _ _ => true) = true ∧
     okIs (atomicAt (s.xr 6#5) 8 opCas 7 .amo (fun o => if leNat o = (s.xr 5#5).toNat % 2 ^ (8 * 8) then some (leBytes 8 7) else none)
       s.begun) (fun _ _ => true) = true ∧
     (s.xr 6#5).toNat % amoWidth .d = 0 ∧
     okIs (translate .load (s.xr 6#5) (s.xr 6#5) (amoWidth .d) s.begun) (fun tg u =>
       okIs (atomicTarget tg (amoWidth .d) opAmo .lr (fun _ => none) u) (fun r _ => r.2.isNone)) = true ∧
     okIs (translate .store (s.xr 6#5) (s.xr 6#5) (amoWidth .d) s.begun) (fun tg u =>
       decide ((u.ctx u.cur).resv ≠ some (blk tg.a))) = true) ∧
    (let s := cached.c0 (fun c => { c with resv := some 0x1000 })
     okIs (translate .store (s.xr 6#5) (s.xr 6#5) (amoWidth .d) s.begun) (fun tg u =>
       decide ((u.ctx u.cur).resv = some (blk tg.a)) && okIs (atomicTarget tg (amoWidth .d) opAmo .sc
         (fun _ => some (leBytes (amoWidth .d) (s.xr 6#5).toNat)) u) (fun _ _ => true)) = true) ∧
    ((atOwn 4).xr 6#5).toNat % amoWidth .d ≠ 0 ∧ ((atOwn 2).xr 6#5).toNat % 4 ≠ 0 ∧ ((atOwn 8).xr 6#5).toNat % 16 ≠ 0 ∧
    (unacked.running unacked.cur = true ∧ (unacked.ctx unacked.cur).queuedMem true true = false ∧
      unacked.performed unacked.cur true true 2 = false) := by
  unfold atomicFree ownScratchFree
  refine ⟨?_, ?_, ?_, ?_, ?_⟩ <;> decide +kernel

/-! ### Witnesses: fences, hints, line maintenance, reservation waits -/

theorem witness_Fences :
    base.performed base.cur true true 2 = true ∧ unacked.running unacked.cur = true ∧
    unacked.performed unacked.cur true true 2 = false ∧ (base.ctx base.cur).priv = .m ∧
    base.performed base.cur false true 2 = true ∧ unacked.performed unacked.cur false true 2 = false ∧
    (base.mode .u).running 0 = true ∧ ((base.mode .u).ctx 0).priv = .u ∧ (3#4).getLsbD 1 = true ∧ (12#4).getLsbD 1 = false ∧
    (let s := (base.mode .u).modSlot 0 (fun t => { t with senvcfg := 1#64 })
     (s.ctx 0).priv = .u ∧ (s.slot 0).senvcfg.getLsbD 0 = true) ∧
    (let s := (base.mode .s).modSlot 0 (fun t => { t with mstatus := 0x100000#64 })
     (s.ctx 0).priv = .s ∧ (s.slot 0).mstatus.getLsbD 20 = true ∧ ((base.mode .s).slot 0).mstatus.getLsbD 20 = false) := by
  decide +kernel

/-- fence.i empties the L1I of the core (R99). -/
theorem test_fence_i : nextIs (exec (.fenceI 0#12 0#5 0#5) (base.modCore 0 (fun k => { k with l1i := [{ addr := 0, key := 0, poison := 0#2, data := [], used := 0 }] })))
    (fun t => (t.core 0).l1i == []) = true := by decide +kernel

/-- An S-mode thread of address space 1 with an address in x6 whose page the core's TLB holds as uncached. -/
def atUncached : State := ((atHbm.c0 (fun c => { c with priv := .s, satp := 0x9000100000000010#64 })).modSlot 0
  (fun t => { t with pmpcfg := Tab.empty.put 0 0x1F#8, pmpaddr := Tab.empty.put 0 0x3FFFFFFFFFFFFF#64 })).modCore 0
    (fun k => { k with dtlb := [{ vpn := 1, span := 1, asid := 1, g := false, ppn := 1, r := true, w := true, x := true,
                                  u := false, a := true, d := true, attr := { cache := 2 } }] })
/-- base whose thread holds a reservation. -/
def reserved : State := base.c0 (fun c => { c with resv := some 0x1000 })

/-- atHbm with the fill of the line at 0x1000 under way. -/
def filling : State := atHbm.modCluster 0 (fun c => { c with
  misses := [{ addr := 0x1000, attr := {}, cls := 0, asid := 0, sectors := 1#8, issued := true, pref := false, l1 := none }] })
/-- An access of line maintenance answers and its target satisfies a test. -/
def lineIs (m : M Target) (s : State) (p : Target → State → Bool) : Bool := okIs (m s.begun) p

theorem witness_HintsWaitsAndLines :
    (prefTarget (atHbm.xr 6#5) atHbm.begun).2.isSome = true ∧ (prefTarget ((atOwn 0).xr 6#5) (atOwn 0).begun).2.isNone = true ∧
    (prefTarget (atHbm.xr 6#5 &&& ~~~0x7F#64) atHbm.begun).2.isSome = true ∧
    inWinRange ((atOwn 0).xr 6#5).toNat = true ∧ inWinRange ((atOwn 0x7F).xr 6#5 &&& ~~~0x7F#64).toNat = true := by decide +kernel

theorem witness_HintsWaitsAndLines_waits :
    (base.ctx base.cur).resv = none ∧
    (reserved.running 0 = true ∧ (reserved.ctx 0).resv = some 0x1000 ∧ (reserved.slot 0).pending = false ∧
      (reserved.slot 0).wait = none) ∧
    (((reserved.marked .wrs 0 0).slot 0).wait.map (fun w => (w.kind, w.a)) = some (.wrs, 0)) ∧
    (let s := ((reserved.mode .s).modSlot 0 (fun t => { t with mstatus := 0x200000#64 })).marked .wrs 1 0
     (s.slot 0).wait.map (fun w => (w.kind, w.a)) = some (.wrs, 1) ∧ (s.ctx 0).priv ≠ .m ∧ (s.slot 0).mstatus.getLsbD 21 = true) ∧
    (((reserved.marked .wrsOver 0 0).slot 0).wait.map (·.kind) = some .wrsOver ∧ (reserved.marked .wrsOver 0 0).running 0 = true ∧
      ((reserved.marked .wrsOver 0 0).ctx 0).resv ≠ none) := by decide +kernel

theorem witness_HintsWaitsAndLines_lines :
    (let va := atHbm.xr 6#5 &&& ~~~0xFF#64
     lineIs (translate .store va va 256) atHbm (fun tg u =>
       !tg.sram && tg.attr.cache != 2 && !(u.cluster u.cur.cl).filling tg.a tg.attr.key) = true ∧
     lineIs (translate .inval va va 256) atHbm (fun tg u =>
       !tg.sram && tg.attr.cache != 2 && !(u.cluster u.cur.cl).filling tg.a tg.attr.key) = true ∧
     lineIs (translateRW va) atHbm (fun tg u =>
       !tg.sram && tg.attr.cache != 2 && !(u.cluster u.cur.cl).filling tg.a tg.attr.key) = true ∧
     lineIs (translate .store va va 256) filling (fun tg u =>
       !tg.sram && tg.attr.cache != 2 && (u.cluster u.cur.cl).filling tg.a tg.attr.key) = true ∧
     lineIs (translate .inval va va 256) filling (fun tg u =>
       !tg.sram && tg.attr.cache != 2 && (u.cluster u.cur.cl).filling tg.a tg.attr.key) = true ∧
     lineIs (translateRW va) filling (fun tg u =>
       !tg.sram && tg.attr.cache != 2 && (u.cluster u.cur.cl).filling tg.a tg.attr.key) = true ∧
     lineIs (translate .store va va 256) atUncached (fun tg _ => !tg.sram && tg.attr.cache == 2) = true ∧
     lineIs (translate .inval va va 256) atUncached (fun tg _ => !tg.sram && tg.attr.cache == 2) = true ∧
     lineIs (translateRW va) atUncached (fun tg _ => !tg.sram && tg.attr.cache == 2) = true) ∧
    (let s := atOwn 0x3FFFF
     s.running s.cur = true ∧ s.cur < 20480 ∧ (s.ctx s.cur).queuedMem true true = false ∧
     s.xr 6#5 &&& ~~~0xFF#64 = w64 (0x7F8000000000 + 0x3FF00) ∧ ownScratchFree s 0x3FF00 256 true ∧
     ownScratchFree s 0x3FF00 256 false) ∧
    (let l : L2Line := { addr := 0x1000, home := 0, key := 0, cls := 0, asid := 0, way := 0, valid := 3#8, dirty := 2#8, zero := false,
                         poison := 0#8, data := List.replicate 8 5#256, used := 0 }
     let s := atHbm.modCluster 0 (fun c => { c with l2 := [l] })
     (s.cluster s.cur.cl).line 0x1000 0 = some l ∧ l.dirty.getLsbD 1 = true) ∧
    (let e : TlbEnt := { vpn := 1, span := 1, asid := 1, g := false, ppn := 1, r := true, w := true, x := true, u := false,
                         a := true, d := false, attr := {} }
     e.a = true ∧ e.d = false) ∧ (0x40).testBit 6 = true := by unfold ownScratchFree; decide +kernel

/-! ### Witnesses: packed and vector instructions -/

theorem witness_PackedLanes : base.running base.cur = true := by decide

/-- base at SEW 32 with vl 4. -/
def vecBase : State := base.c0 (fun c => { c with vtype := 0x10#64, vl := 4 })
/-- vx.absd v8, v4, v12. -/
def absdWord : IWord := 0x1246042B#32
/-- A sequencer entry of a word with an address as operand. -/
def entryOf (w : IWord) (a : Word) : SeqEnt := { bits := w, vl := 4, v := true, l := false, vtype := 0x10#64, op1 := a, op2 := 0#64 }
/-- vecBase with entries in its sequencer. -/
def queued (l : List SeqEnt) : State := vecBase.c0 (fun c => { c with seq := l })
/-- vmv.x.s a0, v8. -/
def mvxsWord : IWord := 0x42802557#32

theorem witness_VectorIssueAndLoops :
    queuesVec (.vxAbsd 1#1 4#5 12#5 8#5) = true ∧ encode (.vxAbsd 1#1 4#5 12#5 8#5) = some absdWord ∧
    (let c := vecBase.ctx 0
     c.vs ≠ 0 ∧ c.frozen = none ∧ c.seq.any (fun e => isFof e.bits) = false ∧ vecLegal absdWord vecBase.begun = true ∧
     c.seq.length < 16 ∧ looks (captured absdWord) vecBase.begun = true) ∧
    (let s := queued (List.replicate 16 (entryOf absdWord 0#64))
     s.running 0 = true ∧ vecLegal absdWord s.begun = true ∧ 16 ≤ (s.ctx 0).seq.length ∧ (s.ctx 0).frozen = none ∧
     (s.ctx 0).seq.any (fun e => isFof e.bits) = false ∧ looks (captured absdWord) s.begun = true) ∧
    (let s := base.c0 (fun c => { c with sstatus := 0#64 })
     s.running 0 = true ∧ (s.ctx 0).vs = 0) ∧
    (writesScalar mvxsWord = true ∧ fF3 mvxsWord = 2#3 ∧ fRs1 mvxsWord = 0#5 ∧ (vecBase.ctx 0).vpoison = [] ∧
      (∀ n, n < 4 → ((vecBase.ctx 0).strip n).v = false) ∧ wbit (vecBase.ctx 0).vtype 63 = false) := by decide +kernel

/-- A strip that holds v[r], pending or Faulted. -/
def stripAt (r : Nat) (f : Option Nat) : Strip := { v := true, vd := r, fault := f }

theorem witness_SequencerHead :
    (let s := queued [entryOf absdWord 0#64]
     s.seqReady 0 = true ∧ (s.ctx 0).seqNext = some (0, entryOf absdWord 0#64) ∧
     okIs (((entryOf absdWord 0#64).instr (s.ctx 0)).run { s with cur := 0, ibits := absdWord }) (fun _ _ => true) = true) ∧
    (let s := queued [entryOf 0x02006007#32 0x200000000000#64]
     s.seqReady 0 = true ∧
     errIs (((entryOf 0x02006007#32 0x200000000000#64).instr (s.ctx 0)).run { s with cur := 0, ibits := 0x02006007#32 }) (fun e _ =>
       match e with | .trap _ _ => true | _ => false) = true) ∧
    (entryOf absdWord 0#64).l = false ∧
    ([none, some 2].all (fun r =>
      let s := (queued [entryOf absdWord 0#64]).c0 (fun c => c.setStrip 0 (stripAt 4 r))
      s.seqReady 0 && ((s.ctx 0).strip 0).v && ((s.ctx 0).strip 0).vd == 4 && ((s.ctx 0).strip 0).fault == r &&
      (s.ctx 0).vstart == 0#64 &&
      errIs (((entryOf absdWord 0#64).instr (s.ctx 0)).run { s with cur := 0, ibits := absdWord }) (fun e t =>
        (t.slot 0).ctx.isSome && (match r, e with | none, .wait => true | some _, .trap _ _ => true | _, _ => false)))) = true ∧
    (rvWord (BitVec.ofNat 6 4) 1#1 4#5 12#5 0#3 8#5 = absdWord ∧ (0x10#64) = w64 (8 * 2)) ∧
    (let s := (((queued [entryOf absdWord 0#64]).c0 (fun c => c.setStrip 0 (stripAt 4 (some 2)))).mode .u).modSlot 0
       (fun t => { t with medeleg := 0x2000000#64 })
     (s.slot 0).delegates (s.ctx 0).priv false 25 = true) ∧
    HeadVV (queued [entryOf absdWord 0#64]) 0 (entryOf absdWord 0#64) [] 4 2 4#5 12#5 8#5 := by
  unfold HeadVV; decide +kernel

/-- An entry of a word at SEW 32 and LMUL 2, with vl 20 and operands of x registers. -/
def wide (w : IWord) (a b : Word) : SeqEnt :=
  { bits := w, vl := 20, v := true, l := false, vtype := 0x11#64, op1 := a, op2 := b }
/-- vecBase whose sequencer holds it. -/
def wideState (w : IWord) (a b : Word) : State := queued [wide w a b]
/-- A word of the standard vector arithmetic. -/
def vWord (f6 : BitVec 6) (m : BitVec 1) (b a : Reg) (f3 : BitVec 3) (d : Reg) : IWord := f6 ++ m ++ b ++ a ++ f3 ++ d ++ 0x57#7

theorem witness_VectorElementResults :
    (let w := rvWord 3#6 0#1 4#5 6#5 0#3 8#5
     HeadRuns (wideState w 0#64 0#64) 0 (wide w 0#64 0#64) [] ∧ VTyped (wide w 0#64 0#64) 2 2 ∧ (8#5) ≠ 0#5) ∧
    (let w := rvWord 4#6 0#1 4#5 6#5 3#3 8#5
     HeadRuns (wideState w 3#64 0#64) 0 (wide w 3#64 0#64) []) ∧
    (let w := rvWord 8#6 0#1 4#5 6#5 2#3 8#5
     HeadRuns (wideState w 0#64 0#64) 0 (wide w 0#64 0#64) [] ∧ (vecBase.ctx 0).fs ≠ 0 ∧ wfld (vecBase.ctx 0).fcsr 7 5 ≤ 4) ∧
    (let w := rvWord 1#6 1#1 4#5 6#5 1#3 8#5
     HeadRuns (wideState w 0#64 0#64) 0 (wide w 0#64 0#64) []) := by
  unfold HeadRuns VTyped
  refine ⟨⟨?_, ⟨32, ?_⟩, ?_⟩, ?_, ?_, ?_⟩ <;> decide +kernel

theorem witness_StandardVectorResults :
    (let w := vWord 0x00#6 0#1 4#5 6#5 0#3 8#5
     HeadRuns (wideState w 0#64 0#64) 0 (wide w 0#64 0#64) [] ∧ VTyped (wide w 0#64 0#64) 2 2 ∧ vecKnown w = true) ∧
    ([vWord 0x2f#6 0#1 4#5 6#5 6#3 8#5, vWord 0x1f#6 0#1 4#5 6#5 3#3 0#5, vWord 0x2c#6 0#1 4#5 6#5 1#3 8#5,
      vWord 0x0f#6 0#1 4#5 6#5 4#3 8#5, vWord 0x3b#6 0#1 4#5 6#5 2#3 8#5, vWord 7#6 0#1 4#5 6#5 2#3 8#5].all vecKnown = true) ∧
    (vlmaxOf 0x11#64 = some 32 ∧ (8#5).toNat % 4 = 0 ∧ (6#5).toNat + 2 ≤ (8#5).toNat) ∧
    (let w : IWord := 0#3 ++ 0#1 ++ 2#2 ++ 0#1 ++ 7#5 ++ 6#5 ++ 6#3 ++ 8#5 ++ 0x27#7
     HeadRuns (wideState w 0x7F8000000000#64 8#64) 0 (wide w 0x7F8000000000#64 8#64) [] ∧
     (∀ i, i < 20 → 0x7F8000000000#64 + w64 i * 8#64 = w64 (0x7F8000000000 + 8 * i) ∧
       ownScratchFree { wideState w 0x7F8000000000#64 8#64 with cur := 0 } (8 * i) 4 true)) := by
  unfold HeadRuns VTyped ownScratchFree
  refine ⟨⟨?_, ⟨32, ?_⟩, ?_⟩, ?_, ?_, ?_⟩ <;> decide +kernel

/-- The mask stack of the thread at a depth, its spill place at the start of the own scratchpad. -/
def stackAt (w : IWord) (dp : Nat) : State :=
  (wideState w 0#64 0#64).c0 (fun c => { c with vmsp := w64 dp, vmsbase := 0x7F8000000000#64 })
/-- The address, word and level-0 place of a texture descriptor in the own scratchpad. -/
def texState (gather : Bool) (a : Word) : State :=
  let w := rvWord (if gather then 1#6 else 0#6) 1#1 4#5 6#5 3#3 8#5
  queued [{ bits := w, vl := 4, v := true, l := false, vtype := 0x10#64, op1 := a, op2 := 0#64 }]

theorem witness_VectorStackAndConversions :
    (let w := rvWord 0#6 1#1 4#5 0#5 2#3 0#5
     (∀ dp ∈ [0, 9, 65535], HeadRuns (stackAt w dp) 0 (wide w 0#64 0#64) []) ∧
     0x7F8000000000#64 + w64 (64 * (9 - 8)) = w64 (0x7F8000000000 + 64) ∧
     ownScratchFree { stackAt w 9 with cur := 0 } 64 64 true) ∧
    (let w := rvWord 2#6 1#1 0#5 0#5 2#3 0#5
     (∀ dp ∈ [0, 1, 9], HeadRuns (stackAt w dp) 0 (wide w 0#64 0#64) []) ∧
     ownScratchFree { stackAt w 9 with cur := 0 } 0 64 false) ∧
    (let e := { wide (rvWord 3#6 0#1 4#5 6#5 6#3 8#5) 0#64 0#64 with vtype := 0x111#64 }
     HeadRuns (queued [e]) 0 e [] ∧ VTyped e 2 2 ∧ wfld e.vtype 2 0 < 4 ∧ vbsSize (wfld e.vtype 10 8) ≠ 0) ∧
    (let e : SeqEnt := { bits := rvWord 1#6 1#1 4#5 6#5 3#3 8#5, vl := 4, v := true, l := false, vtype := 0x10#64,
                         op1 := 0x7F8000000040#64, op2 := 0#64 }
     HeadRuns (texState true 0x7F8000000040#64) 0 e [] ∧ VTyped e 2 1 ∧
     ownScratchFree { texState true 0x7F8000000040#64 with cur := 0 } 64 64 false ∧
     texDesc ((texState true 0x7F8000000040#64).mem.readN (scratchPa 0 64) 64) = none) := by
  unfold HeadRuns VTyped ownScratchFree
  refine ⟨⟨?_, ?_, ?_⟩, ⟨?_, ?_⟩, ⟨?_, ⟨32, ?_⟩, ?_⟩, ⟨?_, ⟨16, ?_⟩, ?_, ?_⟩⟩ <;> decide +kernel

/-- The example of spec/08_vector.md on R230: with vxrm 0 the shift of vx.rsra rounds to nearest, ties up; by 0 it copies. -/
theorem test_rsra : nextIs (exec (.sequencerHeadExecute 0)
    (oneVec (rvWord 3#6 1#1 4#5 5#5 0#3 8#5) (putElems (putElems base 4 [5, 6, 0xFFFFFFFB, 7, 7, 9]) 5 [1, 2, 1, 0, 64, 3])))
    (fun t => (List.range 6).map (fun i => (t.ctx 0).elem 8 32 i) == [3, 2, 0xFFFFFFFE, 7, 0, 1]) = true := by decide +kernel

/-- vx.sshl saturates and sets vxsat (R229). -/
theorem test_sshl : nextIs (exec (.sequencerHeadExecute 0)
    (oneVec (rvWord 0#6 1#1 4#5 5#5 0#3 8#5) (putElems (putElems base 4 [0x40000000, 0xC0000000, 3, 0, 0, 1]) 5 [1, 1, 4, 32, 0, 200])))
    (fun t => (List.range 6).map (fun i => (t.ctx 0).elem 8 32 i) == [0x7FFFFFFF, 0x80000000, 48, 0, 0, 0x7FFFFFFF]
      && (t.ctx 0).vxsat == 1#64) = true := by decide +kernel

/-- vx.mif pushes v0 and narrows it (R236). -/
theorem test_mif : nextIs (exec (.sequencerHeadExecute 0) ((stackAt (rvWord 0#6 1#1 4#5 0#5 2#3 0#5) 0).c0 (fun c =>
    (c.setV 0 0xF0#512).setV 4 0x3C#512)))
    (fun t => (t.ctx 0).getV 0 == 0x30#512 && (t.ctx 0).hwAt 0 == 0xF0#512 && (t.ctx 0).vmsp == 1#64) = true := by decide +kernel

/-- base about to execute vx.loop t0, 1 at pc 0, with vx.absd as body and a count in t0. -/
def loopState (n : Word) : State :=
  State.x0 { vecBase with mem := Memory.writeN [] 4 (leBytes 4 absdWord.toNat) } 5 n
/-- A body entry. -/
def bodyEnt : SeqEnt := { entryOf absdWord 0#64 with v := false, l := true }

theorem witness_VectorIssueAndLoops_loops :
    ([0#64, 3#64].all (fun n =>
      let s := loopState n
      okIs (fetchWords 1 ((s.ctx s.cur).pc + 4#64) s.begun) (fun ws u =>
        ws.all (fun w => bodyWord w && vecLegal w u) && !(s.ctx s.cur).loopLive &&
        okIs (bodyEntries (s.ctx s.cur) ws u) (fun _ _ => true))) = true) ∧
    ((loopState 3#64).ctx 0).vtype.getLsbD 63 = false ∧ ((loopState 3#64).ctx 0).vstart = 0#64 ∧
    (let s := queued [{ bodyEnt with v := true }]
     s.seqReady 0 = true) ∧
    (let c : Ctx := { seq := [bodyEnt], vlpcnt := 1#64 }
     (∀ e ∈ c.seq, e.l = true → e.v = false) ∧ c.vlpidx + 1#64 = c.vlpcnt) ∧
    (let c : Ctx := { seq := [bodyEnt], vlpcnt := 2#64 }
     c.vlpidx + 1#64 ≠ c.vlpcnt) ∧
    ((base.ctx 0).loopLive = false ∧ (base.ctx 0).frozen = none ∧ (base.ctx 0).seq = [] ∧ (base.ctx 0).vstart = 0#64) ∧
    (let s := base.c0 (fun c => { c with vstart := 1#64 })
     (s.ctx 0).seq = [] ∧ (s.ctx 0).vstart ≠ 0#64) ∧
    (let s := State.x0 ((queued [{ bodyEnt with v := true }]).c0 (fun c => { c with vlpcnt := 2#64 })) 6 1#64
     (s.ctx 0).loopLive = true ∧ (s.ctx 0).vlpidx.toNat < wfld (s.xr 6#5) 31 0) := by decide +kernel

/-! ### Witnesses: caches, walks, ports -/

/-- A read miss of a line of HBM. -/
def aMiss (b : Bool) : Miss :=
  { addr := 0x1000, attr := {}, cls := 0, asid := 0, sectors := 1#8, issued := b, pref := false, l1 := none }
/-- base with a part of cluster 0 changed. -/
def State.k0 (s : State) (f : Cluster → Cluster) : State := s.modCluster 0 f
/-- base with core 0 of cluster 0 changed. -/
def State.g0 (s : State) (f : Core → Core) : State := s.modCore 0 f

/-- satp of address space 1 with its root table at 0x10000. -/
def pagedSatp : Word := 0x9000100000000010#64
/-- An access of hart 0, then of another hart, that waits for a walk of page 1. -/
def aWaiter (h : Hart) : Waiter :=
  { hart := h, part := .scalar, acc := .load, va := 0x1000#64, n := 8, tv := 0x1000#64, priv := .s, sum := false, mxr := false, released := false }
/-- A walk of page 1 that harts wait for. -/
def aWalk (satp : Word) (l : List Hart) : Walk := { vpn := 1, asid := 1, satp := satp, cos := 0, since := 0, waiters := l.map aWaiter }
/-- A walk of page 1 under way in cluster 0; the root table's first entry maps 512 GiB where m is true, and is 0 elsewhere. -/
def walking (m : Bool) (satp : Word) (l : List Hart) : State :=
  ({ base with mem := if m then Memory.writeN (Memory.writeN [] 0x10000 (leBytes 8 0xCF)) 0x11000 (leBytes 8 1) else [] }.modSlot 0
    (fun t => { t with pmpcfg := Tab.empty.put 0 0x1F#8, pmpaddr := Tab.empty.put 0 0x3FFFFFFFFFFFFF#64 })).k0
      (fun c => { c with walks := [aWalk satp l] })
/-- The answer of the walk in a state. -/
def walkAnswer (s : State) (satp : Word) : State × WalkRes :=
  s.walkPage 0 (some (s.slot 0)) satp 0
    { va := 0x1000, acc := .load, priv := .s, sum := false, mxr := false, n := 8, who := some 0 }
/-- A root table in host memory whose table entry waits for its route. -/
def farSatp : Word := 0x9000108000000000#64
/-- walking with host 0 reached over a route that is pending. -/
def farWalk : State := { walking false farSatp [0] with hosts := Tab.empty.put 0 (some 9), route := Tab.empty.put 9 { next := some 0#8 } }

theorem witness_FillsAndWalks :
    (((base.k0 (fun c => { c with misses := [aMiss false] })).cluster 0).misses[0]?).map (·.issued) = some false ∧
    ((((base.k0 (fun c => { c with misses := [aMiss true] })).cluster 0).misses[0]?).map (·.issued)) = some true ∧
    ((aMiss true).addr % 256 = 0 ∧ (aMiss true).attr.key = 0 ∧ (aMiss true).attr.zl = false ∧
      (∀ e ∈ base.clusters.ents, e.2.l2 = []) ∧
      ((base.cluster 0).mask (l2Slice (aMiss true).addr) (aMiss true).cls).testBit 0 = true ∧ 0 ∈ (aMiss true).brings ∧
      base.sealed.get none (0x1000 / 32) = none) ∧
    ({ aMiss true with harts := [7] }.served = false ∧ (aMiss true).pref = false ∧ (aMiss true).harts = [] ∧ (aMiss true).l1 = none ∧ popCount 8 (aMiss true).sectors.toNat ≤ 1) ∧
    (let l : L2Line :=
       { addr := 0x1000, home := 0, key := 0, cls := 0, asid := 0, way := 0, valid := 0x7F#8, dirty := 0#8, zero := false,
         poison := 0#8, data := List.replicate 8 0#256, used := 0 }
     l.data.length = 8 ∧ l.zero = false ∧ l.key = 0 ∧ l.valid.getLsbD 7 = false ∧
     base.sealed.get none ((l.addr + 32 * 7) / 32) = none) ∧
    ({ aMiss true with sectors := 1#8 <<< 7 } : Miss).sectors = 1#8 <<< 7 ∧
    (({ aMiss true with sectors := 0x81#8 } : Miss).sectors.getLsbD 0 = true ∧ (0x81#8).getLsbD 7 = true) ∧
    0 < unacked.acks.length := by decide +kernel

theorem witness_FillsAndWalks_walks :
    (let s := walking true pagedSatp [0]
     (s.cluster 0).walks[0]? = some (aWalk pagedSatp [0]) ∧ s.hasWalker 0 (aWalk pagedSatp [0]) = true ∧
     (match (walkAnswer s pagedSatp).2 with | .ok _ => true | _ => false) = true) ∧
    (let s := (walking true pagedSatp [0]).k0 (fun c => { c with fpend := [{ vpn := 1, asid := 1, slot := 2, waiters := [(3, .scalar)] }] })
     ((walkAnswer s pagedSatp).1.cluster 0).fpend = [{ vpn := 1, asid := 1, slot := 2, waiters := [(3, .scalar)] }]) ∧
    (∀ y ∈ [aWaiter 0, aWaiter 511], y.hart = (aWaiter 511).hart → y.part = (aWaiter 511).part → y = aWaiter 511) ∧
    (let s := walking false pagedSatp [0, 511]
     (walkAnswer s pagedSatp).2 = .pageFault ∧ ((walkAnswer s pagedSatp).1.cluster 0).fpend.length < 256 ∧
     (∀ x ∈ [aWaiter 511], x.hart ≠ (aWaiter 0).hart ∧ x.released = false)) ∧
    (let s := (walking true pagedSatp [0]).modSlot 0 (fun t => { t with pmpcfg := Tab.empty })
     (walkAnswer s pagedSatp).2 = .accessFault) ∧
    (let s := (walking true pagedSatp [0]).setPoison 0x10000 true
     (walkAnswer s pagedSatp).2 = .poison) ∧
    (let s := farWalk
     (s.cluster 0).walks[0]? = some (aWalk farSatp [0]) ∧ (walkAnswer s farSatp).2 = .later) ∧
    (let s := walking true pagedSatp []
     (s.cluster 0).walks[0]? = some (aWalk pagedSatp []) ∧ s.hasWalker 0 (aWalk pagedSatp []) = true) ∧
    (let s := base.k0 (fun c => { c with
       walks := { aWalk pagedSatp [] with since := 1 } :: List.replicate 64 (aWalk pagedSatp []) })
     s.hasWalker 0 { aWalk pagedSatp [] with since := 1 } = false) := by decide +kernel

/-- A store of one byte on its way to the scratchpad of core 0. -/
def aStore : PortReq := { kind := 0, src := 1, hart := 8, op := 0, off := 0x3FFFF, bytes := [0x55#8], pois := false }

theorem witness_ScratchpadAccesses_remote :
    (let s := base.g0 (fun k => { k with portq := [aStore] })
     s.inTransit 0 = false ∧ (s.core 0).portq = [aStore] ∧ (s.core 0).impose.left = 0 ∧
     (s.core 0).sscent.getLsbD 0 = false ∧ s.zeroing 0 aStore.off = false ∧ aStore.pois = false ∧ aStore.again = false) ∧
    (let r := { aStore with again := true }
     let s := base.g0 (fun k => { k with portq := [r] })
     r.again = true ∧ r.permitted s 0 = false ∧ s.zeroing 0 r.off = false ∧
     r.permitted (s.k0 (·.setSeg 0 15 { val := 0x40#64, next := none })) 0 = true) ∧
    ([8, 9].all (fun h =>
      let q := { aStore with off := 0, hart := h }
      let s := (base.g0 (fun k => { k with portq := [aStore, q] })).k0 (·.setSeg 0 15 { val := 0#64, next := some 0x40#64 })
      !s.inTransit 0 && s.zeroing 0 aStore.off && !s.zeroing 0 q.off && aStore.kind == 0 && q.kind == 0 &&
      !q.pois && !q.again && decide ((s.core 0).impose.left = 0) && !(s.core 0).sscent.getLsbD 0) = true) := by decide +kernel

/-- The device with host 0 as owner. -/
def owned : State := { base with owner := 0, hosts := Tab.empty.put 0 (some 0) }

theorem witness_FirmwareTables :
    base.mayWrite (.firmware 39) (some 39) = true ∧ ((base.cluster 39).seg 63 15).next = none ∧
    segZeroes 0#64 0x40#64 = true ∧ segZeroes 0x40#64 0#64 = false ∧
    (((base.k0 (·.setSeg 63 15 { val := 0#64, next := some 0x40#64 })).cluster 0).seg 63 15).next = some 0x40#64 ∧
    base.mayWrite (.host 0) (some 0) = false ∧
    (((base.cluster 39).group 63).st = 0 ∧ wfld 0x1#64 2 0 = 1) ∧
    (((base.k0 (·.setGroup 63 { st := 1 })).cluster 0).group 63).st = 1 ∧
    (((base.k0 (·.setGroup 63 { st := 2 })).cluster 0).group 63).st = 2 ∧
    (let s := base.k0 (·.setGroup 63 { st := 3, barb := 4, barn := 2 })
     ((s.cluster 0).group 63).st = 3 ∧ (s.cluster 0).ownsSeg 63 = false ∧
     ∀ p, p < 64 → ((s.cluster 0).group 63).holds p = true → ((s.cluster 0).bar p).st = 0) ∧
    (let s := base.k0 (fun c => (c.setGroup 63 { st := 3 }).setSeg 0 0 { val := 0x7F#64 })
     ((s.cluster 0).group 63).st = 3 ∧ (s.cluster 0).ownsSeg 63 = true) ∧
    (let s := base.k0 (fun c => (c.setGroup 63 { st := 3, barb := 4, barn := 2 }).setBar 5 { st := 1, count := 1 })
     ((s.cluster 0).group 63).st = 3 ∧ ((s.cluster 0).group 63).holds 5 = true ∧ ((s.cluster 0).bar 5).st ≠ 0) ∧
    (let s := { base.k0 (·.setGroup 63 { st := 2, launch := 5 }) with ends := [(0, 5)] }
     ((s.cluster 0).group 63).st = 2 ∧ ((s.cluster 0).group 63).barn = 0 ∧ (s.cluster 0).segs = Tab.empty ∧
     s.ends.contains (0, ((s.cluster 0).group 63).launch) = true) := by decide +kernel

/-! ### Witnesses: contexts and light threads -/

theorem witness_ContextRegisters :
    base.running base.cur = true ∧ base.cur < 20480 ∧ base.devid < 4096 ∧ 0x3FFFF < 0x40000 ∧
    ((base.modSlot 0 (fun t => { t with pass := 8 })).slot 0).pass ≠ 0 := by decide

/-- base with Kennel entry 31 of core 0 in a state, holding an empty context. -/
def kenned (k : KenState) : State := base.g0 (fun c => c.setKen 31 { st := k, ctx := some {} })

theorem witness_ContextRegisters_supervisor :
    base.running base.cur = true ∧ (base.ctx base.cur).priv ≠ .u ∧ (((kenned .ready).core 0).ken 31).st = .ready ∧
    (((kenned .parked).core 0).ken 31).st = .parked ∧ (((kenned .failed).core 0).ken 31).st = .failed ∧
    (0x1#64).getLsbD 0 = true ∧ (base.core 0).sscent.getLsbD 0 = false ∧ ((base.mode .u).ctx 0).priv = .u := by decide

/-- A light record for launch slot 5. -/
def aRec : LightRec := { pc := 0x1000, lslot := 5, rx := false, fp := false, bh := false, bad := false, weight := 8,
                         a := [1#64, 2#64, 3#64, 4#64, 5#64, 6#64] }

/-- A record of a point of the band in entry 3 of cluster 0, at generation 1. -/
def fpRec : LightRec := { aRec with lslot := 0, fp := true, a := [0#64, 0#64, 0#64, 0#64, 0#64, 0x100C0#64] }
/-- base with that band in a state and the record under way to core 63. -/
def fpSent (st : FntSt) : State :=
  { base.modTrk 0 3 (fun _ => { gen := 1, st := st, bands := [(0, 3)] }) with recs := [(63, .thread 0, fpRec)] }
/-- base with the record of a thread or an engine under way to core 63, whose ring holds n records, the oldest in
its place 255. -/
def ringAt (src : RecSource) (n off size : Nat) : State :=
  { base.marked .recordSent 0 0 with recs := [(63, src, aRec)] }.modCore 63 (fun k =>
    { k with ringCnt := n, roff := off, rsize := size, ringHead := 255 })

theorem witness_RecordsReachSlots :
    (let s := ({ base with recs := [(63, .thread 0, aRec)] }.k0 (fun c => { c with ranks := c.ranks.put 63 { phys := 63, transit := true } }))
     s.recs = (0 * 64 + 63, .thread 0, aRec) :: [] ∧ s.inTransit (0 * 64 + 63) = true ∧ s.withdrawal aRec = .keep ∧
     (s.cluster 0).hold.length < 256) ∧
    (let s := { base with recs := [(63, .thread 0, aRec)] }.k0 (fun c => { c with
       ranks := c.ranks.put 63 { phys := 63, transit := true }, hold := List.replicate 256 (.record 63 (.thread 0) aRec) })
     s.inTransit (0 * 64 + 63) = true ∧ 256 ≤ (s.cluster 0).hold.length) ∧
    (let s := { base.marked .recordSent 0 0 with recs := [(63, .thread 0, aRec)] }
     s.inTransit 63 = false ∧ (s.cluster 0).held = [] ∧ (s.workAt aRec.lslot).st.discards = false ∧
     s.withdrawal aRec = .keep ∧
     (s.core 63).ringCnt = 0 ∧ (s.core 63).queue.length < 32 ∧ (s.slot 0).wait.map (·.kind) = some .recordSent) ∧
    ((fpSent .running).withdrawal fpRec = .keep ∧ (fpSent .stopping).withdrawal fpRec = .hold 0 3 ∧
      (fpSent .stopped).withdrawal fpRec = .hold 0 3 ∧ (fpSent .stopped).inTransit 63 = false ∧
      ((fpSent .stopped).cluster 0).held = [] ∧ ((fpSent .stopped).workAt fpRec.lslot).st.discards = false) ∧
    ([(1, 0, 0, true), (255, 0, 0, true), (256, 0, 0, false), (768, 1023, 2, true), (769, 1023, 4, false)].all (fun (p : Nat × Nat × Nat × Bool) =>
      let s := ringAt (.thread 0) p.1 p.2.1 p.2.2.1
      let k := s.core 63
      !s.inTransit 63 && decide (s.withdrawal aRec = .keep) && k.ringCnt == p.1 &&
      (decide (k.ringCnt < 2 ^ (k.rsize + 8) ∧ k.roff * 65536 + 64 * ((k.ringHead + k.ringCnt) % 2 ^ (k.rsize + 8)) + 64 ≤ 2 ^ 26)
        == p.2.2.2))) = true ∧
    (let s := ringAt (.engine 0 1) 256 0 0
     s.recs = [(63, .engine 0 1, aRec)] ∧ (s.core 63).ringCnt = 2 ^ ((s.core 63).rsize + 8) ∧ s.withdrawal aRec = .keep) ∧
    ((base.g0 (fun c => { c with queue := List.replicate 32 aRec })).core 0).queue.length = 32 ∧
    (let s := base.k0 (fun c => { c with held := [(63, .dispatch, aRec)] })
     (s.cluster 0).held = [(63, .dispatch, aRec)] ∧ s.inTransit 63 = false ∧ (s.workAt aRec.lslot).st.discards = false ∧
     (s.core 63).ringCnt = 0 ∧ (s.core 63).queue.length < 32) ∧
    (let s := kenned .ready
     (s.core 0).halted = false ∧ s.freeSlot 0 = some 1 ∧ (s.core 0).readyEntry = some 31 ∧ (s.core 0).queue = []) ∧
    (let s := base.g0 (fun c => { c with queue := [aRec] })
     s.freeSlot 0 = some 1 ∧ (s.core 0).readyEntry = none ∧ (s.core 0).queue = [aRec] ∧ (s.core 0).ringCnt = 0 ∧
     s.soft = [] ∧ aRec.bad = false) ∧
    ({ aRec with bad := true } : LightRec).bad = true ∧
    ([true, false].all (fun b =>
      let s := (kenned .ready).g0 (fun c => { c with queue := aRec :: List.replicate 31 aRec, ringCnt := 3, fromQueue := b })
      let k := s.core 0
      s.freeSlot 0 == some 1 && k.readyEntry == some 31 && k.queue == aRec :: List.replicate 31 aRec && k.fromQueue == b &&
      decide (s.poisonIn (vaultPa k.rvault (k.roff * 65536 + 64 * (k.ringHead % 2 ^ (k.rsize + 8)))) 64 = none)) = true) := by
  decide +kernel

/-- With the Kennel's turn last the head of the arrival queue is taken, with the queue's turn last the ready entry (R178). -/
theorem test_slot_fill_alternates : ([true, false].all (fun b =>
    nextIs (exec (.slotFill 0 0) ((kenned .ready).g0 (fun c => { c with queue := [aRec], fromQueue := b })))
      (fun t => (t.ctx 1).light == !b && (t.core 0).queue.isEmpty == !b)) = true) := by decide +kernel

/-- base with weight, a launch and an entry point in x6, an own address in x7. -/
def spawner (w : Nat) : State :=
  State.x0 (State.x0 (base.c0 (fun c => { c with uweight := w64 w, ulaunch := 4095#64 })) 6 0x1000#64) 7 0x7F8000000000#64
/-- A light thread on core 0 with an address of core 63's scratchpad in x6. -/
def mover : State := State.x0 (base.c0 (fun c => { c with light := true, priv := .u })) 6 0x7F0000FC0000#64

theorem witness_SpawnMoveAndExit :
    (let s := spawner 2
     s.running 0 = true ∧ (s.slot 0).wait = none ∧ s.xr 6#5 ≠ 0#64 ∧ canonical (s.xr 6#5).toNat = true ∧
     (s.xr 6#5).getLsbD 0 = false ∧ (s.ctx 0).ulaunch.toNat < 4096 ∧ 2 ≤ (s.ctx 0).uweight.toNat ∧
     s.performed s.cur true true 2 = true) ∧
    ((spawner 1).ctx 0).uweight.toNat < 2 ∧
    ([0#64, 0x0000800000000000#64, 0x1001#64].map (fun a => let s := State.x0 (spawner 2) 6 a
      (s.xr 6#5 == 0#64 || !canonical (s.xr 6#5).toNat, (s.xr 6#5).getLsbD 0)) = [(true, false), (true, false), (false, true)]) ∧
    (4096 ≤ (((spawner 2).c0 (fun c => { c with ulaunch := 4096#64 })).ctx 0).ulaunch.toNat) ∧
    (((spawner 2).marked .recordRefused 0 0).slot 0).wait.map (·.kind) = some .recordRefused ∧
    (((spawner 2).marked .recordTaken 0 0).slot 0).wait.map (·.kind) = some .recordTaken ∧
    ((base.ctx 0).light = false ∧ base.performed base.cur true true 2 = true) ∧
    (ownerOf mover.cur.gcore (mover.xr 6#5).toNat = some 63 ∧ okIs (suspend mover.begun) (fun _ _ => true) = true) ∧
    okIs ((settleAll >>= fun _ => readyChans (List.range 8) >>= fun _ => suspendNow) base.begun) (fun _ _ => true) = true := by
  decide +kernel

/-! ### Witnesses: barriers, sleep, checkpoint -/

/-- base with physical barrier 63 in a state, named by x6; x7 holds a number. -/
def barrier (b : Bar) (v : Word) : State := State.x0 (State.x0 (base.k0 (·.setBar 63 b)) 6 63#64) 7 v
/-- A barrier of two parties with a phase of which the next is 0. -/
def aBar : Bar := { st := barArmed, count := 2, phase := 0xFFFFFFFF }
/-- A heavy thread, then a light one of launch 0, waits at barrier 63 for the phase under way. -/
def barWaiter (light : Bool) : State :=
  ((barrier aBar 0xFFFFFFFF#64).c0 (fun c => { c with light := light, priv := if light then .u else .m }))
/-- A thread of launch 0 that names barrier 63 of another launch. -/
def stranger : State := (barrier { aBar with launch := 1 } 1#64).c0 (fun c => { c with priv := .u })

theorem witness_Barriers :
    (let s := barrier {} 0xFFFFFF#64
     s.running 0 = true ∧ (s.cluster 0).physBar (s.ctx 0).svault (wfld (s.xr 6#5) 5 0) = some 63 ∧ wfld (s.xr 7#5) 23 0 ≠ 0 ∧
     ((s.cluster 0).bar 63).st = barFreeSt) ∧
    (let s := barrier aBar 0xFFFFFF#64
     ((s.cluster 0).bar 63).st = barArmed ∧ ((s.cluster 0).bar 63).owned (s.ctx 0) = true ∧ s.performed 0 true true 1 = true ∧
     s.barBusy 0 63 = false) ∧
    (let s := (barrier aBar 0#64).modSlot 511 (fun t => { t with wait := some { kind := .barrier, a := 63, b := 0 } })
     s.barBusy 0 63 = true) ∧
    ({ aBar with arrived := 1 }.arrived + 1 = aBar.count ∧ aBar.arrived + 1 ≠ aBar.count) ∧
    ((1 : Nat) < 3 ∧ 0 + 1 < 3) ∧ (1 < { aBar with arrived := 1 }.count ∧ { aBar with arrived := 1 }.count ≤ 1 + 1) ∧
    { aBar with count := 1 }.count = 1 ∧
    (let s := (barrier {} 0x1000000#64).c0 (fun c => { c with svault := 0x80#64 })
     (s.cluster 0).physBar (s.ctx 0).svault (wfld (s.xr 6#5) 5 0) = none) ∧
    wfld ((barrier {} 0x1000000#64).xr 7#5) 23 0 = 0 ∧ ((stranger.cluster 0).bar 63).owned (stranger.ctx 0) = false ∧
    ([barDrained, barBroken].all (fun st =>
      let s := barrier { aBar with st := st } 0#64
      (s.slot 0).wait.isNone && !(s.xr 7#5).getLsbD 63 && ((s.cluster 0).bar 63).st == st) = true) ∧
    (let s := (barrier { aBar with st := barDrained, launch := 1 } 1#64).c0 (fun c => { c with priv := .u })
     ((s.cluster 0).bar 63).owned (s.ctx 0) = false) ∧
    (stranger.slot 0).wait = none ∧ (7#5) ≠ 0#5 := by
  decide +kernel

/-- A wait or a joint arrival at a Free barrier traps with value 7, an arrival at a Drained one too (R338). -/
theorem test_barrier_traps : ([(Instr.barWait 7#5 6#5 5#5, barFreeSt), (.barSync 6#5 7#5, barFreeSt), (.barSync 6#5 7#5, barDrained),
    (.barDrop 6#5, barBroken)].all (fun p =>
      nextIs (exec p.1 (barrier { aBar with st := p.2 } 0#64)) (fun t => (t.slot 0).mcause == 30#64 && (t.slot 0).mtval == 7#64))) = true := by
  decide +kernel

theorem witness_BarrierWaits :
    (let s := barWaiter false
     s.running 0 = true ∧ (s.slot 0).wait = none ∧ (s.cluster 0).physBar (s.ctx 0).svault (wfld (s.xr 6#5) 5 0) = some 63 ∧
     ((s.cluster 0).bar 63).st ≠ barFreeSt ∧ ((s.cluster 0).bar 63).owned (s.ctx 0) = true ∧
     ((s.cluster 0).bar 63).status (wfld (s.xr 7#5) 31 0) = none ∧ (s.ctx 0).light = false) ∧
    aBar.status 0xFFFFFFFE = some 0 ∧ { aBar with st := barBroken }.status 0xFFFFFFFF = some 1 ∧
    { aBar with st := barDrained }.status 0xFFFFFFFF = some 2 ∧
    (let s := barrier aBar 0x80000000FFFFFFFE#64
     (s.xr 7#5).getLsbD 63 = true ∧ aBar.status (wfld (s.xr 7#5) 31 0) = some 0) ∧
    (let s := barrier { aBar with arrived := 1 } 0#64
     (s.xr 7#5).getLsbD 63 = false ∧ s.performed 0 true true 1 = true ∧ s.barBusy 0 63 = false) ∧
    (let s := barrier aBar 0#64
     (s.xr 7#5).getLsbD 63 = false ∧ aBar.arrived + 1 ≠ aBar.count ∧ (s.ctx 0).light = false) ∧
    (let s := barWaiter true
     (s.ctx 0).light = true ∧ ((s.cluster 0).bar 63).owned (s.ctx 0) = true ∧ (s.cluster 0).park.length < 256 ∧
     okIs ((setWait (some { kind := .barrier, a := 63, b := 0xFFFFFFFF }) >>= fun _ => suspend) s.begun) (fun _ _ => true) = true ∧
     (s.ctx 0).seq = [] ∧ (s.ctx 0).claimed = [] ∧ (∀ n, n < 8 → ((s.ctx 0).chan n).st = .closed) ∧
     s.performed 0 true true 2 = true) ∧
    (let s := (barWaiter true).k0 (fun k => { k with
       park := List.replicate 256 { bar := 63, core := 0, tok := 0, rd := 7, light := aRec } })
     256 ≤ (s.cluster 0).park.length) ∧
    (let s := (barWaiter true).modSlot 0 (fun t => { t with wait := some { kind := .barrier, a := 63, b := 0xFFFFFFFF } })
     (s.slot 0).wait.map (·.kind) = some .barrier ∧ s.running 0 = true ∧ (s.ctx 0).light = true ∧
     ((s.cluster 0).bar 63).status 0xFFFFFFFF = none) ∧
    ((base.marked .barDone 0 2).slot 0).wait.map (·.kind) = some .barDone ∧
    (let s := (barrier { aBar with arrived := 1 } 0#64).modSlot 511 (fun t =>
       { t with wait := some { kind := .barrier, a := 63, b := 0xFFFFFFFF } })
     (s.slot 511).wait.map (fun w => (w.kind, w.a, w.b)) = some (.barrier, 63, ((s.cluster 0).bar 63).phase) ∧
     ((s.cluster 0).bar 63).phase < 2 ^ 32 ∧ 511 / 512 = s.cur.cl ∧
     ((s.cluster 0).bar 63).count ≤ ((s.cluster 0).bar 63).arrived + 1) := by decide +kernel

/-- base with the last 64-byte cell of its own scratchpad in x6 and a doubleword there. -/
def cellOf (v : Nat) : State := { atOwn 0x3FFC0 with mem := Memory.writeN [] (scratchPa 0 0x3FFC0) (leBytes 8 v) }

theorem witness_SleepAndCheckpoint :
    ([0, 1, 2].all (fun v =>
      let s := cellOf v
      s.running 0 && (s.slot 0).wait.isNone && !(s.ctx 0).queuedMem true true && s.xr 6#5 == w64 (0x7F8000000000 + 0x3FFC0) &&
      leNat (s.mem.readN (scratchPa 0 0x3FFC0) 8) == v && s.performed 0 true true 2) = true) ∧
    ownScratchFree (cellOf 0) 0x3FFC0 64 true ∧ ((cellOf 0).ctx 0).light = false ∧
    (let s := (cellOf 0).c0 (fun c => { c with light := true })
     (s.ctx 0).light = true ∧ looks suspendReady s.begun = true) ∧
    (((cellOf 0).marked .recordTaken 0 0).slot 0).wait.map (·.kind) = some .recordTaken ∧
    ([0, 2].all (fun v =>
      let s := (cellOf v).modSlot 0 (fun t => { t with wait := some { kind := .recordRefused, a := scratchPa 0 0x3FFC0, cell := recBytes aRec } })
      let c : Target := { a := scratchPa 0 0x3FFC0, sram := isSram (scratchPa 0 0x3FFC0), attr := {} }
      (s.slot 0).wait.map (fun w => (w.kind, w.attr)) == some (.recordRefused, {}) && s.peek8 s.cur.cl c == v &&
      okIs (cellAtomic (s.xr 6#5) c 64 (fun _ => some (recBytes aRec)) s.begun) (fun _ _ => true)) = true) ∧
    (let s := (cellOf 0).marked .woken (scratchPa 0 0x3FFC0) 0
     (s.slot 0).wait.map (·.kind) = some .woken ∧ s.peek8 0 { a := scratchPa 0 0x3FFC0, sram := true, attr := {} } ≠ 1) ∧
    ((atOwn 32).xr 6#5).toNat % 64 ≠ 0 := by
  unfold ownScratchFree; decide +kernel

theorem witness_SleepAndCheckpoint_checkpoint :
    ((base.marked .posted 0 0).slot 0).wait.map (·.kind) = some .posted ∧ (base.marked .posted 0 0).performed 0 true true 2 = true ∧
    (let s := atOwn 0x10000
     let c := s.ctx 0
     let img := { c with pc := c.pc + 4#64, ckpt := c.ckpt + 1#64 }.setX 5 (c.ckpt + 1#64)
     let k := s.core 0
     s.running 0 = true ∧ (s.slot 0).wait = none ∧ (s.xr 6#5).toNat % 64 = 0 ∧ looks settleAll s.begun = true ∧
     okIs (storeBlocks (c.blockInj s.injected) 0 (s.xr 6#5 + 64#64) (k.imageBlocks img) s.begun) (fun _ u =>
       okIs (storeBytes (s.xr 6#5) (img.header (img.flags true false + b2n (k.imagePois c) * 2 ^ 14)) u) (fun _ v =>
         v.performed v.cur true true 2)) = true ∧
     (match s.begun.peekCode 0 (identOf c c.priv 0) c.satp (c.pc + 4#64).toNat with | some w => isVset w | none => false) = false) ∧
    ((atOwn 32).xr 6#5).toNat % 64 ≠ 0 := by decide +kernel

/-! ### Witnesses: kernels -/

/-- n bytes with fields (offset, width, value) and zeros elsewhere. -/
def fieldBytes (n : Nat) (l : List (Nat × Nat × Nat)) : List Byte :=
  (List.range n).map (fun i =>
    match l.find? (fun f => decide (f.1 ≤ i) && decide (i < f.1 + f.2.1)) with
    | some f => BitVec.ofNat 8 (f.2.2 >>> (8 * (i - f.1)))
    | none => 0#8)
/-- A launch descriptor with a count: cluster 39, groups of 1. -/
def aLaunch (n : Nat) : List Byte := fieldBytes 128 [(0x10, 4, n), (0x18, 8, 0x7F8000000000), (0x40, 8, 2 ^ 39), (0x48, 2, 1)]
/-- base with bytes at an offset of the own scratchpad, named by x6. -/
def ownBytes (off : Nat) (bs : List Byte) : State := { atOwn off with mem := Memory.writeN [] (scratchPa 0 off) bs }
/-- base with an entry of the work tables, named by x6. -/
def working (k : Nat) (w : Work) : State := State.x0 (base.setWork k w) 6 (w64 (w.handle k))
/-- An engine's identity that stands for no page. -/
def mIdent : Ident := { priv := .m }

theorem witness_KernelInstructions :
    ((atOwn 32).xr 6#5).toNat % 64 ≠ 0 ∧
    (let s := ownBytes 64 (aLaunch 0)
     (s.xr 6#5).toNat % 64 = 0 ∧ (s.ctx 0).queuedMem true true = false ∧
     okIs (loadBytes (s.xr 6#5) 128 s.begun) (fun bs u => okIs (probeSig (dscSig bs) u) (fun _ v =>
       v.krnRefusal bs (v.ctx v.cur).asid == some 4)) = true) ∧
    (let s := ownBytes 64 (aLaunch (2 ^ 32 - 1))
     okIs (loadBytes (s.xr 6#5) 128 s.begun) (fun bs u => okIs (probeSig (dscSig bs) u) (fun _ v =>
       v.krnRefusal bs (v.ctx v.cur).asid == none && v.performed v.cur true true 2)) = true) ∧
    (dscLevel (aLaunch 1) = 0 ∧ dscParent (aLaunch 1) = none ∧
      (base.chooseSlot 0 (dscLT (aLaunch 1))) = some 4096) ∧
    base.workOf 0 0#64 = none ∧ ((base.marked .cancel 0 0).slot 0).wait.map (·.kind) = some .cancel ∧
    (let s := (working 65535 { st := .sweeping, gen := 1 }).marked .cancel 0 0
     s.workOf 0 (s.xr 6#5) = some 65535 ∧ (s.workAt 65535).busy = true ∧ (s.workAt 65535).st ≠ .starting ∧
     (s.workAt 65535).st ≠ .running) ∧
    (let s := working 65535 { st := .running, gen := 1 }
     s.workOf 0 (s.xr 6#5) = some 65535 ∧ (s.workAt 65535).busy = true ∧ 65535 < 2 ^ 16) ∧
    (let s := working 65535 { st := .free, gen := 1, outcome := 3 }
     s.workOf 0 (s.xr 6#5) = some 65535 ∧ (s.workAt 65535).busy = false ∧ (s.workAt 65535).code = 3) ∧
    ((base.marked .borrowed 0 0).slot 0).wait.map (·.kind) = some .borrowed ∧
    ((spawner (2 ^ 64 - 1 - 2 ^ 32)).ctx 0).uweight.toNat ≤ 2 ^ 64 - 1 - 2 ^ 32 ∧
    ((spawner 0).workAt 4095).issued + 2 ^ 32 < 2 ^ 127 ∧
    2 ^ 64 - 1 - 2 ^ 32 < ((spawner (2 ^ 64 - 2 ^ 32)).ctx 0).uweight.toNat := by decide +kernel

/-- A message of an amount to launch 65535, and its entry. -/
def messaged (w : Work) (b : Option Hart) (n : Nat) : State :=
  { (base.setWork 65535 w).marked .borrow 0 0 with wmsgs := [{ slot := 65535, gen := 1, borrow := b, amount := n }] }

theorem witness_Collector :
    (let s := messaged { st := .running, gen := 1, issued := 5 } (some 0) 7
     s.wmsgs = { slot := 65535, gen := 1, borrow := some 0, amount := 7 } :: [] ∧ (s.workAt 65535).gen = 1 ∧
     (s.workAt 65535).st = .running ∧ (s.slot 0).wait.map (·.kind) = some .borrow) ∧
    (let w := (messaged {} none 7).workAt 65535
     w.gen ≠ 1 ∧ w.st = .free) ∧
    ([4, 5, 6].all (fun n =>
      let w := (messaged { st := .running, gen := 1, issued := 5 } none n).workAt 65535
      w.gen == 1 && w.st == .running && w.sig == 0 && w.parent.isNone) = true) ∧ 0 + 4 < 5 ∧ 0 + 5 = 5 ∧ 5 < 0 + 6 := by
  decide +kernel

/-- A kernel header of a kind with its entry point 64 bytes on. -/
def aHeader (kind : Nat) : List Byte :=
  fieldBytes 96 [(0, 4, 0x4B5A4B48), (4, 2, 1), (6, 1, kind), (0x20, 8, 64), (0x30, 8, 96)]
/-- A launch of core 0 whose header is in HBM. -/
def launching (bs : List Byte) : State := { base with mem := Memory.writeN [] 0x10000 bs }.setWork 65535
  { st := .starting, gen := 1, ident := mIdent, khdr := 0x10000, count := 1, cmask := 1 }
/-- A heavy launch of n units in groups of one, on cluster 39. -/
def grouped (n : Nat) : State :=
  base.setWork 65535 { st := .running, gen := 1, count := n, gsize := 1, cmask := 2 ^ 39, barn := 64, waiting := [(0, 0)] }

theorem witness_LaunchStart :
    ([0, 1, 4].all (fun kind =>
      let s := launching (aHeader kind)
      (s.workAt 65535).st == .starting &&
      (match readE (s.workAt 65535).eng (s.workAt 65535).khdr 96 s with
       | .ok bs u => decide (u.workAt 65535 = s.workAt 65535) &&
           ((headerOf 0x10000 bs).map (·.kind) == if kind = 4 then none else some kind)
       | .error _ _ => false)) = true) ∧
    (let s := grouped 1
     (s.workAt 65535).st = .running ∧ (s.workAt 65535).light = false ∧ (s.workAt 65535).next * (s.workAt 65535).gsize <
       (s.workAt 65535).count ∧ (s.offerGroup 65535 0 0).isSome = true ∧ (s.workAt 65535).waiting = (0, 0) :: [] ∧
     rotation (s.workAt 65535).cmask 0 = [] ++ 39 :: [] ∧ (s.placeGroup 39 65535 0).isSome = true) ∧
    (let s := (grouped 1).modCluster 39 (fun c => c.setBar 63 { st := 1, count := 1 })
     (s.offerGroup 65535 0 (s.workAt 65535).rot).isNone = true ∧ (s.placeGroup 39 65535 0).isNone = true) ∧
    (let s := grouped 1
     (s.workAt 65535).groupUnits 0 = 1 ∧ (s.workAt 65535).segs = 0 ∧ (s.cluster 39).barRun (s.workAt 65535).barn = some 0 ∧
     (List.range 64).find? (fun g => ((s.cluster 39).group g).st == 0) = some 0 ∧
     (s.core (39 * 64)).freeKens.head? = some 0) ∧
    (let s := base.setWork 4095 { st := .running, gen := 1, light := true, count := 2, next := 1, cmask := 1 }
     (s.workAt 4095).st = .running ∧ (s.workAt 4095).light = true ∧ (s.workAt 4095).next < (s.workAt 4095).count) := by
  decide +kernel

theorem witness_Sweeps :
    (let s := base.setWork 65535 { st := .sweeping, gen := 1, cause := 4 }
     (s.workAt 65535).st = .sweeping ∧ (s.workAt 65535).swept = false ∧
     (match sweepLaunch 65535 s with | .ok _ _ => true | .error _ _ => false) = true) ∧
    (let s := State.reset.setWork 65535 { st := .sweeping, gen := 1, cause := 4, count := 3 }
     (s.workAt 65535).st = .sweeping ∧ (s.workAt 65535).swept = false ∧ s.slots = Tab.empty ∧ s.cores = Tab.empty ∧
     s.clusters = Tab.empty ∧ s.recs = [] ∧ (s.workAt 65535).unstarted = 2 ^ 63) ∧
    (let s := (base.setWork 65535 { st := .sweeping, gen := 1, cause := 4 }).c0 (fun c =>
       { (c.setChan 0 { st := .faultPut, sig := 0x20000 }) with ulaunch := 65535#64 })
     s.owesSignals 65535 = true) ∧
    (let w : Work := { count := 3, next := 1, light := true }
     w.waiting = [] ∧ w.light = true ∧ 0 < w.count ∧ w.next ≤ w.count) ∧
    (let s := base.setWork 65535 { st := .sweeping, gen := 1, cause := 4, swept := true }
     (s.workAt 65535).sig = 0 ∧ (s.workAt 65535).parent = none ∧ (s.workAt 65535).swept = true ∧ s.sweeping 65535 = false) ∧
    (let s := base.setWork 0x10000 { st := .sweeping, gen := 1, cause := 4 }
     (s.workAt 0x10000).st = .sweeping ∧ s.childrenEnded 0x10000 = true ∧ 2 ^ 16 ≤ 0x10000) ∧
    (let s := (base.setWork 0x10000 { st := .running, gen := 1 }).setWork 65535 { st := .running, gen := 1, parent := some 0x10000 }
     (s.workAt 0x10000).st = .running ∧ (s.workAt 65535).parent = some 0x10000 ∧ (s.workAt 65535).st = .running ∧
     s.children 0x10000 = [65535]) := by decide +kernel

/-! ### Witnesses: tiles -/

/-- base with the names 0 and 7 bound to accumulators 0 and 7, MXFP8 with both scales, operands in the own scratchpad at x6 and
x7. -/
def tiled : State :=
  ((State.x0 (State.x0 base 6 0x7F8000000000#64) 7 0x7F8000010000#64).c0 (fun c =>
    { c with mxfmt := 0x31#64, mxsca := 0x7F8000030000#64, mxscb := 0x7F800003FFC0#64,
             accs := (Tab.empty.put 0 (some 0)).put 7 (some 7) })).g0
    (fun k => (k.setAcc 0 { st := .claimed, gen := 1 }).setAcc 7 { st := .claimed, gen := 1 })
/-- An operation on accumulator 7 in flight. -/
def aTileOp (k : TileKind) : TileOp := { kind := k, dst := 7, gen := 1 }

/-- The seven instructions that queue an operation on accumulator 7. -/
def tileIns : List Instr :=
  [.tlZero 7#3, .tlMma 7#5 6#5 7#3, .tlMmas 7#5 6#5 7#3, .tlLd 6#5 7#3, .tlSt 6#5 7#3, .tlStc 6#5 7#3, .tlAdd 0#3 7#3]
/-- The premises of a state in which an instruction on the accumulators 7 and, for tl.add, 0 is queued, or waits in a full queue. -/
def tileReady (s : State) (i : Instr) (full : Bool) : Bool :=
  match tileForm s i with
  | none => false
  | some (kind, d, n, va, vb) =>
    let q := if kind = .add then 0 else 7
    let o := s.tileOpAt kind va vb 7 q
    let c := s.ctx 0
    (c.acc d == some 7) && (kind != .add || c.acc n == some 0) && ((s.core 0).acc 7).st != .failed && ((s.core 0).acc q).st != .failed &&
    tileFormatOk kind c.mxfmt && o.operands.all (fun x => x.pitchOk && x.spanOk 0 &&
      s.permits x.span.base x.span.extent x.span.write o.ident == .yes &&
      c.stallingChan 0 x.span.base x.span.extent x.span.write == none) &&
    s.performed 0 true true 1 && (if full then decide (8 ≤ (s.core 0).tileq.length) else decide ((s.core 0).tileq.length < 8))
/-- tiled with its accumulators in a state. -/
def tiledAs (a b : AccState) : State := tiled.g0 (fun k => (k.setAcc 0 { st := a, gen := 1 }).setAcc 7 { st := b, gen := 1 })
/-- The first operand of an instruction's operation, and whether its checks hold. -/
def tileFirst (s : State) (i : Instr) : Option (Bool × Bool × Permit) :=
  match tileForm s i with
  | none => none
  | some (kind, _, _, va, vb) =>
    let o := s.tileOpAt kind va vb 7 7
    o.operands.head?.map (fun x => (x.pitchOk, x.spanOk 0, s.permits x.span.base x.span.extent x.span.write o.ident))

theorem witness_TileInstructions_issue :
    tiled.running 0 = true ∧ (tiled.ctx 0).seq = [] ∧ tileIns.all (fun i => tileReady tiled i false) = true ∧
    tileIns.all (fun i => tileReady (tiled.g0 (fun k => { k with tileq := List.replicate 8 { kind := .zero, dst := 3, gen := 1 } })) i true) = true ∧
    (tiled.ctx 0).acc 6 = none ∧
    (((tiledAs .claimed .failed).core 0).acc 7).st = .failed ∧ (((tiledAs .failed .claimed).core 0).acc 0).st = .failed ∧
    (((tiledAs .failed .claimed).core 0).acc 7).st ≠ .failed ∧
    ([TileKind.mma, .mmas, .ld, .st, .stc, .add].all (fun k => !tileFormatOk k 0xF#64)) = true ∧
    tileFirst (tiled.c0 (fun c => { c with mxld := 1#64 })) (.tlMma 7#5 6#5 7#3) = some (false, true, .yes) ∧
    tileFirst (State.x0 tiled 6 0x200000000000#64) (.tlMma 7#5 6#5 7#3) = some (true, false, .no) ∧
    (tileFirst (tiled.c0 (fun c => { c with priv := .u })) (.tlLd 6#5 7#3) = some (true, true, .no)) ∧
    tileShape (wfld (aTileOp .mmas).mxfmt 3 0) = some (32, 64, 32, 1, 4) ∧ stcBytes 1 0 = some 2 := by decide +kernel

/-- A reserved format traps with value 2, a pitch below the row with 3, an operand outside the scratchpads with its base, and one whose
segment is not the thread's takes cause 5 or 7 (R265). -/
theorem test_tile_traps : ([(tiled.c0 (fun c => { c with mxfmt := 0xF#64 }), Instr.tlLd 6#5 7#3, 26#64, 2#64),
    (tiled.c0 (fun c => { c with mxld := 1#64 }), .tlMma 7#5 6#5 7#3, 26#64, 3#64),
    (State.x0 tiled 7 0x200000000000#64, .tlMma 7#5 6#5 7#3, 26#64, 0x200000000000#64),
    (tiled.c0 (fun c => { c with priv := .u }), .tlLd 6#5 7#3, 5#64, 0x7F8000000000#64),
    (tiled.c0 (fun c => { c with priv := .u }), .tlSt 6#5 7#3, 7#64, 0x7F8000000000#64)].all (fun x =>
      nextIs (exec x.2.1 x.1) (fun t => (t.slot 0).mcause == x.2.2.1 && (t.slot 0).mtval == x.2.2.2))) = true := by decide +kernel

/-- tiled with a row instruction of accumulator 7 and register v4 at the head, row 3, SEW 32 and vl 4. -/
def rowHead (get : Bool) (fmt : Word) (row : Nat) : State :=
  let w := if get then rowWord 0#7 (0#2 ++ 7#3) 6#5 4#5 else rowWord 1#7 4#5 6#5 (0#2 ++ 7#3)
  tiled.c0 (fun c => { c with vtype := 0x10#64, vl := 4,
                              seq := [{ bits := w, vl := 4, v := true, l := false, vtype := 0x10#64, op1 := w64 row, op2 := fmt }] })

theorem witness_TileInstructions_head :
    ([true, false].all (fun get => (rowHead get 0x31#64 31).seqReady 0) = true) ∧
    (let s := rowHead true 0x31#64 31
     HeadRuns s 0 ((s.ctx 0).seq.headD (entryOf 0#32 0#64)) [] ∧ VTyped ((s.ctx 0).seq.headD (entryOf 0#32 0#64)) 2 1) ∧
    (let s := (rowHead true 0x31#64 31).c0 (fun c => { c with accs := Tab.empty })
     s.seqReady 0 = true ∧ (s.ctx 0).acc 7 = none) := by
  unfold HeadRuns VTyped
  refine ⟨?_, ⟨?_, ⟨16, ?_⟩⟩, ?_⟩ <;> decide +kernel

theorem witness_TileInstructions_rows :
    ([true, false].all (fun get => [(0x31#64, 31), (0xF#64, 0), (0x31#64, 32)].all (fun p =>
      let s := rowHead get p.1 p.2
      s.seqReady 0 && (s.ctx 0).seqNext == (s.ctx 0).seq.head?.map (fun e => (0, e)) && ((s.ctx 0).acc 7) == some 7 &&
      !(s.core 0).pnd 7 && ((s.core 0).acc 7).st != .failed &&
      8 * 2 ^ 2 == (if wfld p.1 3 0 = 6 then 64 else 32) && 4 % 1 == 0))) = true := by decide +kernel

/-- tl.vrow writes row 31 of accumulator 7, tl.rowv reads it back (R279). -/
theorem test_rows : nextIs (exec (.sequencerHeadExecute 0)
    ((rowHead false 0x31#64 31).c0 (fun c => (c.setElem 4 32 0 5).setElem 4 32 3 0xFFFFFFFF)))
    (fun t => [0, 1, 2, 3].map (accGet 0x31#64 ((t.core 0).acc 7).bits 31) == [5, 0, 0, 0xFFFFFFFF] && (t.ctx 0).seq.isEmpty) = true := by
  decide +kernel

theorem witness_TileInstructions : tiled.running 0 = true ∧
    ((tiled.ctx 0).seq = [] ∧ (tiled.ctx 0).acc 6 = none) ∧
    (let m (v : Nat) : Nat := v &&& maskOf (tiled.ctx 0).claimed
     m 0x80 ≠ 0 ∧ m 0x7E = 0 ∧ (bitsOf8 0x7E).length ≤ (tiled.core 0).freeAccs.length ∧
     (bitsOf8 0x7E).length = (tiled.core 0).freeAccs.length) ∧
    (let k := tiled.core 0 |>.setAcc 1 { st := .taskHeld }
     k.freeAccs.length < (bitsOf8 0x7E).length) ∧
    ((tiled.core 0).pnd 7 = false ∧ ((tiled.core 0).acc 7).st ≠ .failed ∧ (tiled.ctx 0).claimed = [0, 7]) ∧
    ((tiled.g0 (fun k => { k with tileq := [aTileOp .ld] })).core 0).pnd 7 = true ∧
    (let s := tiled.g0 (fun k => k.setAcc 7 { st := .failed, gen := 1, err := 0x7F8000000000#64 })
     ((s.ctx 0).claimed.filter (fun n => (0x80 : Nat) == 0 || (0x80 : Nat).testBit n)) = [7] ∧ (s.core 0).pnd 7 = false ∧
     ((s.core 0).acc 7).st = .failed) ∧
    (base.core 0).freeAccs.head? = some 0 ∧
    (let c := tiled.ctx 0
     c.vs ≠ 0 ∧ c.frozen = none ∧ c.seq.length < 16 ∧
     (let c := { c with vtype := 0x10#64, vl := 16 }
      let x : VI := { w := rowWord 0#7 (0#2 ++ 7#3) 6#5 31#5, vl := c.vl, vt := c.vtype, op1 := 0#64, op2 := 0#64, vs := 0 }
      (!x.ill && (decide (wfld c.mxfmt 3 0 > 6) || x.sew == accWidth c.mxfmt) && x.groupOk 31 x.sew) = true)) ∧
    (entryOf (rowWord 0#7 (0#2 ++ 7#3) 6#5 31#5) 0#64).namesRow (7#3).toNat = true ∧
    (entryOf (rowWord 1#7 31#5 6#5 (0#2 ++ 7#3)) 0#64).namesRow (7#3).toNat = true ∧
    (entryOf (rowWord 0#7 (0#2 ++ 7#3) 6#5 31#5) 0#64).namesRow (6#3).toNat = false ∧
    (entryOf (rowWord 0#7 (0#2 ++ 7#3) 6#5 31#5) 0#64).bits ≠ 0#32 ∧ isFof (rowWord 0#7 (0#2 ++ 7#3) 6#5 31#5) = false := by
  decide +kernel

/-- A multiply whose B, in core 1's scratchpad, is read by multicast with tag 5 and count 2. -/
def aCast : TileOp :=
  { kind := .mma, dst := 7, gen := 1, a := scratchPa 0 0, b := scratchPa 1 0, mxcast := 0x820005#64, running := true }
/-- base with operations in core 0's queue. -/
def tileQ (l : List TileOp) : State := base.g0 (fun k => { k with tileq := l })
/-- An open entry for the first piece of B, joined by a core. -/
def aComb (g : Nat) : Comb := { tag := 5, piece := scratchPa 1 0, cnt := 2, cores := [g] }

theorem witness_MatrixUnit :
    (let s := tileQ [{ aTileOp .zero with a := scratchPa 0 0 }]
     let o := { aTileOp .zero with a := scratchPa 0 0 }
     (s.core 0).tileq = o :: [] ∧ o.running = false ∧ (s.core 0).halted = false ∧ s.inTransit 0 = false ∧ o.casts = false ∧
     ((s.tilePieces 0 o.plainPieces).map (fun u => u.tilePoison o.plain (fun _ => true))) = some none) ∧
    (let s := ((tileQ [aTileOp .zero]).k0 (fun c => { c with moving := some { rank := 0, target := 63, retire := false, wasHalted := false, by_ := 0 } })).g0
       (fun k => { k with halted := true })
     s.drains 0 = true ∧ (s.core 0).halted = true) ∧
    (let o := { aTileOp .ld with running := true, res := some (0#32768, []) }
     o.running = true ∧ o.again = false ∧ o.castPieces = [] ∧ o.task = none ∧ o.kind ≠ .st ∧ o.kind ≠ .stc ∧ o.bad = none ∧
     ((tileQ [o]).core 0).tileq = o :: [] ∧ (tileQ [o]).inTransit 0 = false) ∧
    (let o := { aTileOp .ld with running := true, bad := some (0x7F8000000000#64, scratchPa 0 0) }
     let s := (tileQ [o]).g0 (fun k => k.setAcc 7 { st := .claimed, gen := 1 })
     ((s.core 0).acc o.dst).gen = o.gen ∧ (s.core 0).tileq = o :: [] ∧ o.castPieces = [] ∧ o.task = none) ∧
    ((∀ q ∈ aCast.got, q.1 ≠ scratchPa 1 0) ∧ aCast.running = true) ∧
    (let s := tileQ [aCast]
     let p := scratchPa 1 0 / 64
     aCast.castPieces.contains (p * 64) = true ∧ (scratchAt (p * 64)).1 = 0 * 64 + 1 ∧ wfld aCast.mxcast 15 0 = 5 ∧
     (if wfld aCast.mxcast 22 16 > 64 then 0 else wfld aCast.mxcast 22 16) = 2 ∧ s.inTransit 1 = false ∧
     (s.core 1).comb.find? (fun x => x.tag == 5 && x.piece == p * 64) = none ∧ (s.core 1).comb.length < 16) ∧
    (let s := (tileQ [aCast]).modCore 1 (fun k => { k with comb := [aComb 63] })
     ((s.core 1).comb.find? (fun x => x.tag == 5 && x.piece == scratchPa 1 0)) = some (aComb 63) ∧
     (aComb 63).cores.contains 0 = false ∧ (aComb 63).cnt = (aComb 63).cores.length + 1 ∧
     (s.closeComb 1 { aComb 63 with cores := [63, 0] }).isSome = true ∧ (s.core 1).comb[0]? = some (aComb 63) ∧
     (s.closeComb 1 (aComb 63)).isSome = true) ∧
    (aTileOp .zero).kind = .zero ∧ ((aTileOp .add).kind = .add ∧ wfld (aTileOp .add).mxfmt 3 0 = 0 ∧ 31 < 32) := by
  decide +kernel

/-! ### Witnesses: channels and strips -/

/-- A channel open for gets over the last KiB of core 0's scratchpad. -/
def aChan : Chan :=
  { st := .openGet, base := 0x7F000003FC00, len := 1024, wm := 0x7F000003FC00#64, ip := 0x7F000003FC00, ident := { priv := .m } }
/-- base with channel 7 in a state. -/
def channelled (ch : Chan) : State := base.c0 (·.setChan 7 ch)
/-- A channel descriptor over 1 KiB. -/
def aChanDsc : List Byte := fieldBytes 32 [(0, 8, 0x7F000003FC00), (8, 4, 1024)]
/-- channelled with a layout of one row of 1024 bytes in v31. -/
def layouted : State := (channelled aChan).c0 (fun c => { c with vtype := 0x18#64, vl := 1 }.setElem 31 64 0 1024)

/-- The request of layouted for its row, at the near end of channel 7. -/
def layoutReq (s : State) : ChanReq :=
  { far := 0, dims := layoutOf (s.ctx 0) 31 1, at_ := ((s.ctx 0).chan 7).ip, total := 1024, sent := 0, cls := none, home := none,
    since := s.tick + 1 }

theorem witness_ChannelInstructions :
    ((atOwn 16).xr 6#5).toNat % 32 ≠ 0 ∧
    (let ch := (base.ctx 0).chan 7
     ch.st = .closed) ∧
    (let ch := { aChan with ip := 0x7F0000040000 }
     ch.st ≠ .closed ∧ ch.wm.toNat < min (0x7F0000040000#64).toNat ch.ip ∧ ch.st.faulted = false ∧ ch.wm.toNat < ch.ip ∧
     min (0x7F000003FC00#64).toNat ch.ip ≤ ch.wm.toNat ∧
     ({ ch with st := .faultGet } : Chan).st.faulted = true) ∧
    (aChan.st.faulted = false ∧ aChan.ip ≤ aChan.wm.toNat ∧ aChan.st ≠ .cancelling) ∧
    (let s := ownBytes 0x100 aChanDsc
     s.running 0 = true ∧ (s.xr 6#5).toNat % 32 = 0 ∧ (s.ctx 0).queuedMem true true = false ∧
     okIs (loadBytes (s.xr 6#5) 32 s.begun) (fun bs u =>
       let f (o k : Nat) : Nat := leNat ((bs.drop o).take k)
       let ch : Chan := { aChan with ident := identOf (u.ctx 0) (u.ctx 0).priv 0, satp := (u.ctx 0).satp }
       ((u.ctx 0).chan 7).st == .closed && chanBase 0 (f 0 8) (f 8 4) == some 0x7F000003FC00 && decide (f 12 1 ≤ 1) &&
       f 13 3 == 0 && f 16 8 == 0 && f 24 8 == 0 && (u.ctx 0).chanFree 0 7 ch &&
       (ch.starts 0).all (fun x => u.permits x 1024 true ch.ident == .yes)) = true) ∧
    (let s := { channelled aChan with mem := Memory.writeN [] (scratchPa 0 0x100) aChanDsc }
     ((s.ctx 0).chan 7).st ≠ .closed) ∧
    (let s := layouted
     let c := s.ctx 0
     let x : VI := { w := 0x0200005B#32, vl := c.vl, vt := c.vtype, op1 := 0#64, op2 := 0#64, vs := 0 }
     let dims := layoutOf c 31 c.vl
     c.vs ≠ 0 ∧ c.seq = [] ∧ c.vstart = 0#64 ∧ (!x.ill && x.sew == 64 && x.groupOk 31 64) = true ∧
     looks (x.use 31 64) s.begun = true ∧ (c.chan 7).st = .openGet ∧ layoutOk dims = true ∧
     layoutTotal dims ≤ (c.chan 7).base + (c.chan 7).len - (c.chan 7).ip ∧ layoutTotal dims = 1024 ∧
     s.performed 0 true true 2 = true ∧
     ((s.begun.tock.modCtx 0 (·.setChan 7 { c.chan 7 with
       ip := (c.chan 7).ip + 1024, reqs := [layoutReq s] })).settleChan 0 c.cid 7).isSome = true) ∧
    (let s := layouted.c0 (fun c => c.setChan 7 { aChan with st := .openPut })
     ((s.ctx 0).chan 7).st = .openPut ∧ (s.ctx 0).putMeets 0 (layoutReq s) = none) ∧
    (let s := layouted.c0 (fun c => (c.setChan 7 { aChan with st := .openPut }).setChan 6 { aChan with st := .faultGet, ip := 0x7F0000040000 })
     ((s.ctx 0).chan 7).st = .openPut ∧ (s.ctx 0).putMeets 0 (layoutReq s) = some 6) := by decide +kernel

/-- A request of 4096 bytes from the last page of the address space. -/
def aReq : ChanReq :=
  { far := 2 ^ 64 - 4096, dims := [(4096, 0)], at_ := 0x7F0000000000, total := 4096, sent := 0, cls := none, home := none }
/-- A piece of a channel that gets 64 bytes within core 0's scratchpad. -/
def aPiece : Piece :=
  { owner := .chan 0 7, read := 0x7F0000000000#64, write := 0x7F000003FC00#64, len := 64, near := 0x7F000003FC00,
    ident := { priv := .m }, satp := 0#64, cls := none, launch := 0, mask := 0, get := true, first := true, req := 0x7F000003FC00 }
/-- aChan with one request for that piece, and the piece under way. -/
def pieced (p : Piece) : State := (channelled { aChan with
  ip := 0x7F000003FC40,
  reqs := [{ aReq with far := 0x7F0000000000, dims := [(64, 0)], at_ := 0x7F000003FC00, total := 64, sent := 64 }] }).g0
    (fun k => { k with pieces := [p] })
/-- A strip that loads the last 16 bytes of the own scratchpad into v31. -/
def aStrip (src : Nat) : Strip := { v := true, src := src, vd := 31, sew := 2, count := 4, stride := 4, ident := { priv := .m } }
/-- base with strip 3. -/
def stripped (src : Nat) : State := base.c0 (·.setStrip 3 (aStrip src))

theorem witness_ChannelsAndStrips :
    (let s := channelled { aChan with base := 0x7F0000000000, len := 4096, reqs := [aReq] }
     (s.findCid 0 0).isSome = true ∧ (((s.findCid 0 0).bind (fun c => c.nextPiece 0 7))).isSome = true) ∧
    (aReq.dims = [(4096, 0)] ∧ aReq.sent = 0 ∧ aReq.total = 4096 ∧ aReq.far < 2 ^ 64 ∧ aReq.far % 4096 + 4096 ≤ 4096 ∧
      aReq.at_ % 4096 + 4096 ≤ 4096) ∧
    (let s := pieced aPiece
     (s.core 0).pieces[0]? = some aPiece ∧ aPiece.done = false ∧ aPiece.fail = none ∧ (s.runPiece 0 aPiece).isSome = true) ∧
    (let p := { aPiece with done := true }
     let u := (pieced p).g0 (fun k => { k with pieces := k.pieces.eraseIdx 0 })
     ((pieced p).core 0).pieces[0]? = some p ∧ p.owner = .chan 0 7 ∧
     ((u.modCid 0 0 (fun c => c.setChan 7 ((c.chan 7).land p))).settleChan 0 0 7).isSome = true) ∧
    ({ aPiece with fail := some (6, 0x7F0000000000) } : Piece).fail = some (6, 0x7F0000000000) ∧
    (aChan.st ≠ .cancelling ∧ aChan.whole = [] ∧ aPiece.near = aChan.wm.toNat ∧ aChan.st = .openGet) ∧
    (let s := channelled { aChan with st := .faultGet }
     (s.core 0).inFlight 0 7 = false ∧ ((s.ctx 0).chan 7).st.faulted = true ∧ ((s.ctx 0).chan 7).sigOr = false ∧
     ((s.ctx 0).chan 7).sig = 0) ∧
    (((channelled { aChan with st := .cancelling }).ctx 0).chan 7).st = .cancelling ∧
    ([ChanState.faultGet, .cancelling].all (fun st =>
      let s := channelled { aChan with st := st, owesOr := true, sig := 0x7F0000000008 }
      let ch := (s.ctx 0).chan 7
      (s.core 0).inFlight 0 7 == false && (st == .cancelling || ch.st.faulted) && ch.sig != 0 && ch.owesOr &&
      decide ((s.signal (ch.eng 0 ch.sig) ch.sig (wfld (s.ctx 0).ulaunch 15 0) orSignal).2 = .done)) = true) ∧
    (let p := { aPiece with satp := 0x9000000000000001#64, read := 0x800000000000#64 }
     wfld p.satp 63 60 ≠ 0 ∧ canonical p.read.toNat = false) ∧
    (let ch := { aChan with st := .openPut, ip := 0x7F000003FC40, reqs := [{ aReq with
       far := 0x7F000003F000, dims := [(64, 0)], at_ := 0x7F000003FC00, total := 64 }] }
     let s := (channelled ch).c0 (fun c => c.setChan 6 { aChan with st := .faultGet, base := 0x7F000003F000, wm := 0x7F000003F000#64,
                                                                     ip := 0x7F000003F400 })
     ((s.ctx 0).pieceMeets 0 7) = some 6 ∧ (s.ctx 0).nextPiece 0 7 = none ∧ s.hartOfCid 0 0 = some 0 ∧ s.running 0 = true ∧
     (s.slot 0).noIrq = false ∧ (s.ctx 0).priv = ((s.ctx 0).chan 7).ident.priv) := by
  decide +kernel

theorem witness_ChannelsAndStrips_strips :
    (let c := vecBase.ctx 0
     let w : IWord := 2#6 ++ 1#1 ++ 7#5 ++ 6#5 ++ 3#3 ++ 31#5 ++ 0x5b#7
     let x : VI := { w := w, vl := c.vl, vt := c.vtype, op1 := 0#64, op2 := 0#64, vs := 0 }
     c.vs ≠ 0 ∧ c.frozen = none ∧ c.seq.any (fun e => isFof e.bits) = false ∧ c.seq.length < 16 ∧
     (!x.ill && x.groupOk 31 x.sew) = true ∧ c.vl ≠ 0 ∧ (0x7F8000000004#64).toNat % (x.sew / 8) = 0 ∧
     (sextW 4 32).toNat % (x.sew / 8) = 0 ∧ c.freeStrip.isSome = true ∧ (0x7F8000000002#64).toNat % (x.sew / 8) ≠ 0) ∧
    (let s := stripped 0x7F800003FFF0
     let t := (s.ctx 0).strip 3
     s.hartOfCid 0 0 = some 0 ∧ t.v = true ∧ t.fault = none ∧ t.groups.contains 0 = true ∧
     (s.landElems 0 3 t (t.groupElems 0)).2 = none ∧
     (match (s.engRead (t.eng 0 3) (t.addr 3) (t.width / 8)).2 with | .ok (_, ps) => !ps.any id | .error _ => false) = true) ∧
    (let s := (stripped 0x7F800003FFF0).setPoison (scratchPa 0 0x3FFE0) true
     let t := (s.ctx 0).strip 3
     (match (s.engRead (t.eng 0 3) (t.addr 3) (t.width / 8)).2 with | .ok (_, ps) => ps.any id | .error _ => false) = true) ∧
    (let c := (stripped 0x7F800003FFF0).c0 (fun c => { c with vpoison := [(31, 0#64, 0)] } |>.setStrip 3
       { aStrip 0x7F800003FFF0 with sew := 3, count := 4, stride := 8, landed := [1], data := [(2, 7)], bad := [3] })
     let t := (c.ctx 0).strip 3
     t.v = true ∧ t.sew ≤ 3 ∧ t.regs.1 ≤ 31 ∧ 31 < t.regs.1 + t.regs.2 ∧ t.groups ≠ [] ∧ t.cutAt = 0) ∧
    ((stripped 0x7F800003FFF0).ctx 0).vpoison = [] ∧ (vecBase.ctx 0).vl ≠ 0 ∧
    ((vecBase.c0 (fun c => { c with vl := 0 })).ctx 0).vl = 0 ∧
    (let c := (vecBase.c0 (fun c => { c with vl := 0, vstart := 1#64 })).ctx 0
     c.vl = 0 ∧ c.seq = [] ∧ c.vstart ≠ 0#64) ∧
    (let s := stripped 0x200000000000
     let t := (s.ctx 0).strip 3
     t.groups = 0 :: [] ∧ ((s.landElems 0 3 t (t.groupElems 0)).2.map (fun x => decide (x.2 ≠ .later))) = some true) := by
  decide +kernel

/-! ### Witnesses: tasks -/

/-- A record of a kind on stream 63. -/
def aRecord (kind : Nat) (l : List (Nat × Nat × Nat)) : List Byte := fieldBytes 128 ([(0, 1, kind), (1, 1, 63)] ++ l)
/-- A thread with weight and a record at an offset of its scratchpad. -/
def putter (b : List Byte) : State := (ownBytes 64 b).c0 (fun c => { c with uweight := 2#64 })
/-- Cluster 0 with a record in window entry 511. -/
def tasked (t : Task) : State := base.k0 (fun c => { c with tasks := c.tasks.put 511 t, taskSeq := 1 })
/-- tasked with the handle of the record in x6. -/
def handled (t : Task) : State := State.x0 (tasked t) 6 (w64 (t.handle 0 511))
/-- A record in a state, of a kind, issued from HBM as M-mode. -/
def aTask (st : TaskSt) (b : List Byte) : Task := { st := st, bytes := b, weight := 3, ident := mIdent, place := windowSize }

theorem witness_TaskInstructions :
    ((atOwn 32).xr 6#5).toNat % 64 ≠ 0 ∧
    ([(aRecord 4 [], none), (aRecord 6 [], some 1)].all (fun p =>
      let s := putter p.1
      s.running 0 && (s.xr 6#5).toNat % 64 == 0 && !(s.ctx 0).queuedMem true true &&
      okIs (loadBytes (s.xr 6#5) 128 s.begun) (fun bs u => okIs (probeSig (recSig bs) u) (fun _ v =>
        decide (2 ≤ (u.ctx 0).uweight.toNat) && recKind bs != 2 && decide (v.ctx 0 = u.ctx 0) &&
        v.recRefusal 0 (v.ctx 0).asid bs (footprints bs 0) == p.2 && (v.freeEntry 0).isSome &&
        v.performed 0 true true 2))) = true) ∧
    (let s := (putter (aRecord 4 [])).c0 (fun c => { c with uweight := 1#64 })
     okIs (loadBytes (s.xr 6#5) 128 s.begun) (fun _ u => decide ((u.ctx 0).uweight.toNat < 2)) = true) ∧
    ([(5, 0), (4, 4096)].all (fun p =>
      let s := (putter (aRecord 2 [(0x78, 4, p.1 / 2)])).c0 (fun c => { c with uweight := 4#64, ulaunch := w64 p.2 })
      okIs (loadBytes (s.xr 6#5) 128 s.begun) (fun bs u => recKind bs == 2 && decide (recN bs ≤ (u.ctx 0).uweight.toNat / 2) &&
        (decide (4096 ≤ (u.ctx 0).ulaunch.toNat) == (p.2 == 4096)))) = true) ∧
    base.taskOf 0 0x800000000000#64 = none ∧
    (let s := handled { aTask .running (aRecord 4 []) with st := .running }
     s.taskOf (s.ctx 0).asid (s.xr 6#5) = some (0, 511) ∧ (s.task 0 511).live = true ∧
     (match killTask 0 511 .cancelled 9 s.begun with | .ok _ _ => true | .error _ _ => false) = true) ∧
    (let s := handled { aTask .done (aRecord 4 []) with retired := true }
     s.taskOf (s.ctx 0).asid (s.xr 6#5) = some (0, 511) ∧ (s.task 0 511).live = false ∧ (s.task 0 511).retired = true ∧
     (s.task 0 511).st = .done) ∧
    ((base.cluster 0).tasks.ents = [] ∧ (base.slot 0).wait = none) ∧
    (let s := tasked (aTask .running (aRecord 4 []))
     (s.cluster 0).tasks.ents = [(511, aTask .running (aRecord 4 []))] ∧ (aTask .running (aRecord 4 [])).held = true ∧
     (aTask .running (aRecord 4 [])).ident.asid = (s.ctx 0).asid ∧ (aTask .running (aRecord 4 [])).seq < (s.cluster 0).taskSeq ∧
     recStream (aTask .running (aRecord 4 [])).bytes = 63) ∧
    (((base.marked .fence 0 191).slot 0).wait.map (fun m => (m.a, m.b))) = some (0, 191) ∧
    (base.streamCount 0 63 = 0 ∧
     (let s := tasked { aTask .running (aRecord 4 []) with seq := 0 }
      let u := s.modStream 0 63 (fun x => { x with asid := 1 })
      u.streamCount 0 63 ≠ 0 ∧ (u.stream 0 63).asid ≠ (u.ctx 0).asid)) := by decide +kernel

/-- A tile task over the own scratchpad of its issuer. -/
def tileRec : List Byte := aRecord 0 [(0x50, 8, 0x7F8000000000), (0x58, 8, 0x7F8000010000), (0x60, 8, 0x7F8000020000)]
/-- A running spawn of one child, and a running transfer of one row of a page. -/
def spawnRec : List Byte := aRecord 2 [(0x50, 8, 0x1000), (0x78, 4, 1)]
def moveRec : List Byte := aRecord 1 [(0x60, 4, 4096)]

theorem witness_HerderEvents :
    (let s := tasked (aTask .pooled (aRecord 4 []))
     s.nextTask 0 (List.range 6) = some (511, 0) ∧ recKind (s.task 0 511).bytes = 4 ∧ recKind (aRecord 4 []) < 6 ∧
     s.freeEngine 0 4 = some 0 ∧ (s.cluster 0).tasks = ⟨[(511, aTask .pooled (aRecord 4 []))]⟩) ∧
    ([(spawnRec, 2), (moveRec, 1)].all (fun p =>
      let s := tasked (aTask .pooled p.1)
      (s.nextTask 0 (List.range 6)).map (·.1) == some 511 && recKind (s.task 0 511).bytes == p.2) = true) ∧
    (let s := tasked (aTask .pooled tileRec)
     s.nextTask 0 (List.range 6) = some (511, 0) ∧ (s.startRecord 0 511 0).isSome = true ∧ (match startTile 0 511 0 s with | .ok _ _ => true | .error _ _ => false) = true) ∧
    (let s := tasked (aTask .pooled (aRecord 3 []))
     (s.nextTask 0 (List.range 6)).map (·.1) = some 511 ∧ (match startBeam 0 511 0 s with | .ok _ _ => true | .error _ _ => false) = true) ∧
    (let s := tasked (aTask .pooled (aRecord 5 []))
     (s.nextTask 0 (List.range 6)).map (·.1) = some 511 ∧ (match startFnt 0 511 s with | .ok _ _ => true | .error _ _ => false) = true) ∧
    (let s := ((tasked (aTask .pooled tileRec)).k0 (·.setSeg 0 0 { val := 0#64, next := some 0x40#64 })).modTask 0 5
       (fun _ => { aTask .pooled (aRecord 4 []) with seq := 7 })
     s.nextTask 0 (List.range 6) = some (511, 0) ∧ (s.startRecord 0 511 0).isNone = true ∧ recKind (s.task 0 511).bytes = 0 ∧
     (s.nextTask 0 ((List.range 6).filter (· ≠ 0))) = some (5, 0) ∧ (s.startRecord 0 5 0).isSome = true) ∧
    (let s := base.k0 (fun c => { c with tasks := ⟨[(4, { aTask .pooled (aRecord 4 []) with seq := 9 }), (5, aTask .pooled (aRecord 4 []))]⟩ })
     s.nextTask 0 (List.range 6) = some (5, 0)) ∧
    ((aTask .pooled (aRecord 4 [(2, 1, 2)])).effective < 3) ∧
    (let t := aTask .running spawnRec
     t.st = .running ∧ recKind t.bytes = 2 ∧ t.sent < recN t.bytes ∧ numAt t.bytes 0x7C 4 = 0) ∧
    (let s := tasked (aTask .running moveRec)
     (xferPieces (s.task 0 511).bytes)[(s.task 0 511).sent]? = some (0, 0, 4096) ∧ (s.cluster 0).engFail = []) ∧
    (let s := tasked { aTask .running moveRec with sent := (xferPieces moveRec).length }
     s.engineDone 0 511 = true) ∧
    (let s := (tasked (aTask .running (aRecord 4 []))).k0 (fun c => { c with engFail := [(511, 11)] })
     (s.cluster 0).engFail = [(511, 11)] ∧
     (match killTask 0 511 .failed 11 (s.k0 (fun c => { c with engFail := [] })) with | .ok _ _ => true | .error _ _ => false) = true) ∧
    (let s := tasked { aTask .running moveRec with sent := (xferPieces moveRec).length }
     s.engineDone 0 511 = true ∧
     (match killTask 0 511 .cancelled 9 s with | .ok _ v => (v.task 0 511).st == .done | .error _ _ => false) = true) ∧
    ([[(511, 1)], []].all (fun l =>
      let s := (tasked (aTask .running moveRec)).k0 (fun c => { c with engFail := l })
      recKind (s.task 0 511).bytes == 1 && (s.cluster 0).engFail == l && !s.engineDone 0 511 &&
      (match killTask 0 511 .cancelled 9 s with
       | .ok _ v => (v.task 0 511).st == (if l.isEmpty then .cancelled else .failed) && (v.task 0 511).reason == (if l.isEmpty then 9 else 1)
       | .error _ _ => false)) = true) ∧
    (let t := { aTask .cancelled spawnRec with weight := 3, passed := 2 }
     t.lostW = false ∧ recKind t.bytes = 2 ∧ t.returns = 1) ∧
    (let s := (tasked (aTask .running (aRecord 4 []))).modTask 0 0 (fun _ => { aTask .blocked (aRecord 4 []) with preds := [511] })
     (s.task 0 0).st = .blocked ∧ (s.task 0 0).preds = [511] ∧ 0 ≠ 511) ∧
    (let s := tasked (aTask .done (aRecord 4 []))
     (s.task 0 511).st = .done ∧ (s.task 0 511).retired = false ∧ s.taskPieces 0 511 = false ∧
     recKind (s.task 0 511).bytes = 4 ∧ recSig (s.task 0 511).bytes = 0 ∧ (s.task 0 511).lostW = false ∧
     (s.task 0 511).weight ≠ 0) := by decide +kernel

/-! ### Witnesses: frontier launches -/

/-- A frontier descriptor of one dimension with an extent, its header 0x100 further on, its array in HBM. -/
def aFnt (ext : Nat) : List Byte :=
  fieldBytes 64 [(0, 1, 1), (1, 1, 1), (2, 2, 256), (4, 4, ext), (16, 1, 1), (0x20, 8, 2 ^ 39), (0x28, 8, 0x7F8000000140),
                 (0x30, 8, 0x20000)]
/-- Its kernel header. -/
def aFntHeader : List Byte :=
  fieldBytes 96 [(0, 4, 0x4B5A4B48), (4, 2, 1), (6, 1, 3), (7, 1, 1), (8, 1, 1), (12, 1, 1), (0x20, 8, 64), (0x30, 8, 96)]
/-- A frontier record of a magic number with one run of one line of a count. -/
def aFntRec (magic count : Nat) : List Byte :=
  fieldBytes 40 [(0, 4, magic), (4, 2, 1), (6, 1, 1), (8, 8, 1), (0x10, 4, 1), (0x20, 4, count), (0x24, 4, 1)]
/-- A thread with weight, the descriptor at x6 and the record at x7. -/
def fntThread (ext magic count : Nat) : State :=
  State.x0 ({ ownBytes 64 (aFnt ext) with
    mem := Memory.writeN (Memory.writeN (Memory.writeN [] (scratchPa 0 64) (aFnt ext)) (scratchPa 0 0x140) aFntHeader)
      (scratchPa 0 0x200) (aFntRec magic count) }.c0 (fun c => { c with uweight := 2#64 })) 7 0x7F8000000200#64
/-- What the thread gives the frontier launch. -/
def fntParty (w : State) : FntParty :=
  let c := w.ctx 0
  { ident := identOf c c.priv 0, satp := c.satp, cls := none, launch := wfld c.ulaunch 15 0, g := 0, weight := c.uweight.toNat / 2 }
/-- A computation of an engine ends well. -/
def emOk {α : Type} (m : EM α) (s : State) : Bool := match m s with | .ok _ _ => true | .error _ _ => false

/-- A band of two positions in a state, as entry 3 of cluster 0, with its handle in x6. -/
def aTrk (st : FntSt) : Trk :=
  { gen := 1, st := st, bands := [(0, 3)], ndim := 1, infl := 256, ext := [2], vecs := [[1, 0, 0]], array := 0x20000, ident := mIdent,
    weight := 2, hi := 1, held := Tab.empty.put 0 {} }
def tracked (t : Trk) : State := State.x0 (base.modTrk 0 3 (fun _ => t)) 6 (w64 (t.handle 0 3))

theorem witness_FrontierInstructions :
    (((atOwn 32).xr 6#5).toNat % 64 ≠ 0 ∧ ((atOwn 4).xr 6#5).toNat % 8 ≠ 0) ∧
    ([(2, none), (2 ^ 32 - 1, none)].all (fun (p : Nat × Option Nat) =>
      let s := fntThread p.1 0x4B5A464E 0
      s.running 0 && (s.xr 6#5).toNat % 64 == 0 && (s.xr 7#5).toNat % 8 == 0 && !(s.ctx 0).queuedMem true true &&
      okIs (loadBytes (s.xr 6#5) 64 s.begun) (fun bs u =>
        let k := fntDesc bs
        okIs (loadBytes (w64 k.khdr) 96 u) (fun hb v => decide (2 ≤ (v.ctx 0).uweight.toNat) &&
          okIs (probeSig k.sig v) (fun _ w => decide (w.ctx 0 = v.ctx 0) && w.performed 0 true true 2 &&
            w.fntRefusal k (headerOf k.khdr hb) (w.ctx 0).ulaunch.toNat == p.2 &&
            (match headerOf k.khdr hb with
             | some hd => emOk (fntAccept k hd {} (fntParty w)) w
             | none => false))))) = true) ∧
    (let s := (fntThread 2 0x4B5A464E 0).c0 (fun c => { c with ulaunch := 4096#64 })
     okIs (loadBytes (s.xr 6#5) 64 s.begun) (fun bs u =>
       okIs (loadBytes (w64 (fntDesc bs).khdr) 96 u) (fun hb v =>
         v.fntRefusal (fntDesc bs) (headerOf (fntDesc bs).khdr hb) (v.ctx 0).ulaunch.toNat == some 5)) = true) ∧
    ([(0, 0, true, true), (0x4B5A464E, 3, false, false), (0x4B5A464E, 2, false, true)].all (fun (p : Nat × Nat × Bool × Bool) =>
      let s := fntThread 2 p.1 p.2.1
      okIs (loadBytes (s.xr 6#5) 64 s.begun) (fun bs u =>
        let k := fntDesc bs
        okIs (loadBytes (w64 k.khdr) 96 u) (fun hb v =>
          okIs (loadBytes (v.xr 7#5) 32 v) (fun rh y => decide (2 ≤ (y.ctx 0).uweight.toNat) &&
            okIs (probeSig k.sig y) (fun _ w => decide (w.ctx 0 = y.ctx 0) && fntHeaderBad k rh == p.2.2.1 &&
              (p.2.2.1 ||
                let n := fntLen (numAt rh 0x10 4) (numAt rh 0x14 4) (numAt rh 0x18 4)
                decide (n ≤ 32 + 24 * k.lines + 80 * 256 * k.nb) &&
                okIs (loadBytes (v.xr 7#5) n w) (fun rb z =>
                  let body := fntBody (numAt rh 0x10 4) (numAt rh 0x14 4) (numAt rh 0x18 4) (rb.drop 32)
                  body.ok k == p.2.2.2 && z.performed 0 true true 2 &&
                  (match headerOf k.khdr hb with
                   | some hd => emOk (fntAccept k hd body (fntParty z)) z
                   | none => false)))))))) = true) ∧
    base.fntOf 0 0#64 = none ∧
    (let s := State.x0 (tracked { aTrk .running with held := Tab.empty.put 0 { fired := 1#64 } }) 7 0#64
     s.fntOf (s.ctx 0).asid (s.xr 6#5) = some (0, 3) ∧ (s.trk 0 3).launch = wfld (s.ctx 0).ulaunch 15 0 ∧
     (s.trk 0 3).ended = false ∧ (s.trk 0 3).owns (wfld (s.xr 7#5) 63 32) = true ∧
     (s.trk 0 3).held.look 0 = some { fired := 1#64 } ∧ ({ fired := 1#64 } : Line).inFlight 0 = true ∧
     ({ fired := 1#64 } : Line).inFlight 63 = false ∧ emOk (fntPoint 0 3 0 0) s.begun = true ∧
     s.fntState (s.trk 0 3) = .running ∧ s.performed 0 true true 2 = true ∧
     emOk (fntKill (s.trk 0 3) .cancelled 3) s.begun = true) ∧
    ([FntSt.complete, .failed, .cancelled, .saved].all (fun st =>
      let s := tracked { aTrk st with ended := true }
      s.fntOf 0 (s.xr 6#5) == some (0, 3) && s.fntState (s.trk 0 3) == st && (s.trk 0 3).ended) = true) ∧
    (tracked (aTrk .stopping)).fntState ((tracked (aTrk .stopping)).trk 0 3) = .stopping ∧
    (let s := State.x0 (tracked (aTrk .stopped)) 7 0x7F8000000400#64
     s.fntState (s.trk 0 3) = .stopped ∧ (s.slot 0).wait.map (·.kind) ≠ some .posted ∧ (s.xr 7#5).toNat % 8 = 0 ∧
     (match saveBody s.begun (s.trk 0 3) s.begun with
      | .ok body u => decide ((u.slot 0).wait = (s.slot 0).wait) &&
          okIs ((storeEach (pageParts (s.xr 7#5 + 32#64) body.bytes.length ++ pageParts (s.xr 7#5) 32)
            (body.bytes ++ body.header (s.trk 0 3).ndim (spaceLines (s.trk 0 3).ndim (s.trk 0 3).ext)) >>= fun _ =>
              setWait (some { kind := .posted })) u) (fun _ w => w.performed 0 true true 2)
      | .error _ _ => false) = true) ∧
    (let s := (tracked (aTrk .stopped)).marked .posted 0 0
     s.fntState (s.trk 0 3) = .stopped ∧ (s.slot 0).wait.map (·.kind) = some .posted ∧
     (match saveBody s.begun (s.trk 0 3) s.begun with
      | .ok _ u => u.performed 0 true true 2 && (u.slot 0).wait.map (·.kind) == some .posted
      | .error _ _ => false) = true) ∧
    (let s := tracked { aTrk .stopped with array := 0x200000000000, held := Tab.empty }
     s.fntState (s.trk 0 3) = .stopped ∧ (match saveBody s.begun (s.trk 0 3) s.begun with
       | .ok _ _ => false
       | .error f u => decide (f ≠ .later) && emOk (fntFail (s.trk 0 3) f.fnt f.block) u) = true) := by decide +kernel

theorem witness_FrontierEvents :
    (match fireBand 0 3 (tracked (aTrk .running)) with | .ok b _ => b | .error _ _ => false) = true ∧
    (let t := aTrk .running
     let s := tracked t
     s.trk 0 3 = t ∧ t.ended = false ∧ s.fntState t = .running ∧ t.inFlight < t.infl ∧ t.ndim = 1 ∧ t.lo = 0 ∧ t.hi = 1 ∧
     t.held.look 0 = some {} ∧ ({} : Line).count < t.last ∧ t.vecs = [[1, 0, 0]] ∧ t.ext = [t.last] ∧ 2 ≤ t.weight) ∧
    ([[(0, 3)], [(0, 3), (39, 3)]].all (fun b =>
      let t := { aTrk .running with outbox := [(0, 1)], bands := b }
      let s := tracked t
      (s.trk 0 3).outbox == (0, 1) :: [] && emOk (writeCount (t.eng 0) t 0 1) s) = true) ∧
    (({ aTrk .running with inbox := [(0, 1)] } : Trk).inbox = (0, 1) :: []) ∧
    (({ aTrk .running with ghost := Tab.empty.put 7 2 } : Trk).ghost.look 7 = some 2) ∧
    (let t := { aTrk .stopping with held := Tab.empty.put 0 { fired := 1#64 } }
     let s := tracked { t with withdrawn := [t.record 0 3 0 0] }
     (s.trk 0 3).ended = false ∧ (s.trk 0 3).first = (0, 3) ∧ (s.trk 0 3).st = .stopping ∧ (s.trk 0 3).flying = [(0, 0)] ∧
     (s.trk 0 3).bands.all (fun b => decide ((s.trk b.1 b.2).outbox = []) &&
       (s.trk b.1 b.2).flying.all (fun q => (s.trk b.1 b.2).withdrawn.any (fun r => pointOf r == q))) = true) ∧
    (let s := tracked { aTrk .running with array := 0x200000000000, held := Tab.empty }
     (s.trk 0 3).gen ≠ 0 ∧ (match fireBand 0 3 s with | .ok _ _ => false | .error f _ => decide (f ≠ .later)) = true ∧
     emOk (fntFail (s.trk 0 3) 1 none) s = true) ∧
    (let s := tracked { aTrk .running with array := 0x200000000000, outbox := [(0, 1)], bands := [(0, 3), (39, 3)], infl := 0 }
     (s.trk 0 3).ended = false ∧ (match fireBand 0 3 s with
       | .ok _ w => (match sendBoundary 0 3 w with | .ok _ _ => false | .error f _ => decide (f ≠ .later))
       | .error _ _ => false) = true) ∧
    ({} : Line).comp = 0#64 ∧ (0 < 63 ∧ 63 < 64) := by decide +kernel

/-! ### Witnesses: beam queries -/

/-- The block of a closest-hit ray query. -/
def rayBlock : List Byte :=
  fieldBytes 128 [(0x14, 4, 0x3F800000), (0x44, 4, 0x3F800000), (0x48, 8, 2 ^ 48 + 0x20000), (0x50, 8, 0x30000), (0x70, 4, 1)]
/-- The block of a frustum of 2 by 2 rays. -/
def frustBlock : List Byte := fieldBytes 128 [(0, 4, 0x20101), (0x44, 4, 0x3F800000), (0x75, 1, 2)]
/-- A query in a state with a block at 0x80. -/
def aQry (st : QrySt) (b : List Byte) : Qry :=
  { gen := 1, st := st, block := b, addr := 0x80, spilln := 1, ident := mIdent, weight := 2 }
/-- base with a query in slot 63 of cluster 0, its handle in x6. -/
def queried (q : Qry) : State := State.x0 (base.modQry 0 63 (fun _ => q)) 6 (w64 (q.handle 0 63))
/-- An item over a rectangle at a node. -/
def anItem (r : Rect) : Item := { beam := frustBlock.take 64, node := 2 ^ 48 + 0x20000, sub := r.sub }
/-- queried with a record of an item at x6. -/
def recorded (q : Qry) (r : Rect) : State :=
  let o := ownBytes 0x80 (q.recordOf 0 63 (anItem r))
  o.modQry 0 63 (fun _ => q)
/-- Items enough to fill the stack. -/
def fullStack (q : Qry) : Qry := { q with spilln := 0, stack := List.replicate 32 (anItem ⟨0, 0, 1, 1⟩) }

/-- A Faulted query whose block is in the own scratchpad of core 0. -/
def faultedQry : State :=
  let q := { aQry .faulted frustBlock with addr := 0x7F8000000080 }
  { queried q with mem := Memory.writeN [] (scratchPa 0 0x80) q.block }

theorem witness_BeamQueries :
    ((atOwn 64).xr 6#5).toNat % 128 ≠ 0 ∧
    ([(rayBlock, none), (frustBlock, some 4)].all (fun (p : List Byte × Option Nat) =>
      let s := (ownBytes 0x80 p.1).c0 (fun c => { c with uweight := 2#64 })
      s.running 0 && (s.xr 6#5).toNat % 128 == 0 && !(s.ctx 0).queuedMem true true &&
      okIs (loadBytes (s.xr 6#5) 128 s.begun) (fun bs u => decide (2 ≤ (u.ctx 0).uweight.toNat) && numAt bs 0x74 1 == 0 &&
        okIs (probeSig (blkSig bs) u) (fun _ v => blkRefusal bs == p.2 && v.freeQry 0 == some 0 &&
          v.performed 0 true true 2))) = true) ∧
    base.qryOf 0 0 = none ∧
    ([QrySt.complete, .failed, .cancelled, .running, .faulted].all (fun st =>
      let s := (queried (aQry st rayBlock)).marked .beam 0 0
      s.qryOf (s.ctx 0).asid (s.xr 6#5).toNat == some (0, 63) && (s.qry 0 63).st == st &&
      (s.slot 0).wait.map (·.kind) == some .beam && emOk (qryEnd 0 63 .cancelled 0 orSignal) s.begun) = true) ∧
    ((faultedQry.qry 0 63).st = .faulted ∧ (faultedQry.slot 0).wait = none ∧
     (match restartQry 0 63 faultedQry.begun with | .ok _ w => (w.qry 0 63).st == .running | .error _ _ => false) = true) ∧
    ((aQry .running frustBlock).slotOf 0x7F8000000080 = none ∧
     ({ aQry .running frustBlock with block := fieldBytes 128 [(0x60, 8, 0x80)], out := [0] }).slotOf 0x80 = some 0) ∧
    (let s := ownBytes 0x80 frustBlock
     okIs (loadBytes (s.xr 6#5) 128 s.begun) (fun bs u => u.qryOf 0 (numAt bs 0x50 8) == none) = true) ∧
    ([(aQry .running frustBlock, (⟨0, 0, 2, 2⟩ : Rect), false, true), (fullStack (aQry .running frustBlock), ⟨0, 0, 2, 2⟩, false, false),
      (aQry .running frustBlock, ⟨1, 1, 1, 1⟩, true, true)].all (fun (p : Qry × Rect × Bool × Bool) =>
      let s := recorded p.1 p.2.1
      okIs (loadBytes (s.xr 6#5) 128 s.begun) (fun bs u =>
        let q := u.qry 0 63
        let ch := q.children (itemOf bs)
        u.qryOf 0 (numAt bs 0x50 8) == some (0, 63) && q.active && q.recordOk bs && numAt bs 0x58 8 == q.addr &&
        q.unsplittable (itemOf bs) == p.2.2.1 && q.room (ch.length - 1) == p.2.2.2 && q.room 1 == p.2.2.2 && u.performed 0 true true 2 &&
        q.todo.isEmpty &&
        okIs (storeBytes (s.xr 6#5) (q.recordOf 0 63 (ch.headD default)) u) (fun _ v => emOk (handOver 0 63 (ch.drop 1)) v))) = true) ∧
    ((0x1#64).getLsbD 0 = true ∧ (0x1#64).getLsbD 1 = false) ∧
    (let s := queried { aQry .running frustBlock with todo := [anItem ⟨0, 0, 1, 1⟩] }
     (s.qry 0 63).st = .running ∧ (s.qry 0 63).todo ≠ []) ∧
    (let s := queried { aQry .running frustBlock with stack := [anItem ⟨0, 0, 1, 1⟩] }
     (s.qry 0 63).owe = 0 ∧ (s.qry 0 63).todo = [] ∧
     (match itemStep 0 63 s with | .ok b _ => b | .error _ _ => false) = true) ∧
    (let s := queried { aQry .running frustBlock with item := some { anItem ⟨0, 0, 1, 1⟩ with node := 2 ^ 48 + 0x200000000000 } }
     (match itemStep 0 63 s with
      | .ok _ _ => false
      | .error e u => emOk (qryErr 0 63 e) (s.keepErrs u)) = true ∧ (s.qry 0 63).owe = 0 ∧ (s.qry 0 63).todo = [] ∧
     (s.qry 0 63).task = none) ∧
    (let s := queried { aQry .faulted frustBlock with owe := 1 }
     (s.qry 0 63).st = .faulted ∧ 0 < (s.qry 0 63).owe ∧ (match spawnResidual 0 63 s with | .ok _ _ => true | .error _ _ => false) = true) ∧
    (let q := { aQry .running frustBlock with blocked := [(0, 0)] }
     (0, 0) ∈ q.blocked ∧ (aQry .running frustBlock).coverage = 1) ∧
    (let q := aQry .running frustBlock
     q.item = none ∧ q.stack = [] ∧ q.spill = [] ∧ q.out = [] ∧ blkMode q.block ≠ 2 ∧ blkSig q.block = 0 ∧ q.task = none) := by
  decide +kernel

/-! ### Witnesses: system instructions and the Kennel -/

/-- The PMP of a slot lets every access through. -/
def pmpOpen (t : Slot) : Slot := { t with pmpcfg := Tab.empty.put 0 0x1F#8, pmpaddr := Tab.empty.put 0 0x3FFFFFFFFFFFFF#64 }
/-- kenned, with skennel and the contexts of slots 0 and 7. -/
def kennel (st : KenState) (sk : Word) : State :=
  ((kenned st).modSlot 0 (fun t => { pmpOpen t with skennel := sk })).modSlot 7 (fun t => { t with ctx := some {} })
/-- An image's header with flags. -/
def aImage (flags : Nat) : List Byte := fieldBytes 64 [(0, 4, imageMagic), (4, 2, 1), (6, 2, 64), (8, 8, flags)]

theorem witness_SystemInstructions :
    ((base.mode .u).running 0 = true ∧ ((base.mode .u).ctx 0).priv = .u) ∧
    ([KenState.empty, .parked, .ready].all (fun st =>
      let s := kennel st 0x71F#64
      s.running 0 && (s.ctx 0).priv != .u && ((s.core 0).ken 31).st.swaps && s.cur.gcore * 8 + wfld 0x71F#64 10 8 == 7 &&
      s.movable 7) = true) ∧
    (let s := kennel .parked 0x81F#64
     ((s.core 0).ken 31).st.swaps = true ∧ s.cur.gcore * 8 + wfld (s.slot 0).skennel 10 8 = s.cur ∧ s.movable 0 = true) ∧
    (let s := kennel .loading 0x81F#64
     ((s.core 0).ken 31).st.swaps = false ∧ ((s.core 0).ken 31).st.busy = true ∧ wbit (s.slot 0).skennel 13 = false) ∧
    (wbit 0x201F#64 13 = true ∧ wfld 0x201F#64 10 8 = 0 ∧ wfld 0x271F#64 10 8 = 7 ∧ wfld 0x261F#64 10 8 = 6 ∧
      ((kennel .empty 0x261F#64).slot 6).ctx = none ∧ ((kennel .empty 0x271F#64).slot 7).ctx = some {} ∧
      (((kennel .empty 0x271F#64).core 0).ken 31).st = .empty) ∧
    (let s := kennel .parked 0x271F#64
     (s.slot 7).ctx.isSome = true ∧ ((s.core 0).ken 31).st ≠ .empty ∧ ((s.core 0).ken 31).st.busy = false ∧
     (((kennel .loading 0x271F#64).core 0).ken 31).st.busy = true) ∧
    ((((kennel .stalled 0x1F#64).core 0).ken 31).st = .stalled ∧ wbit 0x1F#64 13 = false ∧
      (((kennel .ready 0x1F#64).core 0).ken 31).st = .ready) ∧
    (let s := { kennel .empty 0x271F#64 with acks := [{ hart := 7, addr := 0x1000 }] }
     s.movable 7 = false ∧ (s.slot 7).ctx.isSome = true) ∧
    ((atOwn 32).xr 6#5).toNat % 64 ≠ 0 ∧
    ([(aImage 0, true, 0), (aImage 0xFF, true, 8), (aImage 0x8000, false, 0)].all (fun (p : List Byte × Bool × Nat) =>
      let s := (ownBytes 64 p.1).k0 (·.setSeg 0 0 { val := 0x40#64 })
      (s.xr 6#5).toNat % 64 == 0 && !(s.ctx 0).queuedMem true true &&
      okIs (loadHeader (s.xr 6#5) s.begun) (fun bs u => headerOk bs == p.2.1 && (bitsOf8 (numAt bs 8 1)).length == p.2.2 &&
        ((u.core 0).ken 31).st == .empty && (u.core 0).freeAccs.length == 8)) = true) ∧
    (((base.core 0).setAcc 7 { st := .taskHeld }).freeAccs.length < (bitsOf8 0xFF).length) ∧
    (wfld ((State.x0 base 6 63#64).xr 6#5) 5 0 = 63 ∧ wfld (base.xr 6#5) 5 0 = 0) ∧
    ((base.marked .rankMoved 0 0).slot 0).wait.map (·.kind) = some .rankMoved ∧
    (wfld 66#64 6 0 = 66 ∧ (base.spareMask 0).testBit 63 = false ∧ wfld 63#64 6 0 < 66) ∧
    (wfld 65#64 6 0 = 65 ∧ (base.spareMask 0).testBit 65 = true ∧ (base.cluster 0).moving = none) ∧
    (down (0xFFFFFFFFF0#64).toNat 16 + 16 * wfld 1#64 31 0 ≤ 0x10000000000) ∧ base.performed 0 false true 2 = true ∧
    (let s := atOwn 0x3FFFF
     okIs (translate .store (s.xr 6#5) (s.xr 6#5) 1 s.begun) (fun _ _ => true) = true) := by decide +kernel

/-- kennel with entry 31 in a state, its image at an address; segment 4 of core 0 belongs to address space 0. -/
def imaged (st : KenState) (a : Nat) : State := ((kennel st 0#64).k0 (·.setSeg 0 4 { val := 0x40#64 })).g0 (fun c => c.setKen 31
  { st := st, ctx := some { ssavea := w64 a }, image := a, by_ := 0, off := imageFixed - 64, vlenb := 16 })

theorem witness_KennelEvents_save :
    (let s := imaged .saving 0x7F8000010000
     s.saving 0 31 = true ∧ (s.runSave 0 31).2.isNone = true) ∧
    (let s := imaged .saving 0x200000000000
     s.saving 0 31 = true ∧ ((s.core 0).ken 31).by_ / 8 = 0 ∧
     (match (s.runSave 0 31).2 with
      | some (_, f) => decide (f ≠ .later)
      | none => false) = true ∧
     ((s.runSave 0 31).1.core 0).ken 31 = (s.core 0).ken 31) := by decide +kernel

theorem witness_KennelEvents :
    (let s := imaged .loading 0x7F8000010000
     ((s.core 0).ken 31).st = .loading ∧ (match (s.runLoad 0 31).2 with | .ok _ => true | .error _ => false) = true) ∧
    (let s := imaged .loading 0x200000000000
     (match (s.runLoad 0 31).2 with | .ok _ => false | .error (_, f) => decide (f = .page ∨ f = .access)) = true) ∧
    (let s := (imaged .loading 0x7F8000010000).setPoison (scratchPa 0 0x10000) true
     (match (s.runLoad 0 31).2 with | .ok _ => false | .error (_, f) => f.isPoison) = true) ∧
    (let s := base.modCore 63 (fun k => { k with halted := true })
     (s.core 63).halted = true ∧ (s.core 63).quiet = false ∧ s.aimed 63 anyTime = false) ∧
    (let m : Move := { rank := 63, target := 65, retire := true, wasHalted := false, by_ := 0 }
     let s := (base.marked .rankMove 0 0).k0 (fun c => { c with moving := some m, ranks := c.ranks.put 63 { phys := 63, transit := true } })
     (s.cluster 0).moving = some m ∧ s.moveReady 63 = true ∧ (s.cluster 0).hold = [] ∧
     (s.slot m.by_).wait.map (·.kind) = some .rankMove) ∧
    (let s := base.modCore 63 (fun k => { k with
       impose := { next := 0x1000, left := 1, diverged := false, held := [aStore.sig 63] }, portq := [aStore] })
     (s.core 63).impose.left ≠ 0 ∧ (s.core 63).impose.held ≠ [] ∧ s.heldMatches 63 = false ∧ (s.servePort 63 [] (s.core 63).portq).isNone = true) := by decide +kernel

/-- A target of 66 or above, and one that is no spare, trap with codes 2 and 3 (R219). -/
theorem test_rankset_traps : ([66#64, 63#64].map (fun v => nextIs
    (exec (.sysRankset 7#5 6#5 5#5) (State.x0 (State.x0 base 6 63#64) 7 v))
    (fun t => (t.slot 0).mcause == 30#64 && (t.slot 0).mtval == (if v == 66#64 then 2#64 else 3#64)))) = [true, true] := by decide +kernel

/-! ### Witnesses: queues -/

/-- base with a queue as number 16383, its number in x6, a ring in HBM at 0x20000 with bytes of 1, x7 at the own scratchpad. -/
def ringed (x : Queue) : State :=
  State.x0 (State.x0 ({ base with mem := Memory.writeN [] 0x20000 (List.replicate 64 1#8) }.setQueue 16383 { x with base := 0x20000 })
    6 16383#64) 7 0x7F8000000000#64

theorem witness_QueueInstructions :
    ((atOwn 32).xr 6#5).toNat % 64 ≠ 0 ∧
    ([({ st := 1, push := true }, none), ({ st := 2, push := true }, some 3)].all (fun (p : Queue × Option Nat) =>
      let s := ringed p.1
      s.running 0 && (s.xr 7#5).toNat % 64 == 0 && !(s.ctx 0).queuedMem true true &&
      okIs (loadBytes (s.xr 7#5) 64 s.begun) (fun bs u =>
        pushRefusal (u.xr 6#5) (u.ctx 0).asid u == p.2 && u.performed 0 true true 2 &&
        (match writeE ((u.queue 16383).engOf 0 (base.ctx 0)) ((u.queue 16383).ring (u.queue 16383).wr) bs u with
         | .ok _ v => decide (v.queue 16383 = u.queue 16383)
         | .error _ _ => false))) = true) ∧
    ([({ st := 1, server := 1, wr := 1 }, none), ({ st := 1, server := 1 }, some 4)].all (fun (p : Queue × Option Nat) =>
      let s := ringed p.1
      okIs (translateParts .store (s.xr 7#5) (pageParts (s.xr 7#5) 64) s.begun) (fun ts u =>
        popRefusal (u.xr 6#5) (u.ctx 0).asid u == p.2 && looks (stallParts true ts) u &&
        (match readE { (u.queue 16383).engOf 0 (base.ctx 0) with fresh := true } ((u.queue 16383).ring (u.queue 16383).rd) 64 u with
         | .ok bs v => okIs (storeParts ts bs v) (fun _ _ => true)
         | .error _ _ => false))) = true) ∧
    (let s := ringed { st := 1, push := true, satp := pagedSatp }
     (match writeE ((s.queue 16383).engOf 0 (base.ctx 0)) ((s.queue 16383).ring (s.queue 16383).wr) (List.replicate 64 1#8) s with
      | .ok _ _ => false
      | .error f _ => decide (f ≠ EngFail.later)) = true) ∧
    (let s := ringed { st := 1, server := 1, wr := 1 }
     ([s.setPoison 0x20000 true, s.setQueue 16383 { s.queue 16383 with satp := pagedSatp }].all (fun s =>
       match readE { (s.queue 16383).engOf 0 (base.ctx 0) with fresh := true } ((s.queue 16383).ring (s.queue 16383).rd) 64 s with
       | .ok _ _ => false
       | .error f _ => decide (f ≠ EngFail.later)) = true)) ∧
    (let s := ringed { st := 1 }
     pushRefusal (s.xr 6#5) 0 s = some 2 ∧ popRefusal (s.xr 6#5) 0 s = some 2 ∧ pushRefusal 16384#64 0 s = some 1) ∧
    ((ringed { st := 1, push := true }).queue 16383).push = true ∧
    ((ringed { st := 1 }).queue 16383).notifyOk 0x100000 = false ∧
    (qNamed 16384#64 0 base = some 1 ∧ qNamed ((ringed { st := 1 }).xr 6#5) 0 (ringed { st := 1 }) = none ∧
      16383 < nQueues ∧ ((ringed { satp := pagedSatp }).queue 16383).asid ≠ 0) ∧
    (let s := State.x0 (ringed { st := 1, size := 12 }) 7 65536#64
     (s.queue 16383).push = false ∧ (s.queue 16383).st = qActive ∧ (s.queue 16383).notifyOk (wfld (s.xr 7#5) 31 0) = true ∧
     s.performed 0 true true 2 = true) ∧
    ((base.ctx 0).priv ≠ .u ∧ (base.slot 0).wait = none ∧ ((ringed {}).queue 16383).st = qDisabled ∧
      ((ringed { st := 2 }).queue 16383).st = qStopped ∧ ((base.marked .reset 0 1).slot 0).wait.map (·.b) = some 1 ∧
      ((ringed { st := 1 }).queue 16383).st = qActive ∧ ((ringed { st := 3 }).queue 16383).st = qResetting ∧
      ((base.marked .reset 0 0).slot 0).wait.map (·.b) = some 0) ∧
    ((base.mode .u).ctx 0).priv = .u := by decide +kernel

/-- The state in which the intake core has a command of queue 16383. -/
def commanded (b : List Byte) (poll : Bool) : State :=
  { ringed { st := 1 } with cmds := [{ q := 16383, bytes := b, poll := poll }] }

theorem witness_QueueRegistersAndCommands :
    (base.mayWrite (.control 1) none = true ∧ base.mayWrite (.host 0) none = false ∧ 16383 < nQueues) ∧
    (([({}, qDisabled), ({ st := 2 }, qStopped), ({ st := 1 }, qActive), ({ st := 3 }, qResetting)].all (fun (p : Queue × Nat) =>
      ((ringed p.1).queue 16383).st == p.2) = true) ∧ (0x1#64).getLsbD 0 = true ∧ (0x1#64).getLsbD 2 = false) ∧
    (let s := (ringed { st := 3 }).marked .reset 16383 0
     s.tagged 16383 = [] ∧ s.queueWorkEnded 16383 = true ∧ (s.slot 0).wait.map (fun w => (w.kind, w.a)) = some (.reset, 16383)) ∧
    (let s := { ringed { st := 1, wr := 1 } with mem := [] }
     s.allHeld < 64 ∧
     pickQueue (s.queues.ents.filter (fun e => s.intakeReady e.1 e.2)) (fun l => s.iptr.get 0 l) = some (0, 16383) ∧
     (match readE { (s.queue 16383).eng with fresh := true } ((s.queue 16383).ring (s.queue 16383).rd) 64 { s with iptr := s.iptr.put 0 (16384 % nQueues) } with
      | .ok bs u => decide (u.queue 16383 = s.queue 16383) && !cmdBad bs
      | .error _ _ => false) = true) ∧
    ((commanded (fieldBytes 64 []) false).cmds[0]? = some { q := 16383, bytes := fieldBytes 64 [] } ∧ cmdOp (fieldBytes 64 []) = 0) ∧
    ([(aLaunch 1, none), (aLaunch 0, some 4)].all (fun (p : List Byte × Option Nat) =>
      let b := fieldBytes 64 [(0, 1, 1), (0x10, 8, 0x30000)]
      let s := { commanded b false with mem := Memory.writeN [] 0x30000 p.1 }
      cmdOp b == 1 && (match readDescriptor (s.queue 16383).eng (cmdArg0 b) s with
        | .ok bs u => u.krnRefusal bs (s.queue 16383).asid == p.2
        | .error _ _ => false)) = true) ∧
    (let b := fieldBytes 64 [(0, 1, 2), (0x10, 8, 0x30000), (0x18, 8, 1)]
     let s := commanded b false
     cmdOp b = 2 ∧ (match (s.engAtomic (s.queue 16383).eng (cmdArg0 b) 8 (fun v => some ((v + cmdArg1 b) % 2 ^ 64))).2 with
       | .ok (_, p) => !p
       | .error _ => false) = true) ∧
    (let b := fieldBytes 64 [(0, 1, 3), (0x10, 8, 0x30000)]
     cmdOp b = 3 ∧ ([true, false].all (fun poll => emOk (readE ((commanded b poll).queue 16383).eng (cmdArg0 b) 8) (commanded b poll)) = true)) ∧
    (cmdSig (fieldBytes 64 []) = 0 ∧ (cmdFlags (fieldBytes 64 [])).testBit 1 = false) := by decide +kernel

/-! ### Witnesses: agents -/

/-- A binary32 number of a small integer. -/
def f32 (n : Nat) : Nat := if n = 0 then 0 else (binary32.roundRat 0 false n 0 1).1
/-- The triangle (0, 0), (n, 0), (0, n) in the scissor 0 to 16, its blocks to queue 16382. -/
def aTriangle (n : Nat) : List Byte :=
  fieldBytes 64 [(12, 4, f32 n), (28, 4, f32 n), (0x2C, 2, 16), (0x2E, 2, 16), (0x30, 2, 16382)]
/-- ringed with a record of an agent, and a queue 16382 that takes fragment blocks. -/
def agented (x : Queue) (r : AgentRec) : State :=
  { (ringed x).setQueue 16382 { st := 1, server := 1, push := true, base := 0x40000 } with agents := [r] }
/-- A slice's record. -/
def aSlice (b : List Byte) : AgentRec := { agent := { server := 2, place := 39 }, q := 16383, bytes := b, out := 16382 }
/-- A distributor's record of a draw of one triangle in HBM, for cluster 39. -/
def aDraw (step : Nat) : AgentRec :=
  { agent := { server := 4, place := 7 }, q := 16383, ticket := 9, step := step,
    bytes := fieldBytes 64 [(0, 8, 0x30000), (8, 4, 1), (0x0C, 2, 16382), (0x10, 8, 2 ^ 39)] }
/-- A blend unit's record of a target at 0x30000. -/
def aPixel (mask : Nat) : AgentRec :=
  { agent := { server := 3, place := 39 }, q := 16383,
    bytes := fieldBytes 64 [(0, 8, 0x30000), (8, 4, 16), (0x0C, 2, mask), (0x10, 8, 0x40000)] }

theorem witness_AgentRecords :
    (let ag : Agent := { server := 2, place := 39 }
     let s := ringed { st := 1, server := 2, agent := 39, wr := 1 }
     let x := s.queue 16383
     agentExists ag = true ∧ s.agents.any (fun r => r.agent == ag && r.draw.isNone) = false ∧
     pickQueue (s.queues.ents.filter (fun e => e.2.feeds ag)) (fun l => s.aptr.get 0 (agentKey ag l)) = some (0, 16383) ∧
     (match readE (agentEng ag x) (x.ring x.rd) 64 { s with aptr := s.aptr.put (agentKey ag 0) (16384 % nQueues) } with
      | .ok _ u => decide (u.queue 16383 = x)
      | .error _ _ => false) = true) ∧
    (let r := aSlice (aTriangle 0)
     let s := agented { st := 1 } r
     s.agentAt 0 2 = some r ∧ agentSig r = 0 ∧ r.draw = none ∧ r.step = 0 ∧ triBad r.bytes false = false ∧
     blocksOf r.bytes r.n r.r = []) ∧
    (let r := aSlice (aTriangle 2)
     triBad r.bytes false = false ∧ (blocksOf r.bytes r.n r.r).length = 1) ∧
    (let r := { aSlice (aTriangle 2) with step := 1, sub := [fieldBytes 64 []] }
     let s := agented { st := 1 } r
     s.agentAt 0 2 = some r ∧ s.outOk r.out (s.queue r.q).asid = true ∧ (s.queue r.out).fill ≠ (s.queue r.out).cap ∧
     emOk (writeE (agentEng r.agent (s.queue r.out)) ((s.queue r.out).ring (s.queue r.out).wr) (fieldBytes 64 [])) s = true) ∧
    (let r := aDraw 0
     let s := { agented { st := 1 } r with mem := Memory.writeN [] 0x30000 (aTriangle 2) }
     s.agentAt 0 4 = some r ∧ drawBad r.bytes = false ∧ r.bad = false ∧ r.step < numAt r.bytes 8 4 ∧
     (match readE (agentEng r.agent (s.queue r.q)) (numAt r.bytes 0 8 + 64 * r.step) 64 s with
      | .ok bs _ => !triBad bs true
      | .error _ _ => false) = true) ∧
    (let r := aDraw 1
     let s := agented { st := 1 } r
     s.agentAt 0 4 = some r ∧ numAt r.bytes 8 4 ≤ r.step ∧ s.agents.any (fun x => x.draw == some r.ticket) = false ∧
     agentSig r = 0 ∧ r.draw = none) ∧
    ([(0x8000, none), (0xC000, some 14)].all (fun (p : Nat × Option Nat) =>
      let r := aPixel p.1
      let s := agented { st := 1 } r
      s.agentAt 0 3 == some r && !pixelBad r.bytes && agentSig r == 0 && r.draw.isNone && nextPixel r.bytes r.step == p.2.or (some 15) &&
      (match nextPixel r.bytes r.step with
       | some k => emOk (updatePixel (agentEng r.agent (s.queue r.q)) r.bytes k) s && (nextPixel r.bytes (k + 1)).isSome == p.2.isSome
       | none => false)) = true) ∧ (255 : Nat) < 256 := by decide +kernel

/-! ### Witnesses: links, control cores, hosts, errors -/

/-- owned with link 23 in a state. -/
def linked (x : Link) : State := owned.modLink 23 (fun _ => x)

theorem witness_LinksAndSupply :
    (owned.mayWrite (.host 0) none = true ∧ (owned.link 23).st = .down ∧
      (linked { st := .up, en := true }).mayWrite (.host 0) none = true ∧ ((linked { st := .up, en := true }).link 23).st ≠ .down) ∧
    (((linked { st := .training }).link 23).st = .training ∧ ((linked { st := .retraining }).link 23).st = .retraining) ∧
    (((linked { st := .up }).link 23).st = .up ∧ ((linked { st := .degraded }).link 23).st = .degraded) ∧
    (({ replay := 14 } : Link).replay < 15 ∧ ({ replay := 15 } : Link).replay = 15 ∧ 4095 < 4096) ∧
    (let s := owned.writeRoute 4095 0x97#8
     (s.route.get {} 4095).next = some 0x97#8 ∧ s.unanswered 4095 = false ∧ 4095 ≠ s.devid) ∧
    (let s := { owned with acks := [{ hart := 0, addr := 2 ^ 64 }] }
     s.unanswered (s.deviceOf (2 ^ 64)) = true ∧ s.deviceOf (2 ^ 64) ≠ s.devid) ∧
    (let s := { owned with hosts := (Tab.empty.put 0 (some 0)).put 7 (some 5), owner := 15, epoch := 4 }
     (s.hosts.get none 7).isSome = true ∧ s.owner = 15 ∧ wfld 0x40000#64 31 16 = s.epoch % 2 ^ 16 ∧
     wfld 0x50000#64 31 16 ≠ s.epoch % 2 ^ 16) ∧
    ((owned.hosts.get none 0).isSome = true ∧ owned.owner = 0 ∧ owned.owner ≠ 7 ∧ wfld 0xF#64 3 0 = 15 ∧
     wfld 0x0#64 3 0 < 8 ∧ (owned.hosts.get none (wfld 0x0#64 3 0)).isSome = true) ∧
    ((owned.monitor 39).below = false ∧ ((owned.modMonitor 39 (fun x => { x with below := true })).monitor 39).below = true ∧
     39 < 40) := by decide

/-- owned with link 23 Up, device 4095 routed over it, and stores to device 4095 and to the own HBM under way. -/
def crossed : State :=
  { linked { st := .up, en := true } with route := owned.route.put 4095 { val := 0x97#8 }
                                          acks := [{ hart := 0, addr := 0x1000 }, { hart := 8, addr := 4096 * 2 ^ 52 }] }

theorem witness_LinksAndSupply_links :
    (let s := crossed
     s.mayWrite (.host 0) none = true ∧ (s.link 23).st ≠ .down ∧
     s.byLink 23 (s.deviceOf (4096 * 2 ^ 52)) = true ∧ s.byLink 23 (s.deviceOf 4096) = false) := by decide +kernel

/-! ### Witnesses: the harts of the control cores -/

/-- base with a word at the pc of control core 7, at the end of its SRAM, at its turn. -/
def ctlAt (w : Nat) : State :=
  { base with ctl := Tab.empty.put 7 { sram := Memory.writeN [] 0x3FFFC (leBytes 4 w), pc := 0x3FFFC#64 }, agenda := [.control 7] }

theorem witness_ControlCoreHarts :
    ((ctlAt 0).agenda = .control 7 :: [] ∧ (ctlAt 0).imposing = false) ∧
    ([(0x00700293, Instr.standardScalarInstruction (.imm .addi 5#5 0#5 7#12)), (0x000012B7, .standardScalarInstruction (.lui 5#5 1#20)),
      (0x00001297, .standardScalarInstruction (.auipc 5#5 1#20)), (0x000300E7, .standardScalarInstruction (.jalr 1#5 6#5 0#12)),
      (0x007302B3, .standardScalarInstruction (.alu .add 5#5 6#5 7#5)), (0x00331293, .standardScalarInstruction (.sh .slli 5#5 6#5 3#6)),
      (0x00033283, .scalarLoad .ld 5#5 6#5 0#12), (0x00733023, .scalarStore .sd 6#5 7#5 0#12),
      (0x00000073, .standardScalarInstruction .ecall), (0x00100073, .standardScalarInstruction .ebreak)].all (fun p =>
      let h := (ctlAt p.1).ctlHart 7
      let bs := h.sram.readN h.pc.toNat 2 ++ h.sram.readN (h.pc.toNat + 2) 2
      decide (h.pc.toNat + 4 ≤ 2 ^ 18) && lengthOf (bs.headD 0#8) != 2 && (decode bs).toOption == some (p.2, []))) = true ∧
    (effAddr ((ctlAt 0).ctlHart 7 |>.get 6#5) 0#12).toNat + 8 ≤ 2 ^ 18 ∧ loadShape .ld = (8, false, none) ∧
    storeShape .sd = (8, false) ∧ aluBase .add = true ∧ shBase .slli = true ∧ aluBase .andn = false := by decide +kernel

/-- A control core at its turn adds 7 to x0 in its own x5 (R482). -/
theorem test_control_core : nextIs (step (ctlAt 0x00700293))
    (fun t => (t.ctlHart 7).get 5#5 == 7#64 && (t.ctlHart 7).pc == 0x40000#64 && t.xr 5#5 == 0#64) = true := by decide +kernel

/-- A request with its reply at 0x40000. -/
def coreReq (op func : Nat) (l : List Nat) : List Byte :=
  fieldBytes 64 ([(0, 2, op), (2, 1, func), (8, 8, 7), (0x10, 8, 0x40000)] ++ l.zipIdx.map (fun p => (0x18 + 8 * p.2, 8, p.1)))
/-- owned with a request at the head of a mailbox. -/
def asked (n : Nat) (b : List Byte) : State := owned.setMailbox n [{ bytes := b }]

/-- The security core is asked. -/
def secure (op : Nat) (l : List Nat) : State := asked 4 (coreReq op 7 l)

/-- A physical write to HBM ends. -/
theorem physWrite_hbm (pa : Nat) (bs : List Byte) (ps : List Bool) (s : State) (hn : pa + bs.length ≤ 2 ^ 52)
    (hl : rangeOf pa = .hbm) (hh : rangeOf (pa + bs.length - 1) = .hbm) : ∃ v, physWrite pa bs ps s = .ok () v := by
  have ht : physTarget pa bs.length s =
      .ok { a := pa, sram := false, attr := { cache := 2, home := s.devid } } s := by
    unfold physTarget
    simp only [bind, EStateM.bind, get, getThe, MonadStateOf.get, EStateM.get, hl, hh, Nat.not_lt.mpr hn, ne_eq, not_true_eq_false,
      or_self, if_false]
    rfl
  unfold physWrite
  simp only [bind, EStateM.bind, ht, eng, State.engPut]
  exact ⟨_, rfl⟩

/-- A reply to HBM ends. -/
theorem reply_hbm (b : List Byte) (st : Nat) (s : State) (h : reqReply b = 0x40000) : ∃ v, reply b st [] s = .ok () v := by
  have hl : (leBytes 8 (reqTag b) ++ leBytes 8 st ++
      (([] : List Nat) ++ List.replicate (6 - ([] : List Nat).length) 0).flatMap (leBytes 8)).length = 64 := by
    simp only [List.length_append, length_leBytes]; decide
  obtain ⟨v, hv⟩ := physWrite_hbm 0x40000 _ [] s (by rw [hl]; decide) (by decide) (by rw [hl]; decide)
  refine ⟨v, ?_⟩
  unfold reply
  rw [if_neg (by rw [h]; decide), h]
  simp only [bind, EStateM.bind, tryE, hv]
  rfl

theorem witness_ControlRequests :
    ((asked 7 (coreReq 0 0 [])).firstReq (fun _ op => op == 0) = some (7, { bytes := coreReq 0 0 [] }) ∧
     (asked 7 (coreReq 9 0 [])).firstReq (fun k op => !(coreOps k).contains op) = some (7, { bytes := coreReq 9 0 [] })) ∧
    ([1, 2, 3, 4, 5, 6, 7].all (fun op =>
      (secure op []).headReq 4 == some { bytes := coreReq op 7 [] } && reqOp (coreReq op 7 []) == op && reqFunc (coreReq op 7 []) == 7 &&
      reqReply (coreReq op 7 []) % 64 == 0 && ((secure op []).func 7).st != fnTransferring) = true) ∧
    (((secure 3 []).modFunc 7 (fun x => { x with st := fnStaged })).func 7).st = fnStaged ∧
    (((secure 3 []).modFunc 7 (fun x => { x with st := fnTransferring })).func 7).st = fnTransferring ∧
    (emOk (physBytes (reqArg (coreReq 2 7 [0x30000, 256]) 0) (reqArg (coreReq 2 7 [0x30000, 256]) 1)) (secure 2 [0x30000, 256]) = true) ∧
    (let b := coreReq 5 7 [2047, 0x30000]
     let s := { secure 5 [2047, 0x30000] with tkey := some 1#256 }
     s.headReq 4 = some { bytes := b } ∧ s.tkey = some 1#256 ∧ keySlotOk (reqArg b 0) = true ∧ s.keys.get none (reqArg b 0) = none ∧
     emOk (physBytes (reqArg b 1) 40) s = true) ∧
    (keySlotOk (reqArg (coreReq 6 7 [1]) 0) = true ∧ (secure 7 [0x30000]).tkey = none ∧
     emOk (physBytes (reqArg (coreReq 7 7 [0x30000]) 0) 32) (secure 7 [0x30000]) = true) ∧
    (let b := coreReq 17 0 [65535, 0]
     (asked 1 b).headReq 1 = some { bytes := b } ∧ reqOp b = 17 ∧
     (asked 1 b).workOf (reqArg b 1 % 2 ^ 16) (w64 (reqArg b 0)) = none ∧
     ([WorkSt.running, .free].all (fun st =>
       let s := (asked 1 (coreReq 17 0 [(({ st := st, gen := 1, outcome := 3 } : Work).handle 65535), 0])).setWork 65535
         { st := st, gen := 1, outcome := 3 }
       match s.headReq 1 with
       | some m => !m.begun && s.workOf (reqArg m.bytes 1 % 2 ^ 16) (w64 (reqArg m.bytes 0)) == some 65535 &&
          (s.workAt 65535).busy == (st == .running)
       | none => false) = true)) ∧
    (let b := coreReq 16 0 [0xFFFFFFFFE0, 32]
     (asked 2 b).headReq 2 = some { bytes := b } ∧ reqOp b = 16 ∧ reqArg b 0 % 32 = 0 ∧ reqArg b 1 % 32 = 0 ∧
     reqArg b 0 + reqArg b 1 ≤ 0x10000000000 ∧ (asked 2 b).soft = [] ∧ (asked 2 b).poison = []) ∧
    ((asked 3 (coreReq 16 0 [])).headReq 3 = some { bytes := coreReq 16 0 [] } ∧ reqArg (coreReq 16 0 [39]) 0 < 40 ∧
     ((asked 5 (coreReq 16 0 [39])).headReq 5).isSome = true ∧
     (((linked { st := .up }).setMailbox 6 [{ bytes := coreReq 16 0 [23] }]).link (reqArg (coreReq 16 0 [23]) 0)).st.carries = true) ∧
    (let b := coreReq 18 0 [39 * 64 + 63, 3, 0x50000]
     let s := (asked 7 b).modCore 2559 (fun k => { k with halted := true })
     s.headReq 7 = some { bytes := b } ∧ debugCore b = some 2559 ∧ (s.core 2559).halted = true ∧ reqArg b 2 % 64 = 0 ∧
     (match debugPart 2559 (fld (reqArg b 1) 7 0) (fld (reqArg b 1) 12 8) s with
      | .ok (some l) y => emOk (physBlocks (reqArg b 2) l) y
      | _ => false) = true) := by decide +kernel

/-- The report of witness_ControlRequests can be written whatever its signature. -/
theorem witness_ControlRequests_attest (d : BitVec 512) : ∃ v,
    physWrite (reqReply (coreReq 1 7 [])) ((secure 1 []).reportBody 7 ((List.drop 0x18 (coreReq 1 7 [])).take 32) ++ bytes64 d) []
      (secure 1 []) = .ok () v := by
  have h : ((secure 1 []).reportBody 7 ((List.drop 0x18 (coreReq 1 7 [])).take 32) ++ bytes64 d).length = 256 := by
    simp only [List.length_append, bytes64, length_leBytes, (by decide +kernel : ((secure 1 []).reportBody 7 ((List.drop 0x18 (coreReq 1 7 [])).take 32)).length = 192)]
  exact physWrite_hbm _ _ _ _ (by rw [h]; decide) (by decide) (by rw [h]; decide)

/-- The request of witness_ControlRequests to load a key is answered whatever the key. -/
theorem witness_ControlRequests_keyload (o : Option (BitVec 256)) (w : State) : ∃ v : State,
    (match o with
     | some k => reply (coreReq 5 7 [2047, 0x30000]) 0 [] { w with keys := w.keys.put 2047 (some k) }
     | none => reply (coreReq 5 7 [2047, 0x30000]) 1 [] w) = .ok () v := by
  cases o
  · exact reply_hbm _ _ _ (by decide)
  · exact reply_hbm _ _ _ (by decide)

/-- Its request to stage an image is answered whatever the image. -/
theorem witness_ControlRequests_stage (o : Bool) (u w : State) : ∃ v : State,
    (if o = true then reply (coreReq 2 7 [0x30000, 256]) 0 [] u else reply (coreReq 2 7 [0x30000, 256]) 1 [] w) = .ok () v := by
  cases o
  · exact reply_hbm (coreReq 2 7 [0x30000, 256]) _ _ (by decide)
  · exact reply_hbm (coreReq 2 7 [0x30000, 256]) _ _ (by decide)

theorem witness_HostAccesses :
    (let s := { owned with mem := Memory.writeN [] 0x30000 (coreReq 0 0 []) }
     emOk (physBytes (wfld 0x30000#64 51 6 * 64) 64) s = true ∧ s.mayWrite (.host 0) none = true ∧ (s.mailbox 7).length < 16 ∧
     16 ≤ ((s.setMailbox 7 (List.replicate 16 { bytes := [] })).mailbox 7).length) ∧
    (let s := { owned with mem := Memory.writeN [] 0x30000 (coreReq 1 0 []) }
     s.mayWrite (.host 5) none = false ∧ okIs (physBytes (wfld 0x30000#64 51 6 * 64) 64 s) (fun bs _ => reqOp bs == 1) = true) ∧
    (okIs (physBytes (wfld 0x200000000000#64 51 6 * 64) 64 owned) (fun _ _ => true) = false) ∧
    ([Party.firmware 39, .control 7].all (fun w => (owned.regWrite w (regsBase + 0xC0010000) 0#64).isSome)) = true ∧
    (owned.hostOf 0 = some 0 ∧ isReg (regsBase + 0xC0010000) = true ∧ (owned.regRead (regsBase + 0xC0010000)).isSome = true ∧
     (owned.regWrite (.host 0) (regsBase + 0xC0010000) 0#64).isSome = true ∧
     (owned.regRead regsBase).isSome = true ∧ owned.regRead (regsBase + 4096 * 16384) = none ∧
     isBar2 0x7FFFFFFFF8 = true ∧ okIs (physRead 0x7FFFFFFFF8 8 owned) (fun p _ => !p.2) = true ∧
     emOk (physWrite 0x7FFFFFFFF8 (leBytes 8 5) []) owned = true ∧
     { owned with owner := 15 }.mayWrite (.host 0) none = false) ∧
    (base.hostOf 4095 = none ∧ (List.range 8).find? (fun h => (base.hosts.get none h).isNone) = some 0 ∧
     ({ base with hosts := base.hosts.put 0 (some 4095) }.regRead (regsBase + 0xC0010000)).isSome = true) ∧
    (4095 ≠ owned.devid ∧ 0xFFFFFFFFF8 + 8 ≤ 2 ^ 40) ∧
    (partySram (.host 0) (vaultBase + 8) = none ∧ rangeOf (vaultBase + 39 * 2 ^ 26) = .vault ∧
     ([Party.firmware 39, .control 7].all (fun w => match partySram w (vaultBase + 39 * 2 ^ 26) with
       | some e =>
         (match (owned.engPut e { a := vaultBase + 39 * 2 ^ 26, sram := true, attr := {} } (leBytes 8 5) []).2 with
          | .ok _ => true
          | .error _ => false) &&
         (match (owned.engGet e { a := vaultBase + 39 * 2 ^ 26, sram := true, attr := {} } 8).2 with
          | .ok (_, ps) => !ps.any id
          | .error _ => false)
       | none => false) = true)) ∧
    (0xFFFFFFFFFFF8 + 8 ≤ 2 ^ 48 ∧ owned.partyOk (.host 0) = true ∧ owned.mayWrite (.host 7) none = false) := by decide +kernel

/-- An L2 line at 0x1000 with sector 0 valid. -/
def aLine : L2Line :=
  { addr := 0x1000, home := 0, key := 0, cls := 0, asid := 0, way := 0, valid := 1#8, dirty := 0#8, zero := false, poison := 0#8,
    data := List.replicate 8 0#256, used := 0 }

theorem witness_ErrorsAndLog :
    (rangeOf (paOf 0x1000) = .hbm ∧ rangeOf (paOf (scratchPa 0 0)) = .scratch ∧ rangeOf (paOf regsBase) = .regs) ∧
    (let s := base.k0 (fun c => { c with l2 := [aLine] })
     (s.cluster 0).l2.find? (fun x => x.addr == down 0x1000 256) = some aLine ∧ aLine.valid.getLsbD (sectorOf 0x1000) = true ∧
     (base.cluster 0).l2.find? (fun x => x.addr == down 0x1000 256) = none) ∧
    (let s := base.g0 (fun k => { k with l1d := [{ addr := 0x1000, key := 0, set := 0, data := 0#256, poison := false, used := 0 }]
                                         l1i := [{ addr := 0x1000, key := 0, poison := 0#2, data := [], used := 0 }] })
     (∃ l ∈ (s.core 0).l1d, l.addr = blk 0x1000) ∧ (∀ l ∈ (s.core 0).l1d, l.addr ≠ blk 0x2000) ∧
     (∃ l ∈ (s.core 0).l1i, l.addr = down 0x1000 64) ∧ ∀ l ∈ (s.core 0).l1i, l.addr ≠ down 0x2000 64) ∧
    ((((base.modCore 2559 (fun k => k.setAcc 7 { st := .claimed })).core (39 * 64 + 63)).acc 7).st = .claimed ∧
     (((base.core (39 * 64 + 63)).acc 7).st ≠ .claimed) ∧ 63 < 64 ∧ 7 < 8) ∧
    (let s := base.modCore 2559 (fun k => k.setKen 31 { st := .parked, ctx := some {} })
     ((s.core (39 * 64 + 63)).ken 31).st = .parked ∧ ((s.core (39 * 64 + 63)).ken 31).ctx = some {}) ∧
    (let s := imaged .loading 0x7F8000010000
     ((s.core 0).ken 31).st = .loading ∧ (s.loadingOwner 0 31).isSome = true) ∧
    ((((base.k0 (fun c => { c with bars := c.bars.put 63 { st := barArmed } })).cluster 0).bar 63).st = barArmed ∧
     ((base.cluster 0).bar 63).st = barFreeSt) ∧
    (let s := tasked (aTask .running (aRecord 4 []))
     (s.task 0 511).live = true ∧ emOk (strikeEntry 0 511 true true) s = true ∧ emOk (strikeCounter 0 511) s = true ∧
     (base.task 0 511).live = false) ∧
    (let s := tracked (aTrk .running)
     (s.trk 0 3).gen ≠ 0 ∧ (s.trk 0 3).ended = false ∧
     emOk (fntFail (s.trk (s.trk 0 3).first.1 (s.trk 0 3).first.2) 2 none) s = true ∧
     ((tracked { aTrk .complete with ended := true }).trk 0 3).ended = true) ∧
    (let s := queried (aQry .running rayBlock)
     (s.qry 0 63).active = true ∧ emOk (qryFail 0 63 4 none) s = true ∧ (base.qry 0 63).active = false) ∧
    (((pieced aPiece).core 0).pieces[0]? = some aPiece ∧ aPiece.done = false ∧ aPiece.fail = none ∧
     ((pieced { aPiece with done := true }).core 0).pieces[0]? = some { aPiece with done := true }) ∧
    (((base.setWork 65535 { st := .running }).workAt 65535).st = .running ∧ (base.workAt 65535).st = .free) ∧
    (let s := { base with errs := [{ kind := 2 }] }
     s.errs = { kind := 2 } :: [] ∧ s.logRoom = false ∧ { s with owner := 15 }.owner = 15 ∧
     { s with elog := 0x1000001#64 }.logRoom = true ∧ rangeOf (wfld 0x1000001#64 51 12 * 4096) = .hbm ∧
     (∀ c ∈ s.clusters.ents, c.2.l2 = []) ∧ base.errs = []) := by decide +kernel

theorem witness_SramAfterReset : rangeOf (scratchPa 2559 0x3FFFF) = .scratch ∧ rangeOf (vaultPa 39 0x3FFFFFF) = .vault := by decide

end Sys2Proof.Machine
end

section
/-! Package reset and power-on: what the filtered tables and memories read as, and the settlement of the two
statements about the reset state (spec/00_scope.md R6). -/

namespace Sys2Proof.Machine

open Sys2Proof

/-- A list filtered by its keys reads as before at a key kept, and as the default at a key dropped. -/
theorem lookup_filter_key {α : Type} (d : α) (p : Nat → Bool) (k : Nat) (l : List (Nat × α)) :
    lookup d k (l.filter (fun e => p e.1)) = if p k then lookup d k l else d := by
  induction l with
  | nil => simp [lookup]
  | cons e r ih =>
    obtain ⟨j, v⟩ := e
    by_cases hj : j = k
    · subst hj
      cases hp : p j <;> simp [lookup, hp, ih]
    · cases hp : p j <;> simp [lookup, hp, hj, ih]

theorem Memory.read_filter_kept {m : Memory} {p : Nat → Bool} {a : Nat} (h : p a = true) :
    Memory.read (m.filter (fun c => p c.1)) a = m.read a := by
  unfold Memory.read
  rw [lookup_filter_key, if_pos h]

theorem Memory.read_filter_dropped {m : Memory} {p : Nat → Bool} {a : Nat} (h : p a = false) :
    Memory.read (m.filter (fun c => p c.1)) a = 0#8 := by
  unfold Memory.read
  rw [lookup_filter_key, if_neg (by simp [h])]
  rfl

/-- A table updated entry by entry reads updated, where the update leaves the initial contents as they are. -/
theorem Tab.get_map {α : Type} (t : Tab α) (f : Nat → α → α) (d : α) (k : Nat) (h : f k d = d) :
    (t.map f).get d k = f k (t.get d k) := by
  obtain ⟨l⟩ := t
  simp only [Tab.map, Tab.get]
  induction l with
  | nil => exact h.symm
  | cons e r ih =>
    obtain ⟨j, v⟩ := e
    by_cases hj : j = k
    · subst hj; simp [lookup]
    · simp [lookup, hj, ih]

@[simp] theorem survives_eq_true_iff (a : Nat) : survives a = true ↔ isSram a = false := by simp [survives]
@[simp] theorem offDevice_eq_true_iff (a : Nat) : offDevice a = true ↔ hostBase ≤ a := by simp [offDevice]

/-- Each function restarts from its last committed image. -/
theorem State.func_resetPackage (s : State) (f : Nat) :
    s.resetPackage.func f = { version := (s.func f).version, meas := (s.func f).meas } :=
  Tab.get_map s.funcs (fun _ x => x.restart) {} f rfl

/-- Each control core's hart starts again, its SRAM as it was. -/
theorem State.ctlHart_resetPackage (s : State) (n : Nat) : s.resetPackage.ctlHart n = { sram := (s.ctlHart n).sram } :=
  Tab.get_map s.ctl (fun _ h => { sram := h.sram }) {} n rfl

/-- Settles O60: both resets are the model's reset state with filtered storage, and the filters keep exactly what R6
keeps. -/
theorem packageReset : Obligations.PackageReset := by
  intro s
  refine ⟨⟨s.resetPackage, rfl, rfl, fun a h => ?_, fun a h => ?_, fun b => ?_, s.func_resetPackage,
    s.ctlHart_resetPackage⟩, ⟨_, rfl, rfl, fun a h => ?_, fun a h => ?_, fun b => ?_,
    s.func_resetPackage, s.ctlHart_resetPackage⟩⟩
  · exact Memory.read_filter_kept ((survives_eq_true_iff a).mpr h)
  · exact Memory.read_filter_dropped (by simp [survives, h])
  · simp [State.resetPackage]
  · exact Memory.read_filter_dropped (by simp [offDevice, h])
  · exact Memory.read_filter_kept ((offDevice_eq_true_iff a).mpr h)
  · simp

/-- Core rank r of cluster k after package reset. -/
theorem Core.boot_rank (k : Nat) {r : Nat} (hr : r < 64) :
    (Core.boot (64 * k + r)).roff = 0x300 + 4 * r ∧ (Core.boot (64 * k + r)).rvault = k := by
  constructor <;> simp only [Core.boot] <;> omega

/-- Settles O8: every table of the reset state is empty, so an entry reads as its initial contents; only the ranks of a
core need a computation. -/
theorem resetState : Obligations.ResetState := by
  exact ⟨Memory.wf_nil, rfl, rfl, rfl, rfl, fun _ => rfl, rfl, rfl, rfl, fun _ => rfl, rfl, rfl, fun _ => rfl,
    fun _ => rfl, fun k r _ hr => Core.boot_rank k hr⟩

end Sys2Proof.Machine
end

section
/-! The integer operations of the scalar base: what each operation's result is as a number or bit by bit, and that an
integer instruction writes it to rd and nothing else (spec/03_encoding.md R65; spec/00_scope.md R7). -/

namespace Sys2Proof.Machine

open Sys2Proof

/-! ### Numbers -/

theorem toNat_w64 {n : Nat} (h : n < 2 ^ 64) : (w64 n).toNat = n := by
  simpa using Nat.mod_eq_of_lt h

theorem b2w_decide (p : Prop) [Decidable p] : b2w (decide p) = if p then 1#64 else 0#64 := by
  by_cases h : p <;> simp [b2w, h]

theorem toInt_sshiftRight_eq_div {n : Nat} (a : BitVec n) (k : Nat) : (a.sshiftRight k).toInt = a.toInt / 2 ^ k := by
  rw [BitVec.toInt_sshiftRight, Int.shiftRight_eq_div_pow]; norm_cast

/-! ### Quotients and remainders -/

section
variable {n : Nat} {a b : BitVec n}

theorem toNat_udivR (h : b ≠ 0#n) : (udivR a b).toNat = a.toNat / b.toNat := by
  simp [udivR, h]

theorem toNat_uremR (h : b ≠ 0#n) : (uremR a b).toNat = a.toNat % b.toNat := by
  simp [uremR, h]

theorem toInt_sdivR (h : b ≠ 0#n) : (sdivR a b).toInt = (a.toInt.tdiv b.toInt).bmod (2 ^ n) := by
  rw [sdivR, if_neg h, BitVec.toInt_sdiv]

theorem toInt_sdivR_of_no_overflow (h : b ≠ 0#n) (o : a ≠ BitVec.intMin n ∨ b ≠ -1#n) :
    (sdivR a b).toInt = a.toInt.tdiv b.toInt := by
  rw [sdivR, if_neg h, BitVec.toInt_sdiv_of_ne_or_ne a b o]

theorem toInt_sremR (h : b ≠ 0#n) : (sremR a b).toInt = a.toInt.tmod b.toInt := by
  rw [sremR, if_neg h, BitVec.toInt_srem]

/-- By 0 a quotient is all ones and a remainder is the dividend. -/
theorem divR_zero (a : BitVec n) : udivR a 0#n = BitVec.allOnes n ∧ uremR a 0#n = a ∧
    sdivR a 0#n = BitVec.allOnes n ∧ sremR a 0#n = a := by
  simp [udivR, uremR, sdivR, sremR]

end

/-! ### Bits -/

theorem getLsbD_rolN {n : Nat} (a : BitVec n) (k i : Nat) (hi : i < n) :
    (rolN a k).getLsbD i = a.getLsbD ((i + (n - k % n)) % n) := by
  have hk : k % n < n := Nat.mod_lt _ (by omega)
  rcases Nat.eq_zero_or_pos (k % n) with h0 | h0
  · simp [rolN, h0, hi, Nat.mod_eq_of_lt hi]
  · have hs : (n - k % n) % n = n - k % n := Nat.mod_eq_of_lt (by omega)
    simp only [rolN, hs, BitVec.getLsbD_or, BitVec.getLsbD_shiftLeft, BitVec.getLsbD_ushiftRight, hi, decide_true, Bool.true_and]
    by_cases h : i < k % n
    · rw [Nat.mod_eq_of_lt (show i + (n - k % n) < n by omega)]
      simp [h, Nat.add_comm]
    · have e : (i + (n - k % n)) % n = i - k % n := by
        rw [show i + (n - k % n) = i - k % n + n by omega, Nat.add_mod_right, Nat.mod_eq_of_lt (by omega)]
      have out : a.getLsbD (n - k % n + i) = false := BitVec.getLsbD_of_ge _ _ (by omega)
      simp [h, e, out]

theorem sub_sub_mod_mod (n k : Nat) (hn : 0 < n) : (n - (n - k % n) % n) % n = k % n := by
  have hk : k % n < n := Nat.mod_lt _ hn
  rcases Nat.eq_zero_or_pos (k % n) with h0 | h0
  · simp [h0]
  · rw [Nat.mod_eq_of_lt (show n - k % n < n by omega), show n - (n - k % n) = k % n by omega, Nat.mod_mod]

/-- A rotation right is one left by what is missing to the width. -/
theorem rorN_eq_rolN {n : Nat} (a : BitVec n) (k : Nat) (hn : 0 < n) : rorN a k = rolN a (n - k % n) := by
  rw [rorN, rolN, sub_sub_mod_mod n k hn, BitVec.or_comm]

theorem getLsbD_rorN {n : Nat} (a : BitVec n) (k i : Nat) (hi : i < n) :
    (rorN a k).getLsbD i = a.getLsbD ((i + k) % n) := by
  rw [rorN_eq_rolN a k (by omega), getLsbD_rolN _ _ _ hi, ← Nat.add_mod_mod, sub_sub_mod_mod n k (by omega), Nat.add_mod_mod]

theorem getLsbD_one_shiftLeft {i k : Nat} (hi : i < 64) : (1#64 <<< k).getLsbD i = (i == k) := by
  rw [← BitVec.twoPow_eq, BitVec.getLsbD_twoPow]
  by_cases h : i = k
  · subst h; simp [hi]
  · simp [h, Ne.symm h]

theorem ushiftRight_and_one (a : Word) (k : Nat) : a >>> k &&& 1#64 = if a.getLsbD k then 1#64 else 0#64 := by
  rw [BitVec.and_one_eq_setWidth_ofBool_getLsbD, BitVec.getLsbD_ushiftRight, Nat.add_zero]
  cases a.getLsbD k <;> rfl

/-! ### Counting bits -/

theorem bitLen_le {n v : Nat} (h : v < 2 ^ n) : bitLen v ≤ n := by
  unfold bitLen
  split
  · omega
  · exact (Nat.log2_lt ‹_›).mpr h

/-- The highest set bit of a number stands at its length less one. -/
theorem div_two_pow_bitLen {v : Nat} (h : v ≠ 0) : 0 < bitLen v ∧ v / 2 ^ (bitLen v - 1) = 1 := by
  have lo := Nat.log2_self_le h
  have hi := @Nat.lt_log2_self v
  rw [Nat.pow_succ] at hi
  simp only [bitLen, if_neg h, Nat.add_sub_cancel]
  exact ⟨by omega, (Nat.div_eq_iff (by positivity)).mpr (by omega)⟩

theorem clzN_zero {n v : Nat} (h : v % 2 ^ n = 0) : clzN n v = n := by
  simp [clzN, h, bitLen]

theorem clzN_of_ne_zero {n v : Nat} (h : v % 2 ^ n ≠ 0) : clzN n v < n ∧ v % 2 ^ n / 2 ^ (n - 1 - clzN n v) = 1 := by
  obtain ⟨pos, top⟩ := div_two_pow_bitLen h
  have le : bitLen (v % 2 ^ n) ≤ n := bitLen_le (Nat.mod_lt _ (by positivity))
  unfold clzN
  refine ⟨by omega, ?_⟩
  rwa [show n - 1 - (n - bitLen (v % 2 ^ n)) = bitLen (v % 2 ^ n) - 1 by omega]

theorem clzN_le (n v : Nat) : clzN n v ≤ n := Nat.sub_le _ _

theorem ctzN_zero {n v : Nat} (h : v % 2 ^ n = 0) : ctzN n v = n := by
  have none_ : leastBelow n (fun i => v.testBit i) = none := by
    refine List.find?_range_eq_none.mpr fun i hi => ?_
    have : (v % 2 ^ n).testBit i = false := by rw [h]; exact Nat.zero_testBit i
    rw [Nat.testBit_mod_two_pow] at this
    simpa [hi] using this
  simp [ctzN, none_]

/-- The count of trailing zeros names the lowest set bit. -/
theorem ctzN_of_ne_zero {n v : Nat} (h : v % 2 ^ n ≠ 0) :
    ctzN n v < n ∧ v.testBit (ctzN n v) = true ∧ ∀ j, j < ctzN n v → v.testBit j = false := by
  unfold ctzN
  cases e : leastBelow n (fun i => v.testBit i) with
  | none =>
    obtain ⟨i, hi⟩ := Nat.exists_testBit_of_ne_zero h
    rw [Nat.testBit_mod_two_pow, Bool.and_eq_true, decide_eq_true_eq] at hi
    have := List.find?_range_eq_none.mp e i hi.1
    simp [hi.2] at this
  | some k =>
    obtain ⟨set, below, clear⟩ := List.find?_range_eq_some.mp e
    exact ⟨List.mem_range.mp below, set, fun j hj => by simpa using clear j hj⟩

theorem ctzN_le (n v : Nat) : ctzN n v ≤ n := by
  by_cases h : v % 2 ^ n = 0
  · rw [ctzN_zero h]
  · exact (ctzN_of_ne_zero h).1.le

theorem foldl_add_b2n (p : Nat → Bool) (l : List Nat) (c : Nat) :
    l.foldl (fun c i => c + b2n (p i)) c = c + (l.filter p).length := by
  induction l generalizing c with
  | nil => rfl
  | cons x xs ih =>
    rw [List.foldl_cons, ih]
    cases h : p x <;> simp [b2n, h]
    omega

theorem popCount_eq (n v : Nat) : popCount n v = ((List.range n).filter (fun i => v.testBit i)).length := by
  rw [popCount, foldl_add_b2n, Nat.zero_add]

theorem popCount_le (n v : Nat) : popCount n v ≤ n := by
  rw [popCount_eq]
  exact (List.length_filter_le _ _).trans (List.length_range).le

/-! ### Bytes of a doubleword -/

theorem leNat_lt (bs : List Byte) : leNat bs < 256 ^ bs.length := by
  induction bs with
  | nil => simp [leNat]
  | cons b bs ih =>
    have := b.isLt
    simp only [leNat, List.length_cons, Nat.pow_succ]
    omega

theorem leNat_div_mod (bs : List Byte) (i : Nat) : leNat bs / 256 ^ i % 256 = (bs.getD i 0#8).toNat := by
  induction bs generalizing i with
  | nil => simp [leNat]
  | cons b bs ih =>
    have := b.isLt
    cases i with
    | zero => simp only [leNat, List.getD_cons_zero]; omega
    | succ k =>
      rw [List.getD_cons_succ, ← ih k, Nat.pow_succ, Nat.mul_comm, ← Nat.div_div_eq_div_mul]
      simp only [leNat]
      rw [show (b.toNat + 256 * leNat bs) / 256 = leNat bs by omega]

theorem leBytes_getD {n i : Nat} (v : Nat) (h : i < n) : (leBytes n v).getD i 0#8 = BitVec.ofNat 8 (v / 256 ^ i) := by
  induction n generalizing v i with
  | zero => omega
  | succ m ih =>
    cases i with
    | zero => simp [leBytes]
    | succ k =>
      rw [leBytes, List.getD_cons_succ, ih _ (by omega), Nat.div_div_eq_div_mul, Nat.pow_succ, Nat.mul_comm]

theorem lane_eight (i : Nat) (v : Word) : lane 8 i v = v.toNat / 256 ^ i % 256 := by
  rw [lane, wfld, fld, Nat.shiftRight_eq_div_pow, show 8 * i + 8 - 1 + 1 - 8 * i = 8 by omega, Nat.pow_mul] <;> rfl

/-- Lane i of the doubleword that eight bytes make is byte i. -/
theorem lane_leNat {bs : List Byte} (h : bs.length = 8) (i : Nat) : lane 8 i (w64 (leNat bs)) = (bs.getD i 0#8).toNat := by
  rw [lane_eight, toNat_w64 (by simpa [h] using leNat_lt bs), leNat_div_mod]

/-- Byte i of a doubleword is its lane i. -/
theorem toNat_leBytes_getD {i : Nat} (hi : i < 8) (a : Word) : ((leBytes 8 a.toNat).getD i 0#8).toNat = lane 8 i a := by
  rw [leBytes_getD _ hi, lane_eight]; rfl

theorem toNat_orByte (b : Byte) : (if b = 0#8 then 0#8 else 0xFF#8).toNat = if b.toNat = 0 then 0 else 255 := by
  by_cases h : b = 0#8
  · simp [h]
  · have : b.toNat ≠ 0 := fun e => h (BitVec.eq_of_toNat_eq e)
    simp [h, this]

theorem lane_unFn_orcb (a : Word) {i : Nat} (hi : i < 8) : lane 8 i (unFn .orcb a) = if lane 8 i a = 0 then 0 else 255 := by
  have len := length_leBytes 8 a.toNat
  rw [unFn, lane_leNat (by simp [len]), ← toNat_leBytes_getD hi, ← toNat_orByte]
  have inside : i < (leBytes 8 a.toNat).length := len.symm ▸ hi
  simp only [List.getD_eq_getElem?_getD, List.getElem?_map, List.getElem?_eq_getElem inside, Option.map_some, Option.getD_some]

theorem lane_unFn_rev8 (a : Word) {i : Nat} (hi : i < 8) : lane 8 i (unFn .rev8 a) = lane 8 (7 - i) a := by
  have len := length_leBytes 8 a.toNat
  rw [unFn, lane_leNat (by simp [len]), ← toNat_leBytes_getD (by omega)]
  simp only [List.getD_eq_getElem?_getD]
  rw [List.getElem?_reverse (by omega), len]

/-! ### The low words -/

/-- The low word of a register as a signed number. -/
def loInt (v : Word) : Int := (v.toNat : Int).bmod (2 ^ 32)

theorem toInt_lowWord (v : Word) : (v.setWidth 32).toInt = loInt v := BitVec.toInt_setWidth v

theorem toInt_wop (f : BitVec 32 → BitVec 32 → BitVec 32) (a b : Word) :
    (wop f a b).toInt = (f (a.setWidth 32) (b.setWidth 32)).toInt :=
  BitVec.toInt_signExtend_of_le (by omega)

theorem lowWord_eq_zero_iff (v : Word) : v.setWidth 32 = 0#32 ↔ loInt v = 0 := by
  rw [← toInt_lowWord, ← BitVec.toInt_inj]; rfl

theorem toNat_lowWord (v : Word) : (v.setWidth 32).toNat = v.toNat % 2 ^ 32 := BitVec.toNat_setWidth 32 v

/-- A shift amount of five bits lies in the low word. -/
theorem lowWord_amount (v : Word) : (v.setWidth 32).toNat % 32 = v.toNat % 32 := by
  rw [toNat_lowWord]; omega

theorem getLsbD_lowWord (v : Word) {i : Nat} (h : i < 32) : (v.setWidth 32).getLsbD i = v.getLsbD i := by
  simp [h]

/-- Bit i of a sign-extended word is bit i, or the sign above it. -/
theorem getLsbD_wop (f : BitVec 32 → BitVec 32 → BitVec 32) (a b : Word) {i : Nat} (h : i < 64) :
    (wop f a b).getLsbD i = (f (a.setWidth 32) (b.setWidth 32)).getLsbD (min i 31) := by
  rw [wop, BitVec.getLsbD_signExtend]
  by_cases hi : i < 32
  · simp [h, hi, show min i 31 = i by omega]
  · simp [h, hi, show min i 31 = 31 by omega, BitVec.msb_eq_getLsbD_last]

theorem zextw_toNat (v : Word) : (zextw v).toNat = v.toNat % 2 ^ 32 := by
  rw [zextw, BitVec.toNat_setWidth, toNat_lowWord]; omega

/-! ### The results, operation by operation -/

section
variable (a b : Word)

/-- The high half of a product: the division by 2^64 rounds towards minus infinity. -/
theorem hiProd_eq (x y : Int) : hiProd x y = BitVec.ofInt 64 (x * y / 2 ^ 64) := rfl

theorem aluFn_sltu : aluFn .sltu a b = if a < b then 1#64 else 0#64 := by
  rw [aluFn, BitVec.ult_eq_decide, b2w_decide]; rfl

theorem aluFn_slt : aluFn .slt a b = if a.toInt < b.toInt then 1#64 else 0#64 := by
  rw [aluFn, BitVec.slt_eq_decide, b2w_decide]

theorem toNat_aluFn_mulhu : (aluFn .mulhu a b).toNat = a.toNat * b.toNat / 2 ^ 64 := by
  have lt : a.toNat * b.toNat < 2 ^ 64 * 2 ^ 64 := Nat.mul_lt_mul'' a.isLt b.isLt
  exact toNat_w64 (Nat.div_lt_of_lt_mul lt)

/-- Shifting left by k multiplies by 2^k. -/
theorem shiftLeft_eq_mul (k : Nat) : a <<< k = a * w64 (2 ^ k) := by
  rw [BitVec.shiftLeft_eq_mul_twoPow]
  congr 1
  exact BitVec.eq_of_toNat_eq (by simp [BitVec.toNat_twoPow])

/-- The Zba sum of a low word shifted by k. -/
theorem toNat_zextw_shift_add (k : Nat) : ((zextw a <<< k) + b).toNat = (a.toNat % 2 ^ 32 * 2 ^ k + b.toNat) % 2 ^ 64 := by
  rw [BitVec.toNat_add, BitVec.toNat_shiftLeft, zextw_toNat, Nat.shiftLeft_eq, Nat.mod_add_mod]

theorem toNat_aluFn_addUw : (aluFn .addUw a b).toNat = (a.toNat % 2 ^ 32 + b.toNat) % 2 ^ 64 := by
  rw [aluFn, BitVec.toNat_add, zextw_toNat]

theorem aluFn_bext : aluFn .bext a b = if a.getLsbD (b.toNat % 64) then 1#64 else 0#64 := ushiftRight_and_one a _

theorem toInt_aluFn_max : (aluFn .max a b).toInt = max a.toInt b.toInt := by
  rw [aluFn, BitVec.slt_eq_decide, apply_ite BitVec.toInt, max_def_lt]; simp only [decide_eq_true_eq]

theorem toInt_aluFn_min : (aluFn .min a b).toInt = min a.toInt b.toInt := by
  rw [aluFn, BitVec.slt_eq_decide, apply_ite BitVec.toInt, min_def_lt]; simp only [decide_eq_true_eq]

theorem toNat_aluFn_maxu : (aluFn .maxu a b).toNat = max a.toNat b.toNat := by
  rw [aluFn, BitVec.ult_eq_decide, apply_ite BitVec.toNat, max_def_lt]; simp only [decide_eq_true_eq]

theorem toNat_aluFn_minu : (aluFn .minu a b).toNat = min a.toNat b.toNat := by
  rw [aluFn, BitVec.ult_eq_decide, apply_ite BitVec.toNat, min_def_lt]; simp only [decide_eq_true_eq]

end

section
variable (a b : Word) {i : Nat} (hi : i < 64)
include hi

theorem getLsbD_aluFn_andn : (aluFn .andn a b).getLsbD i = (a.getLsbD i && !b.getLsbD i) := by
  simp [aluFn, hi]

theorem getLsbD_aluFn_orn : (aluFn .orn a b).getLsbD i = (a.getLsbD i || !b.getLsbD i) := by
  simp [aluFn, hi]

theorem getLsbD_aluFn_xnor : (aluFn .xnor a b).getLsbD i = (a.getLsbD i == b.getLsbD i) := by
  rw [aluFn, BitVec.getLsbD_not, BitVec.getLsbD_xor, decide_eq_true hi, Bool.true_and]
  cases a.getLsbD i <;> cases b.getLsbD i <;> rfl

theorem getLsbD_aluFn_rol : (aluFn .rol a b).getLsbD i = a.getLsbD ((i + (64 - b.toNat % 64)) % 64) := by
  rw [aluFn, getLsbD_rolN _ _ _ hi, Nat.mod_mod]

theorem getLsbD_aluFn_ror : (aluFn .ror a b).getLsbD i = a.getLsbD ((i + b.toNat) % 64) := by
  rw [aluFn, getLsbD_rorN _ _ _ hi, Nat.add_mod_mod]

theorem getLsbD_aluFn_bset : (aluFn .bset a b).getLsbD i = (a.getLsbD i || i == b.toNat % 64) := by
  rw [aluFn, BitVec.getLsbD_or, getLsbD_one_shiftLeft hi]

theorem getLsbD_aluFn_bclr : (aluFn .bclr a b).getLsbD i = (a.getLsbD i && i != b.toNat % 64) := by
  rw [aluFn, BitVec.getLsbD_and, BitVec.getLsbD_not, getLsbD_one_shiftLeft hi]
  simp [hi, bne]

theorem getLsbD_aluFn_binv : (aluFn .binv a b).getLsbD i = (a.getLsbD i != (i == b.toNat % 64)) := by
  rw [aluFn, BitVec.getLsbD_xor, getLsbD_one_shiftLeft hi]

end

section
variable (a : Word)

theorem toNat_unFn_clz : (unFn .clz a).toNat = clzN 64 a.toNat := toNat_w64 (lt_of_le_of_lt (clzN_le _ _) (by omega))
theorem toNat_unFn_clzw : (unFn .clzw a).toNat = clzN 32 a.toNat := toNat_w64 (lt_of_le_of_lt (clzN_le _ _) (by omega))
theorem toNat_unFn_ctz : (unFn .ctz a).toNat = ctzN 64 a.toNat := toNat_w64 (lt_of_le_of_lt (ctzN_le _ _) (by omega))
theorem toNat_unFn_ctzw : (unFn .ctzw a).toNat = ctzN 32 a.toNat := toNat_w64 (lt_of_le_of_lt (ctzN_le _ _) (by omega))

theorem toNat_unFn_cpop : (unFn .cpop a).toNat = ((List.range 64).filter (fun i => a.getLsbD i)).length :=
  (toNat_w64 (lt_of_le_of_lt (popCount_le _ _) (by omega))).trans (popCount_eq _ _)
theorem toNat_unFn_cpopw : (unFn .cpopw a).toNat = ((List.range 32).filter (fun i => a.getLsbD i)).length :=
  (toNat_w64 (lt_of_le_of_lt (popCount_le _ _) (by omega))).trans (popCount_eq _ _)

theorem toInt_unFn_sextb : (unFn .sextb a).toInt = (a.toNat : Int).bmod 256 := by
  rw [unFn, BitVec.toInt_signExtend_of_le (by omega)]; exact BitVec.toInt_setWidth a

theorem toInt_unFn_sexth : (unFn .sexth a).toInt = (a.toNat : Int).bmod 65536 := by
  rw [unFn, BitVec.toInt_signExtend_of_le (by omega)]; exact BitVec.toInt_setWidth a

theorem toNat_unFn_zexth : (unFn .zexth a).toNat = a.toNat % 65536 := by
  rw [unFn, BitVec.toNat_setWidth, BitVec.toNat_setWidth]; omega

theorem clz_ctz_zero (h : a = 0#64) : unFn .clz a = 64#64 ∧ unFn .ctz a = 64#64 := by
  subst h
  exact ⟨congrArg w64 (clzN_zero rfl), congrArg w64 (ctzN_zero rfl)⟩

theorem clz_ctz_of_ne_zero (h : a ≠ 0#64) :
    a.toNat / 2 ^ (63 - (unFn .clz a).toNat) = 1 ∧ (unFn .clz a).toNat < 64 ∧
      a.getLsbD (unFn .ctz a).toNat = true ∧ ∀ j, j < (unFn .ctz a).toNat → a.getLsbD j = false := by
  have whole : a.toNat % 2 ^ 64 = a.toNat := Nat.mod_eq_of_lt a.isLt
  have ne : a.toNat % 2 ^ 64 ≠ 0 := fun e => h (BitVec.eq_of_toNat_eq (whole.symm.trans e))
  obtain ⟨lt, top⟩ := clzN_of_ne_zero ne
  obtain ⟨-, set, below⟩ := ctzN_of_ne_zero ne
  rw [toNat_unFn_clz, toNat_unFn_ctz]
  exact ⟨by rwa [whole] at top, lt, set, below⟩

theorem clzw_ctzw_zero (h : a.toNat % 2 ^ 32 = 0) : unFn .clzw a = 32#64 ∧ unFn .ctzw a = 32#64 :=
  ⟨congrArg w64 (clzN_zero h), congrArg w64 (ctzN_zero h)⟩

theorem clzw_ctzw_of_ne_zero (h : a.toNat % 2 ^ 32 ≠ 0) :
    a.toNat % 2 ^ 32 / 2 ^ (31 - (unFn .clzw a).toNat) = 1 ∧ (unFn .clzw a).toNat < 32 ∧
      a.getLsbD (unFn .ctzw a).toNat = true ∧ ∀ j, j < (unFn .ctzw a).toNat → a.getLsbD j = false := by
  obtain ⟨lt, top⟩ := clzN_of_ne_zero h
  obtain ⟨-, set, below⟩ := ctzN_of_ne_zero h
  rw [toNat_unFn_clzw, toNat_unFn_ctzw]
  exact ⟨top, lt, set, below⟩

end

/-! ### The 32-bit forms -/

section
variable (a b : Word)

theorem toInt_aluFn_addw : (aluFn .addw a b).toInt = (loInt a + loInt b).bmod (2 ^ 32) := by
  rw [aluFn, toInt_wop, BitVec.toInt_add, toInt_lowWord, toInt_lowWord]

theorem toInt_aluFn_subw : (aluFn .subw a b).toInt = (loInt a - loInt b).bmod (2 ^ 32) := by
  rw [aluFn, toInt_wop, BitVec.toInt_sub, toInt_lowWord, toInt_lowWord]

theorem toInt_aluFn_mulw : (aluFn .mulw a b).toInt = (loInt a * loInt b).bmod (2 ^ 32) := by
  rw [aluFn, toInt_wop, BitVec.toInt_mul, toInt_lowWord, toInt_lowWord]

theorem toInt_aluFn_sllw : (aluFn .sllw a b).toInt = ((a.toNat * 2 ^ (b.toNat % 32) : Nat) : Int).bmod (2 ^ 32) := by
  rw [aluFn, toInt_wop, lowWord_amount, BitVec.toInt_eq_toNat_bmod, BitVec.toNat_shiftLeft, toNat_lowWord, Nat.shiftLeft_eq,
    Nat.mod_mul_mod, Int.natCast_emod, Int.emod_bmod]

theorem toInt_aluFn_srlw : (aluFn .srlw a b).toInt = ((a.toNat % 2 ^ 32 / 2 ^ (b.toNat % 32) : Nat) : Int).bmod (2 ^ 32) := by
  rw [aluFn, toInt_wop, lowWord_amount, BitVec.toInt_eq_toNat_bmod, BitVec.toNat_ushiftRight, toNat_lowWord,
    Nat.shiftRight_eq_div_pow]

theorem toInt_aluFn_sraw : (aluFn .sraw a b).toInt = loInt a / 2 ^ (b.toNat % 32) := by
  rw [aluFn, toInt_wop, lowWord_amount, toInt_sshiftRight_eq_div, toInt_lowWord]

/-- The word quotients and remainders by a divisor whose low word is not 0. -/
theorem toInt_aluFn_divw_of_ne_zero (h : loInt b ≠ 0) :
    (aluFn .divw a b).toInt = ((loInt a).tdiv (loInt b)).bmod (2 ^ 32) ∧ (aluFn .remw a b).toInt = (loInt a).tmod (loInt b) ∧
      (aluFn .divuw a b).toInt = ((a.toNat % 2 ^ 32 / (b.toNat % 2 ^ 32) : Nat) : Int).bmod (2 ^ 32) ∧
      (aluFn .remuw a b).toInt = ((a.toNat % 2 ^ 32 % (b.toNat % 2 ^ 32) : Nat) : Int).bmod (2 ^ 32) := by
  have ne : b.setWidth 32 ≠ 0#32 := fun e => h ((lowWord_eq_zero_iff b).mp e)
  simp only [aluFn, toInt_wop]
  refine ⟨?_, ?_, ?_, ?_⟩
  · rw [toInt_sdivR ne, toInt_lowWord, toInt_lowWord]
  · rw [toInt_sremR ne, toInt_lowWord, toInt_lowWord]
  · rw [BitVec.toInt_eq_toNat_bmod, toNat_udivR ne, toNat_lowWord, toNat_lowWord]
  · rw [BitVec.toInt_eq_toNat_bmod, toNat_uremR ne, toNat_lowWord, toNat_lowWord]

theorem toInt_aluFn_divw_zero (h : loInt b = 0) :
    (aluFn .divw a b).toInt = -1 ∧ (aluFn .remw a b).toInt = loInt a ∧ (aluFn .divuw a b).toInt = -1 ∧
      (aluFn .remuw a b).toInt = loInt a := by
  obtain ⟨udiv, urem, sdiv, srem⟩ := divR_zero (a.setWidth 32)
  simp only [aluFn, toInt_wop, (lowWord_eq_zero_iff b).mpr h, udiv, urem, sdiv, srem, toInt_lowWord]
  exact ⟨rfl, trivial, rfl, trivial⟩

theorem getLsbD_aluFn_rolw {i : Nat} (hi : i < 64) :
    (aluFn .rolw a b).getLsbD i = a.getLsbD ((min i 31 + (32 - b.toNat % 32)) % 32) := by
  rw [aluFn, getLsbD_wop _ _ _ hi, getLsbD_rolN _ _ _ (by omega), lowWord_amount, Nat.mod_mod,
    getLsbD_lowWord _ (Nat.mod_lt _ (by omega))]

theorem getLsbD_aluFn_rorw {i : Nat} (hi : i < 64) :
    (aluFn .rorw a b).getLsbD i = a.getLsbD ((min i 31 + b.toNat % 32) % 32) := by
  rw [aluFn, getLsbD_wop _ _ _ hi, getLsbD_rorN _ _ _ (by omega), lowWord_amount,
    getLsbD_lowWord _ (Nat.mod_lt _ (by omega))]

end

/-! ### The immediate forms -/

/-- A low word of a sum is the sum of the low words. -/
theorem immFn_addiw (a : Word) (i : BitVec 12) : immFn .addiw a i = aluFn .addw a (i.signExtend 64) := by
  rw [immFn, sextw, BitVec.setWidth_add _ _ (by omega)]; rfl

section
variable (n : BitVec 6)

/-- A shift amount of six bits, taken as a register's value, is that amount. -/
theorem toNat_amount : (n.setWidth 64).toNat = n.toNat := by
  rw [BitVec.toNat_setWidth]; have := n.isLt; omega

theorem amount_mod : (n.setWidth 64).toNat % 64 = n.toNat := by
  rw [toNat_amount]; have := n.isLt; omega

theorem lowWord_amount_mod : ((n.setWidth 64 : Word).setWidth 32).toNat % 32 = n.toNat % 32 := by
  rw [lowWord_amount, toNat_amount]

end

/-- Each immediate form of a shift or single-bit operation is its register form. -/
theorem shFn_eq_aluFn (a : Word) (n : BitVec 6) : let b := n.setWidth 64
    shFn .slli a n = aluFn .sll a b ∧ shFn .srli a n = aluFn .srl a b ∧ shFn .srai a n = aluFn .sra a b ∧
    shFn .rori a n = aluFn .ror a b ∧ shFn .bseti a n = aluFn .bset a b ∧ shFn .bclri a n = aluFn .bclr a b ∧
    shFn .binvi a n = aluFn .binv a b ∧ shFn .bexti a n = aluFn .bext a b := by
  simp only [shFn, aluFn, amount_mod, and_self]

theorem shFn_word_eq_aluFn (a : Word) (n : BitVec 6) : let b := n.setWidth 64
    shFn .slliw a n = aluFn .sllw a b ∧ shFn .srliw a n = aluFn .srlw a b ∧ shFn .sraiw a n = aluFn .sraw a b ∧
    shFn .roriw a n = aluFn .rorw a b := by
  simp only [shFn, aluFn, wop, lowWord_amount_mod, and_self]

theorem toNat_shFn_slliUw (a : Word) (n : BitVec 6) : (shFn .slliUw a n).toNat = a.toNat % 2 ^ 32 * 2 ^ n.toNat % 2 ^ 64 := by
  rw [shFn, BitVec.toNat_shiftLeft, zextw_toNat, Nat.shiftLeft_eq]

/-! ### The instructions -/

/-- An integer instruction that writes one register. -/
theorem scalarOp_retires {s : State} (r : s.Runs) {op : ScalarOp} {d : Reg} {v : Word}
    (h : scalarOp op s.begun = .ok () (s.begun.putX d v)) :
    ∃ t, exec (.standardScalarInstruction op) s = .next t ∧ Retired s t (·.setX d.toNat v) s.nextPc :=
  retires_setX r h

/-- Settles O12: each form runs as one write of a register, and the written value is the operation's by the lemmas above. -/
theorem integerResults : Obligations.IntegerResults := by
  refine ⟨fun s r d => ?retire, fun a b => ?base, fun a b h => ?div, fun a => ?divZero, by decide, by decide, fun a b => ?zba,
    fun a b i hi => ?bits, fun a b => ?extremes, fun a => ?unary, fun a b => ?words, fun a i => ?imm, fun a n => ?shift⟩
  case retire =>
    exact ⟨fun _ => scalarOp_retires r rfl, fun _ => scalarOp_retires r rfl, fun _ _ _ => scalarOp_retires r rfl,
      fun _ _ _ => scalarOp_retires r rfl, fun _ _ _ => scalarOp_retires r rfl, fun _ _ => scalarOp_retires r rfl⟩
  case base =>
    exact ⟨rfl, rfl, rfl, rfl, rfl, rfl, rfl, rfl, toInt_sshiftRight_eq_div a _, aluFn_sltu a b, aluFn_slt a b,
      hiProd_eq _ _, hiProd_eq _ _, toNat_aluFn_mulhu a b⟩
  case div => exact ⟨toNat_udivR h, toNat_uremR h, fun o => toInt_sdivR_of_no_overflow h o, toInt_sremR h⟩
  case divZero => obtain ⟨udiv, urem, sdiv, srem⟩ := divR_zero a; exact ⟨udiv, urem, sdiv, srem⟩
  case zba =>
    exact ⟨congrArg (· + b) (shiftLeft_eq_mul a 1), congrArg (· + b) (shiftLeft_eq_mul a 2),
      congrArg (· + b) (shiftLeft_eq_mul a 3), toNat_aluFn_addUw a b, toNat_zextw_shift_add a b 1, toNat_zextw_shift_add a b 2,
      toNat_zextw_shift_add a b 3⟩
  case bits =>
    exact ⟨getLsbD_aluFn_andn a b hi, getLsbD_aluFn_orn a b hi, getLsbD_aluFn_xnor a b hi, getLsbD_aluFn_rol a b hi,
      getLsbD_aluFn_ror a b hi, getLsbD_aluFn_bset a b hi, getLsbD_aluFn_bclr a b hi, getLsbD_aluFn_binv a b hi⟩
  case extremes =>
    exact ⟨toInt_aluFn_max a b, toInt_aluFn_min a b, toNat_aluFn_maxu a b, toNat_aluFn_minu a b, aluFn_bext a b, rfl, rfl⟩
  case unary =>
    exact ⟨clz_ctz_zero a, clz_ctz_of_ne_zero a, toNat_unFn_cpop a, toInt_unFn_sextb a, toInt_unFn_sexth a, toNat_unFn_zexth a,
      fun i hi => ⟨lane_unFn_orcb a hi, lane_unFn_rev8 a hi⟩, clzw_ctzw_zero a, clzw_ctzw_of_ne_zero a, toNat_unFn_cpopw a⟩
  case words =>
    exact ⟨toInt_aluFn_addw a b, toInt_aluFn_subw a b, toInt_aluFn_mulw a b, toInt_aluFn_sllw a b, toInt_aluFn_srlw a b,
      toInt_aluFn_sraw a b, toInt_aluFn_divw_of_ne_zero a b, toInt_aluFn_divw_zero a b,
      fun i hi => ⟨getLsbD_aluFn_rolw a b hi, getLsbD_aluFn_rorw a b hi⟩⟩
  case imm => exact ⟨rfl, rfl, rfl, rfl, rfl, rfl, immFn_addiw a i⟩
  case shift =>
    obtain ⟨sll, srl, sra, ror, bset, bclr, binv, bext⟩ := shFn_eq_aluFn a n
    obtain ⟨sllw, srlw, sraw, rorw⟩ := shFn_word_eq_aluFn a n
    exact ⟨sll, srl, sra, ror, bset, bclr, binv, bext, toNat_shFn_slliUw a n, sllw, srlw, sraw, rorw⟩

end Sys2Proof.Machine
end

section
/-! Doorbells, the accesses of hosts, control cores and cluster firmware, and the device registers that read 0
(spec/01_device.md R37, R39; spec/17_queue.md R447; spec/18_link.md R478 to R483). -/

namespace Sys2Proof.Machine

open Sys2Proof

/-! ### Events -/

theorem event_some {f : State → Option State} {s t : State} (h : f s = some t) : event f s = .next t := by
  rw [event, h]; rfl

theorem event_none {f : State → Option State} {s : State} (h : f s = none) : event f s = .next s := by
  rw [event, h]; rfl

/-! ### Doorbells -/

section
variable {s t u : State} {who : Party} {n : Nat} {v : Word}

theorem exec_mailboxDoorbell (hn : n < 8) (h : s.doorbell who n v = some t) :
    exec (.mailboxDoorbell who n v) s = .next t := by
  have run : exec (.mailboxDoorbell who n v) s = event (fun s => if n < 8 then s.doorbell who n v else none) s := rfl
  exact run.trans (event_some ((if_pos hn).trans h))

theorem State.doorbell_full (h : 16 ≤ (s.mailbox n).length) :
    s.doorbell who n v = some { s with maildrop := s.maildrop.put n ((s.maildrop.get 0 n + 1) % 2 ^ 16) } :=
  if_pos h

/-- A request that has been read is queued for the owner, and for anyone who asks for an attestation. -/
theorem State.doorbell_read {bs : List Byte} (room : (s.mailbox n).length < 16)
    (read : physBytes (wfld v 51 6 * 64) 64 s = .ok bs u) :
    s.doorbell who n v = some (if u.mayWrite who none = true ∨ (n = 4 ∧ reqOp bs = 1)
      then u.setMailbox n (u.mailbox n ++ [{ bytes := bs }]) else u) := by
  have dropped : (!u.mayWrite who none && !(n == coreSecurity && reqOp bs == 1)) = true ↔
      ¬(u.mayWrite who none = true ∨ (n = 4 ∧ reqOp bs = 1)) := by simp [coreSecurity, imp_iff_not_or]
  rw [State.doorbell, if_neg (by omega), read]
  simp only [dropped, ite_not]

theorem State.doorbell_unread {f : EngFail} (room : (s.mailbox n).length < 16) (hf : f ≠ .later)
    (read : physBytes (wfld v 51 6 * 64) 64 s = .error f u) : s.doorbell who n v = some u := by
  rw [State.doorbell, if_neg (by omega), read]
  cases f with
  | later => exact absurd rfl hf
  | page | access | poison _ => rfl

end

/-! ### The requests of hosts, control cores and firmware -/

section
variable (s : State) (dev h a : Nat) (v : Word)

theorem exec_readReg : exec (.hostRequest (.readReg dev a)) s =
    event (fun s => if isReg a then s.byHost dev (fun s _ => some (s.answerReg a)) else none) s := rfl
theorem exec_writeReg : exec (.hostRequest (.writeReg dev a v)) s =
    event (fun s => if isReg a then s.byHost dev (fun s h => s.regWrite (.host h) a v) else none) s := rfl
theorem exec_readMem : exec (.hostRequest (.readMem dev a)) s =
    event (fun s => if isBar2 a then s.byHost dev (fun s _ => some (s.answerMem a)) else none) s := rfl
theorem exec_writeMem : exec (.hostRequest (.writeMem dev a v)) s =
    event (fun s => if isBar2 a then s.byHost dev (fun s h => some (s.hostStore h a v)) else none) s := rfl
theorem exec_ownMem : exec (.hostRequest (.ownMem h a v)) s = event (fun s => if h < 8 ∧ a + 8 ≤ 2 ^ 48 then
    some (s.putBytes (hostBase + h * 2 ^ 48 + a) (leBytes 8 v.toNat) none) else none) s := rfl
theorem exec_peerMem : exec (.hostRequest (.peerMem h a v)) s = event (fun s =>
    if h < 4096 ∧ h ≠ s.devid ∧ a + 8 ≤ 2 ^ 40 then some (s.putBytes ((h + 1) * 2 ^ 52 + a) (leBytes 8 v.toNat) none)
    else none) s := rfl
theorem exec_phys (who : Party) (w : Option Word) :
    exec (.hostRequest (.phys who a w)) s = event (fun s => s.physAccess who a w) s := rfl
theorem exec_devWrite (who : Party) : exec (.registerWrite (.dev who a v)) s =
    event (fun s => if isReg a ∧ s.partyOk who then s.regWrite who a v else none) s := rfl

end

/-! ### Hosts -/

section
variable {s : State} {dev h : Nat} (hd : dev < 4096) (f : State → Nat → Option State)
include hd

theorem State.byHost_known (known : s.hostOf dev = some h) : s.byHost dev f = f s h := by
  rw [State.byHost, if_neg (by omega), State.hostEntry, known]

/-- A first access takes the lowest free entry of the host table. -/
theorem State.byHost_first (new : s.hostOf dev = none)
    (free : (List.range 8).find? (fun h => (s.hosts.get none h).isNone) = some h) :
    s.byHost dev f = f { s with hosts := s.hosts.put h (some dev) } h := by
  simp only [State.byHost, if_neg (show ¬ 4096 ≤ dev by omega), State.hostEntry, new, free]

end

/-- answerReg is unfolded as a function, apart from its arguments: of its value at a variable address the kernel would first
evaluate regRead, and count the address down to the base of the range one by one. -/
theorem State.answerReg_some {s : State} {a : Nat} {v : Word} (h : s.regRead a = some v) :
    s.answerReg a = { s with hostData := v :: s.hostData } := by
  obtain ⟨answer, same⟩ : ∃ f, f = State.answerReg := ⟨_, rfl⟩
  rw [← same]
  delta State.answerReg at same
  simp only [same, h]

theorem State.answerMem_ok {s u : State} {a : Nat} {bs : List Byte} (h : physRead a 8 s = .ok (bs, false) u) :
    s.answerMem a = { u with hostData := w64 (leNat bs) :: u.hostData } := by
  rw [State.answerMem, h]; rfl

theorem State.hostStore_owner {s u : State} {h a : Nat} {v : Word} (may : s.mayWrite (.host h) none = true)
    (put : physWrite a (leBytes 8 v.toNat) [] s = .ok () u) : s.hostStore h a v = u := by
  rw [State.hostStore, if_pos may, put]

theorem State.hostStore_other {s : State} {h a : Nat} {v : Word} (may : s.mayWrite (.host h) none = false) :
    s.hostStore h a v = s.error { kind := 13, addr := a, info := h } :=
  if_neg (by simp [may])

/-! ### Memory that a party writes -/

/-- Bytes put into storage by a party change those bytes of memory. -/
theorem wrote_putBytes (s : State) (a : Nat) (bs : List Byte) (h : Option Hart) : Wrote s (s.putBytes a bs h) a bs := by
  refine ⟨fun i hi => ?_, fun p hp => Memory.read_writeN_outside bs s.mem a p hp⟩
  rw [List.getD_eq_getElem _ _ hi]
  exact Memory.read_writeN_inside bs s.mem a i hi

/-- Byte i of a doubleword in memory order is its bits from 8 i up. -/
theorem leBytes_getD_eq_extractLsb' (v : Word) {i : Nat} (hi : i < 8) :
    (leBytes 8 v.toNat).getD i 0#8 = v.extractLsb' (8 * i) 8 := by
  rw [leBytes_getD _ hi]
  apply BitVec.eq_of_toNat_eq
  rw [BitVec.extractLsb'_toNat, BitVec.toNat_ofNat, Nat.shiftRight_eq_div_pow, Nat.pow_mul]

/-! ### Physical accesses of control cores and firmware -/

/-- The party is a control core, or the firmware of a cluster. -/
def onPackage (who : Party) : Prop := (∃ k, k < 40 ∧ who = .firmware k) ∨ (∃ n, n < 8 ∧ who = .control n)

theorem partyOk_of_onPackage {s : State} {who : Party} (p : onPackage who) : s.partyOk who = true := by
  obtain ⟨k, hk, rfl⟩ | ⟨n, hn, rfl⟩ := p <;> simpa [State.partyOk]

section
variable {s : State} {who : Party} {a : Nat}

theorem State.physAccess_reg_read (p : onPackage who) (reg : isReg a = true) :
    s.physAccess who a none = some (s.answerReg a) := by
  have ok := partyOk_of_onPackage (s := s) p
  obtain ⟨k, _, rfl⟩ | ⟨n, _, rfl⟩ := p <;> simp only [State.physAccess, reg, ok, if_true]

theorem State.physAccess_reg_write {w : Word} (p : onPackage who) (reg : isReg a = true) :
    s.physAccess who a (some w) = s.regWrite who a w := by
  have ok := partyOk_of_onPackage (s := s) p
  obtain ⟨k, _, rfl⟩ | ⟨n, _, rfl⟩ := p <;> simp only [State.physAccess, reg, ok, if_true]

theorem State.physAccess_sram (v : Option Word) (reg : isReg a = false) :
    s.physAccess who a v = (partySram who a).bind (fun e => s.sramAccess e a v) := by
  simp only [State.physAccess, reg, Bool.false_eq_true, if_false]

end

theorem State.sramAccess_write {s u : State} {e : Eng} {a : Nat} {w : Word}
    (put : s.engPut e { a := a, sram := true, attr := {} } (leBytes 8 w.toNat) [] = (u, .ok ())) :
    s.sramAccess e a (some w) = some u := by
  simp only [State.sramAccess, put]

theorem State.sramAccess_read {s u : State} {e : Eng} {a : Nat} {bs : List Byte} {ps : List Bool}
    (got : s.engGet e { a := a, sram := true, attr := {} } 8 = (u, .ok (bs, ps))) (clean : ps.any id = false) :
    s.sramAccess e a none = some { u with hostData := w64 (leNat bs) :: u.hostData } := by
  simp only [State.sramAccess, got, clean, Bool.false_eq_true, if_false]

/-- The firmware of a cluster reaches its own vault. -/
theorem partySram_firmware_vault {k a : Nat} (hk : k < 40) (h8 : a % 8 = 0) (hr : rangeOf a = .vault) :
    (partySram (.firmware k) a).isSome = true ↔ (a - vaultBase) / 2 ^ 26 = k := by
  simp [partySram, h8, hr, hk]

theorem partySram_control_vault {n a : Nat} (hn : n < 8) (h8 : a % 8 = 0) (hr : rangeOf a = .vault) :
    (partySram (.control n) a).isSome = true := by
  simp [partySram, h8, hr, hn]

/-! ### Device registers -/

section
variable (s : State)

/-- The notify page of a queue. -/
theorem State.regRead_notify {q : Nat} (h : q < 2 ^ 18) :
    s.regRead (regsBase + 4096 * q) = if q < nQueues then some (w64 (s.queue q).wr) else none := by
  have page : 4096 * q < queueBlock := by unfold queueBlock; omega
  rw [State.regRead, Nat.add_sub_cancel_left, if_pos page, Nat.mul_mod_right, Nat.mul_div_cancel_left _ (by omega)]
  simp only [true_and]

theorem State.regRead_cluster {cl o : Nat} (hcl : cl < 40) (ho : o < 2 ^ 20) :
    s.regRead (regsBase + clusterBlock + cl * 2 ^ 20 + o) = s.clusterReg cl o := by
  have off : regsBase + clusterBlock + cl * 2 ^ 20 + o - regsBase = 0x80000000 + (cl * 2 ^ 20 + o) := by
    unfold clusterBlock; omega
  rw [State.regRead, off, if_neg (by unfold queueBlock; omega), if_neg (by unfold queueBlock nQueues; omega),
    if_pos (by unfold clusterBlock; omega)]
  unfold clusterBlock
  rw [Nat.add_sub_cancel_left, show (cl * 2 ^ 20 + o) / 2 ^ 20 = cl by omega,
    show (0x80000000 + (cl * 2 ^ 20 + o)) % 2 ^ 20 = o by omega]

theorem State.regRead_control (o : Nat) : s.regRead (regsBase + controlBlock + o) = s.controlReg o := by
  have off : regsBase + controlBlock + o - regsBase = 0xC0000000 + o := by unfold controlBlock; omega
  rw [State.regRead, off, if_neg (by unfold queueBlock; omega), if_neg (by unfold queueBlock nQueues; omega),
    if_neg (by unfold clusterBlock; omega), if_pos (by unfold controlBlock; omega)]
  unfold controlBlock
  rw [Nat.add_sub_cancel_left]

/-- CLAIM and HANDOFF only take writes. -/
theorem State.controlReg_ownership : s.controlReg 0x10008 = some 0#64 ∧ s.controlReg 0x10010 = some 0#64 := ⟨rfl, rfl⟩

theorem State.controlReg_doorbell {n : Nat} (h : n < 8) : s.controlReg (0x20000 + 0x1000 * n) = some 0#64 := by
  rw [State.controlReg, if_neg (by unfold nLinks; omega), if_neg (by omega), if_neg (by omega), if_neg (by omega),
    if_neg (by omega), if_neg (by omega), if_pos (by omega)]

theorem State.clusterReg_broadcastMask (cl : Nat) {o : Nat} (h : o < 0x80) : s.clusterReg cl o = some 0#64 := if_pos h

/-- A party that may not write leaves every notify register as it is. -/
theorem State.regWrite_notify_other {who : Party} {a : Nat} (v : Word) (may : s.mayWrite who none = false)
    (hi : a < regsBase + 0x40000000) : s.regWrite who a v = some s := by
  have page : a - regsBase < queueBlock := by unfold queueBlock; omega
  simp only [State.regWrite, if_pos page, may, Bool.false_eq_true, if_false]

end

/-- Settles O57: each access is an event whose change the lemmas above give, one for each party and part of the map. -/
theorem hostAccesses : Obligations.HostAccesses := by
  refine ⟨fun s who n v hn => ?doorbell, fun s dev h a hd known => ?known, fun s dev a h v hd reg new free read => ?first,
    fun s h a v hh ha => ?ownMem, fun s home a v hh ne ha => ?peerMem, fun s who a v reg => ?sram,
    fun s who a reg p => ?reg, fun s q => ?notify, fun k a hk h8 hr => ?vault, fun s => ?writeOnly,
    fun s u who a v reg ok put => ?write, fun s h a v may _ hi => s.regWrite_notify_other v may hi⟩
  case doorbell =>
    refine ⟨fun full => exec_mailboxDoorbell hn (State.doorbell_full full), fun u room => ⟨fun bs read => ⟨fun may => ?_,
      fun may other => ?_⟩, fun f hf read => exec_mailboxDoorbell hn (State.doorbell_unread room hf read)⟩⟩
    · exact exec_mailboxDoorbell hn ((State.doorbell_read room read).trans (by rw [if_pos may]))
    · have no : ¬(u.mayWrite who none = true ∨ (n = 4 ∧ reqOp bs = 1)) := by
        rintro (yes | ⟨four, op⟩)
        · simp [may] at yes
        · exact other.elim (· four) (· op)
      exact exec_mailboxDoorbell hn ((State.doorbell_read room read).trans (by rw [if_neg no]))
  case known =>
    refine ⟨fun v reg read => (exec_readReg s dev a).trans (event_some ?_),
      fun v u reg put => (exec_writeReg s dev a v).trans (event_some ?_),
      fun u bs bar read => (exec_readMem s dev a).trans (event_some ?_),
      fun v u bar may put => (exec_writeMem s dev a v).trans (event_some ?_),
      fun v bar may => (exec_writeMem s dev a v).trans (event_some ?_)⟩
    · rw [if_pos reg, State.byHost_known hd _ known, State.answerReg_some read]
    · rw [if_pos reg, State.byHost_known hd _ known, put]
    · rw [if_pos bar, State.byHost_known hd _ known, State.answerMem_ok read]
    · rw [if_pos bar, State.byHost_known hd _ known, State.hostStore_owner may put]
    · rw [if_pos bar, State.byHost_known hd _ known, State.hostStore_other may]
  case first =>
    refine (exec_readReg s dev a).trans (event_some ?_)
    rw [if_pos reg, State.byHost_first hd _ new free, State.answerReg_some read]
  case ownMem =>
    obtain ⟨inside, outside⟩ := wrote_putBytes s (hostBase + h * 2 ^ 48 + a) (leBytes 8 v.toNat) none
    rw [length_leBytes] at inside outside
    refine ⟨_, (exec_ownMem s h a v).trans (event_some (if_pos ⟨hh, ha⟩)), fun i hi => ?_, outside⟩
    rw [inside i hi, leBytes_getD_eq_extractLsb' v hi]
  case peerMem =>
    exact ⟨_, (exec_peerMem s home a v).trans (event_some (if_pos ⟨hh, ne, ha⟩)), wrote_putBytes s _ _ none, rfl, rfl⟩
  case sram =>
    rw [exec_phys]
    refine ⟨fun no => event_none ?_, fun e w u way hv put => event_some ?_,
        fun e bs ps u way hv got clean => event_some ?_⟩ <;>
      rw [State.physAccess_sram v reg]
    · rw [no]; rfl
    · rw [way, hv]; exact State.sramAccess_write put
    · rw [way, hv]; exact State.sramAccess_read got clean
  case reg =>
    refine ⟨fun x read => (exec_phys s a who none).trans (event_some ?_),
      fun w u put => (exec_phys s a who (some w)).trans (event_some ?_)⟩
    · rw [State.physAccess_reg_read p reg, State.answerReg_some read]
    · rw [State.physAccess_reg_write p reg, put]
  case notify =>
    refine ⟨fun h => ?_, fun lo hi => ?_⟩
    · rw [s.regRead_notify (by unfold nQueues at h; omega), if_pos h]
    · rw [s.regRead_notify hi, if_neg (by omega)]
  case vault => exact ⟨partySram_firmware_vault hk h8 hr, fun n hn => partySram_control_vault hn h8 hr⟩
  case writeOnly =>
    obtain ⟨claim, handoff⟩ := s.controlReg_ownership
    refine ⟨(s.regRead_control _).trans claim, (s.regRead_control _).trans handoff, fun n hn => ?_, fun cl c hcl hc => ?_⟩
    · rw [Nat.add_assoc (regsBase + controlBlock), s.regRead_control, s.controlReg_doorbell hn]
    · rw [s.regRead_cluster hcl (by omega), s.clusterReg_broadcastMask cl (by omega)]
  case write => exact (exec_devWrite s a v who).trans (event_some ((if_pos ⟨reg, ok⟩).trans put))

end Sys2Proof.Machine
end

section
/-! The rules this development adds to the laws of the state, and the scalar floating-point instructions
(spec/02_numbers.md R43 to R45; spec/03_encoding.md R73). -/

namespace Sys2Proof.Machine

open Sys2Proof

/-! ### One update after another -/

theorem insertAt_insertAt {α : Type} (k : Nat) (v w : α) (l : List (Nat × α)) :
    insertAt k v (insertAt k w l) = insertAt k v l := by
  induction l with
  | nil => simp [insertAt]
  | cons e r ih =>
    obtain ⟨j, u⟩ := e
    by_cases same : j = k
    · simp [insertAt, same]
    · by_cases below : k < j <;> simp [insertAt, same, below, ih]

@[simp] theorem Tab.put_put {α : Type} (t : Tab α) (k : Nat) (v w : α) : (t.put k w).put k v = t.put k v :=
  congrArg Tab.mk (insertAt_insertAt k v w t.ents)

@[simp] theorem State.modCtx_modCtx (s : State) (h : Hart) (f g : Ctx → Ctx) :
    (s.modCtx h f).modCtx h g = s.modCtx h (fun c => g (f c)) := by
  simp [State.modCtx, State.modSlot, State.setSlot, State.slot, Function.comp_def]

/-! ### Numbers of n bits -/

theorem sint_eq_toInt (v n : Nat) : sint v n = (BitVec.ofNat n v).toInt := by
  rw [BitVec.toInt_eq_msb_cond, BitVec.msb_eq_getLsbD_last, ← BitVec.testBit_toNat, BitVec.toNat_ofNat]
  rfl

theorem sint_toNat {m : Nat} (v : BitVec m) (n : Nat) : sint v.toNat n = (v.setWidth n).toInt := by
  rw [sint_eq_toInt, BitVec.ofNat_toNat]

theorem sextW_eq_signExtend (v : Nat) {n : Nat} (h : n ≤ 64) : sextW v n = (BitVec.ofNat n v).signExtend 64 := by
  have ofInt : sextW v n = BitVec.ofInt 64 (sint v n) := by
    have : 2 ^ n ≤ 2 ^ 64 := Nat.pow_le_pow_right (by decide) h
    unfold sextW sint
    generalize 2 ^ n = p at *
    dsimp only
    split
    · apply BitVec.eq_of_toNat_eq
      rw [BitVec.toNat_ofInt, BitVec.toNat_ofNat]
      omega
    · exact (BitVec.ofInt_natCast 64 (v % p)).symm
  rw [ofInt, sint_eq_toInt]
  rfl

theorem sextW_64 (v : Nat) : sextW v 64 = w64 v := by
  rw [sextW_eq_signExtend v le_rfl, BitVec.signExtend_eq]

/-! ### What a floating-point instruction asks of the state -/

section
variable {s : State} {rm : BitVec 3}

theorem needF_on (on : (s.ctx s.cur).fs ≠ 0) : needF s = .ok () s := by simp [needF, on]
theorem needF_off (off : (s.ctx s.cur).fs = 0) : needF s = .error (.trap 2 (s.ibits.setWidth 64)) s := by
  simp [needF, off, require_apply]

/-- The rounding mode that an instruction asks for: its own, or through rm 7 the one of frm. -/
def Ctx.rounding (c : Ctx) (rm : BitVec 3) : Nat := if rm = 7#3 then c.frm else rm.toNat

theorem roundMode_ok (ok : (s.ctx s.cur).rounding rm ≤ 4) : roundMode rm s = .ok ((s.ctx s.cur).rounding rm) s := by
  unfold Ctx.rounding at *
  simp [roundMode, ok]

theorem roundMode_reserved (r : 4 < (s.ctx s.cur).rounding rm) :
    roundMode rm s = .error (.trap 2 (s.ibits.setWidth 64)) s := by
  have no : ¬ (s.ctx s.cur).rounding rm ≤ 4 := by omega
  unfold Ctx.rounding at *
  simp [roundMode, require_apply, no]

@[simp] theorem getF_apply (r : Reg) (s : State) : getF r s = .ok ((s.ctx s.cur).getF r.toNat) s := rfl
@[simp] theorem getFv_apply (fmt : FpFmt) (r : Reg) (s : State) :
    getFv fmt r s = .ok (unbox fmt ((s.ctx s.cur).getF r.toNat)) s := rfl
@[simp] theorem setF_apply (r : Reg) (v : Word) (s : State) : setF r v s = .ok () (s.modCtx s.cur (·.setF r.toNat v)) := rfl
@[simp] theorem accrue_apply (g : FFlags) (s : State) : accrue g s = .ok () (s.modCtx s.cur (·.accrue g)) := rfl
@[simp] theorem putFv_apply (fmt : FpFmt) (d : Reg) (z : Nat × FFlags) (s : State) :
    putFv fmt d z s = .ok () (s.modCtx s.cur (fun c => (c.setF d.toNat (boxF fmt z.1)).accrue z.2)) := by
  simp [putFv]

/-- A result in an x register, with its flags. -/
theorem setX_accrue (d : Reg) (v : Word) (g : FFlags) (s : State) :
    (setX d v >>= fun _ => accrue g) s = .ok () (s.modCtx s.cur (fun c => (c.setX d.toNat v).accrue g)) := by
  simp [State.putX]

end

/-! ### How they end -/

section
variable {s : State} {rm : BitVec 3} {op : ScalarOp} {fmt : FpFmt} {d : Reg}

/-- With FS Off a floating-point instruction, whatever follows its first check, is illegal. -/
theorem exec_fs_off {body : Unit → M Unit} (r : s.Runs) (off : (s.ctx s.cur).fs = 0) (e : scalarOp op = needF >>= body) :
    exec (.standardScalarInstruction op) s = .next (s.trapped 2 (s.ibits.setWidth 64)) := by
  refine runThread_trapped r ?_
  rw [e, estate_bind, needF_off (s := s.begun) off]
  rfl

/-- An instruction that needs only FS: it retires with its update of the context. -/
theorem exec_fp {body : Unit → M Unit} {f : Ctx → Ctx} (r : s.Runs) (on : (s.ctx s.cur).fs ≠ 0)
    (e : scalarOp op = needF >>= body) (run : body () s.begun = .ok () (s.begun.modCtx s.cur f)) :
    ∃ t, exec (.standardScalarInstruction op) s = .next t ∧ Retired s t f s.nextPc := by
  refine retires_ctx r ?_
  rw [e, estate_bind, needF_on (s := s.begun) on]
  exact run

/-- An instruction that needs only FS and writes an f register. -/
theorem exec_fp_putFv {body : Unit → M Unit} {z : Nat × FFlags} (r : s.Runs) (on : (s.ctx s.cur).fs ≠ 0)
    (e : scalarOp op = needF >>= body) (run : body () s.begun = putFv fmt d z s.begun) :
    ∃ t, exec (.standardScalarInstruction op) s = .next t ∧
      Retired s t (fun c => (c.setF d.toNat (boxF fmt z.1)).accrue z.2) s.nextPc :=
  exec_fp r on e (run.trans (putFv_apply fmt d z s.begun))

/-- An instruction with a rounding mode: with a mode that is not reserved it retires with its update of the context, and
with a reserved one it is illegal. -/
theorem exec_rounded {body : Nat → M Unit} {f : Nat → Ctx → Ctx} (r : s.Runs) (on : (s.ctx s.cur).fs ≠ 0)
    (e : scalarOp op = needF >>= fun _ => roundMode rm >>= body)
    (run : ∀ k, body k s.begun = .ok () (s.begun.modCtx s.cur (f k))) :
    let k := (s.ctx s.cur).rounding rm
    (k ≤ 4 → ∃ t, exec (.standardScalarInstruction op) s = .next t ∧ Retired s t (f k) s.nextPc) ∧
    (4 < k → exec (.standardScalarInstruction op) s = .next (s.trapped 2 (s.ibits.setWidth 64))) := by
  refine ⟨fun ok => exec_fp r on e ?_, fun reserved => runThread_trapped r ?_⟩
  · rw [estate_bind, roundMode_ok (s := s.begun) ok]
    exact run _
  · rw [e, estate_bind, needF_on (s := s.begun) on]
    simp [roundMode_reserved (s := s.begun) reserved]

/-- An instruction with a rounding mode that writes an f register. -/
theorem exec_rounded_putFv {body : Nat → M Unit} {z : Nat → Nat × FFlags} (r : s.Runs) (on : (s.ctx s.cur).fs ≠ 0)
    (e : scalarOp op = needF >>= fun _ => roundMode rm >>= body) (run : ∀ k, body k s.begun = putFv fmt d (z k) s.begun) :
    let k := (s.ctx s.cur).rounding rm
    (k ≤ 4 → ∃ t, exec (.standardScalarInstruction op) s = .next t ∧
      Retired s t (fun c => (c.setF d.toNat (boxF fmt (z k).1)).accrue (z k).2) s.nextPc) ∧
    (4 < k → exec (.standardScalarInstruction op) s = .next (s.trapped 2 (s.ibits.setWidth 64))) :=
  exec_rounded r on e (fun k => (run k).trans (putFv_apply fmt d (z k) s.begun))

end

/-! ### Signs, extremes and integers -/

/-- The sign bit of a format is its highest. -/
theorem binOf_sign (fmt : FpFmt) : (binOf fmt).e + (binOf fmt).m = fmtWidth fmt - 1 := by cases fmt <;> rfl

theorem sgnj_eq (fmt : FpFmt) (a b : Nat) :
    let sign := 2 ^ (fmtWidth fmt - 1)
    let neg (v : Nat) : Bool := v.testBit (fmtWidth fmt - 1)
    (binOf fmt).sgnj .sgnj a b = a % sign + (if neg b then sign else 0) ∧
    (binOf fmt).sgnj .sgnjn a b = a % sign + (if neg b then 0 else sign) ∧
    (binOf fmt).sgnj .sgnjx a b = a % sign + (if neg b ≠ neg a then sign else 0) := by
  cases ha : a.testBit (fmtWidth fmt - 1) <;> cases hb : b.testBit (fmtWidth fmt - 1) <;>
    simp [BinFmt.sgnj, BinFmt.sgn, binOf_sign, ha, hb]

/-- Only numbers and infinities are ordered. -/
theorem FV.isNan_of_lt {a b : FV} (h : a.lt b = true) : a.isNan = false ∧ b.isNan = false := by
  cases a <;> cases b <;> simp_all [FV.lt, FV.isNan]

/-- A NaN loses against a number, and of two numbers the lesser is the minimum. -/
theorem minmax_choice (f : BinFmt) (x y : Nat) (m : Bool) :
    ((f.val x).isNan = true → (f.val y).isNan = false → (f.minmax m x y).1 = y) ∧
    ((f.val x).isNan = false → (f.val y).isNan = true → (f.minmax m x y).1 = x) ∧
    ((f.val x).isNan = true → (f.val y).isNan = true → (f.minmax m x y).1 = f.nan) ∧
    ((f.val x).lt (f.val y) = true → (f.minmax m x y).1 = if m then y else x) := by
  refine ⟨fun hx hy => ?_, fun hx hy => ?_, fun hx hy => ?_, fun lt => ?_⟩
  · simp [BinFmt.minmax, hx, hy]
  · simp [BinFmt.minmax, hx, hy]
  · simp [BinFmt.minmax, hx, hy]
  · obtain ⟨hx, hy⟩ := FV.isNan_of_lt lt
    cases m <;> simp [BinFmt.minmax, hx, hy, lt]

/-- The integer that a register holds in an integer format. -/
def intValue (t : IntFmt) (v : Word) : Int :=
  match t with
  | .w => (v.setWidth 32).toInt
  | .wu => (v.toNat % 2 ^ 32 : Nat)
  | .l => v.toInt
  | .lu => (v.toNat : Nat)

theorem intValue_eq (t : IntFmt) (v : Word) : intValue t v =
    if (intFmt t).2 then sint v.toNat (intFmt t).1 else ((v.toNat % 2 ^ (intFmt t).1 : Nat) : Int) := by
  cases t
  case w => exact (sint_toNat v 32).symm
  case wu => rfl
  case l => exact ((sint_toNat v 64).trans (congrArg BitVec.toInt v.setWidth_eq)).symm
  case lu => exact congrArg Nat.cast (Nat.mod_eq_of_lt v.isLt).symm

theorem intFmt_eq (t : IntFmt) : intFmt t = (if t = .w ∨ t = .wu then 32 else 64, decide (t = .w ∨ t = .l)) := by
  cases t <;> rfl

/-- An integer result in a register: 32 bits are sign-extended. -/
theorem sextW_intFmt (t : IntFmt) (v : Nat) :
    sextW v (intFmt t).1 = if t = .w ∨ t = .wu then (BitVec.ofNat 32 v).signExtend 64 else w64 v := by
  cases t
  case w | wu => exact sextW_eq_signExtend v (by decide)
  case l | lu => exact sextW_64 v

/-- Settles O14: each instruction is its check of FS, its rounding mode where it has one, and one update of the context,
and the three lemmas about such instructions say how it ends. -/
theorem floatResults : Obligations.FloatResults := by
  refine ⟨fun s rm fmt d a r on => ?rounded, fun s fmt d a y r on => ?plain, fun f x y _ m => minmax_choice f x y m,
    fun s rm fmt d a y z r off i form => ?off⟩
  case rounded =>
    refine ⟨fun k y => ?_, ?_, fun k y z => ?_, fun src => ?_, fun t => ?_, fun t => ?_⟩
    · exact (exec_rounded_putFv r on (op := .fp2 k fmt rm d a y) rfl (fun n => rfl) :)
    · exact (exec_rounded_putFv r on (op := .fsqrt fmt rm d a) rfl (fun n => rfl) :)
    · exact (exec_rounded_putFv r on (op := .fma k fmt rm d a y z) rfl (fun n => rfl) :)
    · exact (exec_rounded_putFv r on (op := .fcvtFF fmt src rm d a) rfl (fun n => rfl) :)
    · refine exec_rounded_putFv (z := fun n => (binOf fmt).ofInt n (intValue t (s.xr a))) r on rfl (fun n => ?_)
      rw [intValue_eq]
      rfl
    · have ends := exec_rounded (op := .fcvtIF t fmt rm d a) (f := fun n c =>
        let z := ((binOf fmt).val (unbox fmt ((s.ctx s.cur).getF a.toNat))).toIntSat n (intFmt t).2 (intFmt t).1
        (c.setX d.toNat (sextW z.1 (intFmt t).1)).accrue z.2) r on rfl (fun n => setX_accrue _ _ _ s.begun)
      simp only [sextW_intFmt] at ends
      simp only [intFmt_eq] at ends
      exact ends
  case plain =>
    refine ⟨fun k => ?_, fun k => ?_, ?_, ?_, ?_⟩
    · exact exec_fp r on rfl (setX_accrue _ _ _ s.begun)
    · obtain ⟨keep, invert, combine⟩ :=
        sgnj_eq fmt (unbox fmt ((s.ctx s.cur).getF a.toNat)) (unbox fmt ((s.ctx s.cur).getF y.toNat))
      cases k
      case min | max => exact exec_fp r on rfl (putFv_apply _ _ _ s.begun)
      case sgnj => exact exec_fp_putFv r on rfl (congrArg (fun v => putFv fmt d (v, {}) s.begun) keep)
      case sgnjn => exact exec_fp_putFv r on rfl (congrArg (fun v => putFv fmt d (v, {}) s.begun) invert)
      case sgnjx => exact exec_fp_putFv r on rfl (congrArg (fun v => putFv fmt d (v, {}) s.begun) combine)
    · exact exec_fp r on rfl rfl
    · exact exec_fp r on rfl rfl
    · exact exec_fp r on rfl rfl
  case off =>
    rcases form with ⟨k, rfl⟩ | ⟨k, rfl⟩ | ⟨k, rfl⟩ | rfl | ⟨k, rfl⟩ | rfl | rfl | rfl | ⟨t, rfl⟩ | ⟨t, rfl⟩ | ⟨src, rfl⟩ <;>
      exact exec_fs_off r off rfl

end Sys2Proof.Machine
end

section
/-! The vsetvl family: the length and the type it sets, and how it ends (spec/02_numbers.md R57; spec/07_context.md R190,
R193, R524). -/

namespace Sys2Proof.Machine

open Sys2Proof

/-! ### VLMAX -/

theorem vlmaxOf_le {vt : Word} {m : Nat} (h : vlmaxOf vt = some m) : m ≤ 512 := by
  unfold vlmaxOf at h
  dsimp only at h
  have sew : 8 ≤ 8 * 2 ^ wfld vt 5 3 := Nat.le_mul_of_pos_right 8 (Nat.two_pow_pos _)
  split at h
  · cases h
  · split at h
    · next small =>
      cases h
      have : 2 ^ wfld vt 2 0 ≤ 2 ^ 3 := Nat.pow_le_pow_right (by decide) (by omega)
      exact (Nat.div_le_div_left sew (by decide)).trans (by omega)
    · split at h
      · cases h
      · cases h
        exact (Nat.div_le_self _ _).trans (Nat.div_le_self _ _)

theorem vlmaxOf_whole : ∀ sew < 4, ∀ lmul < 4,
    vlmaxOf (w64 (8 * sew + lmul)) = some (512 * 2 ^ lmul / (8 * 2 ^ sew)) := by decide

theorem vlmaxOf_fractional : ∀ sew < 4, ∀ k < 4, 0 < k → vlmaxOf (w64 (8 * sew + 8 - k)) =
    if 8 * 2 ^ sew * 2 ^ k ≤ 64 then some (512 / 2 ^ k / (8 * 2 ^ sew)) else none := by decide

theorem vlmaxOf_reserved : ∀ sew < 4, vlmaxOf (w64 (8 * sew + 4)) = none := by decide

theorem vlmaxOf_vbs : ∀ vbs < 5, vlmaxOf (w64 (256 * vbs)) = some 64 := by decide

/-! ### The context -/

section
variable (c : Ctx) (vt : Word) (avl : Option Nat)

/-- What setting vl changes, and nothing else. -/
theorem Ctx.setVl_frame : c.setVl vt avl =
    { c with vstart := 0#64, sstatus := wput c.sstatus 10 9 3, vl := (c.setVl vt avl).vl, vtype := (c.setVl vt avl).vtype } := by
  unfold Ctx.setVl Ctx.dirtyV
  dsimp only
  split
  · rfl
  · split
    · rfl
    · split <;> rfl

theorem Ctx.setVl_vl_vtype : ((c.setVl vt avl).vl, (c.setVl vt avl).vtype) =
    match vlmaxOf vt, avl with
    | none, _ => (0, 0x8000000000000000#64)
    | some m, some n => (min n m, vt)
    | some m, none => if vlmaxOf c.vtype = some m then (c.vl, vt) else (0, 0x8000000000000000#64) := by
  unfold Ctx.setVl Ctx.dirtyV
  cases vlmaxOf vt with
  | none => rfl
  | some m =>
    cases avl with
    | some n => rfl
    | none => dsimp only; split <;> rfl

/-- No length that is asked for beyond the greatest VLMAX makes a difference. -/
theorem Ctx.setVl_large {n k : Nat} (hn : 512 ≤ n) (hk : 512 ≤ k) : c.setVl vt (some n) = c.setVl vt (some k) := by
  unfold Ctx.setVl
  cases h : vlmaxOf vt with
  | none => rfl
  | some m =>
    have := vlmaxOf_le h
    simp only [Nat.min_eq_right (this.trans hn), Nat.min_eq_right (this.trans hk)]

/-- The context that an instruction of the family leaves of c, where it found c₀: vstart stays behind queued entries (R524), and
register r takes the new length. -/
def Ctx.vset (c₀ : Ctx) (vt : Word) (avl : Option Nat) (r : Nat) (c : Ctx) : Ctx :=
  let k := c.setVl vt avl
  (if c₀.seq.isEmpty then k else { k with vstart := c₀.vstart }).setX r (w64 (c₀.setVl vt avl).vl)

theorem Ctx.vset_self (r : Nat) : c.vset vt avl r c =
    { c.setVl vt avl with
      vstart := if c.seq = [] then 0#64 else c.vstart, x := (c.setX r (w64 (c.setVl vt avl).vl)).x } := by
  unfold Ctx.vset
  rw [Ctx.setVl_frame]
  unfold Ctx.setX
  cases c.seq <;> simp only [List.isEmpty_nil, List.isEmpty_cons, if_true, Bool.false_eq_true, if_false, reduceCtorEq] <;>
    split <;> rfl

end

/-! ### How it ends -/

section
variable {s : State} {d : Reg} {vt : Word} {avl : Option Nat} {op : ScalarOp}

theorem needV_on (on : (s.ctx s.cur).vs ≠ 0) : needV s = .ok () s := by simp [needV, on]
theorem needV_off (off : (s.ctx s.cur).vs = 0) : needV s = .error (.trap 2 (s.ibits.setWidth 64)) s := by
  simp [needV, off, require_apply]

@[simp] theorem vsetAvl_apply (a : Reg) : vsetAvl d a s =
    .ok (if a ≠ 0#5 then some (s.xr a).toNat else if d ≠ 0#5 then some 1000 else none) s := by
  unfold vsetAvl
  split
  · simp
  · split <;> simp

/-- What the family checks before it sets anything. -/
theorem vsetOp_ok (r : (s.slot s.cur).ctx.isSome) (on : (s.ctx s.cur).vs ≠ 0)
    (free : (s.ctx s.cur).frozen = none ∨ (s.ctx s.cur).seq = [])
    (quiet : (s.ctx s.cur).seq.any (fun e => isFof e.bits) = false) :
    vsetOp d vt avl s = .ok () (s.modCtx s.cur ((s.ctx s.cur).vset vt avl d.toNat)) := by
  have pass : (!((s.ctx s.cur).frozen.isSome && !(s.ctx s.cur).seq.isEmpty)) = true := by
    rcases free with h | h <;> simp [h]
  have length (k : Ctx) : (if (s.ctx s.cur).seq.isEmpty then k else { k with vstart := (s.ctx s.cur).vstart }).vl = k.vl := by
    split <;> rfl
  simp only [vsetOp, estate_bind, needV_on on, ctx_apply, pass, require_true, estate_pure, quiet, Bool.not_false, waitUnless_true,
    modCtx_apply, State.cur_modCtx, State.modCtx_modCtx, setX_apply, State.putX, State.ctx_modCtx_same _ _ _ r, length]
  rfl

theorem vsetOp_illegal
    (no : (s.ctx s.cur).vs = 0 ∨ ((s.ctx s.cur).frozen ≠ none ∧ (s.ctx s.cur).seq ≠ [])) :
    vsetOp d vt avl s = .error (.trap 2 (s.ibits.setWidth 64)) s := by
  by_cases off : (s.ctx s.cur).vs = 0
  · simp [vsetOp, needV_off off]
  · obtain ⟨frozen, entries⟩ := no.resolve_left off
    simp [vsetOp, needV_on off, require_apply, frozen, entries]

theorem vsetOp_waits (on : (s.ctx s.cur).vs ≠ 0) (runs : (s.ctx s.cur).frozen = none)
    (fof : (s.ctx s.cur).seq.any (fun e => isFof e.bits) = true) : vsetOp d vt avl s = .error .wait s := by
  simp only [vsetOp, estate_bind, needV_on on, ctx_apply, runs, Option.isSome_none, Bool.false_and, Bool.not_false, require_true,
    estate_pure, fof, Bool.not_true, waitUnless_apply, Bool.false_eq_true, if_false]


/-- How an instruction of the family ends, in the words of its retirement. -/
theorem exec_vset (r : s.Runs) (e : scalarOp op s.begun = vsetOp d vt avl s.begun) :
    let c := s.ctx s.cur
    (c.vs ≠ 0 → c.frozen = none ∨ c.seq = [] → c.seq.any (fun e => isFof e.bits) = false →
      ∃ t, exec (.standardScalarInstruction op) s = .next t ∧
        Retired s t (c.vset vt avl d.toNat) s.nextPc) ∧
    (c.vs = 0 ∨ (c.frozen ≠ none ∧ c.seq ≠ []) →
      exec (.standardScalarInstruction op) s = .next (s.trapped 2 (s.ibits.setWidth 64))) ∧
    (c.vs ≠ 0 → c.frozen = none → c.seq.any (fun e => isFof e.bits) = true →
      exec (.standardScalarInstruction op) s = .next s.waited) :=
  ⟨fun on free quiet => retires_ctx r (e.trans (vsetOp_ok (s := s.begun) r.isSome on free quiet)),
    fun no => runThread_trapped r (e.trans (vsetOp_illegal (s := s.begun) no)),
    fun on runs fof => runThread_waited r (e.trans (vsetOp_waits (s := s.begun) on runs fof))⟩

/-- The length that a register operand asks for. -/
def askedLength (s : State) (d a : Reg) : Option Nat :=
  if a ≠ 0#5 then some (s.xr a).toNat else if d ≠ 0#5 then some 512 else none

/-- The model asks for VLMAX by a length of its own beyond it. -/
theorem vsetOp_askedLength (a : Reg) :
    vsetOp d vt (if a ≠ 0#5 then some (s.xr a).toNat else if d ≠ 0#5 then some 1000 else none) =
      vsetOp d vt (askedLength s d a) := by
  have greatest : (fun c : Ctx => c.setVl vt (some 1000)) = fun c => c.setVl vt (some 512) :=
    funext fun c => c.setVl_large vt (by decide) (by decide)
  unfold askedLength
  split
  · rfl
  · split
    · unfold vsetOp; rw [greatest]
    · rfl

end

/-- What the retirement of an instruction of the family leaves. -/
theorem Retired.vset {s t : State} {d : Reg} {vt : Word} {avl : Option Nat}
    (h : Retired s t ((s.ctx s.cur).vset vt avl d.toNat) s.nextPc) :
    let c := s.ctx s.cur
    ((t.ctx s.cur).vl, (t.ctx s.cur).vtype) = ((c.setVl vt avl).vl, (c.setVl vt avl).vtype) ∧
    (t.ctx s.cur).getX d.toNat = (if d = 0#5 then 0#64 else w64 (t.ctx s.cur).vl) ∧
    (∀ r, r ≠ d → t.xr r = s.xr r) ∧ (t.ctx s.cur).f = c.f ∧ (t.ctx s.cur).v = c.v ∧ (t.ctx s.cur).seq = c.seq ∧
    (t.ctx s.cur).vstart = (if c.seq = [] then 0#64 else c.vstart) ∧ (t.ctx s.cur).pc = s.nextPc ∧
    ∀ p, t.mem.read p = s.mem.read p := by
  obtain ⟨mem, ctx, -, -, -, -, same⟩ := h
  rw [Ctx.vset_self, Ctx.setVl_frame] at ctx
  have cur : t.cur = s.cur := by rw [same]
  have x (r : Reg) : (t.ctx s.cur).getX r.toNat =
      ((s.ctx s.cur).setX d.toNat (w64 ((s.ctx s.cur).setVl vt avl).vl)).getX r.toNat := by
    rw [ctx]; rfl
  have zero (r : Reg) : r.toNat = 0 ↔ r = 0#5 := by rw [← BitVec.toNat_inj]; rfl
  refine ⟨by rw [ctx], ?_, fun r other => ?_, by rw [ctx], by rw [ctx], by rw [ctx], by rw [ctx], by rw [ctx], mem⟩
  · rw [x, Ctx.getX_setX, ctx]
    by_cases hd : d = 0#5
    · simp [hd]
    · simp [hd, zero]
  · rw [State.xr, cur, x, Ctx.getX_setX, if_neg]
    · rfl
    · exact fun ⟨e, _⟩ => other (BitVec.eq_of_toNat_eq e)

/-- Settles O15: an instruction of the family is one run of vsetOp, whose ends and whose result the lemmas above give; VLMAX is
computed for each supported and each reserved vtype. -/
theorem vectorLength : Obligations.VectorLength := by
  refine ⟨?_, fun sew lmul hs hl => vlmaxOf_whole sew hs lmul hl, fun sew k hs pos hk => vlmaxOf_fractional sew hs k hk pos,
    vlmaxOf_reserved, by decide, vlmaxOf_vbs, by decide, by decide⟩
  intro s d i vt avl r c asks form
  have run : scalarOp i s.begun = vsetOp d vt avl s.begun := by
    rcases form with ⟨u, imm, rfl, rfl, rfl⟩ | ⟨a, imm, rfl, rfl, rfl⟩ | ⟨a, b, rfl, rfl, rfl⟩
    · rfl
    · simp only [scalarOp, estate_bind, vsetAvl_apply, vsetOp_askedLength]
      rfl
    · simp only [scalarOp, estate_bind, getX_apply, vsetAvl_apply, vsetOp_askedLength]
      rfl
  obtain ⟨retires, illegal, waits⟩ := exec_vset r run
  refine ⟨fun on free quiet => ?_, illegal, waits⟩
  obtain ⟨t, ends, retired⟩ := retires on free quiet
  obtain ⟨config, rest⟩ := retired.vset
  exact ⟨t, ends, config.trans (c.setVl_vl_vtype vt avl), rest⟩

end Sys2Proof.Machine
end

section
/-! The elements of a register group: reading one after writing one, and after writing a whole group. -/

namespace Sys2Proof.Machine

open Sys2Proof

/-! ### Fields of a number -/

theorem fld_eq (n lo : Nat) {w : Nat} (hw : 0 < w) : fld n (lo + w - 1) lo = n / 2 ^ lo % 2 ^ w := by
  rw [fld, Nat.shiftRight_eq_div_pow, show lo + w - 1 + 1 - lo = w by omega]

theorem testBit_fld (n lo k : Nat) {w : Nat} (hw : 0 < w) :
    (fld n (lo + w - 1) lo).testBit k = (decide (k < w) && n.testBit (lo + k)) := by
  rw [fld_eq n lo hw, Nat.testBit_mod_two_pow, Nat.testBit_div_two_pow, Nat.add_comm]

/-- A number as what lies above a field, the field, and what lies below it. -/
theorem eq_high_field_low (n lo w : Nat) : n = 2 ^ lo * (2 ^ w * (n / 2 ^ (lo + w)) + n / 2 ^ lo % 2 ^ w) + n % 2 ^ lo := by
  have high : n / 2 ^ lo / 2 ^ w = n / 2 ^ (lo + w) := by rw [Nat.div_div_eq_div_mul, Nat.pow_add]
  rw [← high, Nat.div_add_mod, Nat.div_add_mod]

theorem testBit_nput (n v lo k : Nat) {w : Nat} (hw : 0 < w) : (nput n (lo + w - 1) lo v).testBit k =
    if lo ≤ k ∧ k < lo + w then v.testBit (k - lo) else n.testBit k := by
  have cut := eq_high_field_low n lo w
  have low : n % 2 ^ lo < 2 ^ lo := Nat.mod_lt _ (Nat.two_pow_pos lo)
  have field (m : Nat) : m % 2 ^ w < 2 ^ w := Nat.mod_lt _ (Nat.two_pow_pos w)
  have put : nput n (lo + w - 1) lo v = 2 ^ lo * (2 ^ w * (n / 2 ^ (lo + w)) + v % 2 ^ w) + n % 2 ^ lo := by
    rw [nput, fld_eq n lo hw, show lo + w - 1 + 1 - lo = w by omega, Nat.shiftLeft_eq, Nat.shiftLeft_eq,
      Nat.mul_comm _ (2 ^ lo), Nat.mul_comm _ (2 ^ lo)]
    rw [Nat.mul_add] at cut ⊢
    omega
  rw [put, Nat.testBit_two_pow_mul_add _ low, Nat.testBit_two_pow_mul_add _ (field v), Nat.testBit_mod_two_pow]
  conv_rhs => rw [cut, Nat.testBit_two_pow_mul_add _ low, Nat.testBit_two_pow_mul_add _ (field (n / 2 ^ lo))]
  by_cases below : k < lo
  · simp [below, show ¬ lo ≤ k by omega]
  · by_cases inside : k - lo < w
    · simp [below, inside, show lo ≤ k ∧ k < lo + w by omega]
    · simp [below, inside, show ¬ (lo ≤ k ∧ k < lo + w) by omega]

/-! ### One element -/

section
variable (c : Ctx) (r : Nat) {w : Nat}

theorem Ctx.getV_setV (k : Nat) (v : VReg) : (c.setV k v).getV r = if r = k then v else c.getV r :=
  Tab.get_put c.v _ v k r

theorem Ctx.elem_lt (hw : 0 < w) (i : Nat) : c.elem r w i < 2 ^ w := by
  rw [Ctx.elem, fld_eq _ _ hw]
  exact Nat.mod_lt _ (Nat.two_pow_pos w)

/-- An element is written in one register. -/
theorem Ctx.getV_setElem_other {k i : Nat} (v : Nat) (h : k ≠ r + i * w / 512) : (c.setElem r w i v).getV k = c.getV k := by
  rw [Ctx.setElem, Ctx.getV_setV, if_neg h]

theorem Ctx.setElem_frame (i v : Nat) :
    c.setElem r w i v = { c with v := (c.setElem r w i v).v, vpoison := (c.setElem r w i v).vpoison } := rfl

theorem Ctx.elem_setElem (hw : 0 < w) (dvd : w ∣ 512) (i j v : Nat) :
    (c.setElem r w i v).elem r w j = if j = i then v % 2 ^ w else c.elem r w j := by
  obtain ⟨n, hn⟩ := dvd
  have npos : 0 < n := Nat.pos_of_ne_zero (by rintro rfl; simp at hn)
  have reg (m : Nat) : m * w / 512 = m / n := by rw [hn, Nat.mul_comm w, Nat.mul_div_mul_right _ _ hw]
  have pos (m : Nat) : m * w % 512 = m % n * w := by rw [hn, Nat.mul_comm w, Nat.mul_mod_mul_right]
  have fits (m : Nat) : m % n * w + w ≤ 512 := by
    have := Nat.mul_le_mul_right w (Nat.mod_lt m npos)
    rw [Nat.mul_comm n w, ← hn] at this
    simpa [Nat.succ_mul] using this
  by_cases same : r + j * w / 512 = r + i * w / 512
  · apply Nat.eq_of_testBit_eq
    intro k
    have split : j = i ↔ j % n = i % n :=
      ⟨fun h => by rw [h], fun h => by
        rw [← Nat.div_add_mod j n, ← Nat.div_add_mod i n, h, ← reg, ← reg, Nat.add_left_cancel same]⟩
    rw [Ctx.elem, testBit_fld _ _ _ hw, same, Ctx.setElem, Ctx.getV_setV, if_pos rfl, BitVec.testBit_toNat, BitVec.getLsbD_ofNat,
      testBit_nput _ _ _ _ hw]
    have hj := fits j
    have hi := fits i
    rw [apply_ite (fun m : Nat => m.testBit k), Ctx.elem, testBit_fld _ _ _ hw, same, Nat.testBit_mod_two_pow, pos, pos]
    by_cases hk : k < w
    · have bound : j % n * w + k < 512 := by omega
      by_cases e : j = i
      · subst e
        simp [hk, bound]
      · have apart : ¬ (i % n * w ≤ j % n * w + k ∧ j % n * w + k < i % n * w + w) := by
          rcases Nat.lt_or_gt_of_ne (fun h => e (split.mpr h)) with lt | lt <;>
            have := Nat.mul_le_mul_right w (Nat.succ_le_of_lt lt) <;> rw [Nat.succ_mul] at this <;> omega
        simp [hk, bound, e, apart]
    · simp [hk]
  · have ne : j ≠ i := fun h => same (by rw [h])
    rw [if_neg ne, Ctx.elem, Ctx.getV_setElem_other c r v same]
    rfl

end

/-! ### Many elements -/

/-- The group at register r with its first n elements written, each with what g gives for it, if anything. -/
def Ctx.writeElems (c : Ctx) (r w n : Nat) (g : Nat → Option Nat) : Ctx :=
  (List.range n).foldl (fun d i => (g i).elim d (d.setElem r w i)) c

section
variable (c : Ctx) (r : Nat) {w : Nat} (n : Nat) (g : Nat → Option Nat)

theorem Ctx.writeElems_succ : c.writeElems r w (n + 1) g =
    (g n).elim (c.writeElems r w n g) ((c.writeElems r w n g).setElem r w n) := by
  simp [Ctx.writeElems, List.range_succ]

theorem Ctx.writeElems_none : c.writeElems r w n (fun _ => none) = c := by
  induction n with
  | zero => rfl
  | succ n ih => rw [Ctx.writeElems_succ, ih]; rfl

theorem Ctx.elem_writeElems (hw : 0 < w) (dvd : w ∣ 512) (j : Nat) :
    (c.writeElems r w n g).elem r w j = if j < n then (g j).elim (c.elem r w j) (· % 2 ^ w) else c.elem r w j := by
  induction n with
  | zero => rfl
  | succ n ih =>
    rw [Ctx.writeElems_succ]
    by_cases last : j = n
    · subst last
      cases h : g j with
      | none => simpa [h] using ih
      | some v => simp [Ctx.elem_setElem _ _ hw dvd]
    · have before : j < n + 1 ↔ j < n := by omega
      cases h : g n with
      | none => simpa [before] using ih
      | some v => simpa [Ctx.elem_setElem _ _ hw dvd, last, before] using ih

theorem Ctx.getV_writeElems_outside {k : Nat} (h : ∀ i < n, k ≠ r + i * w / 512) :
    (c.writeElems r w n g).getV k = c.getV k := by
  induction n with
  | zero => rfl
  | succ n ih =>
    rw [Ctx.writeElems_succ]
    cases g n with
    | none => exact ih fun i hi => h i (by omega)
    | some v => exact ((c.writeElems r w n g).getV_setElem_other r v (h n (by omega))).trans (ih fun i hi => h i (by omega))

theorem Ctx.writeElems_frame : c.writeElems r w n g =
    { c with v := (c.writeElems r w n g).v, vpoison := (c.writeElems r w n g).vpoison } := by
  induction n with
  | zero => rfl
  | succ n ih =>
    rw [Ctx.writeElems_succ]
    cases g n with
    | none => exact ih
    | some v => simp only [Option.elim]; rw [Ctx.setElem_frame, ih]

end

end Sys2Proof.Machine
end

section
/-! The vector unit: the shape of an instruction's registers under its vtype, what it asks of strips and poison, and what it
leaves in its destination (spec/08_vector.md R228, R229). -/

namespace Sys2Proof.Machine

open Sys2Proof

/-! ### States that differ from s in their current thread's context only, where memory and that thread are looked at -/

/-- In u the thread of s's turn has the context c, and memory is as in s. -/
def State.Leaves (s u : State) (c : Ctx) : Prop := u.cur = s.cur ∧ u.mem = s.mem ∧ (u.slot s.cur).ctx = some c

theorem State.Leaves.trans {s u v : State} {c d : Ctx} (h : s.Leaves u c) (k : u.Leaves v d) : s.Leaves v d := by
  obtain ⟨cur, mem, -⟩ := h
  obtain ⟨cur', mem', ctx'⟩ := k
  exact ⟨cur'.trans cur, mem'.trans mem, by rwa [cur] at ctx'⟩

theorem State.leaves_modCtx {s : State} {c : Ctx} (f : Ctx → Ctx) (h : (s.slot s.cur).ctx = some c) :
    s.Leaves (s.modCtx s.cur f) (f c) :=
  ⟨rfl, rfl, by simp [h]⟩

theorem State.ctx_of_slot {s : State} {h : Hart} {c : Ctx} (e : (s.slot h).ctx = some c) : s.ctx h = c := by simp [State.ctx, e]

/-! ### Registers that no strip holds -/

/-- No strip is pending and no register poisoned. -/
def Ctx.Quiet (c : Ctx) : Prop := (∀ n, n < 4 → (c.strip n).v = false) ∧ c.vpoison = []

section
variable {s : State} (quiet : (s.ctx s.cur).Quiet)
include quiet

theorem waitStrips_quiet (r n : Nat) : waitStrips r n s = .ok () s := by
  obtain ⟨strips, -⟩ := quiet
  have none : (List.range 4).find? (fun i => ((s.ctx s.cur).strip i).v &&
      overlap r n ((s.ctx s.cur).strip i).regs.1 ((s.ctx s.cur).strip i).regs.2) = none := by
    rw [List.find?_eq_none]
    intro i hi
    simp [strips i (List.mem_range.mp hi)]
  simp only [waitStrips, estate_bind, ctx_apply, none, estate_pure]

theorem useV_quiet (r n : Nat) : useV r n s = .ok () s := by
  simp only [useV, estate_bind, waitStrips_quiet quiet, ctx_apply, quiet.2, List.find?_nil, estate_pure]

theorem use_quiet (x : VI) (r w : Nat) : x.use r w s = .ok () s := useV_quiet quiet r _

theorem useMask_quiet (x : VI) : x.useMask s = .ok () s := by
  unfold VI.useMask
  split
  · rfl
  · exact useV_quiet quiet 0 1

theorem useSrc_quiet (x : VI) (src : VSrc) (w : Nat) : x.useSrc src w s = .ok () s := by
  cases src with
  | vec => exact use_quiet quiet x _ w
  | scalar v => rfl

end

/-! ### The shape of a group under a supported vtype -/

section
variable {e : SeqEnt} {q g : Nat} (ty : VTyped e q g) (c : Ctx)
include ty

theorem VTyped.fields : wfld e.vtype 63 11 = 0 ∧ q < 4 ∧ wfld e.vtype 2 0 ≠ 4 := by
  obtain ⟨m, max, -, rfl, -⟩ := ty
  unfold vlmaxOf at max
  dsimp only at max
  split at max
  · cases max
  · omega

theorem VTyped.sew : (e.instr c).sew = 8 * 2 ^ q := by
  obtain ⟨m, -, -, rfl, -⟩ := ty
  rfl

theorem VTyped.ill : (e.instr c).ill = false := by
  obtain ⟨high, -⟩ := ty.fields
  have bit := testBit_fld e.vtype.toNat 11 52 (w := 53) (by decide)
  rw [show fld e.vtype.toNat (11 + 53 - 1) 11 = 0 from high, Nat.zero_testBit] at bit
  exact bit.symm

/-- LMUL in eighths, and the registers of a group. -/
theorem VTyped.lm : 0 < (e.instr c).lm ∧ (e.instr c).lm ≤ 64 ∧ groupRegs (e.instr c).lm = g := by
  obtain ⟨-, -, four⟩ := ty.fields
  obtain ⟨m, -, -, -, rfl⟩ := ty
  have codes : ∀ k < 8, k ≠ 4 → let lm := if k < 4 then 8 * 2 ^ k else 2 ^ (k - 5)
      0 < lm ∧ lm ≤ 64 ∧ groupRegs lm = if k < 4 then 2 ^ k else 1 := by decide
  exact codes (wfld e.vtype 2 0) (Nat.mod_lt _ (by decide)) four

theorem VTyped.emul : (e.instr c).emul (8 * 2 ^ q) = (e.instr c).lm := by
  obtain ⟨pos, le, -⟩ := ty.lm c
  obtain ⟨-, hq, -⟩ := ty.fields
  have sew : 8 ≤ 8 * 2 ^ q ∧ 8 * 2 ^ q ≤ 64 := by
    have : ∀ k < 4, 8 ≤ 8 * 2 ^ k ∧ 8 * 2 ^ k ≤ 64 := by decide
    exact this q hq
  have div : (e.instr c).lm * (8 * 2 ^ q) / (8 * 2 ^ q) = (e.instr c).lm := Nat.mul_div_cancel _ (by omega)
  rw [VI.emul, ty.sew, div, if_pos ⟨sew.1, sew.2, Nat.mul_mod_left _ _, le⟩]

theorem VTyped.regs : (e.instr c).regs (8 * 2 ^ q) = g := by rw [VI.regs, ty.emul, (ty.lm c).2.2]

theorem VTyped.groupOk {r : Nat} (aligned : r % g = 0) : (e.instr c).groupOk r (8 * 2 ^ q) = true := by
  have pos := (ty.lm c).1
  simp [VI.groupOk, ty.emul, ty.regs, aligned, Nat.pos_iff_ne_zero.mp pos]

theorem VTyped.total : (e.instr c).total (8 * 2 ^ q) = g * 512 / (8 * 2 ^ q) := by rw [VI.total, ty.regs]

theorem VTyped.width : 0 < 8 * 2 ^ q ∧ 8 * 2 ^ q ∣ 512 := by
  obtain ⟨-, hq, -⟩ := ty.fields
  have : ∀ k < 4, 0 < 8 * 2 ^ k ∧ 8 * 2 ^ k ∣ 512 := by decide
  exact this q hq

end

/-- A masked destination other than v0 does not overlap it. -/
theorem VI.maskOk_of (x : VI) (w : Nat) (free : x.vm = true ∨ x.vd ≠ 0) : x.maskOk w = true := by
  rcases free with h | h <;> simp [VI.maskOk, overlap, h]

/-- c is d but for the status, the floating-point flags and the saturation. -/
def Ctx.SameBut (c d : Ctx) : Prop := c = { d with sstatus := c.sstatus, fcsr := c.fcsr, vxsat := c.vxsat }

theorem Ctx.SameBut.refl (c : Ctx) : c.SameBut c := rfl
theorem Ctx.SameBut.trans {b c d : Ctx} (h : b.SameBut c) (k : c.SameBut d) : b.SameBut d := by
  unfold Ctx.SameBut at *
  rw [h, k]
theorem Ctx.SameBut.seq {c d : Ctx} (h : c.SameBut d) : c.seq = d.seq := by rw [h]
theorem Ctx.dirtyV_sameBut (c : Ctx) : c.dirtyV.SameBut c := by rw [Ctx.SameBut, Ctx.dirtyV]

/-! ### What an instruction writes -/

section
variable (x : VI) (c : Ctx) (base lo w : Nat) (rs : List (Option Nat))

/-- What is written to element i, if anything: an active element below vl takes its result, and the agnostic policies may put
ones elsewhere. -/
def VI.choice (i : Nat) : Option Nat :=
  if x.vs ≥ x.vl then none
  else if i < x.vl then
    if i < lo then none
    else if x.active c i then rs.getD i none
    else if x.ma ∧ Config.agnosticOnes (base + i) then some (ones w) else none
  else if x.ta ∧ Config.agnosticOnes (base + i) then some (ones w) else none

/-- The context after a destination group has been written. -/
def VI.written : Ctx :=
  if x.vs ≥ x.vl then c else (c.writeElems x.vd w (x.total w) (x.choice c base lo w rs)).dirtyV

theorem VI.written_sameBut :
    (x.written c base lo w rs).SameBut (c.writeElems x.vd w (x.total w) (x.choice c base lo w rs)) := by
  by_cases empty : x.vs ≥ x.vl
  · have none : x.choice c base lo w rs = fun _ => none := funext fun i => if_pos empty
    rw [none, Ctx.writeElems_none, VI.written, if_pos empty]
    exact Ctx.SameBut.refl c
  · rw [VI.written, if_neg empty]
    exact Ctx.dirtyV_sameBut _

theorem VI.written_keeps : (x.written c base lo w rs).seq = c.seq ∧ (x.written c base lo w rs).fcsr = c.fcsr ∧
    (x.written c base lo w rs).vxsat = c.vxsat := by
  by_cases empty : x.vs ≥ x.vl
  · simp only [VI.written, if_pos empty, and_self]
  · simp only [VI.written, if_neg empty]
    rw [Ctx.writeElems_frame]
    exact ⟨rfl, rfl, rfl⟩

end

@[simp] theorem drawAgnostic_apply (n : Nat) (s : State) : drawAgnostic n s = .ok s.free { s with free := s.free + n } := rfl

theorem putFrom_apply (x : VI) (lo w : Nat) (rs : List (Option Nat)) (s : State) : x.putFrom lo w rs s =
    .ok () (if x.vs ≥ x.vl then s
      else { s with free := s.free + x.total w }.modCtx s.cur (fun c => x.written c s.free lo w rs)) := by
  by_cases empty : x.vs ≥ x.vl
  · simp only [VI.putFrom, if_pos empty, estate_pure]
  · simp only [VI.putFrom, if_neg empty, drawAgnostic_apply, estate_bind, modCtx_apply, VI.written, Ctx.writeElems]
    congr! 6 with c d
    funext i
    simp only [VI.choice, if_neg empty]
    split
    · split
      · rfl
      · split
        · cases rs.getD i none <;> rfl
        · split <;> rfl
    · split <;> rfl

/-- A destination group written leaves its context written, whatever the agnostic choices were. -/
theorem putFrom_leaves (x : VI) (lo w : Nat) (rs : List (Option Nat)) {s : State} {c : Ctx} (hc : (s.slot s.cur).ctx = some c) :
    ∃ base u, x.putFrom lo w rs s = .ok () u ∧ s.Leaves u (x.written c base lo w rs) := by
  refine ⟨s.free, _, putFrom_apply x lo w rs s, ?_⟩
  split
  · next empty => exact ⟨rfl, rfl, by rw [VI.written, if_pos empty]; exact hc⟩
  · exact State.leaves_modCtx (s := { s with free := s.free + x.total w }) _ hc

/-! ### What its results do besides -/

/-- The flags of results. -/
def flagsOf (rs : List VRes) : FFlags := rs.foldl (fun f r => f.join r.fl) {}

/-- The context with the flags and the saturation of results. -/
def Ctx.effects (c : Ctx) (rs : List VRes) : Ctx :=
  if rs.any (·.sat) then { c.accrue (flagsOf rs) with vxsat := 1#64 } else c.accrue (flagsOf rs)

theorem putEffects_apply (rs : List VRes) (s : State) : putEffects rs s = .ok () (s.modCtx s.cur (·.effects rs)) := by
  cases sat : rs.any (·.sat) <;> simp [putEffects, Ctx.effects, flagsOf, sat]

theorem Ctx.accrue_fcsr (c : Ctx) (f : FFlags) : (c.accrue f).fcsr = c.fcsr ||| w64 f.bits := by
  unfold Ctx.accrue
  split
  · next h => simp [h, w64]
  · rfl

theorem Ctx.accrue_sameBut (c : Ctx) (f : FFlags) : (c.accrue f).SameBut c := by
  unfold Ctx.accrue
  split <;> rfl

theorem Ctx.effects_sameBut (c : Ctx) (rs : List VRes) : (c.effects rs).SameBut c := by
  unfold Ctx.effects
  rw [c.accrue_sameBut]
  split <;> rfl

theorem Ctx.effects_fcsr (c : Ctx) (rs : List VRes) : (c.effects rs).fcsr = c.fcsr ||| w64 (flagsOf rs).bits := by
  rw [← Ctx.accrue_fcsr]
  unfold Ctx.effects
  split <;> rfl

theorem Ctx.effects_vxsat (c : Ctx) (rs : List VRes) :
    (c.effects rs).vxsat = if rs.any (·.sat) then 1#64 else c.vxsat := by
  have kept : (c.accrue (flagsOf rs)).vxsat = c.vxsat := by unfold Ctx.accrue; split <;> rfl
  rw [← kept]
  unfold Ctx.effects
  split <;> rfl

end Sys2Proof.Machine
end

section
/-! How the head of the sequencer completes, and the two shapes of what a vector instruction leaves: a group, and one element
(spec/07_context.md R190, R524; spec/08_vector.md R228). -/

namespace Sys2Proof.Machine

open Sys2Proof

/-! ### The head of the sequencer -/

/-- A context whose head entry has completed: the rest of the sequencer stands, and vstart is 0 (R524). -/
def Ctx.completed (c : Ctx) (rest : List SeqEnt) : Ctx := { c with vstart := 0#64, vfrom := none, seq := rest }

/-- The state in which the head entry of a hart's sequencer runs. -/
def State.atHead (s : State) (h : Hart) (e : SeqEnt) : State := { s with cur := h, ibits := e.bits }

section
variable {s : State} {h : Hart} {e : SeqEnt} {rest : List SeqEnt}

theorem HeadRuns.slot_ctx (r : HeadRuns s h e rest) : ((s.atHead h e).slot (s.atHead h e).cur).ctx = some (s.ctx h) := by
  obtain ⟨ready, -⟩ := r
  simp only [State.seqReady, State.running, Bool.and_eq_true] at ready
  obtain ⟨c, hc⟩ := Option.isSome_iff_exists.mp ready.1.1.1
  have : (s.slot h).ctx = some (s.ctx h) := by rw [State.ctx_of_slot hc, hc]
  exact this

theorem HeadRuns.quiet (r : HeadRuns s h e rest) : ((s.atHead h e).ctx (s.atHead h e).cur).Quiet := by
  obtain ⟨-, -, -, -, strips, clean⟩ := r
  exact ⟨strips, clean⟩

theorem HeadRuns.vs (r : HeadRuns s h e rest) : (e.instr (s.ctx h)).vs = 0 := by
  obtain ⟨-, -, -, vstart, -⟩ := r
  exact congrArg BitVec.toNat vstart

theorem exec_sequencerHeadExecute (s : State) (h : Hart) :
    exec (.sequencerHeadExecute h) s = event (fun s => (s.seqStep h).map (·.1)) s := rfl

/-- An entry that completes is gone, and vstart is 0. -/
theorem head_completes {u : State} {c : Ctx} (r : HeadRuns s h e rest)
    (run : (e.instr (s.ctx h)).run (s.atHead h e) = .ok () u) (left : (s.atHead h e).Leaves u c) (seq : c.seq = (s.ctx h).seq) :
    ∃ t, exec (.sequencerHeadExecute h) s = .next t ∧ t.mem = s.mem ∧
      t.ctx h = c.completed rest := by
  obtain ⟨-, mem, ctx⟩ := left
  obtain ⟨ready, head, alone, -⟩ := r
  have next : (s.ctx h).seqNext = some (0, e) := by simp [Ctx.seqNext, head, alone]
  have step : s.seqStep h =
      some (((u.modCtx h (fun c => c.seqDone 0 e)).modSlot h Slot.seqClear).perfCycles h.gcore 7 |>.wonVec h, true) := by
    have run' : (e.instr (s.ctx h)).run { s with cur := h, ibits := e.bits } = .ok () u := run
    simp only [State.seqStep, ready, Bool.not_true, Bool.false_eq_true, if_false, next, Option.map_some, run']
  have ends := (exec_sequencerHeadExecute s h).trans (event_some (congrArg (Option.map (·.1)) step))
  refine ⟨_, ends, mem, ?_⟩
  have done : c.seqDone 0 e = c.completed rest := by
    simp [Ctx.seqDone, Ctx.completed, alone, seq, head]
  have slot : (u.slot h).ctx = some c := ctx
  refine State.ctx_of_slot ?_
  show (((u.modCtx h (fun c => c.seqDone 0 e)).modSlot h Slot.seqClear).slot h).ctx = _
  rw [State.slot_modSlot_same, Slot.seqClear, State.slot_modCtx_same, slot]
  exact congrArg some done

end

/-! ### What it leaves -/

section
variable {s t : State} {h : Hart} {e : SeqEnt} {rest : List SeqEnt} {d n w : Nat} {act : Nat → Bool} {f : Nat → Nat}
  {choice : Nat → Option Nat} {c : Ctx}

/-- A value written to an element or left out, as the statements put it. -/
theorem agnostic_or_old {old new : Nat} {o : Option Nat} {p : Prop} (e : new = o.elim old (· % 2 ^ w))
    (h : o = none ∨ (p ∧ o = some (ones w))) : new = old ∨ (p ∧ new = 2 ^ w - 1) := by
  rcases h with rfl | ⟨hp, rfl⟩
  · exact .inl e
  · refine .inr ⟨hp, e.trans (Nat.mod_eq_of_lt ?_)⟩
    have := Nat.two_pow_pos w
    unfold ones; omega

/-- A completed instruction whose destination group was written by choice, of which the flags, the saturation and the status
may have changed besides. -/
theorem vecResult_of_writeElems (hw : 0 < w) (dvd : w ∣ 512) (mem : t.mem = s.mem)
    (ctx : t.ctx h = c.completed rest) (same : c.SameBut ((s.ctx h).writeElems d w (n * 512 / w) choice))
    (width : ∀ i, i < e.vl → act i = true → f i < 2 ^ w)
    (active : ∀ i, i < e.vl → act i = true → choice i = some (f i))
    (inactive : ∀ i, i < e.vl → act i = false → choice i = none ∨ (e.vtype.getLsbD 7 = true ∧ choice i = some (ones w)))
    (tail : ∀ i, e.vl ≤ i → choice i = none ∨ (e.vtype.getLsbD 6 = true ∧ choice i = some (ones w))) :
    VecResult s t h e rest d n w act f := by
  rw [Ctx.SameBut, Ctx.writeElems_frame] at same
  have v : (t.ctx h).v = ((s.ctx h).writeElems d w (n * 512 / w) choice).v := by rw [ctx, same]; rfl
  have elem (i : Nat) (hi : i < n * 512 / w) : (t.ctx h).elem d w i = (choice i).elim ((s.ctx h).elem d w i) (· % 2 ^ w) := by
    have := (s.ctx h).elem_writeElems d (n * 512 / w) choice hw dvd i
    rw [if_pos hi] at this
    rw [← this, Ctx.elem, Ctx.elem, Ctx.getV, Ctx.getV, v]
  have outside (r : Nat) (hr : r < d ∨ d + n ≤ r) : (t.ctx h).getV r = (s.ctx h).getV r := by
    rw [Ctx.getV, v]
    refine (s.ctx h).getV_writeElems_outside d _ choice fun i hi => ?_
    have : i * w / 512 < n := by
      rw [Nat.div_lt_iff_lt_mul (by decide)]
      have := (Nat.le_div_iff_mul_le hw).mp (Nat.succ_le_of_lt hi)
      rw [Nat.succ_mul] at this
      omega
    omega
  refine ⟨by rw [ctx]; rfl, by rw [ctx]; rfl, by rw [ctx, same]; rfl, by rw [ctx, same]; rfl, by rw [ctx, same]; rfl,
    by rw [ctx, same]; rfl, by simp [mem],
    outside, fun i hi => ⟨fun lt a => ?_, fun lt a => agnostic_or_old (elem i hi) (inactive i lt a),
      fun le => agnostic_or_old (elem i hi) (tail i le)⟩⟩
  rw [elem i hi, active i lt a]
  exact Nat.mod_eq_of_lt (width i lt a)

end

end Sys2Proof.Machine
end

section
/-! The arithmetic of R230: clamping to a signed width, a right shift with its rounding increment. -/

namespace Sys2Proof.Machine

open Sys2Proof

theorem uint_lt (i : Int) (w : Nat) : uint i w < 2 ^ w := by
  have pos : (0 : Int) < (2 ^ w : Nat) := by exact_mod_cast Nat.two_pow_pos w
  have := Int.emod_lt_of_pos i pos
  have := Int.emod_nonneg i pos.ne'
  unfold uint
  omega

theorem uint_of_lt {n w : Nat} (h : n < 2 ^ w) : uint n w = n := by
  rw [uint, ← Int.natCast_emod, Int.toNat_natCast, Nat.mod_eq_of_lt h]

theorem sint_eq_sub (a w : Nat) (ha : a < 2 ^ w) : sint a w = a - (2 ^ w : Nat) * (if a.testBit (w - 1) then 1 else 0) := by
  unfold sint
  rw [Nat.mod_eq_of_lt ha]
  dsimp only
  split <;> simp

theorem clampS_v (w : Nat) (i : Int) :
    (clampS w i).v = uint (max (-((2 ^ (w - 1) : Nat) : Int)) (min ((2 ^ (w - 1) : Nat) - 1) i)) w := by
  have := Nat.two_pow_pos (w - 1)
  unfold clampS vi
  generalize 2 ^ (w - 1) = p at *
  dsimp only
  split
  · rw [show max (-(p : Int)) (min (p - 1) i) = p - 1 by omega]
  · split
    · rw [show max (-(p : Int)) (min (p - 1) i) = -p by omega]
    · rw [show max (-(p : Int)) (min (p - 1) i) = i by omega]

theorem clampS_sat (w : Nat) (i : Int) : (clampS w i).sat = true ↔
    ((2 ^ (w - 1) : Nat) : Int) - 1 < i ∨ i < -((2 ^ (w - 1) : Nat) : Int) := by
  unfold clampS vi
  generalize 2 ^ (w - 1) = p
  dsimp only
  split
  · simp; omega
  · split
    · simp; omega
    · simp; omega

theorem clampS_fl (w : Nat) (i : Int) : (clampS w i).fl = {} := by
  unfold clampS vi
  dsimp only
  split
  · rfl
  · split <;> rfl

/-- The low bits of a signed number, and the parity above them, are those of its bit pattern. -/
theorem sint_low (a w n : Nat) (ha : a < 2 ^ w) (hn : n < w) :
    sint a w % (2 ^ n : Nat) = (a % 2 ^ n : Nat) ∧ sint a w / (2 ^ n : Nat) % 2 = (a / 2 ^ n % 2 : Nat) := by
  obtain ⟨j, rfl⟩ := Nat.exists_eq_add_of_lt hn
  have pos : ((2 ^ n : Nat) : Int) ≠ 0 := by exact_mod_cast (Nat.two_pow_pos n).ne'
  rw [sint_eq_sub a _ ha]
  generalize (if a.testBit (n + j + 1 - 1) then (1 : Int) else 0) = b
  have split : (a : Int) - (2 ^ (n + j + 1) : Nat) * b = a + (2 ^ n : Nat) * (2 * (-((2 ^ j : Nat) : Int) * b)) := by
    push_cast; ring
  rw [split, Int.add_mul_emod_self_left, Int.add_mul_ediv_left _ _ pos]
  constructor
  · norm_cast
  · rw [Int.add_mul_emod_self_left]; norm_cast

/-- The part shifted out against the half of a unit: the bit below the cut, and what lies under that bit. -/
theorem low_half (a k : Nat) : let r := ((a % 2 ^ (k + 1) : Nat) : Int)
    let u := ((2 ^ (k + 1) : Nat) : Int)
    (u ≤ 2 * r ↔ a.testBit k = true) ∧ (u < 2 * r ↔ a.testBit k = true ∧ a % 2 ^ k ≠ 0) ∧
    (2 * r = u ↔ a.testBit k = true ∧ a % 2 ^ k = 0) := by
  have half : a % 2 ^ k < 2 ^ k := Nat.mod_lt _ (Nat.two_pow_pos k)
  rw [Nat.mod_pow_succ, Nat.testBit_eq_decide_div_mod_eq, Nat.pow_succ]
  generalize a % 2 ^ k = l at *
  generalize 2 ^ k = u at *
  rcases Nat.mod_two_eq_zero_or_one (a / u) with bit | bit
  · simp [bit]
    omega
  · simp [bit]
    omega

/-- A rounded right shift is the floor and the increment of vxrm. -/
theorem roundoff_sint (rm a w n : Nat) (ha : a < 2 ^ w) (hn : n < w) :
    roundoff rm (sint a w) n = if n = 0 then sint a w else sint a w / (2 ^ n : Nat) + rinc rm a n := by
  obtain ⟨low, parity⟩ := sint_low a w n ha hn
  cases n with
  | zero =>
    unfold roundoff
    simp
    split <;> simp
  | succ k =>
    obtain ⟨reach, beyond, tie⟩ := low_half a k
    have odd := Nat.testBit_eq_decide_div_mod_eq (x := a) (i := k + 1)
    have par := Nat.mod_two_eq_zero_or_one (a / 2 ^ (k + 1))
    unfold roundoff rinc
    simp only [low, parity, Nat.succ_ne_zero, if_false, Nat.add_sub_cancel, ge_iff_le, gt_iff_lt, reach, beyond, tie, odd]
    generalize sint a w / (2 ^ (k + 1) : Nat) = q
    generalize a % 2 ^ (k + 1) = r
    rcases rm with _ | _ | _ | rm
    · cases a.testBit k <;> simp
    · cases a.testBit k <;> by_cases l : a % 2 ^ k = 0 <;> rcases par with p | p <;> simp [l, p]
    · simp
    · by_cases r0 : r = 0 <;> rcases par with p | p <;> simp [r0, p]

/-- The distance of two signed numbers of w bits fits in w bits. -/
theorem uint_sint_sub (a b w : Nat) :
    uint (if sint a w ≥ sint b w then sint a w - sint b w else sint b w - sint a w) w = (sint a w - sint b w).natAbs := by
  have bounds (v : Nat) : -(2 ^ w : Nat) ≤ 2 * sint v w ∧ 2 * sint v w < (2 ^ w : Nat) := by
    rw [sint_eq_toInt]
    exact ⟨by exact_mod_cast BitVec.le_two_mul_toInt, by exact_mod_cast BitVec.two_mul_toInt_lt⟩
  have := bounds a
  have := bounds b
  have dist : (if sint a w ≥ sint b w then sint a w - sint b w else sint b w - sint a w) =
      ((sint a w - sint b w).natAbs : Int) := by
    split <;> omega
  rw [dist, uint_of_lt (by omega)]

/-! ### The operations of R230 -/

section
variable (rm w a b : Nat)

/-- What vx.sshl would give without saturation. -/
def shifted : Int := sint a w * (2 ^ min (b % 256) w : Nat)

theorem shiftFn_sshl : shiftFn 0 rm w a b = if sint a w = 0 then vr 0 else clampS w (shifted w a b) := rfl

theorem shiftFn_sshl_v : (shiftFn 0 rm w a b).v =
    uint (max (-((2 ^ (w - 1) : Nat) : Int)) (min ((2 ^ (w - 1) : Nat) - 1) (shifted w a b))) w := by
  rw [shiftFn_sshl]
  split
  · next zero =>
    have := Nat.two_pow_pos (w - 1)
    rw [shifted, zero, Int.zero_mul, show max (-((2 ^ (w - 1) : Nat) : Int)) (min ((2 ^ (w - 1) : Nat) - 1) 0) = 0 by omega]
    exact (uint_of_lt (Nat.two_pow_pos w)).symm
  · exact clampS_v w _

theorem shiftFn_sshl_sat : (shiftFn 0 rm w a b).sat = true ↔
    ((2 ^ (w - 1) : Nat) : Int) - 1 < shifted w a b ∨ shifted w a b < -((2 ^ (w - 1) : Nat) : Int) := by
  rw [shiftFn_sshl]
  split
  · next zero =>
    have := Nat.two_pow_pos (w - 1)
    rw [shifted, zero, Int.zero_mul]
    refine ⟨fun h => absurd h Bool.false_ne_true, fun h => ?_⟩
    omega
  · exact clampS_sat w _

theorem shiftFn_rsra : shiftFn 3 rm w a b =
    vi w (if b % 256 ≥ w then sint a w / (2 ^ w : Nat) else roundoff rm (sint a w) (b % 256)) :=
  (apply_ite (vi w) (b % 256 ≥ w) (sint a w / (2 ^ w : Nat)) (roundoff rm (sint a w) (b % 256))).symm

theorem shiftFn_rsra_v (hw : 0 < w) (ha : a < 2 ^ w) : (shiftFn 3 rm w a b).v =
    uint (if b % 256 = 0 then sint a w else if w ≤ b % 256 then sint a w / (2 ^ w : Nat)
      else sint a w / (2 ^ (b % 256) : Nat) + rinc rm a (b % 256)) w := by
  rw [shiftFn_rsra, vi]
  by_cases large : w ≤ b % 256
  · rw [if_pos large, if_neg (by omega), if_pos large]
  · rw [if_neg (by omega), roundoff_sint rm a w _ ha (by omega), if_neg large]

theorem shiftFn_absd_v : (shiftFn 4 rm w a b).v = (sint a w - sint b w).natAbs := uint_sint_sub a b w

/-- The result of each operation, by its number. -/
theorem shiftFn_v {k : Nat} (hw : 0 < w) (ha : a < 2 ^ w) : (shiftFn k rm w a b).v = match k with
    | 0 => uint (max (-((2 ^ (w - 1) : Nat) : Int)) (min ((2 ^ (w - 1) : Nat) - 1) (shifted w a b))) w
    | 1 => a / 2 ^ (b % 256)
    | 2 => uint (sint a w / (2 ^ min (b % 256) w : Nat)) w
    | 3 => uint (if b % 256 = 0 then sint a w else if w ≤ b % 256 then sint a w / (2 ^ w : Nat)
        else sint a w / (2 ^ (b % 256) : Nat) + rinc rm a (b % 256)) w
    | 4 => (sint a w - sint b w).natAbs
    | _ => uint ((sint a w + sint b w + 1) / 2) w := by
  match k with
  | 0 => exact shiftFn_sshl_v rm w a b
  | 1 => rfl
  | 2 => rfl
  | 3 => exact shiftFn_rsra_v rm w a b hw ha
  | 4 => exact shiftFn_absd_v rm w a b
  | _ + 5 => rfl

theorem shiftFn_v_lt (k : Nat) (ha : a < 2 ^ w) : (shiftFn k rm w a b).v < 2 ^ w := by
  match k with
  | 0 => rw [shiftFn_sshl_v]; exact uint_lt _ w
  | 1 => exact (Nat.div_le_self a _).trans_lt ha
  | 2 => exact uint_lt _ w
  | 3 => rw [shiftFn_rsra]; exact uint_lt _ w
  | 4 => exact uint_lt _ w
  | _ + 5 => exact uint_lt _ w

/-- No operation raises a floating-point flag, and only vx.sshl saturates. -/
theorem shiftFn_fl (k : Nat) : (shiftFn k rm w a b).fl = {} := by
  unfold shiftFn
  dsimp only
  split
  · split
    · rfl
    · exact clampS_fl w _
  · rfl
  · rfl
  · split <;> rfl
  · rfl
  · rfl

theorem shiftFn_sat {k : Nat} (h : k ≠ 0) : (shiftFn k rm w a b).sat = false := by
  unfold shiftFn
  dsimp only
  split
  · exact absurd rfl h
  · rfl
  · rfl
  · split <;> rfl
  · rfl
  · rfl

/-- What stays in the signed range does not saturate. -/
theorem shiftFn_sat_within {k : Nat} (within : k = 0 →
    -((2 ^ (w - 1) : Nat) : Int) ≤ shifted w a b ∧ shifted w a b ≤ (2 ^ (w - 1) : Nat) - 1) :
    (shiftFn k rm w a b).sat = false := by
  by_cases zero : k = 0
  · subst zero
    have := within rfl
    refine Bool.eq_false_iff.mpr fun sat => ?_
    have := (shiftFn_sshl_sat rm w a b).mp sat
    omega
  · exact shiftFn_sat rm w a b zero

end

end Sys2Proof.Machine
end

section
/-! The vector instructions of custom-1: their words, the results of a group, and the elementwise operations
(spec/08_vector.md R230). -/

namespace Sys2Proof.Machine

open Sys2Proof

/-! ### Words of custom-1 -/

section
variable (f6 : BitVec 6) (m : BitVec 1) (b a : Reg) (f3 : BitVec 3) (d : Reg)

theorem rvWord_eq_rzWord : rvWord f6 m b a f3 d = rzWord (f6 ++ m) b a f3 d 0x2b#7 := rfl

theorem fOp_rvWord : fOp (rvWord f6 m b a f3 d) = 0x2b#7 := fOp_rzWord _ _ _ _ _ _
theorem fRd_rvWord : fRd (rvWord f6 m b a f3 d) = d := fRd_rzWord _ _ _ _ _ _
theorem fF3_rvWord : fF3 (rvWord f6 m b a f3 d) = f3 := fF3_rzWord _ _ _ _ _ _
theorem fRs1_rvWord : fRs1 (rvWord f6 m b a f3 d) = a := fRs1_rzWord _ _ _ _ _ _
theorem fRs2_rvWord : fRs2 (rvWord f6 m b a f3 d) = b := fRs2_rzWord _ _ _ _ _ _

theorem fF6_rvWord : fF6 (rvWord f6 m b a f3 d) = f6.toNat := by
  unfold fF6 rvWord
  rw [BitVec.extractLsb'_append_eq_of_le (by omega), BitVec.extractLsb'_append_eq_of_le (by omega),
    BitVec.extractLsb'_append_eq_of_le (by omega), BitVec.extractLsb'_append_eq_of_le (by omega),
    BitVec.extractLsb'_append_eq_of_le (by omega), BitVec.extractLsb'_append_eq_of_le (by omega)]
  simp

theorem fVm_rvWord : fVm (rvWord f6 m b a f3 d) = (m == 1#1) := by
  have bit : (rvWord f6 m b a f3 d).extractLsb' 25 1 = m := by
    unfold rvWord
    rw [BitVec.extractLsb'_append_eq_of_le (by omega), BitVec.extractLsb'_append_eq_of_le (by omega),
      BitVec.extractLsb'_append_eq_of_le (by omega), BitVec.extractLsb'_append_eq_of_le (by omega),
      BitVec.extractLsb'_append_eq_of_le (by omega), BitVec.extractLsb'_append_eq_of_add_le (by omega)]
    simp
  have low : ∀ m : BitVec 1, m.getLsbD 0 = (m == 1#1) := by decide
  calc fVm (rvWord f6 m b a f3 d) = ((rvWord f6 m b a f3 d).extractLsb' 25 1).getLsbD 0 := by
        rw [BitVec.getLsbD_extractLsb']; rfl
    _ = (m == 1#1) := by rw [bit, low]

end

/-! ### What the vector unit runs -/

section
variable {x : VI} {f6 : BitVec 6} {m : BitVec 1} {b a d : Reg} (s : State)

theorem run_elem (word : x.w = rvWord f6 m b a 0#3 d) : x.run s = x.rzElem f6.toNat .vec s := by
  simp [VI.run, VI.runVec, word, fOp_rvWord, fF3_rvWord, fF6_rvWord]

theorem run_elemx (word : x.w = rvWord f6 m b a 3#3 d) (two : 2 ≤ f6.toNat) :
    x.run s = x.rzElem (f6.toNat - 2) (.scalar x.op1.toNat) s := by
  simp [VI.run, VI.runVec, word, fOp_rvWord, fF3_rvWord, fF6_rvWord, show ¬ f6.toNat ≤ 1 by omega]

theorem run_scan (word : x.w = rvWord f6 m b a 2#3 d) (three : 3 ≤ f6.toNat) : x.run s = x.scan f6.toNat s := by
  simp [VI.run, VI.runVec, word, fOp_rvWord, fF3_rvWord, fF6_rvWord, show f6.toNat ≠ 0 by omega, show f6.toNat ≠ 1 by omega,
    show f6.toNat ≠ 2 by omega]

theorem run_tree (word : x.w = rvWord f6 m b a 1#3 d) : x.run s = x.tree (f6.toNat == 1) s := by
  simp [VI.run, VI.runVec, word, fOp_rvWord, fF3_rvWord, fF6_rvWord]

end

/-! ### Results of a group -/

/-- Results of the active elements below vl. -/
def VI.results (x : VI) (c : Ctx) (f : Nat → VRes) : List (Option VRes) :=
  (List.range x.vl).map (fun i => if x.active c i then some (f i) else none)

/-- The values of results, and the results that there are. -/
def valuesOf (rs : List (Option VRes)) : List (Option Nat) := rs.map (fun r => r.map (·.v))
def liveOf (rs : List (Option VRes)) : List VRes := rs.filterMap id

section
variable (x : VI) (c : Ctx) (f : Nat → VRes)

theorem VI.valuesOf_results_getD {i : Nat} (hi : i < x.vl) :
    (valuesOf (x.results c f)).getD i none = if x.active c i then some (f i).v else none := by
  simp [valuesOf, VI.results, hi]

theorem VI.mem_liveOf_results (r : VRes) : r ∈ liveOf (x.results c f) ↔ ∃ i < x.vl, x.active c i = true ∧ f i = r := by
  simp [liveOf, VI.results]

theorem VI.liveOf_results_sat : (liveOf (x.results c f)).any (·.sat) = true ↔
    ∃ i < x.vl, x.active c i = true ∧ (f i).sat = true := by
  rw [List.any_eq_true]
  constructor
  · rintro ⟨z, live, sat⟩
    obtain ⟨i, hi, a, rfl⟩ := (x.mem_liveOf_results c f z).mp live
    exact ⟨i, hi, a, sat⟩
  · rintro ⟨i, hi, a, sat⟩
    exact ⟨f i, (x.mem_liveOf_results c f _).mpr ⟨i, hi, a, rfl⟩, sat⟩

end

theorem flagsOf_none {rs : List VRes} (none : ∀ r ∈ rs, r.fl = {}) : flagsOf rs = {} := by
  have fold (f : FFlags) : rs.foldl (fun f r => f.join r.fl) f = f := by
    induction rs generalizing f with
    | nil => rfl
    | cons r rs ih =>
      rw [List.foldl_cons, none r (by simp), ih (fun r hr => none r (by simp [hr]))]
      simp [FFlags.join]
  exact fold {}

section
variable {s t : State} {h : Hart} {e : SeqEnt} {rest : List SeqEnt} {q g d w : Nat} {act : Nat → Bool} {f : Nat → Nat}
  {x : VI} {c : Ctx} {base : Nat} {vals : List (Option Nat)}

/-- A completed instruction that wrote a group as putFrom writes it, and of which the flags, the saturation and the status may
have changed besides. -/
theorem vecResult_of_written (hw : 0 < w) (dvd : w ∣ 512) (vl : x.vl = e.vl) (vt : x.vt = e.vtype) (vs : x.vs = 0)
    (total : x.total w = g * 512 / w) (mem : t.mem = s.mem)
    (ctx : t.ctx h = c.completed rest) (same : c.SameBut (x.written (s.ctx h) base 0 w vals))
    (width : ∀ i, i < e.vl → act i = true → f i < 2 ^ w)
    (active : ∀ i, i < e.vl → act i = true → x.active (s.ctx h) i = true ∧ vals.getD i none = some (f i))
    (inactive : ∀ i, i < e.vl → act i = false → x.active (s.ctx h) i = false ∨ vals.getD i none = none) :
    VecResult s t h e rest x.vd g w act f := by
  have ma : x.ma = e.vtype.getLsbD 7 := by rw [← vt]; rfl
  have ta : x.ta = e.vtype.getLsbD 6 := by rw [← vt]; rfl
  have like := same.trans (x.written_sameBut (s.ctx h) base 0 w vals)
  rw [total] at like
  refine vecResult_of_writeElems hw dvd mem ctx like width (fun i hi a => ?_) (fun i hi a => ?_) (fun i hi => ?_)
  · obtain ⟨live, val⟩ := active i hi a
    simp only [VI.choice, vs, vl, ge_iff_le, show ¬ e.vl ≤ 0 by omega, hi, Nat.not_lt_zero, live, val, if_false, if_true]
  · simp only [VI.choice, vs, vl, ge_iff_le, show ¬ e.vl ≤ 0 by omega, hi, Nat.not_lt_zero, if_false, if_true, ma]
    cases live : x.active (s.ctx h) i
    · rw [if_neg Bool.false_ne_true]
      split
      · next agnostic => exact .inr ⟨agnostic.1, rfl⟩
      · exact .inl rfl
    · have alone := (inactive i hi a).resolve_left (by simp [live])
      exact .inl alone
  · simp only [VI.choice, vs, vl, show ¬ i < e.vl by omega, if_false, ta]
    split
    · exact .inl rfl
    · split
      · next agnostic => exact .inr ⟨agnostic.1, rfl⟩
      · exact .inl rfl

/-- An instruction at the head of the sequencer that leaves its destination group written. -/
theorem head_writes_group {u : State} (r : HeadRuns s h e rest) (ty : VTyped e q g)
    (run : (e.instr (s.ctx h)).run (s.atHead h e) = .ok () u) (left : (s.atHead h e).Leaves u c)
    (same : c.SameBut (x.written (s.ctx h) base 0 (8 * 2 ^ q) vals)) (vl : x.vl = e.vl) (vt : x.vt = e.vtype) (vs : x.vs = 0)
    (total : x.total (8 * 2 ^ q) = g * 512 / (8 * 2 ^ q))
    (width : ∀ i, i < e.vl → act i = true → f i < 2 ^ (8 * 2 ^ q))
    (active : ∀ i, i < e.vl → act i = true → x.active (s.ctx h) i = true ∧ vals.getD i none = some (f i))
    (inactive : ∀ i, i < e.vl → act i = false → x.active (s.ctx h) i = false ∨ vals.getD i none = none) :
    ∃ t, exec (.sequencerHeadExecute h) s = .next t ∧ VecResult s t h e rest x.vd g (8 * 2 ^ q) act f ∧
      t.ctx h = c.completed rest := by
  obtain ⟨hw, dvd⟩ := ty.width
  have seq : c.seq = (s.ctx h).seq := same.seq.trans (x.written_keeps (s.ctx h) base 0 (8 * 2 ^ q) vals).1
  obtain ⟨t, ends, mem, ctx⟩ := head_completes r run left seq
  exact ⟨t, ends, vecResult_of_written hw dvd vl vt vs total mem ctx same width active inactive, ctx⟩

/-- One that writes the results of its active elements and has their effects. -/
theorem head_writes_results {u : State} {fn : Nat → VRes} (r : HeadRuns s h e rest) (ty : VTyped e q g) :
    let x := e.instr (s.ctx h)
    let rs := x.results (s.ctx h) fn
    x.run (s.atHead h e) = .ok () u →
    (s.atHead h e).Leaves u ((x.written (s.ctx h) base 0 (8 * 2 ^ q) (valuesOf rs)).effects (liveOf rs)) →
    (∀ i, i < e.vl → x.active (s.ctx h) i = true → (fn i).v < 2 ^ (8 * 2 ^ q)) →
    ∃ t, exec (.sequencerHeadExecute h) s = .next t ∧
      VecResult s t h e rest x.vd g (8 * 2 ^ q) (x.active (s.ctx h)) (fun i => (fn i).v) ∧
      (t.ctx h).fcsr = (s.ctx h).fcsr ||| w64 (flagsOf (liveOf rs)).bits ∧
      (t.ctx h).vxsat = if (liveOf rs).any (·.sat) then 1#64 else (s.ctx h).vxsat := by
  intro x rs run left width
  obtain ⟨-, fcsr, vxsat⟩ := x.written_keeps (s.ctx h) base 0 (8 * 2 ^ q) (valuesOf rs)
  obtain ⟨t, ends, result, ctx⟩ := head_writes_group r ty run left (Ctx.effects_sameBut _ (liveOf rs)) rfl rfl r.vs
    (ty.total _) width
    (fun i hi a => ⟨a, (x.valuesOf_results_getD (s.ctx h) fn hi).trans (if_pos a)⟩) (fun i _ a => .inl a)
  refine ⟨t, ends, result, ?_, ?_⟩
  · rw [ctx, ← fcsr]
    exact Ctx.effects_fcsr _ _
  · rw [ctx, ← vxsat]
    exact Ctx.effects_vxsat _ _

end

/-! ### The elementwise operations -/

/-- Element i of the amount operand. -/
def VI.amountOf (x : VI) (c : Ctx) (src : VSrc) (i : Nat) : Nat :=
  match src with
  | .vec => c.elem x.s1 x.sew i
  | .scalar v => v

/-- What an operation of R230 gives for element i. -/
def VI.shiftOf (x : VI) (c : Ctx) (k : Nat) (src : VSrc) (i : Nat) : VRes :=
  shiftFn k c.vxrm.toNat x.sew (c.elem x.s2 x.sew i) (x.amountOf c src i)

/-- The group of the amounts is legal, where they are a group. -/
def VI.amountOk (x : VI) (src : VSrc) : Bool :=
  match src with
  | .vec => x.groupOk x.s1 x.sew
  | .scalar _ => true

theorem rzElem_eq (x : VI) (k : Nat) (src : VSrc) : x.rzElem k src = (do
    require (x.rzOk x.sew && x.groupOk x.s2 x.sew && x.amountOk src)
    x.useMask
    x.use x.s2 x.sew
    x.useSrc src x.sew
    waitStrips x.vd (x.regs x.sew)
    let c ← ctx
    x.putGroup x.sew (valuesOf (x.results c (x.shiftOf c k src)))
    putEffects (liveOf (x.results c (x.shiftOf c k src)))) := by
  cases src <;> rfl

/-- Results written, and their effects. -/
theorem putResults_leaves (x : VI) (w : Nat) (rs : List (Option VRes)) {s : State} {c : Ctx} (hc : (s.slot s.cur).ctx = some c) :
    ∃ base u, (x.putGroup w (valuesOf rs) >>= fun _ => putEffects (liveOf rs)) s = .ok () u ∧
      s.Leaves u ((x.written c base x.vs w (valuesOf rs)).effects (liveOf rs)) := by
  obtain ⟨base, u, put, left⟩ := putFrom_leaves x x.vs w (valuesOf rs) hc
  have slot := left.2.2
  rw [← left.1] at slot
  refine ⟨base, _, ?_, left.trans (State.leaves_modCtx (·.effects (liveOf rs)) slot)⟩
  rw [estate_bind, VI.putGroup, put]
  exact putEffects_apply (liveOf rs) u

theorem rzElem_leaves {x : VI} {k : Nat} {src : VSrc} {s : State} {c : Ctx} (hc : (s.slot s.cur).ctx = some c) (quiet : c.Quiet)
    (dest : x.rzOk x.sew = true) (second : x.groupOk x.s2 x.sew = true) (amounts : x.amountOk src = true) :
    ∃ base u, x.rzElem k src s = .ok () u ∧ s.Leaves u ((x.written c base x.vs x.sew
      (valuesOf (x.results c (x.shiftOf c k src)))).effects (liveOf (x.results c (x.shiftOf c k src)))) := by
  have ctx : s.ctx s.cur = c := State.ctx_of_slot hc
  have still : (s.ctx s.cur).Quiet := by rwa [ctx]
  obtain ⟨base, u, put, left⟩ := putResults_leaves x x.sew (x.results c (x.shiftOf c k src)) hc
  refine ⟨base, u, ?_, left⟩
  rw [estate_bind] at put
  simp only [rzElem_eq, estate_bind, dest, second, amounts, Bool.and_self, require_true, estate_pure, useMask_quiet still,
    use_quiet still, useSrc_quiet still, waitStrips_quiet still, ctx_apply, ctx, put]

theorem VTyped.rzOk {e : SeqEnt} {q g : Nat} {c : Ctx} (ty : VTyped e q g) (vs : (e.instr c).vs = 0)
    (dest : (e.instr c).vd % g = 0) (free : (e.instr c).vm = true ∨ (e.instr c).vd ≠ 0) :
    (e.instr c).rzOk (8 * 2 ^ q) = true := by
  simp [VI.rzOk, ty.ill, vs, ty.groupOk c dest, VI.maskOk_of _ _ free]

/-- An elementwise operation of R230 at the head of the sequencer. -/
theorem head_rzElem {s : State} {h : Hart} {e : SeqEnt} {rest : List SeqEnt} {q g k : Nat} {src : VSrc} (r : HeadRuns s h e rest)
    (ty : VTyped e q g) : let x := e.instr (s.ctx h)
    let fn := x.shiftOf (s.ctx h) k src
    (∀ u, x.run u = x.rzElem k src u) → (x.vm = true ∨ x.vd ≠ 0) → x.vd % g = 0 → x.s2 % g = 0 →
    (src = .vec → x.s1 % g = 0) →
    (∀ i, (fn i).v < 2 ^ (8 * 2 ^ q)) →
    ∃ t, exec (.sequencerHeadExecute h) s = .next t ∧
      VecResult s t h e rest x.vd g (8 * 2 ^ q) (x.active (s.ctx h)) (fun i => (fn i).v) ∧ (t.ctx h).fcsr = (s.ctx h).fcsr ∧
      ((∃ i, i < e.vl ∧ x.active (s.ctx h) i = true ∧ (fn i).sat = true) → (t.ctx h).vxsat = 1#64) ∧
      ((∀ i, i < e.vl → x.active (s.ctx h) i = true → (fn i).sat = false) → (t.ctx h).vxsat = (s.ctx h).vxsat) := by
  intro x fn run free dest second amounts width
  have sew : x.sew = 8 * 2 ^ q := ty.sew _
  have amountOk : x.amountOk src = true := by
    cases src with
    | vec => rw [VI.amountOk, sew]; exact ty.groupOk _ (amounts rfl)
    | scalar v => rfl
  obtain ⟨base, u, done, left⟩ := rzElem_leaves (x := x) (k := k) (src := src) r.slot_ctx r.quiet
    (by rw [sew]; exact ty.rzOk r.vs dest free) (by rw [sew]; exact ty.groupOk _ second) amountOk
  rw [sew, show x.vs = 0 from r.vs] at left
  obtain ⟨t, ends, result, fcsr, vxsat⟩ := head_writes_results r ty ((run _).trans done) left (fun i _ _ => width i)
  have flags : flagsOf (liveOf (x.results (s.ctx h) fn)) = {} := flagsOf_none fun z hz => by
    obtain ⟨i, -, -, rfl⟩ := (x.mem_liveOf_results _ _ z).mp hz
    exact shiftFn_fl _ _ _ _ k
  refine ⟨t, ends, result, ?_, fun any => ?_, fun none => ?_⟩
  · rw [fcsr]
    exact (congrArg (fun f : FFlags => (s.ctx h).fcsr ||| w64 f.bits) flags).trans BitVec.or_zero
  · exact vxsat.trans (if_pos ((x.liveOf_results_sat _ fn).mpr any))
  · refine vxsat.trans (if_neg fun any => ?_)
    obtain ⟨i, hi, a, sat⟩ := (x.liveOf_results_sat _ fn).mp any
    exact Bool.false_ne_true ((none i hi a).symm.trans sat)

end Sys2Proof.Machine
end

section
/-! The width of a floating-point result, the union of flags, and the tree over a few leaves. -/

namespace Sys2Proof.Machine

open Sys2Proof

/-! ### A result fits in its format -/

section
variable (f : BinFmt)

theorem BinFmt.sgn_le (n : Bool) : f.sgn n ≤ 2 ^ (f.e + f.m) := by
  unfold BinFmt.sgn
  split
  · exact le_rfl
  · exact Nat.zero_le _

theorem BinFmt.inf_lt : f.inf < 2 ^ (f.e + f.m) := by
  rw [BinFmt.inf, Nat.pow_add]
  exact Nat.mul_lt_mul_of_pos_right (Nat.sub_lt (Nat.two_pow_pos _) Nat.one_pos) (Nat.two_pow_pos _)

theorem BinFmt.two_pow_width : 2 ^ f.width = 2 ^ (f.e + f.m) + 2 ^ (f.e + f.m) := by
  rw [BinFmt.width, Nat.add_assoc, Nat.pow_add, pow_one, Nat.two_mul]

/-- A sign and a magnitude below infinity's, or infinity itself. -/
theorem BinFmt.sgn_add_lt (n : Bool) {v : Nat} (h : v ≤ f.inf) : f.sgn n + v < 2 ^ f.width := by
  have := f.sgn_le n
  have := f.inf_lt
  rw [f.two_pow_width]
  omega

theorem BinFmt.nan_lt : f.nan < 2 ^ f.width := by
  have := f.inf_lt
  have : 2 ^ (f.m - 1) ≤ 2 ^ (f.e + f.m) := Nat.pow_le_pow_right (by decide) (by omega)
  rw [f.two_pow_width, BinFmt.nan]
  omega

theorem BinFmt.round_lt (rm : Nat) (neg : Bool) (m : Nat) (e : Int) (more : Bool) :
    (f.round rm neg m e more).1 < 2 ^ f.width := by
  have greatest (toInf : Bool) : (if toInf then f.inf else f.inf - 1) ≤ f.inf := by split <;> omega
  unfold BinFmt.round
  dsimp only
  split
  · next overflow => exact f.sgn_add_lt neg (greatest _)
  · next fits => exact f.sgn_add_lt neg (by omega)

theorem BinFmt.out_lt (rm : Nat) (v : FV) : (f.out rm v).1 < 2 ^ f.width := by
  unfold BinFmt.out BinFmt.enc
  cases v with
  | nan s => exact f.nan_lt
  | inf n => exact f.sgn_add_lt n le_rfl
  | num n m e =>
    dsimp only
    split
    · exact f.sgn_add_lt n (Nat.zero_le _)
    · exact f.round_lt rm n m e false

end

/-! ### The union of flags -/

theorem FFlags.bits_join (a b : FFlags) : (a.join b).bits = a.bits ||| b.bits := by
  obtain ⟨a1, a2, a3, a4, a5⟩ := a
  obtain ⟨b1, b2, b3, b4, b5⟩ := b
  revert a1 a2 a3 a4 a5 b1 b2 b3 b4 b5
  decide

/-! ### The tree over a few leaves (R63) -/

section
variable (f : BinFmt) (rm init : Nat) (u v x y : FV)

/-- A tree over leaves of which one is there, which passes unrounded, onto its scalar. -/
theorem treeReduce_lone : treeReduce f rm init [some v] = f.out rm ((f.val init).add rm v) ∧
    treeReduce f rm init [some v, none] = f.out rm ((f.val init).add rm v) ∧
    treeReduce f rm init [none, some v] = f.out rm ((f.val init).add rm v) :=
  ⟨rfl, rfl, rfl⟩

/-- A tree with a sum onto its scalar, k being the tree's height. -/
theorem treeReduce_of_sum {l : List (Option FV)} {t : FV} (k : Nat) (height : bitLen (l.length - 1) = k)
    (sum : (treeSum f rm k l).1 = some t) : (treeReduce f rm init l).1 = (f.out rm ((f.val init).add rm t)).1 := by
  rw [treeReduce, height]
  dsimp only
  rw [sum]

theorem treeReduce_two : (treeReduce f rm init [some u, some v]).1 =
    (f.out rm ((f.val init).add rm (f.addV rm u v).1)).1 :=
  treeReduce_of_sum f rm init 1 (show bitLen 1 = 1 by decide) rfl

theorem treeReduce_three : (treeReduce f rm init [some u, some v, some x]).1 =
    (f.out rm ((f.val init).add rm (f.addV rm (f.addV rm u v).1 x).1)).1 :=
  treeReduce_of_sum f rm init 2 (show bitLen 2 = 2 by decide) rfl

theorem treeReduce_four : (treeReduce f rm init [some u, some v, some x, some y]).1 =
    (f.out rm ((f.val init).add rm (f.addV rm (f.addV rm u v).1 (f.addV rm x y).1).1)).1 :=
  treeReduce_of_sum f rm init 2 (show bitLen 3 = 2 by decide) rfl

theorem BinFmt.alone_lt (fits : init < 2 ^ f.width) : f.alone init < 2 ^ f.width := by
  unfold BinFmt.alone
  split
  · exact f.nan_lt
  · exact fits

theorem treeReduce_lt (l : List (Option FV)) (fits : init < 2 ^ f.width) : (treeReduce f rm init l).1 < 2 ^ f.width := by
  unfold treeReduce
  dsimp only
  split
  · exact f.alone_lt init fits
  · exact f.out_lt rm _

end

end Sys2Proof.Machine
end

section
/-! The tree reductions onto a scalar at the head of the sequencer (spec/08_vector.md R234, R235). -/

namespace Sys2Proof.Machine

open Sys2Proof

/-! ### Element 0 of a register -/

/-- What a scalar's writing puts into element i: the scalar into element 0, ones into the tail where the policy has them. -/
def VI.scalarChoice (x : VI) (base w v i : Nat) : Option Nat :=
  if i = 0 then some v else if x.ta ∧ Config.agnosticOnes (base + i) then some (ones w) else none

/-- The context after element 0 of the destination register has been written. -/
def VI.scalarWritten (x : VI) (c : Ctx) (base w v : Nat) : Ctx :=
  (c.writeElems x.vd w (512 / w) (x.scalarChoice base w v)).dirtyV

theorem putScalar_apply (x : VI) (w v : Nat) (s : State) (nonzero : x.vl ≠ 0) : x.putScalar w v s =
    .ok () ({ s with free := s.free + 512 / w }.modCtx s.cur (fun c => x.scalarWritten c s.free w v)) := by
  simp only [VI.putScalar, if_neg nonzero, drawAgnostic_apply, estate_bind, modCtx_apply, VI.scalarWritten, Ctx.writeElems]
  congr! 5 with c
  funext d i
  unfold VI.scalarChoice
  split
  · next zero => rw [zero]; rfl
  · split <;> rfl

theorem putScalar_leaves (x : VI) (w v : Nat) {s : State} {c : Ctx} (nonzero : x.vl ≠ 0) (hc : (s.slot s.cur).ctx = some c) :
    ∃ base u, x.putScalar w v s = .ok () u ∧ s.Leaves u (x.scalarWritten c base w v) := by
  refine ⟨s.free, _, putScalar_apply x w v s nonzero, ?_⟩
  exact State.leaves_modCtx (s := { s with free := s.free + 512 / w }) (x.scalarWritten · s.free w v) hc

section
variable {s t : State} {h : Hart} {e : SeqEnt} {rest : List SeqEnt} {d w v : Nat}

/-- Element 0 and its tail are a group of one register under a vl of 1. -/
theorem vecScalar_of_vecResult (hw : 0 < w) (dvd : w ∣ 512) (nonzero : e.vl ≠ 0)
    (r : VecResult s t h { e with vl := 1 } rest d 1 w (fun _ => true) (fun _ => v)) : VecScalar s t h e rest d w v := by
  obtain ⟨seq, vstart, hx, -, -, -, mem, outside, elems⟩ := r
  rw [Nat.one_mul] at elems
  refine ⟨seq, vstart, hx, mem, fun r ne => outside r (by omega), fun zero => absurd zero nonzero,
    fun _ => ⟨?_, fun i pos hi => ?_⟩⟩
  · exact (elems 0 (Nat.div_pos (Nat.le_of_dvd (by decide) dvd) hw)).1 Nat.one_pos rfl
  · exact (elems i hi).2.2 pos

/-- An instruction at the head of the sequencer that leaves its context as it is. -/
theorem vecScalar_of_none (zero : e.vl = 0) (mem : t.mem = s.mem) (ctx : t.ctx h = (s.ctx h).completed rest) :
    VecScalar s t h e rest d w v := by
  refine ⟨by rw [ctx]; rfl, by rw [ctx]; rfl, by rw [ctx]; rfl, by simp [mem], fun r _ => by rw [ctx]; rfl,
    fun _ => by rw [ctx]; rfl, fun nonzero => absurd zero nonzero⟩

theorem vecScalar_of_scalarWritten {x : VI} {c : Ctx} {base : Nat} (hw : 0 < w) (dvd : w ∣ 512) (nonzero : e.vl ≠ 0)
    (vt : x.vt = e.vtype) (mem : t.mem = s.mem) (ctx : t.ctx h = c.completed rest)
    (same : c.SameBut (x.scalarWritten (s.ctx h) base w v)) (fits : v < 2 ^ w) : VecScalar s t h e rest x.vd w v := by
  have ta : x.ta = e.vtype.getLsbD 6 := by rw [← vt]; rfl
  refine vecScalar_of_vecResult hw dvd nonzero (vecResult_of_writeElems (choice := x.scalarChoice base w v) hw dvd mem ctx
    (by rw [Nat.one_mul]; exact same.trans (Ctx.dirtyV_sameBut _)) (fun _ _ _ => fits) (fun i lt _ => ?_)
    (fun i _ no => Bool.noConfusion no) (fun i le => ?_))
  · have zero : i = 0 := Nat.lt_one_iff.mp lt
    exact if_pos zero
  · have pos : i ≠ 0 := Nat.one_le_iff_ne_zero.mp le
    rw [VI.scalarChoice, if_neg pos, ta]
    split
    · next agnostic => exact .inr ⟨agnostic.1, rfl⟩
    · exact .inl rfl

end

/-! ### The reductions -/

/-- The leaves of a reduction: the active elements of vs2, or their products with those of vs1. -/
def VI.leaves (x : VI) (c : Ctx) (dot : Bool) : List (Option FV) :=
  let f := fpW x.sew
  (List.range x.vl).map (fun i =>
    if x.active c i then
      some (if dot then (f.val (c.elem x.s2 x.sew i)).mul (f.val (c.elem x.s1 x.sew i)) else f.val (c.elem x.s2 x.sew i))
    else none)

/-- The sum of the leaves onto the scalar in a rounding mode, and its flags. -/
def VI.treeSum (x : VI) (rm : Nat) (c : Ctx) (dot : Bool) : Nat × FFlags :=
  treeReduce (fpW x.sew) rm (c.elem (if dot then x.vd else x.s1) x.sew 0) (x.leaves c dot)

/-- The reduction with the uses of its registers as steps of their own, and its sum by name. -/
theorem tree_eq (x : VI) (dot : Bool) : x.tree dot = (do
    require (!x.ill && x.vs == 0 && (x.sew == 32 || x.sew == 64) && x.groupOk x.s2 x.sew && (!dot || x.groupOk x.s1 x.sew) &&
      (x.vm || x.vd != 0))
    let rm ← dynRm
    x.useMask
    x.use x.s2 x.sew
    (if dot then x.use x.s1 x.sew else useV x.s1 1 : M Unit)
    (if dot then useV x.vd 1 else waitStrips x.vd 1 : M Unit)
    let c ← ctx
    if x.vl = 0 then pure ()
    else do
      x.putScalar x.sew (x.treeSum rm c dot).1
      accrue (x.treeSum rm c dot).2) := by
  cases dot <;> rfl

theorem fpW_eq {q : Nat} (two : 2 ≤ q) (four : q < 4) : fpW (8 * 2 ^ q) = if q = 3 then binary64 else binary32 := by
  have : ∀ q < 4, 2 ≤ q → fpW (8 * 2 ^ q) = if q = 3 then binary64 else binary32 := by decide
  exact this q four two

theorem fpW_width {q : Nat} (two : 2 ≤ q) (four : q < 4) : (fpW (8 * 2 ^ q)).width = 8 * 2 ^ q := by
  have : ∀ q < 4, 2 ≤ q → (fpW (8 * 2 ^ q)).width = 8 * 2 ^ q := by decide
  exact this q four two

theorem fpWidth_ok {q : Nat} (two : 2 ≤ q) (four : q < 4) : (8 * 2 ^ q == 32 || 8 * 2 ^ q == 64) = true := by
  have : ∀ q < 4, 2 ≤ q → (8 * 2 ^ q == 32 || 8 * 2 ^ q == 64) = true := by decide
  exact this q four two

theorem dynRm_ok {s : State} (on : (s.ctx s.cur).fs ≠ 0) (mode : (s.ctx s.cur).frm ≤ 4) :
    dynRm s = .ok (s.ctx s.cur).frm s := by
  simp [dynRm, on, mode]

/-- A reduction leaves its sum in element 0 and accrues its flags, or does nothing where vl is 0. -/
theorem tree_leaves {x : VI} {dot : Bool} {s : State} {c : Ctx} (hc : (s.slot s.cur).ctx = some c) (quiet : c.Quiet)
    (ill : x.ill = false) (vs : x.vs = 0) (width : (x.sew == 32 || x.sew == 64) = true) (second : x.groupOk x.s2 x.sew = true)
    (first : dot = true → x.groupOk x.s1 x.sew = true) (free : x.vm = true ∨ x.vd ≠ 0) (on : c.fs ≠ 0) (mode : c.frm ≤ 4) :
    ∃ base u, x.tree dot s = .ok () u ∧
      s.Leaves u (if x.vl = 0 then c
        else (x.scalarWritten c base x.sew (x.treeSum c.frm c dot).1).accrue (x.treeSum c.frm c dot).2) := by
  have ctx : s.ctx s.cur = c := State.ctx_of_slot hc
  have still : (s.ctx s.cur).Quiet := by rwa [ctx]
  have legal : (!x.ill && x.vs == 0 && (x.sew == 32 || x.sew == 64) && x.groupOk x.s2 x.sew &&
      (!dot || x.groupOk x.s1 x.sew) && (x.vm || x.vd != 0)) = true := by
    have free' : (x.vm || x.vd != 0) = true := by simpa using free
    have first' : (!dot || x.groupOk x.s1 x.sew) = true := by
      cases dot
      · rfl
      · exact first rfl
    simp [ill, vs, width, second, free', first']
  have rm : dynRm s = .ok c.frm s := by rw [← ctx]; exact dynRm_ok (by rwa [ctx]) (by rwa [ctx])
  have s1 : (if dot = true then x.use x.s1 x.sew else useV x.s1 1) s = .ok () s := by
    split
    · exact use_quiet still x _ _
    · exact useV_quiet still _ _
  have dest : (if dot = true then useV x.vd 1 else waitStrips x.vd 1) s = .ok () s := by
    split
    · exact useV_quiet still _ _
    · exact waitStrips_quiet still _ _
  by_cases zero : x.vl = 0
  · refine ⟨0, s, ?_, ?_⟩
    · simp only [tree_eq, legal, require_true, estate_bind, estate_pure, rm, useMask_quiet still, use_quiet still, s1, dest,
        ctx_apply, if_pos zero]
    · rw [if_pos zero]
      exact ⟨rfl, rfl, hc⟩
  · obtain ⟨base, u, put, left⟩ := putScalar_leaves x x.sew (x.treeSum c.frm c dot).1 zero hc
    have slot := left.2.2
    rw [← left.1] at slot
    refine ⟨base, _, ?_, by rw [if_neg zero]; exact left.trans (State.leaves_modCtx (·.accrue (x.treeSum c.frm c dot).2) slot)⟩
    simp only [tree_eq, legal, require_true, estate_bind, estate_pure, rm, useMask_quiet still, use_quiet still, s1, dest,
      ctx_apply, if_neg zero, ctx, put, accrue_apply]

theorem VI.scalarWritten_frame (x : VI) (c : Ctx) (base w v : Nat) :
    (x.scalarWritten c base w v).seq = c.seq ∧ (x.scalarWritten c base w v).fcsr = c.fcsr := by
  rw [VI.scalarWritten, Ctx.writeElems_frame]
  exact ⟨rfl, rfl⟩

theorem VI.treeSum_lt (x : VI) (rm : Nat) (c : Ctx) (dot : Bool) (hw : 0 < x.sew) (width : (fpW x.sew).width = x.sew) :
    (x.treeSum rm c dot).1 < 2 ^ x.sew := by
  have init := c.elem_lt (if dot then x.vd else x.s1) hw 0
  have sum := treeReduce_lt (fpW x.sew) rm _ (x.leaves c dot) (init.trans_eq (by rw [width]))
  rwa [width] at sum

/-- A reduction at the head of the sequencer. -/
theorem head_tree {s : State} {h : Hart} {e : SeqEnt} {rest : List SeqEnt} {q g : Nat} {dot : Bool} (r : HeadRuns s h e rest)
    (ty : VTyped e q g) (two : 2 ≤ q) : let c := s.ctx h
    let x := e.instr c
    let z := x.treeSum c.frm c dot
    (∀ u, x.run u = x.tree dot u) → x.s2 % g = 0 → (dot = true → x.s1 % g = 0) → (x.vm = true ∨ x.vd ≠ 0) →
    c.fs ≠ 0 → c.frm ≤ 4 →
    ∃ t, exec (.sequencerHeadExecute h) s = .next t ∧ VecScalar s t h e rest x.vd (8 * 2 ^ q) z.1 ∧
      (t.ctx h).fcsr = if e.vl = 0 then c.fcsr else c.fcsr ||| w64 z.2.bits := by
  intro c x z run second first free on mode
  obtain ⟨-, four, -⟩ := ty.fields
  obtain ⟨hw, dvd⟩ := ty.width
  have sew : x.sew = 8 * 2 ^ q := ty.sew c
  obtain ⟨base, u, done, left⟩ := tree_leaves (x := x) (dot := dot) r.slot_ctx r.quiet (ty.ill c) r.vs
    (by rw [sew]; exact fpWidth_ok two four) (by rw [sew]; exact ty.groupOk c second)
    (fun isDot => by rw [sew]; exact ty.groupOk c (first isDot)) free on mode
  have ran := (run (s.atHead h e)).trans done
  rw [sew, show x.vl = e.vl from rfl] at left
  by_cases zero : e.vl = 0
  · rw [if_pos zero] at left ⊢
    obtain ⟨t, ends, mem, ctx⟩ := head_completes r ran left rfl
    exact ⟨t, ends, vecScalar_of_none zero mem ctx, by rw [ctx]; rfl⟩
  · rw [if_neg zero] at left ⊢
    obtain ⟨seq, fcsr⟩ := x.scalarWritten_frame c base (8 * 2 ^ q) z.1
    have same := Ctx.accrue_sameBut (x.scalarWritten c base (8 * 2 ^ q) z.1) z.2
    obtain ⟨t, ends, mem, ctx⟩ := head_completes r ran left (same.seq.trans seq)
    have fits : z.1 < 2 ^ (8 * 2 ^ q) := by
      rw [← sew]
      exact x.treeSum_lt _ c dot (by rw [sew]; exact hw) (by simp only [sew, fpW_width two four])
    refine ⟨t, ends, vecScalar_of_scalarWritten hw dvd zero rfl mem ctx same fits, ?_⟩
    rw [ctx, ← fcsr]
    exact Ctx.accrue_fcsr _ _

end Sys2Proof.Machine
end

section
/-! The scans at the head of the sequencer (spec/08_vector.md R233). -/

namespace Sys2Proof.Machine

open Sys2Proof

/-! ### One step of a scan -/

/-- The chain value r after an element v; sum is the addition of a floating-point scan. -/
def scanStep (k w : Nat) (sum : Nat → Nat → Nat × FFlags) (r v : Nat) : Nat :=
  match k with
  | 4 => uint (min (sint r w) (sint v w)) w
  | 5 => uint (max (sint r w) (sint v w)) w
  | 6 => min r v
  | 7 => max r v
  | 8 => (sum r v).1
  | _ => (r + v) % 2 ^ w

section
variable {k : Nat} (rm w r v : Nat) (three : 3 ≤ k) (nine : k ≤ 9)
include three nine

theorem scanFn_chain {sum : Nat → Nat → Nat × FFlags} (real : k = 8 → (fpW w).add rm r v = sum r v) :
    (scanFn k rm w r v).1 = scanStep k w sum r v := by
  by_cases eight : k = 8
  · subst eight
    exact congrArg Prod.fst (real rfl)
  · obtain rfl | rfl | rfl | rfl | rfl | rfl : k = 3 ∨ k = 4 ∨ k = 5 ∨ k = 6 ∨ k = 7 ∨ k = 9 := by omega
    all_goals rfl

theorem scanFn_out : (scanFn k rm w r v).2.1 = if k = 9 then r else (scanFn k rm w r v).1 := by
  interval_cases k <;> rfl

theorem scanFn_flags : (scanFn k rm w r v).2.2 = if k = 8 then ((fpW w).add rm r v).2 else {} := by
  interval_cases k <;> rfl

theorem scanFn_lt (hr : r < 2 ^ w) (hv : v < 2 ^ w) (width : k = 8 → (fpW w).width = w) : (scanFn k rm w r v).1 < 2 ^ w := by
  rw [scanFn_chain rm w r v three nine (sum := (fpW w).add rm) fun _ => rfl]
  unfold scanStep
  split
  · exact uint_lt _ _
  · exact uint_lt _ _
  · omega
  · omega
  · next => exact ((fpW w).out_lt rm _).trans_eq (by rw [width rfl])
  · exact Nat.mod_lt _ (Nat.two_pow_pos w)

end

theorem chainOf_lt {f : Nat → Nat → Nat} {act : Nat → Bool} {el : Nat → Nat} {init b : Nat} (start : init < b)
    (elems : ∀ i, el i < b) (step : ∀ r v, r < b → v < b → f r v < b) (n : Nat) : chainOf f act el init n < b := by
  induction n with
  | zero => exact start
  | succ n ih =>
    rw [chainOf]
    split
    · exact step _ _ ih (elems n)
    · exact ih

/-! ### The fold of a scan -/

section
variable (k rm w : Nat) (act : Nat → Bool) (el : Nat → Nat) (init n : Nat)

/-- The outputs of the first n elements of a scan, the chain behind them, and the flags. -/
def scanTo : List (Option Nat) × Nat × FFlags :=
  (List.range n).foldl (fun (r : List (Option Nat) × Nat × FFlags) i =>
    if act i then
      let (v, o, g) := scanFn k rm w r.2.1 (el i)
      (r.1 ++ [some o], v, r.2.2.join g)
    else (r.1 ++ [none], r.2)) ([], init, {})

/-- The chain of a scan before element n, and what element n makes of it. -/
def scanChain : Nat := chainOf (fun r v => (scanFn k rm w r v).1) act el init n
def scanElem : Nat × Nat × FFlags := scanFn k rm w (scanChain k rm w act el init n) (el n)

theorem scanChain_succ : scanChain k rm w act el init (n + 1) =
    if act n then (scanElem k rm w act el init n).1 else scanChain k rm w act el init n := rfl

theorem scanTo_succ : scanTo k rm w act el init (n + 1) =
    if act n then
      let z := scanFn k rm w (scanTo k rm w act el init n).2.1 (el n)
      ((scanTo k rm w act el init n).1 ++ [some z.2.1], z.1, (scanTo k rm w act el init n).2.2.join z.2.2)
    else ((scanTo k rm w act el init n).1 ++ [none], (scanTo k rm w act el init n).2) := by
  rw [scanTo, List.range_succ, List.foldl_append]
  rfl

theorem scanTo_chain : (scanTo k rm w act el init n).2.1 = scanChain k rm w act el init n := by
  induction n with
  | zero => rfl
  | succ n ih =>
    rw [scanTo_succ, scanChain_succ, ← ih]
    cases act n
    · rfl
    · simp only [if_true, scanElem, ← ih]

theorem scanTo_active (a : act n = true) : scanTo k rm w act el init (n + 1) =
    ((scanTo k rm w act el init n).1 ++ [some (scanElem k rm w act el init n).2.1], (scanElem k rm w act el init n).1,
      (scanTo k rm w act el init n).2.2.join (scanElem k rm w act el init n).2.2) := by
  rw [scanTo_succ, if_pos a, scanTo_chain]
  rfl

theorem scanTo_inactive (a : act n = false) : scanTo k rm w act el init (n + 1) =
    ((scanTo k rm w act el init n).1 ++ [none], (scanTo k rm w act el init n).2) := by
  rw [scanTo_succ, a, if_neg Bool.false_ne_true]

theorem scanTo_outputs : (scanTo k rm w act el init n).1 =
    (List.range n).map (fun i => if act i then some (scanElem k rm w act el init i).2.1 else none) := by
  induction n with
  | zero => rfl
  | succ n ih =>
    rw [List.range_succ, List.map_append, ← ih]
    cases a : act n
    · rw [scanTo_inactive k rm w act el init n a]; simp [a]
    · rw [scanTo_active k rm w act el init n a]; simp [a]

theorem scanTo_outputs_getD {i : Nat} (hi : i < n) : (scanTo k rm w act el init n).1.getD i none =
    if act i then some (scanElem k rm w act el init i).2.1 else none := by
  rw [scanTo_outputs]
  simp [hi]

/-- The flags of an active element are among those of the scan. -/
theorem scanTo_flags {i : Nat} (hi : i < n) (a : act i = true) :
    (scanTo k rm w act el init n).2.2.bits ||| (scanElem k rm w act el init i).2.2.bits =
      (scanTo k rm w act el init n).2.2.bits := by
  induction n with
  | zero => exact absurd hi (Nat.not_lt_zero i)
  | succ n ih =>
    rcases Nat.lt_succ_iff_lt_or_eq.mp hi with lt | rfl
    · cases last : act n
      · rw [scanTo_inactive k rm w act el init n last]
        exact ih lt
      · rw [scanTo_active k rm w act el init n last, FFlags.bits_join, Nat.or_right_comm, ih lt]
    · rw [scanTo_active k rm w act el init i a, FFlags.bits_join, Nat.or_assoc, Nat.or_self]

theorem scanTo_flags_none (none : ∀ r v, (scanFn k rm w r v).2.2 = {}) : (scanTo k rm w act el init n).2.2 = {} := by
  induction n with
  | zero => rfl
  | succ n ih =>
    cases a : act n
    · rw [scanTo_inactive k rm w act el init n a]; exact ih
    · rw [scanTo_active k rm w act el init n a, ih, scanElem, none]; rfl

end

/-! ### Flags among the accrued ones -/

/-- Bits that a union does not add to are among those it has. -/
theorem and_eq_of_or_eq {n : Nat} {a b : BitVec n} (h : a ||| b = a) : a &&& b = b := by
  rw [← h]
  ext i hi
  simpa using Or.inr

theorem or_and_self {n : Nat} (a b : BitVec n) : (a ||| b) &&& a = a :=
  and_eq_of_or_eq (by rw [BitVec.or_assoc, BitVec.or_comm b, ← BitVec.or_assoc, BitVec.or_self])

theorem w64_or (a b : Nat) : w64 (a ||| b) = w64 a ||| w64 b := BitVec.ofNat_or

/-! ### The instruction -/

theorem VI.unmasked_vd (x : VI) : x.unmasked.vd = x.vd := by
  have : fRd (x.w ||| 0x02000000#32) = fRd x.w := by
    have low : (0x02000000#32).extractLsb' 7 5 = 0#5 := by decide
    rw [fRd, BitVec.extractLsb'_or, low, BitVec.or_zero, fRd]
  exact congrArg BitVec.toNat this

theorem VI.unmasked_active (x : VI) (c : Ctx) (i : Nat) : x.unmasked.active c i = true := by
  simp [VI.active, VI.unmasked, VI.vm, fVm]

/-- The rounding mode of a scan: a sum of floating-point elements takes that of frm. -/
def scanMode (k : Nat) (c : Ctx) : Nat := if k = 8 then c.frm else 0

/-- A scan's fold over its elements. -/
def VI.scanned (x : VI) (k rm : Nat) (c : Ctx) : List (Option Nat) × Nat × FFlags :=
  scanTo k rm x.sew (x.active c) (c.elem x.s2 x.sew) (c.elem x.s1 x.sew 0) x.vl

/-- The chain of a scan before its element n. -/
def VI.chain (x : VI) (k rm : Nat) (c : Ctx) (n : Nat) : Nat :=
  scanChain k rm x.sew (x.active c) (c.elem x.s2 x.sew) (c.elem x.s1 x.sew 0) n

theorem VI.chain_eq (x : VI) {k : Nat} (rm : Nat) (c : Ctx) (n : Nat) (three : 3 ≤ k) (nine : k ≤ 9)
    {sum : Nat → Nat → Nat × FFlags} (real : ∀ r v, k = 8 → (fpW x.sew).add rm r v = sum r v) :
    x.chain k rm c n = chainOf (scanStep k x.sew sum) (x.active c) (c.elem x.s2 x.sew) (c.elem x.s1 x.sew 0) n := by
  have step : (fun r v => (scanFn k rm x.sew r v).1) = scanStep k x.sew sum :=
    funext fun r => funext fun v => scanFn_chain rm x.sew r v three nine (real r v)
  rw [VI.chain, scanChain, step]

/-- What a scan gives for element i: the chain behind it, and for vx.escanadd the one before it. -/
def VI.scanValue (x : VI) (k rm : Nat) (c : Ctx) (i : Nat) : Nat := if k = 9 then x.chain k rm c i else x.chain k rm c (i + 1)

theorem VI.scanned_getD {x : VI} {k : Nat} (rm : Nat) (c : Ctx) {i : Nat} (three : 3 ≤ k) (nine : k ≤ 9) (hi : i < x.vl) :
    (x.scanned k rm c).1.getD i none = if x.active c i then some (x.scanValue k rm c i) else none := by
  rw [VI.scanned, scanTo_outputs_getD _ _ _ _ _ _ _ hi, scanElem, scanFn_out _ _ _ _ three nine]
  cases a : x.active c i
  · rfl
  · simp only [if_true, VI.scanValue, VI.chain, scanChain_succ, scanElem, a]

/-- The flags of an active element's addition are among those of the scan. -/
theorem VI.scanned_flags {x : VI} (rm : Nat) (c : Ctx) {i : Nat} (hi : i < x.vl) (a : x.active c i = true) :
    let flags := (x.scanned 8 rm c).2.2.bits
    flags ||| ((fpW x.sew).add rm (x.chain 8 rm c i) (c.elem x.s2 x.sew i)).2.bits = flags :=
  scanTo_flags 8 rm x.sew _ _ _ _ hi a

theorem VI.scanned_flags_none (x : VI) {k : Nat} (rm : Nat) (c : Ctx) (three : 3 ≤ k) (nine : k ≤ 9) (whole : k ≠ 8) :
    (x.scanned k rm c).2.2 = {} :=
  scanTo_flags_none _ _ _ _ _ _ _ fun _ _ => (scanFn_flags _ _ _ _ three nine).trans (if_neg whole)

theorem scan_eq (x : VI) (k : Nat) : x.scan k = (do
    require (x.rzOk x.sew && x.groupOk x.s2 x.sew)
    let rm ← (if k = 8 then (do require (x.sew == 32 || x.sew == 64); dynRm) else pure 0 : M Nat)
    x.useMask
    x.use x.s2 x.sew
    useV x.s1 1
    waitStrips x.vd (x.regs x.sew)
    let c ← ctx
    x.unmasked.putGroup x.sew (x.scanned k rm c).1
    if x.vl = 0 then pure () else accrue (x.scanned k rm c).2.2) := by
  by_cases real : k = 8
  · subst real; rfl
  · simp only [VI.scan, if_neg real]; rfl

/-- A scan leaves its outputs in its group, inactive elements as they are, and accrues its flags. -/
theorem scan_leaves {x : VI} {k : Nat} {s : State} {c : Ctx} (hc : (s.slot s.cur).ctx = some c) (quiet : c.Quiet)
    (dest : x.rzOk x.sew = true) (second : x.groupOk x.s2 x.sew = true)
    (real : k = 8 → (x.sew == 32 || x.sew == 64) = true ∧ c.fs ≠ 0 ∧ c.frm ≤ 4) :
    let z := x.scanned k (scanMode k c) c
    ∃ base u, x.scan k s = .ok () u ∧ s.Leaves u ((x.unmasked.written c base x.vs x.sew z.1).accrue z.2.2) := by
  intro z
  have ctx : s.ctx s.cur = c := State.ctx_of_slot hc
  have still : (s.ctx s.cur).Quiet := by rwa [ctx]
  have mode : (if k = 8 then (do require (x.sew == 32 || x.sew == 64); dynRm) else pure 0 : M Nat) s = .ok (scanMode k c) s := by
    unfold scanMode
    split
    · next h =>
      obtain ⟨width, on, legal⟩ := real h
      simp only [width, require_true, estate_bind, estate_pure, ← ctx]
      exact dynRm_ok (by rwa [ctx]) (by rwa [ctx])
    · rfl
  obtain ⟨base, u, put, left⟩ := putFrom_leaves x.unmasked x.vs x.sew z.1 hc
  have slot := left.2.2
  rw [← left.1] at slot
  obtain ⟨v, ends, accrued⟩ : ∃ v, (if x.vl = 0 then pure () else accrue z.2.2 : M Unit) u = .ok () v ∧
      u.Leaves v ((x.unmasked.written c base x.vs x.sew z.1).accrue z.2.2) := by
    split
    · next zero =>
      have none : z.2.2 = {} := by
        show (scanTo _ _ _ _ _ _ x.vl).2.2 = {}
        rw [zero]
        rfl
      exact ⟨u, rfl, by rw [none]; exact ⟨rfl, rfl, slot⟩⟩
    · exact ⟨_, rfl, State.leaves_modCtx (·.accrue z.2.2) slot⟩
  refine ⟨base, v, ?_, left.trans accrued⟩
  rw [← ends]
  have put' : x.unmasked.putGroup x.sew z.1 s = .ok () u := put
  simp only [scan_eq, dest, second, Bool.and_self, require_true, estate_bind, estate_pure, mode, useMask_quiet still,
    use_quiet still, useV_quiet still, waitStrips_quiet still, ctx_apply, ctx, z, put']

/-- An element that is not written keeps its value. -/
theorem elem_written_none {x : VI} {b c d : Ctx} {base lo w i : Nat} {rs : List (Option Nat)} (hw : 0 < w) (dvd : w ∣ 512)
    (v : d.v = b.v) (same : b.SameBut (x.written c base lo w rs)) (none : x.choice c base lo w rs i = none) :
    d.elem x.vd w i = c.elem x.vd w i := by
  have written := same.trans (x.written_sameBut c base lo w rs)
  have elem := c.elem_writeElems x.vd (x.total w) (x.choice c base lo w rs) hw dvd i
  rw [none, Option.elim_none, ite_self] at elem
  rw [← elem, Ctx.elem, Ctx.elem, Ctx.getV, Ctx.getV, v, written]

/-- A scan at the head of the sequencer. -/
theorem head_scan {s : State} {h : Hart} {e : SeqEnt} {rest : List SeqEnt} {q g k : Nat} (r : HeadRuns s h e rest)
    (ty : VTyped e q g) (three : 3 ≤ k) (nine : k ≤ 9) : let c := s.ctx h
    let x := e.instr c
    let w := 8 * 2 ^ q
    let rm := scanMode k c
    (∀ u, x.run u = x.scan k u) → (x.vm = true ∨ x.vd ≠ 0) → x.vd % g = 0 → x.s2 % g = 0 →
    (k = 8 → 2 ≤ q ∧ c.fs ≠ 0 ∧ c.frm ≤ 4) →
    ∃ t, exec (.sequencerHeadExecute h) s = .next t ∧
      VecResult s t h e rest x.vd g w (x.active c) (x.scanValue k rm c) ∧
      (∀ i, i < e.vl → x.active c i = false → (t.ctx h).elem x.vd w i = c.elem x.vd w i) ∧
      (t.ctx h).fcsr = c.fcsr ||| w64 (x.scanned k rm c).2.2.bits := by
  intro c x w rm run free dest second real
  obtain ⟨-, four, -⟩ := ty.fields
  obtain ⟨hw, dvd⟩ := ty.width
  have sew : x.sew = w := ty.sew c
  have bound (n : Nat) : x.chain k rm c n < 2 ^ w := by
    rw [VI.chain, sew]
    exact chainOf_lt (c.elem_lt _ hw 0) (fun i => c.elem_lt _ hw i)
      (fun r v hr hv => scanFn_lt _ _ _ _ three nine hr hv fun f => fpW_width (real f).1 four) n
  obtain ⟨base, u, done, left⟩ := scan_leaves (x := x) (k := k) r.slot_ctx r.quiet (by rw [sew]; exact ty.rzOk r.vs dest free)
    (by rw [sew]; exact ty.groupOk c second)
    (fun f => by obtain ⟨two, on, mode⟩ := real f; rw [sew]; exact ⟨fpWidth_ok two four, on, mode⟩)
  rw [sew, show x.vs = 0 from r.vs] at left
  have vd := x.unmasked_vd
  have same := Ctx.accrue_sameBut (x.unmasked.written c base 0 w (x.scanned k rm c).1) (x.scanned k rm c).2.2
  have value {i : Nat} (hi : i < e.vl) : (x.scanned k rm c).1.getD i none =
      if x.active c i then some (x.scanValue k rm c i) else none := VI.scanned_getD rm c three nine hi
  obtain ⟨t, ends, result, ctx⟩ := head_writes_group (act := x.active c) (f := x.scanValue k rm c) r ty
    ((run _).trans done) left same rfl rfl r.vs (ty.total c) (fun i _ _ => by unfold VI.scanValue; split <;> exact bound _)
    (fun i hi a => ⟨x.unmasked_active c i, (value hi).trans (if_pos a)⟩)
    (fun i hi a => .inr ((value hi).trans (by rw [a, if_neg Bool.false_ne_true])))
  rw [vd] at result
  refine ⟨t, ends, result, fun i hi a => ?_, ?_⟩
  · rw [← vd]
    refine elem_written_none hw dvd (by rw [ctx]; rfl) same ?_
    have val := value hi
    rw [a, if_neg Bool.false_ne_true] at val
    have vl : x.unmasked.vl = e.vl := rfl
    rw [VI.choice, show x.unmasked.vs = 0 from r.vs, vl, if_neg (by omega), if_pos hi, if_neg (by omega), x.unmasked_active,
      if_pos rfl, val]
  · rw [ctx]
    refine (Ctx.accrue_fcsr _ _).trans ?_
    rw [(x.unmasked.written_keeps c base 0 w _).2.1]

end Sys2Proof.Machine
end

section
/-! The own vector instructions, element by element: the operations of R230, the scans, the trees, and the trees over up to four
leaves (spec/08_vector.md R228 to R235). -/

namespace Sys2Proof.Machine

open Sys2Proof

section
variable {s t : State} {h : Hart} {e : SeqEnt} {rest : List SeqEnt} {q g : Nat}

theorem VecResult.congr {d n w : Nat} {act : Nat → Bool} {f f' : Nat → Nat} (r : VecResult s t h e rest d n w act f)
    (same : ∀ i, f i = f' i) : VecResult s t h e rest d n w act f' := funext same ▸ r

/-- The fields of a queued word of custom-1. -/
theorem instr_fields {f6 : BitVec 6} {m : BitVec 1} {b a : Reg} {f3 : BitVec 3} {d : Reg} (bits : e.bits = rvWord f6 m b a f3 d)
    (c : Ctx) : (e.instr c).vd = d.toNat ∧ (e.instr c).s2 = b.toNat ∧ (e.instr c).s1 = a.toNat ∧
    (e.instr c).vm = (m == 1#1) := by
  simp only [VI.vd, VI.s2, VI.s1, VI.vm, SeqEnt.instr, bits, fRd_rvWord, fRs2_rvWord, fRs1_rvWord, fVm_rvWord, and_self]

/-- A masked destination other than v0, in the words of the statements. -/
theorem free_of {m : BitVec 1} {d : Reg} (free : m = 1#1 ∨ d ≠ 0#5) : (m == 1#1) = true ∨ d.toNat ≠ 0 := by
  rcases free with rfl | ne
  · exact .inl rfl
  · exact .inr fun zero => ne (BitVec.eq_of_toNat_eq zero)

end

theorem active_eq {m : BitVec 1} {x : VI} (c : Ctx) (vm : x.vm = (m == 1#1)) :
    x.active c = fun i => m == 1#1 || c.maskBit 0 i := by
  funext i
  rw [VI.active, vm]

/-- Settles O25: at the head of the sequencer an instruction runs on the context that the entry waits in, so what it leaves is
the group written with the model's own result functions; the statements' forms of those are shiftFn_v for the operations of
R230, scanFn_chain along the fold for the scans, and the tree of the leaves for the reductions. -/
theorem vectorElementResults : Obligations.VectorElementResults := by
  refine ⟨?elementwise, ?scans, ?trees, ?algebra⟩
  case elementwise =>
    intro s h e rest k q g x m b a d r ty form hb hd free c w act el y n big hi lo
    obtain ⟨src, hk, run, amount, aligned, vd, s2, vm⟩ : ∃ src, k < 6 ∧
        (∀ u, (e.instr c).run u = (e.instr c).rzElem k src u) ∧ (∀ i, (e.instr c).amountOf c src i = y i) ∧
        (src = .vec → (e.instr c).s1 % g = 0) ∧ (e.instr c).vd = d.toNat ∧ (e.instr c).s2 = b.toNat ∧
        (e.instr c).vm = (m == 1#1) := by
      rcases form with ⟨rfl, hk, bits, ha⟩ | ⟨rfl, hk, bits⟩ <;> obtain ⟨vd, s2, s1, vm⟩ := instr_fields bits c
      · have f6 : (BitVec.ofNat 6 k).toNat = k := Nat.mod_eq_of_lt (by omega)
        refine ⟨.vec, hk, fun u => ?_, fun i => ?_, fun _ => by rw [s1, ha], vd, s2, vm⟩
        · rw [run_elem u bits, f6]
        · rw [VI.amountOf, s1, ty.sew]; rfl
      · have f6 : (BitVec.ofNat 6 (k + 2)).toNat = k + 2 := Nat.mod_eq_of_lt (by omega)
        refine ⟨.scalar e.op1.toNat, by omega, fun u => ?_, fun i => rfl, fun h => VSrc.noConfusion h, vd, s2, vm⟩
        rw [run_elemx u bits (by omega), f6, Nat.add_sub_cancel]
        rfl
    obtain ⟨hw, -⟩ := ty.width
    have fn (i : Nat) : (e.instr c).shiftOf c k src i = shiftFn k c.vxrm.toNat w (el i) (y i) := by
      rw [VI.shiftOf, ty.sew, s2, amount]
    obtain ⟨t, ends, result, fcsr, saturated, kept⟩ := head_rzElem r ty run (by rw [vm, vd]; exact free_of free)
      (by rw [vd, hd]) (by rw [s2, hb]) aligned (fun i => by rw [fn]; exact shiftFn_v_lt _ _ _ _ k (c.elem_lt _ hw i))
    rw [active_eq c vm] at result saturated kept
    rw [vd] at result
    refine ⟨t, ends, result.congr fun i => ?_, fcsr, ?_, fun within => kept fun i hi a => ?_⟩
    · rw [fn]
      exact shiftFn_v _ w (el i) (y i) hw (c.elem_lt _ hw i)
    · rintro rfl ⟨i, hi, a, beyond⟩
      exact saturated ⟨i, hi, a, by rw [fn]; exact (shiftFn_sshl_sat _ w (el i) (y i)).mpr beyond⟩
    · rw [fn]
      exact shiftFn_sat_within _ w (el i) (y i) fun zero => within zero i hi a
  case scans =>
    intro s h e rest k q g m b a d r ty three nine bits hb hd free c real w act el sum chain
    obtain ⟨vd, s2, s1, vm⟩ := instr_fields bits c
    obtain ⟨-, four, -⟩ := ty.fields
    have f6 : (BitVec.ofNat 6 k).toNat = k := Nat.mod_eq_of_lt (by omega)
    have active := active_eq c vm
    obtain ⟨t, ends, result, inactive, fcsr⟩ := head_scan r ty three nine
      (fun u => by rw [run_scan u bits (by rw [f6]; exact three), f6]) (by rw [vm, vd]; exact free_of free) (by rw [vd, hd])
      (by rw [s2, hb]) real
    have addition (r v : Nat) (eight : k = 8) : (fpW w).add (scanMode k c) r v = sum r v := by
      rw [fpW_eq (real eight).1 four, scanMode, if_pos eight]
      rfl
    have chained (n : Nat) : (e.instr c).chain k (scanMode k c) c n = chain n := by
      rw [(e.instr c).chain_eq _ c n three nine (by rw [ty.sew]; exact addition), ty.sew, s2, s1, active]
      rfl
    rw [active] at result inactive
    rw [vd] at result inactive
    refine ⟨t, ends, result.congr fun i => ?_, inactive, fun whole => ?_, ?_, ?_⟩
    · rw [VI.scanValue, chained, chained]
    · rw [fcsr, VI.scanned_flags_none _ _ _ three nine whole]
      exact BitVec.or_zero
    · rw [fcsr, or_and_self]
    · rintro rfl i hi a
      have among := VI.scanned_flags (x := e.instr c) (scanMode 8 c) c hi (by rw [active]; exact a)
      rw [chained, s2, ty.sew, addition _ _ rfl] at among
      have accrued := congrArg w64 among
      rw [w64_or] at accrued
      refine and_eq_of_or_eq ?_
      rw [fcsr, BitVec.or_assoc, accrued]
  case trees =>
    intro s h e rest q g dot m b a d r ty two bits hb ha free c on mode w f leaf z
    obtain ⟨vd, s2, s1, vm⟩ := instr_fields bits c
    obtain ⟨-, four, -⟩ := ty.fields
    have f6 : ((if dot then 1#6 else 0#6).toNat == 1) = dot := by cases dot <;> rfl
    have sum : (e.instr c).treeSum c.frm c dot = z := by
      rw [VI.treeSum, VI.leaves, ty.sew, vd, s2, s1, active_eq c vm, fpW_eq two four, ← apply_ite BitVec.toNat]
      rfl
    obtain ⟨t, ends, result, fcsr⟩ := head_tree (dot := dot) r ty two (fun u => by rw [run_tree u bits, f6]) (by rw [s2, hb])
      (fun isDot => by rw [s1, ha isDot]) (by rw [vm, vd]; exact free_of free) on mode
    rw [sum] at result fcsr
    rw [vd] at result
    exact ⟨t, ends, result, fcsr⟩
  case algebra =>
    intro f rm init u v x y
    obtain ⟨one, left, right⟩ := treeReduce_lone f rm init v
    exact ⟨one, left, right, treeReduce_two f rm init u v, treeReduce_three f rm init u v x, treeReduce_four f rm init u v x y⟩

end Sys2Proof.Machine
end

section
/-! The 32-bit encodings (spec/03_encoding.md R65 to R79): the word of an instruction decodes to it, and a word that
decodes is the word of the instruction it decodes to. -/

namespace Sys2Proof

open Sys2Proof.Machine

/-! ### Every word is put together from its fields -/

/-- A word is its six fields in their places. -/
theorem rzWord_fields (w : IWord) : rzWord (fF7 w) (fRs2 w) (fRs1 w) (fF3 w) (fRd w) (fOp w) = w := by
  unfold rzWord fF7 fRs2 fRs1 fF3 fRd fOp
  rw [BitVec.extractLsb'_append_extractLsb'_eq_extractLsb' (by rfl), BitVec.extractLsb'_append_extractLsb'_eq_extractLsb' (by rfl),
    BitVec.extractLsb'_append_extractLsb'_eq_extractLsb' (by rfl), BitVec.extractLsb'_append_extractLsb'_eq_extractLsb' (by rfl),
    BitVec.extractLsb'_append_extractLsb'_eq_extractLsb' (by rfl)]
  exact BitVec.extractLsb'_eq_self

/-- A field whose number is known is that literal. -/
theorem eq_ofNat_of_toNat {n k : Nat} {a : BitVec n} (h : a.toNat = k) : a = BitVec.ofNat n k := by
  rw [← h, BitVec.ofNat_toNat, BitVec.setWidth_eq]

/-! ### Operands narrower than a register field, read back -/

theorem setWidth5_of_high3 : ∀ d : Reg, d.extractLsb' 3 2 = 0#2 → (d.setWidth 3).setWidth 5 = d := by decide
theorem setWidth5_of_high4 : ∀ d : Reg, d.extractLsb' 4 1 = 0#1 → (d.setWidth 4).setWidth 5 = d := by decide
theorem setWidth5_of_high2 : ∀ d : Reg, d.extractLsb' 2 3 = 0#3 → (d.setWidth 2).setWidth 5 = d := by decide
theorem setWidth5_of_high1 : ∀ d : Reg, d.extractLsb' 1 4 = 0#4 → (d.setWidth 1).setWidth 5 = d := by decide

/-! ### A word that decodes within a group of Ramzil instructions (R74) -/

section
variable {w : IWord} {a : BitVec 7} {b c d : Reg} {i : Instr}

theorem decHint_word (h : decHint a b c d = .ok i) : i.wf = true ∧ encode i = some (rzWord a b c 6#3 d 0x0b#7) := by
  unfold decHint at h
  split at h
  case h_4 => cases h
  all_goals
    next e =>
    obtain rfl := eq_ofNat_of_toNat e
    split at h <;> cases h
    next z => simp [encode, Instr.wf, z]

/-- By the groups and, within each, by the function values that the group assigns. -/
theorem decCustom_word {op : BitVec 7} {f : BitVec 3} (hw : w = rzWord a b c f d op)
    (h : decCustom w op a b c f d = .ok i) : i.wf = true ∧ encode i = some w := by
  unfold decCustom at h
  split at h
  case h_23 => cases h
  case h_7 p q =>
    obtain rfl := eq_ofNat_of_toNat p
    obtain rfl := eq_ofNat_of_toNat q
    unfold decHintSpace at h
    split at h
    · next u => cases h; exact ⟨u, rfl⟩
    · rw [hw]; exact decHint_word h
  all_goals
    next p q =>
    obtain rfl := eq_ofNat_of_toNat p
    obtain rfl := eq_ofNat_of_toNat q
    subst hw
    simp only [decCtx, decGrp, decBar, decKrn, decQ, decPg, decSys, decVecVV, decVecFP, decMask, decVecScalar, decLoop,
      decPacked, decConv, decTile, decTileRow, decXf, decXfVec, decTask, decBeam, decFrontier] at h
    split at h <;> try cases h
    all_goals
      next e =>
      obtain rfl := eq_ofNat_of_toNat e
      try (split at h <;> cases h)
      simp [encode, Instr.wf, setWidth5_of_high3, setWidth5_of_high4, setWidth5_of_high2, setWidth5_of_high1, *]

/-! ### A word that decodes to a standard instruction (R65, log entry 13) -/

variable {op : BitVec 7} {f : BitVec 3}

/-- A found instruction has the code that was searched for. -/
theorem code_of_find {α β : Type} [BEq β] [LawfulBEq β] {code : α → β} {l : List α} {x : β} {k : α}
    (h : l.find? (fun j => code j == x) = some k) : code k = x := by
  simpa using List.find?_some h

/-- A search that answers an instruction has found its operation. -/
theorem orReserved_ok {α : Type} {o : Option α} {g : α → Instr} (h : orReserved o g = .ok i) : ∃ k, o = some k ∧ g k = i := by
  cases o with
  | none => cases h
  | some k => cases h; exact ⟨k, rfl, rfl⟩

theorem iWord_append (f7 : BitVec 7) (rs2 rs1 : Reg) (f3 : BitVec 3) (rd : Reg) (op : BitVec 7) :
    iWord (f7 ++ rs2) rs1 f3 rd op = rzWord f7 rs2 rs1 f3 rd op := rfl

theorem low_append (f7 : BitVec 7) (r : Reg) : (f7 ++ r).extractLsb' 5 7 = f7 ∧ (f7 ++ r).extractLsb' 0 5 = r := by
  constructor
  · rw [BitVec.extractLsb'_append_eq_of_le (by omega)]; simp
  · rw [BitVec.extractLsb'_append_eq_of_add_le (by omega)]; simp

/-- The upper and the lower half of a shift's immediate field. -/
theorem high_low_append (x : BitVec 12) : x.extractLsb' 6 6 ++ x.setWidth 6 = x := by
  revert x; decide +kernel

theorem sWord_append (f7 : BitVec 7) (rs2 rs1 : Reg) (f3 : BitVec 3) (rd : Reg) (op : BitVec 7) :
    sWord (f7 ++ rd) rs2 rs1 f3 op = rzWord f7 rs2 rs1 f3 rd op := by
  obtain ⟨hi, lo⟩ := low_append f7 rd
  rw [sWord_eq_rzWord, hi, lo]

theorem decAlu_word (h : decAlu op a b c f d = .ok i) : i.wf = true ∧ encode i = some (rzWord a b c f d op) := by
  unfold decAlu at h
  split at h
  · next k e =>
    cases h
    have code := code_of_find e
    exact ⟨rfl, by simp [encode, encodeScalar, code]⟩
  · obtain ⟨k, e, rfl⟩ := orReserved_ok h
    have code := code_of_find e
    exact ⟨rfl, by simp [encode, encodeScalar, code, iWord_append]⟩

theorem decImm_word (h : decImm op a b c f d = .ok i) : i.wf = true ∧ encode i = some (rzWord a b c f d op) := by
  unfold decImm at h
  dsimp only at h
  split at h
  · next k e =>
    cases h
    have code := code_of_find e
    exact ⟨rfl, by simp [encode, encodeScalar, code, iWord_append]⟩
  split at h
  · next k e =>
    cases h
    have code := code_of_find e
    exact ⟨rfl, by simp [encode, encodeScalar, code, iWord_append]⟩
  split at h
  · next k e =>
    split at h <;> cases h
    next ok =>
    have code := code_of_find e
    exact ⟨ok, by simp [encode, encodeScalar, code, iWord_append, high_low_append]⟩
  · cases h

theorem decLoad_word (h : decLoad op a b c f d = .ok i) : i.wf = true ∧ encode i = some (rzWord a b c f d op) := by
  obtain ⟨k, e, rfl⟩ := orReserved_ok h
  have code := code_of_find e
  exact ⟨rfl, by simp [encode, code, iWord_append]⟩

theorem decStore_word (h : decStore op a b c f d = .ok i) : i.wf = true ∧ encode i = some (rzWord a b c f d op) := by
  obtain ⟨k, e, rfl⟩ := orReserved_ok h
  have code := code_of_find e
  exact ⟨rfl, by simp [encode, code, sWord_append]⟩

/-- funct7 of an atomic is its funct5, aq and rl. -/
theorem amo_append (x : BitVec 7) : x.extractLsb' 2 5 ++ x.extractLsb' 1 1 ++ x.extractLsb' 0 1 = x := by
  revert x; decide

theorem decAmo_word (h : decAmo a b c f d = .ok i) : i.wf = true ∧ encode i = some (rzWord a b c f d 0x2f#7) := by
  have word := amo_append a
  unfold decAmo at h
  dsimp only at h
  split at h
  · next cas =>
    rw [cas] at word
    split at h
    · next w => cases h; exact ⟨rfl, by simp [encode, word, w, CasWidth.code]⟩
    split at h
    · next w => cases h; exact ⟨rfl, by simp [encode, word, w, CasWidth.code]⟩
    split at h <;> cases h
    next q =>
    obtain ⟨w, even, even'⟩ := q
    exact ⟨by simp only [Instr.wf, even, even']; rfl, by simp [encode, word, w, CasWidth.code]⟩
  split at h
  · cases h
  next k e =>
  rw [← code_of_find e] at word
  split at h
  · cases h
  next lr =>
  have wf : (k != .lr || b == 0#5) = true := by simpa [or_iff_not_imp_left] using lr
  split at h
  · next w => cases h; exact ⟨wf, by simp [encode, word, w, AmoWidth.code]⟩
  split at h <;> cases h
  next w => exact ⟨wf, by simp [encode, word, w, AmoWidth.code]⟩

/-- The immediate field of a fence is fm, the predecessor set and the successor set. -/
theorem fence_append (x : BitVec 12) : x.extractLsb' 8 4 ++ x.extractLsb' 4 4 ++ x.extractLsb' 0 4 = x := by
  revert x; decide +kernel

theorem decMisc_word (h : decMisc a b c f d = .ok i) : i.wf = true ∧ encode i = some (rzWord a b c f d 0x0f#7) := by
  have word := fence_append (a ++ b)
  unfold decMisc at h
  dsimp only at h
  split at h
  · next f0 =>
    subst f0
    split at h
    · next tso =>
      obtain ⟨fm, pred, succ⟩ := tso
      rw [fm, pred, succ] at word
      cases h
      exact ⟨rfl, by rw [← iWord_append, ← word]; rfl⟩
    · next other =>
      cases h
      exact ⟨by simpa [Instr.wf, or_iff_not_imp_left] using other, by rw [encode, word, iWord_append]⟩
  split at h <;> cases h
  next f1 => exact ⟨rfl, by rw [f1]; rfl⟩

/-- funct3 of a CSR instruction is the immediate bit and the operation. -/
theorem csr_append : ∀ x : BitVec 3, BitVec.ofBool (x.getLsbD 2) ++ x.setWidth 2 = x := by decide

theorem decSystem_word (h : decSystem a b c f d = .ok i) : i.wf = true ∧ encode i = some (rzWord a b c f d 0x73#7) := by
  unfold decSystem at h
  dsimp only at h
  split at h
  · next f0 =>
    subst f0
    split at h
    · next fence =>
      obtain ⟨rfl, rfl⟩ := fence
      cases h; exact ⟨rfl, rfl⟩
    split at h
    · cases h
    next zero =>
    obtain ⟨rfl, rfl⟩ : c = 0#5 ∧ d = 0#5 := by simpa using zero
    rw [← iWord_append]
    generalize a ++ b = imm at h ⊢
    repeat' split at h
    all_goals cases h
    all_goals next imm => exact ⟨rfl, by rw [imm]; rfl⟩
  · split at h
    · cases h
    next k e =>
    have word := csr_append f
    rw [← code_of_find e] at word
    split at h <;> cases h
    · next read =>
      obtain ⟨ne, rfl⟩ := read
      exact ⟨by simpa [Instr.wf, ScalarOp.wf] using ne, by rw [encode, encodeScalar, word, iWord_append]⟩
    · next write =>
      exact ⟨by simpa [Instr.wf, or_iff_not_imp_left] using write, by rw [encode, word, iWord_append]⟩

/-- funct7 of a floating-point instruction is its funct5 and its format. -/
theorem fmt_append (x : BitVec 7) : x.extractLsb' 2 5 ++ x.setWidth 2 = x := by
  revert x; decide

theorem decFp_word (h : decFp a b c f d = .ok i) : i.wf = true ∧ encode i = some (rzWord a b c f d 0x53#7) := by
  have word := fmt_append a
  unfold decFp at h
  dsimp only at h
  split at h
  · cases h
  next fmt e =>
  rw [← code_of_find e] at word
  generalize a.extractLsb' 2 5 = f5 at h word
  split at h
  · next k e =>
    split at h <;> cases h
    next rm => exact ⟨rm, by rw [encode, encodeScalar, code_of_find e, word]⟩
  split at h
  · next k e =>
    cases h
    exact ⟨rfl, by rw [encode, encodeScalar, code_of_find e, word]⟩
  split at h
  · next f5 =>
    subst f5
    split at h
    · next z =>
      split at h <;> cases h
      next rm => exact ⟨rm, by rw [encode, encodeScalar, word, z]⟩
    · cases h
  split at h
  · next f5 =>
    subst f5
    obtain ⟨k, e, rfl⟩ := orReserved_ok h
    exact ⟨rfl, by rw [encode, encodeScalar, code_of_find e, word]⟩
  split at h
  · next f5 =>
    subst f5
    split at h
    · next t e =>
      split at h <;> cases h
      next rm => exact ⟨rm, by rw [encode, encodeScalar, code_of_find e, word]⟩
    · cases h
  split at h
  · next f5 =>
    subst f5
    split at h
    · next t e =>
      split at h <;> cases h
      next rm => exact ⟨rm, by rw [encode, encodeScalar, code_of_find e, word]⟩
    · cases h
  split at h
  · next f5 =>
    subst f5
    split at h
    · next src e =>
      split at h
      · cases h
      next ne =>
      split at h <;> cases h
      next rm =>
      exact ⟨by simpa [Instr.wf, ScalarOp.wf, rm] using Ne.symm ne,
        by rw [encode, encodeScalar, code_of_find (code := fun k : FpFmt => k.code.setWidth 5) e, word]⟩
    · cases h
  repeat' split at h
  all_goals cases h
  all_goals
    next z =>
    obtain ⟨rfl, rfl, rfl⟩ := z
    exact ⟨rfl, by rw [encode, encodeScalar, word]⟩

theorem decFma_word {k : FmaOp} (h : decFma k a b c f d = .ok i) :
    i.wf = true ∧ encode i = some (rzWord a b c f d k.code) := by
  have word := fmt_append a
  unfold decFma at h
  split at h
  · cases h
  next fmt e =>
  split at h <;> cases h
  next rm => exact ⟨rm, by rw [encode, encodeScalar, code_of_find e, word]⟩

theorem decVset_word (h : decVset a b c d = .ok i) : i.wf = true ∧ encode i = some (rzWord a b c 7#3 d 0x57#7) := by
  unfold decVset at h
  rw [← iWord_append]
  have lead : ∀ x : BitVec 12, (x.getLsbD 11 = false → 0#1 ++ x.setWidth 11 = x) ∧
      (x.getLsbD 11 = true → x.getLsbD 10 = true → 3#2 ++ x.setWidth 10 = x) := by decide +kernel
  obtain ⟨zero, ones⟩ := lead (a ++ b)
  dsimp only at h
  split at h
  · next b11 => cases h; exact ⟨rfl, by rw [encode, encodeScalar, zero b11]⟩
  next b11 =>
  split at h
  · next b10 => cases h; exact ⟨rfl, by rw [encode, encodeScalar, ones (by simpa using b11) b10]⟩
  split at h <;> cases h
  next x => exact ⟨rfl, by rw [encode, encodeScalar, iWord_append, x]⟩

/-- The offset of a branch, taken from its two fields, gives the fields. -/
theorem branch_fields (hi : BitVec 7) (lo : Reg) : brHi (brImm hi lo) = hi ∧ brLo (brImm hi lo) = lo := by
  revert hi lo; decide +kernel

theorem decVector_word {w : IWord} (h : decVector w = .ok i) : i.wf = true ∧ encode i = some w := by
  unfold decVector at h
  split at h <;> cases h
  next known => exact ⟨known, rfl⟩

theorem jalField_jalImm (u : BitVec 20) : jalField (jalImm u) = u := by
  unfold jalField jalImm
  simp (disch := omega) only [BitVec.extractLsb'_append_eq_of_add_le, BitVec.extractLsb'_append_eq_of_le]
  simp only [Nat.reduceSub, BitVec.extractLsb'_eq_self]
  repeat rw [BitVec.extractLsb'_append_extractLsb'_eq_extractLsb' (by rfl)]
  exact BitVec.extractLsb'_eq_self

theorem jalImm_jalField (u : BitVec 20) : jalImm (jalField u) = u := by
  unfold jalField jalImm
  simp (disch := omega) only [BitVec.extractLsb'_append_eq_of_add_le, BitVec.extractLsb'_append_eq_of_le]
  simp only [Nat.reduceSub, BitVec.extractLsb'_eq_self]
  repeat rw [BitVec.extractLsb'_append_extractLsb'_eq_extractLsb' (by rfl)]
  exact BitVec.extractLsb'_eq_self

/-- By the major opcodes: what decodes of a word's fields is a well-formed instruction with that word. -/
theorem decodeFields_word {w : IWord} (hw : w = rzWord a b c f d op) (h : decodeFields w a b c f d op = .ok i) :
    i.wf = true ∧ encode i = some w := by
  unfold decodeFields at h
  split at h
  case h_27 => cases h
  all_goals
    rename_i o
    obtain rfl := eq_ofNat_of_toNat o
  case h_1 | h_2 => cases h; exact ⟨rfl, hw ▸ rfl⟩
  case h_3 =>
    cases h
    exact ⟨rfl, by rw [encode, encodeScalar, jalField_jalImm, hw]; rfl⟩
  case h_4 =>
    split at h <;> cases h
    next z => exact ⟨rfl, by rw [hw, z]; rfl⟩
  case h_5 =>
    obtain ⟨k, e, rfl⟩ := orReserved_ok h
    obtain ⟨hi, lo⟩ := branch_fields a d
    exact ⟨rfl, by rw [encode, encodeScalar, code_of_find e, hi, lo, hw]⟩
  case h_6 => exact hw ▸ decLoad_word h
  case h_7 => exact hw ▸ decStore_word h
  case h_8 | h_9 => exact hw ▸ decImm_word h
  case h_10 | h_11 => exact hw ▸ decAlu_word h
  case h_12 => exact hw ▸ decMisc_word h
  case h_13 => exact hw ▸ decAmo_word h
  case h_14 => exact hw ▸ decSystem_word h
  case h_15 => exact hw ▸ decFp_word h
  case h_16 | h_17 | h_18 | h_19 => exact hw ▸ decFma_word h
  case h_20 =>
    split at h
    · exact hw ▸ decLoad_word h
    · exact decVector_word h
  case h_21 =>
    split at h
    · exact hw ▸ decStore_word h
    · exact decVector_word h
  case h_22 =>
    split at h
    · next f7 => subst f7; exact hw ▸ decVset_word h
    · exact decVector_word h
  case h_23 | h_24 | h_25 | h_26 => exact decCustom_word hw h

end

/-- Settles O3: by the decoders of the groups, each of which accepts only words of its own instructions. -/
theorem encodeDecode : Obligations.EncodeDecode :=
  fun w _ h => decodeFields_word (rzWord_fields w).symm h

end Sys2Proof
end

section
/-! The 32-bit encodings in the other direction: the word of a well-formed instruction decodes to it. -/

namespace Sys2Proof

open Sys2Proof.Machine

/-! ### The word of a standard scalar instruction -/

theorem decode32_alu (k : AluOp) (d a b : Reg) :
    decode32 (encodeScalar (.alu k d a b)) = .ok (.standardScalarInstruction (.alu k d a b)) := by
  rw [encodeScalar, decode32_rzWord]
  cases k <;> rfl

theorem decode32_imm (k : ImmOp) (d a : Reg) (imm : BitVec 12) :
    decode32 (encodeScalar (.imm k d a imm)) = .ok (.standardScalarInstruction (.imm k d a imm)) := by
  rw [encodeScalar, decode32_iWord]
  cases k <;> simp only [ImmOp.code, decodeFields, decImm, ImmOp.all] <;> rw [halves_append] <;> rfl

theorem decode32_un (k : UnOp) (d a : Reg) :
    decode32 (encodeScalar (.un k d a)) = .ok (.standardScalarInstruction (.un k d a)) := by
  rw [encodeScalar, decode32_iWord]
  cases k <;> rfl

/-- No one-operand instruction has the code of an immediate shift. -/
theorem find_un_sh (k : ShOp) (n : BitVec 6) :
    UnOp.all.find? (fun j => j.code == (k.code.1, k.code.2.1 ++ n, k.code.2.2)) = none := by
  cases k <;> revert n <;> decide

theorem find_imm_sh (k : ShOp) : ImmOp.all.find? (fun j => j.code == (k.code.1, k.code.2.2)) = none := by
  cases k <;> rfl

theorem find_sh (k : ShOp) : ShOp.all.find? (fun j => j.code == k.code) = some k := by
  cases k <;> rfl

theorem decode32_sh (k : ShOp) (d a : Reg) (n : BitVec 6) (ok : shOk k n = true) :
    decode32 (encodeScalar (.sh k d a n)) = .ok (.standardScalarInstruction (.sh k d a n)) := by
  rw [encodeScalar, decode32_iWord]
  obtain ⟨code, amount⟩ := shift_fields k.code.2.1 n
  have group : decodeFields (iWord (k.code.2.1 ++ n) a k.code.2.2 d k.code.1) ((k.code.2.1 ++ n).extractLsb' 5 7)
      ((k.code.2.1 ++ n).extractLsb' 0 5) a k.code.2.2 d k.code.1 =
      decImm k.code.1 ((k.code.2.1 ++ n).extractLsb' 5 7) ((k.code.2.1 ++ n).extractLsb' 0 5) a k.code.2.2 d := by
    cases k <;> rfl
  rw [group, decImm, halves_append]
  simp only [find_imm_sh, find_un_sh, code, amount, find_sh, ok, if_true]

theorem find_br (k : BrOp) : BrOp.all.find? (fun j => j.code == k.code) = some k := by
  cases k <;> rfl

theorem find_fmt (k : FpFmt) : FpFmt.ofCode k.code = some k := by
  cases k <;> rfl

theorem find_int (t : IntFmt) : IntFmt.all.find? (fun j => j.code == t.code) = some t := by
  cases t <;> rfl

theorem find_cmp (k : FpCmp) : FpCmp.all.find? (fun j => j.code == k.code) = some k := by
  cases k <;> rfl

theorem find_csr (k : CsrOp) : CsrOp.all.find? (fun j => j.code == k.code) = some k := by
  cases k <;> rfl

/-- Which funct5 values are those of the rounded and of the unrounded operations. -/
theorem find_fp2 (k : FpOp2) : FpOp2.all.find? (fun j => j.code == k.code) = some k := by
  cases k <;> rfl
theorem find_fp2n (k : FpOp2n) : FpOp2n.all.find? (fun j => j.code == k.code) = some k := by
  cases k <;> rfl
theorem find_fp2_of_le : ∀ f5 : BitVec 5, 4 ≤ f5.toNat → FpOp2.all.find? (fun j => j.code == f5) = none := by decide
theorem find_fp2n_of_le : ∀ (f5 : BitVec 5) (rm : BitVec 3), 6 ≤ f5.toNat →
    FpOp2n.all.find? (fun j => j.code == (f5, rm)) = none := by decide

theorem decode32_fp (a : BitVec 7) (b c : Reg) (f : BitVec 3) (d : Reg) :
    decode32 (rzWord a b c f d 0x53#7) = decFp a b c f d := by
  rw [decode32_rzWord]
  rfl

/-- The upper 20 bits of a U-type word are its fields above rd. -/
theorem uWord_eq_rzWord (imm : BitVec 20) (rd : Reg) (op : BitVec 7) :
    uWord imm rd op =
      rzWord (imm.extractLsb' 13 7) (imm.extractLsb' 8 5) (imm.extractLsb' 3 5) (imm.extractLsb' 0 3) rd op := by
  unfold uWord rzWord
  repeat rw [BitVec.extractLsb'_append_extractLsb'_eq_extractLsb' (by rfl)]
  rw [BitVec.extractLsb'_eq_self]

theorem upper_append (imm : BitVec 20) :
    imm.extractLsb' 13 7 ++ imm.extractLsb' 8 5 ++ imm.extractLsb' 3 5 ++ imm.extractLsb' 0 3 = imm := by
  repeat rw [BitVec.extractLsb'_append_extractLsb'_eq_extractLsb' (by rfl)]
  exact BitVec.extractLsb'_eq_self

/-- funct3 of a CSR instruction is not that of ecall, and its parts are the operation and the immediate bit. -/
theorem csr_fields (im : Bool) (op : CsrOp) : BitVec.ofBool im ++ op.code ≠ 0#3 ∧
    (BitVec.ofBool im ++ op.code).setWidth 2 = op.code ∧ (BitVec.ofBool im ++ op.code).getLsbD 2 = im := by
  cases im <;> cases op <;> decide

theorem decode32_system (imm : BitVec 12) (a : Reg) (f : BitVec 3) (d : Reg) :
    decode32 (iWord imm a f d 0x73#7) = decSystem (imm.extractLsb' 5 7) (imm.extractLsb' 0 5) a f d := by
  rw [decode32_iWord]
  rfl

theorem vsetvli_fields (imm : BitVec 11) :
    (0#1 ++ imm : BitVec 12).getLsbD 11 = false ∧ (0#1 ++ imm : BitVec 12).setWidth 11 = imm := by
  revert imm; decide +kernel

theorem vsetivli_fields (imm : BitVec 10) : (3#2 ++ imm : BitVec 12).getLsbD 11 = true ∧
    (3#2 ++ imm : BitVec 12).getLsbD 10 = true ∧ (3#2 ++ imm : BitVec 12).setWidth 10 = imm := by
  revert imm; decide +kernel

theorem vsetvl_fields : ∀ b : Reg, (0x40#7 ++ b : BitVec 12).getLsbD 11 = true ∧ (0x40#7 ++ b : BitVec 12).getLsbD 10 = false := by
  decide

theorem decode32_vset (imm : BitVec 12) (a d : Reg) :
    decode32 (iWord imm a 7#3 d 0x57#7) = decVset (imm.extractLsb' 5 7) (imm.extractLsb' 0 5) a d := by
  rw [decode32_iWord]
  rfl

/-- By the form: its funct7, its funct3 and its format name it among the words of its opcode. -/
theorem decode32_encodeScalar (op : ScalarOp) (wf : op.wf = true) :
    decode32 (encodeScalar op) = .ok (.standardScalarInstruction op) := by
  cases op with
  | lui d imm | auipc d imm =>
    rw [encodeScalar, ← uWord, uWord_eq_rzWord, decode32_rzWord]
    simp only [decodeFields, upper_append]
    rfl
  | jal d imm =>
    rw [encodeScalar, ← uWord, uWord_eq_rzWord, decode32_rzWord]
    simp only [decodeFields, upper_append, jalImm_jalField]
    rfl
  | jalr d a imm =>
    rw [encodeScalar, decode32_iWord]
    simp only [decodeFields]
    rw [halves_append]
    rfl
  | branch k a b imm =>
    rw [encodeScalar, decode32_rzWord]
    simp [decodeFields, find_br, orReserved, brImm_brHi_brLo]
  | imm k d a imm => exact decode32_imm k d a imm
  | sh k d a n => exact decode32_sh k d a n wf
  | alu k d a b => exact decode32_alu k d a b
  | un k d a => exact decode32_un k d a
  | ecall | ebreak | wfi => rfl
  | csrRead op im d csr =>
    obtain ⟨zero, low, high⟩ := csr_fields im op
    have read : op ≠ .rw := by simpa [ScalarOp.wf] using wf
    rw [encodeScalar, decode32_system, decSystem, halves_append]
    simp [zero, low, find_csr, read, -BitVec.getLsbD_eq_getElem, high]
  | fp2 k fmt rm d a b =>
    obtain ⟨f5, f2⟩ := fma_fields k.code fmt.code
    have ok : rmOk rm = true := wf
    rw [encodeScalar, decode32_fp, decFp, f5, f2, find_fmt]
    simp only [find_fp2, ok, if_true]
  | fp2n k fmt d a b =>
    obtain ⟨f5, f2⟩ := fma_fields k.code.1 fmt.code
    rw [encodeScalar, decode32_fp, decFp, f5, f2, find_fmt]
    simp only [find_fp2_of_le k.code.1 (by cases k <;> decide), find_fp2n]
  | fcmp k fmt d a b =>
    obtain ⟨f5, f2⟩ := fma_fields 0x14#5 fmt.code
    rw [encodeScalar, decode32_fp, decFp, f5, f2, find_fmt]
    simp [find_fp2_of_le, find_fp2n_of_le, find_cmp, orReserved]
  | fsqrt fmt rm d a =>
    obtain ⟨f5, f2⟩ := fma_fields 0x0b#5 fmt.code
    have ok : rmOk rm = true := wf
    rw [encodeScalar, decode32_fp, decFp, f5, f2, find_fmt]
    simp [find_fp2_of_le, find_fp2n_of_le, ok]
  | fma k fmt rm d a b c =>
    obtain ⟨f5, f2⟩ := fma_fields c fmt.code
    have ok : rmOk rm = true := wf
    have group : decode32 (encodeScalar (.fma k fmt rm d a b c)) = decFma k (c ++ fmt.code) b a rm d := by
      rw [encodeScalar, decode32_rzWord]
      cases k <;> rfl
    rw [group, decFma, f5, f2, find_fmt]
    exact if_pos ok
  | fclass fmt d a | fmvXF fmt d a | fmvFX fmt d a => cases fmt <;> exact decode32_fp ..
  | fcvtIF t fmt rm d a =>
    obtain ⟨f5, f2⟩ := fma_fields 0x18#5 fmt.code
    have ok : rmOk rm = true := wf
    rw [encodeScalar, decode32_fp, decFp, f5, f2, find_fmt]
    simp [find_fp2_of_le, find_fp2n_of_le, find_int, ok]
  | fcvtFI fmt t rm d a =>
    obtain ⟨f5, f2⟩ := fma_fields 0x1a#5 fmt.code
    have ok : rmOk rm = true := wf
    rw [encodeScalar, decode32_fp, decFp, f5, f2, find_fmt]
    simp [find_fp2_of_le, find_fp2n_of_le, find_int, ok]
  | fcvtFF dst src rm d a =>
    obtain ⟨f5, f2⟩ := fma_fields 0x08#5 dst.code
    obtain ⟨ok, ne⟩ : rmOk rm = true ∧ dst ≠ src := by simpa [ScalarOp.wf] using wf
    have found : FpFmt.all.find? (fun j => j.code.setWidth 5 == src.code.setWidth 5) = some src := by cases src <;> rfl
    rw [encodeScalar, decode32_fp, decFp, f5, f2, find_fmt]
    simp [find_fp2_of_le, find_fp2n_of_le, found, ok, ne.symm]
  | vsetvli d a imm =>
    obtain ⟨zero, low⟩ := vsetvli_fields imm
    rw [encodeScalar, decode32_vset, decVset, halves_append]
    simp only [zero, low, if_true]
  | vsetivli d a imm =>
    obtain ⟨one, one', low⟩ := vsetivli_fields imm
    rw [encodeScalar, decode32_vset, decVset, halves_append]
    simp only [one, one', low, if_true, reduceCtorEq, if_false]
  | vsetvl d a b =>
    obtain ⟨one, zero⟩ := vsetvl_fields b
    have group : decode32 (encodeScalar (.vsetvl d a b)) = decVset 0x40#7 b a d := by
      rw [encodeScalar, decode32_rzWord]
      rfl
    rw [group, decVset]
    simp only [one, zero, reduceCtorEq, if_false, if_true]

/-! ### The word of any instruction -/

/-- A word put together in hint space is an assigned hint where its fields say so. -/
theorem isUnassignedHint_rzWord (a : BitVec 7) (b c d : Reg) :
    isUnassignedHint (rzWord a b c 6#3 d 0x0b#7) =
      !(d == 0#5 && (a == 0#7 || (a == 1#7 && b == 0#5) || (a == 2#7 && b == 0#5 && c == 0#5))) := by
  simp [isUnassignedHint, isAssignedHint, isHintSpace, fOp_rzWord, fF3_rzWord, fRd_rzWord, fF7_rzWord, fRs2_rzWord,
    fRs1_rzWord]

theorem decode32_eq (w : IWord) (op : BitVec 7) (h : fOp w = op) :
    decode32 w = decodeFields w (fF7 w) (fRs2 w) (fRs1 w) (fF3 w) (fRd w) op := h ▸ rfl

/-- funct3 and opcode of a standard vector word keep it apart from the vsetvl family and the scalar accesses. -/
theorem vecKnown_fields {w : IWord} (known : vecKnown w = true) :
    (fOp w = 0x57#7 ∧ fF3 w ≠ 7#3) ∨ ((fOp w = 0x07#7 ∨ fOp w = 0x27#7) ∧ ¬ (fF3 w = 1#3 ∨ fF3 w = 2#3 ∨ fF3 w = 3#3)) := by
  unfold vecKnown at known
  generalize f : fF3 w = f3
  have arith : vecArith w = true → f3 ≠ 7#3 := by
    rintro h rfl
    simp [vecArith, f] at h
  have mem (st : Bool) : vecMem st w = true → ¬ (f3 = 1#3 ∨ f3 = 2#3 ∨ f3 = 3#3) := by
    rintro h (rfl | rfl | rfl) <;> simp [vecMem, f] at h
  split at known
  · next o => exact .inl ⟨o, arith known⟩
  split at known
  · next o => exact .inr ⟨.inl o, mem _ known⟩
  split at known
  · next o => exact .inr ⟨.inr o, mem _ known⟩
  · cases known

theorem decode32_vector {w : IWord} (known : vecKnown w = true) : decode32 w = .ok (.vectorIssue w) := by
  have vector : decVector w = .ok (.vectorIssue w) := if_pos known
  obtain ⟨o, f⟩ | ⟨o | o, f⟩ := vecKnown_fields known <;> rw [decode32_eq w _ o, ← vector] <;> exact if_neg f

theorem decode32_hint {w : IWord} (hint : isUnassignedHint w = true) : decode32 w = .ok (.unassignedHint w) := by
  obtain ⟨o, f⟩ : fOp w = 0x0b#7 ∧ fF3 w = 6#3 := by
    simp only [isUnassignedHint, isHintSpace, Bool.and_eq_true, beq_iff_eq] at hint
    exact hint.1
  rw [decode32_eq w _ o, f]
  exact if_pos hint

theorem find_amo (k : AmoOp) : AmoOp.all.find? (fun j => j.code == k.code) = some k := by
  cases k <;> rfl

theorem decode32_atomic (a : BitVec 7) (b c : Reg) (f : BitVec 3) (d : Reg) :
    decode32 (rzWord a b c f d 0x2f#7) = decAmo a b c f d := by
  rw [decode32_rzWord]
  rfl

theorem decode32_misc (imm : BitVec 12) (a : Reg) (f : BitVec 3) (d : Reg) :
    decode32 (iWord imm a f d 0x0f#7) = decMisc (imm.extractLsb' 5 7) (imm.extractLsb' 0 5) a f d := by
  rw [decode32_iWord]
  rfl

theorem decode32_load (k : LoadKind) (d a : Reg) (imm : BitVec 12) :
    decode32 (iWord imm a k.code.2 d k.code.1) = .ok (.scalarLoad k d a imm) := by
  rw [decode32_iWord]
  cases k <;> simp only [LoadKind.code, decodeFields, decLoad] <;> rw [halves_append] <;> rfl

theorem decode32_store (k : StoreKind) (a b : Reg) (imm : BitVec 12) :
    decode32 (sWord imm b a k.code.2 k.code.1) = .ok (.scalarStore k a b imm) := by
  rw [sWord_eq_rzWord, decode32_rzWord]
  cases k <;> simp only [StoreKind.code, decodeFields, decStore] <;> rw [halves_append] <;> rfl

end Sys2Proof
end

section
/-! Every instruction that has a word decodes from it, and the bytes of a 32-bit word (spec/03_encoding.md R69, R74). -/

namespace Sys2Proof

open Sys2Proof.Machine

/-- By the kind of instruction. The standard ones are those of the lemmas above; a masked one has a word for each value of
vm; one with an operand narrower than its field has the rest of the field 0; any other word is a line of R74's tables. -/
theorem decode32_encode (i : Instr) (w : IWord) (wf : i.wf = true) (e : encode i = some w) : decode32 w = .ok i := by
  cases i with
  | scalarLoad k d a imm => cases e; exact decode32_load k d a imm
  | scalarStore k a b imm => cases e; exact decode32_store k a b imm
  | atomicAmo op wd aq rl d a b =>
    cases e
    obtain ⟨f5, f1, f0⟩ := amo_fields op.code aq rl
    rw [decode32_atomic, decAmo, f5, f1, f0]
    have lr : ¬ (op = .lr ∧ b ≠ 0#5) := by simpa [Instr.wf, or_iff_not_imp_left] using wf
    have cas : op.code ≠ 0x05#5 := by cases op <;> decide
    cases wd <;> simp [cas, find_amo, lr, AmoWidth.code]
  | amocas wd aq rl d a b =>
    cases e
    obtain ⟨f5, f1, f0⟩ := amo_fields 0x05#5 aq rl
    rw [decode32_atomic, decAmo, f5, f1, f0]
    cases wd with
    | w | d => rfl
    | q =>
      have even : d.getLsbD 0 = false ∧ b.getLsbD 0 = false := by simpa [Instr.wf] using wf
      simp only [even, and_self, if_true]; rfl
  | fence fm p s a d =>
    cases e
    obtain ⟨h8, h4, h0⟩ := fence_fields fm p s
    have tso : ¬ (fm = 8#4 ∧ p = 3#4 ∧ s = 3#4) := by simpa [Instr.wf, or_iff_not_imp_left] using wf
    rw [decode32_misc, decMisc, halves_append]
    simp only [h8, h4, h0, if_true, if_neg tso]
  | fenceI imm a d =>
    cases e
    rw [decode32_misc, decMisc, halves_append]
    rfl
  | registerWrite r =>
    cases r with
    | dev => cases e
    | csr op im d a n =>
      cases e
      obtain ⟨zero, low, high⟩ := csr_fields im op
      have write : ¬ (op ≠ .rw ∧ a = 0#5) := by simpa [Instr.wf, or_iff_not_imp_left] using wf
      rw [decode32_system, decSystem, halves_append]
      simp only [zero, low, high, find_csr, if_neg write, if_false]
  | xret k => cases k <;> cases e <;> rfl
  | vectorIssue w => cases e; exact decode32_vector wf
  | unassignedHint w => cases e; exact decode32_hint wf
  | standardScalarInstruction op => cases e; exact decode32_encodeScalar op wf
  | pgPref l a | bmPref a | ctxSpin =>
    cases e
    rw [decode32_rzWord]
    simp [decodeFields, decCustom, decHintSpace, isUnassignedHint_rzWord, decHint]
  | vxSshl m | vxSrl m | vxSra m | vxRsra m | vxAbsd m | vxAvgr m | vxFredtsum m | vxFdott m | vxScanadd m | vxScanmin m
  | vxScanmax m | vxScanminn m | vxScanmaxn m | vxFscanadd m | vxEscanadd m | vxTex m | vxTexg m | vxSshlx m | vxSrlx m
  | vxSrax m | vxCvtfm8 m | vxBsdec m | vxBsenc m | vxBsfind m =>
    cases e
    obtain rfl | rfl := bit_cases m <;> exact decode32_rzWord ..
  | vxCvtm8 m =>
    cases e
    rw [decode32_rzWord]
    obtain rfl | rfl := bit_cases m <;>
      simp [decodeFields, decCustom, decConv, setWidth5_high1]
  | fenceTso => cases e; exact decode32_misc ..
  | wrsNto | wrsSto => cases e; rfl
  | mfFence | vxLoop | tlZero | tlMma | tlMmas | tlLd | tlSt | tlStc | tlAdd | tlRowv | tlVrow
  | xfOpen | xfClose | xfWm | xfWait | xfCancel | xfGet | xfPut =>
    cases e
    rw [decode32_rzWord]
    simp [decodeFields, decCustom, decPg, decLoop, decTile, decTileRow, decXf, decXfVec,
      setWidth5_high3, setWidth5_high4, setWidth5_high2]
  | _ => cases e <;> exact decode32_rzWord ..

/-! ### Bytes of a word -/

/-- The bytes of a word, low byte first, are its four octets. -/
theorem leBytes_word (w : IWord) :
    leBytes 4 w.toNat = [w.extractLsb' 0 8, w.extractLsb' 8 8, w.extractLsb' 16 8, w.extractLsb' 24 8] := by
  have octet (k : Nat) : BitVec.ofNat 8 (w.toNat / 2 ^ k) = w.extractLsb' k 8 := by
    apply BitVec.eq_of_toNat_eq
    rw [BitVec.toNat_ofNat, BitVec.extractLsb'_toNat, Nat.shiftRight_eq_div_pow]
  simp only [leBytes, Nat.div_div_eq_div_mul]
  rw [← octet 0, ← octet 8, ← octet 16, ← octet 24, pow_zero, Nat.div_one]
  rfl

/-- Every opcode of the part marks a length of four bytes. -/
theorem lengthOf_of_decode32 {w : IWord} {i : Instr} (h : decode32 w = .ok i) : lengthOf (w.extractLsb' 0 8) = 4 := by
  have low : (w.extractLsb' 0 8).extractLsb' 0 2 = (fOp w).extractLsb' 0 2 ∧
      (w.extractLsb' 0 8).extractLsb' 2 3 = (fOp w).extractLsb' 2 3 := by
    unfold fOp
    constructor <;> rw [BitVec.extractLsb'_extractLsb'_of_le (by omega), BitVec.extractLsb'_extractLsb'_of_le (by omega)]
  unfold decode32 decodeFields at h
  unfold lengthOf
  rw [low.1, low.2]
  split at h
  case h_27 => cases h
  all_goals
    rename_i o
    rw [eq_ofNat_of_toNat o]
    rfl

theorem decode_word {w : IWord} {i : Instr} (h : decode32 w = .ok i) (rest : List Byte) :
    decode (leBytes 4 w.toNat ++ rest) = .ok (i, rest) := by
  have word : w.extractLsb' 24 8 ++ w.extractLsb' 16 8 ++ w.extractLsb' 8 8 ++ w.extractLsb' 0 8 = w := by
    repeat rw [BitVec.extractLsb'_append_extractLsb'_eq_extractLsb' (by rfl)]
    exact BitVec.extractLsb'_eq_self
  rw [leBytes_word]
  simp only [decode, List.cons_append, List.nil_append, lengthOf_of_decode32 h]
  rw [word, h]
  rfl

/-- Settles O2: by the form of the instruction; the word's opcode marks four bytes. -/
theorem decodeEncode : Obligations.DecodeEncode :=
  fun i w rest wf e => decode_word (decode32_encode i w wf e) rest

/-- Settles O4: each word is evaluated by the decoder. -/
theorem decodeWords : Obligations.DecodeWords := by
  refine ⟨?_, ?_, ?_, ?_, ?_, ?_, ?_, ?_⟩ <;> decide

end Sys2Proof
end

section
/-! The 16-bit encodings: each form of the C extension expands to the word of the instruction that it abbreviates, and what
that word decodes to is settled already (spec/03_encoding.md R65, R67, R69; log entry 13). -/

namespace Sys2Proof

open Sys2Proof.Machine

/-- The two bytes of a half, low byte first. -/
theorem leBytes_half (c : BitVec 16) : leBytes 2 c.toNat = [c.extractLsb' 0 8, c.extractLsb' 8 8] := by
  have octet (k : Nat) : BitVec.ofNat 8 (c.toNat / 2 ^ k) = c.extractLsb' k 8 := by
    apply BitVec.eq_of_toNat_eq
    rw [BitVec.toNat_ofNat, BitVec.extractLsb'_toNat, Nat.shiftRight_eq_div_pow]
  rw [← octet 0, ← octet 8, pow_zero, Nat.div_one]
  rfl

/-- Two bytes whose low bits are not 11 decode as a half, whatever follows. -/
theorem decode_half {c : BitVec 16} (low : c.extractLsb' 0 2 ≠ 3#2) (rest : List Byte) :
    decode (leBytes 2 c.toNat ++ rest) = (decode16 c).map (fun i => (i, rest)) := by
  have two : lengthOf (c.extractLsb' 0 8) = 2 := by
    rw [lengthOf, BitVec.extractLsb'_extractLsb'_of_le (by omega)]
    exact if_pos low
  have half : c.extractLsb' 8 8 ++ c.extractLsb' 0 8 = c := by
    rw [BitVec.extractLsb'_append_extractLsb'_eq_extractLsb' (by rfl)]
    exact BitVec.extractLsb'_eq_self
  rw [leBytes_half]
  simp only [decode, List.cons_append, List.nil_append, two]
  rw [half]

/-- A half that expands is one of the three quadrants of the C extension. -/
theorem low_of_expand {c : BitVec 16} {w : IWord} (e : expand c = some w) : c.extractLsb' 0 2 ≠ 3#2 := by
  intro low
  simp [expand, low] at e

/-- A half that expands to the word of an instruction decodes to it. -/
theorem decode_half_ok {c : BitVec 16} {i : Instr} (rest : List Byte) (wf : i.wf = true) (word : (encode i).isSome = true)
    (e : expand c = encode i) : decode (leBytes 2 c.toNat ++ rest) = .ok (i, rest) := by
  obtain ⟨w, hw⟩ := Option.isSome_iff_exists.mp word
  rw [hw] at e
  rw [decode_half (low_of_expand e), decode16, e]
  simp only [decode32_encode i w wf hw]
  rfl

/-- A half of the three quadrants that does not expand has no meaning. -/
theorem decode_half_error {c : BitVec 16} (rest : List Byte) (low : c.extractLsb' 0 2 ≠ 3#2) (e : expand c = none) :
    ∃ r, decode (leBytes 2 c.toNat ++ rest) = .error r := by
  rw [decode_half low, decode16, e]
  exact ⟨_, rfl⟩

/-! ### Immediates put together from their scattered bits -/

theorem addi4spn_bits : ∀ u : BitVec 8,
    (0#2 ++ u.extractLsb' 4 4 ++ u.extractLsb' 2 2 ++ u.extractLsb' 1 1 ++ u.extractLsb' 0 1 ++ 0#2 : BitVec 12) =
      0#2 ++ u ++ 0#2 := by decide +kernel
theorem addi4spn_zero : ∀ u : BitVec 8, 0#2 ++ u ++ 0#2 = 0#12 ↔ u = 0#8 := by decide +kernel
theorem addi16sp_bits : ∀ u : BitVec 6,
    (u.extractLsb' 5 1 ++ u.extractLsb' 3 2 ++ u.extractLsb' 2 1 ++ u.extractLsb' 1 1 ++ u.extractLsb' 0 1 ++ 0#4 : BitVec 10) =
      u ++ 0#4 := by decide
theorem addi16sp_zero : ∀ u : BitVec 6, u.extractLsb' 5 1 ++ BitVec.extractLsb' 0 5 (3#3 ++ u.extractLsb' 5 1 ++ 2#5 ++
    u.extractLsb' 0 1 ++ u.extractLsb' 2 1 ++ u.extractLsb' 3 2 ++ u.extractLsb' 1 1) = 0#6 ↔ u = 0#6 := by decide
theorem wordOffset_bits : ∀ u : BitVec 5,
    (0#5 ++ u.extractLsb' 4 1 ++ u.extractLsb' 1 3 ++ u.extractLsb' 0 1 ++ 0#2 : BitVec 12) = 0#5 ++ u ++ 0#2 := by decide
theorem doubleOffset_bits : ∀ u : BitVec 5,
    (0#4 ++ u.extractLsb' 3 2 ++ u.extractLsb' 0 3 ++ 0#3 : BitVec 12) = 0#4 ++ u ++ 0#3 := by decide
theorem imm6_bits : ∀ i : BitVec 6, i.extractLsb' 5 1 ++ i.extractLsb' 0 5 = i := by decide
theorem jump_bits : ∀ o : BitVec 11,
    (o.extractLsb' 10 1 ++ o.extractLsb' 9 1 ++ o.extractLsb' 7 2 ++ o.extractLsb' 6 1 ++ o.extractLsb' 5 1 ++ o.extractLsb' 4 1 ++
      o.extractLsb' 3 1 ++ o.extractLsb' 0 3 : BitVec 11) = o := by decide +kernel
theorem branch_bits : ∀ o : BitVec 8,
    (o.extractLsb' 7 1 ++ o.extractLsb' 5 2 ++ o.extractLsb' 4 1 ++ o.extractLsb' 2 2 ++ o.extractLsb' 0 2 : BitVec 8) = o := by
  decide +kernel
theorem lwsp_bits : ∀ u : BitVec 6,
    (0#4 ++ u.extractLsb' 4 2 ++ u.extractLsb' 3 1 ++ u.extractLsb' 0 3 ++ 0#2 : BitVec 12) = 0#4 ++ u ++ 0#2 := by decide
theorem ldsp_bits : ∀ u : BitVec 6,
    (0#3 ++ u.extractLsb' 3 3 ++ u.extractLsb' 2 1 ++ u.extractLsb' 0 2 ++ 0#3 : BitVec 12) = 0#3 ++ u ++ 0#3 := by decide
theorem swsp_bits : ∀ u : BitVec 6,
    (0#4 ++ u.extractLsb' 4 2 ++ u.extractLsb' 0 4 ++ 0#2 : BitVec 12) = 0#4 ++ u ++ 0#2 := by decide
theorem sdsp_bits : ∀ u : BitVec 6,
    (0#3 ++ u.extractLsb' 3 3 ++ u.extractLsb' 0 3 ++ 0#3 : BitVec 12) = 0#3 ++ u ++ 0#3 := by decide

/-- Settles O5: each form is one branch of the expansion, its fields read out of the half and its immediate put together
again. -/
theorem compressedDecode : Obligations.CompressedDecode := by
  intro rest is no p s
  have form {h : BitVec 16} {i : Instr} (e : expand h = encode i) (word : (encode i).isSome = true := by rfl)
      (wf : i.wf = true := by rfl) : is h i := decode_half_ok rest wf word e
  have none {h : BitVec 16} (low : h.extractLsb' 0 2 ≠ 3#2) (e : expand h = none) : no h := decode_half_error rest low e
  have unlessZero {h : BitVec 16} {d : Reg} {i : Instr} (e : expand h = if d = 0#5 then .none else encode i)
      (low : h.extractLsb' 0 2 ≠ 3#2) (word : (encode i).isSome = true := by rfl) (wf : i.wf = true := by rfl) :
      if d = 0#5 then no h else is h i := by
    split
    · next z => exact none low (e.trans (if_pos z))
    · next z => exact form (e.trans (if_neg z)) word wf
  refine ⟨fun d u hu => form ?addi4spn, fun d a u => ⟨form ?fld, form ?lw, form ?ld, form ?fsd, form ?sw, form ?sd⟩,
    fun d i => ⟨form ?addi, form ?li, unlessZero ?addiw ?lowAddiw, fun hi => none ?lowLui ?lui0, fun hi hd => form ?lui, form ?slli⟩,
    fun u hu => form ?addi16sp, fun d i => ⟨form ?srli, form ?srai, form ?andi⟩,
    fun d b => ⟨form ?sub, form ?xor, form ?or, form ?and, form ?subw, form ?addw, none ?lowAluSix ?_, none ?lowAluSeven ?_⟩,
    fun o => form ?j,
    fun a o => ⟨form ?beqz, form ?bnez⟩,
    fun d u => ⟨form ?fldsp, unlessZero ?lwsp ?lowLwsp, unlessZero ?ldsp ?lowLdsp, form ?fsdsp, form ?swsp, form ?sdsp⟩,
    fun d b => ⟨fun hb => ⟨form ?mv, form ?add⟩, fun hb hd => ⟨form ?jr, form ?jalr⟩,
      fun hb hd => ⟨none ?lowJr ?jr0, form ?ebreak⟩⟩,
    fun u => none ?lowReserved ?_, none (by decide) (by decide)⟩
  all_goals
    simp (disch := decide) only [expand, BitVec.extractLsb'_append_eq_of_add_le, BitVec.extractLsb'_append_eq_of_le,
      BitVec.extractLsb'_eq_self, BitVec.extractLsb'_extractLsb'_of_le, BitVec.toNat_ofNat, Nat.reduceSub, Nat.reducePow,
      Nat.reduceMod, addi4spn_bits, addi4spn_zero, addi16sp_bits, addi16sp_zero, wordOffset_bits, doubleOffset_bits, imm6_bits,
      jump_bits, branch_bits, lwsp_bits, ldsp_bits, swsp_bits, sdsp_bits]
  case addi4spn | addi16sp => exact if_neg hu
  case lui0 => exact if_pos hi
  case lui => rw [if_neg hi, if_neg hd]; rfl
  case mv => rw [if_neg hb]; rfl
  case add => rw [if_neg (by decide), if_neg hb]; rfl
  case jr => rw [if_pos hb, if_neg hd]; rfl
  case jalr => rw [if_neg (by decide), if_pos hb, if_neg hd]; rfl
  case jr0 => rw [if_pos hb, if_pos hd]; rfl
  case ebreak => rw [if_neg (by decide), if_pos hb, if_pos hd]; rfl
  case lowAddiw | lowLui | lowAluSix | lowAluSeven | lowJr | lowReserved | lowLwsp | lowLdsp => decide
  all_goals rfl

end Sys2Proof
end

section
/-! Illegal encodings, taking a trap, and control flow (spec/03_encoding.md R65, R76; spec/07_context.md R191, R195, R207). -/

namespace Sys2Proof.Machine

open Sys2Proof

/-! ### An issue turn whose instruction has no meaning -/

section
variable {s u : State} {h : Hart}

/-- A slot with no wait fetches the instruction at its pc. -/
theorem fetch_of_no_wait (idle : (s.slot s.cur).wait = none) : s.fetch = s.fetchNew := by rw [State.fetch, idle]

/-- An issue turn of a slot that can issue executes what its fetch gives. -/
theorem issue_of_fetch {i : Instr} (can : s.canIssue s.cur = true) (f : s.fetch = (u, .run i)) : issue s = exec i u := by
  rw [issue, if_pos can, f]

/-- Bytes without a meaning leave the illegal instruction in flight. -/
theorem fetchNew_undecodable {bs : List Byte} {e : Reject} (f : fetchBytes s = .ok bs u) (d : decode bs = .error e) :
    s.fetchNew = ({ u with ibits := bitsOf bs, ilen := bs.length }, .run (.trapOrInterrupt (.illegal (bitsOf bs)))) := by
  rw [State.fetchNew, f]
  simp only [d]

/-- A fetch that traps leaves its trap in flight. -/
theorem fetchNew_trap {c : Nat} {v : Word} (f : fetchBytes s = .error (.trap c v) u) :
    s.fetchNew = (u, .run (.trapOrInterrupt (.fetchTrap c v))) := by
  rw [State.fetchNew, f]

theorem exec_illegal (r : s.Runs) (bits : IWord) :
    exec (.trapOrInterrupt (.illegal bits)) s = .next (s.trapped 2 (bits.setWidth 64)) := runThread_trapped r rfl

theorem exec_fetchTrap (r : s.Runs) (c : Nat) (v : Word) :
    exec (.trapOrInterrupt (.fetchTrap c v)) s = .next (s.trapped c v) := runThread_trapped r rfl

end

/-- Without an imposed log, a turn is what it does. -/
theorem turn_of_not_imposing {s : State} (t : Turn) (free : s.imposing = false) : turn t s = act t s := by
  rw [turn, free]
  cases act t s <;> rfl

/-- Settles O6: the fetch leaves an instruction that raises its exception, and a step is its turn. -/
theorem illegalEncodingTraps : Obligations.IllegalEncodingTraps := by
  refine ⟨fun s h bs u e can idle fetched runs undecodable => ?_, fun s h c v u can idle fetched runs => ?_,
    fun s h rest next free => ?_⟩
  · rw [act, issue_of_fetch can ((fetch_of_no_wait idle).trans (fetchNew_undecodable fetched undecodable))]
    exact exec_illegal (s := { u with ibits := bitsOf bs, ilen := bs.length }) runs _
  · rw [act, issue_of_fetch can ((fetch_of_no_wait idle).trans (fetchNew_trap fetched))]
    exact exec_fetchTrap runs c v
  · rw [step, next]
    exact turn_of_not_imposing _ free

/-! ### Taking a trap -/

section
variable (s : State) (h : Hart) (intr : Bool) (cause : Nat) (tval : Word)

/-- The slot that takes a trap has abandoned its wait. -/
theorem State.takeTrap_slot :
    (s.takeTrap h intr cause tval).slot h = { s.slot h with wait := none, marks := [] }.takeTrap intr cause tval := by
  simp [State.takeTrap, State.abandon, State.leavePages]

theorem State.takeTrap_slot_other {j : Hart} (n : j ≠ h) : (s.takeTrap h intr cause tval).slot j = s.slot j := by
  simp [State.takeTrap, State.abandon, State.leavePages, State.slot_modSlot_other _ _ _ _ n]

end

section
variable {t : Slot} {c : Ctx} (has : t.ctx = some c) (intr : Bool) (cause : Nat) (tval : Word)
include has

theorem Slot.takeTrap_delegated (d : t.delegates c.priv intr cause = true) :
    t.takeTrap intr cause tval = t.enterS c.leave intr cause tval := by
  rw [Slot.takeTrap, has]
  exact if_pos d

theorem Slot.takeTrap_machine (d : t.delegates c.priv intr cause = false) :
    t.takeTrap intr cause tval = t.enterM c.leave intr cause tval := by
  rw [Slot.takeTrap, has]
  exact if_neg (by rw [d]; exact Bool.false_ne_true)

end

/-- Leaving a mode freezes a sequencer that holds entries, with the mode it ran in, and ends the reservation. -/
theorem Ctx.leave_eq (c : Ctx) :
    c.leave = { c with frozen := if c.seq = [] then c.frozen else some (c.frozen.getD c.priv), resv := none } := by
  unfold Ctx.leave Ctx.freeze
  by_cases empty : c.seq = []
  · rw [if_pos (List.isEmpty_iff.mpr empty), if_pos empty]
  · rw [if_neg (mt List.isEmpty_iff.mp empty), if_neg empty]

/-- Settles O9: the handler's slot is the one of `enterS` or of `enterM`, whose fields stand in their definitions. -/
theorem trapEntryAndDelegation : Obligations.TrapEntryAndDelegation := by
  refine ⟨fun s h c intr cause tval has => ?_, fun _ _ => ⟨rfl, rfl⟩, fun t p cause below => ?_, fun t poison => ?_,
    fun h => ?_⟩
  · have slot := s.takeTrap_slot h intr cause tval
    intro t d
    refine ⟨fun _ => rfl, fun j n => s.takeTrap_slot_other h intr cause tval n, fun _ => rfl, ?_⟩
    rw [show t.ctx h = ((s.takeTrap h intr cause tval).slot h).ctx.getD {} from rfl,
      show t = s.takeTrap h intr cause tval from rfl]
    cases hd : d
    case true =>
      have handler := slot.trans (Slot.takeTrap_delegated (t := { s.slot h with wait := none, marks := [] }) has intr cause
        tval hd)
      rw [handler, Ctx.leave_eq]
      exact ⟨rfl, rfl, rfl, rfl, rfl, rfl, fun _ => ⟨rfl, rfl, rfl, rfl, rfl, rfl, rfl, rfl, rfl, rfl⟩, nofun⟩
    case false =>
      have handler := slot.trans (Slot.takeTrap_machine (t := { s.slot h with wait := none, marks := [] }) has intr cause
        tval hd)
      rw [handler, Ctx.leave_eq]
      exact ⟨rfl, rfl, rfl, rfl, rfl, rfl, nofun, fun _ => ⟨rfl, rfl, rfl, rfl, rfl, rfl, rfl, rfl, rfl, rfl⟩⟩
  · cases p
    case m => exact absurd rfl below
    all_goals exact ⟨rfl, rfl⟩
  · exact ⟨poison, poison⟩
  · rw [show State.reset.slot h = Slot.boot from rfl]
    decide

/-! ### Branches and jumps -/

/-- A jump writes the address of the next instruction and goes to its target. -/
theorem jump_retires {s : State} (r : s.Runs) {op : ScalarOp} {d : Reg} {target : Word}
    (h : scalarOp op s.begun = jumpTo d target s.begun) :
    ∃ t, exec (.standardScalarInstruction op) s = .next t ∧ Retired s t (·.setX d.toNat s.nextPc) target :=
  retires_ctx r h

/-- A branch moves the next pc where it is taken. -/
theorem scalarOp_branch (k : BrOp) (a b : Reg) (off : BitVec 12) (s : State) : scalarOp (.branch k a b off) s =
    .ok () { s with npc := if brFn k (s.xr a) (s.xr b) then (s.ctx s.cur).pc + brOff off else s.npc } := by
  simp only [scalarOp, estate_bind, getX_apply, estate_ite]
  split <;> rfl

theorem branch_retires {s : State} (r : s.Runs) (k : BrOp) (a b : Reg) (off : BitVec 12) :
    ∃ t, exec (.standardScalarInstruction (.branch k a b off)) s = .next t ∧
      Retired s t id (if brFn k (s.xr a) (s.xr b) then (s.ctx s.cur).pc + brOff off else s.nextPc) :=
  retires_id r (scalarOp_branch k a b off s.begun)

theorem scalarOp_jal (d : Reg) (off : BitVec 20) (s : State) :
    scalarOp (.jal d off) s = jumpTo d ((s.ctx s.cur).pc + jalOff off) s := by
  simp only [scalarOp, estate_bind, ctx_apply]

theorem scalarOp_jalr (d a : Reg) (imm : BitVec 12) (s : State) :
    scalarOp (.jalr d a imm) s = jumpTo d (wputb (effAddr (s.xr a) imm) 0 false) s := by
  simp only [scalarOp, estate_bind, getX_apply]

theorem jal_retires {s : State} (r : s.Runs) (d : Reg) (off : BitVec 20) :
    ∃ t, exec (.standardScalarInstruction (.jal d off)) s = .next t ∧
      Retired s t (·.setX d.toNat s.nextPc) ((s.ctx s.cur).pc + jalOff off) :=
  jump_retires r (scalarOp_jal d off s.begun)

theorem jalr_retires {s : State} (r : s.Runs) (d a : Reg) (imm : BitVec 12) :
    ∃ t, exec (.standardScalarInstruction (.jalr d a imm)) s = .next t ∧
      Retired s t (·.setX d.toNat s.nextPc) (wputb (effAddr (s.xr a) imm) 0 false) :=
  jump_retires r (scalarOp_jalr d a imm s.begun)

/-- Settles O13: each instruction is one update of the thread's registers or next pc. -/
theorem controlFlow : Obligations.ControlFlow := by
  intro s r
  refine ⟨branch_retires r, jal_retires r, jalr_retires r, fun allowed => ?wfi,
    fun below tw => ?wfiIllegal, fun a b => ⟨rfl, ?bltu, ?blt, ?bne, ?bgeu, ?bge⟩⟩
  case wfi =>
    have ok : ((s.ctx s.cur).priv == .m || !wbit (s.slot s.cur).mstatus stTW) = true := by
      rw [Bool.or_eq_true, beq_iff_eq, Bool.not_eq_true']
      exact allowed
    exact retires_id r (by simp [scalarOp, ok]; rfl)
  case wfiIllegal =>
    have bad : ((s.ctx s.cur).priv == .m || !wbit (s.slot s.cur).mstatus stTW) = false := by
      rw [Bool.or_eq_false_iff, beq_eq_false_iff_ne, Bool.not_eq_false']
      exact ⟨below, tw⟩
    exact runThread_trapped r (by simp [scalarOp, bad, require_apply])
  case bltu => exact BitVec.ult_eq_decide
  case blt => exact BitVec.slt_eq_decide
  case bne | bgeu | bge => rfl

end Sys2Proof.Machine
end

section
/-! CSR instructions, and scalar loads and stores (spec/03_encoding.md R65 to R67, R80; spec/07_context.md R190). -/

namespace Sys2Proof.Machine

open Sys2Proof

/-! ### CSR instructions -/

section
variable {s : State} {n : Nat} {write : Bool} {d : Reg}

theorem csrValue_begun (s : State) (h : Hart) (n : Nat) : csrValue s.begun h n = csrValue s h n := rfl

/-- A CSR read that is allowed and waits for nothing. -/
theorem csrReadInstr_apply {u : State} (may : csrCheck n write s = .ok () s) (h : write = false) (go : csrWait n s = .ok () u) :
    csrReadInstr d n s = .ok () (u.putX d (csrValue u u.cur n)) := by
  subst h
  simp only [csrReadInstr, estate_bind, may, go, estate_get, setX_apply]

/-- A CSR write that is allowed and waits for nothing. -/
theorem csrWriteInstr_apply {op : CsrOp} {im : Bool} {a : Reg} (may : csrCheck n true s = .ok () s)
    (go : csrWait n s = .ok () s) :
    csrWriteInstr op im d a n s =
      .ok () ((s.writeCsr s.cur n (csrNew op (csrValue s s.cur n) (if im then a.setWidth 64 else s.xr a))).putX d
        (csrValue s s.cur n)) := by
  cases im <;> simp [csrWriteInstr, csrSrc, may, go]

/-- A CSR that does not exist, asks for a higher mode, or is read-only and no identification register. -/
theorem csrCheck_illegal
    (h : csrUnit n = none ∨ (s.ctx s.cur).priv.code < fld n 9 8 ∨ (fld n 11 10 = 3 ∧ isIdCsr n = false)) :
    csrCheck n true s = .error (.trap 2 (s.ibits.setWidth 64)) s := by
  rcases unit : csrUnit n with _ | u
  · simp [csrCheck, unit]
  · rcases h with h | below | ⟨ro, noId⟩
    · rw [unit] at h
      cases h
    · simp [csrCheck, unit, require_apply, Nat.not_le.mpr below]
    · by_cases mode : fld n 9 8 ≤ (s.ctx s.cur).priv.code <;> simp [csrCheck, unit, require_apply, mode, ro, noId]

end

/-- What retirement leaves of the current thread's context. -/
theorem State.retire_ctx {u : State} {c : Ctx} (has : (u.slot u.cur).ctx = some c) :
    u.retire.ctx u.cur = { c with pc := u.npc, instret := c.instret + u.counted } := by
  rw [State.ctx, u.retire_slot, has, State.counted]
  cases wbit (u.core u.cur.gcore).inhibit 2 <;> simp

theorem State.retire_ctx_other (u : State) {h : Hart} (n : h ≠ u.cur) : u.retire.ctx h = u.ctx h := by
  rw [State.ctx, u.retire_slot_other n, State.ctx]

/-- The retirement of a state whose cores read as those of s, and which otherwise differs from s in its thread's context and
next pc only. -/
theorem retired_of_cores {s : State} (f : Ctx → Ctx) (pc : Word) (u : State)
    (same : u.slot s.cur = { s.slot s.cur with ctx := some (f (s.ctx s.cur)) })
    (out : ∀ h, h ≠ s.cur → u.slot h = s.slot h) (core : ∀ g, u.core g = s.core g)
    (e : u = { s with slots := u.slots, cores := u.cores, npc := pc }) : Retired s u.retire f pc := by
  have cur : u.cur = s.cur := by rw [e]
  have npc : u.npc = pc := by rw [e]
  have counted : u.counted = s.counted := by rw [State.counted, core, cur, State.counted]
  have ctx := State.retire_ctx (u := u) (by rw [cur, same])
  rw [cur, npc, counted] at ctx
  have slot := u.retire_slot
  rw [cur, same] at slot
  refine ⟨fun a => by rw [u.retire_frame, e], ctx, ?_, fun h n => ?_, ?_, fun g n => ?_, by rw [u.retire_frame, e]⟩
  · have held : (u.retire.slot s.cur).ctx = some (u.retire.ctx s.cur) := by
      rw [State.ctx, slot]
      rfl
    rw [← held, slot]
  · rw [State.retire_slot_other u (by rwa [cur]), out h n]
  · have own := u.retire_core
    rw [cur] at own
    rw [own, core]
  · rw [State.retire_core_other u (by rwa [cur]), core]

/-- A write of an identification register writes nothing. -/
theorem State.writeCsr_id (s : State) (h : Hart) {n : Nat} (v : Word) (id : isIdCsr n = true) :
    s.writeCsr h n v = ((s.modCore h.gcore (fun c => c)).modSlot h (fun t => t)).modCtx h (fun c => c) := by
  rw [isIdCsr, Bool.and_eq_true, decide_eq_true_eq, decide_eq_true_eq] at id
  obtain ⟨low, high⟩ := id
  interval_cases n <;> rfl

/-- An identification register may be written in M-mode, and waits for nothing. -/
theorem csrCheck_id {s : State} {n : Nat} (mode : (s.ctx s.cur).priv = .m) (id : isIdCsr n = true) :
    csrCheck n true s = .ok () s ∧ csrWait n s = .ok () s := by
  rw [isIdCsr, Bool.and_eq_true, decide_eq_true_eq, decide_eq_true_eq] at id
  obtain ⟨low, high⟩ := id
  interval_cases n
  all_goals exact ⟨by simp [csrCheck, csrUnit, require_apply, counterNo, fld, isIdCsr, mode, Priv.code], rfl⟩

/-- Settles O16: the check decides, and what is left of the instruction is the read and the write. -/
theorem csrAccess : Obligations.CsrAccess := by
  refine ⟨fun s im op d n r may go => retires_setX r (csrReadInstr_apply may rfl go),
    fun s im op d a n r may go => runThread_ok r (csrWriteInstr_apply may go),
    fun s im op d a n r bad => ?_, fun s im op d a n r mode id => ?_, fun s v r mode => ⟨?_, ?_⟩⟩
  · exact runThread_trapped r (by simp [csrWriteInstr, csrCheck_illegal (s := s.begun) bad])
  · obtain ⟨may, go⟩ := csrCheck_id (s := s.begun) mode id
    have run := runThread_ok r (csrWriteInstr_apply (op := op) (im := im) (d := d) (a := a) may go)
    rw [State.writeCsr_id _ _ _ id] at run
    refine ⟨_, run, retired_of_cores _ _ _ ?_ (fun h n => ?_) (fun g => ?_) rfl⟩
    · simp [State.putX, r.slot_ctx, csrValue_begun]
    · simp [State.putX, State.slot_modCtx_other _ _ _ _ n, State.slot_modSlot_other _ _ _ _ n]
    · by_cases own : g = s.cur.gcore
      · subst own
        simp [State.putX]
      · simp [State.putX, State.core_modCore_other _ _ _ _ own]
  · simp [csrCheck, csrUnit, require_apply, mode, Priv.code, counterNo, fld]
  · simp [State.writeCsr, Slot.writeCsr, Ctx.writeCsr, Ctx.writeUnit]

/-! ### Loads and stores -/

section
variable {s u : State}

theorem waitVecMem_free (free : (s.ctx s.cur).queuedMem true true = false) : waitVecMem s = .ok () s := by
  simp [waitVecMem, free]

theorem waitVecMem_queued (queued : (s.ctx s.cur).queuedMem true true = true) : waitVecMem s = .error .wait s := by
  simp [waitVecMem, queued, waitUnless_apply]

/-- A load that is answered writes its register. -/
theorem exec_scalarLoad {k : LoadKind} {d a : Reg} {imm : BitVec 12} {bs : List Byte} (r : s.Runs)
    (free : (s.ctx s.cur).queuedMem true true = false) (on : (loadShape k).2.2.isSome → (s.ctx s.cur).fs ≠ 0)
    (answer : loadBytes (effAddr (s.xr a) imm) (loadShape k).1 s.begun = .ok bs u) :
    exec (.scalarLoad k d a imm) s = .next (State.retire (match (loadShape k).2.2 with
      | some f => u.modCtx u.cur (·.setF d.toNat (boxF f (leNat bs)))
      | none => u.putX d (if (loadShape k).2.1 then sextW (leNat bs) (8 * (loadShape k).1) else w64 (leNat bs)))) := by
  refine runThread_ok r ?_
  have ready : waitVecMem s.begun = .ok () s.begun := waitVecMem_free free
  rcases shape : loadShape k with ⟨n, sg, fmt⟩
  rw [shape] at answer on
  cases fmt with
  | none => simp [ready, answer]
  | some f => simp [needF_on (s := s.begun) (on rfl), ready, answer]

/-- A store that is performed goes on. -/
theorem exec_scalarStore {k : StoreKind} {a b : Reg} {imm : BitVec 12} (r : s.Runs)
    (free : (s.ctx s.cur).queuedMem true true = false) (on : (storeShape k).2 = true → (s.ctx s.cur).fs ≠ 0)
    (performed : storeBytes (effAddr (s.xr a) imm)
      (leBytes (storeShape k).1 (if (storeShape k).2 then (s.ctx s.cur).getF b.toNat else s.xr b).toNat) s.begun = .ok () u) :
    exec (.scalarStore k a b imm) s = .next u.retire := by
  refine runThread_ok r ?_
  have ready : waitVecMem s.begun = .ok () s.begun := waitVecMem_free free
  rcases shape : storeShape k with ⟨n, fp⟩
  rw [shape] at performed on
  cases fp with
  | false => simpa [ready] using performed
  | true => simpa [needF_on (s := s.begun) (on rfl), ready] using performed

/-- A queued vector memory instruction makes a load and a store wait. -/
theorem exec_load_store_wait (a b : Reg) (imm : BitVec 12) (r : s.Runs) (queued : (s.ctx s.cur).queuedMem true true = true) :
    exec (.scalarLoad .ld b a imm) s = .next s.waited ∧ exec (.scalarStore .sd a b imm) s = .next s.waited := by
  have held : waitVecMem s.begun = .error .wait s.begun := waitVecMem_queued queued
  constructor <;> refine runThread_waited r ?_ <;> simp [loadShape, storeShape, held]

end

/-- Settles O17: the unit and the queue let the access run, and its answer is what the instruction leaves. -/
theorem loadsAndStores : Obligations.LoadsAndStores :=
  ⟨fun _ _ _ _ _ _ _ r free on answer => exec_scalarLoad r free on answer,
    fun _ _ _ _ _ _ r free on performed => exec_scalarStore r free on performed,
    fun _ a b imm r queued => exec_load_store_wait a b imm r queued⟩

end Sys2Proof.Machine
end

section
/-! The issue of vector instructions into the sequencer, and loops (spec/07_context.md R190, R193; spec/08_vector.md R225, R226,
R241 to R246). -/

namespace Sys2Proof.Machine

open Sys2Proof

/-! ### Issue -/

/-- The one bit of vx.cvtm8 that its rs1 field holds. -/
theorem rs1_of_bit : ∀ b : BitVec 1, b.setWidth 5 = 0#4 ++ b := by decide

/-- An instruction that enters the sequencer is the issue of its word. -/
theorem exec_queuesVec {i : Instr} (queues : queuesVec i = true) :
    ∃ w, encode i = some w ∧ ∀ s, exec i s = runThread (issueVec w) s := by
  cases i with
  | vectorIssue w =>
    have scalar : writesScalar w = false := (Bool.not_eq_true' _).mp queues
    exact ⟨w, rfl, fun s => congrArg (runThread · s) (if_neg (by rw [scalar]; exact Bool.false_ne_true))⟩
  | vxCvtm8 m b sat d => exact ⟨_, rfl, fun s => by rw [rs1_of_bit]; rfl⟩
  | vxSshl | vxSrl | vxSra | vxRsra | vxAbsd | vxAvgr | vxFredtsum | vxFdott | vxMif | vxMelse | vxMpop | vxScanadd | vxScanmin
  | vxScanmax | vxScanminn | vxScanmaxn | vxFscanadd | vxEscanadd | vxTex | vxTexg | vxSshlx | vxSrlx | vxSrax | vxCvtfm8
  | vxBsdec | vxBsenc | vxBsfind => exact ⟨_, rfl, fun s => rfl⟩
  | _ => exact absurd queues Bool.false_ne_true

/-- An update of a context is what it makes of the context that stands there. -/
theorem State.modCtx_congr {s : State} {h : Hart} {f g : Ctx → Ctx} (same : f (s.ctx h) = g (s.ctx h)) :
    s.modCtx h f = s.modCtx h g := by
  have slot : (s.slot h).ctx.map f = (s.slot h).ctx.map g := by
    unfold State.ctx at same
    cases held : (s.slot h).ctx with
    | none => rfl
    | some c => rw [held] at same; exact congrArg some same
  simp [State.modCtx, State.modSlot, slot]

/-- The entry that a word makes, with vl and vtype as they stand. -/
def Ctx.entryOf (c : Ctx) (w : IWord) (op1 op2 : Word) : SeqEnt :=
  { bits := w, vl := c.vl, v := true, l := false, vtype := c.vtype, op1 := op1, op2 := op2 }

section
variable {s u : State} {w : IWord} {a b : Word}

theorem notFrozen_apply (thawed : (s.ctx s.cur).frozen = none) : notFrozen s = .ok () s := by
  simp [notFrozen, thawed]

theorem waitVl_apply (keeps : (s.ctx s.cur).seq.any (fun e => isFof e.bits) = false) : waitVl s = .ok () s := by
  simp only [waitVl, estate_bind, ctx_apply, keeps, Bool.not_false, waitUnless_true, estate_pure]

/-- The conditions of an issue hold: what is left of it is the new entry. -/
theorem issueVec_legal (on : (s.ctx s.cur).vs ≠ 0) (thawed : (s.ctx s.cur).frozen = none)
    (keeps : (s.ctx s.cur).seq.any (fun e => isFof e.bits) = false) (legal : (isMaskStack w || vecLegal w s) = true)
    (operands : captured w s = .ok (a, b) s) : issueVec w s = enterSeq w a b s := by
  simp only [issueVec, estate_bind, needV_on on, notFrozen_apply thawed, waitVl_apply keeps, estate_get, legal, require_true,
    estate_pure, operands]

theorem enterSeq_room (room : (s.ctx s.cur).seq.length < 16) :
    enterSeq w a b s = .ok () (s.modCtx s.cur (fun c => { c with seq := c.seq ++ [c.entryOf w a b] })) := by
  simp only [enterSeq, pushSeq, estate_bind, ctx_apply, decide_eq_true room, waitUnless_true, estate_pure, modCtx_apply]
  rw [State.modCtx_congr]
  rfl

theorem enterSeq_full (full : 16 ≤ (s.ctx s.cur).seq.length) : enterSeq w a b s = .error .wait s := by
  simp [enterSeq, pushSeq, Nat.not_lt.mpr full, waitUnless_apply]

theorem issueVec_off (off : (s.ctx s.cur).vs = 0) : issueVec w s = .error (.trap 2 (s.ibits.setWidth 64)) s := by
  simp only [issueVec, estate_bind, needV_off off]

end

/-! ### vmv.x.s -/

/-- vmv.x.s behind an empty sequencer reads element 0 of its source. -/
theorem scalarVec_mvxs {s : State} {w : IWord} (f3 : fF3 w = 2#3) (a : fRs1 w = 0#5) (on : (s.ctx s.cur).vs ≠ 0)
    (thawed : (s.ctx s.cur).frozen = none) (empty : (s.ctx s.cur).seq = []) (quiet : (s.ctx s.cur).Quiet)
    (ill : wbit (s.ctx s.cur).vtype 63 = false) :
    let sew := 8 * 2 ^ wfld (s.ctx s.cur).vtype 5 3
    scalarVec w s = .ok () (s.modCtx s.cur (fun c =>
      { c.setX (fRd w).toNat (sextW (c.elem (fRs2 w).toNat sew 0) sew) with vstart := 0#64 })) := by
  intro sew
  have reads : scalarVec w s = .ok () ((s.putX (fRd w) (sextW ((s.ctx s.cur).elem (fRs2 w).toNat sew 0) sew)).modCtx s.cur
      (fun c => { c with vstart := 0#64 })) := by
    simp [scalarVec, needV_on on, notFrozen_apply thawed, waitSeq, empty, VI.ill, ill, f3, VI.s1, a, useV_quiet quiet, VI.s2,
      VI.sew, sew]
  rw [reads, State.putX, State.modCtx_modCtx]
  exact congrArg _ (State.modCtx_congr rfl)

/-! ### Loops -/

/-- The check of vstart that the instructions of a loop make. -/
theorem vstartOk_iff {c : Ctx} : (!(c.seq.isEmpty && c.vstart != 0#64)) = true ↔ (c.seq = [] → c.vstart = 0#64) := by
  rw [Bool.not_eq_true', Bool.and_eq_false_imp, List.isEmpty_iff]
  simp

/-- The state of a loop that has been captured before its entries enter. -/
def State.loopBegun (u : State) (count : Nat) : State :=
  u.modCtx u.cur (fun c => { c with vlpcnt := w64 count, vlpidx := 0#64 }.dirtyV)

/-- The body of vx.loop has been fetched and may run: what is left is the count and the entries. -/
theorem exec_vxLoop {s u : State} {n : BitVec 4} {a : Reg} {ws : List IWord} (r : s.Runs) (on : (s.ctx s.cur).vs ≠ 0)
    (thawed : (s.ctx s.cur).frozen = none) (keeps : (s.ctx s.cur).seq.any (fun e => isFof e.bits) = false)
    (ill : (s.ctx s.cur).vtype.getLsbD 63 = false) (start : (s.ctx s.cur).seq = [] → (s.ctx s.cur).vstart = 0#64)
    (fetched : fetchWords (n.toNat + 1) ((s.ctx s.cur).pc + 4#64) s.begun = .ok ws u)
    (legal : ws.all (fun w => bodyWord w && vecLegal w u) = true) (dead : (s.ctx s.cur).loopLive = false)
    (room : (s.ctx s.cur).seq.length + (n.toNat + 1) ≤ 16) :
    let v := u.loopBegun (wfld (u.xr a) 31 0)
    let pc := (s.ctx s.cur).pc + w64 (4 + 4 * (n.toNat + 1))
    (wfld (u.xr a) 31 0 = 0 → exec (.vxLoop n a) s = .next (State.retire { v with npc := pc })) ∧
    ∀ es, wfld (u.xr a) 31 0 ≠ 0 → bodyEntries (s.ctx s.cur) ws v = .ok es v → exec (.vxLoop n a) s =
      .next (State.retire { v.modCtx v.cur (fun c => { c with seq := c.seq ++ es }) with npc := pc }) := by
  intro v pc
  have vtype : (!wbit (s.ctx s.cur).vtype 63) = true := by rw [wbit, ill]; rfl
  have vstart := vstartOk_iff.mpr start
  have place : (!(s.ctx s.cur).loopLive && decide ((s.ctx s.cur).seq.length + (n.toNat + 1) ≤ 16)) = true := by
    rw [dead, decide_eq_true room]; rfl
  refine ⟨fun zero => runThread_ok r ?_, fun es some entries => runThread_ok r ?_⟩
  · simp only [estate_bind, needV_on (s := s.begun) on, notFrozen_apply (s := s.begun) thawed, waitVl_apply (s := s.begun) keeps,
      ctx_apply, State.ctx_begun, State.cur_begun, vtype, vstart, require_true, estate_pure, fetched, estate_get, legal, place,
      waitUnless_true, getX_apply, modCtx_apply, if_pos zero, setPc_apply]
    rfl
  · simp only [estate_bind, needV_on (s := s.begun) on, notFrozen_apply (s := s.begun) thawed, waitVl_apply (s := s.begun) keeps,
      ctx_apply, State.ctx_begun, State.cur_begun, vtype, vstart, require_true, estate_pure, fetched, estate_get, legal, place,
      waitUnless_true, getX_apply, modCtx_apply, if_neg some, setPc_apply]
    dsimp only [v, State.loopBegun] at entries
    rw [entries]
    rfl

/-- The loop turns where every body entry has run. -/
theorem Ctx.loopTurn_all_run {c : Ctx} (run : ∀ e ∈ c.seq, e.l = true → e.v = false) :
    c.loopTurn.vlpidx = c.vlpidx + 1#64 ∧ (c.vlpidx + 1#64 = c.vlpcnt → c.loopTurn.seq = c.seq.filter (fun e => !e.l)) ∧
    (c.vlpidx + 1#64 ≠ c.vlpcnt → ∀ e ∈ c.loopTurn.seq, e.l = true → e.v = true) := by
  have idle : c.seq.any (fun e => e.l && e.v) = false := by
    rw [List.any_eq_false]
    intro e mem both
    rw [Bool.and_eq_true] at both
    exact Bool.false_ne_true ((run e mem both.1).symm.trans both.2)
  simp only [Ctx.loopTurn, idle, Bool.false_eq_true, if_false]
  by_cases last : c.vlpidx + 1#64 = c.vlpcnt
  · simp [last]
  · refine ⟨by rw [if_neg last], fun yes => absurd yes last, fun _ e mem body => ?_⟩
    rw [if_neg last] at mem
    obtain ⟨e', -, rfl⟩ := List.mem_map.mp mem
    cases l : e'.l
    · simp [l] at body
    · simp

section
variable {s : State} {a d : Reg} (r : s.Runs) (on : (s.ctx s.cur).vs ≠ 0) (thawed : (s.ctx s.cur).frozen = none)
include r on thawed

/-- A vstart that applies to vx.lwait. -/
theorem exec_vxLwait_vstart (empty : (s.ctx s.cur).seq = []) (start : (s.ctx s.cur).vstart ≠ 0#64) :
    exec (.vxLwait a d) s = .next (s.trapped 2 (s.ibits.setWidth 64)) := by
  have bad : (!((s.ctx s.cur).seq.isEmpty && (s.ctx s.cur).vstart != 0#64)) = false :=
    Bool.eq_false_iff.mpr fun ok => start (vstartOk_iff.mp ok empty)
  refine runThread_trapped r ?_
  simp only [estate_bind, needV_on (s := s.begun) on, notFrozen_apply (s := s.begun) thawed, ctx_apply, State.ctx_begun,
    State.cur_begun, bad, require_apply, Bool.false_eq_true, if_false, State.ibits_begun]

variable (start : (s.ctx s.cur).seq = [] → (s.ctx s.cur).vstart = 0#64)
include start

/-- vx.lwait reads the index where it has been reached or no loop is live. -/
theorem exec_vxLwait_reads (passed : (s.ctx s.cur).loopLive = false ∨ wfld (s.xr a) 31 0 ≤ (s.ctx s.cur).vlpidx.toNat) :
    ∃ t, exec (.vxLwait a d) s = .next t ∧ Retired s t (·.setX d.toNat (s.ctx s.cur).vlpidx) s.nextPc := by
  have go : (!(s.ctx s.cur).loopLive || decide ((s.ctx s.cur).vlpidx.toNat ≥ wfld (s.xr a) 31 0)) = true := by
    simpa using passed
  refine retires_setX r ?_
  simp only [estate_bind, needV_on (s := s.begun) on, notFrozen_apply (s := s.begun) thawed, ctx_apply, State.ctx_begun,
    State.cur_begun, vstartOk_iff.mpr start, require_true, estate_pure, getX_apply, State.xr_begun, go, waitUnless_true,
    setX_apply]

/-- vx.lwait waits for the index of a live loop. -/
theorem exec_vxLwait_waits (live : (s.ctx s.cur).loopLive = true) (behind : (s.ctx s.cur).vlpidx.toNat < wfld (s.xr a) 31 0) :
    exec (.vxLwait a d) s = .next s.waited := by
  have stop : (!(s.ctx s.cur).loopLive || decide ((s.ctx s.cur).vlpidx.toNat ≥ wfld (s.xr a) 31 0)) = false := by
    simpa [live] using behind
  refine runThread_waited r ?_
  simp only [estate_bind, needV_on (s := s.begun) on, notFrozen_apply (s := s.begun) thawed, ctx_apply, State.ctx_begun,
    State.cur_begun, vstartOk_iff.mpr start, require_true, estate_pure, getX_apply, State.xr_begun, stop, waitUnless_apply,
    Bool.false_eq_true, if_false]

end

/-- The body of a live loop runs to the end of its iteration. -/
theorem exec_loopIteration {s : State} {h : Hart} {e : SeqEnt} {rest : List SeqEnt} (seq : (s.ctx h).seq = e :: rest)
    (body : e.l = true) (ready : s.seqReady h = true) :
    exec (.loopIteration h) s = .next (State.loopPass h (s.ctx h).vlpidx 16 s) := by
  rw [show exec (.loopIteration h) s = execLoopIteration h s from rfl, execLoopIteration, event_some]
  rw [seq]
  exact if_pos ⟨body, ready⟩

/-- Settles O23: the conditions of an issue are taken one by one, and a loop is its count, its index and its entries. -/
theorem vectorIssueAndLoops : Obligations.VectorIssueAndLoops := by
  refine ⟨⟨fun s i w a b r queues word on thawed keeps legal room operands => ?enters,
    fun s i w a b r queues word on thawed keeps legal full operands => ?waits, fun s i r queues off => ?off,
    fun s w r scalar f3 a on thawed empty strips poison => ?mvxs⟩,
    fun s u n a ws es r on thawed keeps ill start fetched legal dead room => ?loop, fun s h e rest seq body ready =>
      exec_loopIteration seq body ready,
    fun c run => Ctx.loopTurn_all_run run,
    fun s a d r on thawed => ⟨fun empty start => exec_vxLwait_vstart r on thawed empty start,
      fun start => ⟨fun passed => exec_vxLwait_reads r on thawed start passed,
        fun live behind => exec_vxLwait_waits r on thawed start live behind⟩⟩⟩
  case enters =>
    obtain ⟨_, known, run⟩ := exec_queuesVec queues
    obtain rfl := Option.some.inj (known.symm.trans word)
    rw [run]
    exact retires_ctx r ((issueVec_legal (s := s.begun) on thawed keeps legal operands).trans (enterSeq_room room))
  case waits =>
    obtain ⟨_, known, run⟩ := exec_queuesVec queues
    obtain rfl := Option.some.inj (known.symm.trans word)
    rw [run]
    exact runThread_waited r ((issueVec_legal (s := s.begun) on thawed keeps legal operands).trans (enterSeq_full full))
  case off =>
    obtain ⟨_, -, run⟩ := exec_queuesVec queues
    rw [run]
    exact runThread_trapped r (issueVec_off (s := s.begun) off)
  case mvxs =>
    intro x ill
    rw [show exec (.vectorIssue w) s = runThread (scalarVec w) s from congrArg (runThread · s) (if_pos scalar)]
    exact retires_ctx r (scalarVec_mvxs (s := s.begun) f3 a on thawed empty ⟨strips, poison⟩ ill)
  case loop =>
    intro v pc
    obtain ⟨none, some⟩ := exec_vxLoop r on thawed keeps ill start fetched legal dead room
    exact ⟨none, some es⟩

end Sys2Proof.Machine
end

section
/-! Accesses of a thread to its own scratchpad that nothing holds up (spec/01_device.md R31 to R36; spec/04_memory.md R92;
spec/05_ordering.md R130, R131, R137): where they go, what they read and write, and what they leave besides memory. -/

namespace Sys2Proof.Machine

open Sys2Proof

/-! ### The place of an own-window address -/

/-- The own window of a hart's core lies in the scratchpad of its core. -/
theorem scratchPa_place {h : Hart} {off : Nat} (hart : h < 20480) (inside : off < 0x40000) :
    rangeOf (scratchPa h.gcore off) = .scratch ∧ scratchAt (scratchPa h.gcore off) = (h.gcore, off) := by
  have core : h.gcore < 2560 := Nat.div_lt_of_lt_mul hart
  constructor
  · unfold rangeOf scratchPa scratchBase vaultBase
    rw [if_neg (by omega), if_neg (by omega), if_pos (by omega)]
  · unfold scratchAt scratchPa
    ext <;> simp only <;> omega

theorem toNat_ownWindow {off : Nat} (inside : off < 0x40000) : (w64 (0x7F8000000000 + off)).toNat = 0x7F8000000000 + off := by
  rw [w64, BitVec.toNat_ofNat]
  omega

theorem winOf_ownWindow {off : Nat} (inside : off < 0x40000) :
    inWinRange (0x7F8000000000 + off) = true ∧ winOf (0x7F8000000000 + off) = some (.own off) := by
  constructor
  · rw [inWinRange, winLo, winHi, decide_eq_true (by omega), decide_eq_true (by omega)]
    rfl
  · unfold winOf winScratch winOwn
    rw [if_neg (by omega), if_pos (by omega), Nat.add_sub_cancel_left]

/-- An address of the own window, as translation sees it. -/
theorem ownWindow {va : Word} {off : Nat} (address : va = w64 (0x7F8000000000 + off)) (inside : off < 0x40000) :
    inWinRange va.toNat = true ∧ winOf va.toNat = some (.own off) := by
  rw [address, toNat_ownWindow inside]
  exact winOf_ownWindow inside

/-- A window check of a scratchpad does not ask whether the access writes. -/
theorem permits_scratch {s : State} {pa : Nat} (place : rangeOf pa = .scratch) (n : Nat) (w w' : Bool) (i : Ident) :
    s.permits pa n w i = s.permits pa n w' i := by
  simp only [State.permits, place]

/-- The target of an own-window address. -/
def ownTarget (g off : Nat) : Target := { a := scratchPa g off, sram := true, attr := {} }

/-- What accesses of the current thread to its own scratchpad leave, memory aside: of its own slot the marks, of its core the last
winner of the port and the note of a halted core's load, of another thread a reservation; nothing of the clusters. -/
structure State.AccessedOwn (s t : State) : Prop where
  cur : t.cur = s.cur
  npc : t.npc = s.npc
  ibits : t.ibits = s.ibits
  slot : t.slot s.cur = { s.slot s.cur with marks := (t.slot s.cur).marks }
  others : ∀ h, h ≠ s.cur → t.ctx h = { s.ctx h with resv := (t.ctx h).resv }
  core : t.core s.cur.gcore =
    { s.core s.cur.gcore with winMem := (t.core s.cur.gcore).winMem, stale := (t.core s.cur.gcore).stale }
  cores : ∀ g, g ≠ s.cur.gcore → t.core g = s.core g
  clusters : t.clusters = s.clusters
  soft : t.soft = s.soft
  poison : t.poison = s.poison

namespace State.AccessedOwn

variable {s t u : State}

theorem refl : s.AccessedOwn s := ⟨rfl, rfl, rfl, rfl, fun _ _ => rfl, rfl, fun _ _ => rfl, rfl, rfl, rfl⟩

theorem ctx (a : s.AccessedOwn t) : t.ctx s.cur = s.ctx s.cur := by rw [State.ctx, a.slot, State.ctx]

theorem inhibit (a : s.AccessedOwn t) : (t.core s.cur.gcore).inhibit = (s.core s.cur.gcore).inhibit := by rw [a.core]

theorem trans (a : s.AccessedOwn t) (b : t.AccessedOwn u) : s.AccessedOwn u where
  cur := b.cur.trans a.cur
  npc := b.npc.trans a.npc
  ibits := b.ibits.trans a.ibits
  slot := by
    have step := b.slot
    rw [a.cur, a.slot] at step
    rw [step]
  others h n := by rw [b.others h (by rwa [a.cur]), a.others h n]
  core := by
    have step := b.core
    rw [a.cur, a.core] at step
    rw [step]
  cores g n := (b.cores g (by rwa [a.cur])).trans (a.cores g n)
  clusters := b.clusters.trans a.clusters
  soft := b.soft.trans a.soft
  poison := b.poison.trans a.poison

end State.AccessedOwn

/-- A window check depends on the clusters only. -/
theorem State.permits_congr {s t : State} (clusters : t.clusters = s.clusters) (pa n : Nat) (w : Bool) (i : Ident) :
    t.permits pa n w i = s.permits pa n w i := by
  simp only [State.permits, State.segOf, State.cluster, clusters]
  rfl

/-- Whether the own scratchpad is free for an access depends on the thread's identity and channels, the core's tile queue, scent
log and imposed log, the segments, and the blocks that hold an error. -/
theorem ownScratchFree.congr {s t : State} {off n : Nat} {st : Bool} (free : ownScratchFree s off n st) (cur : t.cur = s.cur)
    (clusters : t.clusters = s.clusters)
    (ident : identOf (t.ctx s.cur) (effPriv (t.slot s.cur) (t.ctx s.cur)) s.cur =
      identOf (s.ctx s.cur) (effPriv (s.slot s.cur) (s.ctx s.cur)) s.cur)
    (chans : (t.ctx s.cur).chans = (s.ctx s.cur).chans) (tileq : (t.core s.cur.gcore).tileq = (s.core s.cur.gcore).tileq)
    (impose : (t.core s.cur.gcore).impose = (s.core s.cur.gcore).impose)
    (sscent : (t.core s.cur.gcore).sscent = (s.core s.cur.gcore).sscent) (soft : t.soft = s.soft) (poison : t.poison = s.poison) :
    ownScratchFree t off n st := by
  obtain ⟨page, fits, some, permits, tile, chan, idle, off, sound, clean⟩ := free
  unfold ownScratchFree
  rw [cur, impose, sscent, soft, poison, ident]
  refine ⟨page, fits, some, (State.permits_congr clusters _ _ _ _).trans permits, ?_, ?_, idle, off, sound, clean⟩
  · rw [← tile, Core.tileStall, tileq, Core.tileStall]
  · rw [← chan]
    simp only [Ctx.stallingChan, Ctx.chan, chans]

theorem ownScratchFree.clean {s : State} {off n : Nat} {st : Bool} (free : ownScratchFree s off n st) : s.poison = [] := by
  obtain ⟨-, -, -, -, -, -, -, -, -, clean⟩ := free
  exact clean

theorem ownScratchFree.accessed {s t : State} {off n : Nat} {st : Bool} (free : ownScratchFree s off n st) (a : s.AccessedOwn t) :
    ownScratchFree t off n st :=
  free.congr a.cur a.clusters (by rw [a.ctx, a.slot]; rfl) (by rw [a.ctx]) (by rw [a.core]) (by rw [a.core]) (by rw [a.core])
    a.soft a.poison

/-! ### The steps of an access leave it so -/

section
variable {s : State}

/-- The port's winner and the note of a halted core's load. -/
theorem State.accessedOwn_modCore {f : Core → Core} (f_frame : ∀ k, f k = { k with winMem := (f k).winMem, stale := (f k).stale }) :
    s.AccessedOwn (s.modCore s.cur.gcore f) where
  cur := rfl
  npc := rfl
  ibits := rfl
  slot := rfl
  others _ _ := rfl
  core := by rw [State.core_modCore_same]; exact f_frame _
  cores g n := State.core_modCore_other s _ _ f n
  clusters := rfl
  soft := rfl
  poison := rfl

@[simp] theorem State.cur_wonMem (h : Hart) : (s.wonMem h).cur = s.cur := rfl
@[simp] theorem State.mem_wonMem (h : Hart) : (s.wonMem h).mem = s.mem := rfl
@[simp] theorem State.ctx_wonMem (h j : Hart) : (s.wonMem h).ctx j = s.ctx j := rfl

theorem State.accessedOwn_wonMem : s.AccessedOwn (s.wonMem s.cur) := State.accessedOwn_modCore fun _ => rfl

theorem State.accessedOwn_noteStale : s.AccessedOwn (s.noteStale s.cur.gcore) :=
  State.accessedOwn_modCore fun k => by cases (k.halted && !k.quiet) <;> rfl

theorem State.accessedOwn_clearMarks (part : AccessOf) (va n : Nat) :
    s.AccessedOwn (s.modSlot s.cur (·.clearMarks part va n)) where
  cur := rfl
  npc := rfl
  ibits := rfl
  slot := by rw [State.slot_modSlot_same]; rfl
  others h n := by rw [State.ctx, State.slot_modSlot_other _ _ _ _ n, State.ctx]
  core := rfl
  cores _ _ := rfl
  clusters := rfl
  soft := rfl
  poison := rfl

/-- What a store does to the slot of a thread: the storing thread keeps all, another may lose its reservation. -/
theorem State.slot_touch (a n : Nat) (by_ : Option Hart) (h : Hart) : (s.touch a n by_).slot h =
    if by_ = some h then s.slot h
    else
      { s.slot h with
        ctx := (s.slot h).ctx.map (fun c =>
          match c.resv with
          | some g => if g < a + n ∧ a < g + 32 then { c with resv := none } else c
          | none => c)
        wait := (s.slot h).wait.map (fun w =>
          if w.kind = .sleeping ∧ w.a < a + n ∧ a < w.a + 64 then { w with kind := .woken } else w) } := by
  refine (Tab.get_map s.slots _ Slot.boot h ?_).trans ?_
  · split <;> rfl
  · rfl

theorem State.ctx_touch (a n : Nat) (by_ : Option Hart) (h : Hart) :
    (s.touch a n by_).ctx h = { s.ctx h with resv := ((s.touch a n by_).ctx h).resv } := by
  simp only [State.ctx, State.slot_touch]
  split
  · rfl
  · cases (s.slot h).ctx with
    | none => rfl
    | some c =>
      simp only [Option.map_some, Option.getD_some]
      cases c.resv with
      | none => rfl
      | some g => dsimp only; split <;> rfl

theorem State.accessedOwn_putBytes (a : Nat) (bs : List Byte) (clean : s.poison = []) :
    s.AccessedOwn (s.putBytes a bs (some s.cur)) where
  cur := rfl
  npc := rfl
  ibits := rfl
  slot := by
    have own : (s.putBytes a bs (some s.cur)).slot s.cur = s.slot s.cur :=
      (State.slot_touch (s := s.rawPut a bs) a bs.length (some s.cur) s.cur).trans (if_pos rfl)
    rw [own]
  others h _ := State.ctx_touch a bs.length (some s.cur) h
  core := rfl
  cores _ _ := rfl
  clusters := rfl
  soft := rfl
  poison := by simp [State.putBytes, State.touch, State.rawPut, clean]

end

/-! ### The operations of an access -/

/-- A window address whose check passes goes where its window says. -/
theorem translate_window {s : State} {acc : Acc} {va tv : Word} {n : Nat} {w : Win} (range : inWinRange va.toNat = true)
    (win : winOf va.toNat = some w) (data : acc ≠ .fetch)
    (permits : s.permits (w.pa s.cur.gcore) n acc.writes (identOf (s.ctx s.cur) (effPriv (s.slot s.cur) (s.ctx s.cur)) s.cur) = .yes) :
    translate acc va tv n s = .ok { a := w.pa s.cur.gcore, sram := true, attr := {} } (s.wonMem s.cur) := by
  unfold translate
  simp only [range, if_true, win, if_neg data, decide_eq_true data, estate_bind, estate_get, slot_apply, ctx_apply, orTrap_apply,
    permits, upd_apply, estate_pure]

section
variable {s : State} {off n : Nat} {st : Bool} (free : ownScratchFree s off n st)
include free

theorem stallSram_own : stallSram (scratchPa s.cur.gcore off) n st s = .ok () s := by
  obtain ⟨-, -, -, -, tile, chan, -⟩ := free
  simp [stallSram, stallChan, tile, chan]

theorem scrubSoft_own (a m : Nat) : s.scrubSoft a m = s := by
  obtain ⟨-, -, -, -, -, -, -, -, sound, -⟩ := free
  simp [State.scrubSoft, sound]

theorem poisonIn_own (a m : Nat) : s.poisonIn a m = none := by
  simp [State.poisonIn, State.isPoison, free.clean]

theorem imposed_own (src slot kind op sz o : Nat) : s.imposed s.cur.gcore true src slot kind op sz o = some s := by
  obtain ⟨-, -, -, -, -, -, idle, -⟩ := free
  simp [State.imposed, idle]

theorem logScent_own (src slot kind op sz o : Nat) : s.logScent s.cur.gcore true src slot kind op sz o = s := by
  obtain ⟨-, -, -, -, -, -, -, off, -⟩ := free
  rw [State.logScent, if_neg]
  rintro ⟨on, -⟩
  exact Bool.false_ne_true (off.symm.trans on)

/-- A store to the own port of at most one of its parts is performed at once. -/
theorem localStore_own {bs : List Byte} (short : bs.length ≤ 64) (o : Nat) :
    s.localStore s.cur s.cur.gcore o bs = some (s.portStore s.cur.gcore o bs (some s.cur)) := by
  have stored := free.accessed (State.accessedOwn_putBytes (scratchPa s.cur.gcore o) bs free.clean)
  simp only [State.localStore, portParts, if_pos short, List.foldl_cons, List.foldl_nil, Option.bind_some, imposed_own free,
    Option.map_some, Nat.add_zero, List.drop_zero, List.take_length]
  exact congrArg some (logScent_own stored _ _ _ _ _ _)

/-- The pages of an access that stays within one. -/
theorem pageParts_own {va : Word} (address : va = w64 (0x7F8000000000 + off)) : pageParts va n = [(va, n)] := by
  obtain ⟨page, fits, some, -⟩ := free
  rw [pageParts, if_pos]
  rw [address, toNat_ownWindow (by omega)]
  omega

variable (hart : s.cur < 20480)
include hart

theorem translate_own {acc : Acc} {va : Word} (tv : Word) (address : va = w64 (0x7F8000000000 + off)) (data : acc ≠ .fetch) :
    translate acc va tv n s = .ok (ownTarget s.cur.gcore off) (s.wonMem s.cur) := by
  obtain ⟨-, fits, some, permits, -⟩ := free
  have inside : off < 0x40000 := by omega
  obtain ⟨range, win⟩ := ownWindow address inside
  obtain ⟨place, -⟩ := scratchPa_place hart inside
  exact translate_window range win data ((permits_scratch place n acc.writes st _).trans permits)

/-- The place of the access. -/
theorem place_own : rangeOf (scratchPa s.cur.gcore off) = .scratch ∧ scratchAt (scratchPa s.cur.gcore off) = (s.cur.gcore, off) := by
  obtain ⟨-, fits, some, -⟩ := free
  exact scratchPa_place hart (by omega)

theorem loadTarget_own (load : st = false) (va : Nat) : loadTarget (ownTarget s.cur.gcore off) n va s =
    .ok (s.mem.readN (scratchPa s.cur.gcore off) n, none) (s.noteStale s.cur.gcore) := by
  obtain ⟨place, core⟩ := place_own free hart
  subst load
  simp [loadTarget, ownTarget, stallSram_own free, scrubSoft_own free, place, loadScratch, core, poisonIn_own free, State.getBytes]

theorem storeTarget_own {bs : List Byte} (short : bs.length ≤ 64) : storeTarget (ownTarget s.cur.gcore off) bs s =
    .ok () (s.putBytes (scratchPa s.cur.gcore off) bs (some s.cur)) := by
  obtain ⟨place, core⟩ := place_own free hart
  simp [storeTarget, ownTarget, place, storeScratch, core, localStore_own free short, State.portStore]

end

/-- What an atomic of a hart's own port stores, where it stores. -/
def State.putOwn (s : State) (off : Nat) : Option (List Byte) → State
  | some bs => s.portStore s.cur.gcore off bs (some s.cur)
  | none => s

/-- Memory after it. -/
def Memory.after (m : Memory) (a : Nat) : Option (List Byte) → Memory
  | some bs => m.writeN a bs
  | none => m

theorem State.putOwn_mem (s : State) (off : Nat) (new : Option (List Byte)) :
    (s.putOwn off new).mem = s.mem.after (scratchPa s.cur.gcore off) new := by cases new <;> rfl

theorem State.accessedOwn_putOwn {s : State} (off : Nat) (new : Option (List Byte)) (clean : s.poison = []) :
    s.AccessedOwn (s.putOwn off new) := by
  cases new with
  | none => exact .refl
  | some bs => exact State.accessedOwn_putBytes _ bs clean

/-- The note of a halted core's load, which all atomics but SC leave. -/
theorem State.accessedOwn_noteUnlessSc {s : State} (kind : AtomicKind) :
    s.AccessedOwn (if kind = .sc then s else s.noteStale s.cur.gcore) := by
  split
  · exact .refl
  · exact State.accessedOwn_noteStale

/-- An atomic at the own port reads the bytes, and writes what it makes of them. -/
theorem atomicTarget_own {s : State} {off n : Nat} {kind : AtomicKind} (free : ownScratchFree s off n (kind != .lr))
    (hart : s.cur < 20480) (op : Nat) (f : List Byte → Option (List Byte)) :
    ∃ t, atomicTarget (ownTarget s.cur.gcore off) n op kind f s = .ok (s.mem.readN (scratchPa s.cur.gcore off) n, none) t ∧
      s.AccessedOwn t ∧
      t.mem = s.mem.after (scratchPa s.cur.gcore off) (f (s.mem.readN (scratchPa s.cur.gcore off) n)) := by
  obtain ⟨place, core⟩ := place_own free hart
  have consumed : kind.consumed none = none := by cases kind <;> rfl
  have put := State.accessedOwn_putOwn off (f (s.mem.readN (scratchPa s.cur.gcore off) n)) free.clean
  have note := State.accessedOwn_noteUnlessSc (s := s.putOwn off (f (s.mem.readN (scratchPa s.cur.gcore off) n))) kind
  have quiet := logScent_own (free.accessed (put.trans note)) s.cur.gcore s.cur.slot 0 op (log2sz n) off
  refine ⟨_, ?_, put.trans note, ?_⟩
  · simp [atomicTarget, ownTarget, stallSram_own free, scrubSoft_own free, place, atomicScratch, core, imposed_own free,
      poisonIn_own free, consumed, State.getBytes]
    revert quiet
    cases f (s.mem.readN (scratchPa s.cur.gcore off) n) <;> cases kind <;> exact id
  · rw [← State.putOwn_mem]
    split <;> rfl

/-- A data access that has completed clears its marks. -/
theorem accessDone_apply {s : State} {acc : Acc} (data : acc ≠ .fetch) (va : Word) (n : Nat) :
    accessDone acc va n s = .ok () (s.accessEnd va n) := by
  cases part : seqAccess s.ibits <;> simp [accessDone, accessOf, data, State.accessEnd, part]

theorem State.accessedOwn_accessEnd {s : State} (va : Word) (n : Nat) : s.AccessedOwn (s.accessEnd va n) :=
  State.accessedOwn_clearMarks _ _ _

/-! ### What an instruction that accesses its own scratchpad leaves -/

/-- The retirement of a state in which the thread's context is updated by f and its next pc stands. -/
theorem wentOn_of {s u : State} {f : Ctx → Ctx} (cur : u.cur = s.cur) (npc : u.npc = s.nextPc)
    (own : (u.slot s.cur).ctx = some (f (s.ctx s.cur))) (others : ∀ h, h ≠ s.cur → u.ctx h = { s.ctx h with resv := (u.ctx h).resv })
    (inhibit : (u.core s.cur.gcore).inhibit = (s.core s.cur.gcore).inhibit) (cores : ∀ g, g ≠ s.cur.gcore → u.core g = s.core g) :
    WentOn s u.retire f := by
  have counted : u.counted = s.counted := by rw [State.counted, State.counted, cur, inhibit]
  refine ⟨?_, fun h n => ?_, fun g n => ?_⟩
  · have ctx := State.retire_ctx (u := u) (by rw [cur, own])
    rwa [cur, npc, counted] at ctx
  · rw [State.retire_ctx_other u (by rwa [cur])]
    exact others h n
  · rw [State.retire_core_other u (by rwa [cur])]
    exact cores g n

/-- An instruction that has accessed its own scratchpad, with no update of its context, retires. -/
theorem State.AccessedOwn.wentOn {s t : State} (r : s.Runs) (a : s.begun.AccessedOwn t) : WentOn s t.retire id :=
  wentOn_of a.cur a.npc ((congrArg Slot.ctx a.slot).trans r.slot_ctx) (fun h n => a.others h n) a.inhibit (fun g n => a.cores g n)

end Sys2Proof.Machine
end

section
/-! Atomics: AMO, compare and swap, load-reserve and store-conditional (spec/03_encoding.md R67; spec/05_ordering.md R121, R128,
R130, R135). -/

namespace Sys2Proof.Machine

open Sys2Proof

/-! ### The frame of an atomic: the waits before it and the acquire after it -/

/-- What an atomic of an operation does between the waits and the acquire. -/
def atomicOp (op : AmoOp) (n : Nat) (d a b : Reg) : M Unit :=
  match op with
  | .lr => lrOp n d a
  | .sc => scOp n d a b
  | k => amoOp k n d a b

/-- The same of a compare and swap. -/
def casOp (n : Nat) (d a b : Reg) : M Unit := do
  let va ← getX a
  let cmp ← getX d
  let new ← getX b
  let old ← atomicAt va n opCas 7 .amo
    (fun old => if leNat old = cmp.toNat % 2 ^ (8 * n) then some (leBytes n new.toNat) else none)
  setX d (regOf n old)

/-- The same of one with pairs of registers. -/
def casPairOp (d a b : Reg) : M Unit := do
  let va ← getX a
  require (!d.getLsbD 0 && !b.getLsbD 0)
  let cmp ← getPair d
  let new ← getPair b
  let old ← atomicAt va 16 opCas 7 .amo (fun old => if leNat old = cmp then some (leBytes 16 new) else none)
  if d = 0#5 then pure ()
  else
    setX d (w64 (leNat old))
    setX (d + 1#5) (w64 (leNat old / 2 ^ 64))

/-- An atomic with its waits before and its acquire after it. -/
def atomicFrame (aq rl : BitVec 1) (m : M Unit) : M Unit := do
  waitVecMem
  if rl = 1#1 then release 2 else pure ()
  m
  if aq = 1#1 then acquire else pure ()

theorem exec_atomicAmo (op : AmoOp) (wd : AmoWidth) (aq rl : BitVec 1) (d a b : Reg) (s : State) :
    exec (.atomicAmo op wd aq rl d a b) s = runThread (atomicFrame aq rl (atomicOp op (amoWidth wd) d a b)) s := by
  cases op <;> rfl

theorem exec_amocas {wd : CasWidth} {n : Nat} (width : wd = .w ∧ n = 4 ∨ wd = .d ∧ n = 8) (aq rl : BitVec 1) (d a b : Reg)
    (s : State) : exec (.amocas wd aq rl d a b) s = runThread (atomicFrame aq rl (casOp n d a b)) s := by
  rw [show exec (.amocas wd aq rl d a b) s = execAmocas wd aq rl d a b s from rfl]
  rcases width with ⟨rfl, rfl⟩ | ⟨rfl, rfl⟩ <;> simp only [execAmocas, atomicFrame, casOp, bind_assoc] <;> rfl

theorem exec_amocasPair (aq rl : BitVec 1) (d a b : Reg) (s : State) :
    exec (.amocas .q aq rl d a b) s = runThread (atomicFrame aq rl (casPairOp d a b)) s := by
  rw [show exec (.amocas .q aq rl d a b) s = execAmocas .q aq rl d a b s from rfl]
  by_cases zero : d = 0#5 <;>
    simp only [execAmocas, atomicFrame, casPairOp, bind_assoc, zero, if_true, if_false, pure_bind]

section
variable {s u : State} {aq rl : BitVec 1} {m : M Unit}

theorem release_apply (s : State) : release 2 s = if s.performed s.cur true true 2 then .ok () s else .error .wait s := by
  simp [release, waitUnless_apply]

variable (idle : (s.ctx s.cur).queuedMem true true = false)
include idle

/-- Where the earlier accesses are performed, the frame is the operation and its acquire. -/
theorem atomicFrame_apply (earlier : rl = 1#1 → s.performed s.cur true true 2 = true) : atomicFrame aq rl m s =
    match m s with
    | .ok _ u => .ok () (u.aqEnd aq)
    | .error e u => .error e u := by
  have acquires (u : State) : (if aq = 1#1 then acquire u else .ok () u) = .ok () (u.aqEnd aq) := by
    unfold State.aqEnd
    split <;> rfl
  by_cases order : rl = 1#1
  · simp only [atomicFrame, estate_bind, estate_ite, estate_pure, waitVecMem_free idle, release_apply, earlier order, order, if_true]
    cases m s <;> simp only [acquires]
  · simp only [atomicFrame, estate_bind, estate_ite, estate_pure, waitVecMem_free idle, order, if_false]
    cases m s <;> simp only [acquires]

theorem runThread_atomicFrame (r : s.Runs) (earlier : rl = 1#1 → s.performed s.cur true true 2 = true)
    (done : m s.begun = .ok () u) : runThread (atomicFrame aq rl m) s = .next (u.aqEnd aq).retire :=
  runThread_ok r (by rw [atomicFrame_apply (s := s.begun) idle earlier, done])

theorem runThread_atomicFrame_trapped {c : Nat} {v : Word} (r : s.Runs)
    (earlier : rl = 1#1 → s.performed s.cur true true 2 = true) (traps : m s.begun = .error (.trap c v) s.begun) :
    runThread (atomicFrame aq rl m) s = .next (s.trapped c v) :=
  runThread_trapped r (by rw [atomicFrame_apply (s := s.begun) idle earlier, traps])

theorem atomicFrame_waits (held : s.performed s.cur true true 2 = false) : atomicFrame aq 1#1 m s = .error .wait s := by
  simp [atomicFrame, waitVecMem_free idle, release_apply, held]

end

/-! ### The operations, where their accesses answer -/

section
variable {s u v : State} {n : Nat} {d a b : Reg}

theorem atomicAt_misaligned {va : Word} {op cause : Nat} {acc : Acc} {f : List Byte → Option (List Byte)} (off : va.toNat % n ≠ 0) :
    atomicAt va n op cause acc f s = .error (.trap cause va) s := by
  simp [atomicAt, orTrap_apply, off]

theorem amoOp_apply {op : AmoOp} {old : List Byte}
    (answer : atomicAt (s.xr a) n opAmo 7 .amo (fun o => some (amoBytes op n (s.xr b) o)) s = .ok old u) :
    amoOp op n d a b s = .ok () (u.putX d (regOf n old)) := by
  simp only [amoOp, estate_bind, getX_apply, answer, setX_apply]

theorem casOp_apply {old : List Byte} (answer : atomicAt (s.xr a) n opCas 7 .amo
      (fun o => if leNat o = (s.xr d).toNat % 2 ^ (8 * n) then some (leBytes n (s.xr b).toNat) else none) s = .ok old u) :
    casOp n d a b s = .ok () (u.putX d (regOf n old)) := by
  simp only [casOp, estate_bind, getX_apply, answer, setX_apply]

theorem getPair_apply (q : Reg) : getPair q s = .ok (s.xPair q) s := by
  simp only [getPair, State.xPair, estate_bind, estate_ite, getX_apply, estate_pure]
  split <;> rfl

theorem casPairOp_apply {old : List Byte} (even : d.getLsbD 0 = false ∧ b.getLsbD 0 = false)
    (answer : atomicAt (s.xr a) 16 opCas 7 .amo (fun o => if leNat o = s.xPair d then some (leBytes 16 (s.xPair b)) else none) s =
      .ok old u) :
    casPairOp d a b s = .ok () (if d = 0#5 then u else u.modCtx u.cur (fun c =>
      (c.setX d.toNat (w64 (leNat old))).setX (d + 1#5).toNat (w64 (leNat old / 2 ^ 64)))) := by
  obtain ⟨evenD, evenB⟩ := even
  simp only [casPairOp, estate_bind, getX_apply, evenD, evenB, Bool.not_false, Bool.and_self, require_true, estate_pure,
    getPair_apply, answer, estate_ite, setX_apply, State.putX, State.cur_modCtx, State.modCtx_modCtx]
  split <;> rfl

theorem casPairOp_odd (odd : d.getLsbD 0 = true ∨ b.getLsbD 0 = true) :
    casPairOp d a b s = .error (.trap 2 (s.ibits.setWidth 64)) s := by
  have bad : (!d.getLsbD 0 && !b.getLsbD 0) = false := by
    rcases odd with h | h <;> rw [h]
    · rfl
    · exact Bool.and_false _
  simp only [casPairOp, estate_bind, getX_apply, require_apply, bad, Bool.false_eq_true, if_false]

theorem casPairOp_misaligned (even : d.getLsbD 0 = false ∧ b.getLsbD 0 = false) (off : (s.xr a).toNat % 16 ≠ 0) :
    casPairOp d a b s = .error (.trap 7 (s.xr a)) s := by
  obtain ⟨evenD, evenB⟩ := even
  simp only [casPairOp, estate_bind, getX_apply, evenD, evenB, Bool.not_false, Bool.and_self, require_true, estate_pure,
    getPair_apply, atomicAt_misaligned off]

theorem casOp_misaligned (off : (s.xr a).toNat % n ≠ 0) : casOp n d a b s = .error (.trap 7 (s.xr a)) s := by
  simp only [casOp, estate_bind, getX_apply, atomicAt_misaligned off]

/-- A load that reserves its granule. -/
theorem lrOp_apply {tg : Target} {bs : List Byte} (aligned : (s.xr a).toNat % n = 0)
    (place : translate .load (s.xr a) (s.xr a) n s = .ok tg u) (answer : atomicTarget tg n opAmo .lr (fun _ => none) u = .ok (bs, none) v) :
    lrOp n d a s = .ok () (((v.accessEnd (s.xr a) n).modCtx v.cur (fun c => { c with resv := some (blk tg.a) })).putX d (regOf n bs)) := by
  simp [lrOp, orTrap_apply, aligned, place, answer, accessDone_apply]
  rfl

/-- A store that its reservation lets through. -/
theorem scOp_held {tg : Target} {x : List Byte × Option Nat} (aligned : (s.xr a).toNat % n = 0)
    (place : translate .store (s.xr a) (s.xr a) n s = .ok tg u) (held : (u.ctx u.cur).resv = some (blk tg.a))
    (answer : atomicTarget tg n opAmo .sc (fun _ => some (leBytes n (s.xr b).toNat)) u = .ok x v) :
    scOp n d a b s = .ok () (((v.accessEnd (s.xr a) n).modCtx v.cur (fun c => { c with resv := none })).putX d 0#64) := by
  simp [scOp, orTrap_apply, aligned, place, held, answer, accessDone_apply]
  rfl

/-- A store without its reservation. -/
theorem scOp_lost {tg : Target} (aligned : (s.xr a).toNat % n = 0) (place : translate .store (s.xr a) (s.xr a) n s = .ok tg u)
    (lost : (u.ctx u.cur).resv ≠ some (blk tg.a)) :
    scOp n d a b s = .ok () (((u.accessEnd (s.xr a) n).modCtx u.cur (fun c => { c with resv := none })).putX d 1#64) := by
  simp [scOp, orTrap_apply, aligned, place, lost, accessDone_apply]
  rfl

/-- An atomic of an address that its width does not divide. -/
theorem atomicOp_misaligned (op : AmoOp) (off : (s.xr a).toNat % n ≠ 0) :
    atomicOp op n d a b s = .error (.trap (if op = .lr then 5 else 7) (s.xr a)) s := by
  cases op with
  | lr => simp [atomicOp, lrOp, orTrap_apply, off]
  | sc => simp [atomicOp, scOp, orTrap_apply, off]
  | _ => simp [atomicOp, amoOp, atomicAt_misaligned off]

end

/-! ### Atomics of the own scratchpad -/

/-- The acquire of an atomic with aq, and of one without it, as a claim about the state after it. -/
def Acquired (s t : State) (aq : BitVec 1) : Prop :=
  (aq = 1#1 → (t.core s.cur.gcore).l1d = [] ∧ ∀ k, k ≠ s.cur.cl → t.cluster k = s.cluster k) ∧
    (aq = 0#1 → t.clusters = s.clusters)

theorem gcore_div (h : Hart) : h.gcore / 64 = h.cl := Nat.div_div_eq_div_mul h 8 64

theorem State.retire_cluster (u : State) (k : Nat) : u.retire.cluster k = u.cluster k := rfl

theorem acquired_aqEnd {s u : State} (cur : u.cur = s.cur) (clusters : u.clusters = s.clusters) (aq : BitVec 1) :
    Acquired s (u.aqEnd aq).retire aq := by
  constructor <;> intro bit <;> subst bit
  · have on : u.aqEnd 1#1 = u.acquire s.cur.gcore := by rw [← cur]; rfl
    rw [on]
    refine ⟨?_, fun k n => ?_⟩
    · have own := (u.acquire s.cur.gcore).retire_core
      rw [show (u.acquire s.cur.gcore).cur = s.cur from cur] at own
      rw [own]
      simp [State.acquire]
    · rw [State.retire_cluster, State.acquire, gcore_div, State.cluster_modCluster_other _ _ _ _ n, State.cluster_modCore,
        State.cluster, clusters, State.cluster]
  · exact clusters

/-- The acquire changes nothing but L1D and L2 lines. -/
theorem State.aqEnd_frame (u : State) (aq : BitVec 1) :
    (u.aqEnd aq).cur = u.cur ∧ (u.aqEnd aq).npc = u.npc ∧ (u.aqEnd aq).mem = u.mem ∧ (u.aqEnd aq).slot = u.slot := by
  unfold State.aqEnd
  split <;> exact ⟨rfl, rfl, rfl, rfl⟩

theorem State.aqEnd_inhibit (u : State) (aq : BitVec 1) : ((u.aqEnd aq).core u.cur.gcore).inhibit = (u.core u.cur.gcore).inhibit := by
  unfold State.aqEnd
  split
  · simp [State.acquire]
  · rfl

theorem State.aqEnd_core_other (u : State) (aq : BitVec 1) {g : Nat} (n : g ≠ u.cur.gcore) : (u.aqEnd aq).core g = u.core g := by
  unfold State.aqEnd
  split
  · simp [State.acquire, State.core_modCore_other _ _ _ _ n]
  · rfl

/-- The end of an atomic: its context is updated by f, and the acquire leaves every context as it is. -/
theorem wentOn_aqEnd {s t u : State} {f : Ctx → Ctx} (a : s.begun.AccessedOwn t)
    (own : (u.slot s.cur).ctx = some (f (s.ctx s.cur))) (others : ∀ h, h ≠ s.cur → u.slot h = t.slot h)
    (rest : u = { t with slots := u.slots }) (aq : BitVec 1) :
    WentOn s (u.aqEnd aq).retire f ∧ Acquired s (u.aqEnd aq).retire aq ∧ (u.aqEnd aq).retire.mem = t.mem := by
  have cur : u.cur = s.cur := by rw [rest]; exact a.cur
  have core (g : Nat) : u.core g = t.core g := by rw [rest]; rfl
  obtain ⟨cur', npc', mem', slot'⟩ := u.aqEnd_frame aq
  refine ⟨wentOn_of (cur'.trans cur) ?_ ?_ (fun h n => ?_) ?_ (fun g n => ?_), acquired_aqEnd cur ?_ aq, ?_⟩
  · rw [npc', rest]; exact a.npc
  · rw [slot', own]
  · rw [State.ctx, slot', others h n]; exact a.others h n
  · rw [← cur, u.aqEnd_inhibit, cur, core]; exact a.inhibit
  · rw [u.aqEnd_core_other aq (by rwa [cur]), core]; exact a.cores g n
  · rw [rest]; exact a.clusters
  · rw [State.retire_frame, mem', rest]

theorem State.AccessedOwn.slot_ctx {s t : State} (r : s.Runs) (a : s.begun.AccessedOwn t) :
    (t.slot s.cur).ctx = some (s.ctx s.cur) := (congrArg Slot.ctx a.slot).trans r.slot_ctx

/-- An atomic of the own scratchpad that updates its context ends so. -/
theorem ownAtomic_ends {s t : State} {m : M Unit} {f : Ctx → Ctx} {aq rl : BitVec 1} (r : s.Runs)
    (idle : (s.ctx s.cur).queuedMem true true = false) (earlier : rl = 1#1 → s.performed s.cur true true 2 = true)
    (a : s.begun.AccessedOwn t) (done : m s.begun = .ok () (t.modCtx t.cur f)) :
    ∃ v, runThread (atomicFrame aq rl m) s = .next v ∧ WentOn s v f ∧ Acquired s v aq ∧ v.mem = t.mem := by
  refine ⟨_, runThread_atomicFrame idle r earlier done, wentOn_aqEnd a ?_ (fun h n => ?_) rfl aq⟩
  · rw [show t.cur = s.cur from a.cur, State.slot_modCtx_same, a.slot_ctx r]
    rfl
  · exact State.slot_modCtx_other t t.cur h f (by rwa [show t.cur = s.cur from a.cur])

/-- One that leaves its context as it is. -/
theorem ownAtomic_ends_id {s t : State} {m : M Unit} {aq rl : BitVec 1} (r : s.Runs)
    (idle : (s.ctx s.cur).queuedMem true true = false) (earlier : rl = 1#1 → s.performed s.cur true true 2 = true)
    (a : s.begun.AccessedOwn t) (done : m s.begun = .ok () t) :
    ∃ v, runThread (atomicFrame aq rl m) s = .next v ∧ WentOn s v id ∧ Acquired s v aq ∧ v.mem = t.mem :=
  ⟨_, runThread_atomicFrame idle r earlier done, wentOn_aqEnd a (a.slot_ctx r) (fun _ _ => rfl) rfl aq⟩

/-- Memory after an atomic that stores bytes; and after one that stores none. -/
theorem wrote_after {s t : State} {a : Nat} {bs : List Byte} (m : t.mem = s.mem.after a (some bs)) : Wrote s t a bs := by
  refine ⟨fun i hi => ?_, fun p hp => ?_⟩
  · rw [m, List.getD_eq_getElem _ _ hi]
    exact Memory.read_writeN_inside bs s.mem a i hi
  · rw [m]
    exact Memory.read_writeN_outside bs s.mem a p hp

theorem read_after_none {s t : State} {a : Nat} (m : t.mem = s.mem.after a none) (p : Nat) : t.mem.read p = s.mem.read p := by
  rw [m]; rfl

section
variable {s : State} {off n : Nat} {va : Word} (free : ownScratchFree s off n true) (hart : s.cur < 20480)
  (address : va = w64 (0x7F8000000000 + off)) (aligned : va.toNat % n = 0)
include free hart address aligned

/-- A read and conditional write of the own scratchpad. -/
theorem atomicAt_own (op : Nat) (f : List Byte → Option (List Byte)) :
    ∃ t, atomicAt va n op 7 .amo f s = .ok (s.mem.readN (scratchPa s.cur.gcore off) n) t ∧ s.AccessedOwn t ∧
      t.mem = s.mem.after (scratchPa s.cur.gcore off) (f (s.mem.readN (scratchPa s.cur.gcore off) n)) := by
  have place := translate_own free hart (acc := .amo) va address (by decide)
  have won : s.AccessedOwn (s.wonMem s.cur) := State.accessedOwn_wonMem
  obtain ⟨t, answer, a, mem⟩ := atomicTarget_own (kind := .rmw) (free.accessed won) hart op f
  rw [State.cur_wonMem, State.mem_wonMem] at answer
  refine ⟨t.accessEnd va n, ?_, (won.trans a).trans (State.accessedOwn_accessEnd va n), mem⟩
  simp [atomicAt, orTrap_apply, aligned, place, answer, accessDone_apply]

end

/-- A width of an atomic divides the address where it divides the offset. -/
theorem own_aligned {va : Word} {off n : Nat} (width : n = 4 ∨ n = 8 ∨ n = 16) (inside : off < 0x40000)
    (address : va = w64 (0x7F8000000000 + off)) (aligned : off % n = 0) : va.toNat % n = 0 := by
  rw [address, toNat_ownWindow inside]
  rcases width with rfl | rfl | rfl <;> omega

theorem amoWidth_cases (wd : AmoWidth) : amoWidth wd = 4 ∨ amoWidth wd = 8 ∨ amoWidth wd = 16 := by
  cases wd
  · exact .inl rfl
  · exact .inr (.inl rfl)

theorem ownScratchFree.inside {s : State} {off n : Nat} {st : Bool} (free : ownScratchFree s off n st) : off < 0x40000 := by
  obtain ⟨-, fits, some, -⟩ := free
  omega

theorem ownScratchFree.begun {s : State} {off n : Nat} {st : Bool} (free : ownScratchFree s off n st) :
    ownScratchFree s.begun off n st :=
  free.congr rfl rfl rfl rfl rfl rfl rfl rfl rfl

theorem setX_resv (c : Ctx) (r : Nat) (v : Word) (g : Option Nat) : { c with resv := g }.setX r v = { c.setX r v with resv := g } := by
  unfold Ctx.setX
  split <;> rfl

/-- A reservation set and a register written, as one update of the context. -/
theorem State.modCtx_resv_putX (t : State) (g : Option Nat) (d : Reg) (v : Word) :
    (t.modCtx t.cur (fun c => { c with resv := g })).putX d v =
      t.modCtx t.cur (fun c => { c.setX d.toNat v with resv := g }) := by
  simp only [State.putX, State.cur_modCtx, State.modCtx_modCtx, setX_resv]

section
variable {s : State} {off n : Nat} {d a b : Reg} (hart : s.cur < 20480) (address : s.xr a = w64 (0x7F8000000000 + off))
  (aligned : (s.xr a).toNat % n = 0)
include hart address aligned

section
variable (free : ownScratchFree s off n true)
include free

theorem amoOp_own (op : AmoOp) : ∃ t, s.AccessedOwn t ∧
    t.mem = s.mem.after (scratchPa s.cur.gcore off) (some (amoBytes op n (s.xr b) (s.mem.readN (scratchPa s.cur.gcore off) n))) ∧
    amoOp op n d a b s = .ok () (t.modCtx t.cur (·.setX d.toNat (regOf n (s.mem.readN (scratchPa s.cur.gcore off) n)))) := by
  obtain ⟨t, answer, acc, mem⟩ := atomicAt_own free hart address aligned opAmo (fun o => some (amoBytes op n (s.xr b) o))
  exact ⟨t, acc, mem, amoOp_apply answer⟩

theorem casOp_own : ∃ t, s.AccessedOwn t ∧
    t.mem = s.mem.after (scratchPa s.cur.gcore off)
      (if leNat (s.mem.readN (scratchPa s.cur.gcore off) n) = (s.xr d).toNat % 2 ^ (8 * n) then some (leBytes n (s.xr b).toNat)
        else none) ∧
    casOp n d a b s = .ok () (t.modCtx t.cur (·.setX d.toNat (regOf n (s.mem.readN (scratchPa s.cur.gcore off) n)))) := by
  obtain ⟨t, answer, acc, mem⟩ := atomicAt_own free hart address aligned opCas
    (fun o => if leNat o = (s.xr d).toNat % 2 ^ (8 * n) then some (leBytes n (s.xr b).toNat) else none)
  exact ⟨t, acc, mem, casOp_apply answer⟩

/-- A store-conditional of the own scratchpad whose reservation is held. -/
theorem scOp_own_held (held : (s.ctx s.cur).resv = some (blk (scratchPa s.cur.gcore off))) : ∃ t, s.AccessedOwn t ∧
    t.mem = s.mem.after (scratchPa s.cur.gcore off) (some (leBytes n (s.xr b).toNat)) ∧
    scOp n d a b s = .ok () (t.modCtx t.cur (fun c => { c.setX d.toNat 0#64 with resv := none })) := by
  have won : s.AccessedOwn (s.wonMem s.cur) := State.accessedOwn_wonMem
  obtain ⟨t, answer, acc, mem⟩ := atomicTarget_own (kind := .sc) (free.accessed won) hart opAmo
    (fun _ => some (leBytes n (s.xr b).toNat))
  refine ⟨t.accessEnd (s.xr a) n, (won.trans acc).trans (State.accessedOwn_accessEnd _ _), mem, ?_⟩
  rw [scOp_held aligned (translate_own free hart _ address (by decide)) held answer]
  exact congrArg _ (State.modCtx_resv_putX (t.accessEnd (s.xr a) n) none d 0#64)

/-- One whose reservation is not. -/
theorem scOp_own_lost (lost : (s.ctx s.cur).resv ≠ some (blk (scratchPa s.cur.gcore off))) : ∃ t, s.AccessedOwn t ∧
    t.mem = s.mem ∧ scOp n d a b s = .ok () (t.modCtx t.cur (fun c => { c.setX d.toNat 1#64 with resv := none })) := by
  have won : s.AccessedOwn (s.wonMem s.cur) := State.accessedOwn_wonMem
  refine ⟨(s.wonMem s.cur).accessEnd (s.xr a) n, won.trans (State.accessedOwn_accessEnd _ _), rfl, ?_⟩
  rw [scOp_lost aligned (translate_own free hart _ address (by decide)) lost]
  exact congrArg _ (State.modCtx_resv_putX ((s.wonMem s.cur).accessEnd (s.xr a) n) none d 1#64)

end

/-- A load-reserve of the own scratchpad. -/
theorem lrOp_own (free : ownScratchFree s off n false) : ∃ t, s.AccessedOwn t ∧ t.mem = s.mem ∧
    lrOp n d a s = .ok () (t.modCtx t.cur (fun c =>
      { c.setX d.toNat (regOf n (s.mem.readN (scratchPa s.cur.gcore off) n)) with resv := some (blk (scratchPa s.cur.gcore off)) })) := by
  have won : s.AccessedOwn (s.wonMem s.cur) := State.accessedOwn_wonMem
  obtain ⟨t, answer, acc, mem⟩ := atomicTarget_own (kind := .lr) (free.accessed won) hart opAmo (fun _ => none)
  refine ⟨t.accessEnd (s.xr a) n, (won.trans acc).trans (State.accessedOwn_accessEnd _ _), mem, ?_⟩
  rw [lrOp_apply aligned (translate_own free hart _ address (by decide)) answer]
  exact congrArg _ (State.modCtx_resv_putX (t.accessEnd (s.xr a) n) _ d _)

end

/-- A compare and swap of register pairs in the own scratchpad. -/
theorem casPairOp_own {s : State} {off : Nat} {d a b : Reg} (hart : s.cur < 20480) (address : s.xr a = w64 (0x7F8000000000 + off))
    (aligned : (s.xr a).toNat % 16 = 0) (free : ownScratchFree s off 16 true) (even : d.getLsbD 0 = false ∧ b.getLsbD 0 = false) :
    let old := leNat (s.mem.readN (scratchPa s.cur.gcore off) 16)
    ∃ t, s.AccessedOwn t ∧
      t.mem = s.mem.after (scratchPa s.cur.gcore off) (if old = s.xPair d then some (leBytes 16 (s.xPair b)) else none) ∧
      casPairOp d a b s = .ok () (if d = 0#5 then t else
        t.modCtx t.cur (fun c => (c.setX d.toNat (w64 old)).setX (d + 1#5).toNat (w64 (old / 2 ^ 64)))) := by
  obtain ⟨t, answer, acc, mem⟩ := atomicAt_own free hart address aligned opCas
    (fun o => if leNat o = s.xPair d then some (leBytes 16 (s.xPair b)) else none)
  exact ⟨t, acc, mem, casPairOp_apply even answer⟩

theorem atomicOp_of_rmw {op : AmoOp} (lr : op ≠ .lr) (sc : op ≠ .sc) (n : Nat) (d a b : Reg) :
    atomicOp op n d a b = amoOp op n d a b := by
  cases op <;> trivial

section
variable {s : State} {aq rl : BitVec 1} {d a b : Reg} {off : Nat} (r : s.Runs) (hart : s.cur < 20480)
  (idle : (s.ctx s.cur).queuedMem true true = false) (earlier : rl = 1#1 → s.performed s.cur true true 2 = true)
  (address : s.xr a = w64 (0x7F8000000000 + off))
include r hart idle earlier address

section
variable {wd : AmoWidth} (aligned : off % amoWidth wd = 0)
include aligned

/-- An AMO of the own scratchpad. -/
theorem exec_amo_own (free : ownScratchFree s off (amoWidth wd) true) {op : AmoOp} (lr : op ≠ .lr) (sc : op ≠ .sc) :
    let old := s.mem.readN (scratchPa s.cur.gcore off) (amoWidth wd)
    ∃ t, exec (.atomicAmo op wd aq rl d a b) s = .next t ∧
      Wrote s t (scratchPa s.cur.gcore off) (amoBytes op (amoWidth wd) (s.xr b) old) ∧
      WentOn s t (·.setX d.toNat (regOf (amoWidth wd) old)) ∧ Acquired s t aq := by
  have whole := own_aligned (amoWidth_cases wd) free.inside address aligned
  obtain ⟨t, acc, mem, done⟩ := amoOp_own (s := s.begun) (d := d) (b := b) hart address whole free.begun op
  obtain ⟨v, run, went, got, kept⟩ := ownAtomic_ends (aq := aq) r idle earlier acc done
  exact ⟨v, by rw [exec_atomicAmo, atomicOp_of_rmw lr sc, run], wrote_after (kept.trans mem), went, got⟩

/-- A store-conditional of the own scratchpad, its reservation held. -/
theorem exec_sc_own_held (free : ownScratchFree s off (amoWidth wd) true)
    (held : (s.ctx s.cur).resv = some (blk (scratchPa s.cur.gcore off))) :
    ∃ t, exec (.atomicAmo .sc wd aq rl d a b) s = .next t ∧
      Wrote s t (scratchPa s.cur.gcore off) (leBytes (amoWidth wd) (s.xr b).toNat) ∧
      WentOn s t (fun c => { c.setX d.toNat 0#64 with resv := none }) ∧ Acquired s t aq := by
  have whole := own_aligned (amoWidth_cases wd) free.inside address aligned
  obtain ⟨t, acc, mem, done⟩ := scOp_own_held (s := s.begun) (d := d) (b := b) hart address whole free.begun held
  obtain ⟨v, run, went, got, kept⟩ := ownAtomic_ends (aq := aq) r idle earlier acc done
  exact ⟨v, (exec_atomicAmo _ _ _ _ _ _ _ _).trans run, wrote_after (kept.trans mem), went, got⟩

/-- One whose reservation is not. -/
theorem exec_sc_own_lost (free : ownScratchFree s off (amoWidth wd) true)
    (lost : (s.ctx s.cur).resv ≠ some (blk (scratchPa s.cur.gcore off))) :
    ∃ t, exec (.atomicAmo .sc wd aq rl d a b) s = .next t ∧ (∀ p, t.mem.read p = s.mem.read p) ∧
      WentOn s t (fun c => { c.setX d.toNat 1#64 with resv := none }) ∧ Acquired s t aq := by
  have whole := own_aligned (amoWidth_cases wd) free.inside address aligned
  obtain ⟨t, acc, mem, done⟩ := scOp_own_lost (s := s.begun) (d := d) (b := b) hart address whole free.begun lost
  obtain ⟨v, run, went, got, kept⟩ := ownAtomic_ends (aq := aq) r idle earlier acc done
  exact ⟨v, (exec_atomicAmo _ _ _ _ _ _ _ _).trans run, fun p => congrArg (·.read p) (kept.trans mem), went, got⟩

/-- A load-reserve of the own scratchpad. -/
theorem exec_lr_own (free : ownScratchFree s off (amoWidth wd) false) :
    ∃ t, exec (.atomicAmo .lr wd aq rl d a 0#5) s = .next t ∧ (∀ p, t.mem.read p = s.mem.read p) ∧
      WentOn s t (fun c => { c.setX d.toNat (regOf (amoWidth wd) (s.mem.readN (scratchPa s.cur.gcore off) (amoWidth wd))) with
        resv := some (blk (scratchPa s.cur.gcore off)) }) ∧
      Acquired s t aq := by
  have whole := own_aligned (amoWidth_cases wd) free.inside address aligned
  obtain ⟨t, acc, mem, done⟩ := lrOp_own (s := s.begun) (d := d) hart address whole free.begun
  obtain ⟨v, run, went, got, kept⟩ := ownAtomic_ends (aq := aq) r idle earlier acc done
  exact ⟨v, (exec_atomicAmo _ _ _ _ _ _ _ _).trans run, fun p => congrArg (·.read p) (kept.trans mem), went, got⟩

end

/-- A compare and swap of the own scratchpad. -/
theorem exec_cas_own {wd : CasWidth} {n : Nat} (width : wd = .w ∧ n = 4 ∨ wd = .d ∧ n = 8) (aligned : off % n = 0)
    (free : ownScratchFree s off n true) :
    let old := s.mem.readN (scratchPa s.cur.gcore off) n
    ∃ t, exec (.amocas wd aq rl d a b) s = .next t ∧
      WentOn s t (·.setX d.toNat (regOf n old)) ∧ Acquired s t aq ∧
      (leNat old = (s.xr d).toNat % 2 ^ (8 * n) → Wrote s t (scratchPa s.cur.gcore off) (leBytes n (s.xr b).toNat)) ∧
      (leNat old ≠ (s.xr d).toNat % 2 ^ (8 * n) → ∀ p, t.mem.read p = s.mem.read p) := by
  have whole : (s.xr a).toNat % n = 0 := by
    refine own_aligned ?_ free.inside address aligned
    rcases width with ⟨-, w⟩ | ⟨-, w⟩
    · exact .inl w
    · exact .inr (.inl w)
  obtain ⟨t, acc, mem, done⟩ := casOp_own (s := s.begun) (d := d) (b := b) hart address whole free.begun
  obtain ⟨v, run, went, got, kept⟩ := ownAtomic_ends (aq := aq) r idle earlier acc done
  refine ⟨v, (exec_amocas width _ _ _ _ _ _).trans run, went, got, fun same => ?_, fun differs => ?_⟩
  · exact wrote_after (kept.trans (mem.trans (congrArg _ (if_pos same))))
  · exact read_after_none (kept.trans (mem.trans (congrArg _ (if_neg differs))))

/-- One of register pairs. -/
theorem exec_casPair_own (aligned : off % 16 = 0) (free : ownScratchFree s off 16 true)
    (even : d.getLsbD 0 = false ∧ b.getLsbD 0 = false) :
    let old := leNat (s.mem.readN (scratchPa s.cur.gcore off) 16)
    ∃ t, exec (.amocas .q aq rl d a b) s = .next t ∧ Acquired s t aq ∧
      WentOn s t (fun c => if d = 0#5 then c else
        (c.setX d.toNat (w64 old)).setX (d + 1#5).toNat (w64 (old / 2 ^ 64))) ∧
      (old = s.xPair d → Wrote s t (scratchPa s.cur.gcore off) (leBytes 16 (s.xPair b))) ∧
      (old ≠ s.xPair d → ∀ p, t.mem.read p = s.mem.read p) := by
  intro old
  have whole := own_aligned (.inr (.inr rfl)) free.inside address aligned
  obtain ⟨t, acc, mem, done⟩ := casPairOp_own (s := s.begun) hart address whole free.begun even
  obtain ⟨v, run, went, got, kept⟩ : ∃ v, runThread (atomicFrame aq rl (casPairOp d a b)) s = .next v ∧
      WentOn s v (fun c => if d = 0#5 then c else (c.setX d.toNat (w64 old)).setX (d + 1#5).toNat (w64 (old / 2 ^ 64))) ∧
      Acquired s v aq ∧ v.mem = t.mem := by
    by_cases zero : d = 0#5
    · rw [if_pos zero] at done
      simp only [if_pos zero]
      exact ownAtomic_ends_id r idle earlier acc done
    · rw [if_neg zero] at done
      simp only [if_neg zero]
      exact ownAtomic_ends r idle earlier acc done
  refine ⟨v, (exec_amocasPair _ _ _ _ _ _).trans run, got, went, fun same => ?_, fun differs => ?_⟩
  · exact wrote_after (kept.trans (mem.trans (congrArg _ (if_pos same))))
  · exact read_after_none (kept.trans (mem.trans (congrArg _ (if_neg differs))))

end

/-- Settles O19: each atomic is its operation between the same waits and the same acquire, and the own scratchpad answers it. -/
theorem atomics : Obligations.Atomics := by
  refine ⟨fun s aq rl d a b off n r hart idle earlier address aligned => ⟨fun free =>
      ⟨fun op wd width lr sc => ?_, fun wd width held => ?_, fun wd width lost => ?_,
        fun wd width => exec_cas_own r hart idle earlier address width aligned free, fun width evenD evenB => ?_⟩,
      fun free wd width => ?_⟩,
    fun s aq rl d a b r idle earlier => ⟨fun op wd old u lr sc answer => ?_, fun wd n old u width answer => ?_,
      fun wd tg bs u v whole place answer => ?_, fun wd tg u whole place => ⟨fun lost => ?_, fun x v held answer => ?_⟩,
      fun op wd bad => ?_, fun wd n width bad => ?_, fun odd => ?_⟩,
    fun s op wd cw aq d a b r idle held => ⟨?_, ?_⟩⟩
  · subst width
    exact exec_amo_own r hart idle earlier address aligned free lr sc
  · subst width
    exact exec_sc_own_held r hart idle earlier address aligned free held
  · subst width
    exact exec_sc_own_lost r hart idle earlier address aligned free lost
  · subst width
    exact exec_casPair_own r hart idle earlier address aligned free ⟨evenD, evenB⟩
  · subst width
    exact exec_lr_own r hart idle earlier address aligned free
  · rw [exec_atomicAmo, atomicOp_of_rmw lr sc]
    exact runThread_atomicFrame idle r earlier (amoOp_apply (s := s.begun) answer)
  · rw [exec_amocas width]
    exact runThread_atomicFrame idle r earlier (casOp_apply (s := s.begun) answer)
  · rw [exec_atomicAmo]
    exact runThread_atomicFrame idle r earlier (lrOp_apply (s := s.begun) whole place answer)
  · rw [exec_atomicAmo]
    exact runThread_atomicFrame idle r earlier (scOp_lost (s := s.begun) whole place lost)
  · rw [exec_atomicAmo]
    exact runThread_atomicFrame idle r earlier (scOp_held (s := s.begun) whole place held answer)
  · rw [exec_atomicAmo]
    exact runThread_atomicFrame_trapped idle r earlier (atomicOp_misaligned (s := s.begun) op bad)
  · rcases width with w | w | ⟨rfl, rfl, even⟩
    · rw [exec_amocas (.inl w)]
      exact runThread_atomicFrame_trapped idle r earlier (casOp_misaligned (s := s.begun) bad)
    · rw [exec_amocas (.inr w)]
      exact runThread_atomicFrame_trapped idle r earlier (casOp_misaligned (s := s.begun) bad)
    · rw [exec_amocasPair]
      exact runThread_atomicFrame_trapped idle r earlier (casPairOp_misaligned (s := s.begun) even bad)
  · rw [exec_amocasPair]
    exact runThread_atomicFrame_trapped idle r earlier (casPairOp_odd (s := s.begun) odd)
  · rw [exec_atomicAmo]
    exact runThread_waited r (atomicFrame_waits (s := s.begun) idle held)
  · cases cw with
    | w => exact (exec_amocas (.inl ⟨rfl, rfl⟩) _ _ _ _ _ _).trans (runThread_waited r (atomicFrame_waits (s := s.begun) idle held))
    | d => exact (exec_amocas (.inr ⟨rfl, rfl⟩) _ _ _ _ _ _).trans (runThread_waited r (atomicFrame_waits (s := s.begun) idle held))
    | q => exact (exec_amocasPair _ _ _ _ _ _).trans (runThread_waited r (atomicFrame_waits (s := s.begun) idle held))

end Sys2Proof.Machine
end

section
/-! Hints, waits on a reservation and line maintenance (spec/03_encoding.md R67, R77, R78; spec/06_page.md R150, R168 to R171). -/

namespace Sys2Proof.Machine

open Sys2Proof

/-! ### Hints -/

/-- The slot that passes its turns for 32 cycles. -/
def State.spin (s : State) : State := s.modSlot s.cur (fun t => { t with pass := 32 })

theorem exec_ctxSpin {s : State} (r : s.Runs) : ∃ t, exec .ctxSpin s = .next t ∧ (t.slot s.cur).pass = 32 ∧
    (∀ q, t.xr q = s.xr q) ∧ (t.ctx s.cur).pc = s.nextPc ∧ (∀ a, t.mem.read a = s.mem.read a) ∧
    ∀ h, h ≠ s.cur → t.slot h = s.slot h := by
  have spun : s.begun.spin.slot s.cur = { s.slot s.cur with pass := 32 } := State.slot_modSlot_same _ _ _
  have own : s.begun.spin.retire.slot s.cur = _ := s.begun.spin.retire_slot
  have ctx : s.begun.spin.retire.ctx s.cur = _ := State.retire_ctx (u := s.begun.spin) ((congrArg Slot.ctx spun).trans r.slot_ctx)
  have done : modSlot (fun t => { t with pass := 32 }) s.begun = .ok () s.begun.spin := rfl
  refine ⟨s.begun.spin.retire, runThread_ok r done, ?_, fun q => ?_, ?_, fun a => rfl, fun h n => ?_⟩
  · rw [own]
    exact congrArg Slot.pass spun
  · rw [State.xr, show s.begun.spin.retire.cur = s.cur from rfl, ctx]
    rfl
  · rw [ctx]
    rfl
  · rw [State.retire_slot_other s.begun.spin n]
    exact State.slot_modSlot_other _ _ _ _ n

section
variable {s u : State}

theorem exec_pgPref {l a : Reg} (r : s.Runs) {x : Option Target} (place : prefTarget (s.xr a) s.begun = (u, x)) :
    exec (.pgPref l a) s = .next (x.elim u (fun tg => u.prefetch tg 255#8 (s.xr a).toNat (l == 1#5))).retire := by
  refine runThread_ok r ?_
  cases x with
  | none => simp [place]
  | some tg => simp [place]

theorem exec_bmPref {a : Reg} (r : s.Runs) {x : Option Target} (place : prefTarget (s.xr a &&& ~~~0x7F#64) s.begun = (u, x)) :
    exec (.bmPref a) s = .next (x.elim u (fun tg =>
      u.prefetch tg (if tg.a % 256 < 128 then 0x0F#8 else 0xF0#8) (s.xr a &&& ~~~0x7F#64).toNat false)).retire := by
  refine runThread_ok r ?_
  cases x with
  | none => simp only [estate_bind, getX_apply, State.xr_begun, estate_get, place, estate_set, Option.elim]
  | some tg => simp only [estate_bind, getX_apply, State.xr_begun, estate_get, place, estate_set, Option.elim]

/-- A window address has no place in global memory. -/
theorem prefTarget_window {va : Word} (window : inWinRange va.toNat = true) : prefTarget va s = (s, none) := by
  simp only [prefTarget, window, if_true]

theorem retired_begun (r : s.Runs) : Retired s s.begun.retire id s.nextPc := by
  refine retired_of id s.nextPc s.begun ?_ (fun _ _ => rfl) rfl
  rw [id, ← r.slot_ctx]
  rfl

end

/-! ### Waits on a reservation -/

section
variable {s : State}

theorem wrsOp_free (nto : Bool) (free : (s.ctx s.cur).resv = none ∨ (s.slot s.cur).pending = true) : wrsOp nto s = .ok () s := by
  rw [← Option.isNone_iff_eq_none] at free
  simp only [wrsOp, estate_bind, slot_apply, ctx_apply, estate_ite, if_pos free, estate_pure]

/-- The mark of a waiting wrs. -/
def State.markWrs (s : State) (nto : Bool) : State :=
  s.modSlot s.cur (fun t => { t with wait := some { kind := .wrs, a := b2n nto, bits := s.ibits, len := s.ilen } })

theorem wrsOp_waits (nto : Bool) {a : Nat} (held : (s.ctx s.cur).resv = some a) (quiet : (s.slot s.cur).pending = false)
    (unmarked : (s.slot s.cur).wait = none) : wrsOp nto s = .error .wait (s.markWrs nto) := by
  simp [wrsOp, held, quiet, unmarked, setWait, modSlot, wait, State.markWrs]

theorem wrsOp_over (nto : Bool) {a : Nat} {w : WaitMark} (held : (s.ctx s.cur).resv = some a)
    (quiet : (s.slot s.cur).pending = false) (mark : (s.slot s.cur).wait = some w) (ended : w.kind = .wrsOver) :
    wrsOp nto s = if nto then illegal s else .ok () s := by
  simp [wrsOp, held, quiet, mark, ended]

theorem wrs_waits {m : M Unit} {nto : Bool} (r : s.Runs) (waits : m s.begun = .error .wait (s.begun.markWrs nto)) :
    ∃ t, runThread m s = .next t ∧ (t.slot s.cur).wait = some { kind := .wrs, a := b2n nto, bits := s.ibits, len := s.ilen } ∧
      t.ctx s.cur = s.ctx s.cur ∧ (∀ p, t.mem.read p = s.mem.read p) ∧ ∀ h, h ≠ s.cur → t.slot h = s.slot h := by
  have mark : ((s.begun.markWrs nto).slot s.cur) =
      { s.slot s.cur with wait := some { kind := .wrs, a := b2n nto, bits := s.ibits, len := s.ilen } } :=
    State.slot_modSlot_same _ _ _
  refine ⟨_, runThread_wait r waits, ?_, ?_, fun p => rfl, fun h n => ?_⟩
  · rw [State.waitCycles_slot, mark]
  · rw [State.ctx, State.waitCycles_slot, mark, State.ctx]
  · rw [State.waitCycles_slot]
    exact State.slot_modSlot_other _ _ _ _ n

theorem exec_wrsTimeout {h : Hart} {w : WaitMark} (mark : (s.slot h).wait = some w) (waiting : w.kind = .wrs)
    (ends : w.a = 0 ∨ ((s.ctx h).priv ≠ .m ∧ (s.slot h).mstatus.getLsbD 21 = true)) :
    exec (.wrsTimeout h) s = .next (s.setSlot h { s.slot h with wait := some { w with kind := .wrsOver } }) := by
  have bit : (w.a = 0 ∨ ((s.ctx h).priv ≠ .m ∧ wbit (s.slot h).mstatus stTW)) := ends
  refine (show exec (.wrsTimeout h) s = execWrsTimeout h s from rfl).trans (event_some ?_)
  simp only [mark, waiting, true_and, if_pos bit]
  rfl

/-- One whose time is over. -/
theorem exec_wrs_over {w : WaitMark} (r : s.Runs) (mark : (s.slot s.cur).wait = some w) (ended : w.kind = .wrsOver) :
    (∃ t, exec .wrsSto s = .next t ∧ Retired s t id s.nextPc) ∧
      ((s.ctx s.cur).resv ≠ none → (s.slot s.cur).pending = false →
        exec .wrsNto s = .next (s.trapped 2 (s.ibits.setWidth 64))) := by
  refine ⟨retires_id r ?_, fun some quiet => runThread_trapped r ?_⟩
  · by_cases free : (s.ctx s.cur).resv = none ∨ (s.slot s.cur).pending = true
    · exact wrsOp_free (s := s.begun) false free
    · rw [not_or, Bool.not_eq_true] at free
      obtain ⟨some, quiet⟩ := free
      obtain ⟨a, held⟩ := Option.ne_none_iff_exists'.mp some
      exact wrsOp_over (s := s.begun) false held quiet mark ended
  · obtain ⟨a, held⟩ := Option.ne_none_iff_exists'.mp some
    exact wrsOp_over (s := s.begun) true held quiet mark ended

end

/-! ### Line maintenance of global memory -/

section
variable {s u : State} {tg : Target}

theorem maintain_skips (va : Word) (f : State → State) (none : tg.sram = true ∨ tg.attr.cache = 2) : maintain va tg f u = .ok () u := by
  simp [maintain, none]

theorem maintain_applies (va : Word) (f : State → State) (global : tg.sram = false) (cached : tg.attr.cache ≠ 2) :
    maintain va tg f u =
      if (u.cluster u.cur.cl).filling tg.a tg.attr.key then .error .wait u else .ok () (f u) := by
  cases filling : (u.cluster u.cur.cl).filling tg.a tg.attr.key <;>
    simp [maintain, global, cached, waitUnless_apply, filling]

/-- A maintenance instruction of a line, whichever translation gives its place. -/
theorem runThread_maintain {a : Reg} {place : Word → M Target} {f : Target → State → State} (r : s.Runs)
    (idle : (s.ctx s.cur).queuedMem true true = false) (answer : place (s.xr a &&& ~~~0xFF#64) s.begun = .ok tg u) :
    let m : M Unit := do
      waitVecMem
      let va := pageLine (← getX a)
      let t ← place va
      maintain va t (f t)
    (tg.sram = true ∨ tg.attr.cache = 2 → runThread m s = .next u.retire) ∧
      (tg.sram = false → tg.attr.cache ≠ 2 → (u.cluster u.cur.cl).filling tg.a tg.attr.key = false →
        runThread m s = .next (f tg u).retire) ∧
      (tg.sram = false → tg.attr.cache ≠ 2 → (u.cluster u.cur.cl).filling tg.a tg.attr.key = true →
        runThread m s = .next (u.waitCycles u.cur)) := by
  have ready : waitVecMem s.begun = .ok () s.begun := waitVecMem_free idle
  have line : place (pageLine (s.begun.xr a)) s.begun = .ok tg u := answer
  refine ⟨fun skip => runThread_ok r ?_, fun global cached free => runThread_ok r ?_, fun global cached filling => runThread_wait r ?_⟩
  · simp only [estate_bind, ready, getX_apply, line, maintain_skips _ _ skip]
  · simp only [estate_bind, ready, getX_apply, line, maintain_applies _ _ global cached, free, Bool.false_eq_true, if_false]
  · simp only [estate_bind, ready, getX_apply, line, maintain_applies _ _ global cached, filling, if_true]

theorem runThread_pgZero {a : Reg} (r : s.Runs) (idle : (s.ctx s.cur).queuedMem true true = false)
    (place : translate .store (s.xr a &&& ~~~0xFF#64) (s.xr a &&& ~~~0xFF#64) 256 s.begun = .ok tg u) (global : tg.sram = false) :
    (tg.attr.cache = 2 ∨ (u.cluster u.cur.cl).filling tg.a tg.attr.key = false →
      exec (.pgZero a) s = .next (u.zeroGlobal u.cur tg (fillClass (u.ctx u.cur) tg.attr) (u.ctx u.cur).asid).retire) ∧
    (tg.attr.cache ≠ 2 → (u.cluster u.cur.cl).filling tg.a tg.attr.key = true →
      exec (.pgZero a) s = .next (u.waitCycles u.cur)) := by
  have ready : waitVecMem s.begun = .ok () s.begun := waitVecMem_free idle
  have line : translate .store (pageLine (s.begun.xr a)) (pageLine (s.begun.xr a)) 256 s.begun = .ok tg u := place
  refine ⟨fun free => runThread_ok r ?_, fun cached filling => runThread_wait r ?_⟩
  · have go : (decide (tg.attr.cache = 2) || !(u.cluster u.cur.cl).filling tg.a tg.attr.key) = true := by
      rcases free with h | h <;> simp [h]
    simp only [estate_bind, ready, getX_apply, line, global, Bool.false_eq_true, if_false, estate_get, ctx_apply,
      waitUnless_apply, go, if_true, upd_apply]
  · simp only [estate_bind, ready, getX_apply, line, global, Bool.false_eq_true, if_false, estate_get, ctx_apply,
      waitUnless_apply, filling, decide_eq_false cached, Bool.not_true, Bool.or_self]

end

/-! ### Line maintenance of on-package SRAM -/

theorem estate_tryCatch_ok {ε α : Type} {x : EStateM ε State α} {f : ε → EStateM ε State α} {s t : State} {v : α}
    (done : x s = .ok v t) : tryCatch x f s = .ok v t := by
  simp [tryCatch, tryCatchThe, MonadExceptOf.tryCatch, EStateM.tryCatch, done]

theorem Memory.writeN_append (m : Memory) (a : Nat) (xs ys : List Byte) :
    m.writeN a (xs ++ ys) = (m.writeN a xs).writeN (a + xs.length) ys := by
  induction xs generalizing m a with
  | nil => rfl
  | cons x xs ih =>
    simp only [List.cons_append, Memory.writeN, List.length_cons, ih]
    rw [Nat.add_right_comm, Nat.add_assoc]

section
variable {s : State} {off n : Nat} {st : Bool}

theorem State.accessedOwn_portStore (o : Nat) (bs : List Byte) (clean : s.poison = []) :
    s.AccessedOwn (s.portStore s.cur.gcore o bs (some s.cur)) := State.accessedOwn_putBytes _ bs clean

theorem State.portStore_mem (g o : Nat) (bs : List Byte) (h : Option Hart) :
    (s.portStore g o bs h).mem = s.mem.writeN (scratchPa g o) bs := rfl

theorem zeroOwn_own (free : ownScratchFree s off n st) (o : Nat) :
    s.zeroOwn s.cur.gcore o s.cur = some (s.portStore s.cur.gcore o zeros64 (some s.cur)) := by
  have acc := State.accessedOwn_portStore o zeros64 free.clean
  have log := logScent_own (free.accessed acc) s.cur.gcore s.cur.slot 0 0 6 o
  rw [acc.cur] at log
  rw [State.zeroOwn, imposed_own free, Option.map_some, log]

/-- The parts zeroed one after another. -/
theorem zeroOwn_parts {g : Nat} (own : s.cur.gcore = g) (free : ownScratchFree s off n st) (ds : List Nat) :
    ∃ t, ds.foldl (fun (r : Option State) d => r.bind (fun u => u.zeroOwn g (off + d) u.cur)) (some s) = some t ∧
      s.AccessedOwn t ∧ t.mem = ds.foldl (fun m d => m.writeN (scratchPa g (off + d)) zeros64) s.mem := by
  induction ds generalizing s with
  | nil => exact ⟨s, rfl, .refl, rfl⟩
  | cons d ds ih =>
    have acc := State.accessedOwn_portStore (off + d) zeros64 free.clean
    obtain ⟨t, run, rest, mem⟩ := ih (by rw [acc.cur, own]) (free.accessed acc)
    subst own
    refine ⟨t, ?_, acc.trans rest, ?_⟩
    · rw [List.foldl_cons, Option.bind_some, zeroOwn_own free, run]
    · rw [mem, State.portStore_mem, List.foldl_cons]

/-- Four adjacent parts are the line. -/
theorem writeN_parts (m : Memory) (g off : Nat) :
    [0, 64, 128, 192].foldl (fun m d => m.writeN (scratchPa g (off + d)) zeros64) m = m.writeN (scratchPa g off) zeros256 := by
  have split : zeros256 = zeros64 ++ (zeros64 ++ (zeros64 ++ zeros64)) := by
    simp only [zeros256, zeros64, List.replicate_append_replicate]
  have part (d : Nat) : scratchPa g (off + d) = scratchPa g off + d := by
    unfold scratchPa
    omega
  have len : zeros64.length = 64 := List.length_replicate
  simp only [split, Memory.writeN_append, len, List.foldl_cons, List.foldl_nil, part, Nat.add_zero, Nat.add_assoc, Nat.reduceAdd]

theorem zeroSram_own (free : ownScratchFree s off 256 true) (hart : s.cur < 20480) :
    ∃ t, zeroSram (ownTarget s.cur.gcore off) s = .ok () t ∧ s.AccessedOwn t ∧
      t.mem = s.mem.writeN (scratchPa s.cur.gcore off) zeros256 := by
  obtain ⟨place, core⟩ := place_own free hart
  obtain ⟨t, run, acc, mem⟩ := zeroOwn_parts rfl free [0, 64, 128, 192]
  refine ⟨t, ?_, acc, mem.trans (writeN_parts _ _ _)⟩
  simp only [zeroSram, ownTarget, estate_bind, stallSram_own free, estate_get, place, if_true, core, run, estate_set]

variable {va : Word} (address : va = w64 (0x7F8000000000 + off)) (hart : s.cur < 20480)
include address hart

/-- The check of a maintenance instruction finds the own scratchpad as a load does. -/
theorem translateRW_own (free : ownScratchFree s off 256 st) :
    translateRW va s = .ok (ownTarget s.cur.gcore off) (s.wonMem s.cur) := by
  obtain ⟨range, -⟩ := ownWindow address free.inside
  rw [translateRW, if_pos range]
  exact estate_tryCatch_ok (translate_own free hart va address (by decide))

end

/-- Nothing is done to a line of the own scratchpad. -/
theorem runThread_maintain_own {s : State} {off : Nat} {a : Reg} (r : s.Runs)
    (idle : (s.ctx s.cur).queuedMem true true = false) {place : Word → M Target} {f : Target → State → State}
    (answer : place (s.xr a &&& ~~~0xFF#64) s.begun = .ok (ownTarget s.cur.gcore off) (s.begun.wonMem s.cur)) :
    ∃ t, runThread (do
        waitVecMem
        let va := pageLine (← getX a)
        let t ← place va
        maintain va t (f t)) s = .next t ∧
      (∀ p, t.mem.read p = s.mem.read p) ∧ WentOn s t id ∧ t.clusters = s.clusters := by
  have won : s.begun.AccessedOwn (s.begun.wonMem s.cur) := State.accessedOwn_wonMem
  obtain ⟨skip, -⟩ := runThread_maintain (f := f) r idle answer
  exact ⟨_, skip (.inl rfl), fun _ => rfl, won.wentOn r, won.clusters⟩

section
variable {s : State} {off : Nat} {a : Reg} (r : s.Runs) (hart : s.cur < 20480)
  (idle : (s.ctx s.cur).queuedMem true true = false) (address : s.xr a &&& ~~~0xFF#64 = w64 (0x7F8000000000 + off))
include r hart idle address

theorem exec_pgZero_own (free : ownScratchFree s off 256 true) : ∃ t, exec (.pgZero a) s = .next t ∧
    Wrote s t (scratchPa s.cur.gcore off) (List.replicate 256 0#8) ∧ WentOn s t id ∧ t.clusters = s.clusters := by
  have ready : waitVecMem s.begun = .ok () s.begun := waitVecMem_free idle
  have place : translate .store (pageLine (s.begun.xr a)) (pageLine (s.begun.xr a)) 256 s.begun = _ :=
    translate_own free.begun hart _ address (by decide)
  have won : s.begun.AccessedOwn (s.begun.wonMem s.cur) := State.accessedOwn_wonMem
  obtain ⟨t, run, acc, mem⟩ := zeroSram_own (free.begun.accessed won) hart
  have all := won.trans acc
  refine ⟨t.retire, runThread_ok r ?_, wrote_after (bs := zeros256) mem, all.wentOn r, all.clusters⟩
  simp only [estate_bind, ready, getX_apply, place, ownTarget, if_true]
  exact run

theorem exec_maintain_own (free : ownScratchFree s off 256 false) :
    ∀ i ∈ [Instr.pgClean a, .pgInval a, .pgFlush a], ∃ t, exec i s = .next t ∧
      (∀ p, t.mem.read p = s.mem.read p) ∧ WentOn s t id ∧ t.clusters = s.clusters := by
  have rw := translateRW_own (s := s.begun) address hart free.begun
  have inval := translate_own (s := s.begun) free.begun hart (acc := .inval) (s.xr a &&& ~~~0xFF#64) address (by decide)
  simp only [List.forall_mem_cons, List.not_mem_nil, false_imp_iff, implies_true, and_true]
  exact ⟨runThread_maintain_own r idle rw,
    runThread_maintain_own (place := fun va => translate .inval va va 256) r idle inval,
    runThread_maintain_own r idle rw⟩

end

/-! ### The lines of the caches -/

theorem State.discardLine_l2 (s : State) (h : Hart) (a k : Nat) :
    ((s.discardLine h a).cluster k).l2 = (s.cluster k).l2.filter (fun l => l.addr != down a 256) :=
  congrArg Cluster.l2 (Tab.get_map s.clusters (fun _ c => c.dropLine a) {} k rfl)

/-- One sector of a write-back. -/
def L2Line.putSector (l : L2Line) (k : Nat) (s : State) (i : Nat) : State :=
  if l.dirty.getLsbD i then
    let e : ErrRec := { kind := 3, asid := l.asid, cl := k, addr := paOf (l.addr + 32 * i), inj := s.injected.contains (l.addr + 32 * i) }
    (if l.poison.getLsbD i then s.error e else s).memPut (l.addr + 32 * i) l.key (l.sector i) (l.poison.getLsbD i) e
  else s

theorem State.writeBack_eq (s : State) (k : Nat) (l : L2Line) : s.writeBack k l = (List.range 8).foldl (l.putSector k) s := rfl

theorem State.memPut_clusters (s : State) (b key : Nat) (d : BitVec 256) (pois : Bool) (e : ErrRec) :
    (s.memPut b key d pois e).clusters = s.clusters := by
  unfold State.memPut
  split
  · unfold State.emptyKey
    split <;> rfl
  · cases pois <;> dsimp only <;> split <;> rfl

theorem L2Line.putSector_clusters (l : L2Line) (k : Nat) (s : State) (i : Nat) : (l.putSector k s i).clusters = s.clusters := by
  unfold L2Line.putSector
  split
  · rw [State.memPut_clusters]
    split <;> rfl
  · rfl

theorem State.writeBack_clusters (s : State) (k : Nat) (l : L2Line) : (s.writeBack k l).clusters = s.clusters := by
  rw [State.writeBack_eq]
  induction List.range 8 generalizing s with
  | nil => rfl
  | cons i is ih => rw [List.foldl_cons, ih, l.putSector_clusters]

theorem State.writeBacks_clusters (ls : List (Nat × L2Line)) (s : State) :
    (ls.foldl (fun (s : State) (p : Nat × L2Line) => s.writeBack p.1 p.2) s).clusters = s.clusters := by
  induction ls generalizing s with
  | nil => rfl
  | cons p ls ih => rw [List.foldl_cons, ih, s.writeBack_clusters]

theorem State.flushLine_l2 (s : State) (h : Hart) (a k : Nat) :
    ((s.flushLine h a).cluster k).l2 = (s.cluster k).l2.filter (fun l => l.addr != down a 256) := by
  rw [State.flushLine, State.discardLine_l2, State.cluster, State.cluster]
  exact congrArg (fun cs : Tab Cluster => (cs.get {} k).l2.filter (fun l => l.addr != down a 256)) (State.writeBacks_clusters _ s)

theorem Cluster.line_some {c : Cluster} {a key : Nat} {l : L2Line} (found : c.line a key = some l) :
    l.addr = down a 256 ∧ l.key = key := by
  have hit := List.find?_some found
  rwa [Bool.and_eq_true, beq_iff_eq, beq_iff_eq] at hit

/-- A plaintext block put into memory. -/
theorem State.memPut_mem (s : State) (b : Nat) (d : BitVec 256) (pois : Bool) (e : ErrRec) :
    (s.memPut b 0 d pois e).mem = s.mem.writeN b (vecBytes d 32) := by
  have plain : s.keyFor b 0 = some none := rfl
  simp only [State.memPut, plain]
  cases pois <;> split <;> rfl

theorem L2Line.putSector_mem {l : L2Line} (plain : l.key = 0) (k : Nat) (s : State) (i : Nat) : (l.putSector k s i).mem =
    if l.dirty.getLsbD i then s.mem.writeN (l.addr + 32 * i) (vecBytes (l.sector i) 32) else s.mem := by
  unfold L2Line.putSector
  split
  · rw [plain, State.memPut_mem]
    split <;> rfl
  · rfl

/-- Byte j of a vector's bytes. -/
theorem vecBytes_get {d : BitVec 256} {j : Nat} (hj : j < 32) (inside : j < (vecBytes d 32).length) :
    (vecBytes d 32)[j] = d.extractLsb' (8 * j) 8 := by
  have byte : (vecBytes d 32).getD j 0#8 = _ := leBytes_getD d.toNat hj
  rw [List.getD_eq_getElem _ _ inside] at byte
  refine byte.trans (BitVec.eq_of_toNat_eq ?_)
  rw [BitVec.extractLsb'_toNat, BitVec.toNat_ofNat, Nat.shiftRight_eq_div_pow, Nat.pow_mul]

/-- Each dirty sector of a plaintext line is in memory after its write-back: the sectors lie apart. -/
theorem read_putSectors {l : L2Line} (plain : l.key = 0) (k : Nat) (s : State) (n : Nat) {i j : Nat} (hi : i < n)
    (dirty : l.dirty.getLsbD i = true) (hj : j < 32) :
    ((List.range n).foldl (l.putSector k) s).mem.read (l.addr + 32 * i + j) = (l.sector i).extractLsb' (8 * j) 8 := by
  have len (d : BitVec 256) : (vecBytes d 32).length = 32 := length_leBytes 32 _
  induction n with
  | zero => omega
  | succ n ih =>
    rw [List.range_succ, List.foldl_append, List.foldl_cons, List.foldl_nil, L2Line.putSector_mem plain]
    by_cases last : i = n
    · subst last
      have inside : j < (vecBytes (l.sector i) 32).length := by rwa [len]
      rw [if_pos dirty, Memory.read_writeN_inside _ _ _ _ inside, vecBytes_get hj]
    · have before := ih (by omega)
      split
      · rw [Memory.read_writeN_outside _ _ _ _ (by omega), before]
      · exact before

theorem State.cleanLine_line {s : State} {h : Hart} {a key : Nat} {l : L2Line} (found : (s.cluster h.cl).line a key = some l) :
    ((s.cleanLine h a key).cluster h.cl).line a key = some { l with dirty := 0#8 } ∧
      (key = 0 → ∀ i j, i < 8 → l.dirty.getLsbD i = true → j < 32 →
        (s.cleanLine h a key).mem.read (l.addr + 32 * i + j) = (l.sector i).extractLsb' (8 * j) 8) := by
  obtain ⟨addr, named⟩ := Cluster.line_some found
  constructor
  · rw [State.cleanLine, found]
    dsimp only
    rw [show ∀ (u : State) (x : List Unacked), ({ u with acks := x } : State).cluster h.cl = u.cluster h.cl from fun _ _ => rfl,
      State.cluster_modCluster_same]
    simp only [Cluster.line, Cluster.putLine, L2Line.clean, List.find?_cons, addr, named, beq_self_eq_true, Bool.and_self]
  · intro plain i j hi dirty hj
    subst plain
    rw [State.cleanLine, found]
    exact read_putSectors named h.cl s 8 hi dirty hj

/-! ### What a translation needs and marks -/

theorem TlbEnt.marked_inval {e : TlbEnt} (accessed : e.a = true) :
    e.marked .inval = true ∧ (e.d = false → e.marked .store = false) := by
  refine ⟨?_, fun d => ?_⟩
  · rw [TlbEnt.marked, accessed]
    exact Bool.or_true _
  · rw [TlbEnt.marked, d, Bool.false_or, accessed]
    rfl

theorem State.setAD_inval (s : State) (k pa cos asid : Nat) {pte : Nat} (accessed : pte.testBit 6 = true) :
    s.setAD k pa pte cos asid Acc.inval.dirties = s := by
  have same : pte ||| 0x40 ||| 0 = pte := by
    refine Nat.eq_of_testBit_eq fun i => ?_
    rw [Nat.or_zero, Nat.testBit_or, show 0x40 = 2 ^ 6 from rfl, Nat.testBit_two_pow]
    by_cases six : 6 = i
    · subst six
      rw [accessed]
      rfl
    · rw [decide_eq_false six, Bool.or_false]
  exact if_pos same

/-- Settles O21: each hint, wait and line instruction by its lemma. -/
theorem hintsWaitsAndLines : Obligations.HintsWaitsAndLines := by
  refine ⟨⟨fun s w r => retires_id r rfl, fun s r => exec_ctxSpin r, fun s u l a r => ⟨fun tg place => exec_pgPref r place,
        fun none => exec_pgPref r none⟩,
      fun s u a r => ⟨fun tg place => exec_bmPref r place, fun none => exec_bmPref r none⟩,
      fun s l a r => ⟨fun window => ⟨_, exec_pgPref r (prefTarget_window window), retired_begun r⟩,
        fun window => ⟨_, exec_bmPref r (prefTarget_window window), retired_begun r⟩⟩⟩,
    ⟨fun s r free => ⟨retires_id r (wrsOp_free (s := s.begun) true free), retires_id r (wrsOp_free (s := s.begun) false free)⟩,
      fun s a r held quiet unmarked => ⟨wrs_waits r (wrsOp_waits (s := s.begun) false held quiet unmarked),
        wrs_waits r (wrsOp_waits (s := s.begun) true held quiet unmarked)⟩,
      fun s h w mark waiting ends => exec_wrsTimeout mark waiting ends, fun s w r mark ended => exec_wrs_over r mark ended⟩,
    fun s u a tg r idle place global => runThread_pgZero r idle place global,
    fun s u a tg r idle place => runThread_maintain (place := fun va => translate .inval va va 256) r idle place,
    fun s u a tg r idle place => ?_,
    fun s a off r hart idle address => ⟨exec_pgZero_own r hart idle address, exec_maintain_own r hart idle address⟩,
    fun s h a k => ⟨s.discardLine_l2 h a k, s.flushLine_l2 h a k⟩, fun s h a key l found => State.cleanLine_line found,
    fun e accessed => TlbEnt.marked_inval accessed, fun s k pa pte cos asid accessed => s.setAD_inval k pa cos asid accessed⟩
  obtain ⟨cleanSkip, cleanDone, cleanWait⟩ := runThread_maintain (f := fun t s => s.cleanLine s.cur t.a t.attr.key) r idle place
  obtain ⟨flushSkip, flushDone, flushWait⟩ := runThread_maintain (f := fun t s => s.flushLine s.cur t.a) r idle place
  exact ⟨fun skip => ⟨cleanSkip skip, flushSkip skip⟩,
    fun global cached free => ⟨cleanDone global cached free, flushDone global cached free⟩,
    fun global cached filling => ⟨cleanWait global cached filling, flushWait global cached filling⟩⟩

end Sys2Proof.Machine
end

section
/-! The standard vector instructions at the head of the sequencer: their words, their second operand, and the elementwise form
(spec/03_encoding.md R67; spec/08_vector.md R229; the meanings are the standard's, log entry 13). -/

namespace Sys2Proof.Machine

open Sys2Proof

/-! ### Words -/

section
variable (f6 : BitVec 6) (m : BitVec 1) (b a : Reg) (f3 : BitVec 3) (d : Reg) (op : BitVec 7)

theorem fF6_rzWord : fF6 (rzWord (f6 ++ m) b a f3 d op) = f6.toNat := by
  have part : (rzWord (f6 ++ m) b a f3 d op).extractLsb' 26 6 = (fF7 (rzWord (f6 ++ m) b a f3 d op)).extractLsb' 1 6 := by
    ext i hi
    simp only [fF7, BitVec.getElem_extractLsb', BitVec.getLsbD_extractLsb']
    rw [decide_eq_true (by omega), Bool.true_and, ← Nat.add_assoc]
  rw [fF6, part, fF7_rzWord, BitVec.extractLsb'_append_eq_of_le (by decide)]
  simp

theorem fVm_rzWord : fVm (rzWord (f6 ++ m) b a f3 d op) = (m == 1#1) := by
  have part : fVm (rzWord (f6 ++ m) b a f3 d op) = (fF7 (rzWord (f6 ++ m) b a f3 d op)).getLsbD 0 := by
    rw [fF7, BitVec.getLsbD_extractLsb']
    rfl
  have low : ∀ m : BitVec 1, m.getLsbD 0 = (m == 1#1) := by decide
  rw [part, fF7_rzWord, BitVec.getLsbD_append]
  exact low m

variable {f6 m b a f3 d op} {e : SeqEnt} (bits : e.bits = rzWord (f6 ++ m) b a f3 d op) (c : Ctx)
include bits

/-- The registers of a queued word, and its mask bit. -/
theorem instr_regs : (e.instr c).vd = d.toNat ∧ (e.instr c).s2 = b.toNat ∧ (e.instr c).s1 = a.toNat ∧
    (e.instr c).vm = (m == 1#1) := by
  simp only [VI.vd, VI.s2, VI.s1, VI.vm, SeqEnt.instr, bits, fRd_rzWord, fRs2_rzWord, fRs1_rzWord, fVm_rzWord, and_self]

/-- The fields that say which instruction it is. -/
theorem instr_op : fOp (e.instr c).w = op ∧ fF3 (e.instr c).w = f3 ∧ fF6 (e.instr c).w = f6.toNat := by
  simp only [SeqEnt.instr, bits, fOp_rzWord, fF3_rzWord, fF6_rzWord, and_self]

end

section
variable {x : VI} {s : State} (standard : fOp x.w = 0x57#7)
include standard

theorem run_opi (form : fF3 x.w = 0#3 ∨ fF3 x.w = 3#3 ∨ fF3 x.w = 4#3) (narrow : fF6 x.w < 0x30) :
    x.run s = x.opi (s.ctx s.cur).vxrm.toNat s := by
  have sums : ¬ (fF6 x.w = 0x30 ∨ fF6 x.w = 0x31) := by omega
  rcases form with f3 | f3 | f3 <;> simp [VI.run, VI.runVec, standard, f3, sums]

theorem run_opm (form : fF3 x.w = 2#3 ∨ fF3 x.w = 6#3) : x.run s = x.opm (s.ctx s.cur).vxrm.toNat s := by
  rcases form with f3 | f3 <;> simp [VI.run, VI.runVec, standard, f3]

theorem run_opf (form : fF3 x.w = 1#3 ∨ fF3 x.w = 5#3) : x.run s = x.opf s := by
  rcases form with f3 | f3 <;> simp [VI.run, VI.runVec, standard, f3]

end

/-! ### The shape of groups -/

section
variable {e : SeqEnt} {q g : Nat} (ty : VTyped e q g)
include ty

theorem VTyped.vl_le : e.vl ≤ 512 := by
  obtain ⟨m, max, le, -⟩ := ty
  refine le.trans ?_
  have codes : ∀ sew < 8, ∀ lmul < 8, sew < 4 → (lmul < 4 → 512 * 2 ^ lmul / (8 * 2 ^ sew) ≤ 512) ∧
      512 / 2 ^ (8 - lmul) / (8 * 2 ^ sew) ≤ 512 := by decide
  unfold vlmaxOf at max
  dsimp only at max
  split at max
  · cases max
  · next legal =>
    have sew : wfld e.vtype 5 3 < 4 := by omega
    have lmul : wfld e.vtype 2 0 < 8 := Nat.mod_lt _ (by decide)
    obtain ⟨whole, part⟩ := codes _ (by omega) _ lmul sew
    split at max
    · next low => exact (Option.some.inj max) ▸ whole low
    · split at max
      · cases max
      · exact (Option.some.inj max) ▸ part

theorem VTyped.width_bounds : 8 ≤ 8 * 2 ^ q ∧ 8 * 2 ^ q ≤ 64 := by
  obtain ⟨-, hq, -⟩ := ty.fields
  have : ∀ k < 4, 8 ≤ 8 * 2 ^ k ∧ 8 * 2 ^ k ≤ 64 := by decide
  exact this q hq

end

theorem VI.overlapOk_same (x : VI) (vd r w : Nat) : x.overlapOk vd w r w = true := by
  unfold VI.overlapOk
  split
  · rfl
  · rw [if_pos rfl]

/-! ### The second operand -/

/-- Element i of the second operand: a vector element, an immediate, or an x or f register. -/
def secondOf (c : Ctx) (e : SeqEnt) (q : Nat) (f6 : BitVec 6) (a : Reg) (f3 : BitVec 3) (i : Nat) : Nat :=
  match f3.toNat with
  | 3 => if 0x25 ≤ f6.toNat then a.toNat else uint (sint a.toNat 5) (8 * 2 ^ q)
  | 4 | 6 => e.op1.toNat % 2 ^ (8 * 2 ^ q)
  | 5 => if q = 3 then e.op1.toNat else unbox .s e.op1
  | _ => c.elem a.toNat (8 * 2 ^ q) i

theorem immUnsigned_of {k : Nat} (fits : k ∉ [0x0c, 0x0e, 0x0f]) : immUnsigned k = decide (0x25 ≤ k) := by
  simp only [List.mem_cons, List.not_mem_nil, or_false, not_or] at fits
  obtain ⟨gather, up, down⟩ := fits
  simp only [immUnsigned, beq_false_of_ne gather, beq_false_of_ne up, beq_false_of_ne down, Bool.or_false]

/-- A second operand is a vector in the forms VV only. -/
theorem intSrc_vec {x : VI} {f3 : BitVec 3} {w : Nat} {im : Bool} (form : fF3 x.w = f3) (vec : x.intSrc w im = .vec) :
    f3.toNat < 3 := by
  subst form
  unfold VI.intSrc at vec
  split at vec
  · omega
  · omega
  · omega
  · cases vec
  · cases vec

theorem fpSrc_vec {x : VI} {f3 : BitVec 3} {w : Nat} (form : fF3 x.w = f3) (vec : x.fpSrc w = .vec) : f3.toNat < 3 := by
  subst form
  unfold VI.fpSrc at vec
  split at vec
  · next one =>
    rw [one]
    decide
  · cases vec

theorem unbox_s_lt (v : Word) : unbox .s v < 2 ^ 32 := by
  have width : fmtWidth .s = 32 := rfl
  unfold unbox
  dsimp only
  rw [width]
  split
  · exact Nat.mod_lt _ (by decide)
  · decide

section
variable {e : SeqEnt} {q g : Nat} (ty : VTyped e q g) (c : Ctx) {f6 : BitVec 6} {m : BitVec 1} {b a : Reg} {f3 : BitVec 3}
  {d : Reg} {op : BitVec 7}
include ty

theorem secondOf_lt (i : Nat) (real : f3 = 5#3 → 2 ≤ q) : secondOf c e q f6 a f3 i < 2 ^ (8 * 2 ^ q) := by
  obtain ⟨hw, -⟩ := ty.width
  obtain ⟨eight, -⟩ := ty.width_bounds
  obtain ⟨-, hq, -⟩ := ty.fields
  have byte : 2 ^ 8 ≤ 2 ^ (8 * 2 ^ q) := Nat.pow_le_pow_right (by decide) eight
  unfold secondOf
  split
  · split
    · have := a.isLt
      omega
    · exact uint_lt _ _
  · exact Nat.mod_lt _ (Nat.two_pow_pos _)
  · exact Nat.mod_lt _ (Nat.two_pow_pos _)
  · next five =>
    have two := real (BitVec.eq_of_toNat_eq five)
    split
    · next three =>
      subst three
      exact e.op1.isLt
    · rw [show q = 2 by omega]
      exact unbox_s_lt _
  · exact c.elem_lt _ hw i

variable (bits : e.bits = rzWord (f6 ++ m) b a f3 d op)
include bits

/-- The operand of an integer instruction whose immediate is unsigned where it shifts. -/
theorem srcElem_opi (form : f3 = 0#3 ∨ f3 = 3#3 ∨ f3 = 4#3) (fits : f6.toNat ∉ [0x0c, 0x0e, 0x0f]) (i : Nat) :
    (e.instr c).srcElem c ((e.instr c).intSrc (8 * 2 ^ q) (immUnsigned f6.toNat)) (8 * 2 ^ q) i = secondOf c e q f6 a f3 i := by
  obtain ⟨-, -, s1, -⟩ := instr_regs bits c
  obtain ⟨-, fF3, -⟩ := instr_op bits c
  have lt := secondOf_lt ty c (f6 := f6) (a := a) (f3 := f3) i fun five => by
    subst five
    exact absurd form (by decide)
  rw [VI.intSrc, fF3, immUnsigned_of fits]
  rcases form with rfl | rfl | rfl
  · exact congrArg (fun r => c.elem r _ i) s1
  · refine Eq.trans ?_ (Nat.mod_eq_of_lt lt)
    show (if decide (0x25 ≤ f6.toNat) = true then _ else _) % _ = _
    rw [s1]
    simp only [decide_eq_true_eq]
    rfl
  · exact Nat.mod_mod _ _

omit ty in
/-- That of a multiplication or a widening instruction. -/
theorem srcElem_opm (form : f3 = 2#3 ∨ f3 = 6#3) (i : Nat) :
    (e.instr c).srcElem c ((e.instr c).intSrc (8 * 2 ^ q) false) (8 * 2 ^ q) i = secondOf c e q f6 a f3 i := by
  obtain ⟨-, -, s1, -⟩ := instr_regs bits c
  obtain ⟨-, fF3, -⟩ := instr_op bits c
  rw [VI.intSrc, fF3]
  rcases form with rfl | rfl
  · exact congrArg (fun r => c.elem r _ i) s1
  · exact Nat.mod_mod _ _

/-- That of a floating-point instruction. -/
theorem srcElem_opf (form : f3 = 1#3 ∨ f3 = 5#3) (two : 2 ≤ q) (i : Nat) :
    (e.instr c).srcElem c ((e.instr c).fpSrc (8 * 2 ^ q)) (8 * 2 ^ q) i = secondOf c e q f6 a f3 i := by
  obtain ⟨-, -, s1, -⟩ := instr_regs bits c
  obtain ⟨-, fF3, -⟩ := instr_op bits c
  have lt := secondOf_lt ty c (f6 := f6) (a := a) (f3 := f3) i fun _ => two
  obtain ⟨-, hq, -⟩ := ty.fields
  have double : 8 * 2 ^ q = 64 ↔ q = 3 := by
    obtain rfl | rfl : q = 2 ∨ q = 3 := by omega
    · decide
    · decide
  rw [VI.fpSrc, fF3]
  rcases form with rfl | rfl
  · exact congrArg (fun r => c.elem r _ i) s1
  · refine Eq.trans ?_ (Nat.mod_eq_of_lt lt)
    rw [if_neg (by decide)]
    show (if 8 * 2 ^ q = 64 then _ else _) % _ = _
    simp only [double]
    rfl

end

/-! ### Results of a group of any width -/

/-- The flags of a result are among those of them all. -/
theorem flagsOf_bits {rs : List VRes} {r : VRes} (live : r ∈ rs) : (flagsOf rs).bits ||| r.fl.bits = (flagsOf rs).bits := by
  have fold : ∀ (rs : List VRes) (f : FFlags), r ∈ rs ∨ f.bits ||| r.fl.bits = f.bits →
      let z := rs.foldl (fun f r => f.join r.fl) f
      z.bits ||| r.fl.bits = z.bits := by
    intro rs
    induction rs with
    | nil => exact fun f among => among.resolve_left (List.not_mem_nil)
    | cons z rs ih =>
      intro f among
      refine ih (f.join z.fl) ?_
      rw [FFlags.bits_join]
      rcases among with member | before
      · rcases List.mem_cons.mp member with rfl | later
        · exact .inr (by rw [Nat.or_assoc, Nat.or_self])
        · exact .inl later
      · exact .inr (by rw [Nat.or_right_comm, before])
  exact fold rs {} (.inl live)

section
variable {s : State} {h : Hart} {e : SeqEnt} {rest : List SeqEnt}

/-- An instruction at the head of the sequencer that writes the results of its active elements into n registers at a width, and
has their effects. -/
theorem head_results {u : State} {fn : Nat → VRes} {n w base : Nat} (r : HeadRuns s h e rest) (hw : 0 < w) (dvd : w ∣ 512) :
    let x := e.instr (s.ctx h)
    let rs := x.results (s.ctx h) fn
    x.total w = n * 512 / w → x.run (s.atHead h e) = .ok () u →
    (s.atHead h e).Leaves u ((x.written (s.ctx h) base 0 w (valuesOf rs)).effects (liveOf rs)) →
    (∀ i, (fn i).v < 2 ^ w) →
    ∃ t, exec (.sequencerHeadExecute h) s = .next t ∧
      VecResult s t h e rest x.vd n w (x.active (s.ctx h)) (fun i => (fn i).v) ∧
      (t.ctx h).fcsr = (s.ctx h).fcsr ||| w64 (flagsOf (liveOf rs)).bits := by
  intro x rs total run left width
  obtain ⟨seq, fcsr, -⟩ := x.written_keeps (s.ctx h) base 0 w (valuesOf rs)
  have same := Ctx.effects_sameBut (x.written (s.ctx h) base 0 w (valuesOf rs)) (liveOf rs)
  obtain ⟨t, ends, mem, ctx⟩ := head_completes r run left (same.seq.trans seq)
  refine ⟨t, ends, vecResult_of_written (x := x) hw dvd rfl rfl r.vs total mem ctx same (fun i _ _ => width i)
    (fun i hi a => ⟨a, (x.valuesOf_results_getD (s.ctx h) fn hi).trans (if_pos a)⟩) (fun i _ a => .inl a), ?_⟩
  rw [ctx, ← fcsr]
  exact Ctx.effects_fcsr _ _

end

/-! ### The elementwise form -/

/-- The result of an elementwise instruction for element i. -/
def VI.elementOf (x : VI) (c : Ctx) (dw aw bw : Nat) (src : VSrc) (f : Nat → Nat → Nat → Nat → VRes) (i : Nat) : VRes :=
  f i (c.elem x.vd dw i) (c.elem x.s2 aw i) (x.srcElem c src bw i)

theorem useDest_quiet {s : State} (quiet : (s.ctx s.cur).Quiet) (x : VI) (w : Nat) : x.useDest w s = .ok () s := by
  unfold VI.useDest
  split
  · exact use_quiet quiet x _ w
  · exact waitStrips_quiet quiet _ _

/-- Where its registers are legal it leaves its results written, and their effects. -/
theorem elementwise_leaves {x : VI} {dw aw bw : Nat} {src : VSrc} {f : Nat → Nat → Nat → Nat → VRes} {s : State} {c : Ctx}
    (hc : (s.slot s.cur).ctx = some c) (quiet : c.Quiet) (vs : x.vs = 0)
    (legal : (!x.ill && x.groupOk x.vd dw && x.groupOk x.s2 aw && x.overlapOk x.vd dw x.s2 aw && x.srcOk src dw bw &&
      x.maskOk dw) = true) :
    let rs := x.results c (x.elementOf c dw aw bw src f)
    ∃ base u, x.elementwise dw aw bw src f s = .ok () u ∧
      s.Leaves u ((x.written c base 0 dw (valuesOf rs)).effects (liveOf rs)) := by
  intro rs
  have ctx : s.ctx s.cur = c := State.ctx_of_slot hc
  have still : (s.ctx s.cur).Quiet := by rwa [ctx]
  obtain ⟨base, u, put, left⟩ := putResults_leaves x dw rs hc
  rw [vs] at left
  refine ⟨base, u, ?_, left⟩
  rw [estate_bind] at put
  have live : (List.range x.vl).map (fun i => if i < x.vs ∨ (!x.active c i) = true then none else
      some (f i (c.elem x.vd dw i) (c.elem x.s2 aw i) (x.srcElem c src bw i))) = rs := by
    refine List.map_congr_left fun i _ => ?_
    rw [vs]
    cases x.active c i <;> rfl
  simp only [VI.elementwise, estate_bind, legal, require_true, estate_pure, useMask_quiet still, use_quiet still, useSrc_quiet still,
    useDest_quiet still, ctx_apply, ctx, live]
  exact put

section
variable {s : State} {h : Hart} {e : SeqEnt} {rest : List SeqEnt} {q g : Nat} {src : VSrc}

/-- The legality of an elementwise instruction of one width. -/
theorem VTyped.elementwise_legal (ty : VTyped e q g) {c : Ctx} (free : (e.instr c).vm = true ∨ (e.instr c).vd ≠ 0)
    (dest : (e.instr c).vd % g = 0) (second : (e.instr c).s2 % g = 0) (first : src = .vec → (e.instr c).s1 % g = 0) :
    let x := e.instr c
    let w := 8 * 2 ^ q
    (!x.ill && x.groupOk x.vd w && x.groupOk x.s2 w && x.overlapOk x.vd w x.s2 w && x.srcOk src w w && x.maskOk w) = true := by
  intro x w
  have srcOk : x.srcOk src w w = true := by
    cases src with
    | vec => rw [VI.srcOk, ty.groupOk c (first rfl), x.overlapOk_same]; rfl
    | scalar v => rfl
  rw [ty.ill, ty.groupOk c dest, ty.groupOk c second, x.overlapOk_same, srcOk, x.maskOk_of w free]
  rfl

/-- One at the head of the sequencer. -/
theorem head_elementwise {f : Nat → Nat → Nat → Nat → VRes} (r : HeadRuns s h e rest) (ty : VTyped e q g) :
    let c := s.ctx h
    let x := e.instr c
    let w := 8 * 2 ^ q
    let fn := x.elementOf c w w w src f
    x.run (s.atHead h e) = x.elementwise w w w src f (s.atHead h e) → (x.vm = true ∨ x.vd ≠ 0) → x.vd % g = 0 → x.s2 % g = 0 →
    (src = .vec → x.s1 % g = 0) → (∀ i, (fn i).v < 2 ^ w) →
    ∃ t, exec (.sequencerHeadExecute h) s = .next t ∧ VecResult s t h e rest x.vd g w (x.active c) (fun i => (fn i).v) ∧
      (t.ctx h).fcsr = c.fcsr ||| w64 (flagsOf (liveOf (x.results c fn))).bits := by
  intro c x w fn run free dest second first width
  obtain ⟨hw, dvd⟩ := ty.width
  obtain ⟨base, u, done, left⟩ := elementwise_leaves (f := f) r.slot_ctx r.quiet r.vs
    (ty.elementwise_legal free dest second first)
  exact head_results r hw dvd (ty.total c) (run.trans done) left width

end

end Sys2Proof.Machine
end

section
/-! The integer operations of the standard vector instructions, element by element (spec/03_encoding.md R67; log entry 13). -/

namespace Sys2Proof.Machine

open Sys2Proof

/-! ### Arithmetic modulo 2^w -/

theorem uint_add_mul (i k : Int) (w : Nat) : uint (i + (2 ^ w : Nat) * k) w = uint i w := by
  rw [uint, Int.add_mul_emod_self_left, uint]

theorem uint_natCast (n w : Nat) : uint n w = n % 2 ^ w := by
  rw [uint, ← Int.natCast_emod, Int.toNat_natCast]

/-- A signed number and its bit pattern differ by a multiple of 2^w. -/
theorem exists_sint_eq {a w : Nat} (ha : a < 2 ^ w) : ∃ k : Int, sint a w = a + (2 ^ w : Nat) * k :=
  ⟨-(if a.testBit (w - 1) then 1 else 0), by rw [sint_eq_sub a w ha]; ring⟩

theorem uint_sint_sub_sint {a b w : Nat} (ha : a < 2 ^ w) (hb : b < 2 ^ w) :
    uint (sint a w - sint b w) w = (a + 2 ^ w - b) % 2 ^ w := by
  obtain ⟨j, ja⟩ := exists_sint_eq ha
  obtain ⟨k, kb⟩ := exists_sint_eq hb
  have diff : sint a w - sint b w = ((a + 2 ^ w - b : Nat) : Int) + (2 ^ w : Nat) * (j - k - 1) := by
    rw [ja, kb, Nat.cast_sub (by omega), Nat.cast_add]
    ring
  rw [diff, uint_add_mul, uint_natCast]

theorem uint_sint_mul_sint {a b w : Nat} (ha : a < 2 ^ w) (hb : b < 2 ^ w) :
    uint (sint a w * sint b w) w = a * b % 2 ^ w := by
  obtain ⟨j, ja⟩ := exists_sint_eq ha
  obtain ⟨k, kb⟩ := exists_sint_eq hb
  have prod : sint a w * sint b w = ((a * b : Nat) : Int) + (2 ^ w : Nat) * (a * k + j * b + (2 ^ w : Nat) * j * k) := by
    rw [ja, kb, Nat.cast_mul]
    ring
  rw [prod, uint_add_mul, uint_natCast]

theorem sint_eq_zero_iff {a w : Nat} (ha : a < 2 ^ w) : sint a w = 0 ↔ a = 0 := by
  rw [sint_eq_toInt, ← BitVec.toInt_zero (w := w), BitVec.toInt_inj]
  constructor
  · intro same
    have nat := congrArg BitVec.toNat same
    rwa [BitVec.toNat_ofNat, BitVec.toNat_ofNat, Nat.mod_eq_of_lt ha, Nat.zero_mod] at nat
  · rintro rfl
    rfl

theorem uint_neg_one (w : Nat) : uint (-1) w = 2 ^ w - 1 := by
  have pos := Nat.two_pow_pos w
  have top : (-1 : Int) = ((2 ^ w - 1 : Nat) : Int) + (2 ^ w : Nat) * (-1) := by
    rw [Nat.cast_sub pos]
    push_cast
    ring
  rw [top, uint_add_mul, uint_of_lt (by omega)]

theorem uint_sint {a w : Nat} (ha : a < 2 ^ w) : uint (sint a w) w = a := by
  obtain ⟨j, ja⟩ := exists_sint_eq ha
  rw [ja, uint_add_mul, uint_of_lt ha]

/-! ### Sums, extremes, logic and shifts -/

/-- What an operation of the first integer group gives. -/
def opiOf (k w x y : Nat) : Nat :=
  match k with
  | 0x00 => (x + y) % 2 ^ w
  | 0x02 => (x + 2 ^ w - y) % 2 ^ w
  | 0x03 => (y + 2 ^ w - x) % 2 ^ w
  | 0x04 => min x y
  | 0x05 => uint (min (sint x w) (sint y w)) w
  | 0x06 => max x y
  | 0x07 => uint (max (sint x w) (sint y w)) w
  | 0x09 => x &&& y
  | 0x0a => x ||| y
  | 0x0b => x ^^^ y
  | 0x25 => x * 2 ^ (y % w) % 2 ^ w
  | 0x28 => x / 2 ^ (y % w)
  | _ => uint (sint x w / (2 ^ (y % w) : Nat)) w

/-- Its operations. -/
def opiOps : List Nat := [0x00, 0x02, 0x03, 0x04, 0x05, 0x06, 0x07, 0x09, 0x0a, 0x0b, 0x25, 0x28, 0x29]

section
variable {k w x y : Nat} (hx : x < 2 ^ w) (hy : y < 2 ^ w)
include hx hy

theorem opiFn_eq (rm : Nat) (op : k ∈ opiOps) : opiFn k rm w x y = vr (opiOf k w x y) := by
  simp only [opiOps, List.mem_cons, List.not_mem_nil, or_false] at op
  rcases op with rfl | rfl | rfl | rfl | rfl | rfl | rfl | rfl | rfl | rfl | rfl | rfl | rfl
  case inr.inl => exact congrArg vr (uint_sint_sub_sint hx hy)
  case inr.inr.inl => exact congrArg vr (uint_sint_sub_sint hy hx)
  case inr.inr.inr.inr.inr.inr.inr.inr.inr.inr.inl => exact congrArg (fun n => vr (n % 2 ^ w)) (Nat.shiftLeft_eq x (y % w))
  case inr.inr.inr.inr.inr.inr.inr.inr.inr.inr.inr.inl => exact congrArg vr (Nat.shiftRight_eq_div_pow x (y % w))
  all_goals rfl

theorem opiOf_lt : opiOf k w x y < 2 ^ w := by
  have pos := Nat.two_pow_pos w
  unfold opiOf
  split
  · exact Nat.mod_lt _ pos
  · exact Nat.mod_lt _ pos
  · exact Nat.mod_lt _ pos
  · omega
  · exact uint_lt _ _
  · omega
  · exact uint_lt _ _
  · exact Nat.and_lt_two_pow _ hy
  · exact Nat.or_lt_two_pow hx hy
  · exact Nat.xor_lt_two_pow hx hy
  · exact Nat.mod_lt _ pos
  · exact (Nat.div_le_self _ _).trans_lt hx
  · exact uint_lt _ _

end

/-- The dispatch of the first integer group. -/
theorem opi_elementwise {x : VI} (rm : Nat) (op : fF6 x.w ∈ opiOps) :
    x.opi rm = x.elementwise x.sew x.sew x.sew (x.intSrc x.sew (immUnsigned (fF6 x.w)))
      (fun _ _ a b => opiFn (fF6 x.w) rm x.sew a b) := by
  have apart : ∀ k ∈ opiOps,
      k ≠ 0x0c ∧ k ≠ 0x0e ∧ k ≠ 0x0f ∧ k ≠ 0x10 ∧ k ≠ 0x11 ∧ k ≠ 0x12 ∧ k ≠ 0x13 ∧ k ≠ 0x17 ∧
      ¬ (0x18 ≤ k ∧ k ≤ 0x1f) ∧ k ≠ 0x27 ∧ ¬ (0x2c ≤ k ∧ k ≤ 0x2f) := by decide
  obtain ⟨gather, up, down, adc, madc, sbc, msbc, merge, compare, whole, narrow⟩ := apart _ op
  simp only [VI.opi, gather, up, down, adc, madc, sbc, msbc, merge, compare, whole, narrow, false_and, if_false]

/-! ### Products, quotients and accumulations -/

/-- What an operation of the second integer group gives; old is the destination's element. -/
def opmOf (k w old x y : Nat) : Nat :=
  match k with
  | 0x20 => if y = 0 then 2 ^ w - 1 else x / y
  | 0x21 => if y = 0 then 2 ^ w - 1 else uint ((sint x w).tdiv (sint y w)) w
  | 0x22 => if y = 0 then x else x % y
  | 0x23 => if y = 0 then x else uint ((sint x w).tmod (sint y w)) w
  | 0x24 => x * y / 2 ^ w
  | 0x25 => x * y % 2 ^ w
  | 0x26 => uint (sint x w * (y : Nat) / (2 ^ w : Nat)) w
  | 0x27 => uint (sint x w * sint y w / (2 ^ w : Nat)) w
  | 0x29 => (y * old + x) % 2 ^ w
  | 0x2b => uint ((x : Int) - y * old) w
  | 0x2d => (y * x + old) % 2 ^ w
  | _ => uint ((old : Int) - y * x) w

/-- Its operations. -/
def opmOps : List Nat := [0x20, 0x21, 0x22, 0x23, 0x24, 0x25, 0x26, 0x27, 0x29, 0x2b, 0x2d, 0x2f]

section
variable {k w x y : Nat} (hx : x < 2 ^ w) (hy : y < 2 ^ w)
include hx hy

theorem opmFn_eq (rm old : Nat) (op : k ∈ opmOps) : opmFn k rm w old x y = vr (opmOf k w old x y) := by
  have zero := sint_eq_zero_iff hy
  simp only [opmOps, List.mem_cons, List.not_mem_nil, or_false] at op
  rcases op with rfl | rfl | rfl | rfl | rfl | rfl | rfl | rfl | rfl | rfl | rfl | rfl
  · rfl
  · show vi w (if sint y w = 0 then -1 else (sint x w).tdiv (sint y w)) = vr (if y = 0 then _ else _)
    simp only [zero, vi, vr, apply_ite (uint · w), uint_neg_one]
  · rfl
  · show vi w (if sint y w = 0 then sint x w else (sint x w).tmod (sint y w)) = vr (if y = 0 then _ else _)
    simp only [zero, vi, vr, apply_ite (uint · w), uint_sint hx]
  · show vi w ((x : Int) * y / (2 ^ w : Nat)) = vr (x * y / 2 ^ w)
    have small : x * y / 2 ^ w < 2 ^ w := Nat.div_lt_of_lt_mul (Nat.mul_lt_mul'' hx hy)
    rw [vi, vr, ← Nat.cast_mul, ← Int.natCast_ediv, uint_of_lt small]
  · exact congrArg vr (uint_sint_mul_sint hx hy)
  · rfl
  · rfl
  · show vi w ((y : Int) * old + x) = vr ((y * old + x) % 2 ^ w)
    rw [vi, vr, ← Nat.cast_mul, ← Nat.cast_add, uint_natCast]
  · rfl
  · show vi w ((y : Int) * x + old) = vr ((y * x + old) % 2 ^ w)
    rw [vi, vr, ← Nat.cast_mul, ← Nat.cast_add, uint_natCast]
  · rfl

theorem opmOf_lt (old : Nat) : opmOf k w old x y < 2 ^ w := by
  have pos := Nat.two_pow_pos w
  have ite_lt {p : Prop} [Decidable p] {u v : Nat} (hu : u < 2 ^ w) (hv : v < 2 ^ w) : (if p then u else v) < 2 ^ w := by
    split
    · exact hu
    · exact hv
  unfold opmOf
  split
  · exact ite_lt (by omega) ((Nat.div_le_self _ _).trans_lt hx)
  · exact ite_lt (by omega) (uint_lt _ _)
  · exact ite_lt hx ((Nat.mod_le _ _).trans_lt hx)
  · exact ite_lt hx (uint_lt _ _)
  · exact Nat.div_lt_of_lt_mul (Nat.mul_lt_mul'' hx hy)
  · exact Nat.mod_lt _ pos
  · exact uint_lt _ _
  · exact uint_lt _ _
  · exact Nat.mod_lt _ pos
  · exact uint_lt _ _
  · exact Nat.mod_lt _ pos
  · exact uint_lt _ _

end

/-- The dispatch of the second integer group. -/
theorem opm_elementwise {x : VI} (rm : Nat) (op : fF6 x.w ∈ opmOps) :
    x.opm rm = x.elementwise x.sew x.sew x.sew (x.intSrc x.sew false) (fun _ d a b => opmFn (fF6 x.w) rm x.sew d a b) := by
  have apart : ∀ k ∈ opmOps, ¬ k < 8 ∧ k ≠ 0x0e ∧ k ≠ 0x0f ∧ k ≠ 0x10 ∧ k ≠ 0x12 ∧ k ≠ 0x14 ∧ k ≠ 0x17 ∧
      ¬ (0x18 ≤ k ∧ k ≤ 0x1f) ∧ ¬ (0x34 ≤ k ∧ k ≤ 0x37) ∧ ¬ 0x30 ≤ k := by decide
  obtain ⟨reduce, up, down, scalar, extend, mask, compress, logic, wideW, wide⟩ := apart _ op
  simp only [VI.opm, reduce, up, down, scalar, extend, mask, compress, logic, wideW, wide, and_false, if_false]

end Sys2Proof.Machine
end

section
/-! The standard elementwise vector instructions at the head of the sequencer (spec/03_encoding.md R67; spec/08_vector.md R229). -/

namespace Sys2Proof.Machine

open Sys2Proof

/-- The active elements of an instruction whose mask bit is m. -/
def activeOf (m : BitVec 1) (c : Ctx) (i : Nat) : Bool := m == 1#1 || c.maskBit 0 i

section
variable {s : State} {h : Hart} {e : SeqEnt} {rest : List SeqEnt} {q g : Nat} {f6 : BitVec 6} {m : BitVec 1} {b a : Reg}
  {f3 : BitVec 3} {d : Reg} (r : HeadRuns s h e rest) (ty : VTyped e q g)
  (bits : e.bits = rzWord (f6 ++ m) b a f3 d 0x57#7) (second : b.toNat % g = 0) (first : f3.toNat < 3 → a.toNat % g = 0)
  (free : m = 1#1 ∨ d ≠ 0#5) (dest : d.toNat % g = 0)
include r ty bits second first free dest

/-- An elementwise instruction of one width, given what its operation makes of an element. -/
theorem head_elements {src : VSrc} {f : Nat → Nat → Nat → Nat → VRes} {y : Nat → Nat} {z : Nat → VRes} :
    let c := s.ctx h
    let x := e.instr c
    let w := 8 * 2 ^ q
    x.run (s.atHead h e) = x.elementwise w w w src f (s.atHead h e) → (src = .vec → f3.toNat < 3) →
    (∀ i, x.srcElem c src w i = y i) →
    (∀ i, f i (c.elem d.toNat w i) (c.elem b.toNat w i) (y i) = z i) → (∀ i, (z i).v < 2 ^ w) →
    ∃ t, exec (.sequencerHeadExecute h) s = .next t ∧ VecResult s t h e rest d.toNat g w (activeOf m c) (fun i => (z i).v) ∧
      (t.ctx h).fcsr = c.fcsr ||| w64 (flagsOf (liveOf (x.results c z))).bits := by
  intro c x w run vec operand value width
  obtain ⟨vd, s2, s1, vm⟩ := instr_regs bits c
  have fn : x.elementOf c w w w src f = z := funext fun i => by rw [VI.elementOf, vd, s2, operand, value]
  obtain ⟨t, ends, result, fcsr⟩ := head_elementwise (f := f) r ty run (by rw [vm, vd]; exact free_of free)
    (by rw [vd, dest]) (by rw [s2, second]) (fun isVec => by rw [s1, first (vec isVec)]) (fun i => by rw [fn]; exact width i)
  rw [fn, vd, active_eq c vm] at result
  rw [fn] at fcsr
  exact ⟨t, ends, result, fcsr⟩

/-- Sums, differences, extremes, logic and shifts. -/
theorem head_opi (form : f3 = 0#3 ∨ f3 = 3#3 ∨ f3 = 4#3) (ops : f6.toNat ∈ opiOps) :
    let c := s.ctx h
    let w := 8 * 2 ^ q
    ∃ t, exec (.sequencerHeadExecute h) s = .next t ∧
      VecResult s t h e rest d.toNat g w (activeOf m c) (fun i => opiOf f6.toNat w (c.elem b.toNat w i) (secondOf c e q f6 a f3 i)) := by
  intro c w
  obtain ⟨hw, -⟩ := ty.width
  obtain ⟨fOp, fF3, fF6⟩ := instr_op bits c
  have small : ∀ k ∈ opiOps, k < 0x30 ∧ k ∉ [0x0c, 0x0e, 0x0f] := by decide
  obtain ⟨narrow, fits⟩ := small _ ops
  have x (i : Nat) : c.elem b.toNat w i < 2 ^ w := c.elem_lt _ hw i
  have y (i : Nat) : secondOf c e q f6 a f3 i < 2 ^ w := secondOf_lt ty c i fun five => by
    subst five
    exact absurd form (by decide)
  obtain ⟨t, ends, result, -⟩ := head_elements r ty bits second first free dest
    (src := (e.instr c).intSrc w (immUnsigned f6.toNat)) (f := fun _ _ u v => opiFn f6.toNat c.vxrm.toNat w u v)
    (z := fun i => vr (opiOf f6.toNat w (c.elem b.toNat w i) (secondOf c e q f6 a f3 i)))
    (by rw [run_opi fOp (by rwa [fF3]) (by rwa [fF6]), opi_elementwise _ (by rwa [fF6]), fF6, ty.sew]; rfl)
    (intSrc_vec fF3) (srcElem_opi ty c bits form fits) (fun i => opiFn_eq (x i) (y i) _ ops) (fun i => opiOf_lt (x i) (y i))
  exact ⟨t, ends, result⟩

/-- Products, quotients and accumulations. -/
theorem head_opm (form : f3 = 2#3 ∨ f3 = 6#3) (ops : f6.toNat ∈ opmOps) :
    let c := s.ctx h
    let w := 8 * 2 ^ q
    ∃ t, exec (.sequencerHeadExecute h) s = .next t ∧
      VecResult s t h e rest d.toNat g w (activeOf m c) (fun i =>
        opmOf f6.toNat w (c.elem d.toNat w i) (c.elem b.toNat w i) (secondOf c e q f6 a f3 i)) := by
  intro c w
  obtain ⟨hw, -⟩ := ty.width
  obtain ⟨fOp, fF3, fF6⟩ := instr_op bits c
  have x (i : Nat) : c.elem b.toNat w i < 2 ^ w := c.elem_lt _ hw i
  have y (i : Nat) : secondOf c e q f6 a f3 i < 2 ^ w := secondOf_lt ty c i fun five => by
    subst five
    exact absurd form (by decide)
  obtain ⟨t, ends, result, -⟩ := head_elements r ty bits second first free dest
    (src := (e.instr c).intSrc w false) (f := fun _ old u v => opmFn f6.toNat c.vxrm.toNat w old u v)
    (z := fun i => vr (opmOf f6.toNat w (c.elem d.toNat w i) (c.elem b.toNat w i) (secondOf c e q f6 a f3 i)))
    (by rw [run_opm fOp (by rwa [fF3]), opm_elementwise _ (by rwa [fF6]), fF6, ty.sew]; rfl)
    (intSrc_vec fF3) (srcElem_opm c bits form) (fun i => opmFn_eq (x i) (y i) _ _ ops) (fun i => opmOf_lt (x i) (y i) _)
  exact ⟨t, ends, result⟩

end

end Sys2Proof.Machine
end

section
/-! The standard floating-point vector instructions of one width (spec/02_numbers.md R43 to R45; spec/03_encoding.md R67). -/

namespace Sys2Proof.Machine

open Sys2Proof

/-- What a floating-point operation gives; old is the destination's element. -/
def opfOf (f : BinFmt) (k rm old x y : Nat) : Nat × FFlags :=
  match k with
  | 0x00 => f.add rm x y
  | 0x02 => f.sub rm x y
  | 0x04 => f.minmax false x y
  | 0x06 => f.minmax true x y
  | 0x20 => f.div rm x y
  | 0x24 => f.mul rm x y
  | _ => f.fma rm (f.val y) (f.val x) (f.val old)

/-- The operations of it. -/
def opfOps : List Nat := [0x00, 0x02, 0x04, 0x06, 0x20, 0x24, 0x2c]

theorem opfFn_eq {k w : Nat} (rm old x y : Nat) (op : k ∈ opfOps) : opfFn k rm w old x y = vf (opfOf (fpW w) k rm old x y) := by
  simp only [opfOps, List.mem_cons, List.not_mem_nil, or_false] at op
  rcases op with rfl | rfl | rfl | rfl | rfl | rfl | rfl <;> rfl

section
variable (f : BinFmt)

theorem BinFmt.minmax_lt (isMax : Bool) {x y : Nat} (hx : x < 2 ^ f.width) (hy : y < 2 ^ f.width) :
    (f.minmax isMax x y).1 < 2 ^ f.width := by
  unfold BinFmt.minmax
  dsimp only
  split
  · exact f.nan_lt
  · split
    · exact hy
    · split
      · exact hx
      · dsimp only
        split
        · exact hx
        · exact hy

theorem BinFmt.div_lt (rm x y : Nat) : (f.div rm x y).1 < 2 ^ f.width := by
  have zero (n : Bool) : f.sgn n < 2 ^ f.width := f.sgn_add_lt n (Nat.zero_le _)
  unfold BinFmt.div
  split
  · exact f.nan_lt
  · exact f.nan_lt
  · exact f.nan_lt
  · exact f.nan_lt
  · exact f.sgn_add_lt _ le_rfl
  · exact zero _
  · split
    · split
      · exact f.nan_lt
      · exact f.sgn_add_lt _ le_rfl
    · split
      · exact zero _
      · exact f.round_lt _ _ _ _ _

theorem opfOf_lt (k rm old : Nat) {x y : Nat} (hx : x < 2 ^ f.width) (hy : y < 2 ^ f.width) :
    (opfOf f k rm old x y).1 < 2 ^ f.width := by
  unfold opfOf
  split
  · exact f.out_lt _ _
  · exact f.out_lt _ _
  · exact f.minmax_lt _ hx hy
  · exact f.minmax_lt _ hx hy
  · exact f.div_lt _ _ _
  · exact f.out_lt _ _
  · exact f.out_lt _ _

end

/-- The dispatch of the floating-point group. -/
theorem opf_elementwise {x : VI} {s : State} (width : (x.sew == 32 || x.sew == 64) = true) (on : (s.ctx s.cur).fs ≠ 0)
    (mode : (s.ctx s.cur).frm ≤ 4) (op : fF6 x.w ∈ opfOps) : x.opf s = x.elementwise x.sew x.sew x.sew (x.fpSrc x.sew)
      (fun _ d a b => opfFn (fF6 x.w) (s.ctx s.cur).frm x.sew d a b) s := by
  have legal : (decide ((s.ctx s.cur).fs ≠ 0) && (x.sew == 32 || x.sew == 64) && decide ((s.ctx s.cur).frm ≤ 4)) = true := by
    rw [width, decide_eq_true on, decide_eq_true mode]
    rfl
  have apart : ∀ k ∈ opfOps,
      ¬ (k = 1 ∨ k = 3 ∨ k = 5 ∨ k = 7 ∨ k = 0x31 ∨ k = 0x33) ∧ k ≠ 0x0e ∧ k ≠ 0x0f ∧ k ≠ 0x10 ∧
      k ≠ 0x12 ∧ k ≠ 0x13 ∧ k ≠ 0x17 ∧ ¬ (0x18 ≤ k ∧ k ≤ 0x1f) ∧ ¬ 0x30 ≤ k := by decide
  obtain ⟨reduce, up, down, scalar, convert, unary, merge, compare, wide⟩ := apart _ op
  simp only [VI.opf, estate_bind, ctx_apply, legal, require_true, estate_pure, reduce, up, down, scalar, convert, unary, merge,
    compare, wide, and_false, if_false]

section
variable {s : State} {h : Hart} {e : SeqEnt} {rest : List SeqEnt} {q g : Nat} {f6 : BitVec 6} {m : BitVec 1} {b a : Reg}
  {f3 : BitVec 3} {d : Reg}

theorem head_opf (r : HeadRuns s h e rest) (ty : VTyped e q g) (bits : e.bits = rzWord (f6 ++ m) b a f3 d 0x57#7)
    (second : b.toNat % g = 0) (first : f3.toNat < 3 → a.toNat % g = 0) (free : m = 1#1 ∨ d ≠ 0#5) (dest : d.toNat % g = 0)
    (form : f3 = 1#3 ∨ f3 = 5#3) (two : 2 ≤ q) (on : (s.ctx h).fs ≠ 0) (mode : (s.ctx h).frm ≤ 4) (ops : f6.toNat ∈ opfOps) :
    let c := s.ctx h
    let w := 8 * 2 ^ q
    let z (i : Nat) := opfOf (if q = 3 then binary64 else binary32) f6.toNat c.frm (c.elem d.toNat w i) (c.elem b.toNat w i)
      (secondOf c e q f6 a f3 i)
    ∃ t, exec (.sequencerHeadExecute h) s = .next t ∧ VecResult s t h e rest d.toNat g w (activeOf m c) (fun i => (z i).1) ∧
      (t.ctx h).fcsr &&& c.fcsr = c.fcsr ∧
      ∀ i, i < e.vl → activeOf m c i = true → (t.ctx h).fcsr &&& w64 (z i).2.bits = w64 (z i).2.bits := by
  intro c w z
  obtain ⟨hw, -⟩ := ty.width
  obtain ⟨-, four, -⟩ := ty.fields
  obtain ⟨fOp, fF3, fF6⟩ := instr_op bits c
  obtain ⟨-, -, -, vm⟩ := instr_regs bits c
  have sew : (e.instr c).sew = w := ty.sew c
  have format : fpW w = if q = 3 then binary64 else binary32 := fpW_eq two four
  have width : (fpW w).width = w := fpW_width two four
  have x (i : Nat) : c.elem b.toNat w i < 2 ^ w := c.elem_lt _ hw i
  have y (i : Nat) : secondOf c e q f6 a f3 i < 2 ^ w := secondOf_lt ty c i fun _ => two
  have z_lt (i : Nat) : (z i).1 < 2 ^ w := by
    have lt := opfOf_lt (fpW w) f6.toNat c.frm (c.elem d.toNat w i) (x := c.elem b.toNat w i) (y := secondOf c e q f6 a f3 i)
      (by rw [width]; exact x i) (by rw [width]; exact y i)
    rw [width, format] at lt
    exact lt
  have value (i : Nat) : opfFn f6.toNat c.frm w (c.elem d.toNat w i) (c.elem b.toNat w i) (secondOf c e q f6 a f3 i) = vf (z i) := by
    rw [opfFn_eq _ _ _ _ ops, format]
  have run : (e.instr c).run (s.atHead h e) = (e.instr c).elementwise w w w ((e.instr c).fpSrc w)
      (fun _ old u v => opfFn f6.toNat c.frm w old u v) (s.atHead h e) := by
    have go := opf_elementwise (x := e.instr c) (s := s.atHead h e) (by rw [sew]; exact fpWidth_ok two four) on mode
      (by rw [fF6]; exact ops)
    rw [fF6, sew] at go
    exact (run_opf fOp (by rw [fF3]; exact form)).trans go
  clear_value z
  obtain ⟨t, ends, result, fcsr⟩ := head_elements r ty bits second first free dest
    (src := (e.instr c).fpSrc w) (f := fun _ old u v => opfFn f6.toNat c.frm w old u v) (z := fun i => vf (z i))
    run (fpSrc_vec fF3) (srcElem_opf ty c bits form two) value z_lt
  refine ⟨t, ends, result, by rw [fcsr, or_and_self], fun i hi act => ?_⟩
  have live : vf (z i) ∈ liveOf ((e.instr c).results c fun i => vf (z i)) :=
    ((e.instr c).mem_liveOf_results c _ _).mpr ⟨i, hi, by rw [active_eq c vm]; exact act, rfl⟩
  have among := congrArg w64 (flagsOf_bits live)
  rw [w64_or] at among
  refine and_eq_of_or_eq ?_
  rw [fcsr, BitVec.or_assoc]
  exact congrArg _ among

end

end Sys2Proof.Machine
end

section
/-! Comparisons, slides and widening of the standard vector instructions (spec/03_encoding.md R67; log entry 13). -/

namespace Sys2Proof.Machine

open Sys2Proof

/-! ### A mask register written -/

/-- The number whose bits below n are given. -/
def sumBits (bit : Nat → Bool) (n : Nat) : Nat := (List.range n).foldl (fun v i => v + (if bit i then 2 ^ i else 0)) 0

theorem sumBits_spec (bit : Nat → Bool) (n : Nat) :
    sumBits bit n < 2 ^ n ∧ ∀ i, (sumBits bit n).testBit i = (decide (i < n) && bit i) := by
  induction n with
  | zero => exact ⟨Nat.one_pos, fun i => Nat.zero_testBit i⟩
  | succ n ih =>
    obtain ⟨lt, bits⟩ := ih
    have step : sumBits bit (n + 1) = 2 ^ n * (bit n).toNat + sumBits bit n := by
      rw [sumBits, List.range_succ, List.foldl_append]
      show sumBits bit n + (if bit n then 2 ^ n else 0) = _
      cases bit n
      · exact (Nat.zero_add _).symm
      · rw [if_pos rfl, Bool.toNat_true, Nat.mul_one, Nat.add_comm]
    refine ⟨?_, fun i => ?_⟩
    · rw [step, Nat.pow_succ]
      cases bit n
      · rw [Bool.toNat_false]; omega
      · rw [Bool.toNat_true]; omega
    · rw [step, Nat.testBit_two_pow_mul_add _ lt, bits]
      rcases Nat.lt_trichotomy i n with before | rfl | after
      · simp [before, Nat.lt_succ_of_lt before]
      · cases bit i <;> simp
      · have above : i - n ≠ 0 := by omega
        rw [if_neg (by omega), decide_eq_false (by omega), Bool.false_and]
        cases bit n
        · exact Nat.zero_testBit _
        · exact Nat.testBit_one_eq_true_iff_self_eq_zero.not.mpr above |> Bool.eq_false_iff.mpr

/-- A bit of a mask result, the tail agnostic. -/
def VI.maskBitOf (x : VI) (c : Ctx) (base : Nat) (rs : List (Option Bool)) (i : Nat) : Bool :=
  if i < x.vs then (c.getV x.vd).getLsbD i
  else if i < x.vl then
    if x.active c i then (rs.getD i none).getD ((c.getV x.vd).getLsbD i)
    else if x.ma ∧ Config.agnosticOnes (base + i) then true
    else (c.getV x.vd).getLsbD i
  else if Config.agnosticOnes (base + i) then true
  else (c.getV x.vd).getLsbD i

/-- The register that it leaves. -/
def VI.maskValue (x : VI) (c : Ctx) (base : Nat) (rs : List (Option Bool)) : VReg :=
  BitVec.ofNat 512 (sumBits (x.maskBitOf c base rs) 512)

/-- The context after a mask register has been written. -/
def VI.maskWritten (x : VI) (c : Ctx) (base : Nat) (rs : List (Option Bool)) : Ctx :=
  if x.vs ≥ x.vl then c else (c.setV x.vd (x.maskValue c base rs)).dirtyV

theorem putMask_leaves (x : VI) (rs : List (Option Bool)) {s : State} {c : Ctx} (hc : (s.slot s.cur).ctx = some c) :
    ∃ base u, x.putMask rs s = .ok () u ∧ s.Leaves u (x.maskWritten c base rs) := by
  by_cases empty : x.vs ≥ x.vl
  · refine ⟨0, s, ?_, ?_⟩
    · simp only [VI.putMask, if_pos empty, estate_pure]
    · rw [VI.maskWritten, if_pos empty]
      exact ⟨rfl, rfl, hc⟩
  · refine ⟨s.free, { s with free := s.free + 512 }.modCtx s.cur (fun c => x.maskWritten c s.free rs), ?_, ?_⟩
    · simp only [VI.putMask, if_neg empty, drawAgnostic_apply, estate_bind, modCtx_apply, VI.maskWritten]
      rfl
    · exact State.leaves_modCtx (s := { s with free := s.free + 512 }) (x.maskWritten · s.free rs) hc

theorem Ctx.getV_dirtyV (c : Ctx) (r : Nat) : c.dirtyV.getV r = c.getV r := by
  rw [Ctx.getV, Ctx.dirtyV, Ctx.getV]

section
variable (x : VI) (c : Ctx) (base : Nat) (rs : List (Option Bool))

theorem VI.maskWritten_frame : (x.maskWritten c base rs).seq = c.seq ∧ (x.maskWritten c base rs).x = c.x := by
  unfold VI.maskWritten
  split <;> exact ⟨rfl, rfl⟩

theorem VI.getV_maskWritten_other {r : Nat} (other : r ≠ x.vd) : (x.maskWritten c base rs).getV r = c.getV r := by
  unfold VI.maskWritten
  split
  · rfl
  · rw [Ctx.getV_dirtyV, Ctx.getV_setV, if_neg other]

theorem VI.maskBit_maskWritten (vs : x.vs = 0) {i : Nat} {v : Bool} (hi : i < x.vl) (fits : x.vl ≤ 512) (act : x.active c i = true)
    (value : rs.getD i none = some v) : (x.maskWritten c base rs).maskBit x.vd i = v := by
  obtain ⟨lt, bits⟩ := sumBits_spec (x.maskBitOf c base rs) 512
  have put : (x.maskWritten c base rs).getV x.vd = x.maskValue c base rs := by
    rw [VI.maskWritten, if_neg (by omega)]
    rw [Ctx.getV_dirtyV, Ctx.getV_setV, if_pos rfl]
  have inside : i < 512 := by omega
  rw [Ctx.maskBit, put, VI.maskValue, BitVec.getLsbD_ofNat, bits, decide_eq_true inside, Bool.true_and, Bool.true_and, VI.maskBitOf,
    if_neg (by omega), if_pos hi, if_pos act, value, Option.getD_some]

end

/-! ### Comparisons -/

/-- The legality of its second operand, where that is a group, and of the whole. -/
def VI.maskFirst (x : VI) (w : Nat) : VSrc → Bool
  | .vec => x.groupOk x.s1 w && x.maskDest x.s1 w
  | .scalar _ => true
def VI.maskLegal (x : VI) (w : Nat) (src : VSrc) : Bool :=
  !x.ill && x.groupOk x.s2 w && x.maskDest x.s2 w && x.maskFirst w src

/-- The results of a comparison, and their flags. -/
def VI.comparisons (x : VI) (c : Ctx) (w : Nat) (src : VSrc) (f : Nat → Nat → Nat → Bool × FFlags) :
    List (Option (Bool × FFlags)) :=
  (List.range x.vl).map (fun i => if x.active c i then some (f i (c.elem x.s2 w i) (x.srcElem c src w i)) else none)

/-- Their bits. -/
def VI.compared (x : VI) (c : Ctx) (w : Nat) (src : VSrc) (f : Nat → Nat → Nat → Bool × FFlags) : List (Option Bool) :=
  (x.comparisons c w src f).map (fun r => r.map (·.1))

theorem VI.compared_getD {x : VI} {c : Ctx} {w : Nat} {src : VSrc} {f : Nat → Nat → Nat → Bool × FFlags} {i : Nat} (hi : i < x.vl)
    (act : x.active c i = true) : (x.compared c w src f).getD i none = some (f i (c.elem x.s2 w i) (x.srcElem c src w i)).1 := by
  simp only [VI.compared, VI.comparisons, List.map_map, List.getD_eq_getElem?_getD, List.getElem?_map, List.getElem?_range hi,
    Option.map_some, Function.comp_apply, act, if_true, Option.getD_some]

theorem toMask_leaves {x : VI} {w : Nat} {src : VSrc} {f : Nat → Nat → Nat → Bool × FFlags} {s : State} {c : Ctx}
    (hc : (s.slot s.cur).ctx = some c) (quiet : c.Quiet) (vs : x.vs = 0) (legal : x.maskLegal w src = true) :
    ∃ base u l, x.toMask w src f s = .ok () u ∧
      s.Leaves u ((x.maskWritten c base (x.compared c w src f)).effects l) := by
  have ctx : s.ctx s.cur = c := State.ctx_of_slot hc
  have still : (s.ctx s.cur).Quiet := by rwa [ctx]
  obtain ⟨base, u, put, left⟩ := putMask_leaves x (x.compared c w src f) hc
  obtain ⟨cur, -, slot⟩ := id left
  rw [← cur] at slot
  refine ⟨base, _, ((x.comparisons c w src f).filterMap id).map (fun r => { v := 0, fl := r.2 }), ?_,
    left.trans (State.leaves_modCtx (·.effects _) slot)⟩
  have live : (List.range x.vl).map (fun i => if i < x.vs ∨ (!x.active c i) = true then none else
      some (f i (c.elem x.s2 w i) (x.srcElem c src w i))) = x.comparisons c w src f := by
    refine List.map_congr_left fun i _ => ?_
    rw [vs]
    cases x.active c i <;> rfl
  have put' : x.putMask ((x.comparisons c w src f).map (fun r => r.map (·.1))) s = .ok () u := put
  have go := legal
  unfold VI.maskLegal VI.maskFirst at go
  cases src <;>
  simp only [VI.toMask, estate_bind, go, require_true, estate_pure, useMask_quiet still, use_quiet still, useSrc_quiet still,
    waitStrips_quiet still, ctx_apply, ctx, live, put', putEffects_apply]

section
variable {s : State} {h : Hart} {e : SeqEnt} {rest : List SeqEnt} {q g : Nat} {f6 : BitVec 6} {m : BitVec 1} {b a : Reg}
  {f3 : BitVec 3} {d : Reg}

theorem opi_compare {x : VI} (rm : Nat) (low : 0x18 ≤ fF6 x.w) (high : fF6 x.w ≤ 0x1f) :
    x.opi rm = x.toMask x.sew (x.intSrc x.sew (immUnsigned (fF6 x.w))) (fun _ a b => (opiCmp (fF6 x.w) x.sew a b, {})) := by
  have apart : ∀ k, 0x18 ≤ k → k ≤ 0x1f →
      k ≠ 0x0c ∧ k ≠ 0x0e ∧ k ≠ 0x0f ∧ k ≠ 0x10 ∧ k ≠ 0x11 ∧ k ≠ 0x12 ∧ k ≠ 0x13 ∧ k ≠ 0x17 := by
    intro k hl hh
    omega
  obtain ⟨gather, up, down, adc, madc, sbc, msbc, merge⟩ := apart _ low high
  simp only [VI.opi, gather, up, down, adc, madc, sbc, msbc, merge, low, high, and_self, if_false, if_true]

theorem VTyped.maskDest (ty : VTyped e q g) {c : Ctx} {r v : Reg} (vd : (e.instr c).vd = v.toNat)
    (lowest : v = r ∨ ¬ (r.toNat ≤ v.toNat ∧ v.toNat < r.toNat + g)) : (e.instr c).maskDest r.toNat (8 * 2 ^ q) = true := by
  rw [VI.maskDest, ty.regs, vd, overlap]
  rcases lowest with rfl | apart
  · rw [beq_self_eq_true, Bool.or_true]
  · have : ¬ (v.toNat < r.toNat + g ∧ r.toNat < v.toNat + 1) := by omega
    rw [← Bool.decide_and, decide_eq_false this]
    rfl

/-- A comparison of integers. -/
theorem head_compare (r : HeadRuns s h e rest) (ty : VTyped e q g) (bits : e.bits = rzWord (f6 ++ m) b a f3 d 0x57#7)
    (second : b.toNat % g = 0) (first : f3.toNat < 3 → a.toNat % g = 0) (form : f3 = 0#3 ∨ f3 = 3#3 ∨ f3 = 4#3)
    (low : 0x18 ≤ f6.toNat) (high : f6.toNat ≤ 0x1f) (lowest : d = b ∨ ¬ (b.toNat ≤ d.toNat ∧ d.toNat < b.toNat + g))
    (lowest1 : f3 = 0#3 → d = a ∨ ¬ (a.toNat ≤ d.toNat ∧ d.toNat < a.toNat + g)) :
    let c := s.ctx h
    let w := 8 * 2 ^ q
    ∃ t, exec (.sequencerHeadExecute h) s = .next t ∧ (t.ctx h).seq = rest ∧ (t.ctx h).x = c.x ∧
      (∀ p, t.mem.read p = s.mem.read p) ∧ (∀ r, r ≠ d.toNat → (t.ctx h).getV r = c.getV r) ∧
      ∀ i, i < e.vl → activeOf m c i = true →
        (t.ctx h).maskBit d.toNat i = opiCmp f6.toNat w (c.elem b.toNat w i) (secondOf c e q f6 a f3 i) := by
  intro c w
  obtain ⟨fOp, fF3, fF6⟩ := instr_op bits c
  obtain ⟨vd, s2, s1, vm⟩ := instr_regs bits c
  have sew : (e.instr c).sew = w := ty.sew c
  have operand := srcElem_opi ty c bits form (by simp only [List.mem_cons, List.not_mem_nil, or_false]; omega)
  have legal : (e.instr c).maskLegal w ((e.instr c).intSrc w (immUnsigned f6.toNat)) = true := by
    have other : (e.instr c).maskFirst w ((e.instr c).intSrc w (immUnsigned f6.toNat)) = true := by
      cases vec : (e.instr c).intSrc w (immUnsigned f6.toNat) with
      | vec =>
        have lt := intSrc_vec fF3 vec
        have zero : f3 = 0#3 := by
          rcases form with rfl | rfl | rfl
          · rfl
          · exact absurd lt (by decide)
          · exact absurd lt (by decide)
        rw [VI.maskFirst, s1, ty.groupOk c (first lt), ty.maskDest vd (lowest1 zero)]
        rfl
      | scalar v => rfl
    rw [VI.maskLegal, ty.ill, s2, ty.groupOk c second, ty.maskDest vd lowest, other]
    rfl
  obtain ⟨base, u, l, done, left⟩ := toMask_leaves (f := fun _ u v => (opiCmp f6.toNat w u v, {})) r.slot_ctx r.quiet r.vs legal
  have run : (e.instr c).run (s.atHead h e) = .ok () u := by
    rw [← done, run_opi fOp (by rw [fF3]; exact form) (by rw [fF6]; omega), opi_compare _ (by rw [fF6]; exact low)
      (by rw [fF6]; exact high), fF6, sew]
  generalize value : (e.instr c).compared c w ((e.instr c).intSrc w (immUnsigned f6.toNat))
    (fun _ u v => (opiCmp f6.toNat w u v, {})) = rs at left
  obtain ⟨seq, xs⟩ := (e.instr c).maskWritten_frame c base rs
  have same := Ctx.effects_sameBut ((e.instr c).maskWritten c base rs) l
  obtain ⟨t, ends, mem, ctx⟩ := head_completes r run left (same.seq.trans seq)
  have regs (r : Nat) : (t.ctx h).getV r = ((e.instr c).maskWritten c base rs).getV r := by
    rw [ctx, same]
    rfl
  refine ⟨t, ends, by rw [ctx]; rfl, by rw [ctx, same]; exact xs, fun p => by rw [mem], fun r other => ?_, fun i hi act => ?_⟩
  · rw [regs, VI.getV_maskWritten_other _ _ _ _ (by rwa [vd])]
  · have live : (e.instr c).active c i = true := by rw [active_eq c vm]; exact act
    have bit := VI.compared_getD (w := w) (src := (e.instr c).intSrc w (immUnsigned f6.toNat))
      (f := fun _ u v => (opiCmp f6.toNat w u v, {})) (x := e.instr c) hi live
    rw [value, s2, operand] at bit
    rw [Ctx.maskBit, regs, ← vd]
    exact (e.instr c).maskBit_maskWritten c base rs r.vs hi ty.vl_le live bit

end

end Sys2Proof.Machine
end

section
/-! Slides and widening instructions of the standard vector instructions (spec/03_encoding.md R67; log entry 13). -/

namespace Sys2Proof.Machine

open Sys2Proof

/-! ### Groups apart -/

section
variable {e : SeqEnt} {q g : Nat} (ty : VTyped e q g)
include ty

theorem VTyped.g_cases : g = 1 ∨ g = 2 ∨ g = 4 ∨ g = 8 := by
  obtain ⟨m, -, -, -, rfl⟩ := ty
  have codes : ∀ k < 8, let n := if k < 4 then 2 ^ k else 1
      n = 1 ∨ n = 2 ∨ n = 4 ∨ n = 8 := by decide
  exact codes _ (Nat.mod_lt _ (by decide))

theorem VTyped.vlmax {mx : Nat} (max : vlmaxOf e.vtype = some mx) (c : Ctx) : (e.instr c).vlmax = mx := by
  obtain ⟨-, hq, four⟩ := ty.fields
  obtain ⟨m, -, -, rfl, -⟩ := ty
  have codes : ∀ sew < 4, ∀ k < 8, k ≠ 4 →
      512 * (if k < 4 then 8 * 2 ^ k else 2 ^ (k - 5)) / (8 * (8 * 2 ^ sew)) =
        if k < 4 then 512 * 2 ^ k / (8 * 2 ^ sew) else 512 / 2 ^ (8 - k) / (8 * 2 ^ sew) := by decide
  refine (codes _ hq (wfld e.vtype 2 0) (Nat.mod_lt _ (by decide)) four).trans ?_
  unfold vlmaxOf at max
  dsimp only at max
  split at max
  · cases max
  · split at max
    · next low => rw [if_pos low, Option.some.inj max]
    · next low =>
      split at max
      · cases max
      · rw [if_neg low, Option.some.inj max]

end

/-! ### Slides -/

/-- A result of which some active elements are results of their own, and the others kept or written as f' has them. -/
theorem VecResult.of_part {s t : State} {h : Hart} {e : SeqEnt} {rest : List SeqEnt} {d n w : Nat} {act act' : Nat → Bool}
    {f f' : Nat → Nat} (r : VecResult s t h e rest d n w act' f)
    (part : ∀ i, i < e.vl → act' i = true → act i = true → f i = f' i)
    (kept : ∀ i, i < e.vl → act i = true → act' i = false → (t.ctx h).elem d w i = f' i)
    (sub : ∀ i, i < e.vl → act i = false → act' i = false) : VecResult s t h e rest d n w act f' := by
  obtain ⟨seq, vstart, xs, fs, vl, vtype, mem, outside, elems⟩ := r
  refine ⟨seq, vstart, xs, fs, vl, vtype, mem, outside, fun i hi => ?_⟩
  obtain ⟨active, inactive, tail⟩ := elems i hi
  refine ⟨fun lt a => ?_, fun lt a => inactive lt (sub i lt a), tail⟩
  cases a' : act' i
  · exact kept i lt a a'
  · exact (active lt a').trans (part i lt a' a)

/-- The values of a permutation. -/
def VI.moved (x : VI) (c : Ctx) (lo : Nat) (f : Ctx → Nat → Nat) : List (Option Nat) :=
  (List.range x.vl).map (fun i => if i < lo then none else some (f c i))

theorem VI.moved_getD {x : VI} {c : Ctx} {lo i : Nat} {f : Ctx → Nat → Nat} (hi : i < x.vl) :
    (x.moved c lo f).getD i none = if i < lo then none else some (f c i) := by
  simp [VI.moved, hi]

section
variable {x : VI} {lo : Nat} {ok : Bool} {f : Ctx → Nat → Nat}

theorem permute_leaves {s : State} {c : Ctx} (hc : (s.slot s.cur).ctx = some c) (quiet : c.Quiet) (vs : x.vs = 0)
    (legal : (!x.ill && x.groupOk x.vd x.sew && x.groupOk x.s2 x.sew && x.maskOk x.sew && ok) = true) :
    ∃ base u, x.permute lo ok f s = .ok () u ∧ s.Leaves u (x.written c base lo x.sew (x.moved c lo f)) := by
  have ctx : s.ctx s.cur = c := State.ctx_of_slot hc
  have still : (s.ctx s.cur).Quiet := by rwa [ctx]
  obtain ⟨base, u, put, left⟩ := putFrom_leaves x lo x.sew (x.moved c lo f) hc
  refine ⟨base, u, ?_, left⟩
  have put' : x.putFrom lo x.sew ((List.range x.vl).map (fun i => if i < lo then none else some (f c i))) s = .ok () u := put
  simp only [VI.permute, estate_bind, legal, require_true, estate_pure, useMask_quiet still, use_quiet still,
    waitStrips_quiet still, ctx_apply, ctx, vs, Nat.zero_max, put']

variable {s : State} {h : Hart} {e : SeqEnt} {rest : List SeqEnt} {q g : Nat}

/-- A permutation at the head of the sequencer: elements below lo stay. -/
theorem head_permute (r : HeadRuns s h e rest) (ty : VTyped e q g) : let c := s.ctx h
    let x := e.instr c
    let w := 8 * 2 ^ q
    x.run (s.atHead h e) = x.permute lo ok f (s.atHead h e) → ok = true →
    (x.vm = true ∨ x.vd ≠ 0) → x.vd % g = 0 → x.s2 % g = 0 →
    (∀ i, f c i < 2 ^ w) →
    ∃ t, exec (.sequencerHeadExecute h) s = .next t ∧
      VecResult s t h e rest x.vd g w (x.active c) (fun i => if i < lo then c.elem x.vd w i else f c i) := by
  intro c x w run apart free dest second width
  obtain ⟨hw, dvd⟩ := ty.width
  have sew : x.sew = w := ty.sew c
  obtain ⟨base, u, done, left⟩ := permute_leaves (x := x) (lo := lo) (f := f) (ok := ok) r.slot_ctx r.quiet r.vs
    (by rw [sew, ty.ill, ty.groupOk c dest, ty.groupOk c second, x.maskOk_of w free, apart]; rfl)
  rw [sew] at left
  have vs : x.vs = 0 := r.vs
  have same := x.written_sameBut c base lo w (x.moved c lo f)
  have vl : x.vl = e.vl := rfl
  rw [ty.total c] at same
  obtain ⟨t, ends, mem, ctx⟩ := head_completes r (run.trans done) left (x.written_keeps c base lo w (x.moved c lo f)).1
  have choice (i : Nat) (hi : i < e.vl) : x.choice c base lo w (x.moved c lo f) i =
      if i < lo then none else if x.active c i then some (f c i)
      else if x.ma ∧ Config.agnosticOnes (base + i) then some (ones w) else none := by
    rw [VI.choice, vs, vl, if_neg (by omega), if_pos hi]
    by_cases low : i < lo
    · rw [if_pos low, if_pos low]
    · rw [if_neg low, if_neg low, VI.moved_getD hi, if_neg low]
  have result : VecResult s t h e rest x.vd g w (fun i => x.active c i && decide (lo ≤ i)) (f c) :=
    vecResult_of_writeElems hw dvd mem ctx same (fun i _ _ => width i)
    (fun i hi a => by
      rw [Bool.and_eq_true, decide_eq_true_eq] at a
      rw [choice i hi, if_neg (by omega), if_pos a.1])
    (fun i hi a => by
      rw [choice i hi]
      by_cases low : i < lo
      · exact .inl (if_pos low)
      · rw [decide_eq_true (by omega), Bool.and_true] at a
        rw [if_neg low, a, if_neg Bool.false_ne_true]
        split
        · next agnostic => exact .inr ⟨agnostic.1, rfl⟩
        · exact .inl rfl)
    (fun i hi => by
      rw [VI.choice, vs, vl, if_neg (show ¬ i < e.vl by omega)]
      split
      · exact .inl rfl
      · split
        · next agnostic => exact .inr ⟨agnostic.1, rfl⟩
        · exact .inl rfl)
  refine ⟨t, ends, result.of_part (fun i _ a _ => ?_) (fun i hi a a' => ?_) (fun i _ a => by rw [a]; rfl)⟩
  · rw [Bool.and_eq_true, decide_eq_true_eq] at a
    rw [if_neg (by omega)]
  · rw [a, Bool.true_and, decide_eq_false_iff_not] at a'
    rw [if_pos (by omega)]
    exact elem_written_none hw dvd (by rw [ctx]; rfl) (Ctx.SameBut.refl _) (by rw [choice i hi, if_pos (by omega)])

end

section
variable {s : State} {h : Hart} {e : SeqEnt} {rest : List SeqEnt} {q g : Nat} {f6 : BitVec 6} {m : BitVec 1} {b a : Reg}
  {f3 : BitVec 3} {d : Reg}

/-- The number of places of a slide. -/
def slideOf (e : SeqEnt) (a : Reg) (f3 : BitVec 3) : Nat := if f3 = 3#3 then a.toNat else e.op1.toNat

/-- The dispatch of a slide. -/
theorem run_slide (bits : e.bits = rzWord (f6 ++ m) b a f3 d 0x57#7) (form : f3 = 3#3 ∨ f3 = 4#3) : let c := s.ctx h
    let x := e.instr c
    (f6 = 0x0e#6 → x.run (s.atHead h e) = x.slideUp (slideOf e a f3) (s.atHead h e)) ∧
      (f6 = 0x0f#6 → x.run (s.atHead h e) = x.slideDown (slideOf e a f3) (s.atHead h e)) := by
  intro c x
  obtain ⟨isOp, isF3, isF6⟩ := instr_op bits c
  obtain ⟨-, -, s1, -⟩ := instr_regs bits c
  have places : (if (fF3 x.w == 3#3) = true then x.s1 else x.op1.toNat) = slideOf e a f3 := by
    rw [isF3, s1, slideOf]
    rcases form with rfl | rfl <;> rfl
  have vec : (fF3 x.w == 0#3) = false := by
    rw [isF3]
    rcases form with rfl | rfl <;> rfl
  have scalar : fF3 x.w = 0#3 ∨ fF3 x.w = 3#3 ∨ fF3 x.w = 4#3 := by
    rw [isF3]
    exact .inr form
  constructor
  · rintro rfl
    rw [run_opi isOp scalar (by rw [isF6]; decide), VI.opi, places, vec]
    simp only [isF6]
    rfl
  · rintro rfl
    rw [run_opi isOp scalar (by rw [isF6]; decide), VI.opi, places, vec]
    simp only [isF6]
    rfl

variable (r : HeadRuns s h e rest) (ty : VTyped e q g) (bits : e.bits = rzWord (f6 ++ m) b a f3 d 0x57#7)
  (second : b.toNat % g = 0) (form : f3 = 3#3 ∨ f3 = 4#3) (free : m = 1#1 ∨ d ≠ 0#5) (dest : d.toNat % g = 0)
include r ty bits second form free dest

/-- A slide down brings elements from above, and 0 from past VLMAX. -/
theorem head_slideDown (op : f6 = 0x0f#6) {mx : Nat} (max : vlmaxOf e.vtype = some mx) :
    let c := s.ctx h
    let w := 8 * 2 ^ q
    let k := slideOf e a f3
    ∃ t, exec (.sequencerHeadExecute h) s = .next t ∧
      VecResult s t h e rest d.toNat g w (activeOf m c) (fun i => if i + k < mx then c.elem b.toNat w (i + k) else 0) := by
  intro c w k
  obtain ⟨hw, -⟩ := ty.width
  obtain ⟨vd, s2, -, vm⟩ := instr_regs bits c
  have from2 (i : Nat) : (e.instr c).from2 c (i + k) = if i + k < mx then c.elem b.toNat w (i + k) else 0 := by
    rw [VI.from2, ty.vlmax max, s2, ty.sew]
  obtain ⟨t, ends, result⟩ := head_permute r ty ((run_slide bits form).2 op) rfl (by rw [vm, vd]; exact free_of free)
    (by rw [vd, dest]) (by rw [s2, second]) (fun i => by
      rw [from2]
      split
      · exact c.elem_lt _ hw _
      · exact Nat.two_pow_pos w)
  rw [vd, active_eq c vm] at result
  exact ⟨t, ends, result.congr fun i => (if_neg (Nat.not_lt_zero i)).trans (from2 i)⟩

/-- A slide up leaves the elements below its number of places, and takes the others from below. -/
theorem head_slideUp (op : f6 = 0x0e#6) (apart : d ≠ b) :
    let c := s.ctx h
    let w := 8 * 2 ^ q
    let k := slideOf e a f3
    ∃ t, exec (.sequencerHeadExecute h) s = .next t ∧
      VecResult s t h e rest d.toNat g w (activeOf m c) (fun i => if i < k then c.elem d.toNat w i else c.elem b.toNat w (i - k)) := by
  intro c w k
  obtain ⟨hw, -⟩ := ty.width
  obtain ⟨vd, s2, -, vm⟩ := instr_regs bits c
  have sew : (e.instr c).sew = w := ty.sew c
  have ok : (e.instr c).apart2 = true := by
    have ne : d.toNat ≠ b.toNat := fun same => apart (BitVec.eq_of_toNat_eq same)
    have disjoint : ¬ (d.toNat < b.toNat + g ∧ b.toNat < d.toNat + g) := by
      rcases ty.g_cases with rfl | rfl | rfl | rfl <;> omega
    rw [VI.apart2, sew, ty.regs, vd, s2, overlap, ← Bool.decide_and, decide_eq_false disjoint]
    rfl
  obtain ⟨t, ends, result⟩ := head_permute r ty ((run_slide bits form).1 op) ok (by rw [vm, vd]; exact free_of free)
    (by rw [vd, dest]) (by rw [s2, second]) (fun i => by rw [sew]; exact c.elem_lt _ hw _)
  rw [vd, active_eq c vm] at result
  refine ⟨t, ends, result.congr fun i => ?_⟩
  rw [sew, s2]

end

/-! ### Widening -/

/-- What a widening operation gives, at twice the width w of its elements. -/
def opmWidenOf (k w x y : Nat) : Nat :=
  match k with
  | 0x30 => x + y
  | 0x31 => uint (sint x w + sint y w) (2 * w)
  | 0x32 => uint ((x : Int) - y) (2 * w)
  | 0x33 => uint (sint x w - sint y w) (2 * w)
  | 0x38 => x * y
  | _ => uint (sint x w * sint y w) (2 * w)

/-- Its operations. -/
def widenOps : List Nat := [0x30, 0x31, 0x32, 0x33, 0x38, 0x3b]

section
variable {k w x y : Nat} (hx : x < 2 ^ w) (hy : y < 2 ^ w)
include hx hy

theorem add_lt_wide (hw : 0 < w) : x + y < 2 ^ (2 * w) ∧ x * y < 2 ^ (2 * w) := by
  have square : 2 ^ (2 * w) = 2 ^ w * 2 ^ w := by rw [Nat.two_mul, Nat.pow_add]
  have two : 2 ≤ 2 ^ w := Nat.le_self_pow hw.ne' 2
  rw [square]
  exact ⟨(Nat.add_lt_add hx hy).trans_le ((Nat.two_mul _).symm ▸ Nat.mul_le_mul_right _ two), Nat.mul_lt_mul'' hx hy⟩

theorem opmWiden_eq (hw : 0 < w) (old : Nat) (op : k ∈ widenOps) : opmWiden k w old x y = vr (opmWidenOf k w x y) := by
  obtain ⟨sum, product⟩ := add_lt_wide hx hy hw
  simp only [widenOps, List.mem_cons, List.not_mem_nil, or_false] at op
  rcases op with rfl | rfl | rfl | rfl | rfl | rfl
  · show vi (2 * w) ((x : Int) + y) = vr (x + y)
    rw [vi, vr, ← Nat.cast_add, uint_of_lt sum]
  · rfl
  · rfl
  · rfl
  · show vi (2 * w) ((x : Int) * y) = vr (x * y)
    rw [vi, vr, ← Nat.cast_mul, uint_of_lt product]
  · rfl

theorem opmWidenOf_lt (hw : 0 < w) : opmWidenOf k w x y < 2 ^ (2 * w) := by
  obtain ⟨sum, product⟩ := add_lt_wide hx hy hw
  unfold opmWidenOf
  split
  · exact sum
  · exact uint_lt _ _
  · exact uint_lt _ _
  · exact uint_lt _ _
  · exact product
  · exact uint_lt _ _

end

/-- The dispatch of a widening operation. -/
theorem opm_widen {x : VI} (rm : Nat) (op : fF6 x.w ∈ widenOps) :
    x.opm rm = x.elementwise (2 * x.sew) x.sew x.sew (x.intSrc x.sew false) (fun _ d a b => opmWiden (fF6 x.w) x.sew d a b) := by
  have apart : ∀ k ∈ widenOps, ¬ k < 8 ∧ k ≠ 0x0e ∧ k ≠ 0x0f ∧ k ≠ 0x10 ∧ k ≠ 0x12 ∧ k ≠ 0x14 ∧ k ≠ 0x17 ∧
      ¬ (0x18 ≤ k ∧ k ≤ 0x1f) ∧ ¬ (0x34 ≤ k ∧ k ≤ 0x37) ∧ 0x30 ≤ k := by decide
  obtain ⟨reduce, up, down, scalar, extend, mask, compress, logic, wideW, wide⟩ := apart _ op
  simp only [VI.opm, reduce, up, down, scalar, extend, mask, compress, logic, wideW, wide, and_false, if_false, if_true]

/-- The registers of a group of twice the width. -/
def wideRegs (e : SeqEnt) (g : Nat) : Nat := if wfld e.vtype 2 0 < 3 then 2 * g else 1

section
variable {s : State} {h : Hart} {e : SeqEnt} {rest : List SeqEnt} {q g : Nat} {f6 : BitVec 6} {m : BitVec 1} {b a : Reg}
  {f3 : BitVec 3} {d : Reg} (ty : VTyped e q g) (small : q < 3) (lmul : wfld e.vtype 2 0 ≠ 3)
include ty small lmul

theorem VTyped.emul_wide (c : Ctx) : (e.instr c).emul (2 * (8 * 2 ^ q)) = 2 * (e.instr c).lm := by
  obtain ⟨-, -, four⟩ := ty.fields
  have sew : 8 ≤ 2 * (8 * 2 ^ q) ∧ 2 * (8 * 2 ^ q) ≤ 64 ∧ 0 < 8 * 2 ^ q := by
    have : ∀ k < 3, 8 ≤ 2 * (8 * 2 ^ k) ∧ 2 * (8 * 2 ^ k) ≤ 64 ∧ 0 < 8 * 2 ^ k := by decide
    exact this q small
  have codes : ∀ k < 8, k ≠ 3 → k ≠ 4 → (if k < 4 then 8 * 2 ^ k else 2 ^ (k - 5)) ≤ 32 := by decide
  have lm : (e.instr c).lm ≤ 32 := codes _ (Nat.mod_lt _ (by decide)) lmul four
  have twice : (e.instr c).lm * (2 * (8 * 2 ^ q)) = 2 * (e.instr c).lm * (8 * 2 ^ q) := by ring
  rw [VI.emul, ty.sew, twice, Nat.mul_div_cancel _ sew.2.2, if_pos ⟨sew.1, sew.2.1, Nat.mul_mod_left _ _, by omega⟩]

theorem VTyped.regs_wide (c : Ctx) : (e.instr c).regs (2 * (8 * 2 ^ q)) = wideRegs e g := by
  obtain ⟨-, -, four⟩ := ty.fields
  have emul := ty.emul_wide small lmul c
  obtain ⟨m, -, -, -, rfl⟩ := ty
  have codes : ∀ k < 8, k ≠ 3 → k ≠ 4 → groupRegs (2 * (if k < 4 then 8 * 2 ^ k else 2 ^ (k - 5))) =
      if k < 3 then 2 * (if k < 4 then 2 ^ k else 1) else 1 := by decide
  rw [VI.regs, emul]
  exact codes _ (Nat.mod_lt _ (by decide)) lmul four

/-- A destination of twice the width apart from a source may stand beside it. -/
theorem VTyped.overlapOk_wide (c : Ctx) {v u : Nat} (apart : v + wideRegs e g ≤ u ∨ u + g ≤ v) :
    (e.instr c).overlapOk v (2 * (8 * 2 ^ q)) u (8 * 2 ^ q) = true := by
  have disjoint : ¬ (v < u + g ∧ u < v + wideRegs e g) := by omega
  rw [VI.overlapOk, ty.regs_wide small lmul, ty.regs, overlap, ← Bool.decide_and, decide_eq_false disjoint]
  rfl

theorem head_widen (r : HeadRuns s h e rest) (bits : e.bits = rzWord (f6 ++ m) b a f3 d 0x57#7) (second : b.toNat % g = 0)
    (first : f3.toNat < 3 → a.toNat % g = 0) (form : f3 = 2#3 ∨ f3 = 6#3) (free : m = 1#1 ∨ d ≠ 0#5)
    (ops : f6.toNat ∈ widenOps) (dest : d.toNat % wideRegs e g = 0)
    (apart : d.toNat + wideRegs e g ≤ b.toNat ∨ b.toNat + g ≤ d.toNat)
    (apart1 : f3 = 2#3 → d.toNat + wideRegs e g ≤ a.toNat ∨ a.toNat + g ≤ d.toNat) :
    let c := s.ctx h
    let w := 8 * 2 ^ q
    ∃ t, exec (.sequencerHeadExecute h) s = .next t ∧
      VecResult s t h e rest d.toNat (wideRegs e g) (2 * w) (activeOf m c) (fun i =>
        opmWidenOf f6.toNat w (c.elem b.toNat w i) (secondOf c e q f6 a f3 i)) := by
  intro c w
  obtain ⟨hw, -⟩ := ty.width
  obtain ⟨pos, -⟩ := ty.lm c
  obtain ⟨fOp, fF3, fF6⟩ := instr_op bits c
  obtain ⟨vd, s2, s1, vm⟩ := instr_regs bits c
  have sew : (e.instr c).sew = w := ty.sew c
  have dvd : 2 * w ∣ 512 := by
    have : ∀ k < 3, 2 * (8 * 2 ^ k) ∣ 512 := by decide
    exact this q small
  have x (i : Nat) : c.elem b.toNat w i < 2 ^ w := c.elem_lt _ hw i
  have y (i : Nat) : secondOf c e q f6 a f3 i < 2 ^ w := secondOf_lt ty c i fun five => by
    subst five
    exact absurd form (by decide)
  have group : (e.instr c).groupOk d.toNat (2 * w) = true := by
    rw [VI.groupOk, ty.regs_wide small lmul, dest, ty.emul_wide small lmul, bne_iff_ne.mpr (by omega)]
    rfl
  have srcOk : (e.instr c).srcOk ((e.instr c).intSrc w false) (2 * w) w = true := by
    cases src : (e.instr c).intSrc w false with
    | vec =>
      have lt := intSrc_vec fF3 src
      have two : f3 = 2#3 := by
        rcases form with rfl | rfl
        · rfl
        · exact absurd lt (by decide)
      rw [VI.srcOk, s1, vd, ty.groupOk c (first lt), ty.overlapOk_wide small lmul c (apart1 two)]
      rfl
    | scalar v => rfl
  obtain ⟨base, u, done, left⟩ := elementwise_leaves (dw := 2 * w) (aw := w) (bw := w) (src := (e.instr c).intSrc w false)
    (f := fun _ old u v => opmWiden f6.toNat w old u v) r.slot_ctx r.quiet r.vs (by
      rw [ty.ill, vd, s2, group, ty.groupOk c second, ty.overlapOk_wide small lmul c apart, srcOk,
        (e.instr c).maskOk_of (2 * w) (by rw [vm, vd]; exact free_of free)]
      rfl)
  have run : (e.instr c).run (s.atHead h e) = (e.instr c).elementwise (2 * w) w w ((e.instr c).intSrc w false)
      (fun _ old u v => opmWiden f6.toNat w old u v) (s.atHead h e) := by
    rw [run_opm fOp (by rw [fF3]; exact form), opm_widen _ (by rw [fF6]; exact ops), fF6, sew]
  have fn : (e.instr c).elementOf c (2 * w) w w ((e.instr c).intSrc w false) (fun _ old u v => opmWiden f6.toNat w old u v) =
      fun i => vr (opmWidenOf f6.toNat w (c.elem b.toNat w i) (secondOf c e q f6 a f3 i)) := funext fun i => by
    rw [VI.elementOf, s2, srcElem_opm c bits form, opmWiden_eq (x i) (y i) hw _ ops]
  rw [fn] at left
  obtain ⟨t, ends, result, -⟩ := head_results r (by omega) dvd (by rw [VI.total, ty.regs_wide small lmul]) (run.trans done) left
    (fun i => opmWidenOf_lt (x i) (y i) hw)
  rw [vd, active_eq c vm] at result
  exact ⟨t, ends, result⟩

end

end Sys2Proof.Machine
end

section
/-! The integer reductions of the standard vector instructions (spec/03_encoding.md R67; log entry 13). -/

namespace Sys2Proof.Machine

open Sys2Proof

/-! ### The fold of a reduction -/

/-- A reduction's fold over its active elements. -/
def reduceTo (f : Int → Nat → Int) (act : Nat → Bool) (el : Nat → Nat) (init : Int) (n : Nat) : Int :=
  (List.range n).foldl (fun r i => if act i then f r (el i) else r) init

/-- It keeps a relation of its value to a chain that its steps keep. -/
theorem reduceTo_related {f : Int → Nat → Int} {step : Nat → Nat → Nat}
    {act : Nat → Bool} {el : Nat → Nat} {init : Int} {z : Nat}
    (rel : Int → Nat → Prop) (start : rel init z) (keeps : ∀ r v i, rel r v → rel (f r (el i)) (step v (el i))) (n : Nat) :
    rel (reduceTo f act el init n) (chainOf step act el z n) := by
  induction n with
  | zero => exact start
  | succ n ih =>
    rw [reduceTo, List.range_succ, List.foldl_append, chainOf]
    show rel (if act n then f (reduceTo f act el init n) (el n) else reduceTo f act el init n) _
    split
    · exact keeps _ _ n ih
    · exact ih

/-- One step of the chain of an integer reduction. -/
def redStep (k w r v : Nat) : Nat :=
  match k with
  | 0 => (r + v) % 2 ^ w
  | 1 => r &&& v
  | 2 => r ||| v
  | 3 => r ^^^ v
  | 4 => min r v
  | 5 => uint (min (sint r w) (sint v w)) w
  | 6 => max r v
  | _ => uint (max (sint r w) (sint v w)) w

/-- The step and the start of the model's fold. -/
def redFn (k w : Nat) (r : Int) (v : Nat) : Int :=
  match k with
  | 0 => r + sint v w
  | 1 => (r.toNat &&& v : Nat)
  | 2 => (r.toNat ||| v : Nat)
  | 3 => (r.toNat ^^^ v : Nat)
  | 4 => (min r.toNat v : Nat)
  | 5 => min r (sint v w)
  | 6 => (max r.toNat v : Nat)
  | _ => max r (sint v w)

def redInit (k w v : Nat) : Int :=
  match k with
  | 0 => sint v w
  | 1 => v
  | 2 => v
  | 3 => v
  | 4 => v
  | 5 => sint v w
  | 6 => v
  | _ => sint v w

theorem redInt_eq (x : VI) {k : Nat} (small : k < 8) : x.redInt k = x.reduceInt x.sew (redFn k x.sew) (redInit k x.sew) := by
  interval_cases k <;> rfl

theorem ofNat_uint (i : Int) (w : Nat) : BitVec.ofNat w (uint i w) = BitVec.ofInt w i := by
  apply BitVec.eq_of_toNat_eq
  rw [BitVec.toNat_ofNat, BitVec.toNat_ofInt, Nat.mod_eq_of_lt (uint_lt i w), uint]

theorem sint_uint_sint (v w : Nat) : sint (uint (sint v w) w) w = sint v w := by
  rw [sint_eq_toInt, ofNat_uint, sint_eq_toInt v, BitVec.ofInt_toInt]

/-- A number and its residue differ by a multiple of 2^w. -/
theorem exists_uint_eq (i : Int) (w : Nat) : ∃ k : Int, i = uint i w + (2 ^ w : Nat) * k := by
  have pos : ((2 ^ w : Nat) : Int) ≠ 0 := by exact_mod_cast (Nat.two_pow_pos w).ne'
  refine ⟨i / (2 ^ w : Nat), ?_⟩
  rw [uint, Int.toNat_of_nonneg (Int.emod_nonneg i pos), Int.emod_add_mul_ediv]

/-- The extremes of two signed numbers are signed numbers. -/
theorem sint_uint_min {w a b : Nat} : sint (uint (min (sint a w) (sint b w)) w) w = min (sint a w) (sint b w) ∧
    sint (uint (max (sint a w) (sint b w)) w) w = max (sint a w) (sint b w) := by
  constructor
  · rcases min_choice (sint a w) (sint b w) with h | h <;> rw [h, sint_uint_sint]
  · rcases max_choice (sint a w) (sint b w) with h | h <;> rw [h, sint_uint_sint]

/-- What the model's fold has when the chain has z. -/
def RedRel (k w : Nat) (r : Int) (z : Nat) : Prop :=
  z < 2 ^ w ∧ match k with
    | 0 => uint r w = z
    | 5 => r = sint z w
    | 7 => r = sint z w
    | _ => r = z

theorem redRel_init {k w v : Nat} (small : k < 8) (fits : v < 2 ^ w) : RedRel k w (redInit k w v) v := by
  refine ⟨fits, ?_⟩
  interval_cases k
  · exact uint_sint fits
  all_goals rfl

theorem redRel_step {k w : Nat} {r : Int} {z v : Nat} (small : k < 8) (fits : v < 2 ^ w) (rel : RedRel k w r z) :
    RedRel k w (redFn k w r v) (redStep k w z v) := by
  obtain ⟨lt, rel⟩ := rel
  obtain ⟨low, high⟩ := sint_uint_min (w := w) (a := z) (b := v)
  interval_cases k
  · refine ⟨Nat.mod_lt _ (Nat.two_pow_pos w), ?_⟩
    obtain ⟨i, hr⟩ := exists_uint_eq r w
    obtain ⟨j, hv⟩ := exists_sint_eq fits
    have sum : r + sint v w = ((z + v : Nat) : Int) + (2 ^ w : Nat) * (i + j) := by
      rw [hr, show uint r w = z from rel, hv, Nat.cast_add]
      ring
    show uint (r + sint v w) w = (z + v) % 2 ^ w
    rw [sum, uint_add_mul, uint_natCast]
  · exact ⟨Nat.and_lt_two_pow _ fits, by rw [show r = z from rel]; rfl⟩
  · exact ⟨Nat.or_lt_two_pow lt fits, by rw [show r = z from rel]; rfl⟩
  · exact ⟨Nat.xor_lt_two_pow lt fits, by rw [show r = z from rel]; rfl⟩
  · exact ⟨(Nat.min_le_left _ _).trans_lt lt, by rw [show r = z from rel]; rfl⟩
  · exact ⟨uint_lt _ _, by rw [show r = sint z w from rel]; exact low.symm⟩
  · exact ⟨Nat.max_lt.mpr ⟨lt, fits⟩, by rw [show r = z from rel]; rfl⟩
  · exact ⟨uint_lt _ _, by rw [show r = sint z w from rel]; exact high.symm⟩

theorem redRel_uint {k w : Nat} {r : Int} {z : Nat} (small : k < 8) (rel : RedRel k w r z) : uint r w = z := by
  obtain ⟨lt, rel⟩ := rel
  interval_cases k
  · exact rel
  · rw [show r = z from rel, uint_of_lt lt]
  · rw [show r = z from rel, uint_of_lt lt]
  · rw [show r = z from rel, uint_of_lt lt]
  · rw [show r = z from rel, uint_of_lt lt]
  · rw [show r = sint z w from rel, uint_sint lt]
  · rw [show r = z from rel, uint_of_lt lt]
  · rw [show r = sint z w from rel, uint_sint lt]

theorem uint_reduceTo {k w : Nat} {act : Nat → Bool} {el : Nat → Nat} {init : Nat} (small : k < 8) (start : init < 2 ^ w)
    (elems : ∀ i, el i < 2 ^ w) (n : Nat) :
    uint (reduceTo (redFn k w) act el (redInit k w init) n) w = chainOf (redStep k w) act el init n :=
  redRel_uint small (reduceTo_related (RedRel k w) (redRel_init small start)
    (fun _ _ i rel => redRel_step small (elems i) rel) n)

/-! ### The instruction -/

section
variable {x : VI} {s : State} {c : Ctx} {dw : Nat} {f : Int → Nat → Int} {init : Nat → Int}

/-- The sum of a reduction. -/
def VI.reduced (x : VI) (c : Ctx) (dw : Nat) (f : Int → Nat → Int) (init : Nat → Int) : Nat :=
  uint (reduceTo f (x.active c) (c.elem x.s2 x.sew) (init (c.elem x.s1 dw 0)) x.vl) dw

theorem reduceInt_leaves (hc : (s.slot s.cur).ctx = some c) (quiet : c.Quiet)
    (legal : (!x.ill && x.groupOk x.s2 x.sew && x.vs == 0 && decide (dw ≤ 64)) = true) :
    ∃ base u, x.reduceInt dw f init s = .ok () u ∧
      s.Leaves u (if x.vl = 0 then c else x.scalarWritten c base dw (x.reduced c dw f init)) := by
  have ctx : s.ctx s.cur = c := State.ctx_of_slot hc
  have still : (s.ctx s.cur).Quiet := by rwa [ctx]
  have runs : x.reduceInt dw f init s = x.putScalar dw (x.reduced c dw f init) s := by
    simp only [VI.reduceInt, estate_bind, legal, require_true, estate_pure, useMask_quiet still, use_quiet still,
      useV_quiet still, waitStrips_quiet still, ctx_apply, ctx]
    rfl
  by_cases zero : x.vl = 0
  · refine ⟨0, s, ?_, by rw [if_pos zero]; exact ⟨rfl, rfl, hc⟩⟩
    rw [runs, VI.putScalar, if_pos zero]
    rfl
  · obtain ⟨base, u, put, left⟩ := putScalar_leaves x dw (x.reduced c dw f init) zero hc
    exact ⟨base, u, runs.trans put, by rwa [if_neg zero]⟩

end

/-- An integer reduction at the head of the sequencer. -/
theorem head_redInt {s : State} {h : Hart} {e : SeqEnt} {rest : List SeqEnt} {q g k : Nat} {m : BitVec 1} {b a d : Reg}
    (r : HeadRuns s h e rest) (ty : VTyped e q g) (small : k < 8)
    (bits : e.bits = rzWord (BitVec.ofNat 6 k ++ m) b a 2#3 d 0x57#7) (second : b.toNat % g = 0) :
    let c := s.ctx h
    let w := 8 * 2 ^ q
    ∃ t, exec (.sequencerHeadExecute h) s = .next t ∧ VecScalar s t h e rest d.toNat w
      (chainOf (redStep k w) (activeOf m c) (c.elem b.toNat w) (c.elem a.toNat w 0) e.vl) := by
  intro c w
  obtain ⟨hw, dvd⟩ := ty.width
  obtain ⟨-, le⟩ := ty.width_bounds
  obtain ⟨isOp, isF3, isF6⟩ := instr_op bits c
  obtain ⟨vd, s2, s1, vm⟩ := instr_regs bits c
  have sew : (e.instr c).sew = w := ty.sew c
  have vs : (e.instr c).vs = 0 := r.vs
  have f6 : fF6 (e.instr c).w = k := isF6.trans (Nat.mod_eq_of_lt (by omega))
  have vec : (fF3 (e.instr c).w == 2#3) = true := by rw [isF3]; rfl
  have sum : (e.instr c).reduced c w (redFn k w) (redInit k w) =
      chainOf (redStep k w) (activeOf m c) (c.elem b.toNat w) (c.elem a.toNat w 0) e.vl := by
    rw [VI.reduced, sew, s2, s1, active_eq c vm]
    exact uint_reduceTo small (c.elem_lt _ hw 0) (fun i => c.elem_lt _ hw i) e.vl
  obtain ⟨base, u, done, left⟩ := reduceInt_leaves (x := e.instr c) (dw := w) (f := redFn k w) (init := redInit k w) r.slot_ctx
    r.quiet (by rw [ty.ill, sew, s2, ty.groupOk c second, vs, decide_eq_true le]; rfl)
  have run : (e.instr c).run (s.atHead h e) = .ok () u := by
    rw [← done, run_opm isOp (.inl isF3), VI.opm, f6, vec, if_pos ⟨rfl, small⟩, redInt_eq _ small, sew]
  rw [sum, show (e.instr c).vl = e.vl from rfl] at left
  by_cases zero : e.vl = 0
  · rw [if_pos zero] at left
    obtain ⟨t, ends, mem, ctx⟩ := head_completes r run left rfl
    exact ⟨t, ends, vecScalar_of_none zero mem ctx⟩
  · rw [if_neg zero] at left
    have fits : chainOf (redStep k w) (activeOf m c) (c.elem b.toNat w) (c.elem a.toNat w 0) e.vl < 2 ^ w := by
      rw [← sum]
      exact uint_lt _ _
    obtain ⟨t, ends, mem, ctx⟩ := head_completes r run left ((e.instr c).scalarWritten_frame c base w _).1
    refine ⟨t, ends, ?_⟩
    rw [← vd]
    exact vecScalar_of_scalarWritten hw dvd zero rfl mem ctx (Ctx.SameBut.refl _) fits

end Sys2Proof.Machine
end

section
/-! One element of a vector access of the own scratchpad (spec/03_encoding.md R67; spec/06_page.md R165; spec/07_context.md R191). -/

namespace Sys2Proof.Machine

open Sys2Proof

/-! ### Bytes of the own scratchpad -/

section
variable {s : State} {off n : Nat} {va : Word} {st : Bool} (hart : s.cur < 20480) (address : va = w64 (0x7F8000000000 + off))
  (free : ownScratchFree s off n st)
include hart address free

/-- The one part of an access that stays within a page. -/
theorem translateParts_own {acc : Acc} (data : acc ≠ .fetch) :
    translateParts acc va (pageParts va n) s = .ok [(ownTarget s.cur.gcore off, va, n)] (s.wonMem s.cur) := by
  simp [pageParts_own free address, translateParts, translate_own free hart va address data]

theorem loadBytes_own (load : st = false) : ∃ t, loadBytes va n s = .ok (s.mem.readN (scratchPa s.cur.gcore off) n) t ∧
    s.AccessedOwn t ∧ t.mem = s.mem := by
  have won : s.AccessedOwn (s.wonMem s.cur) := State.accessedOwn_wonMem
  have noted := won.trans (State.accessedOwn_noteStale (s := s.wonMem s.cur))
  have answer := loadTarget_own (free.accessed won) hart load va.toNat
  rw [State.cur_wonMem] at answer
  refine ⟨_, ?_, noted.trans (State.accessedOwn_accessEnd va n), rfl⟩
  have part : loadParts [(ownTarget s.cur.gcore off, va, n)] (s.wonMem s.cur) =
      .ok (s.mem.readN (scratchPa s.cur.gcore off) n, none) ((s.wonMem s.cur).noteStale s.cur.gcore) := by
    simp [loadParts, answer]
  simp only [loadBytes, estate_bind, translateParts_own hart address free (acc := .load) (by decide), part,
    estate_pure, accessDone_apply (acc := .load) (by decide)]
  rfl

end

/-! ### Poison that a store clears -/

/-- The blocks of an access within a scratchpad are in that scratchpad. -/
theorem scratchAt_block {h : Hart} {off n b : Nat} (inside : off + n ≤ 0x40000) (some : 0 < n)
    (block : b ∈ blocks (scratchPa h.gcore off) n) : (scratchAt b).1 = h.gcore := by
  rw [blocks, if_neg (by omega)] at block
  obtain ⟨i, hi, rfl⟩ := List.mem_map.mp block
  rw [List.mem_range] at hi
  unfold scratchAt
  unfold scratchPa scratchBase at *
  dsimp only
  omega

/-- A block of the own scratchpad is cleared in storage. -/
theorem State.clearBlock_own {s : State} {off b : Nat} (own : (scratchAt b).1 = s.cur.gcore) :
    s.clearBlock s.cur (ownTarget s.cur.gcore off) b = s.setPoison b false := by
  have near : ¬ (rangeOf (ownTarget s.cur.gcore off).a = .scratch ∧ (ownTarget s.cur.gcore off).sram = true ∧
      (scratchAt b).1 ≠ s.cur.gcore) := fun far => far.2.2 own
  rw [State.clearBlock]
  dsimp only
  rw [if_neg near]
  exact if_pos rfl

theorem State.accessedOwn_setPoison {s : State} (b : Nat) (clean : s.poison = []) : s.AccessedOwn (s.setPoison b false) :=
  ⟨rfl, rfl, rfl, rfl, fun _ _ => rfl, rfl, fun _ _ => rfl, rfl, rfl, by
    show s.poison.filter _ = s.poison
    rw [clean]
    rfl⟩

/-- Blocks of the own scratchpad, each cleared or left. -/
theorem clearBlocks_own {s : State} {f : State → Nat → State} {bs : List Nat} (clean : s.poison = [])
    (step : ∀ u b, b ∈ bs → u.cur = s.cur → f u b = u ∨ f u b = u.setPoison b false) :
    s.AccessedOwn (bs.foldl f s) ∧ (bs.foldl f s).mem = s.mem := by
  induction bs generalizing s with
  | nil => exact ⟨.refl, rfl⟩
  | cons b bs ih =>
    obtain ⟨acc, mem⟩ : s.AccessedOwn (f s b) ∧ (f s b).mem = s.mem := by
      rcases step s b List.mem_cons_self rfl with same | cleared
      · rw [same]
        exact ⟨.refl, rfl⟩
      · rw [cleared]
        exact ⟨State.accessedOwn_setPoison b clean, rfl⟩
    obtain ⟨acc', mem'⟩ := ih (s := f s b) (acc.poison.trans clean)
      (fun u b' hb cur => step u b' (List.mem_cons_of_mem _ hb) (cur.trans acc.cur))
    exact ⟨acc.trans acc', mem'.trans mem⟩

/-- What an element's store does about the poison of one block. -/
def State.clearIf (whole : Word → Bool) (tg : Target) (va : Word) (s : State) (b : Nat) : State :=
  let g := (scratchAt b).1
  let remote : Bool := tg.sram && rangeOf tg.a == .scratch && g != s.cur.gcore
  if (remote || s.poisonAt s.cur tg b) && whole (va - va % 32#64 + w64 (b - blk tg.a)) then
    s.clearBlock s.cur tg b
  else s

theorem clearWhole_apply (whole : Word → Bool) (tg : Target) (va : Word) (n : Nat) (s : State) :
    clearWhole whole (tg, va, n) s = .ok () ((blocks tg.a n).foldl (State.clearIf whole tg va) s) := rfl

theorem State.clearIf_own {s : State} {off b : Nat} (whole : Word → Bool) (va : Word) (own : (scratchAt b).1 = s.cur.gcore) :
    s.clearIf whole (ownTarget s.cur.gcore off) va b = s ∨
      s.clearIf whole (ownTarget s.cur.gcore off) va b = s.setPoison b false := by
  unfold State.clearIf
  dsimp only
  split
  · exact .inr (State.clearBlock_own own)
  · exact .inl rfl

theorem clearWhole_own {s : State} {off n : Nat} {st : Bool} (free : ownScratchFree s off n st) (whole : Word → Bool) (va : Word) :
    ∃ t, clearWhole whole (ownTarget s.cur.gcore off, va, n) s = .ok () t ∧ s.AccessedOwn t ∧ t.mem = s.mem := by
  obtain ⟨-, fits, some, -⟩ := id free
  refine ⟨_, clearWhole_apply whole _ va n s, clearBlocks_own free.clean fun u b block cur => ?_⟩
  rw [← cur]
  exact State.clearIf_own whole va (by rw [cur]; exact scratchAt_block fits some block)

/-! ### The fields of one element -/

theorem storeParts_one {tg : Target} {bs : List Byte} {n : Nat} {s t : State} (va : Word) (len : bs.length = n)
    (stored : storeTarget tg bs s = .ok () t) : storeParts [(tg, va, n)] bs s = .ok () t := by
  simp only [storeParts, List.take_of_length_le (Nat.le_of_eq len), estate_bind, stored, estate_pure]

/-- An element's store whose checks, stalls and stores answer. -/
theorem moveFields_of_stores {x : VI} {n i regs : Nat} {va : Word} {whole : Word → Bool} {s u v t : State} {p : Target × Word × Nat}
    (store : x.store = true) (checked : storeFields (8 * n) va [0] s = .ok [p] u) (free : stallParts true [p] u = .ok () u)
    (written : storeParts [p] (leBytes n ((u.ctx u.cur).elem x.vd (8 * n) i)) u = .ok () v)
    (cleared : clearWhole whole p v = .ok () t) : x.moveFields (8 * n) regs i va [0] whole s = .ok () (t.accessEnd va n) := by
  have width : 8 * n / 8 = n := Nat.mul_div_cancel_left n (by decide)
  have once : [p].forM (clearWhole whole) v = .ok () t := by
    simp only [List.forM, estate_bind, cleared, estate_pure]
  simp only [VI.moveFields, store, if_true, estate_bind, checked, free, ctx_apply, width, List.flatMap_cons,
    List.flatMap_nil, List.append_nil, Nat.zero_mul, Nat.add_zero, written, once,
    accessDone_apply (acc := .store) (by decide), List.length_singleton, Nat.one_mul]

section
variable {s : State} {off n : Nat} {va : Word} (free : ownScratchFree s off n true)
include free

theorem stallParts_own : stallParts true [(ownTarget s.cur.gcore off, va, n)] s = .ok () s := by
  simp only [stallParts, ownTarget, if_true, estate_bind, stallSram_own free, estate_pure]

variable (hart : s.cur < 20480)
include hart

theorem storeParts_own {bs : List Byte} (len : bs.length = n) (short : n ≤ 64) :
    storeParts [(ownTarget s.cur.gcore off, va, n)] bs s = .ok () (s.putBytes (scratchPa s.cur.gcore off) bs (some s.cur)) := by
  exact storeParts_one va len (storeTarget_own free hart (by omega))

theorem storeFields_own (address : va = w64 (0x7F8000000000 + off)) : ∃ t,
    storeFields (8 * n) va [0] s = .ok [(ownTarget s.cur.gcore off, va, n)] t ∧ s.AccessedOwn t ∧ t.mem = s.mem := by
  have width : 8 * n / 8 = n := Nat.mul_div_cancel_left n (by decide)
  have first : va + w64 0 = va := BitVec.add_zero va
  refine ⟨s.wonMem s.cur, ?_, State.accessedOwn_wonMem, rfl⟩
  simp only [storeFields, width, Nat.zero_mul, first, estate_bind, translateParts_own hart address free (acc := .store) (by decide),
    estate_pure, List.append_nil]

end

section
variable {s : State} {x : VI} {off n i regs : Nat} {va : Word} (hart : s.cur < 20480) (address : va = w64 (0x7F8000000000 + off))
include hart address

theorem moveFields_load (load : x.store = false) (free : ownScratchFree s off n false) :
    ∃ t, (∀ whole, x.moveFields (8 * n) regs i va [0] whole s = .ok () (t.modCtx t.cur (fun c =>
        (c.setElem x.vd (8 * n) i (leNat (s.mem.readN (scratchPa s.cur.gcore off) n))).dirtyV))) ∧
      s.AccessedOwn t ∧ t.mem = s.mem := by
  obtain ⟨t, bytes, acc, mem⟩ := loadBytes_own hart address free rfl
  refine ⟨t, fun whole => ?_, acc, mem⟩
  have width : 8 * n / 8 = n := Nat.mul_div_cancel_left n (by decide)
  have first : va + w64 0 = va := BitVec.add_zero va
  simp only [VI.moveFields, load, Bool.false_eq_true, if_false, loadFields, width, Nat.zero_mul, first, estate_bind, bytes,
    estate_pure, modCtx_apply, List.foldl_cons, List.foldl_nil, Nat.add_zero]

theorem moveFields_store (whole : Word → Bool) (store : x.store = true) (free : ownScratchFree s off n true) (short : n ≤ 64) :
    ∃ t, x.moveFields (8 * n) regs i va [0] whole s = .ok () t ∧ s.AccessedOwn t ∧
      t.mem = s.mem.writeN (scratchPa s.cur.gcore off) (leBytes n ((s.ctx s.cur).elem x.vd (8 * n) i)) := by
  obtain ⟨u, checked, acc, mem⟩ := storeFields_own free hart address
  have free' := free.accessed acc
  rw [← mem, ← acc.ctx]
  rw [← acc.cur] at checked hart ⊢
  generalize bytes : leBytes n ((u.ctx u.cur).elem x.vd (8 * n) i) = bs
  have len : bs.length = n := by rw [← bytes]; exact length_leBytes _ _
  have written := storeParts_own (va := va) free' hart len short
  have put := State.accessedOwn_putBytes (scratchPa u.cur.gcore off) bs free'.clean
  obtain ⟨v, cleared, acc', mem'⟩ := clearWhole_own (free'.accessed put) whole va
  rw [put.cur] at cleared
  have all := (acc.trans put).trans acc'
  subst bytes
  exact ⟨v.accessEnd va n, moveFields_of_stores store checked (stallParts_own free') written cleared,
    all.trans (State.accessedOwn_accessEnd va n), mem'⟩

end

end Sys2Proof.Machine
end

section
/-! The elements of a vector access of the own scratchpad, one after another, and the policies of a load (spec/03_encoding.md R67;
spec/07_context.md R191). -/

namespace Sys2Proof.Machine

open Sys2Proof

/-! ### The state while the elements move -/

/-- c is d but for its v registers, their poison, the status and vstart. -/
def Ctx.Moves (c d : Ctx) : Prop :=
  c = { d with v := c.v, vpoison := c.vpoison, sstatus := c.sstatus, vstart := c.vstart, vfrom := c.vfrom }

theorem Ctx.Moves.trans {b c d : Ctx} (h : b.Moves c) (k : c.Moves d) : b.Moves d := by
  unfold Ctx.Moves at *
  rw [h, k]

/-- The state u into which accesses of its own scratchpad and changes of its v registers, its status and its vstart bring the thread
of s: the thread has the context c, and what frees an own-scratchpad access stands. -/
structure State.Moving (s u : State) (c : Ctx) : Prop where
  cur : u.cur = s.cur
  clusters : u.clusters = s.clusters
  soft : u.soft = s.soft
  poison : u.poison = s.poison
  slot : u.slot s.cur = { s.slot s.cur with ctx := some c, marks := (u.slot s.cur).marks }
  core : u.core s.cur.gcore =
    { s.core s.cur.gcore with winMem := (u.core s.cur.gcore).winMem, stale := (u.core s.cur.gcore).stale }
  frame : c.Moves (s.ctx s.cur)

namespace State.Moving

variable {s u t : State} {c : Ctx}

theorem ctx (m : s.Moving u c) : u.ctx u.cur = c := by
  rw [m.cur, State.ctx, m.slot]
  rfl

theorem slot_ctx (m : s.Moving u c) : (u.slot s.cur).ctx = some c := congrArg Slot.ctx m.slot

theorem start (hc : (s.slot s.cur).ctx = some (s.ctx s.cur)) : s.Moving s (s.ctx s.cur) where
  cur := rfl
  clusters := rfl
  soft := rfl
  poison := rfl
  slot := by rw [← hc]
  core := rfl
  frame := rfl

theorem accessed (m : s.Moving u c) (a : u.AccessedOwn t) : s.Moving t c where
  cur := a.cur.trans m.cur
  clusters := a.clusters.trans m.clusters
  soft := a.soft.trans m.soft
  poison := a.poison.trans m.poison
  slot := by
    have step := a.slot
    rw [m.cur, m.slot] at step
    rw [step]
  core := by
    have step := a.core
    rw [m.cur, m.core] at step
    rw [step]
  frame := m.frame

theorem modCtx (m : s.Moving u c) (f : Ctx → Ctx) (frame : (f c).Moves c) :
    s.Moving (u.modCtx u.cur f) (f c) where
  cur := m.cur
  clusters := m.clusters
  soft := m.soft
  poison := m.poison
  slot := by rw [m.cur, State.slot_modCtx_same, m.slot]; rfl
  core := m.core
  frame := frame.trans m.frame

theorem draw (m : s.Moving u c) (k : Nat) : s.Moving { u with free := k } c :=
  ⟨m.cur, m.clusters, m.soft, m.poison, m.slot, m.core, m.frame⟩

theorem free {off n : Nat} {st : Bool} (m : s.Moving u c) (free : ownScratchFree s off n st) : ownScratchFree u off n st := by
  have here : u.ctx s.cur = c := by rw [← m.cur]; exact m.ctx
  refine free.congr m.cur m.clusters ?_ ?_ (by rw [m.core]) (by rw [m.core]) (by rw [m.core]) m.soft m.poison
  · rw [here, m.slot, m.frame]
    rfl
  · rw [here, m.frame]

end State.Moving

/-! ### Registers that depend on v only -/

theorem Ctx.setElem_v_congr {c d : Ctx} (same : c.v = d.v) (r w i v : Nat) : (c.setElem r w i v).v = (d.setElem r w i v).v := by
  simp only [Ctx.setElem, Ctx.setV, Ctx.getV, same]

theorem Ctx.getV_congr {c d : Ctx} (same : c.v = d.v) (r : Nat) : c.getV r = d.getV r := by rw [Ctx.getV, same, Ctx.getV]

theorem Ctx.elem_congr {c d : Ctx} (same : c.v = d.v) (r w i : Nat) : c.elem r w i = d.elem r w i := by
  rw [Ctx.elem, Ctx.getV_congr same, Ctx.elem]

theorem VI.active_congr (x : VI) {c d : Ctx} (same : c.v = d.v) : x.active c = x.active d := by
  funext i
  rw [VI.active, Ctx.maskBit, Ctx.getV_congr same, VI.active, Ctx.maskBit]

/-- One element written with what g gives for it, if anything. -/
def Ctx.putElem (r w : Nat) (g : Nat → Option Nat) (c : Ctx) (i : Nat) : Ctx := (g i).elim c (c.setElem r w i)

theorem Ctx.writeElems_eq (c : Ctx) (r w n : Nat) (g : Nat → Option Nat) :
    c.writeElems r w n g = (List.range n).foldl (Ctx.putElem r w g) c := rfl

theorem Ctx.putElem_none {r w i : Nat} {g : Nat → Option Nat} (c : Ctx) (none : g i = none) : c.putElem r w g i = c := by
  rw [Ctx.putElem, none, Option.elim_none]

theorem Ctx.putElem_some {r w i v : Nat} {g : Nat → Option Nat} (c : Ctx) (some : g i = some v) :
    c.putElem r w g i = c.setElem r w i v := by rw [Ctx.putElem, some, Option.elim_some]

theorem foldl_putElem_v_congr {c d : Ctx} (same : c.v = d.v) (r w : Nat) (g : Nat → Option Nat) (is : List Nat) :
    (is.foldl (Ctx.putElem r w g) c).v = (is.foldl (Ctx.putElem r w g) d).v := by
  induction is generalizing c d with
  | nil => exact same
  | cons i is ih =>
    refine ih ?_
    cases value : g i with
    | none => rwa [Ctx.putElem_none c value, Ctx.putElem_none d value]
    | some v =>
      rw [Ctx.putElem_some c value, Ctx.putElem_some d value]
      exact Ctx.setElem_v_congr same r w i v

theorem Ctx.writeElems_v_congr {c d : Ctx} (same : c.v = d.v) (r w n : Nat) (g : Nat → Option Nat) :
    (c.writeElems r w n g).v = (d.writeElems r w n g).v := foldl_putElem_v_congr same r w g (List.range n)

/-- An element of a destination other than v0 leaves the mask. -/
theorem VI.active_setElem (x : VI) (c : Ctx) (free : x.vm = true ∨ x.vd ≠ 0) (w i v : Nat) :
    x.active (c.setElem x.vd w i v) = x.active c := by
  funext j
  rcases free with all | other
  · rw [VI.active, VI.active, all, Bool.true_or, Bool.true_or]
  · rw [VI.active, Ctx.maskBit, Ctx.getV_setElem_other _ _ _ (by omega), VI.active, Ctx.maskBit]

/-! ### The elements of a load -/

/-- What an element's address and its freedom are, for the active elements among some. -/
def OwnElems (s : State) (n : Nat) (st : Bool) (act : Nat → Bool) (addr : Nat → Word) (off : Nat → Nat) (is : List Nat) : Prop :=
  ∀ i ∈ is, act i = true → addr i = w64 (0x7F8000000000 + off i) ∧ ownScratchFree s (off i) n st

/-- The bytes that element i of a load reads, if it is active. -/
def loadedOf (s : State) (n : Nat) (act : Nat → Bool) (off : Nat → Nat) (i : Nat) : Option Nat :=
  if act i then some (leNat (s.mem.readN (scratchPa s.cur.gcore (off i)) n)) else none

section
variable {s : State} {x : VI} {n regs : Nat} {act : Nat → Bool} {addr : Nat → Word} {off : Nat → Nat} (hart : s.cur < 20480)
include hart

omit hart in
/-- vstart names the element that is next. -/
theorem setVstart_moves {u : State} {c : Ctx} (m : s.Moving u c) (i : Nat) :
    ∃ u' c', setVstart i u = .ok () u' ∧ s.Moving u' c' ∧ u'.mem = u.mem ∧ c'.v = c.v :=
  ⟨_, _, rfl, m.modCtx (fun c => { c with vstart := w64 i }) rfl, rfl, rfl⟩

omit hart in
/-- An element that is not active moves nothing. -/
theorem moveElems_inactive {u u' : State} {i : Nat} {is : List Nat} (start : setVstart i u = .ok () u')
    (off : x.active (u'.ctx u'.cur) i = false) :
    x.moveElems (8 * n) regs 1 addr (i :: is) u = x.moveElems (8 * n) regs 1 addr is u' := by
  simp only [VI.moveElems, estate_bind, start, ctx_apply, off, Bool.false_eq_true, if_false]

omit hart in
/-- One that is active moves its field. -/
theorem moveElems_active {u u' t : State} {c' : Ctx} {i : Nat} {is : List Nat} (start : setVstart i u = .ok () u')
    (here : u'.ctx u'.cur = c') (on : x.active c' i = true)
    (moved : x.moveFields (8 * n) regs i (addr i) [0] (x.covers c' (8 * n) 1 (c'.vfrom.getD x.vs) i addr) u' = .ok () t) :
    x.moveElems (8 * n) regs 1 addr (i :: is) u = x.moveElems (8 * n) regs 1 addr is t := by
  have one : List.range 1 = [0] := rfl
  simp only [VI.moveElems, estate_bind, start, ctx_apply, here, on, if_true, one, moved]

omit hart in
theorem Ctx.landed_moves (c : Ctx) (r w i v : Nat) : (c.setElem r w i v).dirtyV.Moves c := rfl

omit hart in
theorem Ctx.v_dirtyV (c : Ctx) : c.dirtyV.v = c.v := by rw [Ctx.dirtyV]

/-- An active element of a load lands in its register. -/
theorem moveFields_lands (load : x.store = false) (free : x.vm = true ∨ x.vd ≠ 0) {u : State} {c : Ctx} {i : Nat} (m : s.Moving u c)
    (mem : u.mem = s.mem) (address : addr i = w64 (0x7F8000000000 + off i)) (own : ownScratchFree s (off i) n false) :
    ∃ t c', (∀ whole, x.moveFields (8 * n) regs i (addr i) [0] whole u = .ok () t) ∧ s.Moving t c' ∧ t.mem = s.mem ∧
      c'.v = (c.setElem x.vd (8 * n) i (leNat (s.mem.readN (scratchPa s.cur.gcore (off i)) n))).v ∧ x.active c' = x.active c := by
  obtain ⟨t, run, acc, mem'⟩ := moveFields_load (x := x) (i := i) (regs := regs) (by rw [m.cur]; exact hart) address load (m.free own)
  rw [mem, m.cur] at run
  refine ⟨_, _, run, (m.accessed acc).modCtx _ (Ctx.landed_moves c _ _ _ _), mem'.trans mem, Ctx.v_dirtyV _, ?_⟩
  exact (x.active_congr (Ctx.v_dirtyV _)).trans (x.active_setElem c free _ _ _)

theorem moveElems_load (load : x.store = false) (free : x.vm = true ∨ x.vd ≠ 0) {is : List Nat}
    (each : OwnElems s n false act addr off is) {u : State} {c : Ctx} (m : s.Moving u c) (mem : u.mem = s.mem)
    (active : x.active c = act) :
    ∃ t c', x.moveElems (8 * n) regs 1 addr is u = .ok () t ∧ s.Moving t c' ∧ t.mem = s.mem ∧ x.active c' = act ∧
      c'.v = (is.foldl (Ctx.putElem x.vd (8 * n) (loadedOf s n act off)) c).v := by
  induction is generalizing u c with
  | nil => exact ⟨u, c, rfl, m, mem, active, rfl⟩
  | cons i is ih =>
    have rest : OwnElems s n false act addr off is := fun j hj => each j (List.mem_cons_of_mem _ hj)
    obtain ⟨u', c', start, m', mem', v'⟩ := setVstart_moves m i
    have active' : x.active c' = act := (x.active_congr v').trans active
    cases a : act i with
    | false =>
      obtain ⟨t, d, run, moving, same, on, v⟩ := ih rest m' (mem'.trans mem) active'
      have skip : x.active (u'.ctx u'.cur) i = false := by rw [m'.ctx, active', a]
      refine ⟨t, d, (moveElems_inactive start skip).trans run, moving, same, on, ?_⟩
      rw [v, List.foldl_cons, Ctx.putElem_none c (by rw [loadedOf, a]; rfl)]
      exact foldl_putElem_v_congr v' _ _ _ is
    | true =>
      obtain ⟨address, own⟩ := each i List.mem_cons_self a
      obtain ⟨v, d, moved, m'', mem'', dv, active''⟩ := moveFields_lands (regs := regs) hart load free m' (mem'.trans mem) address own
      obtain ⟨t, d', run, moving, same, on, last⟩ := ih rest m'' mem'' (active''.trans active')
      refine ⟨t, d', (moveElems_active start m'.ctx (by rw [active', a]) (moved _)).trans run, moving, same, on, ?_⟩
      rw [last, List.foldl_cons, Ctx.putElem_some c (by rw [loadedOf, a]; rfl)]
      exact foldl_putElem_v_congr (dv.trans (Ctx.setElem_v_congr v' _ _ _ _)) _ _ _ is

/-! ### The elements of a store -/

/-- The bytes of element i of a store, in a memory, if it is active. -/
def storeElem (s : State) (c : Ctx) (d n : Nat) (act : Nat → Bool) (off : Nat → Nat) (m : Memory) (i : Nat) : Memory :=
  if act i then m.writeN (scratchPa s.cur.gcore (off i)) (leBytes n (c.elem d (8 * n) i)) else m

omit hart in
theorem storeElem_congr {c d : Ctx} (same : c.v = d.v) (r : Nat) : storeElem s c r n act off = storeElem s d r n act off := by
  funext m i
  rw [storeElem, Ctx.elem_congr same, storeElem]

theorem moveElems_store (store : x.store = true) (short : n ≤ 64) {is : List Nat} (each : OwnElems s n true act addr off is)
    {u : State} {c : Ctx} (m : s.Moving u c) (active : x.active c = act) :
    ∃ t c', x.moveElems (8 * n) regs 1 addr is u = .ok () t ∧ s.Moving t c' ∧ c'.v = c.v ∧
      t.mem = is.foldl (storeElem s c x.vd n act off) u.mem := by
  induction is generalizing u c with
  | nil => exact ⟨u, c, rfl, m, rfl, rfl⟩
  | cons i is ih =>
    have rest : OwnElems s n true act addr off is := fun j hj => each j (List.mem_cons_of_mem _ hj)
    obtain ⟨u', c', start, m', mem', v'⟩ := setVstart_moves m i
    have active' : x.active c' = act := (x.active_congr v').trans active
    have elems : storeElem s c' x.vd n act off = storeElem s c x.vd n act off := storeElem_congr v' x.vd
    cases a : act i with
    | false =>
      obtain ⟨t, d, run, moving, v, mem⟩ := ih rest m' active'
      have skip : x.active (u'.ctx u'.cur) i = false := by rw [m'.ctx, active', a]
      refine ⟨t, d, (moveElems_inactive start skip).trans run, moving, v.trans v', ?_⟩
      rw [mem, elems, mem', List.foldl_cons, storeElem, a, if_neg Bool.false_ne_true]
    | true =>
      obtain ⟨address, own⟩ := each i List.mem_cons_self a
      obtain ⟨v, moved, acc, stored⟩ := moveFields_store (x := x) (i := i) (regs := regs) (by rw [m'.cur]; exact hart) address
        (x.covers c' (8 * n) 1 (c'.vfrom.getD x.vs) i addr) store (m'.free own) short
      obtain ⟨t, d, run, moving, dv, mem⟩ := ih rest (m'.accessed acc) active'
      refine ⟨t, d, (moveElems_active start m'.ctx (by rw [active', a]) moved).trans run, moving, dv.trans v', ?_⟩
      rw [mem, elems, stored, mem', m'.ctx, m'.cur, Ctx.elem_congr v', List.foldl_cons]
      congr 1
      rw [storeElem, a, if_pos rfl]

end

end Sys2Proof.Machine
end

section
/-! A vector access of the own scratchpad: its elements, and the mask and tail policies of a load (spec/03_encoding.md R67;
spec/07_context.md R191). -/

namespace Sys2Proof.Machine

open Sys2Proof

/-! ### The policies of a load -/

/-- What the mask and tail policies write to element i, if anything. -/
def VI.policy (x : VI) (c : Ctx) (w base i : Nat) : Option Nat :=
  if i < x.vs then none
  else if i < x.vl then if !x.active c i && x.ma && Config.agnosticOnes (base + i) then some (ones w) else none
  else if x.ta && Config.agnosticOnes (base + i) then some (ones w)
  else none

/-- Policies that write ones to inactive elements where vma allows it, and to the tail where vta does. -/
def VI.Policy (x : VI) (act : Nat → Bool) (w : Nat) (g : Nat → Option Nat) : Prop := ∀ i,
  (i < x.vl → act i = true → g i = none) ∧
  (i < x.vl → act i = false → g i = none ∨ (x.ma = true ∧ g i = some (ones w))) ∧
  (x.vl ≤ i → g i = none ∨ (x.ta = true ∧ g i = some (ones w)))

theorem VI.policy_policy (x : VI) (c : Ctx) (w base : Nat) (vs : x.vs = 0) : x.Policy (x.active c) w (x.policy c w base) := by
  intro i
  refine ⟨fun lt on => ?_, fun lt off => ?_, fun le => ?_⟩
  · simp only [VI.policy, vs, Nat.not_lt_zero, lt, on, if_false, if_true, Bool.not_true, Bool.false_and, Bool.false_eq_true]
  · simp only [VI.policy, vs, Nat.not_lt_zero, lt, off, if_false, if_true, Bool.not_false, Bool.true_and, Bool.and_eq_true]
    split
    · next agnostic => exact .inr ⟨agnostic.1, rfl⟩
    · exact .inl rfl
  · simp only [VI.policy, vs, Nat.not_lt_zero, Nat.not_lt.mpr le, if_false, Bool.and_eq_true]
    split
    · next agnostic => exact .inr ⟨agnostic.1, rfl⟩
    · exact .inl rfl

theorem loadPolicy_apply (x : VI) (w regs : Nat) (s : State) : x.loadPolicy w regs [0] s =
    .ok () ({ s with free := s.free + regs * 512 / w }.modCtx s.cur
      (fun c => c.writeElems x.vd w (regs * 512 / w) (x.policy c w s.free))) := by
  simp only [VI.loadPolicy, estate_bind, drawAgnostic_apply, modCtx_apply, estate_pure, Ctx.writeElems, Nat.zero_mul, Nat.add_zero]
  congr! 6 with c d i
  simp only [VI.policy]
  split
  · rfl
  · split
    · split <;> rfl
    · split <;> rfl

theorem VI.span_all (x : VI) (vs : x.vs = 0) (n : Nat) : x.span n = List.range n := by
  rw [VI.span, vs]
  exact List.filter_eq_self.mpr fun i _ => decide_eq_true (Nat.zero_le i)

/-! ### Whole accesses -/

section
variable {s : State} {x : VI} {n regs : Nat} {act : Nat → Bool} {addr : Nat → Word} {off : Nat → Nat} (hart : s.cur < 20480)
  (vs : x.vs = 0) {u : State} {c : Ctx} (m : s.Moving u c) (active : x.active c = act)
include hart vs m active

/-- A load puts what its active elements read into its group, and then what its policies write. -/
theorem access_load (load : x.store = false) (free : x.vm = true ∨ x.vd ≠ 0)
    (each : OwnElems s n false act addr off (List.range x.vl)) (mem : u.mem = s.mem) :
    ∃ t c' g, x.access (8 * n) regs 1 addr u = .ok () t ∧ s.Moving t c' ∧ t.mem = s.mem ∧ x.Policy act (8 * n) g ∧
      c'.v = ((c.writeElems x.vd (8 * n) x.vl (loadedOf s n act off)).writeElems x.vd (8 * n) (regs * 512 / (8 * n)) g).v := by
  obtain ⟨t, d, run, moving, same, on, v⟩ := moveElems_load (regs := regs) hart load free each m mem active
  rw [← Ctx.writeElems_eq] at v
  have reads : ¬ x.store = true := by rw [load]; decide
  by_cases empty : x.vs ≥ x.vl
  · refine ⟨t, d, fun _ => none, ?_, moving, same, fun i => ⟨fun _ _ => rfl, fun _ _ => .inl rfl, fun _ => .inl rfl⟩, ?_⟩
    · simp only [VI.access, estate_bind, x.span_all vs, run, if_pos (Or.inr empty : x.store = true ∨ x.vs ≥ x.vl), estate_pure]
    · rw [v, Ctx.writeElems_none]
  · refine ⟨_, _, x.policy d (8 * n) t.free, ?_, (moving.draw (t.free + regs * 512 / (8 * n))).modCtx
      (fun c => c.writeElems x.vd (8 * n) (regs * 512 / (8 * n)) (x.policy c (8 * n) t.free)) ?_, same, ?_, ?_⟩
    · have fields : List.range 1 = [0] := rfl
      simp only [VI.access, estate_bind, x.span_all vs, run, if_neg (not_or.mpr ⟨reads, empty⟩), fields]
      exact loadPolicy_apply x (8 * n) regs t
    · show (d.writeElems _ _ _ _).Moves d
      rw [Ctx.writeElems_frame]
      rfl
    · rw [← on]
      exact x.policy_policy d _ _ vs
    · exact foldl_putElem_v_congr v _ _ _ _

theorem access_store (store : x.store = true) (short : n ≤ 64) (each : OwnElems s n true act addr off (List.range x.vl)) :
    ∃ t c', x.access (8 * n) regs 1 addr u = .ok () t ∧ s.Moving t c' ∧ c'.v = c.v ∧
      t.mem = (List.range x.vl).foldl (storeElem s c x.vd n act off) u.mem := by
  obtain ⟨t, d, run, moving, v, mem⟩ := moveElems_store (regs := regs) hart store short each m active
  refine ⟨t, d, ?_, moving, v, mem⟩
  simp only [VI.access, estate_bind, x.span_all vs, run, if_pos (Or.inl store : x.store = true ∨ x.vs ≥ x.vl), estate_pure]

end

/-! ### The bytes that the elements of a store leave -/

theorem leBytes_getElem (n v k : Nat) (h : k < (leBytes n v).length) : (leBytes n v)[k] = BitVec.ofNat 8 (v / 256 ^ k) := by
  induction n generalizing v k with
  | zero => simp [leBytes] at h
  | succ n ih =>
    cases k with
    | zero => simp [leBytes]
    | succ k => simp [leBytes, ih, Nat.div_div_eq_div_mul, Nat.pow_succ']

section
variable {s : State} {c : Ctx} {d n : Nat} {act : Nat → Bool} {off : Nat → Nat}

/-- A byte outside every active element keeps its value. -/
theorem read_storeElem_outside {p : Nat} (is : List Nat) (m : Memory)
    (apart : ∀ i ∈ is, act i = true → p < scratchPa s.cur.gcore (off i) ∨ scratchPa s.cur.gcore (off i) + n ≤ p) :
    (is.foldl (storeElem s c d n act off) m).read p = m.read p := by
  induction is generalizing m with
  | nil => rfl
  | cons i is ih =>
    rw [List.foldl_cons, ih _ fun j hj => apart j (List.mem_cons_of_mem _ hj), storeElem]
    split
    · next on =>
      refine Memory.read_writeN_outside _ _ _ _ ?_
      rw [length_leBytes]
      exact apart i List.mem_cons_self on
    · rfl

/-- A byte of an active element that no later one covers is that element's. -/
theorem read_storeElem_last {i vl k : Nat} (m : Memory) (hi : i < vl) (on : act i = true) (hk : k < n)
    (last : ∀ j, i < j → j < vl → act j = true →
      scratchPa s.cur.gcore (off j) + n ≤ scratchPa s.cur.gcore (off i) ∨
        scratchPa s.cur.gcore (off i) + n ≤ scratchPa s.cur.gcore (off j)) :
    ((List.range vl).foldl (storeElem s c d n act off) m).read (scratchPa s.cur.gcore (off i) + k) =
      BitVec.ofNat 8 (c.elem d (8 * n) i / 256 ^ k) := by
  induction vl with
  | zero => omega
  | succ vl ih =>
    rw [List.range_succ, List.foldl_append, List.foldl_cons, List.foldl_nil]
    generalize before : (List.range vl).foldl (storeElem s c d n act off) m = m' at ih
    have len : (leBytes n (c.elem d (8 * n) i)).length = n := length_leBytes _ _
    rcases Nat.lt_succ_iff_lt_or_eq.mp hi with earlier | rfl
    · rw [storeElem]
      split
      · next on' =>
        have apart := last vl earlier (Nat.lt_succ_self vl) on'
        rw [Memory.read_writeN_outside _ _ _ _ (by rw [length_leBytes]; omega)]
        exact ih earlier fun j hj lt => last j hj (by omega)
      · exact ih earlier fun j hj lt => last j hj (by omega)
    · rw [storeElem, if_pos on, Memory.read_writeN_inside _ _ _ _ (by omega), leBytes_getElem]

end

end Sys2Proof.Machine
end

section
/-! The standard vector loads and stores of the own scratchpad at the head of the sequencer (spec/03_encoding.md R67; spec/07_context.md
R191; the meanings are the standard's, log entry 13). -/

namespace Sys2Proof.Machine

open Sys2Proof

/-! ### The fields of the word -/

/-- The major opcode of a vector load or store. -/
def vmemOp (st : Bool) : BitVec 7 := if st then 0x27#7 else 0x07#7

/-- A part of a field is a part of the word. -/
theorem extractLsb'_of_part {w : Nat} (x : BitVec w) {start len low part : Nat} (fits : low + part ≤ len) :
    (x.extractLsb' start len).extractLsb' low part = x.extractLsb' (start + low) part := by
  ext i hi
  simp only [BitVec.getElem_extractLsb', BitVec.getLsbD_extractLsb', decide_eq_true (show low + i < len by omega), Bool.true_and,
    Nat.add_assoc]

section
variable {e : SeqEnt} {q g : Nat} {st : Bool} {mop : BitVec 2} {m : BitVec 1} {b a : Reg} {f3 : BitVec 3} {d : Reg}
  (bits : e.bits = rzWord ((0#3 ++ 0#1 ++ mop) ++ m) b a f3 d (vmemOp st)) (c : Ctx)
include bits

/-- Direction, addressing mode, and one field an element. -/
theorem instr_mode : (e.instr c).store = st ∧ (e.instr c).mop = mop.toNat ∧ (e.instr c).nf = 1 := by
  obtain ⟨op, -, f6⟩ := instr_op bits c
  have high : (e.instr c).w.extractLsb' 26 6 = 0#3 ++ 0#1 ++ mop := BitVec.eq_of_toNat_eq f6
  have modes : ∀ mop : BitVec 2, ((0#3 ++ 0#1 ++ mop).extractLsb' 0 2).toNat = mop.toNat ∧
      ((0#3 ++ 0#1 ++ mop).extractLsb' 3 3).toNat + 1 = 1 := by decide
  obtain ⟨low, none⟩ := modes mop
  rw [← high, extractLsb'_of_part _ (by decide)] at low none
  refine ⟨?_, low, none⟩
  rw [VI.store, isVStore, op]
  cases st <;> rfl

theorem instr_eew (form : (q, f3) ∈ [(0, 0#3), (1, 5#3), (2, 6#3), (3, 7#3)]) : (e.instr c).eew = 8 * 2 ^ q := by
  obtain ⟨-, isF3, -⟩ := instr_op bits c
  rw [VI.eew, isF3]
  simp only [List.mem_cons, List.not_mem_nil, or_false, Prod.mk.injEq] at form
  rcases form with ⟨rfl, rfl⟩ | ⟨rfl, rfl⟩ | ⟨rfl, rfl⟩ | ⟨rfl, rfl⟩ <;> rfl

/-- None of the special unit-stride forms. -/
theorem instr_unit {sel : Nat} (plain : mop = 0#2 → b = 0#5) (some : sel ≠ 0) : (e.instr c).unit sel = false := by
  obtain ⟨-, s2, -⟩ := instr_regs bits c
  obtain ⟨-, isMop, -⟩ := instr_mode bits c
  rw [VI.unit, isMop, s2, Bool.and_eq_false_iff]
  by_cases unit : mop = 0#2
  · right
    rw [plain unit]
    exact beq_false_of_ne some.symm
  · left
    exact beq_false_of_ne fun zero => unit (BitVec.eq_of_toNat_eq zero)

theorem run_mem (s : State) : (e.instr c).run s = (e.instr c).mem s := by
  obtain ⟨op, -⟩ := instr_op bits c
  have other : vmemOp st ≠ 0x5b#7 ∧ vmemOp st ≠ 0x57#7 ∧ vmemOp st ≠ 0x2b#7 := by cases st <;> decide
  obtain ⟨chunk, standard, ramzil⟩ := other
  simp only [VI.run, VI.runVec, op, if_neg chunk, if_neg standard, if_neg ramzil, estate_bind, ctx_apply]

end

/-! ### The access -/

theorem useData_quiet {s : State} (quiet : (s.ctx s.cur).Quiet) (x : VI) (n : Nat) : x.useData n s = .ok () s := by
  simp only [VI.useData, VI.useRegs, estate_bind, useMask_quiet quiet]
  split
  · exact useV_quiet quiet _ _
  · exact waitStrips_quiet quiet _ _

/-- Modes 1 and 3 take their offsets from a vector. -/
theorem mop_indexed (mop : BitVec 2) : (mop.toNat = 1 ∨ mop.toNat = 3) ↔ mop.getLsbD 0 = true := by
  revert mop
  decide

/-- The address of element i. -/
def vmemAddr (e : SeqEnt) (c : Ctx) (n : Nat) (mop : BitVec 2) (b : Reg) (i : Nat) : Word :=
  if mop = 0#2 then e.op1 + w64 (i * n) else if mop = 2#2 then e.op1 + w64 i * e.op2 else e.op1 + w64 (c.elem b.toNat (8 * n) i)

theorem vmemAddr_indexed (e : SeqEnt) (c : Ctx) (n : Nat) {mop : BitVec 2} (b : Reg) (indexed : mop.toNat = 1 ∨ mop.toNat = 3) :
    vmemAddr e c n mop b = fun i => e.op1 + w64 (c.elem b.toNat (8 * n) i) := by
  have modes : ∀ mop : BitVec 2, mop.toNat = 1 ∨ mop.toNat = 3 → mop ≠ 0#2 ∧ mop ≠ 2#2 := by decide
  obtain ⟨unit, strided⟩ := modes mop indexed
  funext i
  rw [vmemAddr, if_neg unit, if_neg strided]

theorem vmemAddr_direct (e : SeqEnt) (c : Ctx) (n : Nat) {mop : BitVec 2} (b : Reg) (direct : ¬ (mop.toNat = 1 ∨ mop.toNat = 3)) :
    vmemAddr e c n mop b = fun i => e.op1 + w64 i * (if mop.toNat = 2 then e.op2 else w64 n) := by
  have modes : ∀ mop : BitVec 2, ¬ (mop.toNat = 1 ∨ mop.toNat = 3) → mop = 0#2 ∨ mop = 2#2 := by decide
  funext i
  rcases modes mop direct with rfl | rfl
  · have product : w64 (i * n) = w64 i * w64 n := BitVec.ofNat_mul i n
    exact congrArg (e.op1 + ·) product
  · rfl

/-- The context that remembers where its access began. -/
def Ctx.memBegun (vs : Nat) (c : Ctx) : Ctx := { c with vfrom := some (c.vfrom.getD vs) }

section
variable {e : SeqEnt} {q g : Nat} (ty : VTyped e q g) {st : Bool} {mop : BitVec 2} {m : BitVec 1} {b a : Reg} {f3 : BitVec 3}
  {d : Reg} (bits : e.bits = rzWord ((0#3 ++ 0#1 ++ mop) ++ m) b a f3 d (vmemOp st)) (c : Ctx)
  (form : (q, f3) ∈ [(0, 0#3), (1, 5#3), (2, 6#3), (3, 7#3)]) (dest : d.toNat % g = 0) (plain : mop = 0#2 → b = 0#5)
  (index : mop.getLsbD 0 = true → b.toNat % g = 0) (free : st = true ∨ m = 1#1 ∨ d ≠ 0#5)
include ty bits

include dest free in
theorem instr_dataOk : (e.instr c).dataOk (8 * 2 ^ q) 1 = true := by
  obtain ⟨vd, -, -, vm⟩ := instr_regs bits c
  obtain ⟨store, -⟩ := instr_mode bits c
  have lt := d.isLt
  have fits : g ≤ 8 ∧ d.toNat + g ≤ 32 := by
    rcases ty.g_cases with rfl | rfl | rfl | rfl <;> omega
  obtain ⟨few, inside⟩ := fits
  have masked : ((e.instr c).store || (e.instr c).vm || (e.instr c).vd != 0) = true := by
    rw [store, vm, vd]
    rcases free with rfl | rfl | other
    · rfl
    · simp
    · have : d.toNat ≠ 0 := fun zero => other (BitVec.eq_of_toNat_eq zero)
      simp [this]
  rw [VI.dataOk, ty.regs, ty.groupOk c (by rw [vd]; exact dest), vd, Nat.one_mul, decide_eq_true few, decide_eq_true inside, ← vd,
    masked]
  rfl

include form dest plain index free in
theorem instr_memOk : (e.instr c).memOk = true := by
  obtain ⟨-, s2, -⟩ := instr_regs bits c
  obtain ⟨-, isMop, nf⟩ := instr_mode bits c
  have data := instr_dataOk ty bits c dest free
  have group (aligned : mop.getLsbD 0 = true) : (e.instr c).groupOk (e.instr c).s2 (8 * 2 ^ q) = true :=
    ty.groupOk c (by rw [s2]; exact index aligned)
  simp only [VI.memOk, instr_unit bits c plain (by decide : (8 : Nat) ≠ 0), instr_unit bits c plain (by decide : (0x0b : Nat) ≠ 0),
    ty.ill, ty.sew, nf, instr_eew bits c form, data, isMop, mop_indexed, VI.overlapOk_same, Bool.false_eq_true, if_false, if_true,
    Bool.true_and, Bool.or_true, Bool.and_true]
  split
  · next indexed => exact group indexed
  · rfl

include form dest plain index free in
/-- A legal one whose registers no strip holds is an access of its elements. -/
theorem mem_access {u : State} (here : (u.slot u.cur).ctx = some c) (quiet : c.Quiet) :
    (e.instr c).mem u = (e.instr c).access (8 * 2 ^ q) g 1 (vmemAddr e c (2 ^ q) mop b)
      (u.modCtx u.cur (Ctx.memBegun (e.instr c).vs)) := by
  obtain ⟨-, s2, -⟩ := instr_regs bits c
  obtain ⟨-, isMop, nf⟩ := instr_mode bits c
  have start : modCtx (fun c' => { c' with vfrom := some (c'.vfrom.getD (e.instr c).vs) }) u =
      .ok () (u.modCtx u.cur (Ctx.memBegun (e.instr c).vs)) := modCtx_apply u _
  have ctx : (u.modCtx u.cur (Ctx.memBegun (e.instr c).vs)).ctx u.cur = c.memBegun (e.instr c).vs :=
    State.ctx_of_slot (by rw [State.slot_modCtx_same, here]; rfl)
  have cur : (u.modCtx u.cur (Ctx.memBegun (e.instr c).vs)).cur = u.cur := rfl
  generalize u.modCtx u.cur (Ctx.memBegun (e.instr c).vs) = t at start ctx cur ⊢
  rw [← cur] at ctx
  have still : (t.ctx t.cur).Quiet := by rw [ctx]; exact quiet
  have elem (i : Nat) : (t.ctx t.cur).elem b.toNat (8 * 2 ^ q) i = c.elem b.toNat (8 * 2 ^ q) i := by
    rw [ctx]
    exact Ctx.elem_congr rfl _ _ _
  have width : 8 * 2 ^ q / 8 = 2 ^ q := Nat.mul_div_cancel_left _ (by decide)
  simp only [VI.mem, estate_bind, instr_memOk ty bits c form dest plain index free, require_true, estate_pure, start,
    instr_unit bits c plain (by decide : (8 : Nat) ≠ 0), instr_unit bits c plain (by decide : (0x0b : Nat) ≠ 0),
    instr_unit bits c plain (by decide : (0x10 : Nat) ≠ 0), Bool.false_eq_true, if_false, isMop, nf, instr_eew bits c form, ty.sew,
    ty.regs, Nat.one_mul, s2, width]
  split
  · next indexed =>
    simp only [estate_bind, useData_quiet still, use_quiet still, ctx_apply, elem, vmemAddr_indexed e c (2 ^ q) b indexed]
    rfl
  · next direct =>
    simp only [estate_bind, useData_quiet still, vmemAddr_direct e c (2 ^ q) b direct]
    rfl

end

end Sys2Proof.Machine
end

section
/-! Vector loads and stores of the own scratchpad at the head of the sequencer (spec/03_encoding.md R67; spec/07_context.md R190, R191,
R524). -/

namespace Sys2Proof.Machine

open Sys2Proof

/-! ### Completion where memory has changed -/

section
variable {s t : State} {h : Hart} {e : SeqEnt} {rest : List SeqEnt} {c : Ctx}

/-- An entry that completes is gone, and vstart is 0; memory is as it left it. -/
theorem head_ends {u : State} (r : HeadRuns s h e rest) (run : (e.instr (s.ctx h)).run (s.atHead h e) = .ok () u)
    (left : (u.slot h).ctx = some c) (seq : c.seq = (s.ctx h).seq) :
    ∃ t, exec (.sequencerHeadExecute h) s = .next t ∧ t.mem = u.mem ∧ t.ctx h = c.completed rest := by
  obtain ⟨ready, head, alone, -⟩ := r
  have next : (s.ctx h).seqNext = some (0, e) := by simp [Ctx.seqNext, head, alone]
  have done : c.seqDone 0 e = c.completed rest := by simp [Ctx.seqDone, Ctx.completed, alone, seq, head]
  have run' : (e.instr (s.ctx h)).run { s with cur := h, ibits := e.bits } = .ok () u := run
  have step : (s.seqStep h).map (·.1) =
      some (((u.modCtx h (fun c => c.seqDone 0 e)).modSlot h Slot.seqClear).perfCycles h.gcore 7 |>.wonVec h) := by
    simp only [State.seqStep, ready, Bool.not_true, Bool.false_eq_true, if_false, next, Option.map_some, run']
  refine ⟨_, (exec_sequencerHeadExecute s h).trans (event_some step), rfl, State.ctx_of_slot ?_⟩
  show (((u.modCtx h (fun c => c.seqDone 0 e)).modSlot h Slot.seqClear).slot h).ctx = _
  rw [State.slot_modSlot_same, Slot.seqClear, State.slot_modCtx_same, left, ← done]
  rfl

theorem Ctx.Moves.seq {c d : Ctx} (moves : c.Moves d) : c.seq = d.seq := by rw [moves]

/-- A completed instruction that wrote a group in two rounds: results below vl, then policies. -/
theorem vecResult_of_rounds {d g w : Nat} {act : Nat → Bool} {f : Nat → Nat} {one two : Nat → Option Nat} (hw : 0 < w)
    (dvd : w ∣ 512) (fits : e.vl ≤ g * 512 / w) (mem : t.mem = s.mem) (ctx : t.ctx h = c.completed rest) (frame : c.Moves (s.ctx h))
    (v : c.v = (((s.ctx h).writeElems d w e.vl one).writeElems d w (g * 512 / w) two).v)
    (width : ∀ i, f i < 2 ^ w) (result : ∀ i, one i = if act i then some (f i) else none)
    (active : ∀ i, i < e.vl → act i = true → two i = none)
    (inactive : ∀ i, i < e.vl → act i = false → two i = none ∨ (e.vtype.getLsbD 7 = true ∧ two i = some (ones w)))
    (tail : ∀ i, e.vl ≤ i → two i = none ∨ (e.vtype.getLsbD 6 = true ∧ two i = some (ones w))) :
    VecResult s t h e rest d g w act f := by
  have same : (t.ctx h).v = c.v := by rw [ctx]; rfl
  have within (i : Nat) (hi : i < g * 512 / w) (r : Nat) (hr : r < d ∨ d + g ≤ r) : r ≠ d + i * w / 512 := by
    have : i * w / 512 < g := by
      rw [Nat.div_lt_iff_lt_mul (by decide)]
      have := (Nat.le_div_iff_mul_le hw).mp (Nat.succ_le_of_lt hi)
      rw [Nat.succ_mul] at this
      omega
    omega
  have outside (r : Nat) (hr : r < d ∨ d + g ≤ r) : (t.ctx h).getV r = (s.ctx h).getV r := by
    rw [Ctx.getV_congr (same.trans v), Ctx.getV_writeElems_outside _ _ _ _ fun i hi => within i hi r hr]
    exact Ctx.getV_writeElems_outside _ _ _ _ fun i hi => within i (by omega) r hr
  have elem (i : Nat) (hi : i < g * 512 / w) : (t.ctx h).elem d w i =
      (two i).elim (((s.ctx h).writeElems d w e.vl one).elem d w i) (· % 2 ^ w) := by
    rw [Ctx.elem_congr (same.trans v), Ctx.elem_writeElems _ _ _ _ hw dvd, if_pos hi]
  have first (i : Nat) : ((s.ctx h).writeElems d w e.vl one).elem d w i =
      if i < e.vl ∧ act i = true then f i else (s.ctx h).elem d w i := by
    rw [Ctx.elem_writeElems _ _ _ _ hw dvd, result]
    by_cases lt : i < e.vl <;> cases act i <;> simp [lt, Nat.mod_eq_of_lt (width i)]
  refine ⟨by rw [ctx]; rfl, by rw [ctx]; rfl, by rw [ctx, frame]; rfl, by rw [ctx, frame]; rfl, by rw [ctx, frame]; rfl,
    by rw [ctx, frame]; rfl, fun p => by rw [mem], outside, fun i hi => ⟨fun lt a => ?_, fun lt a => ?_, fun le => ?_⟩⟩
  · rw [elem i hi, active i lt a, first, if_pos ⟨lt, a⟩]
    rfl
  · have now := elem i hi
    rw [first, if_neg (by simp [a])] at now
    exact agnostic_or_old now (inactive i lt a)
  · have now := elem i hi
    rw [first, if_neg (by omega)] at now
    exact agnostic_or_old now (tail i le)

end

theorem VTyped.vl_fits {e : SeqEnt} {q g : Nat} (ty : VTyped e q g) : e.vl ≤ g * 512 / (8 * 2 ^ q) := by
  obtain ⟨-, hq, four⟩ := ty.fields
  obtain ⟨m, max, le, rfl, rfl⟩ := ty
  refine le.trans ?_
  have codes : ∀ sew < 4, ∀ k < 8, (if k < 4 then 512 * 2 ^ k / (8 * 2 ^ sew) else 512 / 2 ^ (8 - k) / (8 * 2 ^ sew)) ≤
      (if k < 4 then 2 ^ k else 1) * 512 / (8 * 2 ^ sew) := by decide
  have bound := codes _ hq (wfld e.vtype 2 0) (Nat.mod_lt _ (by decide))
  unfold vlmaxOf at max
  dsimp only at max
  split at max
  · cases max
  · split at max
    · next low => rwa [if_pos low, Option.some.inj max] at bound
    · next high =>
      rw [if_neg high] at bound
      split at max
      · cases max
      · rwa [Option.some.inj max] at bound

theorem leNat_readN_lt (m : Memory) (a n : Nat) : leNat (m.readN a n) < 2 ^ (8 * n) := by
  have := leNat_lt (m.readN a n)
  rwa [Memory.length_readN, show (256 : Nat) = 2 ^ 8 from rfl, ← Nat.pow_mul] at this

/-! ### At the head of the sequencer -/

section
variable {s : State} {h : Hart} {e : SeqEnt} {rest : List SeqEnt} (r : HeadRuns s h e rest)
include r

/-- The thread as its entry begins an access. -/
theorem HeadRuns.memBegun (vs : Nat) : (s.atHead h e).Moving ((s.atHead h e).modCtx h (Ctx.memBegun vs)) ((s.ctx h).memBegun vs) :=
  (State.Moving.start r.slot_ctx).modCtx (Ctx.memBegun vs) rfl

variable {q g : Nat} {st : Bool} {mop : BitVec 2} {m : BitVec 1} {b a : Reg} {f3 : BitVec 3} {d : Reg} {off : Nat → Nat}
  (hart : h < 20480) (ty : VTyped e q g) (bits : e.bits = rzWord ((0#3 ++ 0#1 ++ mop) ++ m) b a f3 d (vmemOp st))
  (form : (q, f3) ∈ [(0, 0#3), (1, 5#3), (2, 6#3), (3, 7#3)]) (dest : d.toNat % g = 0) (plain : mop = 0#2 → b = 0#5)
  (index : mop.getLsbD 0 = true → b.toNat % g = 0) (free : st = true ∨ m = 1#1 ∨ d ≠ 0#5)
  (each : ∀ i, i < e.vl → activeOf m (s.ctx h) i = true →
    vmemAddr e (s.ctx h) (2 ^ q) mop b i = w64 (0x7F8000000000 + off i) ∧ ownScratchFree { s with cur := h } (off i) (2 ^ q) st)

omit r in
include each in
/-- Its elements are free in the state in which it runs. -/
theorem head_ownElems : OwnElems (s.atHead h e) (2 ^ q) st (activeOf m (s.ctx h)) (vmemAddr e (s.ctx h) (2 ^ q) mop b) off
    (List.range e.vl) := by
  intro i hi on
  obtain ⟨address, own⟩ := each i (List.mem_range.mp hi) on
  exact ⟨address, own.congr rfl rfl rfl rfl rfl rfl rfl rfl rfl⟩

include bits in
omit r in
theorem active_memBegun (vs : Nat) : (e.instr (s.ctx h)).active ((s.ctx h).memBegun vs) = activeOf m (s.ctx h) := by
  obtain ⟨-, -, -, vm⟩ := instr_regs bits (s.ctx h)
  rw [VI.active_congr _ (show ((s.ctx h).memBegun vs).v = (s.ctx h).v from rfl)]
  funext i
  rw [VI.active, vm, activeOf]

include ty bits form dest plain index free in
theorem head_run_mem : (e.instr (s.ctx h)).run (s.atHead h e) = (e.instr (s.ctx h)).access (8 * 2 ^ q) g 1
    (vmemAddr e (s.ctx h) (2 ^ q) mop b) ((s.atHead h e).modCtx h (Ctx.memBegun (e.instr (s.ctx h)).vs)) :=
  (run_mem bits (s.ctx h) (s.atHead h e)).trans (mem_access ty bits (s.ctx h) form dest plain index free r.slot_ctx r.quiet)

include hart ty bits form dest plain index free each

/-- A load gives each active element the bytes at its address. -/
theorem head_load (load : st = false) : ∃ t, exec (.sequencerHeadExecute h) s = .next t ∧
    VecResult s t h e rest d.toNat g (8 * 2 ^ q) (activeOf m (s.ctx h))
      (fun i => leNat (s.mem.readN (scratchPa h.gcore (off i)) (2 ^ q))) := by
  subst load
  obtain ⟨hw, dvd⟩ := ty.width
  obtain ⟨vd, -, -, vm⟩ := instr_regs bits (s.ctx h)
  obtain ⟨store, -⟩ := instr_mode bits (s.ctx h)
  have other : (e.instr (s.ctx h)).vm = true ∨ (e.instr (s.ctx h)).vd ≠ 0 := by
    rw [vm, vd]
    rcases free.resolve_left Bool.false_ne_true with rfl | other
    · exact .inl rfl
    · exact .inr fun zero => other (BitVec.eq_of_toNat_eq zero)
  obtain ⟨u, c, two, access, moving, mem, policy, v⟩ := access_load (regs := g) hart r.vs (r.memBegun (e.instr (s.ctx h)).vs)
    (active_memBegun bits _) store other (head_ownElems each) rfl
  obtain ⟨t, ends, mem', ctx⟩ := head_ends r ((head_run_mem r ty bits form dest plain index free).trans access)
    moving.slot_ctx moving.frame.seq
  rw [vd] at v
  refine ⟨t, ends, vecResult_of_rounds hw dvd ty.vl_fits (mem'.trans mem) ctx moving.frame (v.trans ?_)
    (fun i => leNat_readN_lt _ _ _) (fun i => rfl) (fun i => (policy i).1) (fun i => (policy i).2.1) (fun i => (policy i).2.2)⟩
  have begun : ((s.ctx h).memBegun (e.instr (s.ctx h)).vs).v = (s.ctx h).v := rfl
  exact Ctx.writeElems_v_congr (Ctx.writeElems_v_congr begun _ _ _ _) _ _ _ _

/-- A store puts the bytes of each active element at its address. -/
theorem head_store (store : st = true) : ∃ t, ∃ c : Ctx, exec (.sequencerHeadExecute h) s = .next t ∧ t.ctx h = c.completed rest ∧
    c.Moves (s.ctx h) ∧ c.v = (s.ctx h).v ∧
    t.mem = (List.range e.vl).foldl (storeElem (s.atHead h e) (s.ctx h) d.toNat (2 ^ q) (activeOf m (s.ctx h)) off) s.mem := by
  subst store
  obtain ⟨vd, -⟩ := instr_regs bits (s.ctx h)
  obtain ⟨store, -⟩ := instr_mode bits (s.ctx h)
  have short : 2 ^ q ≤ 64 := by
    have := ty.width_bounds.2
    omega
  obtain ⟨u, c, access, moving, v, mem⟩ := access_store (regs := g) hart r.vs (r.memBegun (e.instr (s.ctx h)).vs)
    (active_memBegun bits _) store short (head_ownElems each)
  obtain ⟨t, ends, mem', ctx⟩ := head_ends r ((head_run_mem r ty bits form dest plain index free).trans access)
    moving.slot_ctx moving.frame.seq
  rw [vd, storeElem_congr (show ((s.ctx h).memBegun _).v = (s.ctx h).v from rfl)] at mem
  exact ⟨t, c, ends, ctx, moving.frame, v, mem'.trans mem⟩

end

end Sys2Proof.Machine
end

section
/-! Obligation O26: the standard vector instructions, with their results as the statement writes them (spec/03_encoding.md R67, R131;
spec/07_context.md R191; spec/08_vector.md R229). -/

namespace Sys2Proof.Machine

open Sys2Proof

/-- A result stands for any function with the same values. -/
theorem exists_vecResult_congr {s : State} {h : Hart} {e : SeqEnt} {rest : List SeqEnt} {d n w : Nat} {act : Nat → Bool}
    {f f' : Nat → Nat} (ends : ∃ t, exec (.sequencerHeadExecute h) s = .next t ∧ VecResult s t h e rest d n w act f)
    (same : ∀ i, f i = f' i) : ∃ t, exec (.sequencerHeadExecute h) s = .next t ∧ VecResult s t h e rest d n w act f' := by
  obtain ⟨t, next, result⟩ := ends
  exact ⟨t, next, result.congr same⟩

/-- Settles O26: each instruction is elementwise, a permutation, a fold or a sequence of own-scratchpad accesses, and each of these
forms leaves its results written and its policies followed. -/
theorem standardVectorResults : Obligations.StandardVectorResults := by
  unfold Obligations.StandardVectorResults
  refine ⟨?elementwise, ?reductions, ?memory⟩
  case elementwise =>
    intro s h e rest q g f6 m b a f3 d r ty word _ second c w act x old frm y free first
    have bits : e.bits = rzWord (f6 ++ m) b a f3 d 0x57#7 := word
    refine ⟨?integer, ?products, ?comparisons, ?floating, ?slides, ?widening⟩
    case integer =>
      intro form live dest ops
      exact exists_vecResult_congr (head_opi r ty bits second first live dest form ops) fun i => rfl
    case products =>
      intro form live dest ops
      exact exists_vecResult_congr (head_opm r ty bits second first live dest form ops) fun i => rfl
    case comparisons =>
      intro form low high lowest lowest1
      exact head_compare r ty bits second first form low high lowest lowest1
    case floating =>
      intro form live dest two on mode ops f z
      exact head_opf r ty bits second first live dest form two on mode ops
    case slides =>
      intro form live dest k
      exact ⟨fun op _ max => head_slideDown r ty bits second form live dest op max,
        fun op apart => head_slideUp r ty bits second form live dest op apart⟩
    case widening =>
      intro form live ops small lmul n dest apart apart1
      exact exists_vecResult_congr (head_widen ty small lmul r bits second first form live ops dest apart apart1) fun i => rfl
  case reductions =>
    intro s h e rest q g k m b a d r ty small word second c w z
    exact head_redInt r ty small word second
  case memory =>
    intro s h e rest q g st mop m b a f3 d off hart r ty form word dest plain index free c n act pa each
    have bits : e.bits = rzWord ((0#3 ++ 0#1 ++ mop) ++ m) b a f3 d (vmemOp st) := word
    cases st with
    | false =>
      obtain ⟨t, ends, result⟩ := head_load r hart ty bits form dest plain index free each rfl
      exact ⟨t, ends, fun _ => result, fun store => absurd store Bool.false_ne_true⟩
    | true =>
      obtain ⟨t, c', ends, ctx, frame, v, mem⟩ := head_store r hart ty bits form dest plain index free each rfl
      have gone : (t.ctx h).seq = rest ∧ (t.ctx h).vstart = 0#64 := by rw [ctx]; exact ⟨rfl, rfl⟩
      have xs : (t.ctx h).x = c.x := by rw [ctx, frame]; rfl
      have vs (k : Nat) : (t.ctx h).getV k = c.getV k := Ctx.getV_congr (by rw [ctx]; exact v) k
      refine ⟨t, ends, fun load => absurd load.symm Bool.false_ne_true,
        fun _ => ⟨gone.1, gone.2, xs, vs, fun i hi on last k hk => ?_, fun p apart => ?_⟩⟩
      · rw [mem]
        exact read_storeElem_last s.mem hi on hk last
      · rw [mem]
        exact read_storeElem_outside _ _ fun i hi on => apart i (List.mem_range.mp hi) on

end Sys2Proof.Machine
end

section
/-! Scratchpads and vaults after package reset (spec/04_memory.md R94). -/

namespace Sys2Proof.Machine

open Sys2Proof

theorem rangeOf_eq_vault_iff (a : Nat) : rangeOf a = .vault ↔ vaultBase ≤ a ∧ a < vaultBase + 0xA0000000 := by
  unfold rangeOf vaultBase scratchBase regsBase hostBase
  split_ifs <;> simp only [false_iff, true_iff] <;> omega

theorem rangeOf_eq_scratch_iff (a : Nat) : rangeOf a = .scratch ↔ scratchBase ≤ a ∧ a < scratchBase + 0x28000000 := by
  unfold rangeOf vaultBase scratchBase regsBase hostBase
  split_ifs <;> simp only [false_iff, true_iff] <;> omega

theorem isSram_iff (a : Nat) : isSram a = true ↔ rangeOf a = .vault ∨ rangeOf a = .scratch := by
  simp [isSram]

/-- The ranges of both kinds of SRAM begin and end at blocks. -/
theorem isSram_blk {a : Nat} (sram : isSram a = true) : isSram (blk a) = true := by
  rw [isSram_iff, rangeOf_eq_vault_iff, rangeOf_eq_scratch_iff] at *
  simp only [blk, down, vaultBase, scratchBase] at *
  omega

/-- Settles O59: package reset drops every byte and every poisoned block of on-package SRAM. -/
theorem sramAfterReset : Obligations.SramAfterReset := by
  intro s a place
  have sram := (isSram_iff a).mpr place.symm
  obtain ⟨⟨t, done, -, -, zero, marks, -⟩, -⟩ := packageReset s
  refine ⟨t, done, zero a sram, ?_⟩
  have kept := (marks (blk a)).1
  rw [isSram_blk sram] at kept
  simpa [State.isPoison] using kept

end Sys2Proof.Machine
end

section
/-! Fences and sfence.vma (spec/05_ordering.md R125, R128, R133, R135; spec/06_page.md R158; spec/04_memory.md R99). -/

namespace Sys2Proof.Machine

open Sys2Proof

/-! ### A fence of two sets at a scope -/

theorem fenceOp_empty {p q : Nat} (empty : p = 0 ∨ q = 0) (scope : Nat) (s : State) : fenceOp p q scope s = .ok () s := by
  simp [fenceOp, empty]

/-- What a fence that goes on leaves: reads in both sets at device or system scope make the core acquire. -/
def State.fenced (s : State) (p q scope : Nat) : State :=
  if p.testBit 1 ∧ q.testBit 1 ∧ 2 ≤ scope then s.acquire s.cur.gcore else s

theorem fenceOp_apply {p q : Nat} (first : p ≠ 0) (second : q ≠ 0) (scope : Nat) (s : State) : fenceOp p q scope s =
    if s.performed s.cur (p.testBit 1) (p.testBit 0) scope then .ok () (s.fenced p q scope) else .error .wait s := by
  unfold fenceOp State.fenced
  rw [if_neg (by simp [first, second])]
  simp only [estate_bind, estate_get, waitUnless_apply]
  cases s.performed s.cur (p.testBit 1) (p.testBit 0) scope
  · rfl
  · simp only [if_true]
    split <;> rfl

theorem runThread_fence_empty {s : State} {m : M Unit} {p q scope : Nat} (r : s.Runs) (runs : m s.begun = fenceOp p q scope s.begun)
    (empty : p = 0 ∨ q = 0) : ∃ t, runThread m s = .next t ∧ Retired s t id s.nextPc :=
  retires_id r (runs.trans (fenceOp_empty empty scope _))

section
variable {s : State} {m : M Unit} {p q scope : Nat} (r : s.Runs) (runs : m s.begun = fenceOp p q scope s.begun)
  (first : p ≠ 0) (second : q ≠ 0)
include r runs first second

theorem runThread_fence_done (done : s.performed s.cur (p.testBit 1) (p.testBit 0) scope = true) :
    runThread m s = .next (s.begun.fenced p q scope).retire :=
  runThread_ok r (by rw [runs, fenceOp_apply first second]; exact if_pos done)

theorem runThread_fence_waits (pending : s.performed s.cur (p.testBit 1) (p.testBit 0) scope = false) :
    runThread m s = .next s.waited :=
  runThread_waited r (by rw [runs, fenceOp_apply first second]; exact if_neg (ne_true_of_eq_false pending))

end

/-! ### The sets of a fence -/

theorem toNat_ne_zero {n : Nat} {v : BitVec n} (h : v ≠ 0#n) : v.toNat ≠ 0 := by
  simpa [BitVec.toNat_eq] using h

/-- FIOM of the environment of a slot's mode: I and O are ordered as R and W. -/
def Slot.fiom (t : Slot) (c : Ctx) : Bool := (c.priv != .m && wbit t.menvcfg 0) || (c.priv == .u && wbit t.senvcfg 0)

theorem Slot.fiom_iff (t : Slot) (c : Ctx) : t.fiom c = true ↔
    (c.priv ≠ .m ∧ t.menvcfg.getLsbD 0) ∨ (c.priv = .u ∧ t.senvcfg.getLsbD 0) := by
  simp only [Slot.fiom, Bool.or_eq_true, Bool.and_eq_true, bne_iff_ne, beq_iff_eq]
  rfl

section
variable (t : Slot) (c : Ctx) (v : BitVec 4)

theorem fiomSet_eq : fiomSet t c v = if t.fiom c then v.toNat ||| fld v.toNat 3 2 else v.toNat := rfl

theorem fiomSet_eq_zero_iff : fiomSet t c v = 0 ↔ v = 0#4 := by
  rw [fiomSet_eq]
  generalize t.fiom c = on
  revert on v
  decide

/-- The R bit of a set, and its W bit: the set's own, or I and O under FIOM. -/
theorem testBit_fiomSet : (fiomSet t c v).testBit 1 = (v.getLsbD 1 || (t.fiom c && v.getLsbD 3)) ∧
    (fiomSet t c v).testBit 0 = (v.getLsbD 0 || (t.fiom c && v.getLsbD 2)) := by
  rw [fiomSet_eq]
  generalize t.fiom c = on
  revert on v
  decide

end

/-- A set of a fence of the thread whose turn it is. -/
def State.fenceSet (s : State) (v : BitVec 4) : Nat := fiomSet (s.slot s.cur) (s.ctx s.cur) v

section
variable (s : State) (v : BitVec 4)

/-- FIOM holds for the thread whose turn it is. -/
def State.FiomOn : Prop := ((s.ctx s.cur).priv ≠ .m ∧ (s.slot s.cur).menvcfg.getLsbD 0) ∨
  ((s.ctx s.cur).priv = .u ∧ (s.slot s.cur).senvcfg.getLsbD 0)

theorem State.fenceSet_reads_iff : (s.fenceSet v).testBit 1 = true ↔ (v.getLsbD 1 ∨ (s.FiomOn ∧ v.getLsbD 3)) := by
  simp only [State.fenceSet, (testBit_fiomSet _ _ v).1, Bool.or_eq_true, Bool.and_eq_true, Slot.fiom_iff, State.FiomOn]

theorem State.fenceSet_writes_iff : (s.fenceSet v).testBit 0 = true ↔ (v.getLsbD 0 ∨ (s.FiomOn ∧ v.getLsbD 2)) := by
  simp only [State.fenceSet, (testBit_fiomSet _ _ v).2, Bool.or_eq_true, Bool.and_eq_true, Slot.fiom_iff, State.FiomOn]

theorem State.fenceSet_eq_zero_iff : s.fenceSet v = 0 ↔ v = 0#4 := fiomSet_eq_zero_iff _ _ v

end

/-! ### fence.tso and fence.i -/

section
variable {s : State} (r : s.Runs) (a d : Reg)
include r

theorem exec_fenceTso_done (done : s.performed s.cur true true 2 = true) :
    exec (.fenceTso a d) s = .next (s.begun.acquire s.cur.gcore).retire := by
  have earlier : s.begun.performed s.cur true true 2 = true := done
  refine runThread_ok r ?_
  simp only [estate_bind, estate_get, waitUnless_apply, State.cur_begun, earlier, if_true]
  rfl

theorem exec_fenceI_done (imm : BitVec 12) (done : s.performed s.cur true true 2 = true) :
    exec (.fenceI imm a d) s = .next (s.begun.modCore s.cur.gcore (fun c => { c with l1i := [] })).retire := by
  have earlier : s.begun.performed s.cur true true 2 = true := done
  refine runThread_ok r ?_
  simp only [estate_bind, release_apply, State.cur_begun, earlier, if_true, modCore_apply]

variable (pending : s.performed s.cur true true 2 = false)
include pending

theorem exec_fenceTso_waits : exec (.fenceTso a d) s = .next s.waited := by
  have earlier : s.begun.performed s.cur true true 2 = false := pending
  exact runThread_waited r (by simp [waitUnless_apply, earlier])

theorem exec_fenceI_waits (imm : BitVec 12) : exec (.fenceI imm a d) s = .next s.waited := by
  have earlier : s.begun.performed s.cur true true 2 = false := pending
  exact runThread_waited r (by simp [release_apply, earlier])

end

/-! ### sfence.vma -/

/-- The slot's mode may remove translations: M-mode, and S-mode with TVM 0. -/
def Slot.mayInvalidate (t : Slot) (c : Ctx) : Bool := c.priv != .u && !(c.priv == .s && wbit t.mstatus stTVM)

theorem Slot.mayInvalidate_iff (t : Slot) (c : Ctx) :
    t.mayInvalidate c = true ↔ c.priv = .m ∨ (c.priv = .s ∧ t.mstatus.getLsbD 20 = false) := by
  change (c.priv != .u && !(c.priv == .s && t.mstatus.getLsbD 20)) = true ↔ _
  cases c.priv <;> simp

/-- The address whose entries leave, or none for all of them. -/
def State.invalAddr (s : State) (a : Reg) : Option Nat := if a = 0#5 then none else some (s.xr a).toNat
/-- The address space whose entries leave, or none for all of them. -/
def State.invalAsid (s : State) (b : Reg) : Option Nat := if b = 0#5 then none else some (wfld (s.xr b) 15 0)

section
variable {s : State} (r : s.Runs) (a b : Reg)
include r

theorem exec_sfenceVma_done (may : (s.slot s.cur).mayInvalidate (s.ctx s.cur) = true)
    (done : s.performed s.cur false true 2 = true) : exec (.sfenceVma a b) s =
      .next ((s.begun.invalL1tlb s.cur.gcore (s.invalAddr a) (s.invalAsid b)).invalL2tlb s.cur.cl (s.invalAddr a) (s.invalAsid b)).retire := by
  have earlier : s.begun.performed s.cur false true 2 = true := done
  unfold Slot.mayInvalidate at may
  refine runThread_ok r ?_
  simp only [estate_bind, slot_apply, ctx_apply, State.cur_begun, State.slot_begun, State.ctx_begun, may, require_true,
    estate_pure, estate_get, waitUnless_apply, earlier, if_true, getX_apply, State.xr_begun, upd_apply]
  rfl

theorem exec_sfenceVma_waits (may : (s.slot s.cur).mayInvalidate (s.ctx s.cur) = true)
    (pending : s.performed s.cur false true 2 = false) : exec (.sfenceVma a b) s = .next s.waited := by
  have earlier : s.begun.performed s.cur false true 2 = false := pending
  unfold Slot.mayInvalidate at may
  refine runThread_waited r ?_
  simp only [estate_bind, slot_apply, ctx_apply, State.cur_begun, State.slot_begun, State.ctx_begun, may, require_true,
    estate_pure, estate_get, waitUnless_apply, earlier, Bool.false_eq_true, if_false]

theorem exec_sfenceVma_illegal (may : (s.slot s.cur).mayInvalidate (s.ctx s.cur) = false) :
    exec (.sfenceVma a b) s = .next (s.trapped 2 (s.ibits.setWidth 64)) := by
  unfold Slot.mayInvalidate at may
  refine runThread_trapped r ?_
  simp only [estate_bind, slot_apply, ctx_apply, State.cur_begun, State.slot_begun, State.ctx_begun, may, require_apply,
    Bool.false_eq_true, if_false, State.ibits_begun]

end

/-- Settles O20: mf.fence and fence are one operation on two sets, fence.tso and fence.i wait on everything earlier, and
sfence.vma asks for its mode first. -/
theorem fences : Obligations.Fences := by
  refine ⟨fun s q p sc r => ⟨fun empty => ?_, fun first second done => ?_, fun first second pending => ?_⟩, fun s fm p q a d r => ?_,
    fun s a d r => ⟨fun done => ⟨exec_fenceTso_done r a d done, fun imm => exec_fenceI_done r a d imm done⟩,
      fun pending => ⟨exec_fenceTso_waits r a d pending, exec_fenceI_waits r a d pending⟩⟩,
    fun s a b r => ?_⟩
  · exact runThread_fence_empty (p := p.toNat) (q := q.toNat) r rfl (by simpa [BitVec.toNat_eq] using empty)
  · exact runThread_fence_done r rfl (toNat_ne_zero first) (toNat_ne_zero second) done
  · exact runThread_fence_waits r rfl (toNat_ne_zero first) (toNat_ne_zero second) pending
  · have nonempty (v : BitVec 4) := mt (s.fenceSet_eq_zero_iff v).mp
    refine ⟨fun empty => ?_, fun first second x w hx hw => ?_⟩
    · exact runThread_fence_empty (p := s.fenceSet p) (q := s.fenceSet q) (scope := 2) r rfl
        (by simpa only [State.fenceSet_eq_zero_iff] using empty)
    · obtain rfl : x = (s.fenceSet p).testBit 1 := Bool.eq_iff_iff.mpr (hx.trans (s.fenceSet_reads_iff p).symm)
      obtain rfl : w = (s.fenceSet p).testBit 0 := Bool.eq_iff_iff.mpr (hw.trans (s.fenceSet_writes_iff p).symm)
      refine ⟨fun done => ⟨fun both reads => ?_, fun other => ?_⟩,
        fun pending => runThread_fence_waits r rfl (nonempty p first) (nonempty q second) pending⟩
      · refine (runThread_fence_done r rfl (nonempty p first) (nonempty q second) done).trans ?_
        rw [State.fenced, if_pos ⟨both, (s.fenceSet_reads_iff q).mpr reads, le_refl 2⟩]
        rfl
      · refine (runThread_fence_done r rfl (nonempty p first) (nonempty q second) done).trans ?_
        rw [State.fenced, if_neg (fun ⟨both, reads, _⟩ => other ⟨both, (s.fenceSet_reads_iff q).mp reads⟩)]
  · have may := (s.slot s.cur).mayInvalidate_iff (s.ctx s.cur)
    exact ⟨fun allowed => exec_sfenceVma_done r a b (may.mpr allowed), fun allowed => exec_sfenceVma_waits r a b (may.mpr allowed),
      fun refused => exec_sfenceVma_illegal r a b (Bool.eq_false_iff.mpr (mt may.mp refused))⟩

end Sys2Proof.Machine
end

section
/-! Fill masks, segment registers and the group table as firmware sets them (spec/04_memory.md R112, R113; spec/11_group.md R307,
R308, R310, R311). -/

namespace Sys2Proof.Machine

open Sys2Proof

/-! ### Fill masks -/

/-- A value put at many keys of a table. -/
theorem Tab.get_putAll {α : Type} (d v : α) (f : Nat → Nat) (ks : List Nat) (t : Tab α) (j : Nat) :
    (ks.foldl (fun t i => t.put (f i) v) t).get d j = if j ∈ ks.map f then v else t.get d j := by
  induction ks generalizing t with
  | nil => simp
  | cons k ks ih =>
    rw [List.foldl_cons, ih, Tab.get_put, List.map_cons]
    by_cases later : j ∈ ks.map f
    · simp [later]
    · by_cases now : j = f k <;> simp [later, now]

section
variable (c : Cluster) (cls m : Nat)

theorem Cluster.mask_castMask_same {i : Nat} (slice : i < 64) : (c.castMask cls m).mask i cls = m := by
  unfold Cluster.mask Cluster.castMask
  rw [Tab.get_putAll _ _ (fun i => i * 16 + cls), if_pos (List.mem_map.mpr ⟨i, List.mem_range.mpr slice, rfl⟩)]

theorem Cluster.mask_castMask_other {i k : Nat} (class_ : cls < 16) (other : k < 16 ∧ k ≠ cls) :
    (c.castMask cls m).mask i k = c.mask i k := by
  unfold Cluster.mask Cluster.castMask
  rw [Tab.get_putAll _ _ (fun i => i * 16 + cls), if_neg]
  rw [List.mem_map]
  rintro ⟨j, -, same⟩
  omega

end

theorem exec_broadcastFillMaskWrite {s : State} {who : Party} {cl cls : Nat} {m : Word} (may : s.mayWrite who (some cl) = true)
    (inside : cl < 40 ∧ cls < 16) :
    exec (.broadcastFillMaskWrite who cl cls m) s = .next (s.modCluster cl (·.castMask cls (wfld m 15 0))) :=
  (show _ = execBroadcastFillMaskWrite who cl cls m s from rfl).trans (event_some (if_pos ⟨may, inside⟩))

/-! ### Segments -/

section
variable {s : State} {who : Party} {cl core seg : Nat} {v : Word}

@[simp] theorem Cluster.seg_setSeg_same (c : Cluster) (core seg : Nat) (x : Seg) : (c.setSeg core seg x).seg core seg = x := by
  simp [Cluster.seg, Cluster.setSeg]

theorem exec_segmentRegisterWrite (may : s.mayWrite who (some cl) = true) (place : cl < 40 ∧ core < 64 ∧ seg < 16)
    (ready : ((s.cluster cl).seg core seg).next = none) : exec (.segmentRegisterWrite who cl core seg v) s =
      .next (s.modCluster cl (·.setSeg core seg (((s.cluster cl).seg core seg).write v))) := by
  obtain ⟨hcl, hcore, hseg⟩ := place
  refine (show exec (.segmentRegisterWrite who cl core seg v) s = execSegmentRegisterWrite who cl core seg v s from rfl).trans
    (event_some ?_)
  simp [may, hcl, hcore, hseg, ready]

theorem Seg.write_ready {x : Seg} (ready : x.next = none) (v : Word) : x.write v =
    if segZeroes x.val (v &&& 0xFFFF00FF#64) then { val := x.val, next := some (v &&& 0xFFFF00FF#64) }
    else { val := v &&& 0xFFFF00FF#64, next := none } := by
  obtain ⟨val, next⟩ := x
  subst ready
  rfl

theorem exec_segmentZeroingDone (pending : ((s.cluster cl).seg core seg).next = some v) : exec (.segmentZeroingDone cl core seg) s =
    .next (((s.zeroSeg (cl * 64 + core) seg).checkAgain (cl * 64 + core) seg).modCluster cl
      (·.setSeg core seg { val := v })) := by
  refine (show exec (.segmentZeroingDone cl core seg) s = execSegmentZeroingDone cl core seg s from rfl).trans (event_some ?_)
  simp [pending]

end

/-- The zeroing of a segment writes its 16 KiB with zeros. -/
theorem State.read_zeroSeg (s : State) (g seg : Nat) :
    (∀ i, i < 16384 → (s.zeroSeg g seg).mem.read (scratchPa g (seg * 16384) + i) = 0#8) ∧
    ∀ a, a < scratchPa g (seg * 16384) ∨ scratchPa g (seg * 16384) + 16384 ≤ a → (s.zeroSeg g seg).mem.read a = s.mem.read a := by
  obtain ⟨inside, outside⟩ := wrote_putBytes s (scratchPa g (seg * 2 ^ 14)) (List.replicate (2 ^ 14) 0#8) none
  rw [List.length_replicate] at inside outside
  refine ⟨fun i hi => (inside i hi).trans (List.getD_replicate _ hi), outside⟩

@[simp] theorem State.mem_checkAgain (s : State) (g seg : Nat) : (s.checkAgain g seg).mem = s.mem := rfl

/-! ### The group table -/

section
variable (c : Cluster) {g : Nat} (x : Group)

@[simp] theorem Cluster.group_setGroup_same : (c.setGroup g x).group g = x := by
  simp [Cluster.group, Cluster.setGroup]

theorem Cluster.group_setGroup_other {j : Nat} (other : j ≠ g) : (c.setGroup g x).group j = c.group j :=
  Tab.get_put_other _ _ _ other

/-- A cluster whose group g is x and whose other groups are those of c. -/
def Cluster.Regroups (c d : Cluster) (g : Nat) (x : Group) : Prop :=
  d.group g = x ∧ ∀ j, j ≠ g → d.group j = c.group j

theorem Cluster.regroups_setGroup : c.Regroups (c.setGroup g x) g x :=
  ⟨c.group_setGroup_same x, fun _ other => c.group_setGroup_other x other⟩

theorem Cluster.Regroups.trans {c d e : Cluster} {x y : Group} (h : c.Regroups d g x) (k : d.Regroups e g y) : c.Regroups e g y :=
  ⟨k.1, fun j other => (k.2 j other).trans (h.2 j other)⟩

end

section
variable {c : Cluster} {g : Nat}

/-- STATE 1 forms a Free group. -/
theorem Cluster.writeGroup_form {v : Nat} (free : (c.group g).st = 0) (state : fld v 2 0 = 1) : c.writeGroup g v =
    c.setGroup g { c.group g with st := 1, asid := fld v 31 16, launch := fld v 47 32, barb := fld v 53 48, barn := fld v 60 54 } := by
  simp [Cluster.writeGroup, free, state]

/-- STATE 2 makes a Forming group Live. -/
theorem Cluster.writeGroup_live (forming : (c.group g).st = 1) : c.writeGroup g 2 = c.setGroup g { c.group g with st := 2 } := by
  simp [Cluster.writeGroup, forming, fld]

/-- STATE 3 makes a Live group Draining. -/
theorem Cluster.writeGroup_drain (live : (c.group g).st = 2) : c.writeGroup g 3 = c.setGroup g { c.group g with st := 3 } := by
  simp [Cluster.writeGroup, live, fld]

/-- A segment is the group's, or a barrier of its range is not Free (R308). -/
def Cluster.groupHolds (c : Cluster) (g : Nat) : Prop :=
  c.ownsSeg g = true ∨ ∃ p, p < 64 ∧ (c.group g).holds p = true ∧ (c.bar p).st ≠ 0

/-- STATE 0 frees a Draining group that holds nothing. -/
theorem Cluster.writeGroup_free (draining : (c.group g).st = 3) (empty : ¬ c.groupHolds g) :
    c.writeGroup g 0 = c.setGroup g { c.group g with st := 0 } := by
  unfold Cluster.groupHolds at empty
  simp only [Cluster.writeGroup, draining, fld]
  exact if_neg (by simpa using empty)

/-- STATE 0 is ignored for a Draining group that still holds something. -/
theorem Cluster.writeGroup_holding (draining : (c.group g).st = 3) (holding : c.groupHolds g) : c.writeGroup g 0 = c := by
  unfold Cluster.groupHolds at holding
  simp only [Cluster.writeGroup, draining, fld]
  exact if_pos (by simpa using holding)

end

/-- A Free group written with its cores and STATE 1. -/
theorem Cluster.form_regroups {c : Cluster} {g : Nat} (n : Nat) {v : Nat} (free : (c.group g).st = 0) (state : fld v 2 0 = 1) :
    c.Regroups ((c.writeCores g n).writeGroup g v) g
      { cores := n, barn := fld v 60 54, barb := fld v 53 48, launch := fld v 47 32, asid := fld v 31 16, st := 1 } := by
  have cores : (c.writeCores g n).group g = { c.group g with cores := n } := c.group_setGroup_same _
  rw [Cluster.writeGroup_form (by rw [cores]; exact free) state, cores]
  exact (c.regroups_setGroup _).trans (Cluster.regroups_setGroup _ _)

section
variable {s : State} {who : Party} {cl g : Nat} (may : s.mayWrite who (some cl) = true) (inside : cl < 40 ∧ g < 64)
include may inside

theorem exec_groupForm (cores v : Word) (free : ((s.cluster cl).group g).st = 0) (state : wfld v 2 0 = 1) :
    exec (.groupForm who cl g cores v) s = .next (s.modCluster cl (fun c => (c.writeCores g cores.toNat).writeGroup g v.toNat)) :=
  (show _ = execGroupForm who cl g cores v s from rfl).trans (event_some (if_pos ⟨may, inside.1, inside.2, free, state⟩))

theorem exec_groupGoLive (forming : ((s.cluster cl).group g).st = 1) :
    exec (.groupGoLive who cl g) s = .next (s.modCluster cl (·.writeGroup g 2)) :=
  (show _ = execGroupGoLive who cl g s from rfl).trans (event_some (if_pos ⟨may, inside.1, inside.2, forming⟩))

theorem exec_groupDrain (live : ((s.cluster cl).group g).st = 2) :
    exec (.groupDrain who cl g) s = .next (s.modCluster cl (·.writeGroup g 3)) :=
  (show _ = execGroupDrain who cl g s from rfl).trans (event_some (if_pos ⟨may, inside.1, inside.2, live⟩))

theorem exec_groupFree (draining : ((s.cluster cl).group g).st = 3) :
    exec (.groupFree who cl g) s = .next (s.modCluster cl (·.writeGroup g 0)) :=
  (show _ = execGroupFree who cl g s from rfl).trans (event_some (if_pos ⟨may, inside.1, inside.2, draining⟩))

end

/-- Without the right to write, no register of a cluster changes. -/
theorem exec_clusterWrites_refused {s : State} {who : Party} {cl : Nat} (not : s.mayWrite who (some cl) = false)
    (cls core seg : Nat) (v : Word) : exec (.broadcastFillMaskWrite who cl cls v) s = .next s ∧
      exec (.segmentRegisterWrite who cl core seg v) s = .next s := by
  refine ⟨(show _ = execBroadcastFillMaskWrite who cl cls v s from rfl).trans (event_none ?_),
    (show _ = execSegmentRegisterWrite who cl core seg v s from rfl).trans (event_none ?_)⟩ <;>
  simp [not]

/-! ### The end of a launch -/

/-- A group that owns no segment and no barrier is drained and freed. -/
theorem Cluster.drain_free_regroups {c : Cluster} {g : Nat} (live : (c.group g).st = 2) (barriers : (c.group g).barn = 0)
    (segments : c.segs = Tab.empty) :
    c.Regroups (((c.writeGroup g 3).freeSegs g).writeGroup g 0) g { c.group g with st := 0 } := by
  have drained : (c.writeGroup g 3).freeSegs g = c.setGroup g { c.group g with st := 3 } := by
    rw [Cluster.writeGroup_drain live, Cluster.freeSegs]
    simp [Cluster.setGroup, segments, Tab.map, Tab.empty]
  have empty : ¬ (c.setGroup g { c.group g with st := 3 }).groupHolds g := by
    simp only [Cluster.groupHolds, Cluster.group_setGroup_same, Group.holds, barriers]
    simp [Cluster.ownsSeg, Cluster.setGroup, segments, Tab.empty]
  rw [drained, Cluster.writeGroup_free (by rw [Cluster.group_setGroup_same]) empty, Cluster.group_setGroup_same]
  exact (c.regroups_setGroup _).trans (Cluster.regroups_setGroup _ _)

theorem exec_launchEndNotice {s : State} {cl g : Nat} (live : ((s.cluster cl).group g).st = 2)
    (barriers : ((s.cluster cl).group g).barn = 0) (segments : (s.cluster cl).segs = Tab.empty)
    (ended : s.ends.contains (cl, ((s.cluster cl).group g).launch) = true) : ∃ t, exec (.launchEndNotice cl g) s = .next t ∧
      t.cluster cl = (((s.cluster cl).writeGroup g 3).freeSegs g).writeGroup g 0 := by
  have idle : (s.cluster cl).segBusy g = false := by simp [Cluster.segBusy, segments, Tab.empty]
  have range (u : State) : u.freeRange cl ((s.cluster cl).group g) = u := by simp [State.freeRange, barriers]
  have go : ¬ (((s.cluster cl).group g).st = 0 ∨ (!s.ends.contains (cl, ((s.cluster cl).group g).launch)) = true ∨
      (s.cluster cl).segBusy g = true) := by simp only [live, ended, idle]; decide
  refine ⟨_, (show _ = execLaunchEndNotice cl g s from rfl).trans (event_some (if_neg go)), ?_⟩
  simp only [range, live, if_true]
  split <;> simp [State.cluster, State.modCluster, State.setCluster]

/-- Settles O29: each write of firmware updates one table of its cluster, at once but for a segment that changes owner. -/
theorem firmwareTables : Obligations.FirmwareTables := by
  refine ⟨⟨fun s who cl cls m may inside class_ => ?_, fun s who cl core seg v may hcl hcore hseg ready => ?_,
      fun s cl core seg v pending => ?_, fun s who cl cls core seg v not => exec_clusterWrites_refused not cls core seg v⟩,
    fun s who cl g cores v may hcl hg free state => ?_, fun s who cl g may hcl hg => ⟨fun forming => ?_, fun live => ?_,
      fun draining segments barriers => ?_, fun draining holding => ?_⟩, fun s cl g live barriers segments ended => ?_⟩
  · refine ⟨_, exec_broadcastFillMaskWrite may ⟨inside, class_⟩, fun i slice => ?_, fun i c hc other => ?_,
      fun k other => State.cluster_modCluster_other _ _ _ _ other⟩
    · rw [State.cluster_modCluster_same, Cluster.mask_castMask_same _ _ _ slice]
    · rw [State.cluster_modCluster_same, Cluster.mask_castMask_other _ _ _ class_ ⟨hc, other⟩]
  · refine ⟨_, exec_segmentRegisterWrite may ⟨hcl, hcore, hseg⟩ ready, ?_⟩
    rw [State.cluster_modCluster_same, Cluster.seg_setSeg_same, Seg.write_ready ready]
  · refine ⟨_, exec_segmentZeroingDone pending, ?_, ?_⟩
    · rw [State.cluster_modCluster_same, Cluster.seg_setSeg_same]
    · rw [State.mem_modCluster, State.mem_checkAgain]
      exact s.read_zeroSeg (cl * 64 + core) seg
  · refine ⟨_, exec_groupForm may ⟨hcl, hg⟩ cores v free state, ?_⟩
    rw [State.cluster_modCluster_same]
    exact Cluster.form_regroups cores.toNat free state
  · refine ⟨_, exec_groupGoLive may ⟨hcl, hg⟩ forming, ?_⟩
    rw [State.cluster_modCluster_same, Cluster.writeGroup_live forming]
    exact Cluster.regroups_setGroup _ _
  · refine ⟨_, exec_groupDrain may ⟨hcl, hg⟩ live, ?_⟩
    rw [State.cluster_modCluster_same, Cluster.writeGroup_drain live]
    exact Cluster.regroups_setGroup _ _
  · have empty : ¬ (s.cluster cl).groupHolds g := by
      rintro (owns | ⟨p, hp, holds, busy⟩)
      · exact absurd (owns.symm.trans segments) (by decide)
      · exact busy (barriers p hp holds)
    refine ⟨_, exec_groupFree may ⟨hcl, hg⟩ draining, ?_⟩
    rw [State.cluster_modCluster_same, Cluster.writeGroup_free draining empty]
    exact Cluster.regroups_setGroup _ _
  · refine ⟨_, exec_groupFree may ⟨hcl, hg⟩ draining, fun j => ?_⟩
    rw [State.cluster_modCluster_same, Cluster.writeGroup_holding draining holding]
  · obtain ⟨t, done, cluster⟩ := exec_launchEndNotice live barriers segments ended
    refine ⟨t, done, ?_⟩
    rw [cluster]
    exact Cluster.drain_free_regroups live barriers segments

end Sys2Proof.Machine
end

section
/-! Fills: the sectors that an answered miss brings to its line (spec/04_memory.md R103, R104, R109; spec/05_ordering.md R125;
spec/06_page.md R171). -/

namespace Sys2Proof.Machine

open Sys2Proof

/-! ### Parts of a line -/

theorem getLsbD_setB8 (m : BitVec 8) (i : Nat) (b : Bool) {j : Nat} (hj : j < 8) :
    (setB8 m i b).getLsbD j = if j = i then b else m.getLsbD j := by
  have bit : (setB8 m i b).getLsbD j = (nput m.toNat (i + 1 - 1) i (b2n b)).testBit j := by
    rw [setB8, BitVec.getLsbD_ofNat, decide_eq_true hj, Bool.true_and, Nat.add_sub_cancel]
  rw [bit, testBit_nput _ _ _ _ Nat.one_pos]
  by_cases same : j = i
  · subst same
    rw [if_pos ⟨le_refl _, by omega⟩, if_pos rfl, Nat.sub_self]
    cases b <;> rfl
  · rw [if_neg (by omega), if_neg same]
    rfl

theorem length_setNth {α : Type} (l : List α) (i : Nat) (v : α) : (setNth l i v).length = l.length := by
  induction l generalizing i with
  | nil => rfl
  | cons x xs ih => cases i <;> simp [setNth, ih]

theorem nth_setNth {α : Type} (l : List α) {i : Nat} (v d : α) (hi : i < l.length) (j : Nat) :
    nth (setNth l i v) j d = if j = i then v else nth l j d := by
  induction l generalizing i j with
  | nil => simp at hi
  | cons x xs ih =>
    cases i with
    | zero => cases j <;> simp [setNth, nth]
    | succ i =>
      cases j with
      | zero => simp [setNth, nth]
      | succ j => simpa [setNth, nth] using ih (by simpa using hi) j

/-- What a line holds of one sector: whether it is valid, its bits, whether it is poisoned. -/
def L2Line.part (l : L2Line) (i : Nat) : Bool × BitVec 256 × Bool := (l.valid.getLsbD i, nth l.data i 0#256, l.poison.getLsbD i)

/-! ### A block read from memory in plaintext -/

/-- A block of memory as a party without a key reads it. -/
def State.plainBlock (s : State) (b : Nat) : BitVec 256 :=
  if s.sealed.get none (b / 32) = none then BitVec.ofNat 256 (leNat (s.mem.readN b 32))
  else Config.xtsCross (s.sealed.get none (b / 32)) none b (BitVec.ofNat 256 (leNat (s.mem.readN b 32)))

/-- The state differs from s in the count of corrected errors and the blocks that still have one. -/
def State.Scrubbed (s t : State) : Prop := t = { s with soft := t.soft, corrected := t.corrected }

theorem State.scrubbed_refl (s : State) : s.Scrubbed s := rfl

theorem State.Scrubbed.trans {s t u : State} (h : s.Scrubbed t) (k : t.Scrubbed u) : s.Scrubbed u := by
  unfold State.Scrubbed at *
  rw [k, h]

theorem State.scrubbed_scrubSoft (s : State) (a n : Nat) : s.Scrubbed (s.scrubSoft a n) := by
  unfold State.Scrubbed State.scrubSoft
  dsimp only
  split <;> rfl

theorem State.Scrubbed.plainBlock {s t : State} (h : s.Scrubbed t) (b : Nat) : t.plainBlock b = s.plainBlock b := by
  rw [h]
  rfl

theorem State.Scrubbed.isPoison {s t : State} (h : s.Scrubbed t) (b : Nat) : t.isPoison b = s.isPoison b := by
  rw [h]
  rfl

theorem State.memRead_plain (s : State) (b : Nat) (e : ErrRec) :
    s.memRead b 0 e = (s.scrubSoft b 32, s.plainBlock b, s.isPoison b) := by
  have scrubbed := s.scrubbed_scrubSoft b 32
  rw [← scrubbed.plainBlock, ← scrubbed.isPoison]
  rfl

/-! ### Sectors filled from memory -/

/-- Line m in state t is the plaintext line l of state s after the sectors ns of it were filled. -/
structure Filled (s : State) (l : L2Line) (ns : List Nat) (t : State) (m : L2Line) : Prop where
  state : s.Scrubbed t
  line : m = { l with valid := m.valid, data := m.data, poison := m.poison }
  length : m.data.length = l.data.length
  parts : ∀ j, j < 8 → m.part j = if l.valid.getLsbD j = false ∧ j ∈ ns
    then (true, s.plainBlock (l.addr + 32 * j), s.isPoison (l.addr + 32 * j)) else l.part j

theorem filled_nil (s : State) (l : L2Line) : Filled s l [] s l :=
  ⟨s.scrubbed_refl, rfl, rfl, fun _ _ => by simp⟩

theorem Filled.trans {s t u : State} {l m o : L2Line} {ns ks : List Nat} (h : Filled s l ns t m) (k : Filled t m ks u o) :
    Filled s l (ns ++ ks) u o := by
  have addr : m.addr = l.addr := by rw [h.line]
  refine ⟨h.state.trans k.state, by rw [k.line, h.line], k.length.trans h.length, fun j hj => ?_⟩
  have first := h.parts j hj
  have valid : m.valid.getLsbD j = (m.part j).1 := rfl
  rw [k.parts j hj, addr, h.state.plainBlock, h.state.isPoison, valid, first]
  by_cases invalid : l.valid.getLsbD j = false
  · by_cases now : j ∈ ns
    · simp [invalid, now]
    · simp [invalid, now, L2Line.part]
  · simp [invalid, L2Line.part]

/-- A fill leaves the place of its line, its key and whether it is a zero line. -/
theorem Filled.fixed {s t : State} {l m : L2Line} {ns : List Nat} (h : Filled s l ns t m) :
    m.addr = l.addr ∧ m.key = l.key ∧ m.zero = l.zero := by
  rw [h.line]
  exact ⟨rfl, rfl, rfl⟩

/-- A sector that a fill has brought is valid, with memory's bytes and memory's poison. -/
theorem Filled.sector {s t : State} {l m : L2Line} {ns : List Nat} (h : Filled s l ns t m) {j : Nat} (hj : j < 8) (mem : j ∈ ns)
    (invalid : l.valid.getLsbD j = false) (nonzero : l.zero = false) (unsealed : s.sealed.get none ((l.addr + 32 * j) / 32) = none) :
    m.valid.getLsbD j = true ∧ m.sector j = BitVec.ofNat 256 (leNat (s.mem.readN (l.addr + 32 * j) 32)) ∧
      m.poison.getLsbD j = s.isPoison (l.addr + 32 * j) := by
  obtain ⟨-, -, zero⟩ := h.fixed
  have part := h.parts j hj
  rw [if_pos ⟨invalid, mem⟩, State.plainBlock, if_pos unsealed] at part
  simp only [L2Line.part, Prod.mk.injEq] at part
  obtain ⟨valid, data, poison⟩ := part
  exact ⟨valid, by rw [L2Line.sector, zero, nonzero]; exact data, poison⟩

theorem filled_fillSector (s : State) (k : Nat) {l : L2Line} (plain : l.key = 0) (eight : l.data.length = 8) {i : Nat} (hi : i < 8) :
    Filled s l [i] (s.fillSector k l i).1 (s.fillSector k l i).2 := by
  cases invalid : l.valid.getLsbD i
  · have filled : s.fillSector k l i = (s.scrubSoft (l.addr + 32 * i) 32, { l with
        valid := setB8 l.valid i true, data := setNth l.data i (s.plainBlock (l.addr + 32 * i))
        poison := setB8 l.poison i (s.isPoison (l.addr + 32 * i)) }) := by
      simp [State.fillSector, invalid, plain, State.memRead_plain]
    rw [filled]
    refine ⟨s.scrubbed_scrubSoft _ _, rfl, length_setNth _ _ _, fun j hj => ?_⟩
    simp only [L2Line.part, getLsbD_setB8 _ _ _ hj, nth_setNth _ _ _ (eight.symm ▸ hi)]
    by_cases same : j = i
    · subst same
      simp [invalid]
    · simp [same]
  · have kept : s.fillSector k l i = (s, l) := by simp [State.fillSector, invalid]
    rw [kept]
    refine ⟨s.scrubbed_refl, rfl, rfl, fun j hj => (if_neg ?_).symm⟩
    rintro ⟨not, mem⟩
    rw [List.mem_singleton.mp mem, invalid] at not
    cases not

/-- The sectors of a list filled in turn. -/
theorem filled_sectors (k : Nat) (ns : List Nat) (inside : ∀ i ∈ ns, i < 8) (s : State) {l : L2Line} (plain : l.key = 0)
    (eight : l.data.length = 8) :
    let x := ns.foldl (fun (x : State × L2Line) i => x.1.fillSector k x.2 i) (s, l)
    Filled s l ns x.1 x.2 := by
  induction ns generalizing s l with
  | nil => exact filled_nil s l
  | cons i ns ih =>
    have first := filled_fillSector s k plain eight (inside i List.mem_cons_self)
    have key : (s.fillSector k l i).2.key = 0 := by
      rw [first.line]
      exact plain
    exact first.trans (ih (fun j mem => inside j (List.mem_cons_of_mem i mem)) _ key (first.length.trans eight))

/-! ### A line allocated where the caches are empty -/

theorem lookup_of_forall {α : Type} (p : α → Prop) {d : α} (hd : p d) {l : List (Nat × α)} (hl : ∀ e ∈ l, p e.2) (k : Nat) :
    p (lookup d k l) := by
  induction l with
  | nil => exact hd
  | cons e r ih =>
    obtain ⟨j, v⟩ := e
    simp only [lookup]
    split
    · exact hl _ List.mem_cons_self
    · exact ih fun e mem => hl e (List.mem_cons_of_mem _ mem)

theorem mem_insertAt {α : Type} {k : Nat} {v : α} {l : List (Nat × α)} {e : Nat × α} (mem : e ∈ insertAt k v l) : e = (k, v) ∨ e ∈ l := by
  induction l with
  | nil => simpa [insertAt] using mem
  | cons x r ih =>
    obtain ⟨j, w⟩ := x
    simp only [insertAt] at mem
    split at mem
    · exact (List.mem_cons.mp mem).imp_right (List.mem_cons_of_mem _)
    · split at mem
      · exact List.mem_cons.mp mem
      · rcases List.mem_cons.mp mem with rfl | mem
        · exact .inr List.mem_cons_self
        · exact (ih mem).imp_right (List.mem_cons_of_mem _)

theorem foldl_eq_self {α β : Type} {f : β → α → β} {b : β} {l : List α} (h : ∀ a ∈ l, f b a = b) : l.foldl f b = b := by
  induction l with
  | nil => rfl
  | cons a l ih =>
    rw [List.foldl_cons, h a List.mem_cons_self]
    exact ih fun x mem => h x (List.mem_cons_of_mem a mem)

/-- No cluster's L2 holds a line. -/
def State.L2Empty (s : State) : Prop := ∀ e ∈ s.clusters.ents, e.2.l2 = []

section
variable {s : State} (empty : s.L2Empty)
include empty

theorem State.L2Empty.cluster (k : Nat) : (s.cluster k).l2 = [] := lookup_of_forall (fun c : Cluster => c.l2 = []) rfl empty k

theorem State.L2Empty.setCluster {c : Cluster} (k : Nat) (none : c.l2 = []) : (s.setCluster k c).L2Empty := by
  intro e mem
  rcases mem_insertAt mem with rfl | mem
  · exact none
  · exact empty e mem

theorem State.L2Empty.snoop (k a : Nat) (write : Bool) : s.snoop k a write = s := by
  unfold State.snoop
  split
  · refine foldl_eq_self fun e mem => ?_
    rw [empty e mem]
    simp
  · rfl

/-- The line that is allocated for an address. -/
def allocated (a : Nat) (at_ : Attr) (cls asid tick : Nat) : L2Line :=
  { addr := down a 256, home := at_.home, key := at_.key, cls := cls, asid := asid, way := 0, valid := 0#8, dirty := 0#8,
    zero := false, poison := 0#8, data := zeroLine, used := if at_.cache = 1 then 0 else tick }

theorem State.L2Empty.allocate {k a cls : Nat} (at_ : Attr) (asid : Nat) (way : ((s.cluster k).mask (l2Slice a) cls).testBit 0 = true) :
    s.allocate k a at_ cls asid = (s.tock, some (allocated a at_ cls asid s.tock.tick)) := by
  have none := empty.cluster k
  have other : s.evictOtherKey k a at_.key = s := by simp [State.evictOtherKey, none]
  have sixteen : List.range 16 = 0 :: (List.range 15).map (· + 1) := by decide
  have victim : (s.cluster k).victim a cls = some 0 := by
    simp only [Cluster.victim, Cluster.setLines, none, List.filter_nil, List.all_nil, sixteen]
    rw [List.filter_cons_of_pos way]
    rfl
  have evict : s.evictWay k a 0 = s := by simp [State.evictWay, Cluster.setLines, none]
  simp only [State.allocate, other, victim, evict]
  rfl

end

/-! ### The sectors that a fill brings -/

section
variable (m : Miss)

theorem Miss.brings_lt {i : Nat} (mem : i ∈ m.brings) : i < 8 := by
  unfold Miss.brings at mem
  split at mem
  · exact List.mem_range.mp (List.mem_filter.mp mem).1
  · exact List.mem_range.mp mem

/-- The sectors asked for. -/
theorem Miss.popCount_sectors : popCount 8 m.sectors.toNat = ((List.range 8).filter (fun i => m.sectors.getLsbD i)).length :=
  popCount_eq 8 _

theorem Miss.brings_one {i : Nat} (hi : i < 8) (one : m.sectors = 1#8 <<< i) : m.brings = [i] := by
  have asked : ∀ i < 8, (List.range 8).filter (fun j => (1#8 <<< i).getLsbD j) = [i] := by decide
  rw [Miss.brings, Miss.popCount_sectors, one, asked i hi]
  rfl

theorem Miss.brings_two {i j : Nat} (hi : i < 8) (hj : j < 8) (apart : i ≠ j) (first : m.sectors.getLsbD i = true)
    (second : m.sectors.getLsbD j = true) : m.brings = [0, 1, 2, 3, 4, 5, 6, 7] := by
  have many : ¬ popCount 8 m.sectors.toNat ≤ 1 := by
    rw [Miss.popCount_sectors]
    intro one
    have apart_asked : ({i, j} : Finset ℕ) ⊆ ((List.range 8).filter (fun i => m.sectors.getLsbD i)).toFinset := by
      simp [Finset.insert_subset_iff, hi, hj, first, second]
    have two := Finset.card_le_card apart_asked
    rw [Finset.card_pair apart] at two
    exact absurd (two.trans (List.toFinset_card_le _)) (by omega)
  rw [Miss.brings, if_neg many]
  rfl

end

/-! ### The events -/

section
variable {s : State} {cl idx : Nat} {m : Miss} (found : (s.cluster cl).misses[idx]? = some m)
include found

theorem exec_missHoldExpiry (held : m.issued = false) : exec (.missHoldExpiry cl idx) s =
    .next (s.setCluster cl { s.cluster cl with misses := setNth (s.cluster cl).misses idx { m with issued := true } }) := by
  refine (show _ = execMissHoldExpiry cl idx s from rfl).trans (event_some ?_)
  simp only [found, held]
  rfl

/-- The cluster whose miss is answered. -/
def State.answered (s : State) (cl idx : Nat) : State :=
  s.setCluster cl { s.cluster cl with misses := (s.cluster cl).misses.eraseIdx idx }

theorem exec_l2FillReturn (issued : m.issued = true) : exec (.l2FillReturn cl idx) s = .next ((s.answered cl idx).fillReturn cl m) := by
  refine (show _ = execL2FillReturn cl idx s from rfl).trans (event_some ?_)
  simp only [found, issued]
  rfl

end

theorem exec_memoryAcknowledgement {s : State} {idx : Nat} (sent : idx < s.acks.length) :
    exec (.memoryAcknowledgement idx) s = .next { s with acks := s.acks.eraseIdx idx } :=
  (show _ = execMemoryAcknowledgement idx s from rfl).trans (event_some (if_pos sent))

theorem State.fillReturn_served (s : State) (k : Nat) {m : Miss} (served : m.served = true) : s.fillReturn k m = s := by
  simp [State.fillReturn, served]

/-- The end of a fill: its records, its line in the cluster's L2, and the sector that a prefetch asked for in an L1D. -/
def State.endFill (u : State) (k : Nat) (m : Miss) (l : L2Line) : State :=
  let v := (u.errors (u.latent k m l)).modCluster k (·.putLine { l with owed := l.owed ++ m.harts })
  match m.l1 with
  | none => v
  | some (g, set) => v.modCore g (fun c => c.l1dFill
      { addr := m.addr + 32 * (set % 8), key := m.attr.key, set := set, poison := l.poison.getLsbD (set % 8)
        data := l.sector (set % 8), used := v.tick })

section
variable (u : State) (k : Nat) (m : Miss) (l : L2Line)

theorem State.endFill_cluster : (u.endFill k m l).cluster k = (u.cluster k).putLine { l with owed := l.owed ++ m.harts } := by
  have own (v : State) : (v.modCluster k (·.putLine { l with owed := l.owed ++ m.harts })).cluster k =
      (v.cluster k).putLine { l with owed := l.owed ++ m.harts } := State.cluster_modCluster_same ..
  unfold State.endFill
  cases m.l1 <;> exact own _

theorem State.endFill_mem : (u.endFill k m l).mem = u.mem := by unfold State.endFill; cases m.l1 <;> rfl
theorem State.endFill_slots : (u.endFill k m l).slots = u.slots := by unfold State.endFill; cases m.l1 <;> rfl

end

theorem State.fillReturn_eq {s t : State} {k : Nat} {m : Miss} {l : L2Line} (unserved : m.served = false) (zl : m.attr.zl = false)
    (line : (s.snoop k m.addr false).fillLine k m = (t, some l)) :
    let x := m.brings.foldl (fun (x : State × L2Line) i => x.1.fillSector k x.2 i) (t, l)
    s.fillReturn k m = x.1.endFill k m x.2 := by
  have same (o : L2Line) : (if m.brings.length = 8 then o.zeroed m.attr.zl else o) = o := by simp [L2Line.zeroed, zl]
  simp only [State.fillReturn, unserved, Bool.false_eq_true, if_false, line, same]
  rfl

/-- A fill into empty caches: the line allocated for it, with the sectors brought, is in the cluster's L2, and nothing else of the
cluster, no byte of memory and no slot changes. -/
theorem State.fillReturn_allocates {s : State} {k : Nat} {m : Miss} (empty : s.L2Empty) (unserved : m.served = false)
    (zl : m.attr.zl = false) (plain : m.attr.key = 0) (way : ((s.cluster k).mask (l2Slice m.addr) m.cls).testBit 0 = true) :
    ∃ u l, Filled s.tock (allocated m.addr m.attr m.cls m.asid s.tock.tick) m.brings u l ∧
      ((s.fillReturn k m).cluster k) = (s.cluster k).putLine { l with owed := l.owed ++ m.harts } ∧
      (s.fillReturn k m).mem = s.mem ∧ (s.fillReturn k m).slots = s.slots := by
  have none : (s.cluster k).line m.addr m.attr.key = none := by simp [Cluster.line, empty.cluster k]
  have line : (s.snoop k m.addr false).fillLine k m = (s.tock, some (allocated m.addr m.attr m.cls m.asid s.tock.tick)) := by
    rw [empty.snoop, State.fillLine, none]
    exact empty.allocate m.attr m.asid way
  have filled := filled_sectors k m.brings (fun _ => m.brings_lt) s.tock
    (l := allocated m.addr m.attr m.cls m.asid s.tock.tick) plain rfl
  refine ⟨_, _, filled, ?_⟩
  rw [State.fillReturn_eq unserved zl line, State.endFill_cluster, State.endFill_mem, State.endFill_slots]
  have state := filled.state
  unfold State.Scrubbed at state
  refine ⟨?_, ?_, ?_⟩ <;> rw [state] <;> rfl

theorem Cluster.line_putLine (c : Cluster) (l : L2Line) {a : Nat} (line : l.addr = down a 256) : (c.putLine l).line a l.key = some l := by
  simp [Cluster.line, Cluster.putLine, line]

/-- Where the caches are empty, a sector that an answered miss brings is in the line of its address, with memory's bytes and
memory's poison. -/
theorem exec_l2FillReturn_brings {s : State} {cl idx i : Nat} {m : Miss} (found : (s.cluster cl).misses[idx]? = some m)
    (issued : m.issued = true) (aligned : m.addr % 256 = 0) (unserved : m.served = false) (plain : m.attr.key = 0)
    (zl : m.attr.zl = false) (empty : s.L2Empty) (way : ((s.cluster cl).mask (l2Slice m.addr) m.cls).testBit 0 = true)
    (brought : i ∈ m.brings) (unsealed : s.sealed.get none ((m.addr + 32 * i) / 32) = none) :
    ∃ t l, exec (.l2FillReturn cl idx) s = .next t ∧ (t.cluster cl).line m.addr 0 = some l ∧ l.valid.getLsbD i = true ∧
      l.sector i = BitVec.ofNat 256 (leNat (s.mem.readN (m.addr + 32 * i) 32)) ∧
      l.poison.getLsbD i = s.isPoison (m.addr + 32 * i) ∧
      (t.cluster cl).misses = (s.cluster cl).misses.eraseIdx idx ∧ t.mem = s.mem ∧ t.slots = s.slots := by
  have here : (s.answered cl idx).cluster cl = { s.cluster cl with misses := (s.cluster cl).misses.eraseIdx idx } :=
    State.cluster_setCluster_same ..
  have none : (s.answered cl idx).L2Empty := empty.setCluster cl (empty.cluster cl)
  obtain ⟨u, l, filled, cluster, mem, slots⟩ := State.fillReturn_allocates none unserved zl plain (by rw [here]; exact way)
  have addr : (allocated m.addr m.attr m.cls m.asid (s.answered cl idx).tock.tick).addr = m.addr := by
    simp [allocated, down, aligned]
  obtain ⟨place, key, -⟩ := filled.fixed
  obtain ⟨valid, data, poison⟩ := filled.sector (m.brings_lt brought) brought (by simp [allocated]) rfl (by rw [addr]; exact unsealed)
  rw [addr] at data poison
  refine ⟨_, { l with owed := l.owed ++ m.harts }, exec_l2FillReturn found issued, ?_, valid, data, poison, ?_, mem, slots⟩
  · rw [cluster, ← plain, ← show l.key = m.attr.key from key]
    exact Cluster.line_putLine _ _ place
  · rw [cluster, here]
    rfl

theorem exec_l2FillReturn_served {s : State} {cl idx : Nat} {m : Miss} (found : (s.cluster cl).misses[idx]? = some m)
    (issued : m.issued = true) (served : m.served = true) : exec (.l2FillReturn cl idx) s = .next (s.answered cl idx) := by
  rw [exec_l2FillReturn found issued, State.fillReturn_served _ _ served]

end Sys2Proof.Machine
end

section
/-! The end of a page walk: its translation in the TLBs, or the marks that it leaves on the accesses that wait for it
(spec/06_page.md R156, R159, R161, R162, R166). -/

namespace Sys2Proof.Machine

open Sys2Proof

/-- What every step of a fold keeps, the fold keeps. -/
theorem foldl_keeps {α β γ : Type} {f : β → α → β} (part : β → γ) (step : ∀ b a, part (f b a) = part b) (l : List α) (b : β) :
    part (l.foldl f b) = part b := by
  induction l generalizing b with
  | nil => rfl
  | cons a l ih => rw [List.foldl_cons, ih, step]

/-! ### Marks -/

section
variable {α : Type} {p q : α → Bool} (l : List α) {m : α}

/-- An element put in the place of those that answer to p is the one found for p. -/
theorem find?_replaced (named : p m = true) : (l.filter (fun x => !p x) ++ [m]).find? p = some m := by
  have gone : (l.filter (fun x => !p x)).find? p = none := by
    rw [List.find?_eq_none]
    intro x hx
    have := (List.mem_filter.mp hx).2
    simpa using this
  rw [List.find?_append, gone, Option.none_or, List.find?_cons_of_pos named]

/-- It changes nothing of what is found for a q that no element answers to together with p. -/
theorem find?_replaced_other (named : p m = true) (apart : ∀ x, p x = true → q x = false) :
    (l.filter (fun x => !p x) ++ [m]).find? q = l.find? q := by
  have kept : (fun x => decide ((!p x) = true ∧ q x = true)) = q := by
    funext x
    cases hp : p x
    · simp
    · simp [apart x hp]
  rw [List.find?_append, List.find?_filter, kept, List.find?_cons_of_neg (by simp [apart m named]), List.find?_nil, Option.or_none]

end

/-- A mark added is the one of its access and page, and changes no other. -/
theorem Slot.markFor_addMark (t : Slot) (m : PageMark) (vpn asid : Nat) (part : AccessOf) : (t.addMark m).markFor vpn asid part =
    if m.vpn = vpn ∧ m.asid = asid ∧ m.part = part then some m.out else t.markFor vpn asid part := by
  unfold Slot.markFor Slot.addMark
  split
  · next same =>
    obtain ⟨rfl, rfl, rfl⟩ := same
    rw [find?_replaced t.marks (by simp)]
    rfl
  · next other =>
    rw [find?_replaced_other t.marks (by simp)]
    intro x named
    simp only [Bool.and_eq_true, beq_iff_eq] at named
    obtain ⟨⟨hv, ha⟩, hp⟩ := named
    rw [hv, ha, hp]
    simpa [← and_assoc] using other

/-- The mark of a waiter's access for a page. -/
def State.mark (vpn asid : Nat) (out : Waiter → PageEnd) (s : State) (x : Waiter) : State :=
  s.modSlot x.hart (·.addMark ⟨vpn, asid, x.part, out x⟩)

section
variable (s : State) (vpn asid : Nat) (out : Waiter → PageEnd) (xs : List Waiter)

theorem State.markFor_mark (x : Waiter) (h : Hart) (part : AccessOf) : ((s.mark vpn asid out x).slot h).markFor vpn asid part =
    if x.hart = h ∧ x.part = part then some (out x) else (s.slot h).markFor vpn asid part := by
  by_cases same : x.hart = h
  · subst same
    simp [State.mark, Slot.markFor_addMark]
  · simp [State.mark, State.slot_modSlot_other s _ _ _ (Ne.symm same), same]

@[simp] theorem State.cluster_mark (x : Waiter) (k : Nat) : (s.mark vpn asid out x).cluster k = s.cluster k := rfl
@[simp] theorem State.mem_mark (x : Waiter) : (s.mark vpn asid out x).mem = s.mem := rfl

/-- A mark changes no context. -/
theorem State.ctx_mark (x : Waiter) (h : Hart) : (s.mark vpn asid out x).ctx h = s.ctx h := by
  by_cases same : h = x.hart
  · subst same
    simp [State.ctx, State.mark, Slot.addMark]
  · rw [State.ctx, State.mark, State.slot_modSlot_other s _ _ _ same, State.ctx]

/-- The marks of waiters' accesses for a page, one after the other. -/
def State.markAll (s : State) (vpn asid : Nat) (out : Waiter → PageEnd) (xs : List Waiter) : State :=
  xs.foldl (State.mark vpn asid out) s

@[simp] theorem State.cluster_markAll (k : Nat) : (s.markAll vpn asid out xs).cluster k = s.cluster k :=
  foldl_keeps (·.cluster k) (fun u x => u.cluster_mark vpn asid out x k) xs s
@[simp] theorem State.mem_markAll : (s.markAll vpn asid out xs).mem = s.mem :=
  foldl_keeps (·.mem) (fun u x => u.mem_mark vpn asid out x) xs s

theorem State.markAll_append (ys : List Waiter) :
    (s.markAll vpn asid out xs).markAll vpn asid out ys = s.markAll vpn asid out (xs ++ ys) := by
  simp [State.markAll]

/-- Among the waiters of a list, only x has its slot's access. -/
def Waiter.aloneIn (x : Waiter) (xs : List Waiter) : Prop := ∀ y ∈ xs, y.hart = x.hart → y.part = x.part → y = x

theorem Waiter.aloneIn.mono {x : Waiter} {xs ys : List Waiter} (alone : x.aloneIn xs) (sub : ys ⊆ xs) : x.aloneIn ys :=
  fun y mem => alone y (sub mem)

/-- A waiter that is alone in its access is marked as itself, or as it was where it is not of the list. -/
theorem State.markFor_markAll {x : Waiter} (alone : x.aloneIn xs)
    (marked : x ∈ xs ∨ (s.slot x.hart).markFor vpn asid x.part = some (out x)) :
    ((s.markAll vpn asid out xs).slot x.hart).markFor vpn asid x.part = some (out x) := by
  induction xs generalizing s with
  | nil => simpa [State.markAll] using marked
  | cons y ys ih =>
    refine ih (s.mark vpn asid out y) (fun z hz => alone z (List.mem_cons_of_mem y hz)) ?_
    rw [State.markFor_mark]
    by_cases same : y.hart = x.hart ∧ y.part = x.part
    · rw [if_pos same, alone y List.mem_cons_self same.1 same.2]
      exact .inr rfl
    · rw [if_neg same]
      refine marked.imp_left fun mem => (List.mem_cons.mp mem).resolve_left ?_
      rintro rfl
      exact same ⟨rfl, rfl⟩

end

/-! ### Release -/

section
variable (s : State) (k : Nat) (p : Fpend → Bool)

theorem State.markReleased_keeps {γ : Type} (part : State → γ) (step : ∀ (u : State) h v, part (u.setSlot h v) = part u) (f : Fpend) :
    part (s.markReleased f) = part s :=
  foldl_keeps part (fun _ _ => step _ _ _) f.waiters s

theorem State.release_keeps {γ : Type} (part : State → γ) (step : ∀ (u : State) h v, part (u.setSlot h v) = part u) :
    part (s.release k p) = part (s.modCluster k (fun c => { c with fpend := c.fpend.filter (fun f => !p f) })) :=
  foldl_keeps part (fun u f => u.markReleased_keeps part step f) _ _

@[simp] theorem State.cluster_release : (s.release k p).cluster k =
    { s.cluster k with fpend := (s.cluster k).fpend.filter (fun f => !p f) } := by
  rw [s.release_keeps k p (·.cluster k) (fun _ _ _ => rfl), State.cluster_modCluster_same]

@[simp] theorem State.core_release (g : Nat) : (s.release k p).core g = s.core g := s.release_keeps k p (·.core g) (fun _ _ _ => rfl)
@[simp] theorem State.mem_release : (s.release k p).mem = s.mem := s.release_keeps k p (·.mem) (fun _ _ _ => rfl)

/-- The access that waited on a released entry is marked so. -/
theorem State.markFor_release {f : Fpend} {h : Hart} {part : AccessOf} (fpend : (s.cluster k).fpend = [f]) (named : p f = true)
    (waiters : f.waiters = [(h, part)]) : ((s.release k p).slot h).markFor f.vpn f.asid part = some .released := by
  simp [State.release, fpend, named, waiters, State.markReleased, Slot.markFor_addMark]

end

/-! ### The ends of a walk -/

/-- The entry of a walk in the L1 TLBs of all that waited for it. -/
def State.answerAll (s : State) (e : TlbEnt) (xs : List Waiter) : State := xs.foldl (fun s x => s.answerTlb e x) s

section
variable (s : State) (e : TlbEnt) (xs : List Waiter)

theorem State.core_answerTlb (x : Waiter) : (s.answerTlb e x).core x.hart.gcore = if x.acc = .fetch
    then { s.core x.hart.gcore with itlb := tlbAdd 32 (s.core x.hart.gcore).itlb e }
    else { s.core x.hart.gcore with dtlb := tlbAdd 64 (s.core x.hart.gcore).dtlb e } := by
  rw [State.answerTlb, State.core_modCore_same]

@[simp] theorem State.cluster_answerAll (k : Nat) : (s.answerAll e xs).cluster k = s.cluster k :=
  foldl_keeps (f := fun s x => s.answerTlb e x) (·.cluster k) (fun _ _ => rfl) xs s
@[simp] theorem State.slot_answerAll (h : Hart) : (s.answerAll e xs).slot h = s.slot h :=
  foldl_keeps (f := fun s x => s.answerTlb e x) (·.slot h) (fun _ _ => rfl) xs s
@[simp] theorem State.mem_answerAll : (s.answerAll e xs).mem = s.mem :=
  foldl_keeps (f := fun s x => s.answerTlb e x) (·.mem) (fun _ _ => rfl) xs s
end

/-- What the walk of a waiter's access asks for. -/
def Waiter.req (x : Waiter) : WalkReq :=
  { va := x.va.toNat % 2 ^ 48, acc := x.acc, priv := x.priv, sum := x.sum, mxr := x.mxr, n := x.n, who := some x.hart }

/-- The trap of a waiter whose walk ends in a fault: its access's page fault, or its access fault. -/
def Waiter.faultEnd (r : WalkRes) (x : Waiter) : PageEnd :=
  .trap (if r = .pageFault then x.acc.pageCause else x.acc.accessCause) x.tv

/-- The trap of a waiter whose walk read poison, in a state that gives its pc. -/
def Waiter.poisonEnd (u : State) (x : Waiter) : PageEnd := .trap 19 (if x.acc = .fetch then (u.ctx x.hart).pc else x.tv)

/-- The marks of a walk that read poison do not depend on their order: none changes a pc. -/
theorem State.markPoison_all (u : State) (vpn asid : Nat) (xs : List Waiter) (s : State) (same : ∀ h, s.ctx h = u.ctx h) :
    xs.foldl (fun s x => s.markPoison vpn asid x) s = s.markAll vpn asid (Waiter.poisonEnd u) xs := by
  induction xs generalizing s with
  | nil => rfl
  | cons x xs ih =>
    have first : s.markPoison vpn asid x = s.mark vpn asid (Waiter.poisonEnd u) x := by
      rw [State.markPoison, same]
      rfl
    rw [List.foldl_cons, first, ih _ (fun h => (s.ctx_mark vpn asid _ x h).trans (same h))]
    rfl

section
variable {s u : State} {k : Nat} {w : Walk} {st : Waiter} {rest : List Waiter}

/-- The state of a walk that has left its cluster's list. -/
def State.walked (u : State) (k : Nat) (w : Walk) : State := u.modCluster k (·.dropWalk w)

theorem State.endWalk_left (waiters : w.waiters = []) : s.endWalk k w = s.walked k w := by
  simp only [State.endWalk, waiters]
  rfl

variable (waiters : w.waiters = st :: rest)
include waiters

theorem State.endWalk_ok {e : TlbEnt} (walk : s.walkPage k (some (s.slot st.hart)) w.satp w.cos st.req = (u, .ok e)) :
    s.endWalk k w = ((u.walked k w).install k w.vpn w.asid e).answerAll e (st :: rest) := by
  simp only [Waiter.req] at walk
  simp only [State.endWalk, waiters, walk]
  rfl

theorem State.endWalk_poison (walk : s.walkPage k (some (s.slot st.hart)) w.satp w.cos st.req = (u, .poison)) :
    s.endWalk k w = (u.walked k w).markAll w.vpn w.asid (Waiter.poisonEnd u) (st :: rest) := by
  simp only [Waiter.req] at walk
  simp only [State.endWalk, waiters, walk]
  exact State.markPoison_all u _ _ _ _ (fun _ => rfl)

theorem State.endWalk_later (walk : s.walkPage k (some (s.slot st.hart)) w.satp w.cos st.req = (u, .later)) :
    s.endWalk k w = s := by
  simp only [Waiter.req] at walk
  simp only [State.endWalk, waiters, walk]

/-- The accesses that a fault traps: the one that started the walk, the released ones that had joined it, and the others where
no fault-pending entry can hold them. -/
theorem State.endWalk_fault {r : WalkRes} (fault : r = .pageFault ∨ r = .accessFault)
    (walk : s.walkPage k (some (s.slot st.hart)) w.satp w.cos st.req = (u, r)) : s.endWalk k w =
    let v := (u.walked k w).markAll w.vpn w.asid (Waiter.faultEnd r) (st :: rest.filter (·.released))
    if st.released then v
    else if (u.cluster k).fpend.length < 256 then
      v.modCluster k (fun c => { c with fpend := c.fpend ++
        [{ vpn := w.vpn, asid := w.asid, slot := st.hart,
           waiters := (rest.filter (fun x => !x.released)).map (fun x => (x.hart, x.part)) }] })
    else v.markAll w.vpn w.asid (Waiter.faultEnd r) (rest.filter (fun x => !x.released)) := by
  have room : (((u.walked k w).markAll w.vpn w.asid (Waiter.faultEnd r) (st :: rest.filter (·.released))).cluster k).fpend =
      (u.cluster k).fpend := by
    rw [State.cluster_markAll, State.walked, State.cluster_modCluster_same]
    rfl
  rw [← room]
  simp only [Waiter.req] at walk
  rcases fault with rfl | rfl <;> simp only [State.endWalk, waiters, walk] <;> rfl

end

/-! ### What they leave -/

section
variable {s u : State} {k : Nat} {w : Walk}

theorem exec_walkComplete {idx : Nat} (found : (s.cluster k).walks[idx]? = some w) :
    exec (.walkComplete k idx) s = .next (if s.hasWalker k w then s.endWalk k w else s) := by
  refine (show _ = execWalkComplete k idx s from rfl).trans ?_
  cases has : s.hasWalker k w <;> simp [execWalkComplete, event, found, has]

theorem State.cluster_walked : (u.walked k w).cluster k =
    { u.cluster k with walks := (u.cluster k).walks.filter (fun x => !(x.vpn == w.vpn && x.asid == w.asid)) } :=
  State.cluster_modCluster_same ..

@[simp] theorem State.mem_walked : (u.walked k w).mem = u.mem := rfl

/-- The walk has left its cluster's list. -/
theorem State.gone_of_walks {t : State} (walks : (t.cluster k).walks = ((u.walked k w).cluster k).walks) :
    ∀ x ∈ (t.cluster k).walks, ¬ (x.vpn = w.vpn ∧ x.asid = w.asid) := by
  rw [walks, State.cluster_walked]
  intro x mem
  simpa [imp_iff_not_or] using (List.mem_filter.mp mem).2

section
variable {st : Waiter} {rest : List Waiter} (waiters : w.waiters = st :: rest)
include waiters

/-- One that ends well: the translation is in the TLBs, and what waited for the page is released. -/
theorem State.endWalk_ok_leaves {e : TlbEnt} (walk : s.walkPage k (some (s.slot st.hart)) w.satp w.cos st.req = (u, .ok e)) :
    let t := s.endWalk k w
    (∀ x ∈ (t.cluster k).walks, ¬ (x.vpn = w.vpn ∧ x.asid = w.asid)) ∧
    (t.cluster k).l2tlb = l2tlbAdd (u.cluster k).l2tlb e ∧ t.mem = u.mem ∧
    (∀ f ∈ (t.cluster k).fpend, ¬ (f.vpn = w.vpn ∧ f.asid = w.asid)) ∧
    (∀ f h part, (u.cluster k).fpend = [f] → f.vpn = w.vpn → f.asid = w.asid → f.waiters = [(h, part)] →
      (t.slot h).markFor w.vpn w.asid part = some .released) ∧
    (rest = [] → if st.acc = .fetch then (t.core st.hart.gcore).itlb = tlbAdd 32 (u.core st.hart.gcore).itlb e
      else (t.core st.hart.gcore).dtlb = tlbAdd 64 (u.core st.hart.gcore).dtlb e) := by
  intro t
  have answered : t = ((u.walked k w).install k w.vpn w.asid e).answerAll e (st :: rest) := State.endWalk_ok waiters walk
  have cluster : t.cluster k = { u.cluster k with
      walks := ((u.walked k w).cluster k).walks, l2tlb := l2tlbAdd (u.cluster k).l2tlb e
      fpend := (u.cluster k).fpend.filter (fun f => !(f.vpn == w.vpn && f.asid == w.asid)) } := by
    rw [answered, State.cluster_answerAll, State.install, State.cluster_release,
      State.cluster_modCluster_same, State.cluster_walked]
  have slot (h : Hart) : t.slot h = ((u.walked k w).install k w.vpn w.asid e).slot h := by
    rw [answered, State.slot_answerAll]
  refine ⟨State.gone_of_walks (by rw [cluster]), by rw [cluster], ?_, ?_, ?_, ?_⟩
  · rw [answered, State.mem_answerAll, State.install, State.mem_release]
    rfl
  · rw [cluster]
    intro f mem
    simpa [imp_iff_not_or] using (List.mem_filter.mp mem).2
  · intro f h part fpend hv ha waits
    rw [slot, ← hv, ← ha]
    refine State.markFor_release _ _ _ ?_ (by simp) waits
    rw [State.cluster_modCluster_same, State.cluster_walked]
    exact fpend
  · rintro rfl
    have core : ((u.walked k w).install k w.vpn w.asid e).core st.hart.gcore = u.core st.hart.gcore := by
      rw [State.install, State.core_release]
      rfl
    have own : t.core st.hart.gcore = if st.acc = .fetch
        then { u.core st.hart.gcore with itlb := tlbAdd 32 (u.core st.hart.gcore).itlb e }
        else { u.core st.hart.gcore with dtlb := tlbAdd 64 (u.core st.hart.gcore).dtlb e } := by
      rw [answered, ← core]
      exact State.core_answerTlb _ e st
    rw [own]
    split <;> rfl

/-- A fault leaves the marks of some of the waiters, the one that started the walk among them and, where no fault-pending entry
is free and it was not released, all of them. -/
theorem State.endWalk_fault_marks {r : WalkRes} (fault : r = .pageFault ∨ r = .accessFault)
    (walk : s.walkPage k (some (s.slot st.hart)) w.satp w.cos st.req = (u, r)) : ∃ ys, st ∈ ys ∧ ys ⊆ st :: rest ∧
      (st.released = false → 256 ≤ (u.cluster k).fpend.length → rest ⊆ ys) ∧
      ∀ h, (s.endWalk k w).slot h = ((u.walked k w).markAll w.vpn w.asid (Waiter.faultEnd r) ys).slot h := by
  have first : st :: rest.filter (·.released) ⊆ st :: rest := List.cons_subset_cons st (List.filter_subset_self _)
  rw [State.endWalk_fault waiters fault walk]
  by_cases released : st.released = true
  · refine ⟨_, List.mem_cons_self, first, fun not => absurd (released.symm.trans not) (by decide), fun h => ?_⟩
    rw [if_pos released]
  · by_cases room : (u.cluster k).fpend.length < 256
    · refine ⟨_, List.mem_cons_self, first, fun _ full => absurd room (by omega), fun h => ?_⟩
      rw [if_neg released, if_pos room, State.slot_modCluster]
    · refine ⟨(st :: rest.filter (·.released)) ++ rest.filter (fun x => !x.released), List.mem_append_left _ List.mem_cons_self,
        List.append_subset.mpr ⟨first, List.subset_cons_of_subset st (List.filter_subset_self _)⟩, fun _ _ x mem => ?_, fun h => ?_⟩
      · cases hx : x.released <;> simp [mem, hx]
      · rw [if_neg released, if_neg room, State.markAll_append]

/-- One that faults traps the access that started it; the accesses that had joined it wait on a fault-pending entry, or trap too
where they were released or none is free. -/
theorem State.endWalk_fault_leaves {r : WalkRes} (fault : r = .pageFault ∨ r = .accessFault)
    (walk : s.walkPage k (some (s.slot st.hart)) w.satp w.cos st.req = (u, r)) :
    let t := s.endWalk k w
    (∀ x ∈ (t.cluster k).walks, ¬ (x.vpn = w.vpn ∧ x.asid = w.asid)) ∧ t.mem = u.mem ∧
    (st.aloneIn (st :: rest) → (t.slot st.hart).markFor w.vpn w.asid st.part = some (st.faultEnd r)) ∧
    (st.released = true → (t.cluster k).fpend = (u.cluster k).fpend) ∧
    (st.released = false → (u.cluster k).fpend.length < 256 → (∀ x ∈ rest, x.released = false) →
      (t.cluster k).fpend = (u.cluster k).fpend ++
        [{ vpn := w.vpn, asid := w.asid, slot := st.hart, waiters := rest.map (fun x => (x.hart, x.part)) }]) ∧
    (st.released = false → 256 ≤ (u.cluster k).fpend.length → ∀ x ∈ rest, x.aloneIn (st :: rest) →
      (t.slot x.hart).markFor w.vpn w.asid x.part = some (x.faultEnd r)) := by
  obtain ⟨ys, starter, among, all, slot⟩ := State.endWalk_fault_marks waiters fault walk
  have marked {x : Waiter} (mem : x ∈ ys) (alone : x.aloneIn (st :: rest)) :
      ((s.endWalk k w).slot x.hart).markFor w.vpn w.asid x.part = some (x.faultEnd r) := by
    rw [slot]
    exact State.markFor_markAll _ _ _ _ _ (alone.mono among) (.inl mem)
  have ends := State.endWalk_fault waiters fault walk
  refine ⟨State.gone_of_walks (u := u) ?_, ?_, marked starter, fun released => ?_, fun unreleased room others => ?_,
    fun unreleased full x mem => marked (all unreleased full mem)⟩
  · rw [ends]
    split_ifs <;> simp
  · rw [ends]
    split_ifs <;> simp
  · rw [ends, if_pos released, State.cluster_markAll, State.cluster_walked]
  · have joined : rest.filter (fun x => !x.released) = rest := List.filter_eq_self.mpr (by simpa using others)
    rw [ends, if_neg (by simp [unreleased]), if_pos room, State.cluster_modCluster_same, State.cluster_markAll, State.cluster_walked,
      joined]

theorem State.endWalk_poison_leaves (walk : s.walkPage k (some (s.slot st.hart)) w.satp w.cos st.req = (u, .poison)) :
    let t := s.endWalk k w
    (∀ x ∈ (t.cluster k).walks, ¬ (x.vpn = w.vpn ∧ x.asid = w.asid)) ∧ t.mem = u.mem ∧
    ∀ x ∈ st :: rest, x.aloneIn (st :: rest) → (t.slot x.hart).markFor w.vpn w.asid x.part = some (x.poisonEnd u) := by
  rw [State.endWalk_poison waiters walk]
  refine ⟨State.gone_of_walks (by rw [State.cluster_markAll]), State.mem_markAll .., fun x mem alone => ?_⟩
  exact State.markFor_markAll _ _ _ _ _ alone (.inl mem)

end
end

/-- Settles O28: a fill brings memory's sectors to its line, and a walk that ends leaves an entry in the TLBs or a mark on each
access that waits for it. -/
theorem fillsAndWalks : Obligations.FillsAndWalks := by
  refine ⟨⟨fun s cl idx m found held => exec_missHoldExpiry found held, fun s cl idx m found issued => exec_l2FillReturn found issued,
      fun s cl idx i m found issued aligned unserved plain zl empty way brought unsealed =>
        exec_l2FillReturn_brings found issued aligned unserved plain zl empty way brought unsealed,
      fun s cl idx m found issued harts pref l1 single => exec_l2FillReturn_served found issued ?_,
      fun s k i l hi eight nonzero plain unsealed invalid => ?_, fun m i hi one => m.brings_one hi one,
      fun m i j hi hj apart first second => m.brings_two hi hj apart first second,
      fun s idx sent => exec_memoryAcknowledgement sent⟩,
    fun s u cl idx w st rest r found has waiters walk => ?_, fun s cl idx w found => ⟨fun has waiters => ?_, fun not => ?_⟩⟩
  · simp [Miss.served, harts, pref, l1, single]
  · exact ((filled_fillSector s k plain eight hi).sector hi (List.mem_singleton.mpr rfl) invalid nonzero unsealed).2.1
  · intro gone alone cause
    have done : exec (.walkComplete cl idx) s = .next (s.endWalk cl w) := by rw [exec_walkComplete found, if_pos has]
    have ends (x : Waiter) : x.faultEnd r = .trap (cause x) x.tv := by
      cases hx : x.acc <;> simp [Waiter.faultEnd, cause, hx, Acc.pageCause, Acc.accessCause]
    refine ⟨?_, fun fault => ⟨_, done, ?_⟩, ?_, ?_⟩
    · rintro e rfl
      exact ⟨_, done, State.endWalk_ok_leaves waiters walk⟩
    · simp only [← ends]
      exact State.endWalk_fault_leaves waiters fault walk
    · rintro rfl
      exact ⟨_, done, State.endWalk_poison_leaves waiters walk⟩
    · rintro rfl
      rw [done, State.endWalk_later waiters walk]
  · rw [exec_walkComplete found, if_pos has, State.endWalk_left waiters]
    rfl
  · rw [exec_walkComplete found, if_neg (by simp [not])]

end Sys2Proof.Machine
end

section
/-! Contexts in their slots: what a thread asks about itself and about addresses, the turns that it passes, and the supervisor's
writes of skennel, uweight, ulaunch and sscent (spec/05_ordering.md R137, R138; spec/07_context.md R179, R199, R209, R211, R213;
spec/11_group.md R313, R325; spec/14_kernel.md R378). -/

namespace Sys2Proof.Machine

open Sys2Proof

/-! ### Fields of a doubleword -/

section
variable (v : Word) (x : Nat) {lo w : Nat}

theorem getLsbD_wput (pos : 0 < w) {k : Nat} (inside : k < 64) : (wput v (lo + w - 1) lo x).getLsbD k =
    if lo ≤ k ∧ k < lo + w then x.testBit (k - lo) else v.getLsbD k := by
  rw [wput, w64, BitVec.getLsbD_ofNat, decide_eq_true inside, Bool.true_and, testBit_nput _ _ _ _ pos, BitVec.testBit_toNat]

theorem testBit_wfld (k : Nat) (pos : 0 < w) : (wfld v (lo + w - 1) lo).testBit k = (decide (k < w) && v.getLsbD (lo + k)) := by
  rw [wfld, testBit_fld _ _ _ pos, BitVec.testBit_toNat]

theorem wfld_wput_same (pos : 0 < w) (fits : lo + w ≤ 64) : wfld (wput v (lo + w - 1) lo x) (lo + w - 1) lo = x % 2 ^ w := by
  refine Nat.eq_of_testBit_eq fun k => ?_
  rw [testBit_wfld _ _ pos, Nat.testBit_mod_two_pow]
  by_cases within : k < w
  · rw [getLsbD_wput v x pos (by omega), if_pos (by omega), Nat.add_sub_cancel_left]
  · simp [within]

theorem wfld_wput_other {lo' w' : Nat} (pos : 0 < w) (pos' : 0 < w') (fits : lo' + w' ≤ 64) (apart : lo' + w' ≤ lo ∨ lo + w ≤ lo') :
    wfld (wput v (lo + w - 1) lo x) (lo' + w' - 1) lo' = wfld v (lo' + w' - 1) lo' := by
  refine Nat.eq_of_testBit_eq fun k => ?_
  rw [testBit_wfld _ _ pos', testBit_wfld _ _ pos']
  by_cases within : k < w'
  · rw [getLsbD_wput v x pos (by omega), if_neg (by omega)]
  · simp [within]

end

/-! ### Owners of addresses (R313) -/

section
variable (g : Nat) {off : Nat}

theorem ownerOf_own (inside : off < 0x40000) : ownerOf g (0x7F8000000000 + off) = some g := by
  rw [ownerOf, (winOf_ownWindow inside).2]

theorem winOf_scratch {c : Nat} (core : c < 64) (inside : off < 0x40000) :
    winOf (0x7F0000000000 + c * 0x40000 + off) = some (.scratch c off) := by
  unfold winOf winScratch
  rw [if_pos (by omega), show 0x7F0000000000 + c * 0x40000 + off - 0x7F0000000000 = c * 0x40000 + off by omega,
    show (c * 0x40000 + off) / 2 ^ 18 = c by omega, show (c * 0x40000 + off) % 2 ^ 18 = off by omega]

theorem ownerOf_scratch {c : Nat} (core : c < 64) (inside : off < 0x40000) :
    ownerOf g (0x7F0000000000 + c * 0x40000 + off) = some (g / 64 * 64 + c) := by
  rw [ownerOf, winOf_scratch core inside]

theorem winOf_vault {k : Nat} (vault : k < 40) (inside : off < 0x4000000) :
    winOf (0x7E0000000000 + k * 0x4000000 + off) = some (.vault k off) := by
  unfold winOf winScratch winOwn winVault
  rw [if_neg (by omega), if_neg (by omega), if_pos (by omega),
    show 0x7E0000000000 + k * 0x4000000 + off - 0x7E0000000000 = k * 0x4000000 + off by omega,
    show (k * 0x4000000 + off) / 2 ^ 26 = k by omega, show (k * 0x4000000 + off) % 2 ^ 26 = off by omega]

/-- The fields that choose the owning core lie in the offset within the vault. -/
theorem ownerOf_vault {k : Nat} (vault : k < 40) (inside : off < 0x4000000) :
    ownerOf g (0x7E0000000000 + k * 0x4000000 + off) = some (k * 64 + (off / 2 ^ 8 % 64 ^^^ off / 2 ^ 14 % 4)) := by
  have low : fld (0x7E0000000000 + k * 0x4000000 + off) 13 8 = off / 2 ^ 8 % 64 := by
    rw [fld_eq _ 8 (w := 6) (by omega)]
    omega
  have high : fld (0x7E0000000000 + k * 0x4000000 + off) 15 14 = off / 2 ^ 14 % 4 := by
    rw [fld_eq _ 14 (w := 2) (by omega)]
    omega
  rw [ownerOf, winOf_vault vault inside]
  simp only [low, high]

theorem ownerOf_outside (outside : off < 0x7E0000000000 ∨ 0x800000000000 ≤ off) : ownerOf g off = none := by
  have nowhere : winOf off = none := by
    unfold winOf winScratch winOwn winVault
    rw [if_neg (by omega), if_neg (by omega), if_neg (by omega)]
  rw [ownerOf, nowhere]

end

/-! ### What a thread asks about itself and about an address -/

/-- What ctx.self writes: the hart's slot, core, cluster and device, and LIGHT (R209). -/
def State.selfNumber (s : State) : Nat :=
  s.cur.slot + s.cur.core * 2 ^ 3 + s.cur.cl * 2 ^ 9 + s.devid * 2 ^ 15 + (if (s.ctx s.cur).light then 2 ^ 27 else 0)

theorem State.selfNumber_lt {s : State} (hart : s.cur < 20480) (device : s.devid < 4096) : s.selfNumber < 2 ^ 28 := by
  have slot : s.cur.slot < 8 := Nat.mod_lt _ (by omega)
  have core : s.cur.core < 64 := Nat.mod_lt _ (by omega)
  have cl : s.cur.cl < 40 := Nat.div_lt_of_lt_mul hart
  unfold State.selfNumber
  split <;> omega

theorem Retired.cur {s t : State} {f : Ctx → Ctx} {pc : Word} (h : Retired s t f pc) : t.cur = s.cur := by
  obtain ⟨-, -, -, -, -, -, frame⟩ := h
  rw [frame]

/-- The register that a retired instruction wrote holds its value, or 0 where it is x0. -/
theorem Retired.xr_setX {s t : State} {d : Reg} {v pc : Word} (h : Retired s t (·.setX d.toNat v) pc) :
    t.xr d = if d.toNat = 0 then 0#64 else v := by
  have cur := h.cur
  obtain ⟨-, ctx, -⟩ := h
  have read : t.xr d = ((s.ctx s.cur).setX d.toNat v).getX d.toNat := by
    rw [State.xr, cur, ctx]
    rfl
  rw [read, Ctx.getX_setX]
  by_cases zero : d.toNat = 0 <;> simp [zero]

section
variable {s : State} (r : s.Runs)
include r

theorem ctxSelf_retires (d : Reg) :
    ∃ t, exec (.ctxSelf d) s = .next t ∧ Retired s t (·.setX d.toNat (w64 s.selfNumber)) s.nextPc := by
  have light : b2n (s.ctx s.cur).light * 2 ^ 27 = if (s.ctx s.cur).light then 2 ^ 27 else 0 := by
    cases (s.ctx s.cur).light <;> rfl
  rw [State.selfNumber, ← light]
  change ∃ t, execCtxSelf d s = .next t ∧ _
  unfold execCtxSelf
  exact retires_setX r rfl

theorem ctxPrio_retires (a d : Reg) : ∃ t, exec (.ctxPrio a d) s = .next t ∧
    Retired s t (fun c => { c.setX d.toNat (w64 c.prio) with prio := min (s.xr a).toNat 3 }) s.nextPc := by
  change ∃ t, execCtxPrio a d s = .next t ∧
    Retired s t (fun c => { c.setX d.toNat (w64 (s.ctx s.cur).prio) with prio := min (s.xr a).toNat 3 }) s.nextPc
  unfold execCtxPrio
  refine retires_ctx r ?_
  simp only [estate_bind, getX_apply, ctx_apply, setX_apply, modCtx_apply, State.putX, State.cur_modCtx, State.modCtx_modCtx]
  rfl

theorem grpOwner_retires (a d : Reg) : ∃ t, exec (.grpOwner a d) s = .next t ∧ Retired s t (·.setX d.toNat
    (match ownerOf s.cur.gcore (s.xr a).toNat with | some o => w64 o | none => BitVec.allOnes 64)) s.nextPc := by
  refine retires_setX r ?_
  simp only [estate_bind, myCore_apply, getX_apply, State.cur_begun, State.xr_begun]
  cases ownerOf s.cur.gcore (s.xr a).toNat <;> rfl

theorem grpHere_retires (a d : Reg) : ∃ t, exec (.grpHere a d) s = .next t ∧ Retired s t (·.setX d.toNat
    (match ownerOf s.cur.gcore (s.xr a).toNat with
      | some o => if o = s.cur.gcore then 1#64 else 0#64
      | none => 1#64)) s.nextPc := by
  refine retires_setX r ?_
  simp only [estate_bind, myCore_apply, getX_apply, State.cur_begun, State.xr_begun]
  cases ownerOf s.cur.gcore (s.xr a).toNat with
  | none => rfl
  | some o => simp [b2w]

end

/-! ### Turns that a slot passes (R213) -/

/-- The slot after ctx.yield: it passes its turns, and bit YIE of skennel makes the software interrupt pending. -/
def Slot.yielded (t : Slot) : Slot :=
  { t with pass := 8, mip := if t.skennel.getLsbD 12 then wputb t.mip 1 true else t.mip }

/-- The state in which the current hart's ctx.yield retires. -/
def State.yielded (s : State) : State := s.begun.modSlot s.cur Slot.yielded

theorem exec_ctxYield {s : State} (r : s.Runs) : exec .ctxYield s = .next s.yielded.retire :=
  runThread_ok (m := modSlot Slot.yielded) r rfl

section
variable (s : State)

theorem State.slot_yielded : s.yielded.slot s.cur = (s.slot s.cur).yielded := State.slot_modSlot_same ..

theorem State.slot_yielded_other {h : Hart} (other : h ≠ s.cur) : s.yielded.slot h = s.slot h :=
  State.slot_modSlot_other _ _ _ _ other

theorem State.slot_retire_yielded : (s.yielded.retire.slot s.cur).pass = 8 ∧
    (s.yielded.retire.slot s.cur).mip = (s.slot s.cur).yielded.mip := by
  have slot : s.yielded.retire.slot s.cur = _ := s.yielded.retire_slot
  rw [slot, show s.yielded.cur = s.cur from rfl, s.slot_yielded]
  exact ⟨rfl, rfl⟩

theorem State.slot_retire_yielded_other {h : Hart} (other : h ≠ s.cur) : s.yielded.retire.slot h = s.slot h :=
  (s.yielded.retire_slot_other other).trans (s.slot_yielded_other other)

end

/-- ctx.yield leaves every context as it is. -/
theorem wentOn_retire_yielded {s : State} (r : s.Runs) : WentOn s s.yielded.retire id := by
  refine wentOn_of rfl rfl ?_ (fun h other => ?_) rfl (fun _ _ => rfl)
  · rw [s.slot_yielded]
    exact r.slot_ctx
  · rw [State.ctx, s.slot_yielded_other other]
    rfl

theorem exec_issuePassExpiry {s : State} {h : Hart} (passing : (s.slot h).pass ≠ 0) :
    exec (.issuePassExpiry h) s = .next (s.setSlot h { s.slot h with pass := 0 }) :=
  (show _ = execIssuePassExpiry h s from rfl).trans (event_some (if_neg passing))

/-! ### Who may write the registers of a supervisor -/

theorem State.supervisor_of {s : State} (r : s.Runs) (above : (s.ctx s.cur).priv ≠ .u) : s.supervisor = true := by
  rw [State.supervisor, show s.running s.cur = true from r, Bool.true_and]
  exact bne_iff_ne.mpr above

theorem State.not_supervisor_of {s : State} (user : (s.ctx s.cur).priv = .u) : s.supervisor = false := by
  simp [State.supervisor, user]

/-- The events of a supervisor's writes do nothing for a thread in U-mode (R10; log entry 1). -/
theorem exec_supervisorWrites_user {s : State} (user : (s.ctx s.cur).priv = .u) (e : Nat) (b : Bool) (v : Word) :
    exec (.skennelPark e) s = .next s ∧ exec (.skennelReady e) s = .next s ∧ exec (.skennelEmptyFailed e) s = .next s ∧
    exec (.uweightWrite b v) s = .next s ∧ exec (.scentEnable v) s = .next s := by
  have not := State.not_supervisor_of user
  refine ⟨(show _ = execSkennelPark e s from rfl).trans (event_none ?_), (show _ = execSkennelReady e s from rfl).trans (event_none ?_),
    (show _ = execSkennelEmptyFailed e s from rfl).trans (event_none ?_), (show _ = execUweightWrite b v s from rfl).trans (event_none ?_),
    (show _ = execScentEnable v s from rfl).trans (event_none ?_)⟩ <;>
  simp [not]

/-! ### skennel (R179, R199) -/

section
variable (c : Core) {n : Nat} (k : Ken)

@[simp] theorem Core.ken_setKen_same : (c.setKen n k).ken n = k := Tab.get_put_same _ _ _ _

theorem Core.ken_setKen_other {j : Nat} (other : j ≠ n) : (c.setKen n k).ken j = c.ken j := Tab.get_put_other _ _ _ other

end

section
variable (s : State) (e st : Nat)

theorem State.skennelWith_ent (entry : e < 32) : wfld (s.skennelWith e st) 4 0 = e := by
  rw [State.skennelWith, wfld_wput_other (lo := 5) (w := 3) (lo' := 0) (w' := 5) _ _ (by omega) (by omega) (by omega) (by omega),
    wfld_wput_same (lo := 0) (w := 5) _ _ (by omega) (by omega), Nat.mod_eq_of_lt (by omega)]

theorem State.skennelWith_state (code : st < 8) : wfld (s.skennelWith e st) 7 5 = st := by
  rw [State.skennelWith, wfld_wput_same (lo := 5) (w := 3) _ _ (by omega) (by omega), Nat.mod_eq_of_lt (by omega)]

/-- A write of skennel acts on the entry that ENT names. -/
theorem State.core_writeSkennel (h : Hart) (v : Word) : (s.writeSkennel h v).core h.gcore =
    (s.core h.gcore).setKen (wfld v 4 0) (((s.core h.gcore).ken (wfld v 4 0)).write (wfld v 7 5) (s.tick + 1)) :=
  State.core_modCore_same ..

/-- A write of skennel with an entry and a state changes that entry and no other. -/
theorem State.ken_writeSkennel_with {s : State} {e st : Nat} {k : Ken} (entry : e < 32) (code : st < 8)
    (written : ((s.core s.cur.gcore).ken e).write st (s.tick + 1) = k) :
    let t := s.writeSkennel s.cur (s.skennelWith e st)
    (t.core s.cur.gcore).ken e = k ∧ ∀ j, j ≠ e → (t.core s.cur.gcore).ken j = (s.core s.cur.gcore).ken j := by
  intro t
  rw [State.core_writeSkennel, State.skennelWith_ent s e st entry, State.skennelWith_state s e st code, written]
  exact ⟨Core.ken_setKen_same _ _, fun _ other => Core.ken_setKen_other _ _ other⟩

end

section
variable {k : Ken} (tick : Nat)

theorem Ken.write_park (ready : k.st = .ready) : k.write 1 tick = { k with st := .parked } := by simp [Ken.write, ready]
theorem Ken.write_ready (parked : k.st = .parked) : k.write 2 tick = { k with st := .ready, since := tick } := by
  simp [Ken.write, parked]
theorem Ken.write_empty (failed : k.st = .failed) : k.write 0 tick = {} := by simp [Ken.write, failed]

end

section
variable {s : State} {e : Nat} (sup : s.supervisor = true) (entry : e < 32)
include sup entry

theorem exec_skennelPark (ready : ((s.core s.cur.gcore).ken e).st = .ready) :
    exec (.skennelPark e) s = .next (s.writeSkennel s.cur (s.skennelWith e 1)) :=
  (show _ = execSkennelPark e s from rfl).trans (event_some (if_pos ⟨sup, entry, ready⟩))

theorem exec_skennelReady (parked : ((s.core s.cur.gcore).ken e).st = .parked) :
    exec (.skennelReady e) s = .next (s.writeSkennel s.cur (s.skennelWith e 2)) :=
  (show _ = execSkennelReady e s from rfl).trans (event_some (if_pos ⟨sup, entry, parked⟩))

theorem exec_skennelEmptyFailed (failed : ((s.core s.cur.gcore).ken e).st = .failed) :
    exec (.skennelEmptyFailed e) s = .next (s.writeSkennel s.cur (s.skennelWith e 0)) :=
  (show _ = execSkennelEmptyFailed e s from rfl).trans (event_some (if_pos ⟨sup, entry, failed⟩))

end

/-! ### uweight and ulaunch (R378), and sscent (R137, R138) -/

section
variable {s : State}

theorem exec_uweightWrite (sup : s.supervisor = true) (launch : Bool) (v : Word) :
    exec (.uweightWrite launch v) s = .next (s.writeCsr s.cur (if launch then 0x821 else 0x820) v) :=
  (show _ = execUweightWrite launch v s from rfl).trans (event_some (if_pos sup))

/-- A write of uweight or ulaunch changes the thread's context as the register's write does. -/
theorem State.ctx_writeCsr_weight (r : s.Runs) {n : Nat} (weight : n = 0x820 ∨ n = 0x821) (v : Word) :
    (s.writeCsr s.cur n v).ctx s.cur = (s.ctx s.cur).writeCsr n v := by
  have written : s.writeCsr s.cur n v =
      ((s.modCore s.cur.gcore (·.writeCsr n v)).modSlot s.cur (·.writeCsr n v)).modCtx s.cur (·.writeCsr n v) := by
    rcases weight with rfl | rfl <;> rfl
  have keeps (t : Slot) : t.writeCsr n v = t := by rcases weight with rfl | rfl <;> rfl
  have slot : (((s.modCore s.cur.gcore (·.writeCsr n v)).modSlot s.cur (·.writeCsr n v)).slot s.cur).ctx = some (s.ctx s.cur) := by
    rw [State.slot_modSlot_same, keeps, State.slot_modCore, r.slot_ctx]
  rw [written, State.ctx_modCtx_same _ _ _ (by rw [slot]; rfl), State.ctx_of_slot slot]

theorem exec_scentEnable (sup : s.supervisor = true) {v : Word} (en : v.getLsbD 0 = true) :
    exec (.scentEnable v) s = .next (s.writeCsr s.cur 0x5C3 v) :=
  (show _ = execScentEnable v s from rfl).trans (event_some (if_pos ⟨sup, en⟩))

theorem State.core_writeCsr_sscent (h : Hart) (v : Word) :
    (s.writeCsr h 0x5C3 v).core h.gcore = (s.core h.gcore).writeSscent v :=
  State.core_modCore_same s h.gcore (·.writeCsr 0x5C3 v)

end

section
variable (c : Core) {v : Word} (en : v.getLsbD 0 = true)
include en

theorem Core.sscent_writeSscent_en : (c.writeSscent v).sscent.getLsbD 0 = true := by
  have base : down (wfld v 51 12 * 4096) (2 ^ (min 12 (wfld v 11 8) + 12)) % 2 = 0 := by
    rw [down, Nat.pow_succ]
    have even := Nat.mod_mod_of_dvd (wfld v 51 12 * 4096) (Nat.dvd_mul_left 2 (2 ^ (min 12 (wfld v 11 8) + 11)))
    omega
  simp only [Core.writeSscent, w64, BitVec.getLsbD_ofNat, show wbit v 0 = true from en, Nat.testBit_zero, b2n, if_true]
  generalize down _ _ = x at *
  rw [decide_eq_true (by omega), decide_eq_true (by omega)]
  rfl

theorem Core.scentSeq_writeSscent_rise (clear : c.sscent.getLsbD 0 = false) : (c.writeSscent v).scentSeq = 0 := by
  have rise : (wbit v 0 && !wbit c.sscent 0) = true := by rw [wbit, wbit, en, clear]; rfl
  simp only [Core.writeSscent, rise, if_true]

end

/-- Settles O30: a thread's questions are one register write each, and every other form is one update of its slot, its context, a
Kennel entry or its core. That a supervisor's write does nothing for a thread in U-mode is the model's choice for an event that
cannot happen (R10; log entry 1): the CSR instruction itself raises illegal instruction there (R80, R378). -/
theorem contextRegisters : Obligations.ContextRegisters := by
  refine ⟨⟨fun s r => ⟨fun d => ?_, ctxPrio_retires r, grpOwner_retires r, grpHere_retires r, ?_⟩,
      fun g off => ⟨fun inside => ⟨ownerOf_own g inside, fun c core => ownerOf_scratch g core inside⟩,
        fun k vault inside => ownerOf_vault g vault inside, fun outside => ownerOf_outside g outside⟩,
      fun s h passing => exec_issuePassExpiry passing⟩,
    fun s r above => ?_, fun s e b v user => exec_supervisorWrites_user user e b v⟩
  · obtain ⟨t, done, retired⟩ := ctxSelf_retires r d
    refine ⟨t, done, retired, fun hart device => ?_⟩
    rw [retired.xr_setX]
    split
    · decide
    · exact lt_of_le_of_lt (Nat.mod_le _ _) (State.selfNumber_lt hart device)
  · obtain ⟨pass, mip⟩ := s.slot_retire_yielded
    exact ⟨_, exec_ctxYield r, pass, wentOn_retire_yielded r, fun _ => rfl, fun h other => s.slot_retire_yielded_other other, rfl, mip⟩
  · have sup := State.supervisor_of r above
    refine ⟨fun e entry ready => ⟨_, exec_skennelPark sup entry ready, ?_⟩,
      fun e entry parked => ⟨_, exec_skennelReady sup entry parked, ?_⟩,
      fun e entry failed => ⟨_, exec_skennelEmptyFailed sup entry failed, ?_⟩,
      fun v => ⟨_, exec_uweightWrite sup false v, State.ctx_writeCsr_weight r (.inl rfl) v⟩,
      fun v => ⟨_, exec_uweightWrite sup true v, State.ctx_writeCsr_weight r (.inr rfl) v⟩,
      fun v en => ⟨_, exec_scentEnable sup en, ?_⟩⟩
    · exact State.ken_writeSkennel_with entry (by omega) (Ken.write_park _ ready)
    · rw [(State.ken_writeSkennel_with entry (by omega) (Ken.write_ready _ parked)).1]
      exact ⟨rfl, rfl⟩
    · exact (State.ken_writeSkennel_with entry (by omega) (Ken.write_empty _ failed)).1
    · rw [State.core_writeCsr_sscent]
      exact ⟨Core.sscent_writeSscent_en _ en, Core.scentSeq_writeSscent_rise _ en⟩

end Sys2Proof.Machine
end

section
/-! Uncorrectable errors and the error log: what each struck structure keeps and loses, and what one record does to the log and
its owner (spec/06_page.md R164 to R167; spec/18_link.md R490, R491). -/

namespace Sys2Proof.Machine

open Sys2Proof

/-! ### Memory and caches (R165) -/

section
variable (s : State)

theorem State.isPoison_setPoison (a b : Nat) : (s.setPoison a true).isPoison b = (decide (b = a) || s.isPoison b) := by
  simp only [State.setPoison, State.isPoison, if_true]
  by_cases already : s.poison.contains a = true
  · rw [if_pos already]
    by_cases same : b = a
    · rw [same, already, decide_eq_true rfl, Bool.true_or]
    · rw [decide_eq_false same, Bool.false_or]
  · rw [if_neg already, List.contains_cons]
    rfl

theorem exec_strike_block {a : Nat} (regs : rangeOf (paOf a) ≠ .regs) (reserved : rangeOf (paOf a) ≠ .reserved) :
    exec (.uncorrectableError (.block a)) s = .next (s.setPoison (blk a) true) := by
  refine (show _ = event (fun s => s.strikeBlock a) s from rfl).trans (event_some ?_)
  unfold State.strikeBlock
  split
  · contradiction
  · contradiction
  · rfl

theorem exec_strike_block_register {a : Nat} (range : rangeOf (paOf a) = .regs ∨ rangeOf (paOf a) = .reserved) :
    exec (.uncorrectableError (.block a)) s = .next s := by
  refine (show _ = event (fun s => s.strikeBlock a) s from rfl).trans (event_none ?_)
  obtain range | range := range <;> rw [State.strikeBlock, range]

theorem exec_strike_l2 {cl a : Nat} {l : L2Line} (found : (s.cluster cl).l2.find? (fun x => x.addr == down a 256) = some l)
    (valid : l.valid.getLsbD (sectorOf a) = true) (data : l.zero = false) :
    exec (.uncorrectableError (.l2Line cl a)) s =
      .next (s.setCluster cl ((s.cluster cl).putLine { l with poison := setB8 l.poison (sectorOf a) true })) := by
  refine (show _ = event (fun s => s.strikeL2 cl a) s from rfl).trans (event_some ?_)
  rw [State.strikeL2, found]
  exact if_pos (by rw [valid, data]; rfl)

theorem exec_strike_l2_absent {cl a : Nat} (absent : (s.cluster cl).l2.find? (fun x => x.addr == down a 256) = none) :
    exec (.uncorrectableError (.l2Line cl a)) s = .next s := by
  refine (show _ = event (fun s => s.strikeL2 cl a) s from rfl).trans (event_none ?_)
  rw [State.strikeL2, absent]

theorem exec_strike_l1d {cl core a : Nat} (hit : ∃ l ∈ (s.core (cl * 64 + core)).l1d, l.addr = blk a) :
    exec (.uncorrectableError (.l1dLine cl core a)) s = .next (s.modCore (cl * 64 + core) (fun c =>
      { c with l1d := c.l1d.map (fun l => if l.addr = blk a then { l with poison := true } else l) })) :=
  (show _ = event (fun s => s.strikeL1d (cl * 64 + core) a) s from rfl).trans (event_some (if_pos (by simpa using hit)))

theorem exec_strike_l1d_absent {cl core a : Nat} (miss : ∀ l ∈ (s.core (cl * 64 + core)).l1d, l.addr ≠ blk a) :
    exec (.uncorrectableError (.l1dLine cl core a)) s = .next s :=
  (show _ = event (fun s => s.strikeL1d (cl * 64 + core) a) s from rfl).trans (event_none (if_neg (by simpa using miss)))

/-- A line of an L1I with one of its two blocks poisoned. -/
def L1iLine.struck (l : L1iLine) (i : Nat) : L1iLine := { l with poison := BitVec.ofNat 2 (nput l.poison.toNat i i 1) }

theorem L1iLine.poison_struck (l : L1iLine) {i : Nat} (half : i < 2) : (l.struck i).poison.getLsbD i = true := by
  have bit : (l.struck i).poison.getLsbD i = (nput l.poison.toNat (i + 1 - 1) i 1).testBit i := by
    rw [L1iLine.struck, BitVec.getLsbD_ofNat, decide_eq_true half, Bool.true_and, Nat.add_sub_cancel]
  rw [bit, testBit_nput _ _ _ _ Nat.one_pos, if_pos ⟨le_refl i, by omega⟩, Nat.sub_self]
  rfl

theorem exec_strike_l1i {cl core a : Nat} (hit : ∃ l ∈ (s.core (cl * 64 + core)).l1i, l.addr = down a 64) :
    exec (.uncorrectableError (.l1iLine cl core a)) s = .next (s.modCore (cl * 64 + core) (fun c =>
      { c with l1i := c.l1i.map (fun l => if l.addr = down a 64 then l.struck (a / 32 % 2) else l) })) :=
  (show _ = event (fun s => s.strikeL1i (cl * 64 + core) a) s from rfl).trans (event_some (if_pos (by simpa using hit)))

theorem exec_strike_l1i_absent {cl core a : Nat} (miss : ∀ l ∈ (s.core (cl * 64 + core)).l1i, l.addr ≠ down a 64) :
    exec (.uncorrectableError (.l1iLine cl core a)) s = .next s :=
  (show _ = event (fun s => s.strikeL1i (cl * 64 + core) a) s from rfl).trans (event_none (if_neg (by simpa using miss)))

/-- Of the lines that are left, those at the struck address are poisoned in the struck block. -/
theorem poison_of_mem_struck {ls : List L1iLine} {b i : Nat} (half : i < 2) {l : L1iLine}
    (mem : l ∈ ls.map (fun l => if l.addr = b then l.struck i else l)) (named : l.addr = b) : l.poison.getLsbD i = true := by
  obtain ⟨m, -, rfl⟩ := List.mem_map.mp mem
  by_cases at_b : m.addr = b
  · rw [if_pos at_b]
    exact m.poison_struck half
  · rw [if_neg at_b] at named
    exact absurd named at_b

end

/-! ### Accumulators and Kennel entries (R199, R257) -/

section
variable (s : State)

@[simp] theorem Core.acc_setAcc_same (c : Core) (p : Nat) (a : AccReg) : (c.setAcc p a).acc p = a := Tab.get_put_same _ _ _ _

theorem Core.acc_setAcc_other (c : Core) {p q : Nat} (a : AccReg) (other : q ≠ p) : (c.setAcc p a).acc q = c.acc q :=
  Tab.get_put_other _ _ _ other

theorem State.core_strikeAcc (g p : Nat) : (s.strikeAcc g p).core g = (s.core g).setAcc p
    (if ((s.core g).acc p).st = .claimed then ((s.core g).acc p).fail 0#64 else { (s.core g).acc p with bad := true }) :=
  s.core_modCore_same g (fun c => c.setAcc p _)

theorem exec_strike_accumulator (cl core : Nat) {p : Nat} (inside : p < 8) :
    exec (.uncorrectableError (.accumulator cl core p)) s = .next (s.strikeAcc (cl * 64 + core) p) :=
  (show _ = event (fun s => if p < 8 then some (s.strikeAcc (cl * 64 + core) p) else none) s from rfl).trans
    (event_some (if_pos inside))

@[simp] theorem State.workAt_setWork_same (k : Nat) (w : Work) : (s.setWork k w).workAt k = w := Tab.get_put_same _ _ _ _

theorem State.workAt_setWork_other {j k : Nat} (w : Work) (other : j ≠ k) : (s.setWork k w).workAt j = s.workAt j :=
  Tab.get_put_other _ _ _ other

theorem State.strikeKennel_owned {g e : Nat} {c : Ctx} {own : Nat × Nat × Nat} (full : ((s.core g).ken e).st ≠ .empty)
    (sound : ((s.core g).ken e).st ≠ .failed) (holds : ((s.core g).ken e).ctx = some c) (owned : s.kenOwner g e = some own) :
    s.strikeKennel g e = some (((s.modCore g (fun k => (k.forget c).setKen e { st := .failed })).error
      { kind := 9, lost := true, asid := own.1, cl := g / 64, launch := own.2.1 }).loseWeight own.2.1) := by
  rw [State.strikeKennel, holds, owned]
  cases st : ((s.core g).ken e).st
  case empty => exact absurd st full
  case failed => exact absurd st sound
  all_goals rfl

theorem State.kenOwner_of_not_loading {g e : Nat} {c : Ctx} (still : ((s.core g).ken e).st ≠ .loading)
    (holds : ((s.core g).ken e).ctx = some c) : s.kenOwner g e = some (c.asid, wfld c.ulaunch 15 0, c.uweight.toNat) := by
  rw [State.kenOwner, holds]
  exact if_neg still

/-- A struck entry that holds a context is Failed, and the launch that it names loses its weight. -/
theorem exec_strike_kennel {cl core e : Nat} {c : Ctx} {own : Nat × Nat × Nat}
    (full : ((s.core (cl * 64 + core)).ken e).st ≠ .empty) (sound : ((s.core (cl * 64 + core)).ken e).st ≠ .failed)
    (holds : ((s.core (cl * 64 + core)).ken e).ctx = some c) (owned : s.kenOwner (cl * 64 + core) e = some own) :
    ∃ t, exec (.uncorrectableError (.kennel cl core e)) s = .next t ∧ (t.core (cl * 64 + core)).ken e = { st := .failed } ∧
      t.workAt own.2.1 = (s.workAt own.2.1).loseWeight ∧ t.mem = s.mem := by
  refine ⟨_, (show _ = event (fun s => s.strikeKennel (cl * 64 + core) e) s from rfl).trans
    (event_some (s.strikeKennel_owned full sound holds owned)), ?_, State.workAt_setWork_same _ _ _, rfl⟩
  exact (congrArg (Core.ken · e) (s.core_modCore_same (cl * 64 + core) (fun k => (k.forget c).setKen e { st := .failed }))).trans
    (Core.ken_setKen_same _ _)

end

/-! ### Barriers (R334) -/

section
variable (s : State)

theorem State.cluster_sendRecords {α : Type} (g : α → Nat) (src : RecSource) (r : α → LightRec) (xs : List α) (k : Nat) :
    (xs.foldl (fun s x => s.sendRecord (g x) src (r x)) s).cluster k = s.cluster k := by
  induction xs generalizing s with
  | nil => rfl
  | cons x xs ih => exact ih (s.sendRecord (g x) src (r x))

/-- A release of waiters and parked records leaves the barriers as they are. -/
theorem State.bar_releaseBar (cl p q : Nat) : ((s.releaseBar cl p).cluster cl).bar q = (s.cluster cl).bar q := by
  rw [State.releaseBar, State.cluster_sendRecords, State.cluster_modCluster_same]
  rfl

theorem State.bar_modBar_same (cl p : Nat) (f : Bar → Bar) :
    ((s.modBar cl p f).cluster cl).bar p = f ((s.cluster cl).bar p) := by
  rw [State.modBar, State.bar_releaseBar, State.cluster_modCluster_same]
  exact Tab.get_put_same _ _ _ _

theorem State.bar_modBar_other {cl p q : Nat} (f : Bar → Bar) (other : q ≠ p) :
    ((s.modBar cl p f).cluster cl).bar q = (s.cluster cl).bar q := by
  rw [State.modBar, State.bar_releaseBar, State.cluster_modCluster_same]
  exact Tab.get_put_other _ _ _ other

theorem exec_strike_barrier {cl p : Nat} (used : ((s.cluster cl).bar p).st ≠ barFreeSt) :
    exec (.uncorrectableError (.barrier cl p)) s = .next ((s.error
      { kind := 6, asid := ((s.cluster cl).bar p).asid, cl := cl, launch := ((s.cluster cl).bar p).launch, info := p }).modBar
        cl p (fun b => { b with st := barBroken })) :=
  (show _ = event (fun s => s.strikeBar cl p) s from rfl).trans (event_some (if_neg used))

theorem exec_strike_barrier_free {cl p : Nat} (free : ((s.cluster cl).bar p).st = barFreeSt) :
    exec (.uncorrectableError (.barrier cl p)) s = .next s :=
  (show _ = event (fun s => s.strikeBar cl p) s from rfl).trans (event_none (if_pos free))

end

/-! ### Engines (R295, R357, R358, R403) -/

section
variable {s u : State} {cl e : Nat}

theorem stepE_ok {m : EM Unit} (run : m s = .ok () u) : stepE m s = some u := by
  rw [stepE, run]

theorem exec_windowEntry (a b : Bool) : exec (.uncorrectableError (.windowEntry cl e a b)) s =
    event (fun s => if (s.task cl e).live then stepE (strikeEntry cl e a b) s else none) s := rfl

theorem exec_depCounter : exec (.uncorrectableError (.depCounter cl e)) s =
    event (fun s => if (s.task cl e).live then stepE (strikeCounter cl e) s else none) s := rfl

theorem exec_tracker : exec (.uncorrectableError (.tracker cl e)) s = event (fun s =>
    if (s.trk cl e).gen = 0 ∨ (s.trk cl e).ended then none
    else stepE (fntFail (s.trk (s.trk cl e).first.1 (s.trk cl e).first.2) 2 none) s) s := rfl

theorem exec_terrier : exec (.uncorrectableError (.terrier cl e)) s =
    event (fun s => if (s.qry cl e).active then stepE (qryFail cl e 4 none) s else none) s := rfl

theorem exec_strike_retriever {core i : Nat} {p : Piece} (piece : (s.core (cl * 64 + core)).pieces[i]? = some p)
    (moving : p.done = false) (sound : p.fail = none) : exec (.uncorrectableError (.retriever cl core i)) s =
      .next (s.modCore (cl * 64 + core) (fun c => { c with pieces := setNth c.pieces i { p with pois := true } })) := by
  refine (show _ = execUncorrectableError (.retriever cl core i) s from rfl).trans (event_some ?_)
  simp only [piece, moving, sound, Option.isSome_none, Bool.false_eq_true, or_self, if_false]

theorem exec_strike_retriever_done {core i : Nat} {p : Piece} (piece : (s.core (cl * 64 + core)).pieces[i]? = some p)
    (moved : p.done = true) : exec (.uncorrectableError (.retriever cl core i)) s = .next s := by
  refine (show _ = execUncorrectableError (.retriever cl core i) s from rfl).trans (event_none ?_)
  simp only [piece, moved, true_or, if_true]

end

/-! ### The launch table (R379) -/

section
variable (s : State) {k : Nat}

theorem exec_strike_launch (inside : k < 2 ^ 16) (free : (s.workAt k).st ≠ .free) (retired : (s.workAt k).st ≠ .retired) :
    exec (.uncorrectableError (.launchEntry k)) s = .next ((s.error
      { kind := 6, asid := (s.workAt k).asid, launch := k, info := 11 }).setWork k
      { s.workAt k with st := .sweeping, cause := 11, lost := true, swept := false }) := by
  refine (show _ = event (fun s => s.strikeLaunch k) s from rfl).trans (event_some ?_)
  rw [State.strikeLaunch]
  cases st : (s.workAt k).st
  case free => exact absurd st free
  case retired => exact absurd st retired
  all_goals exact if_neg (Nat.not_le.mpr inside)

theorem exec_strike_launch_ended (ended : (s.workAt k).st = .free ∨ (s.workAt k).st = .retired) :
    exec (.uncorrectableError (.launchEntry k)) s = .next s := by
  refine (show _ = event (fun s => s.strikeLaunch k) s from rfl).trans (event_none ?_)
  rw [State.strikeLaunch]
  obtain st | st := ended <;> rw [st]

end

/-! ### Writes that may report errors of their own (R119, R167) -/

/-- What the error core keeps of its log, and whom it tells. -/
def State.logSide (s : State) : Nat × Nat × List (Nat × Nat) × Nat × Nat := (s.eseq, s.edropped, s.msis, s.owner, s.evec)

/-- State t has the error records of s on their way, perhaps more after them, and the same log. -/
structure State.Reports (s t : State) : Prop where
  errs : s.errs <+: t.errs
  log : t.logSide = s.logSide

namespace State.Reports

theorem refl (s : State) : s.Reports s := ⟨List.prefix_rfl, rfl⟩

theorem of_eq {s t : State} (errs : t.errs = s.errs) (log : t.logSide = s.logSide) : s.Reports t :=
  ⟨errs ▸ List.prefix_rfl, log⟩

theorem trans {s t u : State} (h : s.Reports t) (k : t.Reports u) : s.Reports u := ⟨h.errs.trans k.errs, k.log.trans h.log⟩

theorem foldl {α : Type} {f : State → α → State} (each : ∀ s x, State.Reports s (f s x)) (xs : List α) (s : State) :
    s.Reports (xs.foldl f s) := by
  induction xs generalizing s with
  | nil => exact refl s
  | cons x xs ih => exact (each s x).trans (ih (f s x))

theorem ite {p : Prop} [Decidable p] {s t u : State} (h : s.Reports t) (k : s.Reports u) : s.Reports (if p then t else u) := by
  split <;> assumption

section
variable (s : State)

theorem error (e : ErrRec) : s.Reports (s.error e) := ⟨List.prefix_append _ _, rfl⟩

theorem modCluster (k : Nat) (f : Cluster → Cluster) : s.Reports (s.modCluster k f) := of_eq rfl rfl

theorem touch (a n : Nat) (by_ : Option Hart) : s.Reports (s.touch a n by_) := of_eq rfl rfl

theorem rawPut (a : Nat) (bs : List Byte) : s.Reports (s.rawPut a bs) := of_eq rfl rfl

theorem setPoison (b : Nat) (p : Bool) : s.Reports (s.setPoison b p) := ite (of_eq rfl rfl) (of_eq rfl rfl)

theorem emptyKey (b : Nat) (e : ErrRec) : s.Reports (s.emptyKey b e) := ite (error s _) (refl s)

theorem scrubSoft (a n : Nat) : s.Reports (s.scrubSoft a n) := ite (refl s) (of_eq rfl rfl)

theorem memRead (b key : Nat) (e : ErrRec) : s.Reports (s.memRead b key e).1 := by
  unfold State.memRead
  dsimp only
  split
  · exact (scrubSoft s b 32).trans (emptyKey _ b e)
  · exact scrubSoft s b 32

theorem memPut (b key : Nat) (d : BitVec 256) (p : Bool) (e : ErrRec) : s.Reports (s.memPut b key d p e) := by
  unfold State.memPut
  split
  · exact emptyKey s b e
  · refine (rawPut s b (vecBytes d 32)).trans (trans ?_ (setPoison _ b p))
    exact ite (of_eq rfl rfl) (refl _)

theorem memWrite (b key : Nat) (d : BitVec 256) (p : Bool) (by_ : Option Hart) (e : ErrRec) :
    s.Reports (s.memWrite b key d p by_ e) :=
  ite (memPut s b key d p e) ((memPut s b key d p e).trans (touch _ b 32 by_))

theorem putSector (l : L2Line) (k i : Nat) : s.Reports (l.putSector k s i) :=
  ite ((ite (error s _) (refl s)).trans (memPut _ _ _ _ _ _)) (refl s)

theorem writeBack (k : Nat) (l : L2Line) : s.Reports (s.writeBack k l) := by
  rw [State.writeBack_eq]
  exact foldl (fun s i => putSector s l k i) _ s

theorem snoop (k a : Nat) (write : Bool) : s.Reports (s.snoop k a write) := by
  unfold State.snoop
  refine ite (foldl (fun s (e : Nat × Cluster) => ite (refl s) ?_) _ s) (refl s)
  exact foldl (fun s l => (writeBack s e.1 l).trans (modCluster _ e.1 _)) _ s

theorem directWrite1 (k a key : Nat) (bs : List Byte) (by_ : Option Hart) (e : ErrRec) :
    s.Reports (s.directWrite1 k a key bs by_ e) := by
  have home : s.Reports (s.takeHome a) := snoop s 1000 a true
  have put := ite (p := bs.length = 32) (home.trans (memWrite _ (blk a) key (BitVec.ofNat 256 (leNat bs)) false by_ e))
    ((home.trans (memRead _ (blk a) key e)).trans (memWrite _ (blk a) key
      (mergeBlock ((s.takeHome a).memRead (blk a) key e).2.1 (a - blk a) bs) ((s.takeHome a).memRead (blk a) key e).2.2 by_ e))
  exact ite put (put.trans (modCluster _ k _))

theorem directWrite (k a key : Nat) (bs : List Byte) (by_ : Option Hart) (e : ErrRec) :
    s.Reports (s.directWrite k a key bs by_ e) :=
  foldl (fun s (p : Nat × List Byte) => directWrite1 s k p.1 key p.2 by_ e) (splitBlocks a bs) s

end

end State.Reports

/-! ### A block written to HBM in plaintext -/

theorem leBytes_leNat (bs : List Byte) : leBytes bs.length (leNat bs) = bs := by
  induction bs with
  | nil => rfl
  | cons b bs ih =>
    rw [List.length_cons, leBytes, leNat, show (b.toNat + 256 * leNat bs) / 256 = leNat bs by omega, ih]
    congr 1
    apply BitVec.eq_of_toNat_eq
    rw [BitVec.toNat_ofNat]
    omega

theorem vecBytes_ofNat_leNat {bs : List Byte} (block : bs.length = 32) : vecBytes (BitVec.ofNat 256 (leNat bs)) 32 = bs := by
  have fits : leNat bs < 2 ^ 256 := by
    have below := leNat_lt bs
    rwa [block] at below
  rw [vecBytes, BitVec.toNat_ofNat, Nat.mod_eq_of_lt fits, ← block, leBytes_leNat]

/-- Bytes that stay within one block are one piece. -/
theorem splitBlocks_of_block {a : Nat} {bs : List Byte} (nonempty : bs ≠ []) (within : a % 32 + bs.length ≤ 32) :
    splitBlocks a bs = [(a, bs)] := by
  induction bs generalizing a with
  | nil => exact absurd rfl nonempty
  | cons b bs ih =>
    cases bs with
    | nil => rfl
    | cons c cs =>
      rw [List.length_cons, List.length_cons] at within
      have next : splitBlocks (a + 1) (c :: cs) = [(a + 1, c :: cs)] :=
        ih (List.cons_ne_nil c cs) (by rw [List.length_cons]; omega)
      rw [splitBlocks, next]
      exact if_neg (by omega)

theorem localHbm_of_hbm {a : Nat} (range : rangeOf a = .hbm) : localHbm a = true := by
  rw [localHbm, decide_eq_true_eq]
  by_contra outside
  rw [rangeOf, if_neg outside] at range
  split_ifs at range

/-- A plaintext block put into memory changes its bytes, its poison and the key that it is under. -/
theorem State.memPut_plain (s : State) (b : Nat) (d : BitVec 256) (p : Bool) (e : ErrRec) :
    s.memPut b 0 d p e = { s with
      mem := s.mem.writeN b (vecBytes d 32)
      poison := (s.memPut b 0 d p e).poison
      injected := (s.memPut b 0 d p e).injected
      sealed := (s.memPut b 0 d p e).sealed } := by
  have plain : s.keyFor b 0 = some none := rfl
  simp only [State.memPut, plain]
  cases p <;> split <;> rfl

/-- Where no L2 holds a line, a whole block written past the caches to HBM goes straight to memory. -/
theorem State.L2Empty.directWrite {s : State} (empty : s.L2Empty) {k a : Nat} {key : Nat} {bs : List Byte} {by_ : Option Hart}
    {e : ErrRec} (range : rangeOf a = .hbm) (aligned : a % 32 = 0) (block : bs.length = 32) :
    s.directWrite k a key bs by_ e = s.memWrite a key (BitVec.ofNat 256 (leNat bs)) false by_ e := by
  have one : splitBlocks a bs = [(a, bs)] :=
    splitBlocks_of_block (List.ne_nil_of_length_pos (by omega)) (by omega)
  have own : blk a = a := by rw [blk, down, aligned, Nat.sub_zero]
  rw [State.directWrite, one, List.foldl_cons, List.foldl_nil, State.directWrite1, State.takeHome, empty.snoop, own]
  dsimp only
  rw [if_pos block, if_pos (localHbm_of_hbm range)]

theorem State.memWrite_plain (s : State) (b : Nat) (d : BitVec 256) (p : Bool) (by_ : Option Hart) (e : ErrRec) :
    s.memWrite b 0 d p by_ e = (s.memPut b 0 d p e).touch b 32 by_ := rfl

/-- A block written by a party in plaintext: its bytes are in memory, and of the rest only poison, the key of the block and what
threads watched there can differ. -/
theorem wrote_memWrite_plain (s : State) (b : Nat) {bs : List Byte} (block : bs.length = 32) (by_ : Option Hart) (e : ErrRec) :
    let t := s.memWrite b 0 (BitVec.ofNat 256 (leNat bs)) false by_ e
    Wrote s t b bs ∧ t.errs = s.errs ∧ t.eseq = s.eseq ∧ t.slots.ents.length = s.slots.ents.length ∧ t.cores = s.cores ∧
      t.work = s.work := by
  rw [State.memWrite_plain, State.memPut_plain, vecBytes_ofNat_leNat block]
  refine ⟨⟨fun i hi => ?_, fun p hp => Memory.read_writeN_outside bs s.mem b p hp⟩, rfl, rfl, List.length_map _, rfl, rfl⟩
  rw [List.getD_eq_getElem _ _ hi]
  exact Memory.read_writeN_inside bs s.mem b i hi

/-! ### The error log (R490, R491) -/

/-- Where the next record goes. -/
def State.logPlace (s : State) : Nat := wfld s.elog 51 12 * 4096 + 32 * (s.eseq % logSize s.elog)

/-- The interrupts sent to hosts once the owner has been told of a record. -/
def State.told (s : State) : List (Nat × Nat) := if s.owner < 8 then s.msis ++ [(s.owner, s.evec)] else s.msis

theorem State.Reports.told {s t : State} (h : s.Reports t) : t.told = s.told := by
  have log := h.log
  simp only [State.logSide, Prod.mk.injEq] at log
  obtain ⟨-, -, msis, owner, vec⟩ := log
  rw [State.told, State.told, msis, owner, vec]

section
variable {s : State} {e : ErrRec} {rest : List ErrRec}

theorem State.logError_full (full : s.logRoom = false) : s.logError e = { s with edropped := min 65535 (s.edropped + 1) } :=
  if_neg (by rw [full]; exact Bool.false_ne_true)

theorem State.logError_room (room : s.logRoom = true) : s.logError e =
    { s.directWrite 0 s.logPlace 0 (e.bytes s.eseq) none {} with
      eseq := (s.directWrite 0 s.logPlace 0 (e.bytes s.eseq) none {}).eseq + 1 } :=
  if_pos room

theorem exec_errorRecord (first : s.errs = e :: rest) : exec .errorRecord s =
    .next { State.logError { s with errs := rest } e with msis := (State.logError { s with errs := rest } e).told } := by
  refine (show _ = execErrorRecord s from rfl).trans (event_some ?_)
  rw [first]
  dsimp only [State.told]
  split <;> rfl

theorem exec_errorRecord_quiet (quiet : s.errs = []) : exec .errorRecord s = .next s := by
  refine (show _ = execErrorRecord s from rfl).trans (event_none ?_)
  rw [quiet]

/-- A record that has no room is counted, and the owner is told. -/
theorem exec_errorRecord_full (first : s.errs = e :: rest) (full : s.logRoom = false) :
    exec .errorRecord s = .next { s with errs := rest, edropped := min 65535 (s.edropped + 1), msis := s.told } := by
  have full' : State.logRoom { s with errs := rest } = false := full
  rw [exec_errorRecord first, State.logError_full full']
  rfl

/-- A record that has room takes the next number, and the owner is told; the write may send records of its own. -/
theorem exec_errorRecord_room (first : s.errs = e :: rest) (room : s.logRoom = true) : ∃ t l, exec .errorRecord s = .next t ∧
    t.errs = rest ++ l ∧ t.eseq = s.eseq + 1 ∧ t.edropped = s.edropped ∧ t.msis = s.told := by
  have room' : State.logRoom { s with errs := rest } = true := room
  have reports := State.Reports.directWrite { s with errs := rest } 0 s.logPlace 0 (e.bytes s.eseq) none {}
  obtain ⟨l, more⟩ := reports.errs
  rw [exec_errorRecord first, State.logError_room room']
  exact ⟨_, l, rfl, more.symm, congrArg (·.1 + 1) reports.log, congrArg (·.2.1) reports.log, reports.told⟩

/-- A record that goes to a log in HBM of which no L2 holds a line. -/
theorem State.L2Empty.logError (empty : s.L2Empty) (room : s.logRoom = true) (hbm : rangeOf s.logPlace = .hbm) :
    let t := s.logError e
    Wrote s t s.logPlace (e.bytes s.eseq) ∧ t.errs = s.errs ∧ t.eseq = s.eseq + 1 ∧
      t.slots.ents.length = s.slots.ents.length ∧ t.cores = s.cores ∧ t.work = s.work := by
  have aligned : s.logPlace % 32 = 0 := by unfold State.logPlace; omega
  have block : (e.bytes s.eseq).length = 32 := length_leBytes 32 _
  obtain ⟨⟨inside, outside⟩, errs, seq, rest⟩ := wrote_memWrite_plain s s.logPlace block none {}
  rw [State.logError_room room, empty.directWrite hbm aligned block]
  exact ⟨⟨inside, outside⟩, errs, congrArg (· + 1) seq, rest⟩

theorem exec_errorRecord_hbm (first : s.errs = e :: rest) (room : s.logRoom = true) (hbm : rangeOf s.logPlace = .hbm)
    (empty : s.L2Empty) : ∃ t, exec .errorRecord s = .next t ∧ Wrote s t s.logPlace (e.bytes s.eseq) ∧ t.errs = rest ∧
      t.eseq = s.eseq + 1 ∧ t.slots.ents.length = s.slots.ents.length ∧ t.cores = s.cores ∧ t.work = s.work := by
  obtain ⟨⟨inside, outside⟩, logged⟩ := State.L2Empty.logError (s := { s with errs := rest }) (e := e) empty room hbm
  exact ⟨_, exec_errorRecord first, ⟨inside, outside⟩, logged⟩

end

/-- Settles O58: each site is struck by its own operation, whose change the lemmas above give; a record is one write past the
caches, which may send further records, and one interrupt. -/
theorem errorsAndLog : Obligations.ErrorsAndLog := by
  refine ⟨fun s a => rfl, fun s a => ⟨exec_strike_block s, exec_strike_block_register s⟩,
    fun s a => ⟨?_, fun b other => ?_⟩,
    fun s cl a => ⟨fun l found valid data => exec_strike_l2 s found valid data, exec_strike_l2_absent s⟩,
    fun v i j _ hj => ?_,
    fun s cl core a => ⟨exec_strike_l1d s, exec_strike_l1d_absent s, fun hit => ?_, exec_strike_l1i_absent s⟩,
    fun s cl core p rank inside => ?_,
    fun s cl core e c full sound holds _ => ⟨fun still => ?_, fun i k w loading owner => ?_⟩,
    fun s cl p => ⟨fun used => ⟨_, exec_strike_barrier s used, ?_, fun q other => ?_⟩, exec_strike_barrier_free s⟩,
    fun s u cl e => ⟨fun a b live run => ?_, fun live run => ?_, fun used going run => ?_, fun active run => ?_,
      fun dead => ⟨fun a b => ?_, ?_⟩, fun ended => ?_, fun idle => ?_⟩,
    fun s cl core i p piece => ⟨exec_strike_retriever piece, exec_strike_retriever_done piece⟩,
    fun s k inside => ⟨fun free retired => ⟨_, exec_strike_launch s inside free retired, ?_, fun j other => ?_, rfl, rfl⟩,
      exec_strike_launch_ended s⟩,
    fun s e rest first => ⟨exec_errorRecord_full first, exec_errorRecord_room first, exec_errorRecord_hbm first⟩,
    fun s quiet => exec_errorRecord_quiet quiet⟩
  · rw [State.isPoison_setPoison, decide_eq_true rfl, Bool.true_or]
  · rw [State.isPoison_setPoison, decide_eq_false other, Bool.false_or]
  · rw [getLsbD_setB8 _ _ _ hj]
    by_cases same : j = i <;> simp [same]
  · refine ⟨_, exec_strike_l1i s hit, rfl, rfl, fun l mem => ?_⟩
    rw [State.core_modCore_same] at mem
    exact poison_of_mem_struck (Nat.mod_lt _ Nat.two_pos) mem
  · refine ⟨_, _, exec_strike_accumulator s cl core inside, ?_, fun q other => ?_, rfl, rfl, rfl, rfl, rfl,
      (by omega : (cl * 64 + core) / 64 = cl)⟩
    · rw [State.core_strikeAcc, Core.acc_setAcc_same]
      rfl
    · rw [State.core_strikeAcc, Core.acc_setAcc_other _ _ other]
  · exact exec_strike_kennel s full sound holds (s.kenOwner_of_not_loading still holds)
  · exact exec_strike_kennel s full sound holds ((if_pos loading).trans owner)
  · exact State.bar_modBar_same _ cl p _
  · exact State.bar_modBar_other _ _ other
  · rw [exec_windowEntry, event_some ((if_pos live).trans (stepE_ok run))]
  · rw [exec_depCounter, event_some ((if_pos live).trans (stepE_ok run))]
  · rw [exec_tracker, event_some ((if_neg (by simp [used, going])).trans (stepE_ok run))]
  · rw [exec_terrier, event_some ((if_pos active).trans (stepE_ok run))]
  · rw [exec_windowEntry, event_none (if_neg (by simp [dead]))]
  · rw [exec_depCounter, event_none (if_neg (by simp [dead]))]
  · rw [exec_tracker, event_none (if_pos (.inr ended))]
  · rw [exec_terrier, event_none (if_neg (by simp [idle]))]
  · exact State.workAt_setWork_same _ _ _
  · exact State.workAt_setWork_other _ _ other

end Sys2Proof.Machine
end

section
/-! Turns of the schedule, and interrupts (spec/07_context.md R175, R191, R195, R207, R220). -/

namespace Sys2Proof.Machine

open Sys2Proof

/-! ### Issue turns -/

section
variable {s u : State}

/-- Bytes that decode leave their instruction in flight. -/
theorem fetchNew_decoded {bs tail : List Byte} {i : Instr} (f : fetchBytes s = .ok bs u) (d : decode bs = .ok (i, tail)) :
    s.fetchNew = ({ u with ibits := bitsOf bs, ilen := bs.length }, .run i) := by
  rw [State.fetchNew, f]
  simp only [d]

/-- An instruction that a wait left in flight is taken from its mark. -/
theorem fetch_of_wait {w : WaitMark} {tail : List Byte} {i : Instr} (waits : (s.slot s.cur).wait = some w)
    (d : decode (leBytes w.len w.bits.toNat) = .ok (i, tail)) :
    s.fetch = ({ s with ibits := w.bits, ilen := w.len }, .run i) := by
  rw [State.fetch, waits]
  simp only [State.refetch, d]

/-- A slot that can issue and waits for nothing executes the instruction at its pc. -/
theorem act_issue_fetched {h : Hart} {bs tail : List Byte} {i : Instr} (can : s.canIssue h = true) (idle : (s.slot h).wait = none)
    (f : fetchBytes { s with cur := h } = .ok bs u) (d : decode bs = .ok (i, tail)) :
    act (.issue h) s = exec i { u with ibits := bitsOf bs, ilen := bs.length } :=
  issue_of_fetch (s := { s with cur := h }) can ((fetch_of_no_wait idle).trans (fetchNew_decoded f d))

theorem act_issue_resumed {h : Hart} {w : WaitMark} {tail : List Byte} {i : Instr} (can : s.canIssue h = true)
    (waits : (s.slot h).wait = some w) (d : decode (leBytes w.len w.bits.toNat) = .ok (i, tail)) :
    act (.issue h) s = exec i { s with cur := h, ibits := w.bits, ilen := w.len } :=
  issue_of_fetch (s := { s with cur := h }) can (fetch_of_wait waits d)

/-- A hart that cannot issue passes its turn. -/
theorem act_issue_passes {h : Hart} (cannot : s.canIssue h = false) :
    act (.issue h) s = .next (State.passTurn { s with cur := h } h) := by
  have : ¬ State.canIssue { s with cur := h } h = true := by rw [show State.canIssue { s with cur := h } h = false from cannot]; decide
  exact if_neg this

/-- A turn that a hart passes changes its core's counters and the counter of free values. -/
theorem State.passTurn_frame (s : State) (h : Hart) :
    s.passTurn h = { s with cores := (s.passTurn h).cores, free := (s.passTurn h).free } ∧
    (∀ g, g ≠ h.gcore → (s.passTurn h).core g = s.core g) ∧
    (s.passTurn h).core h.gcore = { s.core h.gcore with
      cycle := ((s.passTurn h).core h.gcore).cycle, hpm := ((s.passTurn h).core h.gcore).hpm } := by
  unfold State.passTurn
  split
  · exact ⟨rfl, fun g n => s.spend_core_other _ n, s.spend_core_frame _ _⟩
  · exact ⟨rfl, fun _ _ => rfl, rfl⟩

end

/-- Settles O1: a step is the turn at the head of the agenda, and an issue turn executes what its fetch gives. -/
theorem stepRunsDecoded : Obligations.StepRunsDecoded := by
  have first {s : State} {t : Turn} {rest : List Turn} (head : s.agenda = t :: rest) : step s = turn t { s with agenda := rest } := by
    rw [step, head]
  refine ⟨fun s t rest head => (first head).trans ?_, fun s h bs tail u i => act_issue_fetched,
    fun s h rest bs tail u i head free can idle fetched decoded => ?_, fun s h w i tail => act_issue_resumed,
    fun s h cannot => ?_, fun s i => rfl, fun s n => rfl⟩
  · rw [turn]
    cases act t { s with agenda := rest } <;> rfl
  · exact (first head).trans ((turn_of_not_imposing (s := { s with agenda := rest }) _ free).trans
      (act_issue_fetched (s := { s with agenda := rest }) can idle fetched decoded))
  · obtain ⟨rest, others, own⟩ := State.passTurn_frame { s with cur := h } h
    exact ⟨_, act_issue_passes cannot, rest, others, own⟩

/-! ### Interrupts -/

/-- A pending enabled interrupt keeps its slot from issuing (R195, R207). -/
theorem State.canIssue_of_irq {s : State} {h : Hart} {c : Ctx} {i : Nat} (has : (s.slot h).ctx = some c)
    (open_ : (s.slot h).noIrq = false) (pending : (s.slot h).irq c = some i) : s.canIssue h = false := by
  simp [State.canIssue, Slot.irqDue, has, pending, open_]

theorem exec_trapEvent (k : TrapEvent) (s : State) : exec (.trapOrInterrupt k) s = execTrapOrInterrupt k s := rfl

theorem exec_interrupt {s : State} {h : Hart} {c : Ctx} {i : Nat} (has : (s.slot h).ctx = some c)
    (runs : (s.slot h).halted = false) (open_ : (s.slot h).noIrq = false) (pending : (s.slot h).irq c = some i) :
    exec (.trapOrInterrupt (.interrupt h)) s =
      .next (s.takeTrap h true i (if i = 31 then (s.slot h).ktval else 0#64)) := by
  rw [exec_trapEvent, execTrapOrInterrupt]
  exact event_some (by simp only [has, runs, open_, pending, Bool.false_eq_true, or_self, if_false])

/-- Settles O10: an interrupt is an event of its slot, and a line writes its bit of mip. -/
theorem interruptTaken : Obligations.InterruptTaken := by
  refine ⟨fun s h c i has runs open_ pending =>
    ⟨exec_interrupt has runs open_ pending, State.canIssue_of_irq has open_ pending⟩, fun s h b line other => ?_, fun s h => ?_⟩
  · rw [exec_trapEvent, execTrapOrInterrupt]
    exact event_some (if_pos ⟨line, other⟩)
  · rw [exec_trapEvent, execTrapOrInterrupt]
    exact event_none (if_neg fun both => both.2 rfl)

end Sys2Proof.Machine
end

section
/-! The head of the sequencer: how a queued instruction completes, traps or waits (spec/07_context.md R190, R191, R195, R524;
spec/10_transfer.md R299). -/

namespace Sys2Proof.Machine

open Sys2Proof

/-! ### The three ends -/

section
variable {s t : State} {h : Hart} {p : Nat} {e : SeqEnt}

/-- A sequencer that runs is in a slot that holds its context. -/
theorem State.slot_of_seqReady (ready : s.seqReady h = true) : (s.slot h).ctx = some (s.ctx h) := by
  simp only [State.seqReady, State.running, Bool.and_eq_true] at ready
  obtain ⟨⟨⟨has, -⟩, -⟩, -⟩ := ready
  obtain ⟨c, hc⟩ := Option.isSome_iff_exists.mp has
  rw [State.ctx_of_slot hc, hc]

/-- A sequencer that has a next entry has an entry. -/
theorem Ctx.seq_ne_nil {c : Ctx} {x : Nat × SeqEnt} (next : c.seqNext = some x) : c.seq ≠ [] := by
  rintro empty
  rw [Ctx.seqNext, empty] at next
  exact Option.some_ne_none _ next.symm

/-- A head that is no member of a loop body is the next entry; behind it the rest stands, with vstart 0. -/
theorem Ctx.seqNext_of_head {c : Ctx} {rest : List SeqEnt} (head : c.seq = e :: rest) (alone : e.l = false) :
    c.seqNext = some (0, e) ∧ (c.seqDone 0 e).seq = rest ∧ (c.seqDone 0 e).vstart = 0#64 := by
  simp [Ctx.seqNext, Ctx.seqDone, head, alone]

section
variable (ready : s.seqReady h = true) (next : (s.ctx h).seqNext = some (p, e))
include ready next

theorem seqHead_completes (run : (e.instr (s.ctx h)).run (s.atHead h e) = .ok () t) :
    exec (.sequencerHeadExecute h) s =
      .next ((((t.modCtx h (fun c => c.seqDone p e)).modSlot h Slot.seqClear).perfCycles h.gcore 7).wonVec h) := by
  refine (exec_sequencerHeadExecute s h).trans (event_some ?_)
  rw [State.atHead] at run
  simp only [State.seqStep, ready, next, run, Bool.not_true, Bool.false_eq_true, if_false, Option.map_some]

theorem seqHead_traps {cause : Nat} {v : Word} (run : (e.instr (s.ctx h)).run (s.atHead h e) = .error (.trap cause v) t) :
    exec (.sequencerHeadExecute h) s = .next ((t.keepSeq h (s.ctx h).seq).takeTrap h false cause v) := by
  refine (exec_sequencerHeadExecute s h).trans (event_some ?_)
  rw [State.atHead] at run
  simp only [State.seqStep, ready, next, run, Bool.not_true, Bool.false_eq_true, if_false, Option.map_some]

theorem seqHead_waits (run : (e.instr (s.ctx h)).run (s.atHead h e) = .error .wait t) :
    exec (.sequencerHeadExecute h) s = .next (t.keepSeq h (s.ctx h).seq) := by
  refine (exec_sequencerHeadExecute s h).trans (event_some ?_)
  rw [State.atHead] at run
  simp only [State.seqStep, ready, next, run, Bool.not_true, Bool.false_eq_true, if_false, Option.map_some]

end

/-! ### What a trap and a wait leave of the sequencer -/

theorem State.slot_keepSeq {c : Ctx} (has : (t.slot h).ctx = some c) (seq : List SeqEnt) :
    (t.keepSeq h seq).slot h = { t.slot h with ctx := some { c with seq := seq } } := by
  rw [State.keepSeq, State.slot_modCtx_same, has]
  rfl

/-- The context that a trap leaves is the one that left its mode, but for the handler's registers. -/
theorem State.ctx_takeTrap {c : Ctx} (has : (t.slot h).ctx = some c) (cause : Nat) (v : Word) :
    let u := t.takeTrap h false cause v
    (u.ctx h).seq = c.leave.seq ∧ (u.ctx h).frozen = c.leave.frozen ∧ (u.ctx h).v = c.leave.v ∧
    ((t.slot h).delegates c.priv false cause = true → (u.ctx h).scause = causeWord false cause ∧ (u.ctx h).stval = v) := by
  intro u
  have slot : u.slot h = _ := t.takeTrap_slot h false cause v
  have idle : ({ t.slot h with wait := none, marks := [] } : Slot).ctx = some c := has
  cases d : (t.slot h).delegates c.priv false cause
  case true =>
    rw [Slot.takeTrap_delegated idle false cause v d] at slot
    rw [State.ctx, slot]
    exact ⟨rfl, rfl, rfl, fun _ => ⟨rfl, rfl⟩⟩
  case false =>
    rw [Slot.takeTrap_machine idle false cause v d] at slot
    rw [State.ctx, slot]
    exact ⟨rfl, rfl, rfl, nofun⟩

theorem Ctx.leave_frozen {c : Ctx} (entries : c.seq ≠ []) : c.leave.frozen = some (c.frozen.getD c.priv) := by
  rw [Ctx.leave_eq, if_neg entries]

theorem Ctx.leave_seq (c : Ctx) : c.leave.seq = c.seq := by rw [Ctx.leave_eq]
theorem Ctx.leave_v (c : Ctx) : c.leave.v = c.v := by rw [Ctx.leave_eq]

end

/-! ### A source register that a strip holds (R299) -/

/-- A vtype of LMUL 1 and a given element width. -/
theorem vtyped_of_lmul_one {e : SeqEnt} {q : Nat} (small : q < 4) (type : e.vtype = w64 (8 * q)) (fits : e.vl ≤ 512 / (8 * 2 ^ q)) :
    VTyped e q 1 := by
  have fields : vlmaxOf (w64 (8 * q)) = some (512 / (8 * 2 ^ q)) ∧ q = wfld (w64 (8 * q)) 5 3 ∧
      1 = (if wfld (w64 (8 * q)) 2 0 < 4 then 2 ^ wfld (w64 (8 * q)) 2 0 else 1) := by
    interval_cases q <;> decide
  obtain ⟨most, width, regs⟩ := fields
  rw [← type] at most width regs
  exact ⟨_, most, fits, width, regs⟩

section
variable {s : State} {r : Nat}

/-- The group of a strip meets its first register. -/
theorem overlap_first (st : Strip) {n : Nat} (pos : 0 < n) : overlap st.vd n st.regs.1 st.regs.2 = true := by
  have some_ : 0 < st.regs.2 := Nat.lt_of_lt_of_le Nat.one_pos (Nat.le_max_left ..)
  have first : st.regs.1 = st.vd := rfl
  simp only [overlap, first, Bool.and_eq_true, decide_eq_true_eq]
  omega

variable (holds : ((s.ctx s.cur).strip 0).v = true) (dest : ((s.ctx s.cur).strip 0).vd = r) {n : Nat} (pos : 0 < n)
include holds dest pos

theorem waitStrips_first : waitStrips r n s = match ((s.ctx s.cur).strip 0).fault with
    | some reason => .error (.trap 25 (chanTval reason true 0 ((s.ctx s.cur).strip 0).src)) s
    | none => .error .wait s := by
  have meets := overlap_first ((s.ctx s.cur).strip 0) pos
  rw [dest] at meets
  have found : (List.range 4).find? (fun i => ((s.ctx s.cur).strip i).v &&
      overlap r n ((s.ctx s.cur).strip i).regs.1 ((s.ctx s.cur).strip i).regs.2) = some 0 := by
    rw [show List.range 4 = [0, 1, 2, 3] from rfl, List.find?_cons, holds, meets]
    rfl
  simp only [waitStrips, estate_bind, ctx_apply, found]
  cases ((s.ctx s.cur).strip 0).fault <;> rfl

end

/-- The use of a group of registers ends where its wait for strips does. -/
theorem useV_of_waitStrips {s : State} {r n : Nat} {o : Exit} (ends : waitStrips r n s = .error o s) : useV r n s = .error o s := by
  rw [useV, estate_bind, ends]

/-- An unmasked elementwise operation of R230 begins with the use of its source. -/
theorem rzElem_useSource {x : VI} {k : Nat} {s : State} {o : Exit} (legal : x.rzOk x.sew = true)
    (second : x.groupOk x.s2 x.sew = true) (first : x.groupOk x.s1 x.sew = true) (unmasked : x.vm = true)
    (ends : x.use x.s2 x.sew s = .error o s) : x.rzElem k .vec s = .error o s := by
  simp only [rzElem_eq, VI.amountOk, legal, second, first, Bool.and_self, require_true, VI.useMask, unmasked, if_true,
    estate_bind, estate_pure, ends]

/-- The legality of an elementwise operation of R230 at LMUL 1 does not depend on vl. -/
theorem legal_of_lmul_one {e : SeqEnt} {c : Ctx} {q : Nat} (small : q < 4) (type : e.vtype = w64 (8 * q)) (vstart : c.vstart = 0#64)
    (unmasked : (e.instr c).vm = true) :
    let x := e.instr c
    x.sew = 8 * 2 ^ q ∧ x.rzOk x.sew = true ∧ (∀ r, x.groupOk r x.sew = true) ∧ x.regs x.sew = 1 := by
  intro x
  have ty : VTyped { e with vl := 0 } q 1 := vtyped_of_lmul_one small type (Nat.zero_le _)
  have sew : x.sew = 8 * 2 ^ q := ty.sew c
  have vs : x.vs = 0 := congrArg BitVec.toNat vstart
  rw [sew]
  exact ⟨rfl, ty.rzOk (c := c) vs (Nat.mod_one _) (.inl unmasked), fun r => ty.groupOk c (Nat.mod_one r), ty.regs c⟩

/-- Settles O24: the three ends are the branches of a sequencer's step; an operation of R230 completes where its registers are
free, and ends with its source's strip where they are not. -/
theorem sequencerHead : Obligations.SequencerHead := by
  refine ⟨fun s t h p e => seqHead_completes, fun s t h p cause v e c ready next run has => ?traps,
    fun s t h p e c ready next run has => ?waits, fun s h e rest k q b a d hk head => ?completes,
    fun s h e rest k q b a d hk ready head alone bits small type vstart holds dest => ?held, fun c e rest => Ctx.seqNext_of_head⟩
  case traps =>
    obtain ⟨seq, frozen, -⟩ := State.ctx_takeTrap (congrArg Slot.ctx (State.slot_keepSeq has (s.ctx h).seq)) cause v
    exact ⟨_, seqHead_traps ready next run, rfl, seq.trans (Ctx.leave_seq _),
      frozen.trans (Ctx.leave_frozen (Ctx.seq_ne_nil next))⟩
  case waits =>
    exact ⟨_, seqHead_waits ready next run, State.ctx_of_slot (congrArg Slot.ctx (State.slot_keepSeq has _)), rfl, rfl, rfl,
      fun j other => State.slot_modCtx_other _ _ _ _ other⟩
  case completes =>
    obtain ⟨ready, queued, alone, bits, small, type, fits, vstart, strips, clean⟩ := head
    have runs : HeadRuns s h e rest := ⟨ready, queued, alone, vstart, strips, clean⟩
    obtain ⟨-, -, -, vm⟩ := instr_fields bits (s.ctx h)
    have f6 : (BitVec.ofNat 6 k).toNat = k := Nat.mod_eq_of_lt (by omega)
    have ty := vtyped_of_lmul_one small type fits
    obtain ⟨t, ends, ⟨seq, started, -, -, -, -, mem, -⟩, -⟩ := head_rzElem runs ty (src := .vec) (k := k)
      (fun u => by rw [run_elem u bits, f6]) (.inl vm) (Nat.mod_one _) (Nat.mod_one _) (fun _ => Nat.mod_one _)
      (fun i => by rw [VI.shiftOf, ty.sew]; exact shiftFn_v_lt _ _ _ _ k (Ctx.elem_lt _ _ ty.width.1 _))
    exact ⟨t, ends, seq, started, mem⟩
  case held =>
    obtain ⟨-, s2, -, vm⟩ := instr_fields bits (s.ctx h)
    obtain ⟨-, legal, groups, one⟩ := legal_of_lmul_one (c := s.ctx h) small type vstart vm
    have next := (Ctx.seqNext_of_head head alone).1
    have pending (o : Exit) (ends : waitStrips b.toNat 1 (s.atHead h e) = .error o (s.atHead h e)) :
        (e.instr (s.ctx h)).run (s.atHead h e) = .error o (s.atHead h e) := by
      refine (run_elem _ bits).trans (rzElem_useSource legal (groups _) (groups _) vm ?_)
      rw [VI.use, one, s2]
      exact useV_of_waitStrips ends
    have first := waitStrips_first (s := s.atHead h e) holds dest Nat.one_pos
    have has := State.slot_of_seqReady ready
    refine ⟨fun still => ?_, fun reason faulted => ?_⟩
    · rw [show ((s.atHead h e).ctx (s.atHead h e).cur).strip 0 = (s.ctx h).strip 0 from rfl, still] at first
      exact ⟨_, seqHead_waits ready next (pending _ first),
        State.ctx_of_slot (congrArg Slot.ctx (State.slot_keepSeq (t := s.atHead h e) has _)), rfl, rfl, rfl⟩
    · rw [show ((s.atHead h e).ctx (s.atHead h e).cur).strip 0 = (s.ctx h).strip 0 from rfl, faulted] at first
      obtain ⟨seq, -, v, delegated⟩ := State.ctx_takeTrap
        (congrArg Slot.ctx (State.slot_keepSeq (t := s.atHead h e) has (s.ctx h).seq)) 25
        (chanTval reason true 0 ((s.ctx h).strip 0).src)
      refine ⟨_, seqHead_traps ready next (pending _ first), v.trans (Ctx.leave_v _), seq.trans (Ctx.leave_seq _), rfl,
        fun d => delegated ?_⟩
      rw [State.slot_keepSeq (t := s.atHead h e) has]
      exact d

end Sys2Proof.Machine
end

section
/-! Light threads that are spawned, move and end (spec/07_context.md R210, R214; spec/11_group.md R314, R317, R322 to R324). -/

namespace Sys2Proof.Machine

open Sys2Proof

/-! ### A record sent, a slot left -/

/-- The state after the current thread has sent a record and waits for the answer, with what it needs then (R314). -/
def State.sentRecord (s : State) (g : Nat) (r : LightRec) (a b : Nat) (attr : Attr) (cell : List Byte) : State :=
  (s.sendRecord g (.thread s.cur) r).modSlot s.cur (fun t =>
    { t with wait := some { kind := .recordSent, a := a, b := b, attr := attr, cell := cell, bits := s.ibits, len := s.ilen } })

section
variable (s : State)

theorem sendAndWait_apply {g a b : Nat} {r : LightRec} {attr : Attr} {cell : List Byte} :
    sendAndWait g r a b attr cell s = .error .wait (s.sentRecord g r a b attr cell) := rfl

theorem State.slot_sentRecord (g a b : Nat) (r : LightRec) (attr : Attr) (cell : List Byte) :
    (s.sentRecord g r a b attr cell).slot s.cur = { s.slot s.cur with
      wait := some { kind := .recordSent, a := a, b := b, attr := attr, cell := cell, bits := s.ibits, len := s.ilen } } :=
  State.slot_modSlot_same ..

/-- A sender keeps its context. -/
theorem State.ctx_sentRecord (g a b : Nat) (r : LightRec) (attr : Attr) (cell : List Byte) :
    (s.sentRecord g r a b attr cell).ctx s.cur = s.ctx s.cur := by
  rw [State.ctx, s.slot_sentRecord, State.ctx]

theorem leaveSlot_apply {α : Type} : (leaveSlot : M α) s = .error .gone (s.emptySlot s.cur) := rfl

/-- The slot that a thread has left is empty, and nothing waits there. -/
theorem State.slot_emptySlot (h : Hart) : (s.emptySlot h).slot h = { s.slot h with ctx := none, wait := none, marks := [] } := by
  simp [State.emptySlot, State.abandon, State.leavePages]

/-- A thread's weight on its way back to its launch (R376). -/
def State.weightReturned (s : State) : State :=
  s.giveBack (wfld (s.ctx s.cur).ulaunch 15 0) (s.ctx s.cur).uweight.toNat

theorem endThread_apply : endThread s = .error .gone (s.weightReturned.emptySlot s.cur) := rfl

end

theorem release_performed {s : State} (done : s.performed s.cur true true 2 = true) : release 2 s = .ok () s := by
  rw [release_apply, if_pos done]

/-! ### Spawning (R322) -/

/-- A spawn instruction sends the record of a thread to a core that its argument names. -/
theorem exec_spawn {i : Instr} {b a : Reg} (form : i = .grpSpawn b a ∨ i = .grpSpawnat b a) :
    ∃ dest, ∀ s, exec i s = runThread (spawnTo b a dest) s := by
  rcases form with rfl | rfl
  · exact ⟨_, fun _ => rfl⟩
  · exact ⟨_, fun _ => rfl⟩

/-- The record of the thread that a spawn instruction creates: half the weight, x[rs2] and a1 to a5 (R322). -/
def State.spawned (s : State) (b a : Reg) : LightRec :=
  { pc := wfld (s.xr a) 47 0, lslot := wfld (s.ctx s.cur).ulaunch 11 0, rx := false, fp := false, bh := false, bad := false
    weight := (s.ctx s.cur).uweight.toNat / 2, a := s.xr b :: (List.range 5).map (fun i => (s.ctx s.cur).getX (11 + i)) }

/-- The exception that a spawn instruction meets first, if any: of its entry point, its launch slot, its weight (R322). -/
def State.spawnFault (s : State) (a : Reg) : Option (Nat × Word) :=
  if s.xr a = 0#64 ∨ canonical (s.xr a).toNat = false then some (1, s.xr a)
  else if (s.xr a).getLsbD 0 = true then some (0, s.xr a)
  else if 4096 ≤ (s.ctx s.cur).ulaunch.toNat then some (30, 5#64)
  else if (s.ctx s.cur).uweight.toNat < 2 then some (29, (s.ctx s.cur).uweight)
  else none

section
variable {s : State} {b a : Reg} {dest : Nat → Word → Nat}

section
variable (fresh : (s.slot s.cur).wait = none)
include fresh

/-- A spawn instruction that waits for nothing raises its first exception, or releases and sends. -/
theorem spawnTo_fresh : spawnTo b a dest s = match s.spawnFault a with
    | some (c, v) => .error (.trap c v) s
    | none => (release 2 >>= fun _ => sendAndWait (dest s.cur.gcore (s.xr b)) (s.spawned b a) 0 0 {} : M Unit) s := by
  have entry : (s.xr a != 0#64 && canonical (s.xr a).toNat) = true ↔
    ¬(s.xr a = 0#64 ∨ canonical (s.xr a).toNat = false) := by simp
  have even : (!wbit (s.xr a) 0) = true ↔ ¬(s.xr a).getLsbD 0 = true := by simp [wbit]
  have launch : decide ((s.ctx s.cur).ulaunch.toNat < 4096) = true ↔ ¬4096 ≤ (s.ctx s.cur).ulaunch.toNat := by simp
  have weight : decide (2 ≤ (s.ctx s.cur).uweight.toNat) = true ↔ ¬(s.ctx s.cur).uweight.toNat < 2 := by rw [decide_eq_true_eq, Nat.not_lt]
  simp only [spawnTo, estate_bind, ctx_apply, slot_apply, fresh, getX_apply, myCore_apply, orTrap_apply, entry, even, launch, weight,
    ite_not, State.spawnFault]
  by_cases bad : s.xr a = 0#64 ∨ canonical (s.xr a).toNat = false
  · simp only [if_pos bad]
  by_cases odd : (s.xr a).getLsbD 0 = true
  · simp only [if_neg bad, if_pos odd]
  by_cases wide : 4096 ≤ (s.ctx s.cur).ulaunch.toNat
  · simp only [if_neg bad, if_neg odd, if_pos wide]
  by_cases light : (s.ctx s.cur).uweight.toNat < 2
  · simp only [if_neg bad, if_neg odd, if_neg wide, if_pos light]
  simp only [if_neg bad, if_neg odd, if_neg wide, if_neg light, release_apply]
  by_cases done : s.performed s.cur true true 2 = true
  · simp only [if_pos done]
    rfl
  · simp only [if_neg done]

theorem spawnTo_fault {c : Nat} {v : Word} (fault : s.spawnFault a = some (c, v)) :
    spawnTo b a dest s = .error (.trap c v) s := by
  rw [spawnTo_fresh fresh, fault]

theorem spawnTo_sends (good : s.spawnFault a = none) (done : s.performed s.cur true true 2 = true) :
    spawnTo b a dest s = .error .wait (s.sentRecord (dest s.cur.gcore (s.xr b)) (s.spawned b a) 0 0 {} []) := by
  rw [spawnTo_fresh fresh, good]
  simp only [estate_bind, release_performed done, sendAndWait_apply]

end

section
variable {m : WaitMark} (answered : (s.slot s.cur).wait = some m)
include answered

theorem spawnTo_taken (taken : m.kind = .recordTaken) : spawnTo b a dest s =
    .ok () (s.modCtx s.cur (fun c => { c with uweight := c.uweight - w64 (c.uweight.toNat / 2) })) := by
  simp only [spawnTo, estate_bind, ctx_apply, slot_apply, answered, taken, modCtx_apply]

theorem spawnTo_refused (refused : m.kind = .recordRefused) : spawnTo b a dest s = .error (.trap 48 (s.xr b)) s := by
  simp only [spawnTo, estate_bind, ctx_apply, slot_apply, answered, refused, getX_apply, trap_apply]

end

/-- A spawn instruction without a fault leaves its record under way, and its thread as it was. -/
theorem exec_spawn_sends {i : Instr} (run : ∀ s, exec i s = runThread (spawnTo b a dest) s) (r : s.Runs)
    (fresh : (s.slot s.cur).wait = none) (good : s.spawnFault a = none) (done : s.performed s.cur true true 2 = true) :
    ∃ t, exec i s = .next t ∧ t.recs = s.recs ++ [(dest s.cur.gcore (s.xr b), .thread s.cur, s.spawned b a)] ∧
      t.ctx s.cur = s.ctx s.cur ∧ (t.slot s.cur).wait.map (·.kind) = some .recordSent := by
  have sends := spawnTo_sends (s := s.begun) (b := b) (dest := dest) fresh good done
  have slot := s.begun.slot_sentRecord (dest s.cur.gcore (s.xr b)) 0 0 (s.spawned b a) {} []
  exact ⟨_, (run s).trans (runThread_wait r sends), rfl, s.begun.ctx_sentRecord .., congrArg (fun t : Slot => t.wait.map (·.kind)) slot⟩

theorem exec_spawn_fault {i : Instr} (form : i = .grpSpawn b a ∨ i = .grpSpawnat b a) (r : s.Runs)
    (fresh : (s.slot s.cur).wait = none) {c : Nat} {v : Word} (fault : s.spawnFault a = some (c, v)) :
    exec i s = .next (s.trapped c v) := by
  obtain ⟨dest, run⟩ := exec_spawn form
  exact (run s).trans (runThread_trapped r (spawnTo_fault (s := s.begun) fresh fault))

end

/-! ### Moving (R323) -/

section
variable {s : State} {a : Reg}

theorem exec_grpGo (a : Reg) (s : State) : exec (.grpGo a) s = execGrpGo a s := rfl

theorem exec_grpGo_stays (r : s.Runs) (fresh : (s.slot s.cur).wait = none) (done : s.performed s.cur true true 2 = true)
    (stays : (s.ctx s.cur).light = false ∨ ownerOf s.cur.gcore (s.xr a).toNat = some s.cur.gcore ∨
      ownerOf s.cur.gcore (s.xr a).toNat = none) : ∃ t, exec (.grpGo a) s = .next t ∧ Retired s t id s.nextPc := by
  have here : (if (s.ctx s.cur).light then (ownerOf s.cur.gcore (s.xr a).toNat).filter (· != s.cur.gcore) else none) = none := by
    rcases stays with heavy | own | nobody
    · simp [heavy]
    · simp [own]
    · simp [nobody]
  rw [exec_grpGo, execGrpGo]
  refine retires_id r ?_
  have released := release_performed (s := s.begun) done
  simp only [estate_bind, getX_apply, slot_apply, ctx_apply, myCore_apply, State.slot_begun, State.ctx_begun, State.cur_begun,
    State.xr_begun, fresh, here, released]
  rfl

theorem exec_grpGo_sends {u : State} {o : Nat} (r : s.Runs) (fresh : (s.slot s.cur).wait = none) (light : (s.ctx s.cur).light = true)
    (owner : ownerOf s.cur.gcore (s.xr a).toNat = some o) (away : o ≠ s.cur.gcore) (suspended : suspend s.begun = .ok () u) :
    exec (.grpGo a) s = .next (let v := u.sentRecord o ((u.ctx u.cur).record ((u.ctx u.cur).pc + 4#64) true) 0 1 {} []
      v.waitCycles v.cur) := by
  have there : (if (s.ctx s.cur).light then (ownerOf s.cur.gcore (s.xr a).toNat).filter (· != s.cur.gcore) else none) = some o := by
    simp [light, owner, away]
  rw [exec_grpGo, execGrpGo]
  refine runThread_wait r ?_
  simp only [estate_bind, getX_apply, slot_apply, ctx_apply, myCore_apply, State.slot_begun, State.ctx_begun, State.cur_begun,
    State.xr_begun, fresh, there, suspended, sendAndWait_apply]

section
variable {m : WaitMark} (r : s.Runs) (answered : (s.slot s.cur).wait = some m)
include r answered

theorem exec_grpGo_taken (taken : m.kind = .recordTaken) :
    exec (.grpGo a) s = .next ((s.begun.emptySlot s.cur).passCycles s.cur.gcore) := by
  rw [exec_grpGo, execGrpGo]
  refine runThread_gone r ?_
  simp only [estate_bind, getX_apply, slot_apply, State.slot_begun, State.cur_begun, answered, taken, leaveSlot_apply]

theorem exec_grpGo_refused (refused : m.kind = .recordRefused) : exec (.grpGo a) s = .next (s.trapped 48 (s.xr a)) := by
  rw [exec_grpGo, execGrpGo]
  refine runThread_trapped r ?_
  simp only [estate_bind, getX_apply, slot_apply, State.slot_begun, State.cur_begun, State.xr_begun, answered, refused, trap_apply]

end

end

/-! ### Ending (R214, R324) -/

/-- Both instructions end a light thread after its suspension and a heavy one after its waits. -/
theorem exec_exit {i : Instr} (form : i = .ctxExit ∨ i = .grpExit) (s : State) :
    exec i s = runThread (do if (← ctx).light then endLight else endHeavy) s := by
  rcases form with rfl | rfl <;> rfl

/-- A thread whose end waits no more leaves its slot, and its weight goes back. -/
theorem exec_exit_done {s u : State} {i : Instr} (r : s.Runs) (form : i = .ctxExit ∨ i = .grpExit)
    (waited : (s.ctx s.cur).light = true ∧ suspend s.begun = .ok () u ∨ (s.ctx s.cur).light = false ∧
      (settleAll >>= fun _ => readyChans (List.range 8) >>= fun _ => suspendNow) s.begun = .ok () u) :
    exec i s = .next ((u.weightReturned.emptySlot u.cur).passCycles u.cur.gcore) := by
  rw [exec_exit form]
  refine runThread_gone r ?_
  rcases waited with ⟨light, done⟩ | ⟨heavy, done⟩
  · simp only [estate_bind, ctx_apply, State.ctx_begun, State.cur_begun, light, if_true, endLight, done, endThread_apply]
  · have ends : endHeavy = (settleAll >>= fun _ => readyChans (List.range 8) >>= fun _ => suspendNow) >>= fun _ => endThread := by
      simp only [endHeavy, bind_assoc]
    rw [estate_bind, ctx_apply]
    simp only [State.ctx_begun, State.cur_begun, heavy, Bool.false_eq_true, if_false]
    rw [ends, estate_bind, done]
    exact endThread_apply u

/-- Settles O32: a spawn and a move are their checks and one record sent, and an end is one slot left. -/
theorem spawnMoveAndExit : Obligations.SpawnMoveAndExit := by
  refine ⟨⟨fun s b a r fresh nonzero canon even launch weight done => ?sends, fun s b a m i form r answered => ?answered,
    fun s b a i form r fresh => ?faults⟩,
    fun s a r fresh done stays => exec_grpGo_stays r fresh done stays,
    fun s u a o r fresh light owner away suspended => ⟨_, exec_grpGo_sends r fresh light owner away suspended, rfl⟩,
    fun s a m r answered => ⟨fun taken => ?gone, exec_grpGo_refused r answered⟩,
    fun s u i r form waited => ⟨_, exec_exit_done r form waited, congrArg Slot.ctx (u.weightReturned.slot_emptySlot u.cur), rfl⟩⟩
  case sends =>
    have good : s.spawnFault a = none := by
      simp only [State.spawnFault, nonzero, canon, even, Nat.not_le.mpr launch, Nat.not_lt.mpr weight, Bool.true_eq_false,
        Bool.false_eq_true, or_self, if_false]
    exact ⟨exec_spawn_sends (dest := fun g _ => g) (fun _ => rfl) r fresh good done,
      exec_spawn_sends (dest := fun g v => (ownerOf g v.toNat).getD g) (fun _ => rfl) r fresh good done⟩
  case answered =>
    obtain ⟨dest, run⟩ := exec_spawn form
    rw [run]
    exact ⟨fun taken => retires_ctx r (spawnTo_taken (s := s.begun) answered taken),
      fun refused => runThread_trapped r (spawnTo_refused (s := s.begun) answered refused)⟩
  case faults =>
    refine ⟨fun bad => exec_spawn_fault form r fresh (if_pos bad), fun nonzero canon => ?_⟩
    have entry : ¬(s.xr a = 0#64 ∨ canonical (s.xr a).toNat = false) := by simp [nonzero, canon]
    refine ⟨fun odd => ?_, fun even wide => ?_, fun even launch light => ?_⟩ <;>
      refine exec_spawn_fault form r fresh ((if_neg entry).trans ?_)
    · exact if_pos odd
    · exact (if_neg (by rw [even]; decide)).trans (if_pos wide)
    · exact (if_neg (by rw [even]; decide)).trans ((if_neg (Nat.not_le.mpr launch)).trans (if_pos light))
  case gone =>
    have slot := s.begun.slot_emptySlot s.cur
    exact ⟨_, exec_grpGo_taken r answered taken, congrArg Slot.ctx slot, congrArg Slot.wait slot⟩

end Sys2Proof.Machine
end

section
/-! Events of the Kennel unit, of halts and of rank moves, and the end of imposition (spec/07_context.md R196 to R198, R206, R218 to
R220). -/

namespace Sys2Proof.Machine

open Sys2Proof

/-! ### Interrupt 31 (R197, R207) -/

section
variable (s : State) (h : Hart) (addr : Nat)

theorem State.slot_raiseKennel : (s.raiseKennel h addr).slot h =
    { s.slot h with mip := wputb (s.slot h).mip 31 true, ktval := w64 addr } := State.slot_modSlot_same ..

@[simp] theorem State.core_raiseKennel (g : Nat) : (s.raiseKennel h addr).core g = s.core g := rfl

theorem getLsbD_wputb_same (v : Word) {k : Nat} (inside : k < 64) (b : Bool) : (wputb v k b).getLsbD k = b := by
  rw [wputb, show wput v k k = wput v (k + 1 - 1) k from rfl, getLsbD_wput _ _ Nat.one_pos inside, if_pos ⟨Nat.le_refl k, Nat.lt_succ_self k⟩,
    Nat.sub_self]
  cases b <;> rfl

end

/-! ### Saves (R196, R197) -/

section
variable {s u : State} {cl core n : Nat} (saving : s.saving (cl * 64 + core) n = true)
include saving

theorem exec_kennelSaveComplete (done : s.runSave (cl * 64 + core) n = (u, none)) :
    exec (.kennelSaveComplete cl core n) s =
      .next (u.modCore (cl * 64 + core) (fun k => (k.forget ((k.ken n).ctx.getD {})).setKen n {})) := by
  rw [show exec (.kennelSaveComplete cl core n) s = execKennelSaveComplete cl core n s from rfl, execKennelSaveComplete]
  exact event_some (by simp only [saving, done, Bool.not_true, Bool.false_eq_true, if_false])

/-- The offset at which the save of an entry stalls, from the address of the store that failed. -/
def State.stallOffset (u : State) (g n va : Nat) : Nat :=
  let en := (u.core g).ken n
  let base := (en.ctx.getD {}).ssavea.toNat
  if va = base then ((u.core g).imageBlocks (en.ctx.getD {})).length * 64 else va - base - 64

/-- The state in which the save of an entry has stalled at an address, and interrupt 31 of the saving slot names the entry (R197). -/
def State.saveStalled (u : State) (g n va : Nat) : State :=
  let en := (u.core g).ken n
  ((u.modCore g (·.setKen n { en with st := .stalled, off := u.stallOffset g n va })).raiseKennel en.by_ va).modSlot en.by_
    (fun t => { t with skennel := wput t.skennel 4 0 n })

omit saving in
theorem State.ken_saveStalled (u : State) (g n va : Nat) : ((u.saveStalled g n va).core g).ken n =
    { (u.core g).ken n with st := .stalled, off := u.stallOffset g n va } := by
  rw [State.saveStalled, State.core_modSlot, State.core_raiseKennel, State.core_modCore_same, Core.ken_setKen_same]

omit saving in
theorem State.slot_saveStalled (u : State) (g n va : Nat) :
    let t := u.slot ((u.core g).ken n).by_
    (u.saveStalled g n va).slot ((u.core g).ken n).by_ =
      { t with mip := wputb t.mip 31 true, ktval := w64 va, skennel := wput t.skennel 4 0 n } := by
  rw [State.saveStalled, State.slot_modSlot_same, State.slot_raiseKennel]
  rfl

theorem exec_kennelSaveFault {va : Nat} {f : EngFail} (failed : s.runSave (cl * 64 + core) n = (u, some (va, f))) (now : f ≠ .later) :
    exec (.kennelSaveFault cl core n) s = .next (u.saveStalled (cl * 64 + core) n va) := by
  rw [show exec (.kennelSaveFault cl core n) s = execKennelSaveFault cl core n s from rfl, execKennelSaveFault]
  refine event_some ?_
  cases f with
  | later => exact absurd rfl now
  | page | access | poison _ =>
    simp only [saving, failed, Bool.not_true, Bool.false_eq_true, if_false]
    rfl

end

/-! ### Loads (R198, R218) -/

section
variable {s u : State} {cl core n : Nat} (loading : ((s.core (cl * 64 + core)).ken n).st = .loading)
include loading

theorem exec_kennelLoadComplete {bs : List Byte} (read : s.runLoad (cl * 64 + core) n = (u, .ok bs)) :
    exec (.kennelLoadComplete cl core n) s = .next (let en := (s.core (cl * 64 + core)).ken n
      u.tock.modCore (cl * 64 + core) (fun k => (k.fillAccs (en.ctx.getD {}) (bs.drop (fixedSize en.vlenb))).setKen n
        { st := if en.rdy then .ready else .parked
          ctx := some (loadCtx (en.ctx.getD {}) bs en.vlenb en.flags.toNat en.by_), since := u.tock.tick })) := by
  rw [show exec (.kennelLoadComplete cl core n) s = execKennelLoadComplete cl core n s from rfl, execKennelLoadComplete]
  exact event_some (by simp only [loading, read, ne_eq, not_true_eq_false, if_false])

/-- The state in which the entry of a load that failed is empty, and its accumulators free. -/
def State.loadDropped (u s : State) (g n : Nat) : State :=
  u.modCore g (fun k => (k.forget (((s.core g).ken n).ctx.getD {})).setKen n {})

theorem exec_kennelLoadFault {va : Nat} {f : EngFail} (failed : s.runLoad (cl * 64 + core) n = (u, .error (va, f))) (now : f ≠ .later) :
    exec (.kennelLoadFault cl core n) s = .next (if f.isPoison
      then (u.loadDropped s (cl * 64 + core) n).error (u.loadError (cl * 64 + core) n va)
      else (u.loadDropped s (cl * 64 + core) n).raiseKennel ((s.core (cl * 64 + core)).ken n).by_ va) := by
  rw [show exec (.kennelLoadFault cl core n) s = execKennelLoadFault cl core n s from rfl, execKennelLoadFault]
  refine event_some ?_
  cases f with
  | later => exact absurd rfl now
  | page | access | poison _ =>
    simp only [loading, failed, ne_eq, not_true_eq_false, if_false]
    rfl

end

/-! ### Halts and imposition (R206, R220) -/

section
variable {s : State} {cl core : Nat}

theorem exec_haltQuiescent (halted : (s.core (cl * 64 + core)).halted = true) (busy : (s.core (cl * 64 + core)).quiet = false)
    (landed : s.aimed (cl * 64 + core) anyTime = false) :
    exec (.haltQuiescent cl core) s = .next (s.modCore (cl * 64 + core) (fun k => { k with quiet := true })) := by
  rw [show exec (.haltQuiescent cl core) s = execHaltQuiescent cl core s from rfl, execHaltQuiescent]
  exact event_some (if_neg (by simp [halted, busy, landed]))

theorem exec_scentDivergenceTimeout (logged : (s.core (cl * 64 + core)).impose.left ≠ 0)
    (holds : (s.core (cl * 64 + core)).impose.held ≠ []) (none_ : s.heldMatches (cl * 64 + core) = false)
    (idle : s.servePort (cl * 64 + core) [] (s.core (cl * 64 + core)).portq = none) :
    exec (.scentDivergenceTimeout cl core) s = .next (s.modCore (cl * 64 + core) (fun k =>
      { k with impose := { k.impose with left := 0, diverged := true } })) := by
  rw [show exec (.scentDivergenceTimeout cl core) s = execScentDivergenceTimeout cl core s from rfl, execScentDivergenceTimeout]
  exact event_some (if_neg (by simp [logged, holds, none_, idle]))

end

/-! ### Rank moves (R219) -/

section
variable (s : State) (g : Nat)

theorem State.wait_modSlot_halted (h j : Hart) (b : Bool) :
    ((s.modSlot h (fun t => { t with halted := b })).slot j).wait = (s.slot j).wait := by
  by_cases same : j = h
  · rw [same, State.slot_modSlot_same]
  · rw [State.slot_modSlot_other _ _ _ _ same]

theorem State.wait_modCtx (h j : Hart) (f : Ctx → Ctx) : ((s.modCtx h f).slot j).wait = (s.slot j).wait := by
  by_cases same : j = h
  · rw [same, State.slot_modCtx_same]
  · rw [State.slot_modCtx_other _ _ _ _ same]

/-- A resumed core's slots wait for what they waited for; memory and the clusters stay. -/
theorem State.resumeCore_keeps : (s.resumeCore g).mem = s.mem ∧ (s.resumeCore g).clusters = s.clusters ∧
    ∀ j, ((s.resumeCore g).slot j).wait = (s.slot j).wait := by
  unfold State.resumeCore
  refine ⟨?_, ?_, fun j => ?_⟩
  · exact foldl_keeps State.mem (fun u i => State.mem_modSlot u ..) _ _
  · exact foldl_keeps State.clusters (fun (u : State) i => (rfl : (u.modSlot _ _).clusters = _)) _ _
  · exact foldl_keeps (fun u : State => (u.slot j).wait) (fun u i => u.wait_modSlot_halted ..) _ _

theorem State.moveCore_keeps : (s.moveCore g).mem = s.mem ∧ ∀ j, ((s.moveCore g).slot j).wait = (s.slot j).wait := by
  unfold State.moveCore
  refine ⟨?_, fun j => ?_⟩
  · exact foldl_keeps State.mem (fun u i => State.mem_modCtx u ..) _ _
  · exact foldl_keeps (fun u : State => (u.slot j).wait) (fun u i => u.wait_modCtx _ _ _) _ _

end

/-- The state in which a rank stands on its new physical core, with nothing held for it (R219, R319). -/
def State.rankMoved (s : State) (cl : Nat) (m : Move) : State :=
  let g := cl * 64 + m.rank
  (s.moveCore g).modCluster cl (fun c => { c with
    ranks := c.ranks.put m.rank { phys := m.target, transit := false }
    spare := some ((nput (s.spareMask cl) m.target m.target 0) ||| (if m.retire then 0 else 2 ^ s.physOf g))
    retired := if m.retire then c.retired ||| 2 ^ s.physOf g else c.retired
    moving := none, hold := [] })

section
variable (s : State) (cl : Nat) (m : Move)

theorem State.rank_rankMoved (d : RankEnt) :
    ((s.rankMoved cl m).cluster cl).ranks.get d m.rank = { phys := m.target, transit := false } := by
  rw [State.rankMoved, State.cluster_modCluster_same]
  exact Tab.get_put_same ..

theorem State.moving_rankMoved : ((s.rankMoved cl m).cluster cl).moving = none := by
  rw [State.rankMoved, State.cluster_modCluster_same]

theorem State.rankMoved_keeps : (s.rankMoved cl m).mem = s.mem ∧ ∀ j, ((s.rankMoved cl m).slot j).wait = (s.slot j).wait := by
  obtain ⟨mem, waits⟩ := s.moveCore_keeps (cl * 64 + m.rank)
  rw [State.rankMoved]
  exact ⟨(State.mem_modCluster ..).trans mem, fun j => (congrArg Slot.wait (State.slot_modCluster ..)).trans (waits j)⟩

/-- The end of a rank move: its core resumes where it was not halted before (R219). -/
def State.rankResumed : State :=
  if m.wasHalted then s.rankMoved cl m else (s.rankMoved cl m).resumeCore (cl * 64 + m.rank)

theorem State.rankResumed_keeps : (∀ k, (s.rankResumed cl m).cluster k = (s.rankMoved cl m).cluster k) ∧
    (s.rankResumed cl m).mem = s.mem ∧ ∀ j, ((s.rankResumed cl m).slot j).wait = (s.slot j).wait := by
  obtain ⟨mem, waits⟩ := s.rankMoved_keeps cl m
  obtain ⟨mem', clusters, waits'⟩ := (s.rankMoved cl m).resumeCore_keeps (cl * 64 + m.rank)
  rw [State.rankResumed]
  split
  · exact ⟨fun k => rfl, mem, waits⟩
  · exact ⟨fun k => congrArg (fun t : Tab Cluster => t.get {} k) clusters, mem'.trans mem, fun j => (waits' j).trans (waits j)⟩

end

theorem exec_rankMoveComplete {s : State} {cl : Nat} {m : Move} (moving : (s.cluster cl).moving = some m)
    (ready : s.moveReady (cl * 64 + m.rank) = true) (empty : (s.cluster cl).hold = []) :
    exec (.rankMoveComplete cl) s = .next ((s.rankResumed cl m).modSlot m.by_
      (fun t => { t with wait := t.wait.map (fun w => { w with kind := .rankMoved }) })) := by
  rw [show exec (.rankMoveComplete cl) s = execRankMoveComplete cl s from rfl, execRankMoveComplete]
  refine event_some ?_
  simp only [moving, ready, empty, Bool.not_true, Bool.false_eq_true, if_false, State.deliverHold]
  rfl

/-- Settles O50: each event is one update of a Kennel entry, of a core or of a cluster. -/
theorem kennelEvents : Obligations.KennelEvents := by
  refine ⟨fun s u cl core n saving => ⟨exec_kennelSaveComplete saving, fun va f failed now own same entry => ?saves⟩,
    fun s u cl core n loading => ⟨fun bs read => ?loads, fun va f failed kind => ?faults, fun va b failed => ?poisons⟩,
    fun s cl core => exec_haltQuiescent, fun s cl m moving ready inside empty => ?moves, fun s cl core => exec_scentDivergenceTimeout⟩
  case saves =>
    have slot := u.slot_saveStalled (cl * 64 + core) n va
    rw [same] at slot
    refine ⟨_, exec_kennelSaveFault saving failed now, congrArg Ken.st (u.ken_saveStalled ..), ?_, ?_, ?_⟩ <;> rw [slot]
    · exact getLsbD_wputb_same _ (by decide) true
    · exact (wfld_wput_same _ n (lo := 0) (w := 5) (by decide) (by decide)).trans (Nat.mod_eq_of_lt entry)
  case loads =>
    have core_ := State.core_modCore_same u.tock (cl * 64 + core) 
    refine ⟨_, exec_kennelLoadComplete loading read, ?_, ?_, rfl⟩ <;> rw [core_, Core.ken_setKen_same]
  case faults =>
    have raised : f.isPoison = false := by rcases kind with rfl | rfl <;> rfl
    have now : f ≠ .later := by rcases kind with rfl | rfl <;> nofun
    have run := exec_kennelLoadFault loading failed now
    rw [raised, if_neg Bool.false_ne_true] at run
    have slot := (u.loadDropped s (cl * 64 + core) n).slot_raiseKennel ((s.core (cl * 64 + core)).ken n).by_ va
    refine ⟨_, run, ?_, ?_, ?_⟩
    · rw [State.core_raiseKennel, State.loadDropped, State.core_modCore_same, Core.ken_setKen_same]
    · rw [slot]
      exact getLsbD_wputb_same _ (by decide) true
    · rw [slot]
  case poisons => exact (exec_kennelLoadFault loading failed nofun)
  case moves =>
    have cluster : (cl * 64 + m.rank) / 64 = cl := by omega
    have rank : (cl * 64 + m.rank) % 64 = m.rank := by omega
    obtain ⟨clusters, mem, waits⟩ := s.rankResumed_keeps cl m
    refine ⟨_, exec_rankMoveComplete moving ready empty, ?_, ?_, ?_, mem, fun w waiting kind => ?_⟩
    · rw [State.cluster_modSlot, clusters, State.moving_rankMoved]
    · rw [State.inTransit, State.cluster_modSlot, cluster, rank, clusters, State.rank_rankMoved]
    · rw [State.physOf, State.cluster_modSlot, cluster, rank, clusters, State.rank_rankMoved]
    · rw [State.slot_modSlot_same, waits, waiting]
      rfl

end Sys2Proof.Machine
end

section
/-! Light records on their way: the hold buffer, the arrival unit and its answers (spec/11_group.md R315 to R317, R320;
spec/15_frontier.md R404). -/

namespace Sys2Proof.Machine

open Sys2Proof

/-! ### What becomes of a record -/

section
variable {s : State} {r : LightRec}

theorem State.withdrawn_keep (keep : s.withdrawal r = .keep) : s.withdrawn r = none := by rw [State.withdrawn, keep]

theorem State.withdrawn_hold {c e : Nat} (hold : s.withdrawal r = .hold c e) : s.withdrawn r = some (s.withdraw c e r) := by
  rw [State.withdrawn, hold]

/-- The fate of a record depends on the trackers only. -/
theorem State.withdrawal_congr {t : State} (trackers : ∀ c e, t.trk c e = s.trk c e) (r : LightRec) :
    t.withdrawal r = s.withdrawal r := by
  simp only [State.withdrawal, State.bandOf, State.fntState, trackers]

/-- The tracker of a band to which a record is withdrawn holds it, with its weight. -/
theorem State.trk_withdraw (s : State) (c e : Nat) (r : LightRec) : (s.withdraw c e r).trk c e =
    { s.trk c e with withdrawn := (s.trk c e).withdrawn ++ [r], weight := (s.trk c e).weight + r.weight } := by
  rw [State.withdraw, State.modTrk, State.trk, State.cluster_modCluster_same]
  exact Tab.get_put_same ..

end

/-! ### The arrival unit (R315) -/

section
variable {s : State} {g : Nat} {r : LightRec}

/-- The place in its vault of the record that a ring takes next. -/
def Core.nextOff (k : Core) : Nat := k.roff * 65536 + 64 * ((k.ringHead + k.ringCnt) % 2 ^ (k.rsize + 8))

/-- A count of an event leaves everything of a core but its counters. -/
theorem State.core_perf (s : State) (g ev n : Nat) : (s.perf g ev n).core g = { s.core g with hpm := ((s.core g).count ev n).hpm } :=
  State.core_modCore_same ..

theorem State.takeIn_queue (empty : (s.core g).ringCnt = 0) (room : (s.core g).queue.length < 32) :
    s.takeIn g r = some ((s.perf g 11 1).modCore g (fun k => { k with queue := k.queue ++ [r] })) := if_pos ⟨empty, room⟩

/-- The queue does not take a record while the ring holds one, nor where it is full. -/
theorem State.queue_closed (busy : (s.core g).ringCnt ≠ 0 ∨ 32 ≤ (s.core g).queue.length) :
    ¬((s.core g).ringCnt = 0 ∧ (s.core g).queue.length < 32) := by omega

/-- A record written at the next place of a core's ring, and counted. -/
def State.ringPut (s : State) (g : Nat) (r : LightRec) : State :=
  (((s.perf g 11 1).putBytes (vaultPa (s.core g).rvault (s.core g).nextOff) (recBytes r) none).modCore g
    (fun k => { k with ringCnt := k.ringCnt + 1 })).perf g 12 1

theorem State.takeIn_ring (busy : (s.core g).ringCnt ≠ 0 ∨ 32 ≤ (s.core g).queue.length)
    (fits : (s.core g).ringCnt < 2 ^ ((s.core g).rsize + 8) ∧ (s.core g).nextOff + 64 ≤ 2 ^ 26) :
    s.takeIn g r = some (s.ringPut g r) :=
  (if_neg (State.queue_closed busy)).trans (if_pos fits)

theorem State.takeIn_full (busy : (s.core g).ringCnt ≠ 0 ∨ 32 ≤ (s.core g).queue.length)
    (full : ¬((s.core g).ringCnt < 2 ^ ((s.core g).rsize + 8) ∧ (s.core g).nextOff + 64 ≤ 2 ^ 26)) : s.takeIn g r = none :=
  (if_neg (State.queue_closed busy)).trans (if_neg full)

/-- A record of a launch that is not swept goes to its tracker or to the arrival unit. -/
theorem State.arrive_keep (live : (s.workAt r.lslot).st.discards = false) (keep : s.withdrawal r = .keep) :
    s.arrive g r = s.takeIn g r := by
  simp only [State.arrive, live, Bool.false_eq_true, if_false, State.withdrawn_keep keep]

theorem State.arrive_hold {c e : Nat} (live : (s.workAt r.lslot).st.discards = false) (hold : s.withdrawal r = .hold c e) :
    s.arrive g r = some (s.withdraw c e r) := by
  simp only [State.arrive, live, Bool.false_eq_true, if_false, State.withdrawn_hold hold]

/-- A record put into a ring leaves the queue. -/
theorem State.core_ringPut (s : State) (g : Nat) (r : LightRec) : ((s.ringPut g r).core g).queue = (s.core g).queue ∧
    ((s.ringPut g r).core g).ringCnt = (s.core g).ringCnt + 1 := by
  have stored (u : State) (a : Nat) : (u.putBytes a (recBytes r) none).core g = u.core g := rfl
  rw [State.ringPut, State.core_perf, State.core_modCore_same, stored, State.core_perf]
  exact ⟨rfl, rfl⟩

theorem State.mem_ringPut (s : State) (g : Nat) (r : LightRec) : (s.ringPut g r).mem =
    s.mem.after (vaultPa (s.core g).rvault (s.core g).nextOff) (some (recBytes r)) := rfl

end

/-! ### Delivery and answers (R317) -/

section
variable {s : State} {g : Nat} {src : RecSource} {r : LightRec}

/-- Where nothing is held for a cluster's cores, a record arrives, and its sender is answered. -/
theorem State.deliver_unheld (none_ : (s.cluster (g / 64)).held = []) : s.deliver g src r = match s.arrive g r with
    | some t => t.answer src r true
    | none => s.refuse g src r := by
  rw [State.deliver, none_]
  rfl

/-- The thread that has sent a record is told of its acceptance or refusal. -/
theorem State.wait_answer (s : State) (h : Hart) (r : LightRec) (ok : Bool) {w : WaitMark} (waits : (s.slot h).wait = some w)
    (sent : w.kind = .recordSent) :
    ((s.answer (.thread h) r ok).slot h).wait = some { w with kind := if ok then .recordTaken else .recordRefused } := by
  rw [State.answer, State.slot_modSlot_same, waits]
  simp only [Option.map_some, sent, if_true]

theorem State.core_answer_dispatch (s : State) (r : LightRec) (ok : Bool) (g : Nat) :
    (s.answer .dispatch r ok).core g = s.core g := rfl

end

theorem srcSame_self (a : RecSource) : srcSame a a = true := by
  cases a <;> simp [srcSame]

section
variable {s : State} {cl core : Nat} {src : RecSource} {r : LightRec} {rest : List (Nat × RecSource × LightRec)}
  (first : s.recs = (cl * 64 + core, src, r) :: rest)
include first

/-- The record under way that is first of all reaches its core or the hold buffer. -/
theorem exec_lightRecordArrival : exec (.lightRecordArrival cl core src r) s = event (fun s =>
    let u := { s with recs := rest }
    if s.inTransit (cl * 64 + core) then u.holdRecord (cl * 64 + core) src r else some (u.deliver (cl * 64 + core) src r)) s := by
  rw [show exec (.lightRecordArrival cl core src r) s = execLightRecordArrival cl core src r s from rfl, execLightRecordArrival]
  simp only [event, first, List.find?_cons, beq_self_eq_true, srcSame_self, Bool.and_self, dropFirst, and_self, if_true, ne_eq,
    not_true_eq_false, or_self, if_false]
  rfl

/-- Out of transit it is delivered. -/
theorem exec_lightRecordArrival_delivers (still : s.inTransit (cl * 64 + core) = false) :
    exec (.lightRecordArrival cl core src r) s = .next (State.deliver { s with recs := rest } (cl * 64 + core) src r) :=
  (exec_lightRecordArrival first).trans (event_some (if_neg (by rw [still]; decide)))

theorem exec_lightRecordArrival_holds (moving : s.inTransit (cl * 64 + core) = true) {t : State}
    (held : State.holdRecord { s with recs := rest } (cl * 64 + core) src r = some t) :
    exec (.lightRecordArrival cl core src r) s = .next t :=
  (exec_lightRecordArrival first).trans (event_some ((if_pos moving).trans held))

theorem exec_lightRecordArrival_waits (moving : s.inTransit (cl * 64 + core) = true)
    (full : State.holdRecord { s with recs := rest } (cl * 64 + core) src r = none) :
    exec (.lightRecordArrival cl core src r) s = .next s :=
  (exec_lightRecordArrival first).trans (event_none ((if_pos moving).trans full))

end

/-! ### What an arrival leaves (R315, R317, R320) -/

section
variable {s : State} {cl core : Nat} {r : LightRec} {rest : List (Nat × RecSource × LightRec)} (inside : core < 64)
include inside

theorem core_cluster : (cl * 64 + core) / 64 = cl ∧ (cl * 64 + core) % 64 = core := by omega

section
variable {src : RecSource} (first : s.recs = (cl * 64 + core, src, r) :: rest) (moving : s.inTransit (cl * 64 + core) = true)
  (keep : s.withdrawal r = .keep)
include first moving keep

/-- The hold buffer takes a record for a rank in transit while it has room. -/
theorem arrival_in_transit :
    ((s.cluster cl).hold.length < 256 → ∃ t, exec (.lightRecordArrival cl core src r) s = .next t ∧ t.recs = rest ∧
      (t.cluster cl).hold = (s.cluster cl).hold ++ [.record core src r] ∧ t.mem = s.mem ∧ t.slots = s.slots ∧ t.cores = s.cores) ∧
    (256 ≤ (s.cluster cl).hold.length → exec (.lightRecordArrival cl core src r) s = .next s) := by
  obtain ⟨cluster, rank⟩ := core_cluster (cl := cl) inside
  have kept : State.withdrawn { s with recs := rest } r = none := State.withdrawn_keep keep
  have held : State.holdRecord { s with recs := rest } (cl * 64 + core) src r =
      if (s.cluster cl).hold.length < 256
      then some (State.modCluster { s with recs := rest } cl (fun c => { c with hold := c.hold ++ [.record core src r] })) else none := by
    rw [State.holdRecord, kept, cluster, rank]
    rfl
  refine ⟨fun room => ⟨_, exec_lightRecordArrival_holds first moving (held.trans (if_pos room)), rfl, ?_, rfl, rfl, rfl⟩,
    fun full => exec_lightRecordArrival_waits first moving (held.trans (if_neg (Nat.not_lt.mpr full)))⟩
  rw [State.cluster_modCluster_same]
  rfl

end

section
variable {src : RecSource} (first : s.recs = (cl * 64 + core, src, r) :: rest) (still : s.inTransit (cl * 64 + core) = false)
  (none_ : (s.cluster cl).held = []) (live : (s.workAt r.lslot).st.discards = false)
include first still none_

theorem arrival_answered {u : State} (arrives : State.arrive { s with recs := rest } (cl * 64 + core) r = some u) :
    exec (.lightRecordArrival cl core src r) s = .next (u.answer src r true) := by
  rw [exec_lightRecordArrival_delivers first still, State.deliver_unheld, arrives]
  rw [(core_cluster inside).1]
  exact none_

theorem arrival_refused (refuses : State.arrive { s with recs := rest } (cl * 64 + core) r = none) :
    exec (.lightRecordArrival cl core src r) s = .next (State.refuse { s with recs := rest } (cl * 64 + core) src r) := by
  rw [exec_lightRecordArrival_delivers first still, State.deliver_unheld, refuses]
  rw [(core_cluster inside).1]
  exact none_

end

section
variable {h : Hart} (first : s.recs = (cl * 64 + core, .thread h, r) :: rest) (still : s.inTransit (cl * 64 + core) = false)
  (none_ : (s.cluster cl).held = []) (live : (s.workAt r.lslot).st.discards = false)
include first still none_ live

section
variable (keep : s.withdrawal r = .keep)
include keep

theorem arrival_queued (empty : (s.core (cl * 64 + core)).ringCnt = 0) (room : (s.core (cl * 64 + core)).queue.length < 32) :
    ∃ t, exec (.lightRecordArrival cl core (.thread h) r) s = .next t ∧ t.recs = rest ∧
      (t.core (cl * 64 + core)).queue = (s.core (cl * 64 + core)).queue ++ [r] ∧ t.mem = s.mem ∧
      (∀ w, (s.slot h).wait = some w → w.kind = .recordSent → (t.slot h).wait = some { w with kind := .recordTaken }) := by
  have arrives := (State.arrive_keep (s := { s with recs := rest }) (g := cl * 64 + core) live keep).trans
    (State.takeIn_queue (s := { s with recs := rest }) empty room)
  refine ⟨_, arrival_answered inside first still none_ arrives, rfl, ?_, rfl, fun w waits sent => State.wait_answer _ h r true waits sent⟩
  rw [State.answer, State.core_modSlot, State.core_modCore_same, State.core_perf]
  rfl

variable (busy : (s.core (cl * 64 + core)).ringCnt ≠ 0 ∨ 32 ≤ (s.core (cl * 64 + core)).queue.length)
include busy

theorem arrival_ringed (fits : (s.core (cl * 64 + core)).ringCnt < 2 ^ ((s.core (cl * 64 + core)).rsize + 8) ∧
      (s.core (cl * 64 + core)).nextOff + 64 ≤ 2 ^ 26) :
    ∃ t, exec (.lightRecordArrival cl core (.thread h) r) s = .next t ∧ t.recs = rest ∧
      (t.core (cl * 64 + core)).queue = (s.core (cl * 64 + core)).queue ∧
      (t.core (cl * 64 + core)).ringCnt = (s.core (cl * 64 + core)).ringCnt + 1 ∧
      Wrote s t (vaultPa (s.core (cl * 64 + core)).rvault (s.core (cl * 64 + core)).nextOff) (recBytes r) := by
  have arrives := (State.arrive_keep (s := { s with recs := rest }) (g := cl * 64 + core) live keep).trans
    (State.takeIn_ring (s := { s with recs := rest }) busy fits)
  obtain ⟨queue, count⟩ := State.core_ringPut { s with recs := rest } (cl * 64 + core) r
  obtain ⟨inside_, outside⟩ := wrote_after (State.mem_ringPut { s with recs := rest } (cl * 64 + core) r)
  exact ⟨_, arrival_answered inside first still none_ arrives, rfl, queue, count, inside_, outside⟩

theorem arrival_full (full : ¬((s.core (cl * 64 + core)).ringCnt < 2 ^ ((s.core (cl * 64 + core)).rsize + 8) ∧
      (s.core (cl * 64 + core)).nextOff + 64 ≤ 2 ^ 26)) :
    ∃ t, exec (.lightRecordArrival cl core (.thread h) r) s = .next t ∧ t.recs = rest ∧ t.mem = s.mem ∧ t.cores = s.cores ∧
      (∀ w, (s.slot h).wait = some w → w.kind = .recordSent → (t.slot h).wait = some { w with kind := .recordRefused }) := by
  have refuses := (State.arrive_keep (s := { s with recs := rest }) (g := cl * 64 + core) live keep).trans
    (State.takeIn_full (s := { s with recs := rest }) busy full)
  exact ⟨_, arrival_refused inside first still none_ refuses, rfl, rfl, rfl,
    fun w waits sent => State.wait_answer _ h r false waits sent⟩

end

theorem arrival_withdrawn {c e : Nat} (hold : s.withdrawal r = .hold c e) :
    ∃ t, exec (.lightRecordArrival cl core (.thread h) r) s = .next t ∧ t.recs = rest ∧
      (t.trk c e).withdrawn = (s.trk c e).withdrawn ++ [r] ∧ (t.trk c e).weight = (s.trk c e).weight + r.weight ∧
      t.cores = s.cores ∧ t.mem = s.mem := by
  have arrives := State.arrive_hold (s := { s with recs := rest }) (g := cl * 64 + core) live hold
  have tracker := State.trk_withdraw { s with recs := rest } c e r
  exact ⟨_, arrival_answered inside first still none_ arrives, rfl, congrArg Trk.withdrawn tracker, congrArg Trk.weight tracker, rfl, rfl⟩

end

/-- A full ring refuses an engine's record, which is held for its core (R317). -/
theorem arrival_held {u : Nat} (first : s.recs = (cl * 64 + core, .engine cl u, r) :: rest)
    (still : s.inTransit (cl * 64 + core) = false) (none_ : (s.cluster cl).held = [])
    (live : (s.workAt r.lslot).st.discards = false) (keep : s.withdrawal r = .keep)
    (full : (s.core (cl * 64 + core)).ringCnt = 2 ^ ((s.core (cl * 64 + core)).rsize + 8)) :
    ∃ t, exec (.lightRecordArrival cl core (.engine cl u) r) s = .next t ∧ t.recs = rest ∧
      (t.cluster cl).held = [(core, .engine cl u, r)] ∧ t.cores = s.cores ∧ t.mem = s.mem := by
  obtain ⟨cluster, rank⟩ := core_cluster (cl := cl) inside
  have busy : (s.core (cl * 64 + core)).ringCnt ≠ 0 := by rw [full]; exact (Nat.two_pow_pos _).ne'
  have refuses := (State.arrive_keep (s := { s with recs := rest }) (g := cl * 64 + core) live keep).trans
    (State.takeIn_full (s := { s with recs := rest }) (.inl busy) (fun fits => absurd fits.1 (by
      rw [show State.core { s with recs := rest } = s.core from rfl, full]; exact Nat.lt_irrefl _)))
  refine ⟨_, arrival_refused inside first still none_ refuses, rfl, ?_, rfl, rfl⟩
  have held : State.refuse { s with recs := rest } (cl * 64 + core) (.engine cl u) r =
      State.modCluster { s with recs := rest } ((cl * 64 + core) / 64)
        (fun c => { c with held := c.held ++ [((cl * 64 + core) % 64, .engine cl u, r)] }) := rfl
  rw [held, cluster, rank, State.cluster_modCluster_same, show State.cluster { s with recs := rest } = s.cluster from rfl, none_]
  rfl

omit inside in
/-- A held record whose core has room is taken when it is offered again, and leaves the held list (R317). -/
theorem reoffer_taken (one : (s.cluster cl).held = [(core, .dispatch, r)]) (still : s.inTransit (cl * 64 + core) = false)
    (live : (s.workAt r.lslot).st.discards = false) (keep : s.withdrawal r = .keep)
    (empty : (s.core (cl * 64 + core)).ringCnt = 0) (room : (s.core (cl * 64 + core)).queue.length < 32) :
    ∃ t, exec (.recordReoffer cl) s = .next t ∧ (t.cluster cl).held = [] ∧
      (t.core (cl * 64 + core)).queue = (s.core (cl * 64 + core)).queue ++ [r] ∧ t.mem = s.mem := by
  have arrives := (State.arrive_keep (g := cl * 64 + core) live keep).trans (State.takeIn_queue (r := r) empty room)
  have offered : s.canOffer cl [] (core, .dispatch, r) = true := by simp [State.canOffer, still, arrives]
  let u := s.modCluster cl (fun k => { k with held := k.held.eraseIdx 0 })
  have trackers (c e : Nat) : u.trk c e = s.trk c e := by
    by_cases same : c = cl
    · rw [State.trk, same, State.cluster_modCluster_same, State.trk]
    · rw [State.trk, State.cluster_modCluster_other _ _ _ _ same, State.trk]
  have taken := (State.arrive_keep (s := u) (g := cl * 64 + core) live ((State.withdrawal_congr trackers r).trans keep)).trans
    (State.takeIn_queue (r := r) empty room)
  have run : exec (.recordReoffer cl) s = .next (((u.perf (cl * 64 + core) 11 1).modCore (cl * 64 + core)
      (fun k => { k with queue := k.queue ++ [r] })).answer .dispatch r true) := by
    rw [show exec (.recordReoffer cl) s = execRecordReoffer cl s from rfl, execRecordReoffer]
    refine event_some ?_
    simp only [one, List.length_singleton, show List.range 1 = [0] from rfl, List.find?_cons, List.getElem?_cons_zero, List.take_zero,
      offered]
    exact congrArg (Option.map _) taken
  refine ⟨_, run, ?_, ?_, rfl⟩
  · show (u.cluster cl).held = []
    rw [State.cluster_modCluster_same, one]
    rfl
  · rw [State.core_answer_dispatch, State.core_modCore_same, State.core_perf]
    rfl

end

end Sys2Proof.Machine
end

section
/-! An empty slot fills from the Kennel or from the arrival queue (spec/07_context.md R172, R173, R178; spec/11_group.md R315;
spec/14_kernel.md R372). -/

namespace Sys2Proof.Machine

open Sys2Proof

/-! ### What an acquire leaves -/

section
variable (s : State) (g : Nat)

theorem State.slot_acquire (h : Hart) : (s.acquire g).slot h = s.slot h := rfl
theorem State.mem_acquire : (s.acquire g).mem = s.mem := rfl
theorem State.work_acquire : (s.acquire g).work = s.work := rfl

/-- An acquire empties the L1D of its core, and changes nothing else of any core (R128). -/
theorem State.core_acquire (i : Nat) : (s.acquire g).core i = { s.core i with l1d := ((s.acquire g).core i).l1d } := by
  by_cases same : i = g
  · rw [same, State.acquire, State.core_modCluster, State.core_modCore_same]
  · rw [State.acquire, State.core_modCluster, State.core_modCore_other _ _ _ _ same]

end

/-! ### The Kennel (R178) -/

section
variable (s : State) (h : Hart) (c : Option Ctx)

theorem State.slot_putCtx : (s.putCtx h c).slot h = { s.slot h with ctx := c.map (·.enter) } := by
  rw [State.putCtx, State.slot_modSlot_same]
  split <;> rfl

theorem State.slot_putCtx_other {j : Hart} (other : j ≠ h) : (s.putCtx h c).slot j = s.slot j := by
  rw [State.putCtx, State.slot_modSlot_other _ _ _ _ other]
  split <;> rfl

theorem State.mem_putCtx : (s.putCtx h c).mem = s.mem := by
  rw [State.putCtx, State.mem_modSlot]
  split <;> rfl

theorem State.core_putCtx (i : Nat) : (s.putCtx h c).core i = { s.core i with l1d := ((s.putCtx h c).core i).l1d } := by
  rw [State.putCtx, State.core_modSlot]
  split
  · exact s.core_acquire h.gcore i
  · rfl

end

section
variable (s : State) (g i : Nat) (h : Hart)

/-- A slot filled from the Kennel takes the entry's context, and the entry is empty. -/
theorem State.fillKennel_spec :
    let t := s.fillKennel g h i
    (t.slot h).ctx = some (((s.core g).ken i).ctx.getD {}).enter ∧ (t.core g).ken i = {} ∧ (t.core g).queue = (s.core g).queue ∧
    (t.core g).fromQueue = false ∧ t.mem = s.mem ∧ ∀ j, j ≠ h → t.slot j = s.slot j := by
  intro t
  have core : t.core g = { ((s.putCtx h (some (((s.core g).ken i).ctx.getD {}))).core g).setKen i {} with fromQueue := false } :=
    State.core_modCore_same ..
  refine ⟨?_, ?_, ?_, ?_, s.mem_putCtx h _, fun j other => s.slot_putCtx_other h _ other⟩
  · exact congrArg Slot.ctx (s.slot_putCtx h _)
  · rw [core]
    exact Core.ken_setKen_same ..
  · rw [core, State.core_putCtx]
    rfl
  · rw [core]

end

/-! ### The ring behind the queue (R315) -/

/-- One level of a structural recursion, for any body. -/
theorem natBrecOn_succ {α : Type} (F : ∀ n, Nat.below (motive := fun _ => α) n → α) (n : Nat) :
    ∃ b : Nat.below (motive := fun _ => α) (n + 1), b.1 = Nat.brecOn (motive := fun _ => α) n F ∧
      Nat.brecOn (motive := fun _ => α) (n + 1) F = F (n + 1) b := ⟨_, rfl, rfl⟩

/-- What the popped record of a ring becomes: it is discarded where it is poisoned, and else is the queue's last. -/
def State.ringPopped (g : Nat) (p : State × LightRec × Option Nat) : State :=
  match p.2.2 with
  | some b => p.1.dropRecord g p.2.1 (some b)
  | none => p.1.modCore g (fun k => { k with queue := k.queue ++ [p.2.1] })

/-- One turn of the refilling. State.popRing stays closed here: its addresses are numbers in the kernel, and evaluating one
as a sum of successors does not end. -/
theorem State.refill_succ (g n : Nat) (s : State) : State.refill g (n + 1) s =
    if (s.core g).ringCnt = 0 ∨ 32 ≤ (s.core g).queue.length then s
    else State.refill g n (State.ringPopped g (s.popRing g)) := by
  obtain ⟨b, first, unfolded⟩ := natBrecOn_succ (State.refill._f g) n
  have rest : b.1 = State.refill g n := by
    delta State.refill
    exact first
  rw [← rest]
  delta State.refill
  rw [unfolded]
  delta State.refill._f
  dsimp only
  generalize s.popRing g = p
  obtain ⟨t, r, o⟩ := p
  cases o <;> rfl
/-- What a change of a core's queue and ring keeps: memory, the slots, the Kennel, and the address spaces of launches. -/
structure State.KeepsSlots (s t : State) (g : Nat) : Prop where
  mem : t.mem = s.mem
  slots : t.slots = s.slots
  kennel : (t.core g).kennel = (s.core g).kennel
  satp : ∀ k, (t.workAt k).satp = (s.workAt k).satp

namespace State.KeepsSlots

variable {s t u : State} {g : Nat}

theorem refl : s.KeepsSlots s g := ⟨rfl, rfl, rfl, fun _ => rfl⟩

theorem trans (a : s.KeepsSlots t g) (b : t.KeepsSlots u g) : s.KeepsSlots u g :=
  ⟨b.mem.trans a.mem, b.slots.trans a.slots, b.kennel.trans a.kennel, fun k => (b.satp k).trans (a.satp k)⟩

theorem modCore {f : Core → Core} (keeps : ∀ c, (f c).kennel = c.kennel) : s.KeepsSlots (s.modCore g f) g :=
  ⟨rfl, rfl, by rw [State.core_modCore_same, keeps], fun _ => rfl⟩

theorem scrubSoft (a n : Nat) : s.KeepsSlots (s.scrubSoft a n) g := by
  unfold State.scrubSoft
  dsimp only
  split <;> exact ⟨rfl, rfl, rfl, fun _ => rfl⟩

/-- Weight lost leaves a launch its address space. -/
theorem loseWeight (k : Nat) : s.KeepsSlots (s.loseWeight k) g := by
  refine ⟨rfl, rfl, rfl, fun j => ?_⟩
  by_cases same : j = k
  · rw [same, State.loseWeight, State.modWork, State.workAt_setWork_same]
    unfold Work.loseWeight Work.sweepFor
    split
    · rfl
    · rfl
    · rfl
    · split <;> rfl
  · rw [State.loseWeight, State.modWork, State.workAt_setWork_other _ _ same]

theorem error (e : ErrRec) : s.KeepsSlots (s.error e) g := ⟨rfl, rfl, rfl, fun _ => rfl⟩

theorem dropRecord (r : LightRec) (b : Option Nat) : s.KeepsSlots (s.dropRecord g r b) g := by
  rw [State.dropRecord]
  exact (error _).trans (loseWeight r.lslot)

theorem popRing : s.KeepsSlots (s.popRing g).1 g := by
  unfold State.popRing
  dsimp only
  refine trans (scrubSoft _ 64) (modCore ?_)
  exact fun _ => rfl

theorem ringPopped (p : State × LightRec × Option Nat) : p.1.KeepsSlots (State.ringPopped g p) g := by
  rw [State.ringPopped]
  split
  · exact dropRecord ..
  · exact modCore fun _ => rfl

theorem refill (n : Nat) : ∀ s : State, s.KeepsSlots (State.refill g n s) g := by
  induction n with
  | zero => exact fun s => refl
  | succ n ih =>
    intro s
    rw [State.refill_succ]
    split
    · exact refl
    · exact popRing.trans ((ringPopped _).trans (ih _))

end State.KeepsSlots

section
variable {s : State} {g : Nat}

/-- A queue that is full takes nothing from the ring, and an empty ring gives nothing. -/
theorem State.refill_done (done : (s.core g).ringCnt = 0 ∨ 32 ≤ (s.core g).queue.length) (n : Nat) : State.refill g n s = s := by
  cases n with
  | zero => rfl
  | succ n => rw [State.refill_succ, if_pos done]

/-- The address of a ring's oldest record. -/
def Core.ringHeadPa (k : Core) : Nat := vaultPa k.rvault (k.roff * 65536 + 64 * (k.ringHead % 2 ^ (k.rsize + 8)))

theorem State.scrubSoft_none (none_ : s.soft = []) (a n : Nat) : s.scrubSoft a n = s := by
  simp [State.scrubSoft, none_]

/-- Two updates of a core are one. -/
theorem State.modCore_modCore (s : State) (g : Nat) (f k : Core → Core) : (s.modCore g f).modCore g k = s.modCore g (fun c => k (f c)) := by
  simp [State.modCore, State.setCore, State.core]

theorem State.popRing_eq (none_ : s.soft = []) : s.popRing g = (s.modCore g (fun k => { k with
      ringHead := (k.ringHead + 1) % 2 ^ (k.rsize + 8), ringCnt := k.ringCnt - 1 }),
    lightOf (s.mem.readN (s.core g).ringHeadPa 64), s.poisonIn (s.core g).ringHeadPa 64) := by
  rw [State.popRing, State.scrubSoft_none none_, State.getBytes]
  simp only [Core.ringOff, Core.ringSize, Core.ringHeadPa]

/-- One place free in the queue takes the ring's oldest record. -/
theorem State.refill_one {n : Nat} (some_ : (s.core g).ringCnt ≠ 0) (room : (s.core g).queue.length = 31) (none_ : s.soft = [])
    (clean : s.poisonIn (s.core g).ringHeadPa 64 = none) :
    State.refill g (n + 1) s = s.modCore g (fun k => { k with
      ringHead := (k.ringHead + 1) % 2 ^ (k.rsize + 8), ringCnt := k.ringCnt - 1
      queue := k.queue ++ [lightOf (s.mem.readN (s.core g).ringHeadPa 64)] }) := by
  have open_ : ¬((s.core g).ringCnt = 0 ∨ 32 ≤ (s.core g).queue.length) := by omega
  rw [State.refill_succ, if_neg open_, State.popRing_eq none_, clean, State.ringPopped]
  dsimp only
  rw [State.modCore_modCore, State.refill_done]
  rw [State.core_modCore_same]
  exact .inr (by rw [List.length_append, room]; exact Nat.le_refl 32)

end

/-! ### The thread that a record starts (R173) -/

section
variable (w : Work) (cid : Nat) (r : LightRec) {i : Nat}

theorem lightCtx_argument (arg : i < 6) : (lightCtx w cid r).getX (10 + i) = nth r.a i 0#64 := by
  rw [Ctx.getX, if_neg (by omega), lightCtx]
  simp only [show List.range 6 = [0, 1, 2, 3, 4, 5] from rfl, List.foldl_cons, List.foldl_nil, Tab.get_put, Nat.add_left_cancel_iff]
  interval_cases i <;> rfl

theorem lightCtx_other (other : i < 10 ∨ 16 ≤ i) : (lightCtx w cid r).getX i = 0#64 := by
  rw [Ctx.getX, lightCtx]
  split
  · rfl
  · simp only [show List.range 6 = [0, 1, 2, 3, 4, 5] from rfl, List.foldl_cons, List.foldl_nil]
    iterate 6 rw [Tab.get_put_other _ _ _ (by omega)]
    rfl

end

/-! ### The arrival queue (R172, R178) -/

/-- A core whose queue has lost its head, with its ring behind it (R315). -/
def State.refilled (s : State) (g : Nat) (rest : List LightRec) : State :=
  State.refill g (s.core g).ringCnt (s.modCore g (fun k => { k with queue := rest }))

/-- The slot filled with the thread that a record starts, in the state that the record has left (R173). -/
def State.startLight (u : State) (g : Nat) (h : Hart) (r : LightRec) : State :=
  ((u.newCid.2.acquire g).modSlot h (fun t => { t with ctx := some (lightCtx (u.workAt r.lslot) u.newCid.1 r) })).modCore g
    (fun k => { k with fromQueue := true })

section
variable {s : State} {g : Nat} {h : Hart} {r : LightRec} {rest : List LightRec}

theorem State.fillQueue_eq (head : (s.core g).queue = r :: rest) : s.fillQueue g h =
    if r.bad then (s.refilled g rest).dropRecord g r none else (s.refilled g rest).startLight g h r := by
  have popped : s.popQueue g = (s.refilled g rest, some r) := by
    rw [State.popQueue, head]
    rfl
  rw [State.fillQueue, popped]
  rfl

theorem State.refilled_keeps : s.KeepsSlots (s.refilled g rest) g := by
  rw [State.refilled]
  refine State.KeepsSlots.trans (State.KeepsSlots.modCore ?_) (State.KeepsSlots.refill _ _)
  exact fun _ => rfl

theorem State.refilled_empty (empty : (s.core g).ringCnt = 0) :
    s.refilled g rest = s.modCore g (fun k => { k with queue := rest }) := by
  rw [State.refilled, empty]
  rfl

/-- The ring's oldest record is the queue's last. -/
theorem State.refilled_one (some_ : (s.core g).ringCnt ≠ 0) (room : rest.length = 31) (none_ : s.soft = [])
    (clean : s.poisonIn (s.core g).ringHeadPa 64 = none) :
    ((s.refilled g rest).core g).queue = rest ++ [lightOf (s.mem.readN (s.core g).ringHeadPa 64)] ∧
    ((s.refilled g rest).core g).ringCnt = (s.core g).ringCnt - 1 ∧
    ((s.refilled g rest).core g).ringHead = ((s.core g).ringHead + 1) % 2 ^ ((s.core g).rsize + 8) := by
  obtain ⟨n, count⟩ := Nat.exists_eq_succ_of_ne_zero some_
  have core : (s.modCore g (fun k => { k with queue := rest })).core g = { s.core g with queue := rest } := State.core_modCore_same ..
  have one := State.refill_one (s := s.modCore g (fun k => { k with queue := rest })) (g := g) (n := n) (by rw [core]; exact some_)
    (by rw [core]; exact room) none_ (by rw [core]; exact clean)
  rw [State.refilled, show State.refill g (s.core g).ringCnt = State.refill g (n + 1) by rw [count], one, State.core_modCore_same, core]
  exact ⟨rfl, rfl, rfl⟩

theorem State.startLight_spec (u : State) :
    let t := u.startLight g h r
    (t.slot h).ctx = some (lightCtx (u.workAt r.lslot) u.newCid.1 r) ∧ t.mem = u.mem ∧
    t.core g = { u.core g with l1d := (t.core g).l1d, fromQueue := true } := by
  intro t
  have started : t = u.startLight g h r := rfl
  rw [State.startLight] at started
  refine ⟨?_, ?_, ?_⟩
  · rw [started, State.slot_modCore, State.slot_modSlot_same]
  · rw [started]
    rfl
  · rw [started, State.core_modCore_same, State.core_modSlot, State.core_acquire]
    rfl

end

/-! ### The slot (R178) -/

section
variable {s : State} {cl core : Nat} {h : Hart} (runs : (s.core (cl * 64 + core)).halted = false)
  (still : s.inTransit (cl * 64 + core) = false) (free : s.freeSlot (cl * 64 + core) = some h)
include runs still free

/-- A ready Kennel entry goes where the queue is empty or went last. -/
theorem exec_slotFill_kennel {i : Nat} (ready : (s.core (cl * 64 + core)).readyEntry = some i)
    (turn : (s.core (cl * 64 + core)).queue = [] ∨ (s.core (cl * 64 + core)).fromQueue = true) :
    exec (.slotFill cl core) s = .next (s.fillKennel (cl * 64 + core) h i) := by
  rw [show exec (.slotFill cl core) s = execSlotFill cl core s from rfl, execSlotFill]
  refine event_some ?_
  simp only [runs, still, Bool.false_eq_true, or_self, if_false, free, ready]
  rcases turn with empty | last
  · simp only [empty]
  · cases (s.core (cl * 64 + core)).queue with
    | nil => rfl
    | cons r rest => simp only [last, if_true]

/-- The head of the arrival queue goes where no entry is ready or the Kennel went last. -/
theorem exec_slotFill_queue {r : LightRec} {rest : List LightRec} (head : (s.core (cl * 64 + core)).queue = r :: rest)
    (turn : (s.core (cl * 64 + core)).readyEntry = none ∨ (s.core (cl * 64 + core)).fromQueue = false) :
    exec (.slotFill cl core) s = .next (s.fillQueue (cl * 64 + core) h) := by
  rw [show exec (.slotFill cl core) s = execSlotFill cl core s from rfl, execSlotFill]
  refine event_some ?_
  simp only [runs, still, Bool.false_eq_true, or_self, if_false, free, head]
  rcases turn with none_ | last
  · simp only [none_]
  · cases (s.core (cl * 64 + core)).readyEntry with
    | none => rfl
    | some i => simp only [last, Bool.false_eq_true, if_false]

end

/-- Settles O31: a record goes where its launch, its rank and its arrival unit let it, and a slot takes what went last the other
way. -/
theorem recordsReachSlots : Obligations.RecordsReachSlots := by
  refine ⟨⟨fun s cl core src r rest inside first moving keep => arrival_in_transit inside first moving keep,
    fun s cl core h r rest inside first still none_ live => ⟨fun keep empty room => ?_, fun keep busy fits => ?_,
      fun keep busy full => ?_, fun c e hold => ?_⟩,
    fun s cl core u r rest inside first still none_ live keep full => arrival_held inside first still none_ live keep full,
    fun s cl core r inside one still live keep empty room => reoffer_taken one still live keep empty room⟩,
    fun s cl core i h runs still free ready turn => ⟨_, exec_slotFill_kennel runs still free ready turn, s.fillKennel_spec _ i h⟩,
    fun s cl core h r rest runs still free turn head none_ => ⟨fun good => ?good, fun bad empty => ?bad⟩⟩
  · exact arrival_queued inside first still none_ live keep empty room
  · exact arrival_ringed inside first still none_ live keep busy fits
  · exact arrival_full inside first still none_ live keep busy full
  · exact arrival_withdrawn inside first still none_ live hold
  case good =>
    have kept := s.refilled_keeps (g := cl * 64 + core) (rest := rest)
    obtain ⟨ctx, mem, core_⟩ := (s.refilled (cl * 64 + core) rest).startLight_spec (g := cl * 64 + core) (h := h) (r := r)
    have run := (exec_slotFill_queue runs still free head turn).trans
      (congrArg Host.Outcome.next ((State.fillQueue_eq head).trans (if_neg (by rw [good]; exact Bool.false_ne_true))))
    refine ⟨_, _, run, ctx, by rw [core_], fun j => ?_, mem.trans kept.mem, fun empty => ?_, fun some_ room clean => ?_,
      rfl, rfl, rfl, rfl, rfl, rfl, rfl, kept.satp _, fun i arg => lightCtx_argument _ _ r arg, fun i other => lightCtx_other _ _ r other⟩
    · rw [core_]
      exact congrArg (fun t : Tab Ken => t.get {} j) kept.kennel
    · rw [core_, s.refilled_empty empty, State.core_modCore_same]
    · rw [core_]
      exact s.refilled_one some_ room none_ clean
  case bad =>
    have run := (exec_slotFill_queue runs still free head turn).trans
      (congrArg Host.Outcome.next ((State.fillQueue_eq head).trans (if_pos bad)))
    rw [s.refilled_empty empty] at run
    refine ⟨_, run, rfl, ?_, rfl⟩
    show ((s.modCore (cl * 64 + core) (fun k => { k with queue := rest })).core (cl * 64 + core)).queue = rest
    rw [State.core_modCore_same]

end Sys2Proof.Machine
end

section
/-! Wake cells of the own scratchpad: what the atomic of ctx.sleep and of ctx.wake on one reads and leaves (spec/07_context.md R210). -/

namespace Sys2Proof.Machine

open Sys2Proof

/-! ### An access narrower than a free one is free -/

section
variable {a n m : Nat}

theorem Span.meets_mono {x : Span} (narrow : n ≤ m) (meets : x.meets a n = true) : x.meets a m = true := by
  simp only [Span.meets, List.any_eq_true, Bool.and_eq_true, decide_eq_true_eq] at meets ⊢
  obtain ⟨r, row, low, high⟩ := meets
  exact ⟨r, row, by omega, high⟩

theorem Core.tileStall_mono {k : Core} {st : Bool} (narrow : n ≤ m) (free : k.tileStall a m st = false) : k.tileStall a n st = false := by
  rw [← Bool.not_eq_true] at free ⊢
  refine fun stalls => free ?_
  simp only [Core.tileStall, List.any_eq_true, Bool.and_eq_true] at stalls ⊢
  obtain ⟨o, mem, x, span, writes, meets⟩ := stalls
  exact ⟨o, mem, x, span, writes, x.meets_mono narrow meets⟩

theorem Chan.stalls_mono {c : Chan} {g : Nat} {st : Bool} (narrow : n ≤ m) (stalls : c.stalls g a n st = true) :
    c.stalls g a m st = true := by
  simp only [Chan.stalls, Bool.and_eq_true, List.any_eq_true, decide_eq_true_eq] at stalls ⊢
  obtain ⟨busy, p, place, low, high⟩ := stalls
  exact ⟨busy, p, place, by omega, high⟩

theorem Ctx.stallingChan_mono {c : Ctx} {g : Nat} {st : Bool} (narrow : n ≤ m) (free : c.stallingChan g a m st = none) :
    c.stallingChan g a n st = none := by
  simp only [Ctx.stallingChan, List.find?_eq_none] at free ⊢
  exact fun i mem stalls => free i mem (Chan.stalls_mono narrow stalls)

end

/-- The segments that an access of a scratchpad reaches decide its check, not its length. -/
theorem State.permits_narrow {s : State} {h : Hart} {off n m : Nat} {w : Bool} {i : Ident} (hart : h < 20480) (inside : off + m ≤ 0x40000)
    (some : 0 < n) (narrow : n ≤ m) (segment : (off + m - 1) / 2 ^ 14 = (off + n - 1) / 2 ^ 14) :
    s.permits (scratchPa h.gcore off) n w i = s.permits (scratchPa h.gcore off) m w i := by
  obtain ⟨range, place⟩ := scratchPa_place (off := off) hart (by omega)
  have fitsN : ¬off + n > 2 ^ 18 := by omega
  have fitsM : ¬off + m > 2 ^ 18 := by omega
  simp only [State.permits, range, place, segment, if_neg fitsN, if_neg fitsM]

/-- The first bytes of a free cell are free. -/
theorem ownScratchFree.cell {s : State} {off n : Nat} {st : Bool} (free : ownScratchFree s off 64 st) (hart : s.cur < 20480)
    (aligned : off % 64 = 0) (some : 0 < n) (narrow : n ≤ 64) : ownScratchFree s off n st := by
  obtain ⟨page, inside, -, permits, tile, chan, rest⟩ := free
  have segment : (off + 64 - 1) / 2 ^ 14 = (off + n - 1) / 2 ^ 14 := by omega
  exact ⟨by omega, by omega, some, (State.permits_narrow hart inside some narrow segment).trans permits,
    Core.tileStall_mono narrow tile, Ctx.stallingChan_mono narrow chan, rest⟩

/-! ### The atomic on a cell -/

/-- A state whose own cell an atomic has read, and written where it gives bytes. -/
def State.cellDone (s : State) (off : Nat) (new : Option (List Byte)) : State := (s.putOwn off new).noteStale s.cur.gcore

section
variable (s : State) (off : Nat) (new : Option (List Byte))

theorem State.mem_cellDone : (s.cellDone off new).mem = s.mem.after (scratchPa s.cur.gcore off) new := s.putOwn_mem off new

theorem State.recs_cellDone : (s.cellDone off new).recs = s.recs := by cases new <;> rfl

theorem State.cur_cellDone : (s.cellDone off new).cur = s.cur := by cases new <;> rfl

theorem State.accessedOwn_cellDone {s : State} (clean : s.poison = []) : s.AccessedOwn (s.cellDone off new) := by
  have put := State.accessedOwn_putOwn off new clean
  have note := State.accessedOwn_noteStale (s := s.putOwn off new)
  rw [put.cur] at note
  exact put.trans note

end

section
variable {s : State} {off n : Nat} (free : ownScratchFree s off n true) (hart : s.cur < 20480)
include free hart

theorem cellAtomic_own (va : Word) (f : List Byte → Option (List Byte)) :
    let old := s.mem.readN (scratchPa s.cur.gcore off) n
    cellAtomic va (ownTarget s.cur.gcore off) n f s = .ok old (s.cellDone off (f old)) := by
  obtain ⟨place, core⟩ := place_own free hart
  have quiet (new : Option (List Byte)) := logScent_own (free.accessed (State.accessedOwn_cellDone off new free.clean))
    s.cur.gcore s.cur.slot 0 opAmo (log2sz n) off
  simp only [State.cur_cellDone] at quiet
  have writes : (AtomicKind.rmw != .lr) = true := rfl
  simp [cellAtomic, atomicTarget, ownTarget, writes, stallSram_own free, scrubSoft_own free, place, atomicScratch, core, imposed_own free,
    poisonIn_own free, AtomicKind.consumed, State.getBytes]
  cases f (s.mem.readN (scratchPa s.cur.gcore off) n) with
  | none => exact quiet none
  | some new => exact quiet (some new)

end

/-- The first doubleword of an own cell. -/
theorem State.peek8_own (s : State) (k g off : Nat) : s.peek8 k (ownTarget g off) = leNat (s.mem.readN (scratchPa g off) 8) := rfl

/-! ### The memory of a cell -/

section
variable {s t : State} {pa : Nat}

theorem Memory.getD_readN (m : Memory) (a : Nat) {i n : Nat} (inside : i < n) : (m.readN a n).getD i 0#8 = m.read (a + i) := by
  induction n generalizing a i with
  | zero => exact absurd inside (Nat.not_lt_zero i)
  | succ n ih =>
    cases i with
    | zero => rfl
    | succ i =>
      rw [Memory.readN, List.getD_cons_succ, ih (a + 1) (Nat.lt_of_succ_lt_succ inside), Nat.add_assoc, Nat.add_comm 1 i]

/-- A cell whose first doubleword is zeroed in place keeps its other bytes. -/
theorem wrote_zeros (wrote : Wrote s t pa (zeros8 ++ (s.mem.readN pa 64).drop 8)) :
    (∀ i, i < 8 → t.mem.read (pa + i) = 0#8) ∧ ∀ p, p < pa ∨ pa + 8 ≤ p → t.mem.read p = s.mem.read p := by
  obtain ⟨inside, outside⟩ := wrote
  have length : (zeros8 ++ (s.mem.readN pa 64).drop 8).length = 64 := by simp [zeros8, Memory.length_readN]
  rw [length] at inside outside
  refine ⟨fun i low => ?_, fun p out => ?_⟩
  · rw [inside i (by omega), List.getD_append _ _ _ _ (by simpa [zeros8] using low)]
    exact List.getD_replicate _ low
  · by_cases far : p < pa ∨ pa + 64 ≤ p
    · exact outside p far
    · obtain ⟨i, rfl⟩ : ∃ i, p = pa + i := ⟨p - pa, by omega⟩
      rw [inside i (by omega), List.getD_append_right _ _ _ _ (by simp only [zeros8, List.length_replicate]; omega),
        ← Memory.getD_readN s.mem pa (show i < 64 by omega)]
      simp only [zeros8, List.length_replicate, List.getD_eq_getElem?_getD, List.getElem?_drop]
      rw [show 8 + (i - 8) = i by omega]

end

/-! ### A suspension that waits for nothing -/

/-- What the waits of a suspension look at. -/
def State.waitView (s : State) : Ctx × Bool × Bool :=
  (s.ctx s.cur, (s.core s.cur.gcore).tilesDone (s.ctx s.cur), s.performed s.cur true true 2)

/-- Where it completes in one state, it completes in any that its waits cannot tell from it, and changes nothing. -/
def Watches (m : M Unit) : Prop := ∀ s t u : State, t.waitView = s.waitView → m s = .ok () u → m t = .ok () t

section
variable {m : M Unit}

theorem watches_pure : Watches (pure ()) := fun _ _ _ _ _ => rfl

theorem Watches.bind {f : Unit → M Unit} (first : Watches m) (next : Watches (f ())) : Watches (m >>= f) := by
  intro s t u same done
  rw [estate_bind] at done ⊢
  cases run : m s with
  | error e v => rw [run] at done; cases done
  | ok a v =>
    have still : m s = .ok () s := first s s v rfl run
    rw [still] at done
    rw [first s t v same run]
    exact next s t u same done

theorem watches_ctx {f : Ctx → M Unit} (next : ∀ c, Watches (f c)) : Watches (ctx >>= f) := by
  intro s t u same done
  rw [estate_bind, ctx_apply] at done ⊢
  rw [show t.ctx t.cur = s.ctx s.cur from congrArg (·.1) same]
  exact next _ s t u same done

theorem watches_waitUnless (b : Bool) : Watches (waitUnless b) := by
  intro s t u _ done
  cases b with
  | true => rfl
  | false => cases done

theorem watches_orTrap (b : Bool) (c : Nat) (v : Word) : Watches (orTrap b c v) := by
  intro s t u _ done
  cases b with
  | true => rfl
  | false => cases done

theorem watches_waitSeq : Watches waitSeq := watches_ctx fun _ => watches_waitUnless _

theorem watches_waitChan (n : Nat) : Watches (waitChan n) := by
  refine watches_ctx fun c => ?_
  dsimp only
  split
  · exact watches_pure
  · exact Watches.bind (watches_ctx fun c => watches_orTrap _ _ _) (watches_waitUnless _)

theorem watches_readyChans : ∀ ns, Watches (readyChans ns)
  | [] => watches_pure
  | n :: ns => watches_ctx fun _ => Watches.bind (watches_waitUnless _) (Watches.bind (watches_waitChan n) (watches_readyChans ns))

theorem watches_release : Watches (release 2) := by
  intro s t u same done
  have performed : t.performed t.cur true true 2 = s.performed s.cur true true 2 := congrArg (·.2.2) same
  rw [release_apply] at done ⊢
  rw [performed]
  split at done
  · next yes => rw [if_pos yes]
  · cases done

theorem watches_tilesDone : Watches (do waitUnless ((← core).tilesDone (← ctx))) := by
  intro s t u same done
  have tiles : (t.core t.cur.gcore).tilesDone (t.ctx t.cur) = (s.core s.cur.gcore).tilesDone (s.ctx s.cur) := congrArg (·.2.1) same
  simp only [estate_bind, core_apply, ctx_apply, waitUnless_apply, tiles] at done ⊢
  split at done
  · next yes => rw [if_pos yes]
  · cases done

theorem watches_suspendReady : Watches suspendReady := by
  have parts : suspendReady = waitSeq >>= fun _ => (do waitUnless ((← core).tilesDone (← ctx))) >>= fun _ =>
      readyChans (List.range 8) >>= fun _ => release 2 := by
    simp only [suspendReady, bind_assoc]
  rw [parts]
  exact watches_waitSeq.bind (watches_tilesDone.bind ((watches_readyChans _).bind watches_release))

end

/-! ### The winner of a port is none of what a release waits for -/

section
variable {α : Type} {d v : α} {k : Nat} {p : α → Bool}

theorem any_of_lookup (l : List (Nat × α)) (absent : p d = false) (found : p (lookup d k l) = true) : l.any (fun e => p e.2) = true := by
  induction l with
  | nil => exact absurd (absent.symm.trans found) Bool.false_ne_true
  | cons e l ih =>
    rw [lookup] at found
    split at found
    · simp [found]
    · simp [ih found]

/-- An entry replaced by one with the same answer. -/
theorem any_insertAt (l : List (Nat × α)) (absent : p d = false) (same : p v = p (lookup d k l)) :
    (insertAt k v l).any (fun e => p e.2) = l.any (fun e => p e.2) := by
  induction l with
  | nil => simpa [insertAt, lookup, absent] using same
  | cons e l ih =>
    obtain ⟨j, w⟩ := e
    by_cases here : j = k
    · rw [lookup, if_pos here] at same
      simp [insertAt, here, same]
    · rw [lookup, if_neg here] at same
      by_cases below : k < j
      · simp only [insertAt, if_neg here, if_pos below, List.any_cons, same]
        by_cases found : p (lookup d k l) = true
        · rw [found, any_of_lookup l absent found, Bool.or_true, Bool.or_true]
        · rw [Bool.not_eq_true] at found
          rw [found, Bool.false_or]
      · simp [insertAt, here, below, ih same]

end

theorem State.performed_wonMem (s : State) (g h : Hart) (ld st : Bool) (scope : Nat) :
    (s.wonMem g).performed h ld st scope = s.performed h ld st scope := by
  have posted : (s.wonMem g).posted h = s.posted h := by
    simp only [State.posted]
    congr 1
    exact any_insertAt (d := Core.boot g.gcore) (p := fun c => c.portq.any (fun r => r.kind == 0 && r.hart == h)) s.cores.ents rfl rfl
  rw [State.performed, posted]
  rfl

theorem State.waitView_wonMem (s : State) : (s.wonMem s.cur).waitView = s.waitView := by
  have core : (s.wonMem s.cur).core s.cur.gcore = { s.core s.cur.gcore with winMem := s.cur.slot } := State.core_modCore_same ..
  rw [State.waitView, s.performed_wonMem, State.cur_wonMem, core]
  rfl

end Sys2Proof.Machine
end

section
/-! ctx.sleep and ctx.wake on a wake cell of the own scratchpad (spec/07_context.md R210; spec/11_group.md R317). -/

namespace Sys2Proof.Machine

open Sys2Proof

/-! ### On the cell, once its place is known -/

/-- What ctx.sleep does with its cell. -/
def cellSleep (va : Word) (t : Target) : M Unit := do
  let s ← get
  let w := s.peek8 s.cur.cl t
  let c ← ctx
  if w = 1 then
    let _ ← cellAtomic va t 8 (fun _ => some zeros8)
    acquire
  else if w ≥ 2 then
    let _ ← cellAtomic va t 8 (fun _ => none)
  else if c.light then
    suspendReady
    let _ ← cellAtomic va t 64 (fun _ => some (recBytes (c.record (c.pc + 4#64) false)))
    suspendNow
    leaveSlot
  else
    let _ ← cellAtomic va t 8 (fun _ => none)
    setWait (some { kind := .sleeping, a := t.a, b := va.toNat, attr := t.attr })
    wait

/-- What ctx.wake does with its cell. -/
def cellWake (d : Reg) (va : Word) (t : Target) : M Unit := do
  release 2
  let s ← get
  if s.peek8 s.cur.cl t ≥ 2 then
    let bs ← cellAtomic va t 64 (fun old => some (zeros8 ++ old.drop 8))
    sendAndWait ((ownerOf s.cur.gcore va.toNat).getD s.cur.gcore) (lightOf bs) t.a (dwAt bs 0) t.attr bs
  else
    let _ ← cellAtomic va t 8 (fun _ => some (leBytes 8 1))
    setX d 0#64

/-- The state after a heavy thread has begun to sleep on a cell. -/
def State.asleep (s : State) (t : Target) (va : Word) : State :=
  s.modSlot s.cur (fun x =>
    { x with wait := some { kind := .sleeping, a := t.a, b := va.toNat, attr := t.attr, bits := s.ibits, len := s.ilen } })

theorem State.slot_asleep (s : State) (t : Target) (va : Word) : (s.asleep t va).slot s.cur =
    { s.slot s.cur with wait := some { kind := .sleeping, a := t.a, b := va.toNat, attr := t.attr, bits := s.ibits, len := s.ilen } } :=
  State.slot_modSlot_same ..

theorem State.cur_retire (s : State) : s.retire.cur = s.cur := by rw [s.retire_frame]
theorem State.mem_retire (s : State) : s.retire.mem = s.mem := by rw [s.retire_frame]
theorem State.clusters_retire (s : State) : s.retire.clusters = s.clusters := by rw [s.retire_frame]

theorem State.recs_waitCycles (s : State) (h : Hart) : (s.waitCycles h).recs = s.recs := rfl
theorem State.recs_sentRecord (s : State) (g a b : Nat) (r : LightRec) (attr : Attr) (cell : List Byte) :
    (s.sentRecord g r a b attr cell).recs = s.recs ++ [(g, .thread s.cur, r)] := rfl

theorem State.mem_emptySlot (s : State) (h : Hart) : (s.emptySlot h).mem = s.mem := by
  simp [State.emptySlot, State.abandon, State.leavePages]

theorem suspendNow_ends (s : State) : ∃ v, suspendNow s = .ok () v ∧ v.cur = s.cur ∧ v.mem = s.mem := ⟨_, rfl, rfl, rfl⟩

section
variable {s u v : State} {va : Word} {t : Target} {bs : List Byte}

theorem cellSleep_touched (one : s.peek8 s.cur.cl t = 1) (answer : cellAtomic va t 8 (fun _ => some zeros8) s = .ok bs u) :
    cellSleep va t s = .ok () (u.aqEnd 1#1) := by
  simp only [cellSleep, estate_bind, estate_get, ctx_apply, one, if_true, answer]
  rfl

theorem cellSleep_record (two : 2 ≤ s.peek8 s.cur.cl t) (answer : cellAtomic va t 8 (fun _ => none) s = .ok bs u) :
    cellSleep va t s = .ok () u := by
  have other : ¬s.peek8 s.cur.cl t = 1 := by omega
  simp only [cellSleep, estate_bind, estate_get, ctx_apply, if_neg other, ge_iff_le, if_pos two, answer, estate_pure]

theorem cellSleep_heavy (zero : s.peek8 s.cur.cl t = 0) (heavy : (s.ctx s.cur).light = false)
    (answer : cellAtomic va t 8 (fun _ => none) s = .ok bs u) : cellSleep va t s = .error .wait (u.asleep t va) := by
  have other : ¬(0 = 1) ∧ ¬2 ≤ 0 := by decide
  simp only [cellSleep, estate_bind, estate_get, ctx_apply, estate_ite, zero, if_neg other.1, ge_iff_le, if_neg other.2, heavy,
    Bool.false_eq_true, if_false, answer]
  rfl

theorem cellSleep_light (zero : s.peek8 s.cur.cl t = 0) (light : (s.ctx s.cur).light = true) (ready : suspendReady s = .ok () s)
    (answer : cellAtomic va t 64 (fun _ => some (recBytes ((s.ctx s.cur).record ((s.ctx s.cur).pc + 4#64) false))) s = .ok bs u)
    (now : suspendNow u = .ok () v) : cellSleep va t s = .error .gone (v.emptySlot v.cur) := by
  have other : ¬(0 = 1) ∧ ¬2 ≤ 0 := by decide
  simp only [cellSleep, estate_bind, estate_get, ctx_apply, estate_ite, zero, if_neg other.1, ge_iff_le, if_neg other.2, light,
    if_true, ready, answer, now, leaveSlot_apply]

variable {d : Reg} (done : s.performed s.cur true true 2 = true)
include done

theorem cellWake_empty (few : s.peek8 s.cur.cl t < 2) (answer : cellAtomic va t 8 (fun _ => some (leBytes 8 1)) s = .ok bs u) :
    cellWake d va t s = .ok () (u.putX d 0#64) := by
  simp only [cellWake, estate_bind, release_performed done, estate_get, estate_ite, ge_iff_le, if_neg (Nat.not_le.mpr few), answer,
    setX_apply]

theorem cellWake_parked (two : 2 ≤ s.peek8 s.cur.cl t)
    (answer : cellAtomic va t 64 (fun old => some (zeros8 ++ old.drop 8)) s = .ok bs u) : cellWake d va t s =
      .error .wait (u.sentRecord ((ownerOf s.cur.gcore va.toNat).getD s.cur.gcore) (lightOf bs) t.a (dwAt bs 0) t.attr bs) := by
  simp only [cellWake, estate_bind, release_performed done, estate_get, estate_ite, ge_iff_le, if_pos two, answer, sendAndWait_apply]

end

section
variable {s : State} {a d : Reg} (fresh : (s.slot s.cur).wait = none) (idle : (s.ctx s.cur).queuedMem true true = false)
include fresh idle

theorem exec_ctxSleep_misaligned (r : s.Runs) (off : (s.xr a).toNat % 64 ≠ 0) : exec (.ctxSleep a) s = .next (s.trapped 7 (s.xr a)) := by
  rw [show exec (.ctxSleep a) s = execCtxSleep a s from rfl, execCtxSleep]
  refine runThread_trapped r ?_
  simp only [estate_bind, getX_apply, slot_apply, State.cur_begun, State.slot_begun, State.xr_begun, fresh,
    waitVecMem_free (s := s.begun) idle, orTrap_apply, off, decide_false, Bool.false_eq_true, if_false]

theorem exec_ctxWake_misaligned (r : s.Runs) (off : (s.xr a).toNat % 64 ≠ 0) : exec (.ctxWake a d) s = .next (s.trapped 7 (s.xr a)) := by
  rw [show exec (.ctxWake a d) s = execCtxWake a d s from rfl, execCtxWake]
  refine runThread_trapped r ?_
  simp only [estate_bind, getX_apply, slot_apply, State.cur_begun, State.slot_begun, State.xr_begun, fresh,
    waitVecMem_free (s := s.begun) idle, orTrap_apply, off, decide_false, Bool.false_eq_true, if_false]

end

/-- The state in which an access to the own scratchpad has been translated. -/
def State.placed (s : State) : State := s.begun.wonMem s.cur

section
variable {s : State}

theorem State.accessedOwn_placed : s.begun.AccessedOwn s.placed := State.accessedOwn_wonMem (s := s.begun)
@[simp] theorem State.cur_placed : s.placed.cur = s.cur := rfl
@[simp] theorem State.mem_placed : s.placed.mem = s.mem := rfl
@[simp] theorem State.ctx_placed (h : Hart) : s.placed.ctx h = s.ctx h := rfl

theorem ownScratchFree.placed {off n : Nat} {st : Bool} (free : ownScratchFree s off n st) : ownScratchFree s.placed off n st :=
  free.begun.accessed State.accessedOwn_placed

end

section
variable {s : State} {a d : Reg} {off : Nat} (fresh : (s.slot s.cur).wait = none) (idle : (s.ctx s.cur).queuedMem true true = false)
  (hart : s.cur < 20480) (address : s.xr a = w64 (0x7F8000000000 + off)) (aligned : off % 64 = 0)
  (free : ownScratchFree s off 64 true)

theorem State.peek8_placed (s : State) (off : Nat) : s.placed.peek8 s.placed.cur.cl (ownTarget s.cur.gcore off) =
    leNat (s.mem.readN (scratchPa s.cur.gcore off) 8) := rfl

section
include hart address free

theorem translate_cell : translate .amo (s.xr a) (s.xr a) 64 s.begun = .ok (ownTarget s.cur.gcore off) s.placed :=
  translate_own (s := s.begun) free.begun hart (acc := .amo) (s.xr a) address (by decide)

omit hart in
include aligned in
theorem aligned_cell : (s.xr a).toNat % 64 = 0 := by
  have inside := free.inside
  rw [address, toNat_ownWindow inside]
  omega

include fresh idle aligned

theorem exec_ctxSleep_own : ∃ m, exec (.ctxSleep a) s = runThread m s ∧
    m s.begun = cellSleep (s.xr a) (ownTarget s.cur.gcore off) s.placed := by
  refine ⟨_, rfl, ?_⟩
  simp only [estate_bind, getX_apply, slot_apply, State.cur_begun, State.slot_begun, State.xr_begun, fresh,
    waitVecMem_free (s := s.begun) idle, orTrap_apply, aligned_cell address aligned free, decide_true, if_true,
    translate_cell hart address free, cellSleep]

theorem exec_ctxWake_own : ∃ m, exec (.ctxWake a d) s = runThread m s ∧
    m s.begun = cellWake d (s.xr a) (ownTarget s.cur.gcore off) s.placed := by
  refine ⟨_, rfl, ?_⟩
  simp only [estate_bind, getX_apply, slot_apply, State.cur_begun, State.slot_begun, State.xr_begun, fresh,
    waitVecMem_free (s := s.begun) idle, orTrap_apply, aligned_cell address aligned free, decide_true, if_true,
    translate_cell hart address free, cellWake]

end

/-- The state after an atomic of a fresh instruction on its own cell. -/
def State.celled (s : State) (off : Nat) (new : Option (List Byte)) : State := s.placed.cellDone off new

section
include hart free

theorem cellAtomic_placed {n : Nat} (n_le : n ≤ 64) (n_pos : 0 < n) (aligned : off % 64 = 0) (va : Word) (f : List Byte → Option (List Byte)) :
    let old := s.mem.readN (scratchPa s.cur.gcore off) n
    cellAtomic va (ownTarget s.cur.gcore off) n f s.placed = .ok old (s.celled off (f old)) :=
  cellAtomic_own (s := s.placed) (free.cell hart aligned n_pos n_le).placed hart va f

omit hart in
theorem State.accessedOwn_celled (new : Option (List Byte)) : s.begun.AccessedOwn (s.celled off new) :=
  State.accessedOwn_placed.trans (State.accessedOwn_cellDone off new free.placed.clean)

end

theorem State.mem_celled (new : Option (List Byte)) : (s.celled off new).mem = s.mem.after (scratchPa s.cur.gcore off) new :=
  s.placed.mem_cellDone off new

theorem State.cur_celled (new : Option (List Byte)) : (s.celled off new).cur = s.cur := s.placed.cur_cellDone off new

theorem State.recs_celled (new : Option (List Byte)) : (s.celled off new).recs = s.recs := s.placed.recs_cellDone off new

/-- A thread that went on with its context as it was keeps its registers. -/
theorem WentOn.xr {s t : State} (went : WentOn s t id) (cur : t.cur = s.cur) (r : Reg) : t.xr r = s.xr r := by
  obtain ⟨own, -, -⟩ := went
  rw [State.xr, cur, own]
  rfl

theorem WentOn.pc {s t : State} {f : Ctx → Ctx} (went : WentOn s t f) : (t.ctx s.cur).pc = s.nextPc := by
  obtain ⟨own, -, -⟩ := went
  rw [own]

/-! ### ctx.sleep -/

section
variable (r : s.Runs)
include fresh idle hart address aligned free r

/-- A pending wake is consumed. -/
theorem exec_ctxSleep_touched (one : leNat (s.mem.readN (scratchPa s.cur.gcore off) 8) = 1) : ∃ t, exec (.ctxSleep a) s = .next t ∧
    WentOn s t id ∧ t.cur = s.cur ∧ Wrote s t (scratchPa s.cur.gcore off) zeros8 := by
  obtain ⟨m, run, op⟩ := exec_ctxSleep_own fresh idle hart address aligned free
  have atomic := cellAtomic_placed hart free (n := 8) (by omega) (by omega) aligned (s.xr a) (fun _ => some zeros8)
  have a' := State.accessedOwn_celled free (some zeros8)
  obtain ⟨went, -, mem⟩ := wentOn_aqEnd (f := id) a' (a'.slot_ctx r) (fun _ _ => rfl) rfl 1#1
  have ends := run.trans (runThread_ok r (op.trans (cellSleep_touched ((s.peek8_placed off).trans one) atomic)))
  have cur := (State.cur_retire _).trans (((s.celled off (some zeros8)).aqEnd_frame 1#1).1.trans a'.cur)
  exact ⟨_, ends, went, cur, wrote_after (mem.trans (State.mem_celled (some zeros8)))⟩

/-- A cell that holds a record lets the sleeper go on. -/
theorem exec_ctxSleep_record (two : 2 ≤ leNat (s.mem.readN (scratchPa s.cur.gcore off) 8)) : ∃ t, exec (.ctxSleep a) s = .next t ∧
    WentOn s t id ∧ t.mem = s.mem ∧ t.clusters = s.clusters := by
  obtain ⟨m, run, op⟩ := exec_ctxSleep_own fresh idle hart address aligned free
  have atomic := cellAtomic_placed hart free (n := 8) (by omega) (by omega) aligned (s.xr a) (fun _ => none)
  have a' := State.accessedOwn_celled free none
  have ends := run.trans (runThread_ok r (op.trans (cellSleep_record ((s.peek8_placed off).symm ▸ two) atomic)))
  have went := a'.wentOn r
  have mem := (State.mem_retire _).trans (State.mem_celled (s := s) (off := off) none)
  exact ⟨_, ends, went, mem, (State.clusters_retire _).trans a'.clusters⟩

/-- A heavy thread waits in its slot. -/
theorem exec_ctxSleep_heavy (zero : leNat (s.mem.readN (scratchPa s.cur.gcore off) 8) = 0) (heavy : (s.ctx s.cur).light = false) :
    ∃ t, exec (.ctxSleep a) s = .next t ∧ t.ctx s.cur = s.ctx s.cur ∧ t.mem = s.mem ∧
      (t.slot s.cur).wait.map (fun w => (w.kind, w.a)) = some (.sleeping, scratchPa s.cur.gcore off) := by
  obtain ⟨m, run, op⟩ := exec_ctxSleep_own fresh idle hart address aligned free
  have atomic := cellAtomic_placed hart free (n := 8) (by omega) (by omega) aligned (s.xr a) (fun _ => none)
  have a' := State.accessedOwn_celled free none
  have slot := (s.celled off none).slot_asleep (ownTarget s.cur.gcore off) (s.xr a)
  rw [State.cur_celled] at slot
  refine ⟨_, run.trans (runThread_wait r (op.trans (cellSleep_heavy ((s.peek8_placed off).trans zero) heavy atomic))), ?_,
    State.mem_celled (s := s) (off := off) none, ?_⟩
  · rw [State.ctx, State.waitCycles_slot, slot]
    exact a'.ctx
  · rw [State.waitCycles_slot, slot]
    rfl

/-- A light thread leaves its record in the cell. -/
theorem exec_ctxSleep_light (zero : leNat (s.mem.readN (scratchPa s.cur.gcore off) 8) = 0) (light : (s.ctx s.cur).light = true)
    (ready : suspendReady s.begun = .ok () s.begun) :
    ∃ t, exec (.ctxSleep a) s = .next t ∧ (t.slot s.cur).ctx = none ∧
      Wrote s t (scratchPa s.cur.gcore off) (recBytes ((s.ctx s.cur).record ((s.ctx s.cur).pc + 4#64) false)) := by
  obtain ⟨m, run, op⟩ := exec_ctxSleep_own fresh idle hart address aligned free
  have atomic := cellAtomic_placed hart free (n := 64) (by omega) (by omega) aligned (s.xr a)
    (fun _ => some (recBytes ((s.ctx s.cur).record ((s.ctx s.cur).pc + 4#64) false)))
  have waits : suspendReady s.placed = .ok () s.placed := watches_suspendReady s.begun s.placed _ s.begun.waitView_wonMem ready
  obtain ⟨v, now, cur, mem⟩ := suspendNow_ends (s.celled off (some (recBytes ((s.ctx s.cur).record ((s.ctx s.cur).pc + 4#64) false))))
  have slot := v.slot_emptySlot v.cur
  rw [cur, State.cur_celled] at slot
  refine ⟨_, run.trans (runThread_gone r (op.trans (cellSleep_light ((s.peek8_placed off).trans zero) light waits atomic now))), ?_,
    wrote_after ((State.mem_emptySlot v v.cur).trans (mem.trans (State.mem_celled _)))⟩
  rw [State.passCycles_slot, cur, State.cur_celled, slot]

end

/-! ### ctx.wake -/

section
variable (r : s.Runs) (done : s.performed s.cur true true 2 = true)
include fresh idle hart address aligned free r done

omit fresh idle hart address aligned free r in
theorem State.performed_placed : s.placed.performed s.placed.cur true true 2 = true :=
  (s.begun.performed_wonMem ..).trans done

/-- A cell that holds no record is left with a pending wake. -/
theorem exec_ctxWake_empty (few : leNat (s.mem.readN (scratchPa s.cur.gcore off) 8) < 2) : ∃ t, exec (.ctxWake a d) s = .next t ∧
    WentOn s t (·.setX d.toNat 0#64) ∧ t.cur = s.cur ∧ Wrote s t (scratchPa s.cur.gcore off) (leBytes 8 1) := by
  obtain ⟨m, run, op⟩ := exec_ctxWake_own (d := d) fresh idle hart address aligned free
  have atomic := cellAtomic_placed hart free (n := 8) (by omega) (by omega) aligned (s.xr a) (fun _ => some (leBytes 8 1))
  have ends := run.trans (runThread_ok r (op.trans
    (cellWake_empty (State.performed_placed done) ((s.peek8_placed off).symm ▸ few) atomic)))
  have a' := State.accessedOwn_celled free (some (leBytes 8 1))
  have context := State.slot_modCtx_same (s.celled off (some (leBytes 8 1))) s.cur (·.setX d.toNat 0#64)
  refine ⟨_, ends, wentOn_of a'.cur a'.npc ?_ (fun h n => ?_) a'.inhibit a'.cores, (State.cur_retire _).trans a'.cur,
    wrote_after ((State.mem_retire _).trans (State.mem_celled _))⟩
  · rw [State.putX, State.cur_celled, context, a'.slot_ctx r]
    rfl
  · rw [State.putX, State.cur_celled, State.ctx, State.slot_modCtx_other _ _ _ _ n]
    exact a'.others h n

/-- A parked record is sent, and its cell is empty. -/
theorem exec_ctxWake_parked (two : 2 ≤ leNat (s.mem.readN (scratchPa s.cur.gcore off) 8)) : ∃ t, exec (.ctxWake a d) s = .next t ∧
    Wrote s t (scratchPa s.cur.gcore off) (zeros8 ++ (s.mem.readN (scratchPa s.cur.gcore off) 64).drop 8) ∧
    t.ctx s.cur = s.ctx s.cur ∧
    t.recs = s.recs ++ [(s.cur.gcore, .thread s.cur, lightOf (s.mem.readN (scratchPa s.cur.gcore off) 64))] ∧
    (t.slot s.cur).wait.map (fun w => (w.kind, w.a, w.cell)) =
      some (.recordSent, scratchPa s.cur.gcore off, s.mem.readN (scratchPa s.cur.gcore off) 64) := by
  obtain ⟨m, run, op⟩ := exec_ctxWake_own (d := d) fresh idle hart address aligned free
  have atomic := cellAtomic_placed hart free (n := 64) (by omega) (by omega) aligned (s.xr a) (fun old => some (zeros8 ++ old.drop 8))
  have ends := run.trans (runThread_wait r (op.trans
    (cellWake_parked (d := d) (State.performed_placed done) ((s.peek8_placed off).symm ▸ two) atomic)))
  have inside := free.inside
  have owner : (ownerOf s.placed.cur.gcore (s.xr a).toNat).getD s.placed.cur.gcore = s.cur.gcore := by
    rw [address, toNat_ownWindow inside, ownerOf_own _ inside]
    rfl
  rw [owner] at ends
  have slot := (s.celled off (some (zeros8 ++ (s.mem.readN (scratchPa s.cur.gcore off) 64).drop 8))).slot_sentRecord s.cur.gcore
    (scratchPa s.cur.gcore off) (dwAt (s.mem.readN (scratchPa s.cur.gcore off) 64) 0) (lightOf (s.mem.readN (scratchPa s.cur.gcore off) 64)) {}
    (s.mem.readN (scratchPa s.cur.gcore off) 64)
  rw [State.cur_celled] at slot
  refine ⟨_, ends, wrote_after (State.mem_celled _), ?_, ?_, ?_⟩
  · rw [State.ctx, State.waitCycles_slot, ownTarget, slot]
    exact (State.accessedOwn_celled free _).ctx
  · rw [State.recs_waitCycles, State.recs_sentRecord, State.recs_celled, State.cur_celled]
  · rw [State.waitCycles_slot, ownTarget, slot]
    rfl

end

end

end Sys2Proof.Machine
end

section
/-! What a read past the caches gives does not depend on whose turn it is, and the answers that ctx.wake and a sleeper wait for
(spec/07_context.md R210; spec/11_group.md R317). -/

namespace Sys2Proof.Machine

open Sys2Proof

/-! ### A read is the same in every turn -/

/-- The state as the turn of a hart finds it, with an instruction length and a next pc. -/
def State.turned (s : State) (h : Hart) (len : Nat) (pc : Word) : State := { s with cur := h, ilen := len, npc := pc }

section
variable (s : State) (h : Hart) (len : Nat) (pc : Word)

theorem State.turned_ite (p : Prop) [Decidable p] (t : State) :
    (if p then t else s).turned h len pc = if p then t.turned h len pc else s.turned h len pc :=
  apply_ite (State.turned · h len pc) p t s

theorem State.keyFor_turned (a key : Nat) : (s.turned h len pc).keyFor a key = s.keyFor a key := rfl

theorem State.emptyKey_turned (b : Nat) (e : ErrRec) : (s.turned h len pc).emptyKey b e = (s.emptyKey b e).turned h len pc := by
  unfold State.emptyKey
  split <;> rfl

theorem State.setPoison_turned (b : Nat) (p : Bool) : (s.turned h len pc).setPoison b p = (s.setPoison b p).turned h len pc := by
  cases p <;> rfl

theorem State.scrubSoft_turned (a n : Nat) : (s.turned h len pc).scrubSoft a n = (s.scrubSoft a n).turned h len pc := by
  unfold State.scrubSoft
  dsimp only
  rw [show (s.turned h len pc).soft = s.soft from rfl]
  split <;> rfl

theorem State.memPut_turned (b key : Nat) (d : BitVec 256) (p : Bool) (e : ErrRec) :
    (s.turned h len pc).memPut b key d p e = (s.memPut b key d p e).turned h len pc := by
  unfold State.memPut
  rw [State.keyFor_turned]
  cases s.keyFor b key with
  | none => exact s.emptyKey_turned h len pc b e
  | some k =>
    dsimp only
    rw [← State.setPoison_turned, State.turned_ite]
    rfl

theorem State.writeBack_turned (k : Nat) (l : L2Line) : (s.turned h len pc).writeBack k l = (s.writeBack k l).turned h len pc := by
  refine List.foldl_hom (State.turned · h len pc) fun u i => ?_
  by_cases dirty : l.dirty.getLsbD i
  · simp only [dirty, if_true, ← State.memPut_turned]
    rw [State.turned_ite]
    rfl
  · simp only [dirty, Bool.false_eq_true, if_false]

theorem State.snoop_turned (k a : Nat) (w : Bool) : (s.turned h len pc).snoop k a w = (s.snoop k a w).turned h len pc := by
  unfold State.snoop
  split
  · refine List.foldl_hom (State.turned · h len pc) fun u e => ?_
    split
    · rfl
    · refine List.foldl_hom (State.turned · h len pc) fun v l => ?_
      rw [State.writeBack_turned]
      rfl
  · rfl

theorem State.memRead_turned (b key : Nat) (e : ErrRec) : (s.turned h len pc).memRead b key e =
    ((s.memRead b key e).1.turned h len pc, (s.memRead b key e).2) := by
  unfold State.memRead
  rw [State.scrubSoft_turned]
  dsimp only
  rw [State.keyFor_turned]
  cases (s.scrubSoft b 32).keyFor b key with
  | none => exact Prod.ext (State.emptyKey_turned ..) rfl
  | some k => rfl

theorem State.cohRead_turned (b key : Nat) (e : ErrRec) : (s.turned h len pc).cohRead b key e =
    ((s.cohRead b key e).1.turned h len pc, (s.cohRead b key e).2) := by
  rw [State.cohRead, State.snoop_turned, State.memRead_turned, State.cohRead]

theorem State.directRead_turned (a n key : Nat) (e : ErrRec) : (s.turned h len pc).directRead a n key e =
    ((s.directRead a n key e).1.turned h len pc, (s.directRead a n key e).2) := by
  unfold State.directRead
  refine List.foldl_hom (init := (s, [], none)) (fun r : State × List Byte × Option Nat => (r.1.turned h len pc, r.2)) fun r b => ?_
  rw [State.cohRead_turned]

theorem State.peek8_turned (k : Nat) (t : Target) : (s.turned h len pc).peek8 k t = s.peek8 k t := by
  rw [State.peek8, State.directRead_turned]
  rfl

end

/-! ### What a wait of ctx.wake, and a sleeper's, ends in -/

section
variable {s u : State} {a d : Reg} {m : WaitMark} {bs : List Byte}

/-- The cell that a wait's mark names. -/
def WaitMark.target (m : WaitMark) : Target := { a := m.a, sram := isSram m.a, attr := m.attr }

theorem State.peek8_begun (k : Nat) (t : Target) : s.begun.peek8 k t = s.peek8 k t := s.peek8_turned s.cur s.ilen s.nextPc k t

section
variable (r : s.Runs) (answered : (s.slot s.cur).wait = some m)
include r answered

theorem exec_ctxWake_taken (taken : m.kind = .recordTaken) :
    ∃ t, exec (.ctxWake a d) s = .next t ∧ Retired s t (·.setX d.toNat 1#64) s.nextPc := by
  rw [show exec (.ctxWake a d) s = execCtxWake a d s from rfl, execCtxWake]
  refine retires_setX r ?_
  simp only [estate_bind, getX_apply, slot_apply, State.cur_begun, State.slot_begun, answered, taken, setX_apply]

variable (refused : m.kind = .recordRefused)
include refused

theorem exec_ctxWake_refused (empty : s.peek8 s.cur.cl m.target = 0)
    (back : cellAtomic (s.xr a) m.target 64 (fun _ => some m.cell) s.begun = .ok bs u) :
    exec (.ctxWake a d) s = .next ((u.takeTrap u.cur false 48 (s.xr a)).passCycles u.cur.gcore) := by
  rw [show exec (.ctxWake a d) s = execCtxWake a d s from rfl, execCtxWake]
  refine runThread_trap r ?_
  rw [WaitMark.target] at empty back
  simp only [estate_bind, estate_get, getX_apply, slot_apply, State.cur_begun, State.slot_begun, State.xr_begun, answered, refused,
    State.peek8_begun, empty, beq_self_eq_true, waitUnless_apply, if_true, back, trap_apply]

theorem exec_ctxWake_busy (busy : s.peek8 s.cur.cl m.target ≠ 0) : exec (.ctxWake a d) s = .next s.waited := by
  rw [show exec (.ctxWake a d) s = execCtxWake a d s from rfl, execCtxWake]
  refine runThread_waited r ?_
  rw [WaitMark.target] at busy
  simp only [estate_bind, estate_get, getX_apply, slot_apply, State.cur_begun, State.slot_begun, State.xr_begun, answered, refused,
    State.peek8_begun, beq_false_of_ne busy, waitUnless_apply, Bool.false_eq_true, if_false]

end

theorem exec_sleeperWake {h : Hart} (sleeps : (s.slot h).wait = some m) (woken : m.kind = .woken) (runs : s.running h = true)
    (other : s.peek8 h.cl m.target ≠ 1) : let z : State := { s with cur := h, ilen := m.len }
    ∃ t, exec (.sleeperWake h) s = .next t ∧ Retired z t id z.nextPc := by
  intro z
  have run : exec (.sleeperWake h) s = runThread (wakeUp m) z := by
    rw [show exec (.sleeperWake h) s = execSleeperWake h s from rfl, execSleeperWake]
    simp only [sleeps, woken, runs, and_self, if_true, z]
  rw [run]
  refine retires_id (s := z) runs ?_
  have peek : z.begun.peek8 h.cl m.target = s.peek8 h.cl m.target := s.peek8_turned h m.len z.nextPc h.cl m.target
  rw [WaitMark.target] at peek other
  simp only [wakeUp, estate_bind, estate_get, estate_ite, show z.begun.cur = h from rfl, peek, if_neg other, estate_pure]
  rfl

end

end Sys2Proof.Machine
end

section
/-! An access that stores leaves its hart a thread: what each step of the way to memory does to the slot of the current hart. -/

namespace Sys2Proof.Machine

open Sys2Proof

/-- The slot of the current hart holds a thread. -/
def State.occupied (s : State) : Bool := (s.slot s.cur).ctx.isSome

/-! ### Storage and controllers -/

section
variable (s : State)

@[simp] theorem State.occupied_touch (a n : Nat) (by_ : Option Hart) : (s.touch a n by_).occupied = s.occupied := by
  rw [State.occupied, State.slot_touch, show (s.touch a n by_).cur = s.cur from rfl]
  split
  · rfl
  · exact Option.isSome_map

@[simp] theorem State.occupied_modSlot {f : Slot → Slot} (keeps : ∀ t, (f t).ctx = t.ctx) :
    (s.modSlot s.cur f).occupied = s.occupied := by
  rw [State.occupied, show (s.modSlot s.cur f).cur = s.cur from rfl, State.slot_modSlot_same, keeps, State.occupied]

@[simp] theorem State.occupied_modCluster (k : Nat) (f : Cluster → Cluster) : (s.modCluster k f).occupied = s.occupied := rfl
@[simp] theorem State.occupied_modCore (g : Nat) (f : Core → Core) : (s.modCore g f).occupied = s.occupied := rfl
@[simp] theorem State.occupied_tock : s.tock.occupied = s.occupied := rfl
@[simp] theorem State.occupied_perf (g ev n : Nat) : (s.perf g ev n).occupied = s.occupied := rfl
@[simp] theorem State.occupied_error (e : ErrRec) : (s.error e).occupied = s.occupied := rfl
@[simp] theorem State.occupied_errors (es : List ErrRec) : (s.errors es).occupied = s.occupied := rfl

@[simp] theorem State.occupied_putBytes (a : Nat) (bs : List Byte) (by_ : Option Hart) :
    (s.putBytes a bs by_).occupied = s.occupied := (s.rawPut a bs).occupied_touch a bs.length by_

@[simp] theorem State.occupied_setPoison (b : Nat) (p : Bool) : (s.setPoison b p).occupied = s.occupied := by cases p <;> rfl

@[simp] theorem State.occupied_scrubSoft (a n : Nat) : (s.scrubSoft a n).occupied = s.occupied := by
  unfold State.scrubSoft
  dsimp only
  split <;> rfl

@[simp] theorem State.occupied_emptyKey (b : Nat) (e : ErrRec) : (s.emptyKey b e).occupied = s.occupied := by
  unfold State.emptyKey
  split <;> rfl

@[simp] theorem State.occupied_memPut (b key : Nat) (d : BitVec 256) (p : Bool) (e : ErrRec) :
    (s.memPut b key d p e).occupied = s.occupied := by
  unfold State.memPut
  split
  · exact s.occupied_emptyKey b e
  · rw [State.occupied_setPoison]
    split <;> rfl

@[simp] theorem State.occupied_memWrite (b key : Nat) (d : BitVec 256) (p : Bool) (by_ : Option Hart) (e : ErrRec) :
    (s.memWrite b key d p by_ e).occupied = s.occupied := by
  unfold State.memWrite
  dsimp only
  split <;> simp

@[simp] theorem State.occupied_memRead (b key : Nat) (e : ErrRec) : (s.memRead b key e).1.occupied = s.occupied := by
  unfold State.memRead
  dsimp only
  split <;> simp

end

/-! ### L2 -/

section
variable (s : State) (k : Nat)

@[simp] theorem State.occupied_writeBack (l : L2Line) : (s.writeBack k l).occupied = s.occupied := by
  refine foldl_keeps State.occupied (fun u i => ?_) _ s
  split
  · rw [State.occupied_memPut]
    split <;> rfl
  · rfl

@[simp] theorem State.occupied_snoop (a : Nat) (w : Bool) : (s.snoop k a w).occupied = s.occupied := by
  unfold State.snoop
  split
  · refine foldl_keeps State.occupied (fun u e => ?_) _ s
    split
    · rfl
    · exact foldl_keeps State.occupied (fun v l => by simp) _ u
  · rfl

@[simp] theorem State.occupied_evictWay (a w : Nat) : (s.evictWay k a w).occupied = s.occupied := by
  unfold State.evictWay
  split <;> simp

@[simp] theorem State.occupied_evictOtherKey (a key : Nat) : (s.evictOtherKey k a key).occupied = s.occupied :=
  foldl_keeps State.occupied (fun u l => by simp) _ s

@[simp] theorem State.occupied_allocate (a : Nat) (at_ : Attr) (cls asid : Nat) :
    (s.allocate k a at_ cls asid).1.occupied = s.occupied := by
  unfold State.allocate
  dsimp only
  split <;> simp

@[simp] theorem State.occupied_fillSector (l : L2Line) (i : Nat) : (s.fillSector k l i).1.occupied = s.occupied := by
  unfold State.fillSector
  split
  · rfl
  · exact s.occupied_memRead ..

@[simp] theorem State.occupied_keepLine (l : L2Line) (hit : Bool) : (s.keepLine k l hit).occupied = s.occupied := by
  cases hit <;> rfl

@[simp] theorem State.occupied_directWrite1 (a key : Nat) (bs : List Byte) (by_ : Option Hart) (e : ErrRec) :
    (s.directWrite1 k a key bs by_ e).occupied = s.occupied := by
  unfold State.directWrite1
  dsimp only
  split <;> split <;> simp [State.takeHome]

@[simp] theorem State.occupied_directWrite (a key : Nat) (bs : List Byte) (by_ : Option Hart) (e : ErrRec) :
    (s.directWrite k a key bs by_ e).occupied = s.occupied :=
  foldl_keeps State.occupied (fun u p => by simp) _ s

@[simp] theorem State.occupied_fillLine (m : Miss) : (s.fillLine k m).1.occupied = s.occupied := by
  unfold State.fillLine
  split
  · split <;> rfl
  · exact s.occupied_allocate ..

theorem State.occupied_fillSectors (is : List Nat) (l : L2Line) :
    (is.foldl (fun (x : State × L2Line) i => x.1.fillSector k x.2 i) (s, l)).1.occupied = s.occupied :=
  foldl_keeps (fun x : State × L2Line => x.1.occupied) (fun x i => x.1.occupied_fillSector k x.2 i) is (s, l)

@[simp] theorem State.occupied_fillReturn (m : Miss) : (s.fillReturn k m).occupied = s.occupied := by
  have line := (s.snoop k m.addr false).occupied_fillLine k m
  rw [State.occupied_snoop] at line
  unfold State.fillReturn
  split
  · rfl
  · split
    · next u found => rw [← line, found]
    · next u l found =>
      rw [found] at line
      dsimp only at line ⊢
      split <;> simp [State.occupied_fillSectors, line]

@[simp] theorem State.occupied_settleFill (line key : Nat) (secs : BitVec 8) : (s.settleFill k line key secs).occupied = s.occupied := by
  unfold State.settleFill
  split <;> simp

@[simp] theorem State.occupied_l2Write1 (a : Nat) (at_ : Attr) (cls asid : Nat) (bs : List Byte) (by_ : Option Hart) (hit : Bool) :
    (s.l2Write1 k a at_ cls asid bs by_ hit).occupied = s.occupied := by
  have allocated := (s.snoop k a true).occupied_allocate k a at_ cls asid
  rw [State.occupied_snoop] at allocated
  unfold State.l2Write1
  split
  · simp
  · dsimp only
    split
    · next u found =>
      rw [State.occupied_directWrite1]
      split at found
      · cases found
      · rw [← allocated, found]
    · next u l found =>
      have open_ : u.occupied = s.occupied := by
        split at found
        · cases found
          simp
        · rw [← allocated, found]
      have filled : (if l.zero = true ∨ bs.length = 32 then (u, l) else u.fillSector k l (sectorOf a)).1.occupied = s.occupied := by
        split
        · exact open_
        · exact (u.occupied_fillSector k l _).trans open_
      rw [apply_ite State.occupied, State.occupied_touch, State.occupied_memWrite, State.occupied_memRead, State.occupied_keepLine,
        filled, ite_self]

@[simp] theorem State.occupied_l2WriteBy (a : Nat) (at_ : Attr) (cls asid : Nat) (bs : List Byte) (by_ : Option Hart) (fresh : Bool) :
    (s.l2WriteBy k a at_ cls asid bs by_ fresh).occupied = s.occupied := by
  unfold State.l2WriteBy
  refine (foldl_keeps State.occupied (fun u p => by simp) _ _).trans ?_
  split
  · rfl
  · exact foldl_keeps State.occupied (fun u l => by simp) _ s

end

/-! ### Scratchpads -/

/-- What every step that is taken keeps, a list of steps that are all taken keeps. -/
theorem foldl_bind_keeps {α β γ : Type} (part : α → γ) {f : α → β → Option α} (step : ∀ a b c, f a b = some c → part c = part a)
    (l : List β) (x : Option α) (c : α) (taken : l.foldl (fun r b => r.bind (fun a => f a b)) x = some c) :
    ∃ a, x = some a ∧ part c = part a := by
  induction l generalizing x with
  | nil => exact ⟨c, taken, rfl⟩
  | cons b l ih =>
    obtain ⟨y, from_, rest⟩ := ih _ taken
    obtain ⟨a, rfl, first⟩ := Option.bind_eq_some_iff.mp from_
    exact ⟨a, rfl, rest.trans (step a b y first)⟩

section
variable (s : State)

@[simp] theorem State.occupied_logScent (g : Nat) (loc : Bool) (src slot kind op sz off : Nat) :
    (s.logScent g loc src slot kind op sz off).occupied = s.occupied := by
  unfold State.logScent
  dsimp only
  split
  · split
    · rfl
    · split
      · rfl
      · exact s.occupied_directWrite ..
  · rfl

theorem State.occupied_imposed {u : State} {g : Nat} {loc : Bool} {src slot kind op sz off : Nat}
    (passed : s.imposed g loc src slot kind op sz off = some u) : u.occupied = s.occupied := by
  unfold State.imposed at passed
  dsimp only at passed
  split at passed
  · cases passed
    rfl
  · split at passed
    · cases passed
      rfl
    · split at passed <;> cases passed
      rfl

theorem State.occupied_localStore {u : State} {h : Hart} {g off : Nat} {bs : List Byte} (stored : s.localStore h g off bs = some u) :
    u.occupied = s.occupied := by
  obtain ⟨v, from_, same⟩ := foldl_bind_keeps State.occupied (fun v p w stored => by
    obtain ⟨x, passed, rfl⟩ := Option.map_eq_some_iff.mp stored
    rw [State.occupied_logScent, State.portStore, State.occupied_putBytes, v.occupied_imposed passed]) _ (some s) u stored
  cases from_
  exact same

@[simp] theorem State.occupied_sendPort (g : Nat) (r : PortReq) : (s.sendPort g r).occupied = s.occupied := by
  unfold State.sendPort
  split <;> rfl

@[simp] theorem State.occupied_remoteStore (h : Hart) (g off : Nat) (bs : List Byte) :
    (s.remoteStore h g off bs).occupied = s.occupied :=
  foldl_keeps State.occupied (fun u p => by simp) _ s

@[simp] theorem State.occupied_poisonBlock (k b key : Nat) : (s.poisonBlock k b key).occupied = s.occupied := by
  unfold State.poisonBlock
  split
  · split
    · rw [State.occupied_modCluster]
      split <;> simp
    · simp
  · simp

end

/-! ### Operations -/

/-- Where the operation completes, the current hart holds a thread if it held one. -/
def Stays {α : Type} (m : M α) : Prop := ∀ s a t, m s = .ok a t → t.occupied = s.occupied

/-- The operation ends the turn. -/
def Never {α : Type} (m : M α) : Prop := ∀ s a t, m s ≠ .ok a t

section
variable {α β : Type}

theorem never_wait : Never (wait : M α) := fun _ _ _ => by simp [wait_apply]
theorem never_trap (c : Nat) (v : Word) : Never (trap c v : M α) := fun _ _ _ => by simp [trap_apply]

theorem Never.after {m : M α} {f : α → M β} (ends : ∀ a, Never (f a)) : Never (m >>= f) := by
  intro s b t done
  rw [estate_bind] at done
  cases run : m s with
  | ok a u => rw [run] at done; exact ends a u b t done
  | error e u => rw [run] at done; cases done

theorem Never.before {m : M α} {f : α → M β} (ends : Never m) : Never (m >>= f) := by
  intro s b t done
  rw [estate_bind] at done
  cases run : m s with
  | ok a u => exact ends s a u run
  | error e u => rw [run] at done; cases done

theorem Never.stays {m : M α} (ends : Never m) : Stays m := fun s a t done => absurd done (ends s a t)

theorem stays_pure (a : α) : Stays (pure a) := fun _ _ _ done => by cases done; rfl
theorem stays_get : Stays (get : M State) := fun _ _ _ done => by cases done; rfl
theorem stays_ctx : Stays ctx := fun _ _ _ done => by cases done; rfl
theorem stays_slot : Stays slot := fun _ _ _ done => by cases done; rfl
theorem stays_core : Stays core := fun _ _ _ done => by cases done; rfl
theorem stays_myCore : Stays myCore := fun _ _ _ done => by cases done; rfl

theorem stays_upd {f : State → State} (keeps : ∀ s, (f s).occupied = s.occupied) : Stays (upd f) := fun s _ _ done => by
  cases done
  exact keeps s

theorem stays_modCore (f : Core → Core) : Stays (modCore f) := stays_upd fun s => s.occupied_modCore ..
theorem stays_modSlot {f : Slot → Slot} (keeps : ∀ t, (f t).ctx = t.ctx) : Stays (modSlot f) :=
  stays_upd fun s => s.occupied_modSlot keeps

theorem stays_orTrap (b : Bool) (c : Nat) (v : Word) : Stays (orTrap b c v) := by
  cases b
  · exact (never_trap c v).stays
  · exact stays_pure ()

theorem stays_waitUnless (b : Bool) : Stays (waitUnless b) := by
  cases b
  · exact never_wait.stays
  · exact stays_pure ()

theorem Stays.bind {m : M α} {f : α → M β} (first : Stays m) (next : ∀ a, Stays (f a)) : Stays (m >>= f) := by
  intro s b t done
  rw [estate_bind] at done
  cases run : m s with
  | ok a u => rw [run] at done; exact (next a u b t done).trans (first s a u run)
  | error e u => rw [run] at done; cases done

theorem stays_ite {p : Prop} [Decidable p] {x y : M α} (yes : Stays x) (no : Stays y) : Stays (if p then x else y) := by
  split
  · exact yes
  · exact no

theorem stays_accessOf (acc : Acc) : Stays (accessOf acc) :=
  stays_ite (stays_pure _) (stays_get.bind fun _ => stays_ite (stays_pure _) (stays_pure _))

theorem never_joinWalk {acc : Acc} {va tv : Word} {n vpn asid : Nat} {p : Priv} : Never (joinWalk acc va tv n vpn asid p) := by
  refine Never.after fun s => Never.after fun c => Never.after fun t => Never.after fun part => ?_
  dsimp only
  split
  · exact Never.after fun _ => Never.after fun _ => never_wait
  · split
    · exact Never.after fun _ => Never.after fun _ => never_wait
    · exact Never.after fun _ => Never.after fun _ => Never.after fun _ => Never.after fun _ => never_wait

theorem stays_checkPhys {acc : Acc} {tv : Word} {p : Priv} {pa n : Nat} {at_ : Attr} : Stays (checkPhys acc tv p pa n at_) := by
  refine stays_get.bind fun s => stays_slot.bind fun t => (stays_orTrap _ _ _).bind fun _ => (stays_orTrap _ _ _).bind fun _ => ?_
  split
  · exact stays_ite (stays_pure _) ((stays_upd fun s => s.occupied_modCore ..).bind fun _ => stays_pure _)
  · exact never_wait.stays
  · exact (Never.after fun _ => never_trap _ _).stays

theorem stays_translate {va tv : Word} {n : Nat} : Stays (translate .store va tv n) := by
  refine stays_get.bind fun s => stays_slot.bind fun t => stays_ctx.bind fun c => ?_
  simp only [reduceCtorEq, if_false]
  split
  · refine (stays_orTrap _ _ _).bind fun _ => ?_
    split
    · exact (never_trap _ _).stays
    · split
      · exact (stays_upd fun s => s.occupied_modCore ..).bind fun _ => stays_pure _
      · exact never_wait.stays
      · exact (never_trap _ _).stays
  · split
    · exact (stays_orTrap _ _ _).bind fun _ => stays_checkPhys
    · refine (stays_orTrap _ _ _).bind fun _ => (stays_accessOf .store).bind fun part => ?_
      split
      split
      · exact (Never.after fun _ => (never_trap _ _).before).stays
      all_goals
        split
        · exact stays_checkPhys
        · split
          · exact (stays_modCore _).bind fun _ => (stays_upd fun s => s.occupied_perf ..).bind fun _ => stays_checkPhys
          · split
            · exact stays_ite never_joinWalk.stays stays_checkPhys
            · exact never_joinWalk.stays

theorem stays_storeScratch {a : Nat} {bs : List Byte} : Stays (storeScratch a bs) := by
  intro s x t done
  have remote : Stays (do
      waitUnless (s.sendable (scratchAt a).1 (portParts (scratchAt a).2 bs.length).length)
      upd (·.remoteStore s.cur (scratchAt a).1 (scratchAt a).2 bs)) :=
    (stays_waitUnless _).bind fun _ => stays_upd fun u => u.occupied_remoteStore ..
  rw [storeScratch, estate_bind, estate_get] at done
  dsimp only at done
  by_cases own : (scratchAt a).1 = s.cur.gcore
  · rw [if_pos own] at done
    cases stored : s.localStore s.cur (scratchAt a).1 (scratchAt a).2 bs with
    | none => rw [stored] at done; cases done
    | some u =>
      rw [stored] at done
      cases done
      exact s.occupied_localStore stored
  · rw [if_neg own] at done
    exact remote s x t done

theorem stays_storeGlobal {t : Target} {bs : List Byte} {fresh : Bool} : Stays (storeGlobal t bs fresh) := by
  have filled : Stays (waitFill t bs.length) := stays_get.bind fun _ => stays_waitUnless _
  refine stays_get.bind fun s => stays_ctx.bind fun c => filled.bind fun _ => ?_
  refine (stays_upd fun s => s.occupied_l2WriteBy ..).bind fun _ => Stays.bind ?_ fun _ => ?_
  · exact stays_upd fun s => foldl_keeps State.occupied (fun _ _ => by rfl) _ s
  · exact stays_ite (stays_pure _) (stays_upd fun _ => rfl)

theorem stays_storeTarget {t : Target} {bs : List Byte} : Stays (storeTarget t bs) :=
  stays_ite (stays_ite stays_storeScratch (stays_upd fun s => s.occupied_putBytes ..)) stays_storeGlobal

theorem stays_translateParts {tv : Word} : ∀ ps, Stays (translateParts .store tv ps)
  | [] => stays_pure _
  | _ :: ps => stays_translate.bind fun _ => (stays_translateParts ps).bind fun _ => stays_pure _

theorem stays_stallSram {a n : Nat} {st : Bool} : Stays (stallSram a n st) := by
  refine stays_core.bind fun k => (stays_waitUnless _).bind fun _ => stays_ctx.bind fun c => stays_myCore.bind fun g => ?_
  split
  · exact stays_pure _
  · dsimp only
    split
    · exact (never_trap _ _).stays
    · exact (Never.after fun _ => never_wait).stays

theorem stays_stallParts {st : Bool} : ∀ ps, Stays (stallParts st ps)
  | [] => stays_pure _
  | (t, _, n) :: ps => by
    have rest := stays_stallParts (st := st) ps
    refine stays_ite (stays_stallSram.bind fun _ => rest) (stays_ite ?_ rest)
    exact (stays_get.bind fun _ => stays_waitUnless _).bind fun _ => rest

theorem stays_storeParts : ∀ ps bs, Stays (storeParts ps bs)
  | [], _ => stays_pure _
  | _ :: ps, _ => stays_storeTarget.bind fun _ => stays_storeParts ps _

theorem stays_storeBytes {va : Word} {bs : List Byte} : Stays (storeBytes va bs) := by
  refine (stays_translateParts _).bind fun ts => (stays_stallParts ts).bind fun _ => (stays_storeParts ts bs).bind fun _ => ?_
  exact (stays_accessOf _).bind fun part => stays_modSlot fun _ => rfl

theorem stays_storeBlocks {inj : Nat → Bool} : ∀ i va bs, Stays (storeBlocks inj i va bs)
  | _, _, [] => stays_pure _
  | i, va, (bs, p) :: r => by
    have rest := stays_storeBlocks (inj := inj) (i + 1) (va + w64 bs.length) r
    refine stays_storeBytes.bind fun _ => stays_ite ?_ rest
    refine stays_translate.bind fun t => stays_ctx.bind fun c => (stays_upd fun s => ?_).bind fun _ => rest
    exact foldl_keeps State.occupied (fun u b => u.occupied_poisonBlock ..) _ _

end

end Sys2Proof.Machine
end

section
/-! ctx.ckpt, and the claim about sleep, wake and checkpoint (spec/07_context.md R202, R210, R212; spec/11_group.md R317). -/

namespace Sys2Proof.Machine

open Sys2Proof

/-- The state in which the stores of an image are under way. -/
def State.imagePosted (s : State) : State :=
  s.modSlot s.cur (fun t => { t with wait := some { kind := .posted, bits := s.ibits, len := s.ilen } })

/-- A context with the number of a checkpoint, in a register too (R212). -/
def Ctx.numbered (c : Ctx) (d : Reg) (id : Word) : Ctx := { c with ckpt := id }.setX d.toNat id

theorem Ctx.ckpt_numbered (c : Ctx) (d : Reg) (id : Word) : (c.numbered d id).ckpt = id := by
  unfold Ctx.numbered Ctx.setX
  split <;> rfl

theorem length_recBytes (r : LightRec) : (recBytes r).length = 64 := by
  simp [recBytes, length_leBytes]

/-- The context that a ctx.ckpt stores: the one that a restore goes on with (R202). -/
def State.imageCtx (s : State) (d : Reg) : Ctx :=
  let c := s.ctx s.cur
  { c with pc := c.pc + 4#64 }.numbered d (c.ckpt + 1#64)

/-- The instruction after a ctx.ckpt sets the vector type. -/
def State.vsetNext (s : State) : Bool :=
  let c := s.ctx s.cur
  (s.begun.peekCode s.cur.gcore (identOf c c.priv s.cur) c.satp (c.pc + 4#64).toNat).elim false isVset

/-- The header of its image (R202). -/
def State.imageHeader (s : State) (d : Reg) : List Byte :=
  (s.imageCtx d).header ((s.imageCtx d).flags true s.vsetNext + b2n ((s.core s.cur.gcore).imagePois (s.ctx s.cur)) * 2 ^ 14)

section
variable (s : State)

theorem State.slot_imagePosted : s.imagePosted.slot s.cur =
    { s.slot s.cur with wait := some { kind := .posted, bits := s.ibits, len := s.ilen } } := State.slot_modSlot_same ..

theorem State.performed_imagePosted (done : s.performed s.cur true true 2 = true) :
    s.imagePosted.performed s.imagePosted.cur true true 2 = true := by
  have ctx : s.imagePosted.ctx s.cur = s.ctx s.cur := by rw [State.ctx, s.slot_imagePosted, State.ctx]
  rw [State.performed] at done ⊢
  rw [show s.imagePosted.cur = s.cur from rfl, ctx]
  exact done

end

section
variable {s : State} {a d : Reg}

theorem exec_ctxCkpt_misaligned (r : s.Runs) (fresh : (s.slot s.cur).wait = none) (off : (s.xr a).toNat % 64 ≠ 0) :
    exec (.ctxCkpt a d) s = .next (s.trapped 6 (s.xr a)) := by
  rw [show exec (.ctxCkpt a d) s = execCtxCkpt a d s from rfl, execCtxCkpt]
  refine runThread_trapped r ?_
  simp [waitKind, fresh, orTrap_apply, off]

theorem exec_ctxCkpt_posted {m : WaitMark} (r : s.Runs) (answered : (s.slot s.cur).wait = some m) (posted : m.kind = .posted)
    (done : s.performed s.cur true true 2 = true) :
    ∃ t, exec (.ctxCkpt a d) s = .next t ∧ Retired s t (fun c => c.numbered d (c.ckpt + 1#64)) s.nextPc := by
  rw [show exec (.ctxCkpt a d) s = execCtxCkpt a d s from rfl, execCtxCkpt]
  refine retires_ctx (f := fun c => c.numbered d ((s.ctx s.cur).ckpt + 1#64)) r ?_
  have released := release_performed (s := s.begun) done
  have known : (((s.slot s.cur).wait.map (·.kind)) == some WaitKind.posted) = true := by rw [answered, Option.map_some, posted]; rfl
  simp only [waitKind, estate_bind, estate_pure, getX_apply, slot_apply, ctx_apply, State.cur_begun, State.slot_begun, State.ctx_begun,
    known, Bool.not_true, Bool.false_eq_true, if_false, released, modCtx_apply]
  rfl

/-- An image whose stores are performed at once is followed by the new number. -/
theorem exec_ctxCkpt_stored {u v : State} (r : s.Runs) (fresh : (s.slot s.cur).wait = none)
    (aligned : (s.xr a).toNat % 64 = 0) (settled : settleAll s.begun = .ok () s.begun)
    (blocks : storeBlocks ((s.ctx s.cur).blockInj s.injected) 0 (s.xr a + 64#64)
      ((s.core s.cur.gcore).imageBlocks (s.imageCtx d)) s.begun = .ok () u)
    (header : storeBytes (s.xr a) (s.imageHeader d) u = .ok () v) (done : v.performed v.cur true true 2 = true) :
    exec (.ctxCkpt a d) s =
      .next (v.imagePosted.modCtx v.cur (fun c => c.numbered d ((s.ctx s.cur).ckpt + 1#64))).retire := by
  rw [show exec (.ctxCkpt a d) s = execCtxCkpt a d s from rfl, execCtxCkpt]
  refine runThread_ok r ?_
  have unknown : (((s.slot s.cur).wait.map (·.kind)) == some WaitKind.posted) = false := by rw [fresh]; rfl
  have mark : setWait (some { kind := .posted }) v = .ok () v.imagePosted := rfl
  have released := release_performed (v.performed_imagePosted done)
  simp only [waitKind, estate_bind, estate_pure, estate_get, getX_apply, slot_apply, ctx_apply, core_apply, orTrap_apply, State.cur_begun,
    State.slot_begun, State.ctx_begun, State.xr_begun, unknown, Bool.not_false, if_true, aligned, decide_true, settled]
  erw [blocks]
  simp only [State.imageHeader, State.vsetNext] at header
  generalize s.begun.peekCode s.cur.gcore (identOf (s.ctx s.cur) (s.ctx s.cur).priv s.cur) (s.ctx s.cur).satp
    ((s.ctx s.cur).pc + 4#64).toNat = code at header ⊢
  dsimp only
  cases code
  all_goals
    dsimp only [Option.elim] at header ⊢
    erw [header]
    simp only [mark, released]
    rfl

end

/-- The checkpoint number of a thread that has stored its image, where its hart still holds a thread. -/
theorem State.ckpt_stored {v : State} {d : Reg} {id : Word} (holds : v.occupied = true) :
    ((v.imagePosted.modCtx v.cur (·.numbered d id)).retire.ctx v.cur).ckpt = id := by
  obtain ⟨c, found⟩ := Option.isSome_iff_exists.mp holds
  have slot := State.slot_modCtx_same v.imagePosted v.cur (·.numbered d id)
  rw [v.slot_imagePosted] at slot
  have own : ((v.imagePosted.modCtx v.cur (·.numbered d id)).slot v.cur).ctx = some (c.numbered d id) := by
    rw [slot]
    exact congrArg (Option.map _) found
  exact (congrArg Ctx.ckpt (State.retire_ctx own)).trans (c.ckpt_numbered d id)

/-- The registers of a thread that went on with one register zeroed. -/
theorem WentOn.xr_zeroed {s t : State} {d : Reg} (went : WentOn s t (·.setX d.toNat 0#64)) (cur : t.cur = s.cur) (q : Reg) :
    t.xr q = if q = d then 0#64 else s.xr q := by
  obtain ⟨own, -, -⟩ := went
  have read : t.xr q = ((s.ctx s.cur).setX d.toNat 0#64).getX q.toNat := by
    rw [State.xr, cur, own]
    rfl
  rw [read, Ctx.getX_setX]
  by_cases same : q = d
  · subst same
    by_cases zero : q.toNat = 0 <;> simp [zero]
  · rw [if_neg same, if_neg fun both => same (BitVec.eq_of_toNat_eq both.1), State.xr]

/-- The bytes of a pending wake after the first are zero. -/
theorem wake_bytes : ∀ i, i < 8 → 1 ≤ i → (leBytes 8 1).getD i 0#8 = 0#8 := by decide

/-- Settles O35: each clause is one end of ctx.sleep, ctx.wake or ctx.ckpt. -/
theorem sleepAndCheckpoint : Obligations.SleepAndCheckpoint := by
  refine ⟨⟨fun s a d off r hart fresh idle address aligned free => ?cell,
    fun s a d m r answered taken => exec_ctxWake_taken r answered taken,
    fun s u a d m bs r answered refused => ⟨exec_ctxWake_refused r answered refused, exec_ctxWake_busy r answered refused⟩,
    fun s h m sleeps woken runs other => exec_sleeperWake sleeps woken runs other,
    fun s a d r fresh idle off => ⟨exec_ctxSleep_misaligned fresh idle r off, exec_ctxWake_misaligned fresh idle r off⟩⟩,
    fun s a d m r answered posted done => exec_ctxCkpt_posted r answered posted done,
    fun s u v a d vset r fresh aligned settled => ?stored,
    fun s a d r fresh off => exec_ctxCkpt_misaligned r fresh off⟩
  case cell =>
    refine ⟨fun one => ?_, fun two => ?_, fun zero heavy => ?_, fun zero light ready => ?_, fun done => ⟨fun few => ?_, fun two => ?_⟩⟩
    · obtain ⟨t, run, went, cur, inside, outside⟩ := exec_ctxSleep_touched fresh idle hart address aligned free r one
      exact ⟨t, run, fun i low => (inside i low).trans (List.getD_replicate _ low), outside, went.xr cur, went.pc⟩
    · obtain ⟨t, run, went, mem, clusters⟩ := exec_ctxSleep_record fresh idle hart address aligned free r two
      exact ⟨t, run, went, fun p => by rw [mem], clusters⟩
    · obtain ⟨t, run, ctx, mem, wait⟩ := exec_ctxSleep_heavy fresh idle hart address aligned free r zero heavy
      exact ⟨t, run, ctx, fun p => by rw [mem], wait⟩
    · obtain ⟨t, run, gone, inside, outside⟩ := exec_ctxSleep_light fresh idle hart address aligned free r zero light ready
      rw [length_recBytes] at inside outside
      exact ⟨t, run, gone, inside, outside⟩
    · obtain ⟨t, run, went, cur, inside, outside⟩ := exec_ctxWake_empty (d := d) fresh idle hart address aligned free r done few
      refine ⟨t, run, inside 0 (by decide), fun i pos low => (inside i low).trans (wake_bytes i low pos), outside, ?_, fun q other => ?_⟩
      · rw [went.xr_zeroed cur, if_pos rfl]
      · rw [went.xr_zeroed cur, if_neg other]
    · obtain ⟨t, run, wrote, rest⟩ := exec_ctxWake_parked (d := d) fresh idle hart address aligned free r done two
      obtain ⟨zeroed, kept⟩ := wrote_zeros wrote
      exact ⟨t, run, zeroed, kept, rest⟩
  case stored =>
    intro c img k code blocks header done
    have flag : vset = s.vsetNext := by
      rw [code, State.vsetNext]
      cases s.begun.peekCode s.cur.gcore (identOf c c.priv s.cur) c.satp (c.pc + 4#64).toNat <;> rfl
    rw [flag] at header
    have holds : v.occupied = true :=
      (stays_storeBytes u _ v header).trans ((stays_storeBlocks _ _ _ s.begun _ u blocks).trans r.isSome)
    exact ⟨_, exec_ctxCkpt_stored r fresh aligned settled blocks header done,
      fun p => congrArg (Memory.read · p) (State.mem_retire _), State.ckpt_stored holds⟩

end Sys2Proof.Machine
end
